-- ==== Sys2Proof/Word.lean ====
section
/-! DEFINITION. The word types of the device (spec/00 R4, R5). -/

namespace Sys2Proof

/-- A byte of memory. -/
abbrev Byte := BitVec 8

/-- A 32-bit register, literal or instruction word. -/
abbrev Word := BitVec 32

/-- A 64-bit register pair, label word, offset or doubleword (R5). -/
abbrev DWord := BitVec 64

end Sys2Proof
end

