-- ==== Sys2Proof/Syntax.lean ====
section
/-! DEFINITION. The syntax of the device: operands as decoded (R25, R28), the modifier classes (R43), the data that
the steps without an encoding carry, and `Instr`, one constructor per row of spec/opcode_table.json. -/

namespace Sys2Proof

/-- A destination field (R25): a register, a queue code (116 + n; in the lane set a back queue, in the team set a
forward queue), or code 126. Codes 124, 125 and 127 are no destination: the decoder rejects them (R34). -/
inductive Dst where
  | reg (n : Fin 116)
  | queue (n : Fin 8)
  | zero
  deriving DecidableEq, Repr

/-- A source field (R25, R28): a register, a queue code, a literal of one word, a literal of two words, or code 126. -/
inductive Src where
  | reg (n : Fin 116)
  | queue (n : Fin 8)
  | lit (w : Word)
  | lit64 (v : DWord)
  | zero
  deriving DecidableEq, Repr

/-- A slice of the package (R9). `core` counts 0 to 383, 96 x die + core; `strand` is `none` for the address slice. -/
structure SliceId where
  core : Nat
  slot : Nat
  strand : Option Nat
  deriving DecidableEq, Repr

/-- A team by the place it stands in. -/
structure TeamId where
  core : Nat
  slot : Nat
  deriving DecidableEq, Repr

/-- A name of a slice that does not depend on where its team stands (R271). -/
structure SliceName where
  launch : Nat
  gang : Nat
  gteam : Nat
  strand : Option Nat
  deriving DecidableEq, Repr

/-- A queue that the device writes records into (R347, R348, R323, R438). -/
inductive FaultQ where
  | owner
  | guest (world : Nat)
  | trap (launch : Nat)
  | debug (slot : Nat)
  deriving DecidableEq, Repr

/-- The read-modify-write operations of R174. -/
inductive AtomicOp where
  | add | max | or | xch | cas
  deriving DecidableEq, Repr

/-- What station F of the target saw of a refused access, for the records at the source (R386, R349): label, GEN, ACTION, the position
of the label, HAVE, and F's trace word. -/
structure SeenAtF where
  label : BitVec 16
  gen : Byte
  action : BitVec 2
  pos : BitVec 2
  have6 : BitVec 6
  trace : Word
  deriving DecidableEq, Repr

/-- A packet as its source knows it: the number of its access, and which of the access's packets it is (R381, R388, R396). -/
structure PartName where
  access : Nat
  part : Nat
  deriving DecidableEq, Repr

/-- What a refusal brings back to the source (R386, R387, R389): the cause value of R102, `blocked`, a message's refusal (R413),
or a scale-out window's resend request (R397). -/
inductive RefusalInfo where
  | fault (cause : Byte) (reason : Byte) (level : BitVec 2) (seen : SeenAtF)
  | blocked
  | noHandler (reason : Byte) (handler : Nat)
  | resend
  deriving DecidableEq, Repr

/-- What a fabric packet asks of its target, or brings back to its source (R380, R386, R399, R411). `element` is a queue-load
element; `marks` is the number n of R399 or m of R411; a resume marker names the discarded stores and flags of its pair by
their `ordinal`; `record` is a poisoned element's fault record sent to the package that refused it, `ownerAck` a target owner's
acknowledgement sent to the source (R386), `grant` the unit that comes back for a packet which left the receive buffers (R406). -/
inductive PacketKind where
  | load
  | element
  | store
  | atomic (op : AtomicOp) (operand compare : DWord)
  | flag (marks : Nat)
  | copyRead
  | copyWrite
  | message (handler : Nat) (marks : Nat)
  | marker (lost flags : List Nat)
  | reply
  | ack
  | refused (r : RefusalInfo)
  | record (words : List DWord)
  | ownerAck (resume : Bool)
  | grant
  deriving DecidableEq, Repr

/-- A packet of the Reach fabric (R380). `requester` packs the identity in the layout of R103 D0 [47:11], `chan` marks a Sluice
channel, `slice` names the slice wherever it stands, `access` is the number by which the source knows the access; `off` and
`size` are the access's, `part` numbers its packets; `pos` and `pc` are what its records show (R349); `ordinal` is its place
among the slice's stores, atomics and flags toward the target (R399); `again` marks a held store sent again (R387); `payCore` and
`payEntry` are the core and the allowance entry that paid for it, entry 32 for one that takes no allowance (R406). -/
structure Packet where
  source : Nat
  target : Nat
  sourceInc : Byte
  targetInc : Byte
  requester : DWord
  chan : Bool
  slice : SliceName
  access : Nat
  world : Nat
  label : BitVec 16
  off : DWord
  have6 : BitVec 6
  pos : BitVec 2
  pc : Word
  kind : PacketKind
  size : Nat
  part : Nat
  ordinal : Nat
  again : Bool
  bucket : Nat
  seq : BitVec 16
  payCore : Nat
  payEntry : Nat
  payload : List Byte
  deriving DecidableEq, Repr

/-- The uncorrectable errors of R304. -/
inductive StorageError where
  | cleanLine (line : Nat)
  | dirtyLine (line : Nat)
  | sliceTag (slice : Nat)
  | weightBlock (die wa : Nat)
  deriving DecidableEq, Repr


/-- M class RM: rounding mode (R43). -/
inductive Rm where
  | rne | rtz | rup | rdn
  deriving DecidableEq, Repr

/-- The M value of a RM modifier (R43). -/
def Rm.code : Rm → BitVec 3
  | .rne => 0
  | .rtz => 1
  | .rup => 2
  | .rdn => 3

/-- The RM modifier that an M value names, or `none` where it is reserved (R43). -/
def Rm.ofCode (m : BitVec 3) : Option Rm :=
  if m = 0 then some .rne
  else if m = 1 then some .rtz
  else if m = 2 then some .rup
  else if m = 3 then some .rdn
  else none

/-- M class RMU: rounding mode of a signed or unsigned integer conversion (R43). -/
inductive Rmu where
  | rne | rtz | rup | rdn | urne | urtz | urup | urdn
  deriving DecidableEq, Repr

/-- The M value of a RMU modifier (R43). -/
def Rmu.code : Rmu → BitVec 3
  | .rne => 0
  | .rtz => 1
  | .rup => 2
  | .rdn => 3
  | .urne => 4
  | .urtz => 5
  | .urup => 6
  | .urdn => 7

/-- The RMU modifier that an M value names, or `none` where it is reserved (R43). -/
def Rmu.ofCode (m : BitVec 3) : Option Rmu :=
  if m = 0 then some .rne
  else if m = 1 then some .rtz
  else if m = 2 then some .rup
  else if m = 3 then some .rdn
  else if m = 4 then some .urne
  else if m = 5 then some .urtz
  else if m = 6 then some .urup
  else if m = 7 then some .urdn
  else none

/-- M class SAT: wrap, signed saturate, unsigned saturate (R43). -/
inductive Sat where
  | wrap | ss | us
  deriving DecidableEq, Repr

/-- The M value of a SAT modifier (R43). -/
def Sat.code : Sat → BitVec 3
  | .wrap => 0
  | .ss => 1
  | .us => 2

/-- The SAT modifier that an M value names, or `none` where it is reserved (R43). -/
def Sat.ofCode (m : BitVec 3) : Option Sat :=
  if m = 0 then some .wrap
  else if m = 1 then some .ss
  else if m = 2 then some .us
  else none

/-- M class SGN: signed or unsigned (R43). -/
inductive Sgn where
  | s | u
  deriving DecidableEq, Repr

/-- The M value of a SGN modifier (R43). -/
def Sgn.code : Sgn → BitVec 3
  | .s => 0
  | .u => 1

/-- The SGN modifier that an M value names, or `none` where it is reserved (R43). -/
def Sgn.ofCode (m : BitVec 3) : Option Sgn :=
  if m = 0 then some .s
  else if m = 1 then some .u
  else none

/-- M class ICC: integer condition (R43). -/
inductive Icc where
  | eq | ne | lt | ge | ltu | geu
  deriving DecidableEq, Repr

/-- The M value of a ICC modifier (R43). -/
def Icc.code : Icc → BitVec 3
  | .eq => 0
  | .ne => 1
  | .lt => 2
  | .ge => 3
  | .ltu => 4
  | .geu => 5

/-- The ICC modifier that an M value names, or `none` where it is reserved (R43). -/
def Icc.ofCode (m : BitVec 3) : Option Icc :=
  if m = 0 then some .eq
  else if m = 1 then some .ne
  else if m = 2 then some .lt
  else if m = 3 then some .ge
  else if m = 4 then some .ltu
  else if m = 5 then some .geu
  else none

/-- M class FCC: floating-point condition (R43). -/
inductive Fcc where
  | eq | ne | lt | le | gt | ge | un | or
  deriving DecidableEq, Repr

/-- The M value of a FCC modifier (R43). -/
def Fcc.code : Fcc → BitVec 3
  | .eq => 0
  | .ne => 1
  | .lt => 2
  | .le => 3
  | .gt => 4
  | .ge => 5
  | .un => 6
  | .or => 7

/-- The FCC modifier that an M value names, or `none` where it is reserved (R43). -/
def Fcc.ofCode (m : BitVec 3) : Option Fcc :=
  if m = 0 then some .eq
  else if m = 1 then some .ne
  else if m = 2 then some .lt
  else if m = 3 then some .le
  else if m = 4 then some .gt
  else if m = 5 then some .ge
  else if m = 6 then some .un
  else if m = 7 then some .or
  else none

/-- M class EXT: extension of a byte or half (R43). -/
inductive ExtMode where
  | sb | sh | zb | zh
  deriving DecidableEq, Repr

/-- The M value of a EXT modifier (R43). -/
def ExtMode.code : ExtMode → BitVec 3
  | .sb => 0
  | .sh => 1
  | .zb => 2
  | .zh => 3

/-- The EXT modifier that an M value names, or `none` where it is reserved (R43). -/
def ExtMode.ofCode (m : BitVec 3) : Option ExtMode :=
  if m = 0 then some .sb
  else if m = 1 then some .sh
  else if m = 2 then some .zb
  else if m = 3 then some .zh
  else none

/-- M class NS: narrowing: round, or round and saturate (R43). -/
inductive Ns where
  | rne | sat
  deriving DecidableEq, Repr

/-- The M value of a NS modifier (R43). -/
def Ns.code : Ns → BitVec 3
  | .rne => 0
  | .sat => 1

/-- The NS modifier that an M value names, or `none` where it is reserved (R43). -/
def Ns.ofCode (m : BitVec 3) : Option Ns :=
  if m = 0 then some .rne
  else if m = 1 then some .sat
  else none

/-- M class BYI: byte index (R43). -/
inductive Byi where
  | b0 | b1 | b2 | b3
  deriving DecidableEq, Repr

/-- The M value of a BYI modifier (R43). -/
def Byi.code : Byi → BitVec 3
  | .b0 => 0
  | .b1 => 1
  | .b2 => 2
  | .b3 => 3

/-- The BYI modifier that an M value names, or `none` where it is reserved (R43). -/
def Byi.ofCode (m : BitVec 3) : Option Byi :=
  if m = 0 then some .b0
  else if m = 1 then some .b1
  else if m = 2 then some .b2
  else if m = 3 then some .b3
  else none

/-- M class BYX: sign- or zero-extended byte index (R43). -/
inductive Byx where
  | b0 | b1 | b2 | b3 | zb0 | zb1 | zb2 | zb3
  deriving DecidableEq, Repr

/-- The M value of a BYX modifier (R43). -/
def Byx.code : Byx → BitVec 3
  | .b0 => 0
  | .b1 => 1
  | .b2 => 2
  | .b3 => 3
  | .zb0 => 4
  | .zb1 => 5
  | .zb2 => 6
  | .zb3 => 7

/-- The BYX modifier that an M value names, or `none` where it is reserved (R43). -/
def Byx.ofCode (m : BitVec 3) : Option Byx :=
  if m = 0 then some .b0
  else if m = 1 then some .b1
  else if m = 2 then some .b2
  else if m = 3 then some .b3
  else if m = 4 then some .zb0
  else if m = 5 then some .zb1
  else if m = 6 then some .zb2
  else if m = 7 then some .zb3
  else none

/-- M class SHF: shuffle mode (R43). -/
inductive Shf where
  | pick | rot | mirr | pair
  deriving DecidableEq, Repr

/-- The M value of a SHF modifier (R43). -/
def Shf.code : Shf → BitVec 3
  | .pick => 0
  | .rot => 1
  | .mirr => 2
  | .pair => 3

/-- The SHF modifier that an M value names, or `none` where it is reserved (R43). -/
def Shf.ofCode (m : BitVec 3) : Option Shf :=
  if m = 0 then some .pick
  else if m = 1 then some .rot
  else if m = 2 then some .mirr
  else if m = 3 then some .pair
  else none

/-- M class VOT: vote mode (R43). -/
inductive Vot where
  | count | first | same | maj
  deriving DecidableEq, Repr

/-- The M value of a VOT modifier (R43). -/
def Vot.code : Vot → BitVec 3
  | .count => 0
  | .first => 1
  | .same => 2
  | .maj => 3

/-- The VOT modifier that an M value names, or `none` where it is reserved (R43). -/
def Vot.ofCode (m : BitVec 3) : Option Vot :=
  if m = 0 then some .count
  else if m = 1 then some .first
  else if m = 2 then some .same
  else if m = 3 then some .maj
  else none

/-- M class RDF: floating-point reduction (R43). -/
inductive Rdf where
  | sum | max | min
  deriving DecidableEq, Repr

/-- The M value of a RDF modifier (R43). -/
def Rdf.code : Rdf → BitVec 3
  | .sum => 0
  | .max => 1
  | .min => 2

/-- The RDF modifier that an M value names, or `none` where it is reserved (R43). -/
def Rdf.ofCode (m : BitVec 3) : Option Rdf :=
  if m = 0 then some .sum
  else if m = 1 then some .max
  else if m = 2 then some .min
  else none

/-- M class RDI: integer reduction (R43). -/
inductive Rdi where
  | sum | max | min | maxu | minu | and | or | xor
  deriving DecidableEq, Repr

/-- The M value of a RDI modifier (R43). -/
def Rdi.code : Rdi → BitVec 3
  | .sum => 0
  | .max => 1
  | .min => 2
  | .maxu => 3
  | .minu => 4
  | .and => 5
  | .or => 6
  | .xor => 7

/-- The RDI modifier that an M value names, or `none` where it is reserved (R43). -/
def Rdi.ofCode (m : BitVec 3) : Option Rdi :=
  if m = 0 then some .sum
  else if m = 1 then some .max
  else if m = 2 then some .min
  else if m = 3 then some .maxu
  else if m = 4 then some .minu
  else if m = 5 then some .and
  else if m = 6 then some .or
  else if m = 7 then some .xor
  else none

/-- M class SCP: fence scope (R43). -/
inductive Scp where
  | p | l | f | s
  deriving DecidableEq, Repr

/-- The M value of a SCP modifier (R43). -/
def Scp.code : Scp → BitVec 3
  | .p => 0
  | .l => 1
  | .f => 2
  | .s => 3

/-- The SCP modifier that an M value names, or `none` where it is reserved (R43). -/
def Scp.ofCode (m : BitVec 3) : Option Scp :=
  if m = 0 then some .p
  else if m = 1 then some .l
  else if m = 2 then some .f
  else if m = 3 then some .s
  else none

/-- M class POS: label position (R43). -/
inductive Pos where
  | p1 | p2 | p3 | p4
  deriving DecidableEq, Repr

/-- The M value of a POS modifier (R43). -/
def Pos.code : Pos → BitVec 3
  | .p1 => 0
  | .p2 => 1
  | .p3 => 2
  | .p4 => 3

/-- The POS modifier that an M value names, or `none` where it is reserved (R43). -/
def Pos.ofCode (m : BitVec 3) : Option Pos :=
  if m = 0 then some .p1
  else if m = 1 then some .p2
  else if m = 2 then some .p3
  else if m = 3 then some .p4
  else none

/-- M class TWC: TWAIT condition (R43). -/
inductive Twc where
  | full | mask
  deriving DecidableEq, Repr

/-- The M value of a TWC modifier (R43). -/
def Twc.code : Twc → BitVec 3
  | .full => 0
  | .mask => 1

/-- The TWC modifier that an M value names, or `none` where it is reserved (R43). -/
def Twc.ofCode (m : BitVec 3) : Option Twc :=
  if m = 0 then some .full
  else if m = 1 then some .mask
  else none

/-- M class AFM: ACCST layout (R43). -/
inductive Afm where
  | f32 | i8 | b16
  deriving DecidableEq, Repr

/-- The M value of a AFM modifier (R43). -/
def Afm.code : Afm → BitVec 3
  | .f32 => 0
  | .i8 => 1
  | .b16 => 2

/-- The AFM modifier that an M value names, or `none` where it is reserved (R43). -/
def Afm.ofCode (m : BitVec 3) : Option Afm :=
  if m = 0 then some .f32
  else if m = 1 then some .i8
  else if m = 2 then some .b16
  else none

/-- M class WRK: kind of work (R43). -/
inductive Wrk where
  | launch | graph | phase | job
  deriving DecidableEq, Repr

/-- The M value of a WRK modifier (R43). -/
def Wrk.code : Wrk → BitVec 3
  | .launch => 0
  | .graph => 1
  | .phase => 2
  | .job => 3

/-- The WRK modifier that an M value names, or `none` where it is reserved (R43). -/
def Wrk.ofCode (m : BitVec 3) : Option Wrk :=
  if m = 0 then some .launch
  else if m = 1 then some .graph
  else if m = 2 then some .phase
  else if m = 3 then some .job
  else none

/-- M class LVL: station level (R43). -/
inductive Lvl where
  | c | d | p | f
  deriving DecidableEq, Repr

/-- The M value of a LVL modifier (R43). -/
def Lvl.code : Lvl → BitVec 3
  | .c => 0
  | .d => 1
  | .p => 2
  | .f => 3

/-- The LVL modifier that an M value names, or `none` where it is reserved (R43). -/
def Lvl.ofCode (m : BitVec 3) : Option Lvl :=
  if m = 0 then some .c
  else if m = 1 then some .d
  else if m = 2 then some .p
  else if m = 3 then some .f
  else none

/-- One constructor per row of spec/opcode_table.json: the 230 instructions of the two sets, with their operands as
decoded, and the 105 steps that no word encodes, with the plain data that say what each acts on. -/
inductive Instr where
  /-- IADD: Lane add of A and B, wrapping or saturating as M selects. (R113) -/
  | iadd (d : Dst) (a : Src) (b : Src) (m : Sat)
  /-- ISUB: Lane subtract of B from A, wrapping or saturating as M selects. (R113) -/
  | isub (d : Dst) (a : Src) (b : Src) (m : Sat)
  /-- IMUL: Lane low 32 bits of the product of A and B. (R114) -/
  | imul (d : Dst) (a : Src) (b : Src)
  /-- IMULH: Lane high 32 bits of the signed or unsigned product. (R114) -/
  | imulh (d : Dst) (a : Src) (b : Src) (m : Sgn)
  /-- IMAD: Lane multiply-add A times B plus D into D. (R114) -/
  | imad (d : Dst) (a : Src) (b : Src)
  /-- IDIV: Lane integer quotient rounded toward zero, with no trap on zero or overflow. (R115) -/
  | idiv (d : Dst) (a : Src) (b : Src) (m : Sgn)
  /-- IREM: Lane integer remainder taking the sign of A. (R115) -/
  | irem (d : Dst) (a : Src) (b : Src) (m : Sgn)
  /-- IMIN: Lane signed or unsigned minimum. (R116) -/
  | imin (d : Dst) (a : Src) (b : Src) (m : Sgn)
  /-- IMAX: Lane signed or unsigned maximum. (R116) -/
  | imax (d : Dst) (a : Src) (b : Src) (m : Sgn)
  /-- IABS: Lane absolute value of signed A. (R116) -/
  | iabs (d : Dst) (a : Src)
  /-- DADD: Lane 64-bit add on register pairs. (R117) -/
  | dadd (d : Dst) (a : Src) (b : Src)
  /-- DSUB: Lane 64-bit subtract on register pairs. (R117) -/
  | dsub (d : Dst) (a : Src) (b : Src)
  /-- DMUL: Lane low 64 bits of a 64-bit product. (R117) -/
  | dmul (d : Dst) (a : Src) (b : Src)
  /-- DNEG: Lane 64-bit negation. (R117) -/
  | dneg (d : Dst) (a : Src)
  /-- AND: Lane bitwise and. (R118) -/
  | and (d : Dst) (a : Src) (b : Src)
  /-- OR: Lane bitwise or. (R118) -/
  | or (d : Dst) (a : Src) (b : Src)
  /-- XOR: Lane bitwise exclusive or. (R118) -/
  | xor (d : Dst) (a : Src) (b : Src)
  /-- ANDN: Lane A and not B. (R118) -/
  | andn (d : Dst) (a : Src) (b : Src)
  /-- NOT: Lane bitwise complement. (R118) -/
  | not (d : Dst) (a : Src)
  /-- SHL: Lane logical shift left. (R119) -/
  | shl (d : Dst) (a : Src) (b : Src)
  /-- SHR: Lane logical shift right. (R119) -/
  | shr (d : Dst) (a : Src) (b : Src)
  /-- SAR: Lane arithmetic shift right. (R119) -/
  | sar (d : Dst) (a : Src) (b : Src)
  /-- ROL: Lane rotate left. (R119) -/
  | rol (d : Dst) (a : Src) (b : Src)
  /-- ROR: Lane rotate right. (R119) -/
  | ror (d : Dst) (a : Src) (b : Src)
  /-- BFX: Lane bit-field extract, sign- or zero-extended. (R121) -/
  | bfx (d : Dst) (a : Src) (b : Src) (m : Sgn)
  /-- BFI: Lane bit-field insert into D. (R121) -/
  | bfi (d : Dst) (a : Src) (b : Src)
  /-- POPC: Lane population count. (R122) -/
  | popc (d : Dst) (a : Src)
  /-- CLZ: Lane count of leading zeros. (R122) -/
  | clz (d : Dst) (a : Src)
  /-- CTZ: Lane count of trailing zeros. (R122) -/
  | ctz (d : Dst) (a : Src)
  /-- BREV: Lane bit reversal. (R122) -/
  | brev (d : Dst) (a : Src)
  /-- DSHL: Lane 64-bit shift left. (R120) -/
  | dshl (d : Dst) (a : Src) (b : Src)
  /-- DSHR: Lane 64-bit signed or unsigned shift right. (R120) -/
  | dshr (d : Dst) (a : Src) (b : Src) (m : Sgn)
  /-- ICMP: Lane integer compare writing 1 or 0. (R123) -/
  | icmp (d : Dst) (a : Src) (b : Src) (m : Icc)
  /-- DCMP: Lane 64-bit integer compare writing 1 or 0. (R123) -/
  | dcmp (d : Dst) (a : Src) (b : Src) (m : Icc)
  /-- SEL: Lane select of A or B on D's old value. (R124) -/
  | sel (d : Dst) (a : Src) (b : Src)
  /-- MOV: Lane move, including queue pops and pushes. (R125) -/
  | mov (d : Dst) (a : Src)
  /-- DMOV: Lane 64-bit pair move. (R125) -/
  | dmov (d : Dst) (a : Src)
  /-- SREAD: Lane read of a special register. (R128) -/
  | sread (d : Dst) (imm : BitVec 17)
  /-- SWRITE: Lane write of a writable special register. (R128) -/
  | swrite (a : Src) (imm : BitVec 17)
  /-- CVTIF: Lane 32-bit integer to FP32 conversion. (R129) -/
  | cvtif (d : Dst) (a : Src) (m : Rmu)
  /-- CVTFI: Lane FP32 to 32-bit integer conversion. (R130) -/
  | cvtfi (d : Dst) (a : Src) (m : Rmu)
  /-- CVTDF: Lane 64-bit integer to FP32 conversion. (R129) -/
  | cvtdf (d : Dst) (a : Src) (m : Rmu)
  /-- CVTFD: Lane FP32 to 64-bit integer conversion. (R130) -/
  | cvtfd (d : Dst) (a : Src) (m : Rmu)
  /-- EXT: Lane sign or zero extension of a byte or half. (R127) -/
  | ext (d : Dst) (a : Src) (m : ExtMode)
  /-- DEXT: Lane extension of a word to 64 bits. (R127) -/
  | dext (d : Dst) (a : Src) (m : Sgn)
  /-- LDI: Lane load of a sign-extended 17-bit immediate. (R126) -/
  | ldi (d : Dst) (imm : BitVec 17)
  /-- ALWR: Lane read of the allowance entry state for a destination package. (R408) -/
  | alwr (d : Dst) (a : Src)
  /-- BRA: Lane unconditional branch. (R132) -/
  | bra (imm : BitVec 17)
  /-- BNZ: Lane branch if source non-zero. (R132) -/
  | bnz (a : Src) (imm : BitVec 17)
  /-- BZ: Lane branch if source zero. (R132) -/
  | bz (a : Src) (imm : BitVec 17)
  /-- CALL: Lane call to a PC-relative target, pushing the return PC. (R133) -/
  | call (imm : BitVec 17)
  /-- CALLR: Lane call to a register target. (R133) -/
  | callr (a : Src)
  /-- JMPR: Lane jump to a register target. (R134) -/
  | jmpr (a : Src)
  /-- RET: Lane return through the call stack. (R134) -/
  | ret
  /-- EXIT: Lane end of the strand. (R137) -/
  | exit
  /-- TRAP: Lane program trap with a code. (R138) -/
  | trap (imm : BitVec 17)
  /-- BKPT: Lane breakpoint trap with a code. (R138) -/
  | bkpt (imm : BitVec 17)
  /-- YIELD: Lane yield resetting the strand's ready time. (R139) -/
  | yield
  /-- NOP: Lane no operation. (R139) -/
  | nop
  /-- BALW: Lane branch if a one-unit allowance charge would succeed. (R409) -/
  | balw (a : Src) (imm : BitVec 17)
  /-- FADD: FP32 add. (R145) -/
  | fadd (d : Dst) (a : Src) (b : Src) (m : Rm)
  /-- FSUB: FP32 subtract. (R145) -/
  | fsub (d : Dst) (a : Src) (b : Src) (m : Rm)
  /-- FMUL: FP32 multiply. (R145) -/
  | fmul (d : Dst) (a : Src) (b : Src) (m : Rm)
  /-- FMIN: FP32 minimum. (R149) -/
  | fmin (d : Dst) (a : Src) (b : Src)
  /-- FMAX: FP32 maximum. (R149) -/
  | fmax (d : Dst) (a : Src) (b : Src)
  /-- FABS: FP32 absolute value. (R150) -/
  | fabs (d : Dst) (a : Src)
  /-- FMAC: FP32 fused multiply-add into D. (R146) -/
  | fmac (d : Dst) (a : Src) (b : Src) (m : Rm)
  /-- FNMAC: FP32 fused D minus A times B. (R146) -/
  | fnmac (d : Dst) (a : Src) (b : Src) (m : Rm)
  /-- FDIV: FP32 divide. (R145) -/
  | fdiv (d : Dst) (a : Src) (b : Src) (m : Rm)
  /-- FSQRT: FP32 square root. (R147) -/
  | fsqrt (d : Dst) (a : Src) (m : Rm)
  /-- FRCP: FP32 reciprocal. (R148) -/
  | frcp (d : Dst) (a : Src)
  /-- FRSQ: FP32 reciprocal square root. (R148) -/
  | frsq (d : Dst) (a : Src)
  /-- FEXP2: FP32 base-2 exponential. (R148) -/
  | fexp2 (d : Dst) (a : Src)
  /-- FLOG2: FP32 base-2 logarithm. (R148) -/
  | flog2 (d : Dst) (a : Src)
  /-- FNEG: FP32 negation. (R150) -/
  | fneg (d : Dst) (a : Src)
  /-- FCMP: FP32 compare writing 1 or 0. (R151) -/
  | fcmp (d : Dst) (a : Src) (b : Src) (m : Fcc)
  /-- FCLASS: FP32 classification into a one-hot word. (R152) -/
  | fclass (d : Dst) (a : Src)
  /-- FRND: FP32 round to integral value. (R153) -/
  | frnd (d : Dst) (a : Src) (m : Rm)
  /-- CVTBF: FP32 to BF16 conversion. (R155) -/
  | cvtbf (d : Dst) (a : Src) (m : Ns)
  /-- CVTFB: BF16 to FP32 conversion. (R155) -/
  | cvtfb (d : Dst) (a : Src)
  /-- CVTE4: FP32 to E4M3 conversion. (R155) -/
  | cvte4 (d : Dst) (a : Src) (m : Ns)
  /-- CVTE5: FP32 to E5M2 conversion. (R155) -/
  | cvte5 (d : Dst) (a : Src) (m : Ns)
  /-- CVT4F: E4M3 to FP32 conversion. (R155) -/
  | cvt4f (d : Dst) (a : Src)
  /-- CVT5F: E5M2 to FP32 conversion. (R155) -/
  | cvt5f (d : Dst) (a : Src)
  /-- QNT8: Quantise FP32 to INT8 under an E8M0 scale. (R156) -/
  | qnt8 (d : Dst) (a : Src) (b : Src) (m : Ns)
  /-- DQ8: Dequantise INT8 to FP32 under a scale. (R157) -/
  | dq8 (d : Dst) (a : Src) (b : Src)
  /-- QNT4: Quantise FP32 to INT4 under an E8M0 scale. (R156) -/
  | qnt4 (d : Dst) (a : Src) (b : Src) (m : Ns)
  /-- DQ4: Dequantise INT4 to FP32 under a scale. (R157) -/
  | dq4 (d : Dst) (a : Src) (b : Src)
  /-- BPACK: Replace one byte of D with A's low byte. (R158) -/
  | bpack (d : Dst) (a : Src) (m : Byi)
  /-- BUNPK: Extract and extend one byte of A. (R158) -/
  | bunpk (d : Dst) (a : Src) (m : Byx)
  /-- FSCL: FP32 scale by a power of two. (R154) -/
  | fscl (d : Dst) (a : Src) (b : Src) (m : Rm)
  /-- SETC: Install the strand's circle mask. (R160) -/
  | setc (a : Src)
  /-- JOIN: Collective rendezvous that waits for members' stores and atomics. (R164) -/
  | join
  /-- SHFL: Collective exchange of A values among circle members. (R165) -/
  | shfl (d : Dst) (a : Src) (b : Src) (m : Shf)
  /-- VOTE: Collective vote over members' A. (R166) -/
  | vote (d : Dst) (a : Src) (m : Vot)
  /-- SIFT: Collective 64-bit mask of members with non-zero A. (R166) -/
  | sift (d : Dst) (a : Src)
  /-- CREDF: Collective FP32 reduction. (R167) -/
  | credf (d : Dst) (a : Src) (m : Rdf)
  /-- CREDI: Collective integer reduction. (R168) -/
  | credi (d : Dst) (a : Src) (m : Rdi)
  /-- LDW: Lane 4-byte load through a label register. (R172) -/
  | ldw (d : Dst) (a : Src) (b : Src) (l : Fin 8)
  /-- LDD: Lane 8-byte load into a pair. (R172) -/
  | ldd (d : Dst) (a : Src) (b : Src) (l : Fin 8)
  /-- LDH: Lane zero-extended 2-byte load. (R172) -/
  | ldh (d : Dst) (a : Src) (b : Src) (l : Fin 8)
  /-- LDB: Lane zero-extended 1-byte load. (R172) -/
  | ldb (d : Dst) (a : Src) (b : Src) (l : Fin 8)
  /-- STW: Lane 4-byte store. (R172) -/
  | stw (d : Dst) (a : Src) (b : Src) (l : Fin 8)
  /-- STD: Lane 8-byte store from a pair. (R172) -/
  | std (d : Dst) (a : Src) (b : Src) (l : Fin 8)
  /-- STH: Lane 2-byte store. (R172) -/
  | sth (d : Dst) (a : Src) (b : Src) (l : Fin 8)
  /-- STB: Lane 1-byte store. (R172) -/
  | stb (d : Dst) (a : Src) (b : Src) (l : Fin 8)
  /-- LDE: Lane element load from a hallmarked block as FP32. (R173) -/
  | lde (d : Dst) (a : Src) (b : Src) (l : Fin 8)
  /-- LDX: Lane 4-byte load through an explicit label word. (R172) -/
  | ldx (d : Dst) (a : Src) (b : Src)
  /-- STX: Lane 4-byte store through an explicit label word. (R172) -/
  | stx (d : Dst) (a : Src) (b : Src)
  /-- AADD: Lane atomic add returning the old value. (R174) -/
  | aadd (d : Dst) (a : Src) (b : Src) (l : Fin 8)
  /-- AMAX: Lane atomic signed maximum. (R174) -/
  | amax (d : Dst) (a : Src) (b : Src) (l : Fin 8)
  /-- AOR: Lane atomic or. (R174) -/
  | aor (d : Dst) (a : Src) (b : Src) (l : Fin 8)
  /-- AXCH: Lane atomic exchange. (R174) -/
  | axch (d : Dst) (a : Src) (b : Src) (l : Fin 8)
  /-- ACAS: Lane atomic compare-and-swap. (R174) -/
  | acas (d : Dst) (a : Src) (b : Src) (l : Fin 8)
  /-- AADDD: Lane 64-bit atomic add. (R174) -/
  | aaddd (d : Dst) (a : Src) (b : Src) (l : Fin 8)
  /-- ACASD: Lane 64-bit atomic compare-and-swap. (R174) -/
  | acasd (d : Dst) (a : Src) (b : Src) (l : Fin 8)
  /-- FENCE: Lane fence of the scope that M selects. (R373) -/
  | fence (m : Scp)
  /-- FENCEF: Lane fabric flag store ordered after earlier accesses to the target. (R399) -/
  | fencef (d : Dst) (a : Src) (b : Src) (l : Fin 8)
  /-- WAITA: Lane wait until a word differs from D. (R284) -/
  | waita (d : Dst) (a : Src) (b : Src) (l : Fin 8)
  /-- BARV: Lane arrival on a barrier returning the phase. (R282) -/
  | barv (d : Dst) (a : Src) (b : Src)
  /-- BARW: Lane wait for a barrier phase to complete. (R283) -/
  | barw (a : Src) (b : Src)
  /-- AMSG: Lane active message send to a handler at a target package. (R411) -/
  | amsg (d : Dst) (a : Src) (b : Src)
  /-- TEAM_IADD: Team add on k registers. (R113) -/
  | teamIadd (d : Dst) (a : Src) (b : Src) (m : Sat)
  /-- TEAM_ISUB: Team subtract. (R113) -/
  | teamIsub (d : Dst) (a : Src) (b : Src) (m : Sat)
  /-- TEAM_IMUL: Team low product. (R114) -/
  | teamImul (d : Dst) (a : Src) (b : Src)
  /-- TEAM_IMULH: Team high product. (R114) -/
  | teamImulh (d : Dst) (a : Src) (b : Src) (m : Sgn)
  /-- TEAM_IMAD: Team multiply-add. (R114) -/
  | teamImad (d : Dst) (a : Src) (b : Src)
  /-- TEAM_IDIV: Team integer quotient. (R115) -/
  | teamIdiv (d : Dst) (a : Src) (b : Src) (m : Sgn)
  /-- TEAM_IREM: Team integer remainder. (R115) -/
  | teamIrem (d : Dst) (a : Src) (b : Src) (m : Sgn)
  /-- TEAM_IMIN: Team minimum. (R116) -/
  | teamImin (d : Dst) (a : Src) (b : Src) (m : Sgn)
  /-- TEAM_IMAX: Team maximum. (R116) -/
  | teamImax (d : Dst) (a : Src) (b : Src) (m : Sgn)
  /-- TEAM_IABS: Team absolute value. (R116) -/
  | teamIabs (d : Dst) (a : Src)
  /-- TEAM_DADD: Team 64-bit add. (R117) -/
  | teamDadd (d : Dst) (a : Src) (b : Src)
  /-- TEAM_DSUB: Team 64-bit subtract. (R117) -/
  | teamDsub (d : Dst) (a : Src) (b : Src)
  /-- TEAM_DMUL: Team 64-bit multiply. (R117) -/
  | teamDmul (d : Dst) (a : Src) (b : Src)
  /-- TEAM_DNEG: Team 64-bit negation. (R117) -/
  | teamDneg (d : Dst) (a : Src)
  /-- TEAM_AND: Team bitwise and. (R118) -/
  | teamAnd (d : Dst) (a : Src) (b : Src)
  /-- TEAM_OR: Team bitwise or. (R118) -/
  | teamOr (d : Dst) (a : Src) (b : Src)
  /-- TEAM_XOR: Team exclusive or. (R118) -/
  | teamXor (d : Dst) (a : Src) (b : Src)
  /-- TEAM_ANDN: Team and-not. (R118) -/
  | teamAndn (d : Dst) (a : Src) (b : Src)
  /-- TEAM_NOT: Team complement. (R118) -/
  | teamNot (d : Dst) (a : Src)
  /-- TEAM_SHL: Team shift left. (R119) -/
  | teamShl (d : Dst) (a : Src) (b : Src)
  /-- TEAM_SHR: Team logical shift right. (R119) -/
  | teamShr (d : Dst) (a : Src) (b : Src)
  /-- TEAM_SAR: Team arithmetic shift right. (R119) -/
  | teamSar (d : Dst) (a : Src) (b : Src)
  /-- TEAM_ROL: Team rotate left. (R119) -/
  | teamRol (d : Dst) (a : Src) (b : Src)
  /-- TEAM_ROR: Team rotate right. (R119) -/
  | teamRor (d : Dst) (a : Src) (b : Src)
  /-- TEAM_BFX: Team bit-field extract. (R121) -/
  | teamBfx (d : Dst) (a : Src) (b : Src) (m : Sgn)
  /-- TEAM_BFI: Team bit-field insert. (R121) -/
  | teamBfi (d : Dst) (a : Src) (b : Src)
  /-- TEAM_POPC: Team population count. (R122) -/
  | teamPopc (d : Dst) (a : Src)
  /-- TEAM_CLZ: Team leading zeros. (R122) -/
  | teamClz (d : Dst) (a : Src)
  /-- TEAM_CTZ: Team trailing zeros. (R122) -/
  | teamCtz (d : Dst) (a : Src)
  /-- TEAM_BREV: Team bit reversal. (R122) -/
  | teamBrev (d : Dst) (a : Src)
  /-- TEAM_DSHL: Team 64-bit shift left. (R120) -/
  | teamDshl (d : Dst) (a : Src) (b : Src)
  /-- TEAM_DSHR: Team 64-bit shift right. (R120) -/
  | teamDshr (d : Dst) (a : Src) (b : Src) (m : Sgn)
  /-- TEAM_ICMP: Team integer compare. (R123) -/
  | teamIcmp (d : Dst) (a : Src) (b : Src) (m : Icc)
  /-- TEAM_DCMP: Team 64-bit compare. (R123) -/
  | teamDcmp (d : Dst) (a : Src) (b : Src) (m : Icc)
  /-- TEAM_SEL: Team select. (R124) -/
  | teamSel (d : Dst) (a : Src) (b : Src)
  /-- TEAM_MOV: Team move, pushing forward queues or popping back queues. (R125) -/
  | teamMov (d : Dst) (a : Src)
  /-- TEAM_DMOV: Team pair move. (R125) -/
  | teamDmov (d : Dst) (a : Src)
  /-- TEAM_SREAD: Team special register read. (R128) -/
  | teamSread (d : Dst) (imm : BitVec 17)
  /-- TEAM_SWRITE: Team special register write. (R128) -/
  | teamSwrite (a : Src) (imm : BitVec 17)
  /-- TEAM_CVTIF: Team integer to FP32. (R129) -/
  | teamCvtif (d : Dst) (a : Src) (m : Rmu)
  /-- TEAM_CVTFI: Team FP32 to integer. (R130) -/
  | teamCvtfi (d : Dst) (a : Src) (m : Rmu)
  /-- TEAM_CVTDF: Team 64-bit integer to FP32. (R129) -/
  | teamCvtdf (d : Dst) (a : Src) (m : Rmu)
  /-- TEAM_CVTFD: Team FP32 to 64-bit integer. (R130) -/
  | teamCvtfd (d : Dst) (a : Src) (m : Rmu)
  /-- TEAM_EXT: Team byte or half extension. (R127) -/
  | teamExt (d : Dst) (a : Src) (m : ExtMode)
  /-- TEAM_DEXT: Team extension to 64 bits. (R127) -/
  | teamDext (d : Dst) (a : Src) (m : Sgn)
  /-- TEAM_LDI: Team immediate load. (R126) -/
  | teamLdi (d : Dst) (imm : BitVec 17)
  /-- TEAM_ALWR: Team read of allowance entry state. (R408) -/
  | teamAlwr (d : Dst) (a : Src)
  /-- TEAM_BRA: Team unconditional branch. (R132) -/
  | teamBra (imm : BitVec 17)
  /-- TEAM_BNZ: Team branch if non-zero. (R132) -/
  | teamBnz (a : Src) (imm : BitVec 17)
  /-- TEAM_BZ: Team branch if zero. (R132) -/
  | teamBz (a : Src) (imm : BitVec 17)
  /-- TEAM_CALL: Team call on the address slice's own stack. (R226) -/
  | teamCall (imm : BitVec 17)
  /-- TEAM_CALLR: Team register call. (R226) -/
  | teamCallr (a : Src)
  /-- TEAM_JMPR: Team register jump. (R134) -/
  | teamJmpr (a : Src)
  /-- TEAM_RET: Team return. (R226) -/
  | teamRet
  /-- TEAM_EXIT: End of the address slice. (R239) -/
  | teamExit
  /-- TEAM_TRAP: Team program trap; the address slice traps alone. (R226) -/
  | teamTrap (imm : BitVec 17)
  /-- TEAM_BKPT: Team breakpoint trap. (R226) -/
  | teamBkpt (imm : BitVec 17)
  /-- TEAM_YIELD: Team yield passing over one round-robin turn. (R226) -/
  | teamYield
  /-- TEAM_NOP: Team no operation. (R139) -/
  | teamNop
  /-- TEAM_BALW: Team branch on allowance. (R409) -/
  | teamBalw (a : Src) (imm : BitVec 17)
  /-- QLD: Queue load of one LANE entry with a per-strand stride. (R228) -/
  | qld (d : Dst) (a : Src) (b : Src) (l : Fin 8)
  /-- QLDU: Queue load of one UNIFORM entry. (R228) -/
  | qldu (d : Dst) (a : Src) (b : Src) (l : Fin 8)
  /-- QLDG: Queue gather using indices popped from a LANE back queue. (R229) -/
  | qldg (d : Dst) (a : Src) (b : Src) (l : Fin 8)
  /-- QSTS: Scatter of a LANE back-queue entry to memory, precise as a whole. (R231) -/
  | qsts (d : Dst) (a : Src) (b : Src) (l : Fin 8)
  /-- SETL: Write a label register. (R233) -/
  | setl (a : Src) (l : Fin 8)
  /-- GETL: Read a label register into a pair. (R233) -/
  | getl (d : Dst) (l : Fin 8)
  /-- MKL: Insert a 16-bit label at a position of a label word in D. (R234) -/
  | mkl (d : Dst) (a : Src) (m : Pos)
  /-- LDL: Load a label register from memory. (R235) -/
  | ldl (a : Src) (b : Src) (l : Fin 8)
  /-- QOCC: Read a queue's occupancy without waiting. (R232) -/
  | qocc (d : Dst) (imm : BitVec 17)
  /-- CPY: Issue a copy from memory into tile chunks. (R250) -/
  | cpy (d : Dst) (a : Src) (b : Src) (l : Fin 8)
  /-- CPYM: Issue a copy that hands a follow-on array command to the array when it lands. (R253) -/
  | cpym (d : Dst) (a : Src) (b : Src) (l : Fin 8)
  /-- CPYS: Issue a copy of tile chunks to memory that empties the tile. (R250) -/
  | cpys (d : Dst) (a : Src) (b : Src) (l : Fin 8)
  /-- TWAIT: Stall until a tile or slot condition holds. (R262) -/
  | twait (a : Src) (b : Src) (m : Twc)
  /-- TEMPTY: Issue a command that empties a tile or slot when eligible. (R263) -/
  | tempty (a : Src)
  /-- TSTAT: Read a tile or slot status word or MAP. (R264) -/
  | tstat (d : Dst) (a : Src)
  /-- WLD: Issue a fill of a weight slot from 62 TRIT5 blocks. (R252) -/
  | wld (d : Dst) (a : Src) (b : Src) (l : Fin 8)
  /-- WST: Issue a copy of tile chunks to the weight store. (R250) -/
  | wst (d : Dst) (a : Src) (b : Src) (l : Fin 8)
  /-- MMAT: Issue a ternary-times-INT8 array command into an accumulator. (R256) -/
  | mmat (d : Dst) (a : Src) (b : Src)
  /-- MMAD: Issue an INT8-times-INT8 array command into an accumulator. (R256) -/
  | mmad (d : Dst) (a : Src) (b : Src)
  /-- MMAZ: Issue a command zeroing accumulator rows. (R259) -/
  | mmaz (d : Dst) (a : Src)
  /-- ACCST: Issue a write of an accumulator to a tile in a chosen layout. (R259) -/
  | accst (d : Dst) (a : Src) (b : Src) (m : Afm)
  /-- ACCV: Read an accumulator's version and status without waiting. (R260) -/
  | accv (d : Dst) (a : Src)
  /-- CPYF: Issue a copy that writes a flag in a gang team's tiles when it lands. (R253) -/
  | cpyf (d : Dst) (a : Src) (b : Src) (l : Fin 8)
  /-- TEAM_BARV: Team arrival on a barrier. (R282) -/
  | teamBarv (d : Dst) (a : Src) (b : Src)
  /-- TEAM_BARW: Team wait for a barrier phase. (R283) -/
  | teamBarw (a : Src) (b : Src)
  /-- TEAM_WAITA: Team wait for a word to change. (R284) -/
  | teamWaita (d : Dst) (a : Src) (b : Src) (l : Fin 8)
  /-- LAUNCH: Submit a launch record to a LAUNCH-fed queue. (R329) -/
  | launch (d : Dst) (a : Src) (b : Src) (l : Fin 8)
  /-- CNTA: Add to a completion counter after earlier stores are performed. (R330) -/
  | cnta (a : Src) (b : Src)
  /-- CNTW: Stall until a completion counter reaches a value. (R331) -/
  | cntw (a : Src) (b : Src)
  /-- CANCEL: Cancel every launch of the world naming a counter of the chosen kind. (R332) -/
  | cancel (a : Src) (m : Wrk)
  /-- WREF: Read a weight-store bank's refresh state. (R302) -/
  | wref (d : Dst) (a : Src)
  /-- LINV: Invalidate station copies of a label at a level and wait for in-flight users. (R344) -/
  | linv (a : Src) (m : Lvl)
  /-- FLUSHR: Write back and drop every cached line of a range. (R345) -/
  | flushr (a : Src) (b : Src) (l : Fin 8)
  /-- TEAM_AMSG: Team active message send. (R411) -/
  | teamAmsg (d : Dst) (a : Src) (b : Src)
  /-- TEAM_LDW: Team 4-byte load, held behind queue loads. (R237) -/
  | teamLdw (d : Dst) (a : Src) (b : Src) (l : Fin 8)
  /-- TEAM_LDD: Team 8-byte load. (R237) -/
  | teamLdd (d : Dst) (a : Src) (b : Src) (l : Fin 8)
  /-- TEAM_STW: Team 4-byte store. (R237) -/
  | teamStw (d : Dst) (a : Src) (b : Src) (l : Fin 8)
  /-- TEAM_STD: Team 8-byte store. (R237) -/
  | teamStd (d : Dst) (a : Src) (b : Src) (l : Fin 8)
  /-- TEAM_LDX: Team load through an explicit label word. (R237) -/
  | teamLdx (d : Dst) (a : Src) (b : Src)
  /-- TEAM_STX: Team store through an explicit label word. (R237) -/
  | teamStx (d : Dst) (a : Src) (b : Src)
  /-- TEAM_AADD: Team atomic add. (R237) -/
  | teamAadd (d : Dst) (a : Src) (b : Src) (l : Fin 8)
  /-- TEAM_AMAX: Team atomic maximum. (R237) -/
  | teamAmax (d : Dst) (a : Src) (b : Src) (l : Fin 8)
  /-- TEAM_AXCH: Team atomic exchange. (R237) -/
  | teamAxch (d : Dst) (a : Src) (b : Src) (l : Fin 8)
  /-- TEAM_ACAS: Team atomic compare-and-swap. (R237) -/
  | teamAcas (d : Dst) (a : Src) (b : Src) (l : Fin 8)
  /-- TEAM_AADDD: Team 64-bit atomic add. (R237) -/
  | teamAaddd (d : Dst) (a : Src) (b : Src) (l : Fin 8)
  /-- TEAM_ACASD: Team 64-bit compare-and-swap. (R237) -/
  | teamAcasd (d : Dst) (a : Src) (b : Src) (l : Fin 8)
  /-- TEAM_FENCE: Team fence of the chosen scope. (R373) -/
  | teamFence (m : Scp)
  /-- TEAM_FENCEF: Team fabric flag fence. (R399) -/
  | teamFencef (d : Dst) (a : Src) (b : Src) (l : Fin 8)
  /-- ILLEGAL_OP: Fetch of a word whose opcode is unassigned in its set traps precisely. (R55) -/
  | illegalOp (w : Word)
  /-- WRONG_SLICE: Fetch of a word of the other set traps at that word. (R238) -/
  | wrongSlice (w : Word)
  /-- FETCH_RANGE: Fetch of an instruction lying beyond the code segment traps. (R32) -/
  | fetchRange (off : Word)
  /-- WAKE: A parked or stalled slice is made runnable once its awaited condition holds and re-examines its instruction. (R98) -/
  | wake (id : SliceId)
  /-- LOAD_COMPLETE: Data of an accepted load or atomic arrives and writes its destination, clearing the scoreboard mark. (R176) -/
  | loadComplete (n : Nat) (reply : List Byte)
  /-- QUEUE_ELEMENT_PERFORM: A queue-load element is performed in the address slice's load order, checked against its lease, or poisoned. (R197) -/
  | queueElementPerform (t : TeamId) (fetch : Option (Nat × Nat × Nat))
  /-- HOME_STORE: A home slice performs a store at its line, taking a timestamp and waking recorded WAITA cores. (R293) -/
  | homeStore (n : Nat)
  /-- HOME_ATOMIC: A home slice performs an atomic by decrypting, operating, re-encrypting and replying. (R294) -/
  | homeAtomic (n : Nat)
  /-- LEASE_RENEWAL: A home slice renews a line's read lease and returns data and lease. (R359) -/
  | leaseRenewal (n : Nat)
  /-- LINE_FILL: An absent line is filled from the memory-side cache, evicting and folding timestamps into mts. (R293) -/
  | lineFill (line : Nat) (victim : Option Nat)
  /-- MSC_FILL: The memory-side cache fills a line and chooses a victim under partition quotas. (R354) -/
  | mscFill (line : Nat) (owner : Bool) (world : Nat)
  /-- WAITA_WAKE: A woken WAITA re-reads its word and completes or parks again. (R285) -/
  | waitaWake (id : SliceId)
  /-- CT_TICK: A core's logical time rises by 1 after 128 unchanged ac cycles. (R362) -/
  | ctTick (core : Nat)
  /-- DROWSY: A bank segment untouched for 256 ac cycles drops to retention voltage. (R213) -/
  | drowsy (core seg : Nat)
  /-- COPY_START: An eligible Sluice command starts, claiming chunks. (R242) -/
  | copyStart (core chan : Nat)
  /-- CHUNK_LAND: A walked copy chunk or WLD unit lands, setting its MAP bit or decoding columns, or faults. (R251) -/
  | chunkLand (core chan chunk : Nat) (remote : List Byte)
  /-- COPY_COMPLETE: A copy command completes with its flag, follow-on, arrival and tile status effects. (R250) -/
  | copyComplete (core chan : Nat)
  /-- ARRAY_START: An eligible array command takes the array for its occupancy. (R256) -/
  | arrayStart (core entry : Nat)
  /-- ARRAY_RESULT: An array command's results and version are written 16 cycles after its occupancy ends. (R261) -/
  | arrayResult (core : Nat)
  /-- TEMPTY_EFFECT: An eligible TEMPTY empties its tile or slot. (R263) -/
  | temptyEffect (core n : Nat)
  /-- BARRIER_CONTRIBUTION: A contribution is applied indivisibly at the barrier's core. (R278) -/
  | barrierContribution (n : Nat)
  /-- TEAM_END: A team whose slices have ended releases its resources once its copies and commands finish. (R240) -/
  | teamEnd (t : TeamId)
  /-- TRAP_RECORD_WRITE: A waiting trap record is written into a freed trap-queue slot. (R323) -/
  | trapRecordWrite (launch : Nat)
  /-- FAULT_RECORD_WRITE: A waiting fault record is written into a freed fault-queue slot. (R348) -/
  | faultRecordWrite (q : FaultQ)
  /-- RECORD_RETRY: Waiting record writes are retried at intervals of at most 1 ms. (R348) -/
  | recordRetry (q : FaultQ)
  /-- FAULT_ACK_RESUME: An owner writes 0 to a fault record's D0, re-entering the gang or releasing the master. (R348) -/
  | faultAckResume (fn : Nat) (q : FaultQ) (slot : Nat)
  /-- FAULT_ACK_REFUSE: An owner writes 1 to a fault record's D0, refusing the miss or killing the master. (R348) -/
  | faultAckRefuse (fn : Nat) (q : FaultQ) (slot : Nat)
  /-- FAULTQ_DESCRIPTOR_WRITE: A write of a fault queue descriptor triggers writing of waiting records. (R348) -/
  | faultqDescriptorWrite (fn : Nat) (q : FaultQ) (dword : Nat) (v : DWord)
  /-- LQTAIL: Host tail write submitting launch records to a queue. (R307) -/
  | lqtail (fn q : Nat) (v : Word)
  /-- RECORD_CURRENT: A launch record becomes current, takes a %launch value and is checked. (R310) -/
  | recordCurrent (q : Nat)
  /-- PLACE_GANG: The distributor places a whole gang on one cluster. (R314) -/
  | placeGang
  /-- PRIORITY_AGING: A record waiting 1 ms takes effective priority PRIO + 1. (R313) -/
  | priorityAging (launch : Nat)
  /-- LOADER_WAIT_EXPIRY: After 10 ms of loader wait no new gang of another launch is placed on its dies. (R316) -/
  | loaderWaitExpiry (launch : Nat)
  /-- PREEMPT: The distributor displaces lower-priority gangs to place a gang. (R318) -/
  | preempt
  /-- PRELOAD: An incoming resident set is preloaded into the shadow bank. (R218) -/
  | preload (core : Nat)
  /-- BANK_SWAP: A core swaps active and shadow banks in 128 ac cycles. (R218) -/
  | bankSwap (core : Nat)
  /-- SPILL: The spill engine saves the outgoing bank and clears it. (R219) -/
  | spill (core : Nat)
  /-- EXTRACT: A gang is stopped and its team areas saved and cleared on running cores. (R319) -/
  | extract (launch gang : Nat)
  /-- LAUNCH_COMPLETE: A launch completes, flushing the combiner, writing STATUS and advancing counters. (R325) -/
  | launchComplete (launch : Nat)
  /-- COMBINER_DRAIN: Host write combiner delivers held writes within 20 µs. (R326) -/
  | combinerDrain (n : Nat)
  /-- HANDLER_CREATE: An active message at the target creates a handler team after its marked accesses are performed. (R412) -/
  | handlerCreate
  /-- RCMD_RESUME: Runtime slice-control command resuming a TRAPPED slice. (R324) -/
  | rcmdResume (fn world : Nat) (rcmd : DWord) (rarg : Option DWord)
  /-- RCMD_RETIRE: Runtime slice-control command retiring a TRAPPED slice. (R324) -/
  | rcmdRetire (fn world : Nat) (rcmd : DWord) (rarg : Option DWord)
  /-- COUNTER_WRITE: Host write of a completion counter value, re-examining waits. (R311) -/
  | counterWrite (fn index : Nat) (v : Word)
  /-- LCPCMD: Host label-control port invalidation equivalent to LINV. (R346) -/
  | lcpcmd (fn : Nat) (v : DWord)
  /-- LCP_INVALIDATION_COMPLETE: A port invalidation meets LINV's last condition and BUSY clears. (R346) -/
  | lcpInvalidationComplete
  /-- PARTITION_WRITE: Write of a partition's MIN, MAX or FIXED, ignored if invalid. (R354) -/
  | partitionWrite (fn part : Nat) (v : DWord)
  /-- QUOTA_UPDATE: Every 1 ms the hardware reassigns memory-side cache way quotas. (R354) -/
  | quotaUpdate (anew : Bool)
  /-- DEBUG_SLOT_WRITE: Write of a debug slot's D0, clearing BOUND. (R438) -/
  | debugSlotWrite (fn slot off : Nat) (v : DWord)
  /-- REGISTER_WRITE: Write of a register with no behaviour of its own. (R455) -/
  | registerWrite (fn off : Nat) (v : DWord)
  /-- HOST_ACCESS: A host access through an HDM range walks station P and is performed or refused. (R335) -/
  | hostAccess (fn : Nat) (write : Bool) (off size : Nat) (data : List Byte)
  /-- REFRESH: A weight-store bank enters or leaves its 2 µs refresh window. (R301) -/
  | refresh (bank : Nat)
  /-- UNCORRECTABLE_ERROR: An uncorrectable storage error freezes masters or stops the die and posts a die error record. (R304) -/
  | uncorrectableError (e : StorageError)
  /-- MESH_CRC_FAILURE: Repeated flit CRC failures retire a mesh hop. (R304) -/
  | meshCrcFailure (die hop : Nat) (unreached : List Nat)
  /-- PACKET_ARRIVAL: A fabric packet at the target is checked for incarnation, ordered by sequence, walked at F and performed or refused. (R385) -/
  | packetArrival (p : Packet)
  /-- REFUSAL: A refusal from the target reaches the source and is handled by access kind. (R386) -/
  | refusal (n : Nat) (r : RefusalInfo)
  /-- ACKNOWLEDGEMENT: A fabric acknowledgement lowers outstanding counts. (R388) -/
  | acknowledgement (p : PartName)
  /-- GRANT: A returned grant raises ALW and charges the head waiter. (R406) -/
  | grant (core entry n : Nat)
  /-- FLIT_AUTH_FAILURE: A link flit failing authentication is discarded and resent. (R390) -/
  | flitAuthFailure (plane : Nat) (retrain : Bool)
  /-- LINK_KEY_EXHAUSTED: A link reaching counter 2^64 − 2 without a next key stops and posts an event record. (R391) -/
  | linkKeyExhausted (plane : Nat) (recv : Bool)
  /-- SCALE_OUT_RESEND: An unacknowledged scale-out packet is resent after RESENDNS, ending after RETRIES. (R396) -/
  | scaleOutResend (p : PartName)
  /-- HOLD_EXPIRY: An access held at a paged window beyond HOLDMS ends with LABEL_MISS at F. (R397) -/
  | holdExpiry (n : Nat)
  /-- KEYLOAD: Saltin unwraps a key blob into the lowest free key slot. (R429) -/
  | keyload (fn : Nat)
  /-- KEYFREE: Saltin frees a key slot. (R429) -/
  | keyfree (fn : Nat)
  /-- SCRUB: Saltin cancels all work and zeroes every storage element. (R434) -/
  | scrub (fn : Nat)
  /-- SCRUB_COMPLETE: The scrub finishes and Saltin writes the signed scrub record. (R435) -/
  | scrubComplete
  /-- READBACK: Saltin returns bytes from a readback address under authority checks. (R437) -/
  | readback (fn : Nat)
  /-- SVNADVANCE: Saltin blows fuses to raise MINSVN. (R431) -/
  | svnadvance (fn : Nat)
  /-- FMENROL: Saltin stores the fabric manager's public key hash. (R394) -/
  | fmenrol (fn : Nat)
  /-- PHASEMAP: Signed fabric command writing PHASEMAP and adding to a gate counter. (R383) -/
  | phasemap (fn : Nat)
  /-- INCARNATION: Signed fabric command writing SELFINC. (R389) -/
  | incarnation (fn : Nat)
  /-- INCTAB: Signed fabric command writing INCTAB entries, ending outstanding accesses with PEER_RESET. (R389) -/
  | inctab (fn : Nat)
  /-- ICRED: Signed fabric command writing the allowance capacity. (R402) -/
  | icred (fn : Nat)
  /-- LINKKEY: Signed fabric command loading a link's next key. (R390) -/
  | linkkey (fn : Nat)
  /-- LINKSTAT: Signed fabric command returning signed link status blocks. (R394) -/
  | linkstat (fn : Nat)
  /-- DCMD_RESUME: Debugger command resuming a TRAPPED slice at a PC. (R441) -/
  | dcmdResume (fn slot : Nat) (dcmd : DWord) (darg : Option DWord)
  /-- STEPTEAM: Debugger command stepping every slice of a team by one instruction. (R106) -/
  | stepteam (fn slot : Nat) (dcmd : DWord) (darg : Option DWord)
  /-- REGWRITE: Debugger write of a register of a TRAPPED slice, waiting for or forcing past its pending mark. (R442) -/
  | regwrite (fn slot : Nat) (dcmd : DWord) (darg : Option DWord)
  /-- DCMD_RETIRE: Debugger command retiring a TRAPPED slice. (R441) -/
  | dcmdRetire (fn slot : Nat) (dcmd : DWord) (darg : Option DWord)
  /-- STEPON: Debugger command setting a slice's step bit. (R441) -/
  | stepon (fn slot : Nat) (dcmd : DWord) (darg : Option DWord)
  /-- STEPOFF: Debugger command clearing a slice's step bit. (R441) -/
  | stepoff (fn slot : Nat) (dcmd : DWord) (darg : Option DWord)
  /-- FLAGWRITE: Debugger command writing a TRAPPED slice's %fflags. (R441) -/
  | flagwrite (fn slot : Nat) (dcmd : DWord) (darg : Option DWord)
  /-- SAMPLE: A stall sample is taken every 2^(6 + SINT) ac cycles. (R443) -/
  | sample (slot core : Nat)
  /-- RECOVER: Host RECOVER bit or pin resets Saltin into the boot ROM's recovery path. (R432) -/
  | recover (fn : Nat) (pin : Bool)
  /-- GO: Host write starting the fetch of a recovery image. (R433) -/
  | go (fn : Nat) (v : Word)
  /-- RECOVERY_IMAGE_VERIFY: A fetched recovery image is verified and stored or refused. (R432) -/
  | recoveryImageVerify (dmaError : Bool)
  /-- SCAN_MODE_ENTRY: Entry to scan or memory-test mode triggers a hardware wipe. (R436) -/
  | scanModeEntry (memoryTest : Bool)
  /-- RESET: Power-good or reset starts the boot sequence at stage ROM. (R449) -/
  | reset
  /-- ROM: Boot stage ends with the verified image running or recovery entered. (R449) -/
  | rom
  /-- TRAIN: Boot stage ends with every unit trained or isolated. (R449) -/
  | train (clusters : BitVec 48) (links planes : BitVec 16)
  /-- CLEAR: Boot stage ends with every storage element zeroed and slot 0 keyed. (R449) -/
  | clear
  /-- LINK: Boot stage ends with the host link up and the package READY. (R449) -/
  | link
  /-- CLOCK_HALVE: Over-temperature or supply droop halves the arithmetic clock. (R448) -/
  | clockHalve (droop : Bool)
  /-- CLOCK_RESTORE: After 10 ms cool and droop-free the nominal clock is restored. (R448) -/
  | clockRestore
  /-- DRAIN: Service command draining a cluster, memory link or plane. (R451) -/
  | drain (fn : Nat) (v : DWord)
  /-- DRAIN_COMPLETE: A draining unit becomes ISOLATED once its gangs are extracted. (R451) -/
  | drainComplete
  /-- LINK_DRAIN_TIMEOUT: 50 ms after a link's DRAIN, Saltin returns it or marks it FAILED. (R451) -/
  | linkDrainTimeout (trains : Bool)
  /-- TEST: Service command running built-in self test of an isolated unit. (R451) -/
  | test (fn : Nat) (v : DWord)
  /-- REPAIR: Service command remapping faulty rows to spares. (R451) -/
  | repair (fn : Nat) (v : DWord) (spares : Bool)
  /-- RETURN: Service command clearing an isolated unit and returning it to service. (R451) -/
  | returnService (fn : Nat) (v : DWord) (trains : Bool)
  /-- FWUPDATE: Service command verifying and installing a new Saltin image. (R452) -/
  | fwupdate (fn : Nat) (v : DWord)
  /-- DIE_RESET: Saltin resets a die that has entered DIE_STOP, after which the die serves accesses again. (R304) -/
  | dieReset (die : Nat)
  /-- POWER_LOSS: Loss of the package supply loses all volatile state, and lifetime counts not yet committed for at most the last second. (R446) -/
  | powerLoss
  /-- LIFETIME_RECORD_UPDATE: Saltin commits the lifetime counters, such as HOURS and TEMPHIST, to non-volatile storage at least once per second. (R446) -/
  | lifetimeRecordUpdate (hours : Nat) (temps : List Nat) (corrected : List (Nat × Nat))
  /-- TEST_COMPLETE: The built-in self test of a unit ends, returning it from TESTING to ISOLATED with DONE or TEST_FAIL. (R451) -/
  | testComplete (passed : Bool)
  deriving DecidableEq, Repr

end Sys2Proof
end

