-- ==== Sys2Proof/WellFormed.lean ====
section
/-! DEFINITION. Which instructions have an encoding: the checks of R34 that the words alone decide (rows 5 to 8). The
checks that need the team's declarations (rows 9 to 11) are made when the instruction executes. -/

namespace Sys2Proof

/-- Width of an operand position (R27, R40): the field is unused, 32 bits wide or 64 bits wide. -/
inductive Width where
  | no | w32 | w64
  deriving DecidableEq, Repr

/-- A source is encodable in an A or B field of the given width (R25, R27, R28). The lane set pops q0 to q7 and the
team set b0 and b1. -/
def Src.fits (team : Bool) : Width → Src → Bool
  | .no, a => a == .zero
  | .w32, .reg _ => true
  | .w32, .queue n => !team || decide (n.val < 2)
  | .w32, .lit _ => true
  | .w32, .lit64 _ => false
  | .w32, .zero => true
  | .w64, .reg n => n.val % 2 == 0
  | .w64, .queue _ => false
  | .w64, .lit _ => true
  | .w64, .lit64 _ => true
  | .w64, .zero => true

/-- A destination is encodable in a D field of the given width (R25, R27). The lane set pushes b0 and b1 and the team
set q0 to q7. -/
def Dst.fits (team : Bool) : Width → Dst → Bool
  | .no, d => d == .zero
  | .w32, .reg _ => true
  | .w32, .queue n => team || decide (n.val < 2)
  | .w32, .zero => true
  | .w64, .reg n => n.val % 2 == 0
  | .w64, .queue _ => false
  | .w64, .zero => true

/-- A source is encodable in the A/D field of format J: no literal (R25). -/
def Src.fitsJ (team : Bool) : Src → Bool
  | .reg _ => true
  | .queue n => !team || decide (n.val < 2)
  | .lit _ => false
  | .lit64 _ => false
  | .zero => true

/-- The instruction is one that a word encodes: its operands fit their fields. A step without an encoding is well formed
as it stands: its arguments are data for the step to judge. -/
def Instr.wellFormed : Instr → Bool
  | .iadd d a b _ => d.fits false .w32 && a.fits false .w32 && b.fits false .w32
  | .isub d a b _ => d.fits false .w32 && a.fits false .w32 && b.fits false .w32
  | .imul d a b => d.fits false .w32 && a.fits false .w32 && b.fits false .w32
  | .imulh d a b _ => d.fits false .w32 && a.fits false .w32 && b.fits false .w32
  | .imad d a b => d.fits false .w32 && a.fits false .w32 && b.fits false .w32
  | .idiv d a b _ => d.fits false .w32 && a.fits false .w32 && b.fits false .w32
  | .irem d a b _ => d.fits false .w32 && a.fits false .w32 && b.fits false .w32
  | .imin d a b _ => d.fits false .w32 && a.fits false .w32 && b.fits false .w32
  | .imax d a b _ => d.fits false .w32 && a.fits false .w32 && b.fits false .w32
  | .iabs d a => d.fits false .w32 && a.fits false .w32
  | .dadd d a b => d.fits false .w64 && a.fits false .w64 && b.fits false .w64
  | .dsub d a b => d.fits false .w64 && a.fits false .w64 && b.fits false .w64
  | .dmul d a b => d.fits false .w64 && a.fits false .w64 && b.fits false .w64
  | .dneg d a => d.fits false .w64 && a.fits false .w64
  | .and d a b => d.fits false .w32 && a.fits false .w32 && b.fits false .w32
  | .or d a b => d.fits false .w32 && a.fits false .w32 && b.fits false .w32
  | .xor d a b => d.fits false .w32 && a.fits false .w32 && b.fits false .w32
  | .andn d a b => d.fits false .w32 && a.fits false .w32 && b.fits false .w32
  | .not d a => d.fits false .w32 && a.fits false .w32
  | .shl d a b => d.fits false .w32 && a.fits false .w32 && b.fits false .w32
  | .shr d a b => d.fits false .w32 && a.fits false .w32 && b.fits false .w32
  | .sar d a b => d.fits false .w32 && a.fits false .w32 && b.fits false .w32
  | .rol d a b => d.fits false .w32 && a.fits false .w32 && b.fits false .w32
  | .ror d a b => d.fits false .w32 && a.fits false .w32 && b.fits false .w32
  | .bfx d a b _ => d.fits false .w32 && a.fits false .w32 && b.fits false .w32
  | .bfi d a b => d.fits false .w32 && a.fits false .w32 && b.fits false .w32
  | .popc d a => d.fits false .w32 && a.fits false .w32
  | .clz d a => d.fits false .w32 && a.fits false .w32
  | .ctz d a => d.fits false .w32 && a.fits false .w32
  | .brev d a => d.fits false .w32 && a.fits false .w32
  | .dshl d a b => d.fits false .w64 && a.fits false .w64 && b.fits false .w32
  | .dshr d a b _ => d.fits false .w64 && a.fits false .w64 && b.fits false .w32
  | .icmp d a b _ => d.fits false .w32 && a.fits false .w32 && b.fits false .w32
  | .dcmp d a b _ => d.fits false .w32 && a.fits false .w64 && b.fits false .w64
  | .sel d a b => d.fits false .w32 && a.fits false .w32 && b.fits false .w32
  | .mov d a => d.fits false .w32 && a.fits false .w32
  | .dmov d a => d.fits false .w64 && a.fits false .w64
  | .sread d imm => d.fits false (if imm = 18 then .w64 else .w32)
  | .swrite a _ => a.fitsJ false
  | .cvtif d a _ => d.fits false .w32 && a.fits false .w32
  | .cvtfi d a _ => d.fits false .w32 && a.fits false .w32
  | .cvtdf d a _ => d.fits false .w32 && a.fits false .w64
  | .cvtfd d a _ => d.fits false .w64 && a.fits false .w32
  | .ext d a _ => d.fits false .w32 && a.fits false .w32
  | .dext d a _ => d.fits false .w64 && a.fits false .w32
  | .ldi d _ => d.fits false .w32
  | .alwr d a => d.fits false .w32 && a.fits false .w32
  | .bra _ => true
  | .bnz a _ => a.fitsJ false
  | .bz a _ => a.fitsJ false
  | .call _ => true
  | .callr a => a.fits false .w32
  | .jmpr a => a.fits false .w32
  | .ret => true
  | .exit => true
  | .trap _ => true
  | .bkpt _ => true
  | .yield => true
  | .nop => true
  | .balw a _ => a.fitsJ false
  | .fadd d a b _ => d.fits false .w32 && a.fits false .w32 && b.fits false .w32
  | .fsub d a b _ => d.fits false .w32 && a.fits false .w32 && b.fits false .w32
  | .fmul d a b _ => d.fits false .w32 && a.fits false .w32 && b.fits false .w32
  | .fmin d a b => d.fits false .w32 && a.fits false .w32 && b.fits false .w32
  | .fmax d a b => d.fits false .w32 && a.fits false .w32 && b.fits false .w32
  | .fabs d a => d.fits false .w32 && a.fits false .w32
  | .fmac d a b _ => d.fits false .w32 && a.fits false .w32 && b.fits false .w32
  | .fnmac d a b _ => d.fits false .w32 && a.fits false .w32 && b.fits false .w32
  | .fdiv d a b _ => d.fits false .w32 && a.fits false .w32 && b.fits false .w32
  | .fsqrt d a _ => d.fits false .w32 && a.fits false .w32
  | .frcp d a => d.fits false .w32 && a.fits false .w32
  | .frsq d a => d.fits false .w32 && a.fits false .w32
  | .fexp2 d a => d.fits false .w32 && a.fits false .w32
  | .flog2 d a => d.fits false .w32 && a.fits false .w32
  | .fneg d a => d.fits false .w32 && a.fits false .w32
  | .fcmp d a b _ => d.fits false .w32 && a.fits false .w32 && b.fits false .w32
  | .fclass d a => d.fits false .w32 && a.fits false .w32
  | .frnd d a _ => d.fits false .w32 && a.fits false .w32
  | .cvtbf d a _ => d.fits false .w32 && a.fits false .w32
  | .cvtfb d a => d.fits false .w32 && a.fits false .w32
  | .cvte4 d a _ => d.fits false .w32 && a.fits false .w32
  | .cvte5 d a _ => d.fits false .w32 && a.fits false .w32
  | .cvt4f d a => d.fits false .w32 && a.fits false .w32
  | .cvt5f d a => d.fits false .w32 && a.fits false .w32
  | .qnt8 d a b _ => d.fits false .w32 && a.fits false .w32 && b.fits false .w32
  | .dq8 d a b => d.fits false .w32 && a.fits false .w32 && b.fits false .w32
  | .qnt4 d a b _ => d.fits false .w32 && a.fits false .w32 && b.fits false .w32
  | .dq4 d a b => d.fits false .w32 && a.fits false .w32 && b.fits false .w32
  | .bpack d a _ => d.fits false .w32 && a.fits false .w32
  | .bunpk d a _ => d.fits false .w32 && a.fits false .w32
  | .fscl d a b _ => d.fits false .w32 && a.fits false .w32 && b.fits false .w32
  | .setc a => a.fits false .w64
  | .join => true
  | .shfl d a b _ => d.fits false .w32 && a.fits false .w32 && b.fits false .w32
  | .vote d a _ => d.fits false .w32 && a.fits false .w32
  | .sift d a => d.fits false .w64 && a.fits false .w32
  | .credf d a _ => d.fits false .w32 && a.fits false .w32
  | .credi d a _ => d.fits false .w32 && a.fits false .w32
  | .ldw d a b _ => d.fits false .w32 && a.fits false .w64 && b.fits false .w32
  | .ldd d a b _ => d.fits false .w64 && a.fits false .w64 && b.fits false .w32
  | .ldh d a b _ => d.fits false .w32 && a.fits false .w64 && b.fits false .w32
  | .ldb d a b _ => d.fits false .w32 && a.fits false .w64 && b.fits false .w32
  | .stw d a b _ => d.fits false .w32 && a.fits false .w64 && b.fits false .w32
  | .std d a b _ => d.fits false .w64 && a.fits false .w64 && b.fits false .w32
  | .sth d a b _ => d.fits false .w32 && a.fits false .w64 && b.fits false .w32
  | .stb d a b _ => d.fits false .w32 && a.fits false .w64 && b.fits false .w32
  | .lde d a b _ => d.fits false .w32 && a.fits false .w64 && b.fits false .w32
  | .ldx d a b => d.fits false .w32 && a.fits false .w64 && b.fits false .w64
  | .stx d a b => d.fits false .w32 && a.fits false .w64 && b.fits false .w64
  | .aadd d a b _ => d.fits false .w32 && a.fits false .w64 && b.fits false .w32
  | .amax d a b _ => d.fits false .w32 && a.fits false .w64 && b.fits false .w32
  | .aor d a b _ => d.fits false .w32 && a.fits false .w64 && b.fits false .w32
  | .axch d a b _ => d.fits false .w32 && a.fits false .w64 && b.fits false .w32
  | .acas d a b _ => d.fits false .w32 && a.fits false .w64 && b.fits false .w32
  | .aaddd d a b _ => d.fits false .w64 && a.fits false .w64 && b.fits false .w64
  | .acasd d a b _ => d.fits false .w64 && a.fits false .w64 && b.fits false .w64
  | .fence _ => true
  | .fencef d a b _ => d.fits false .w32 && a.fits false .w64 && b.fits false .w32
  | .waita d a b _ => d.fits false .w32 && a.fits false .w64 && b.fits false .w32
  | .barv d a b => d.fits false .w32 && a.fits false .w32 && b.fits false .w32
  | .barw a b => a.fits false .w32 && b.fits false .w32
  | .amsg d a b => d.fits false .w32 && a.fits false .w32 && b.fits false .w64
  | .teamIadd d a b _ => d.fits true .w32 && a.fits true .w32 && b.fits true .w32
  | .teamIsub d a b _ => d.fits true .w32 && a.fits true .w32 && b.fits true .w32
  | .teamImul d a b => d.fits true .w32 && a.fits true .w32 && b.fits true .w32
  | .teamImulh d a b _ => d.fits true .w32 && a.fits true .w32 && b.fits true .w32
  | .teamImad d a b => d.fits true .w32 && a.fits true .w32 && b.fits true .w32
  | .teamIdiv d a b _ => d.fits true .w32 && a.fits true .w32 && b.fits true .w32
  | .teamIrem d a b _ => d.fits true .w32 && a.fits true .w32 && b.fits true .w32
  | .teamImin d a b _ => d.fits true .w32 && a.fits true .w32 && b.fits true .w32
  | .teamImax d a b _ => d.fits true .w32 && a.fits true .w32 && b.fits true .w32
  | .teamIabs d a => d.fits true .w32 && a.fits true .w32
  | .teamDadd d a b => d.fits true .w64 && a.fits true .w64 && b.fits true .w64
  | .teamDsub d a b => d.fits true .w64 && a.fits true .w64 && b.fits true .w64
  | .teamDmul d a b => d.fits true .w64 && a.fits true .w64 && b.fits true .w64
  | .teamDneg d a => d.fits true .w64 && a.fits true .w64
  | .teamAnd d a b => d.fits true .w32 && a.fits true .w32 && b.fits true .w32
  | .teamOr d a b => d.fits true .w32 && a.fits true .w32 && b.fits true .w32
  | .teamXor d a b => d.fits true .w32 && a.fits true .w32 && b.fits true .w32
  | .teamAndn d a b => d.fits true .w32 && a.fits true .w32 && b.fits true .w32
  | .teamNot d a => d.fits true .w32 && a.fits true .w32
  | .teamShl d a b => d.fits true .w32 && a.fits true .w32 && b.fits true .w32
  | .teamShr d a b => d.fits true .w32 && a.fits true .w32 && b.fits true .w32
  | .teamSar d a b => d.fits true .w32 && a.fits true .w32 && b.fits true .w32
  | .teamRol d a b => d.fits true .w32 && a.fits true .w32 && b.fits true .w32
  | .teamRor d a b => d.fits true .w32 && a.fits true .w32 && b.fits true .w32
  | .teamBfx d a b _ => d.fits true .w32 && a.fits true .w32 && b.fits true .w32
  | .teamBfi d a b => d.fits true .w32 && a.fits true .w32 && b.fits true .w32
  | .teamPopc d a => d.fits true .w32 && a.fits true .w32
  | .teamClz d a => d.fits true .w32 && a.fits true .w32
  | .teamCtz d a => d.fits true .w32 && a.fits true .w32
  | .teamBrev d a => d.fits true .w32 && a.fits true .w32
  | .teamDshl d a b => d.fits true .w64 && a.fits true .w64 && b.fits true .w32
  | .teamDshr d a b _ => d.fits true .w64 && a.fits true .w64 && b.fits true .w32
  | .teamIcmp d a b _ => d.fits true .w32 && a.fits true .w32 && b.fits true .w32
  | .teamDcmp d a b _ => d.fits true .w32 && a.fits true .w64 && b.fits true .w64
  | .teamSel d a b => d.fits true .w32 && a.fits true .w32 && b.fits true .w32
  | .teamMov d a => d.fits true .w32 && a.fits true .w32
  | .teamDmov d a => d.fits true .w64 && a.fits true .w64
  | .teamSread d _ => d.fits true .w32
  | .teamSwrite a _ => a.fitsJ true
  | .teamCvtif d a _ => d.fits true .w32 && a.fits true .w32
  | .teamCvtfi d a _ => d.fits true .w32 && a.fits true .w32
  | .teamCvtdf d a _ => d.fits true .w32 && a.fits true .w64
  | .teamCvtfd d a _ => d.fits true .w64 && a.fits true .w32
  | .teamExt d a _ => d.fits true .w32 && a.fits true .w32
  | .teamDext d a _ => d.fits true .w64 && a.fits true .w32
  | .teamLdi d _ => d.fits true .w32
  | .teamAlwr d a => d.fits true .w32 && a.fits true .w32
  | .teamBra _ => true
  | .teamBnz a _ => a.fitsJ true
  | .teamBz a _ => a.fitsJ true
  | .teamCall _ => true
  | .teamCallr a => a.fits true .w32
  | .teamJmpr a => a.fits true .w32
  | .teamRet => true
  | .teamExit => true
  | .teamTrap _ => true
  | .teamBkpt _ => true
  | .teamYield => true
  | .teamNop => true
  | .teamBalw a _ => a.fitsJ true
  | .qld d a b _ => d.fits true .w32 && a.fits true .w64 && b.fits true .w32
  | .qldu d a b _ => d.fits true .w32 && a.fits true .w64 && b.fits true .w32
  | .qldg d a b _ => d.fits true .w32 && a.fits true .w64 && b.fits true .w32
  | .qsts d a b _ => d.fits true .w32 && a.fits true .w64 && b.fits true .w32
  | .setl a _ => a.fits true .w64
  | .getl d _ => d.fits true .w64
  | .mkl d a _ => d.fits true .w64 && a.fits true .w32
  | .ldl a b _ => a.fits true .w64 && b.fits true .w64
  | .qocc d _ => d.fits true .w32
  | .cpy d a b _ => d.fits true .w32 && a.fits true .w64 && b.fits true .w32
  | .cpym d a b _ => d.fits true .w64 && a.fits true .w64 && b.fits true .w32
  | .cpys d a b _ => d.fits true .w32 && a.fits true .w64 && b.fits true .w32
  | .twait a b _ => a.fits true .w32 && b.fits true .w64
  | .tempty a => a.fits true .w32
  | .tstat d a => d.fits true .w64 && a.fits true .w32
  | .wld d a b _ => d.fits true .w32 && a.fits true .w64 && b.fits true .w32
  | .wst d a b _ => d.fits true .w32 && a.fits true .w64 && b.fits true .w32
  | .mmat d a b => d.fits true .w32 && a.fits true .w32 && b.fits true .w32
  | .mmad d a b => d.fits true .w32 && a.fits true .w32 && b.fits true .w32
  | .mmaz d a => d.fits true .w32 && a.fits true .w32
  | .accst d a b _ => d.fits true .w32 && a.fits true .w32 && b.fits true .w32
  | .accv d a => d.fits true .w32 && a.fits true .w32
  | .cpyf d a b _ => d.fits true .w64 && a.fits true .w64 && b.fits true .w32
  | .teamBarv d a b => d.fits true .w32 && a.fits true .w32 && b.fits true .w32
  | .teamBarw a b => a.fits true .w32 && b.fits true .w32
  | .teamWaita d a b _ => d.fits true .w32 && a.fits true .w64 && b.fits true .w32
  | .launch d a b _ => d.fits true .w32 && a.fits true .w64 && b.fits true .w32
  | .cnta a b => a.fits true .w32 && b.fits true .w32
  | .cntw a b => a.fits true .w32 && b.fits true .w32
  | .cancel a _ => a.fits true .w32
  | .wref d a => d.fits true .w32 && a.fits true .w32
  | .linv a _ => a.fits true .w32
  | .flushr a b _ => a.fits true .w64 && b.fits true .w64
  | .teamAmsg d a b => d.fits true .w32 && a.fits true .w32 && b.fits true .w64
  | .teamLdw d a b _ => d.fits true .w32 && a.fits true .w64 && b.fits true .w32
  | .teamLdd d a b _ => d.fits true .w64 && a.fits true .w64 && b.fits true .w32
  | .teamStw d a b _ => d.fits true .w32 && a.fits true .w64 && b.fits true .w32
  | .teamStd d a b _ => d.fits true .w64 && a.fits true .w64 && b.fits true .w32
  | .teamLdx d a b => d.fits true .w32 && a.fits true .w64 && b.fits true .w64
  | .teamStx d a b => d.fits true .w32 && a.fits true .w64 && b.fits true .w64
  | .teamAadd d a b _ => d.fits true .w32 && a.fits true .w64 && b.fits true .w32
  | .teamAmax d a b _ => d.fits true .w32 && a.fits true .w64 && b.fits true .w32
  | .teamAxch d a b _ => d.fits true .w32 && a.fits true .w64 && b.fits true .w32
  | .teamAcas d a b _ => d.fits true .w32 && a.fits true .w64 && b.fits true .w32
  | .teamAaddd d a b _ => d.fits true .w64 && a.fits true .w64 && b.fits true .w64
  | .teamAcasd d a b _ => d.fits true .w64 && a.fits true .w64 && b.fits true .w64
  | .teamFence _ => true
  | .teamFencef d a b _ => d.fits true .w32 && a.fits true .w64 && b.fits true .w32
  | .illegalOp _ => true
  | .wrongSlice _ => true
  | .fetchRange _ => true
  | .wake _ => true
  | .loadComplete _ _ => true
  | .queueElementPerform _ _ => true
  | .homeStore _ => true
  | .homeAtomic _ => true
  | .leaseRenewal _ => true
  | .lineFill _ _ => true
  | .mscFill _ _ _ => true
  | .waitaWake _ => true
  | .ctTick _ => true
  | .drowsy _ _ => true
  | .copyStart _ _ => true
  | .chunkLand _ _ _ _ => true
  | .copyComplete _ _ => true
  | .arrayStart _ _ => true
  | .arrayResult _ => true
  | .temptyEffect _ _ => true
  | .barrierContribution _ => true
  | .teamEnd _ => true
  | .trapRecordWrite _ => true
  | .faultRecordWrite _ => true
  | .recordRetry _ => true
  | .faultAckResume _ _ _ => true
  | .faultAckRefuse _ _ _ => true
  | .faultqDescriptorWrite _ _ _ _ => true
  | .lqtail _ _ _ => true
  | .recordCurrent _ => true
  | .placeGang => true
  | .priorityAging _ => true
  | .loaderWaitExpiry _ => true
  | .preempt => true
  | .preload _ => true
  | .bankSwap _ => true
  | .spill _ => true
  | .extract _ _ => true
  | .launchComplete _ => true
  | .combinerDrain _ => true
  | .handlerCreate => true
  | .rcmdResume _ _ _ _ => true
  | .rcmdRetire _ _ _ _ => true
  | .counterWrite _ _ _ => true
  | .lcpcmd _ _ => true
  | .lcpInvalidationComplete => true
  | .partitionWrite _ _ _ => true
  | .quotaUpdate _ => true
  | .debugSlotWrite _ _ _ _ => true
  | .registerWrite _ _ _ => true
  | .hostAccess _ _ _ _ _ => true
  | .refresh _ => true
  | .uncorrectableError _ => true
  | .meshCrcFailure _ _ _ => true
  | .packetArrival _ => true
  | .refusal _ _ => true
  | .acknowledgement _ => true
  | .grant _ _ _ => true
  | .flitAuthFailure _ _ => true
  | .linkKeyExhausted _ _ => true
  | .scaleOutResend _ => true
  | .holdExpiry _ => true
  | .keyload _ => true
  | .keyfree _ => true
  | .scrub _ => true
  | .scrubComplete => true
  | .readback _ => true
  | .svnadvance _ => true
  | .fmenrol _ => true
  | .phasemap _ => true
  | .incarnation _ => true
  | .inctab _ => true
  | .icred _ => true
  | .linkkey _ => true
  | .linkstat _ => true
  | .dcmdResume _ _ _ _ => true
  | .stepteam _ _ _ _ => true
  | .regwrite _ _ _ _ => true
  | .dcmdRetire _ _ _ _ => true
  | .stepon _ _ _ _ => true
  | .stepoff _ _ _ _ => true
  | .flagwrite _ _ _ _ => true
  | .sample _ _ => true
  | .recover _ _ => true
  | .go _ _ => true
  | .recoveryImageVerify _ => true
  | .scanModeEntry _ => true
  | .reset => true
  | .rom => true
  | .train _ _ _ => true
  | .clear => true
  | .link => true
  | .clockHalve _ => true
  | .clockRestore => true
  | .drain _ _ => true
  | .drainComplete => true
  | .linkDrainTimeout _ => true
  | .test _ _ => true
  | .repair _ _ _ => true
  | .returnService _ _ _ => true
  | .fwupdate _ _ => true
  | .dieReset _ => true
  | .powerLoss => true
  | .lifetimeRecordUpdate _ _ _ => true
  | .testComplete _ => true

end Sys2Proof
end

