-- ==== Sys2Proof/Decode.lean ====
section
/-! DEFINITION. The decoder of instruction words (R21 to R34), total on any words and rejecting by name, and the encoder
beside it. The encoding tables are those of spec/02 and spec/03. -/

namespace Sys2Proof

/-- Why words are no instruction: rows 3 to 8 of R34, in the order the rows give. `field` is 1 D, 2 A, 3 B (R103). -/
inductive Reject where
  | wrongSlice (w : Word)
  | illegalOp (w : Word)
  | badModifier (m : BitVec 3)
  | badOperand (field : BitVec 3) (code : BitVec 7)
  | literalDest (code : BitVec 7)
  | oddPair (field : BitVec 3) (code : BitVec 7)
  | truncated
  deriving DecidableEq, Repr

/-- The fields of a first word in the layout of format A (R22). -/
structure Raw where
  team : Bool
  op : BitVec 7
  d : BitVec 7
  a : BitVec 7
  b : BitVec 7
  m : BitVec 3
  deriving DecidableEq, Repr

/-- The first word with these fields (R22). -/
def Raw.word (r : Raw) : Word :=
  (BitVec.ofBool r.team ++ r.op ++ r.d ++ r.a ++ r.b ++ r.m : BitVec 32)

/-- The fields of a first word (R22). -/
def Raw.ofWord (w : Word) : Raw :=
  ⟨w.getLsbD 31, w.extractLsb' 24 7, w.extractLsb' 17 7, w.extractLsb' 10 7, w.extractLsb' 3 7, w.extractLsb' 0 3⟩

/-- IMM17 of format J: bits [16:0] of the word (R23). -/
def Raw.imm (r : Raw) : BitVec 17 := (r.a ++ r.b ++ r.m : BitVec 17)

/-- Format A or J (R22, R23). -/
inductive Format where
  | a | j
  deriving DecidableEq, Repr

/-- What an opcode uses (R40): its format, the width of D, A and B, whether the D position is written (for format J),
and how many M values are defined, from 0 up (R43). -/
structure Shape where
  format : Format
  d : Width
  a : Width
  b : Width
  dst : Bool
  ms : Nat
  deriving DecidableEq, Repr

/-- The operands of an instruction as decoded; an unused field holds code 126. -/
structure Operands where
  d : Dst
  a : Src
  b : Src
  m : BitVec 3
  imm : BitVec 17
  deriving DecidableEq, Repr

/-- The label register that M names in a memory form (R31). -/
def lblOf (m : BitVec 3) : Fin 8 := ⟨m.toNat, m.isLt⟩

/-- The M value of a label register (R31). -/
def lblCode (l : Fin 8) : BitVec 3 := BitVec.ofFin l


/-- Shapes of the lane-set opcodes 0x00 to 0x0F (R44 to R54). -/
def laneShape0 (lo : Nat) : Option Shape :=
  match lo with
  | 0 => some ⟨.a, .w32, .w32, .w32, true, 3⟩
  | 1 => some ⟨.a, .w32, .w32, .w32, true, 3⟩
  | 2 => some ⟨.a, .w32, .w32, .w32, true, 1⟩
  | 3 => some ⟨.a, .w32, .w32, .w32, true, 2⟩
  | 4 => some ⟨.a, .w32, .w32, .w32, true, 1⟩
  | 5 => some ⟨.a, .w32, .w32, .w32, true, 2⟩
  | 6 => some ⟨.a, .w32, .w32, .w32, true, 2⟩
  | 7 => some ⟨.a, .w32, .w32, .w32, true, 2⟩
  | 8 => some ⟨.a, .w32, .w32, .w32, true, 2⟩
  | 9 => some ⟨.a, .w32, .w32, .no, true, 1⟩
  | 10 => some ⟨.a, .w64, .w64, .w64, true, 1⟩
  | 11 => some ⟨.a, .w64, .w64, .w64, true, 1⟩
  | 12 => some ⟨.a, .w64, .w64, .w64, true, 1⟩
  | 13 => some ⟨.a, .w64, .w64, .no, true, 1⟩
  | 14 => some ⟨.a, .w32, .w32, .w32, true, 1⟩
  | 15 => some ⟨.a, .w32, .w32, .w32, true, 1⟩
  | _ => none

/-- Shapes of the lane-set opcodes 0x10 to 0x1F (R44 to R54). -/
def laneShape1 (lo : Nat) : Option Shape :=
  match lo with
  | 0 => some ⟨.a, .w32, .w32, .w32, true, 1⟩
  | 1 => some ⟨.a, .w32, .w32, .w32, true, 1⟩
  | 2 => some ⟨.a, .w32, .w32, .no, true, 1⟩
  | 3 => some ⟨.a, .w32, .w32, .w32, true, 1⟩
  | 4 => some ⟨.a, .w32, .w32, .w32, true, 1⟩
  | 5 => some ⟨.a, .w32, .w32, .w32, true, 1⟩
  | 6 => some ⟨.a, .w32, .w32, .w32, true, 1⟩
  | 7 => some ⟨.a, .w32, .w32, .w32, true, 1⟩
  | 8 => some ⟨.a, .w32, .w32, .w32, true, 2⟩
  | 9 => some ⟨.a, .w32, .w32, .w32, true, 1⟩
  | 10 => some ⟨.a, .w32, .w32, .no, true, 1⟩
  | 11 => some ⟨.a, .w32, .w32, .no, true, 1⟩
  | 12 => some ⟨.a, .w32, .w32, .no, true, 1⟩
  | 13 => some ⟨.a, .w32, .w32, .no, true, 1⟩
  | 14 => some ⟨.a, .w64, .w64, .w32, true, 1⟩
  | 15 => some ⟨.a, .w64, .w64, .w32, true, 2⟩
  | _ => none

/-- Shapes of the lane-set opcodes 0x20 to 0x2F (R44 to R54). -/
def laneShape2 (lo : Nat) : Option Shape :=
  match lo with
  | 0 => some ⟨.a, .w32, .w32, .w32, true, 6⟩
  | 1 => some ⟨.a, .w32, .w64, .w64, true, 6⟩
  | 2 => some ⟨.a, .w32, .w32, .w32, true, 1⟩
  | 3 => some ⟨.a, .w32, .w32, .no, true, 1⟩
  | 4 => some ⟨.a, .w64, .w64, .no, true, 1⟩
  | 5 => some ⟨.j, .w32, .no, .no, true, 8⟩
  | 6 => some ⟨.j, .w32, .no, .no, false, 8⟩
  | 7 => some ⟨.a, .w32, .w32, .no, true, 8⟩
  | 8 => some ⟨.a, .w32, .w32, .no, true, 8⟩
  | 9 => some ⟨.a, .w32, .w64, .no, true, 8⟩
  | 10 => some ⟨.a, .w64, .w32, .no, true, 8⟩
  | 11 => some ⟨.a, .w32, .w32, .no, true, 4⟩
  | 12 => some ⟨.a, .w64, .w32, .no, true, 2⟩
  | 13 => some ⟨.j, .w32, .no, .no, true, 8⟩
  | 14 => some ⟨.a, .w32, .w32, .no, true, 1⟩
  | _ => none

/-- Shapes of the lane-set opcodes 0x30 to 0x3F (R44 to R54). -/
def laneShape3 (lo : Nat) : Option Shape :=
  match lo with
  | 0 => some ⟨.j, .no, .no, .no, false, 8⟩
  | 1 => some ⟨.j, .w32, .no, .no, false, 8⟩
  | 2 => some ⟨.j, .w32, .no, .no, false, 8⟩
  | 3 => some ⟨.j, .no, .no, .no, false, 8⟩
  | 4 => some ⟨.a, .no, .w32, .no, true, 1⟩
  | 5 => some ⟨.a, .no, .w32, .no, true, 1⟩
  | 6 => some ⟨.a, .no, .no, .no, true, 1⟩
  | 7 => some ⟨.a, .no, .no, .no, true, 1⟩
  | 8 => some ⟨.j, .no, .no, .no, false, 8⟩
  | 9 => some ⟨.j, .no, .no, .no, false, 8⟩
  | 10 => some ⟨.a, .no, .no, .no, true, 1⟩
  | 11 => some ⟨.a, .no, .no, .no, true, 1⟩
  | 12 => some ⟨.j, .w32, .no, .no, false, 8⟩
  | _ => none

/-- Shapes of the lane-set opcodes 0x40 to 0x4F (R44 to R54). -/
def laneShape4 (lo : Nat) : Option Shape :=
  match lo with
  | 0 => some ⟨.a, .w32, .w32, .w32, true, 4⟩
  | 1 => some ⟨.a, .w32, .w32, .w32, true, 4⟩
  | 2 => some ⟨.a, .w32, .w32, .w32, true, 4⟩
  | 3 => some ⟨.a, .w32, .w32, .w32, true, 1⟩
  | 4 => some ⟨.a, .w32, .w32, .w32, true, 1⟩
  | 5 => some ⟨.a, .w32, .w32, .no, true, 1⟩
  | 6 => some ⟨.a, .w32, .w32, .w32, true, 4⟩
  | 7 => some ⟨.a, .w32, .w32, .w32, true, 4⟩
  | 8 => some ⟨.a, .w32, .w32, .w32, true, 4⟩
  | 9 => some ⟨.a, .w32, .w32, .no, true, 4⟩
  | 10 => some ⟨.a, .w32, .w32, .no, true, 1⟩
  | 11 => some ⟨.a, .w32, .w32, .no, true, 1⟩
  | 12 => some ⟨.a, .w32, .w32, .no, true, 1⟩
  | 13 => some ⟨.a, .w32, .w32, .no, true, 1⟩
  | 14 => some ⟨.a, .w32, .w32, .no, true, 1⟩
  | 15 => some ⟨.a, .w32, .w32, .w32, true, 8⟩
  | _ => none

/-- Shapes of the lane-set opcodes 0x50 to 0x5F (R44 to R54). -/
def laneShape5 (lo : Nat) : Option Shape :=
  match lo with
  | 0 => some ⟨.a, .w32, .w32, .no, true, 1⟩
  | 1 => some ⟨.a, .w32, .w32, .no, true, 4⟩
  | 2 => some ⟨.a, .w32, .w32, .no, true, 2⟩
  | 3 => some ⟨.a, .w32, .w32, .no, true, 1⟩
  | 4 => some ⟨.a, .w32, .w32, .no, true, 2⟩
  | 5 => some ⟨.a, .w32, .w32, .no, true, 2⟩
  | 6 => some ⟨.a, .w32, .w32, .no, true, 1⟩
  | 7 => some ⟨.a, .w32, .w32, .no, true, 1⟩
  | 8 => some ⟨.a, .w32, .w32, .w32, true, 2⟩
  | 9 => some ⟨.a, .w32, .w32, .w32, true, 1⟩
  | 10 => some ⟨.a, .w32, .w32, .w32, true, 2⟩
  | 11 => some ⟨.a, .w32, .w32, .w32, true, 1⟩
  | 12 => some ⟨.a, .w32, .w32, .no, true, 4⟩
  | 13 => some ⟨.a, .w32, .w32, .no, true, 8⟩
  | 14 => some ⟨.a, .w32, .w32, .w32, true, 4⟩
  | _ => none

/-- Shapes of the lane-set opcodes 0x60 to 0x6F (R44 to R54). -/
def laneShape6 (lo : Nat) : Option Shape :=
  match lo with
  | 0 => some ⟨.a, .no, .w64, .no, true, 1⟩
  | 1 => some ⟨.a, .no, .no, .no, true, 1⟩
  | 2 => some ⟨.a, .w32, .w32, .w32, true, 4⟩
  | 3 => some ⟨.a, .w32, .w32, .no, true, 4⟩
  | 4 => some ⟨.a, .w64, .w32, .no, true, 1⟩
  | 5 => some ⟨.a, .w32, .w32, .no, true, 3⟩
  | 6 => some ⟨.a, .w32, .w32, .no, true, 8⟩
  | 8 => some ⟨.a, .w32, .w64, .w32, true, 8⟩
  | 9 => some ⟨.a, .w64, .w64, .w32, true, 8⟩
  | 10 => some ⟨.a, .w32, .w64, .w32, true, 8⟩
  | 11 => some ⟨.a, .w32, .w64, .w32, true, 8⟩
  | 12 => some ⟨.a, .w32, .w64, .w32, true, 8⟩
  | 13 => some ⟨.a, .w64, .w64, .w32, true, 8⟩
  | 14 => some ⟨.a, .w32, .w64, .w32, true, 8⟩
  | 15 => some ⟨.a, .w32, .w64, .w32, true, 8⟩
  | _ => none

/-- Shapes of the lane-set opcodes 0x70 to 0x7F (R44 to R54). -/
def laneShape7 (lo : Nat) : Option Shape :=
  match lo with
  | 0 => some ⟨.a, .w32, .w64, .w32, true, 8⟩
  | 1 => some ⟨.a, .w32, .w64, .w64, true, 1⟩
  | 2 => some ⟨.a, .w32, .w64, .w64, true, 1⟩
  | 3 => some ⟨.a, .w32, .w64, .w32, true, 8⟩
  | 4 => some ⟨.a, .w32, .w64, .w32, true, 8⟩
  | 5 => some ⟨.a, .w32, .w64, .w32, true, 8⟩
  | 6 => some ⟨.a, .w32, .w64, .w32, true, 8⟩
  | 7 => some ⟨.a, .w32, .w64, .w32, true, 8⟩
  | 8 => some ⟨.a, .w64, .w64, .w64, true, 8⟩
  | 9 => some ⟨.a, .w64, .w64, .w64, true, 8⟩
  | 10 => some ⟨.a, .no, .no, .no, true, 4⟩
  | 11 => some ⟨.a, .w32, .w64, .w32, true, 8⟩
  | 12 => some ⟨.a, .w32, .w64, .w32, true, 8⟩
  | 13 => some ⟨.a, .w32, .w32, .w32, true, 1⟩
  | 14 => some ⟨.a, .no, .w32, .w32, true, 1⟩
  | 15 => some ⟨.a, .w32, .w32, .w64, true, 1⟩
  | _ => none

/-- The shape of a lane-set opcode, or `none` where it is unassigned (R55). -/
def laneShape (op : Nat) : Option Shape :=
  match op / 16 with
  | 0 => laneShape0 (op % 16)
  | 1 => laneShape1 (op % 16)
  | 2 => laneShape2 (op % 16)
  | 3 => laneShape3 (op % 16)
  | 4 => laneShape4 (op % 16)
  | 5 => laneShape5 (op % 16)
  | 6 => laneShape6 (op % 16)
  | 7 => laneShape7 (op % 16)
  | _ => none

/-- Shapes of the team-set opcodes 0x00 to 0x0F (R44 to R54). -/
def teamShape0 (lo : Nat) : Option Shape :=
  match lo with
  | 0 => some ⟨.a, .w32, .w32, .w32, true, 3⟩
  | 1 => some ⟨.a, .w32, .w32, .w32, true, 3⟩
  | 2 => some ⟨.a, .w32, .w32, .w32, true, 1⟩
  | 3 => some ⟨.a, .w32, .w32, .w32, true, 2⟩
  | 4 => some ⟨.a, .w32, .w32, .w32, true, 1⟩
  | 5 => some ⟨.a, .w32, .w32, .w32, true, 2⟩
  | 6 => some ⟨.a, .w32, .w32, .w32, true, 2⟩
  | 7 => some ⟨.a, .w32, .w32, .w32, true, 2⟩
  | 8 => some ⟨.a, .w32, .w32, .w32, true, 2⟩
  | 9 => some ⟨.a, .w32, .w32, .no, true, 1⟩
  | 10 => some ⟨.a, .w64, .w64, .w64, true, 1⟩
  | 11 => some ⟨.a, .w64, .w64, .w64, true, 1⟩
  | 12 => some ⟨.a, .w64, .w64, .w64, true, 1⟩
  | 13 => some ⟨.a, .w64, .w64, .no, true, 1⟩
  | 14 => some ⟨.a, .w32, .w32, .w32, true, 1⟩
  | 15 => some ⟨.a, .w32, .w32, .w32, true, 1⟩
  | _ => none

/-- Shapes of the team-set opcodes 0x10 to 0x1F (R44 to R54). -/
def teamShape1 (lo : Nat) : Option Shape :=
  match lo with
  | 0 => some ⟨.a, .w32, .w32, .w32, true, 1⟩
  | 1 => some ⟨.a, .w32, .w32, .w32, true, 1⟩
  | 2 => some ⟨.a, .w32, .w32, .no, true, 1⟩
  | 3 => some ⟨.a, .w32, .w32, .w32, true, 1⟩
  | 4 => some ⟨.a, .w32, .w32, .w32, true, 1⟩
  | 5 => some ⟨.a, .w32, .w32, .w32, true, 1⟩
  | 6 => some ⟨.a, .w32, .w32, .w32, true, 1⟩
  | 7 => some ⟨.a, .w32, .w32, .w32, true, 1⟩
  | 8 => some ⟨.a, .w32, .w32, .w32, true, 2⟩
  | 9 => some ⟨.a, .w32, .w32, .w32, true, 1⟩
  | 10 => some ⟨.a, .w32, .w32, .no, true, 1⟩
  | 11 => some ⟨.a, .w32, .w32, .no, true, 1⟩
  | 12 => some ⟨.a, .w32, .w32, .no, true, 1⟩
  | 13 => some ⟨.a, .w32, .w32, .no, true, 1⟩
  | 14 => some ⟨.a, .w64, .w64, .w32, true, 1⟩
  | 15 => some ⟨.a, .w64, .w64, .w32, true, 2⟩
  | _ => none

/-- Shapes of the team-set opcodes 0x20 to 0x2F (R44 to R54). -/
def teamShape2 (lo : Nat) : Option Shape :=
  match lo with
  | 0 => some ⟨.a, .w32, .w32, .w32, true, 6⟩
  | 1 => some ⟨.a, .w32, .w64, .w64, true, 6⟩
  | 2 => some ⟨.a, .w32, .w32, .w32, true, 1⟩
  | 3 => some ⟨.a, .w32, .w32, .no, true, 1⟩
  | 4 => some ⟨.a, .w64, .w64, .no, true, 1⟩
  | 5 => some ⟨.j, .w32, .no, .no, true, 8⟩
  | 6 => some ⟨.j, .w32, .no, .no, false, 8⟩
  | 7 => some ⟨.a, .w32, .w32, .no, true, 8⟩
  | 8 => some ⟨.a, .w32, .w32, .no, true, 8⟩
  | 9 => some ⟨.a, .w32, .w64, .no, true, 8⟩
  | 10 => some ⟨.a, .w64, .w32, .no, true, 8⟩
  | 11 => some ⟨.a, .w32, .w32, .no, true, 4⟩
  | 12 => some ⟨.a, .w64, .w32, .no, true, 2⟩
  | 13 => some ⟨.j, .w32, .no, .no, true, 8⟩
  | 14 => some ⟨.a, .w32, .w32, .no, true, 1⟩
  | _ => none

/-- Shapes of the team-set opcodes 0x30 to 0x3F (R44 to R54). -/
def teamShape3 (lo : Nat) : Option Shape :=
  match lo with
  | 0 => some ⟨.j, .no, .no, .no, false, 8⟩
  | 1 => some ⟨.j, .w32, .no, .no, false, 8⟩
  | 2 => some ⟨.j, .w32, .no, .no, false, 8⟩
  | 3 => some ⟨.j, .no, .no, .no, false, 8⟩
  | 4 => some ⟨.a, .no, .w32, .no, true, 1⟩
  | 5 => some ⟨.a, .no, .w32, .no, true, 1⟩
  | 6 => some ⟨.a, .no, .no, .no, true, 1⟩
  | 7 => some ⟨.a, .no, .no, .no, true, 1⟩
  | 8 => some ⟨.j, .no, .no, .no, false, 8⟩
  | 9 => some ⟨.j, .no, .no, .no, false, 8⟩
  | 10 => some ⟨.a, .no, .no, .no, true, 1⟩
  | 11 => some ⟨.a, .no, .no, .no, true, 1⟩
  | 12 => some ⟨.j, .w32, .no, .no, false, 8⟩
  | _ => none

/-- Shapes of the team-set opcodes 0x40 to 0x4F (R44 to R54). -/
def teamShape4 (lo : Nat) : Option Shape :=
  match lo with
  | 0 => some ⟨.a, .w32, .w64, .w32, true, 8⟩
  | 1 => some ⟨.a, .w32, .w64, .w32, true, 8⟩
  | 2 => some ⟨.a, .w32, .w64, .w32, true, 8⟩
  | 3 => some ⟨.a, .w32, .w64, .w32, true, 8⟩
  | 4 => some ⟨.a, .no, .w64, .no, true, 8⟩
  | 5 => some ⟨.a, .w64, .no, .no, true, 8⟩
  | 6 => some ⟨.a, .w64, .w32, .no, true, 4⟩
  | 7 => some ⟨.a, .no, .w64, .w64, true, 8⟩
  | 8 => some ⟨.j, .w32, .no, .no, true, 8⟩
  | _ => none

/-- Shapes of the team-set opcodes 0x50 to 0x5F (R44 to R54). -/
def teamShape5 (lo : Nat) : Option Shape :=
  match lo with
  | 0 => some ⟨.a, .w32, .w64, .w32, true, 8⟩
  | 1 => some ⟨.a, .w64, .w64, .w32, true, 8⟩
  | 2 => some ⟨.a, .w32, .w64, .w32, true, 8⟩
  | 3 => some ⟨.a, .no, .w32, .w64, true, 2⟩
  | 4 => some ⟨.a, .no, .w32, .no, true, 1⟩
  | 5 => some ⟨.a, .w64, .w32, .no, true, 1⟩
  | 6 => some ⟨.a, .w32, .w64, .w32, true, 8⟩
  | 7 => some ⟨.a, .w32, .w64, .w32, true, 8⟩
  | 8 => some ⟨.a, .w32, .w32, .w32, true, 1⟩
  | 9 => some ⟨.a, .w32, .w32, .w32, true, 1⟩
  | 10 => some ⟨.a, .w32, .w32, .no, true, 1⟩
  | 11 => some ⟨.a, .w32, .w32, .w32, true, 3⟩
  | 12 => some ⟨.a, .w32, .w32, .no, true, 1⟩
  | 13 => some ⟨.a, .w64, .w64, .w32, true, 8⟩
  | _ => none

/-- Shapes of the team-set opcodes 0x60 to 0x6F (R44 to R54). -/
def teamShape6 (lo : Nat) : Option Shape :=
  match lo with
  | 0 => some ⟨.a, .w32, .w32, .w32, true, 1⟩
  | 1 => some ⟨.a, .no, .w32, .w32, true, 1⟩
  | 2 => some ⟨.a, .w32, .w64, .w32, true, 8⟩
  | 3 => some ⟨.a, .w32, .w64, .w32, true, 8⟩
  | 4 => some ⟨.a, .no, .w32, .w32, true, 1⟩
  | 5 => some ⟨.a, .no, .w32, .w32, true, 1⟩
  | 6 => some ⟨.a, .no, .w32, .no, true, 4⟩
  | 7 => some ⟨.a, .w32, .w32, .no, true, 1⟩
  | 8 => some ⟨.a, .no, .w32, .no, true, 4⟩
  | 9 => some ⟨.a, .no, .w64, .w64, true, 8⟩
  | 10 => some ⟨.a, .w32, .w32, .w64, true, 1⟩
  | _ => none

/-- Shapes of the team-set opcodes 0x70 to 0x7F (R44 to R54). -/
def teamShape7 (lo : Nat) : Option Shape :=
  match lo with
  | 0 => some ⟨.a, .w32, .w64, .w32, true, 8⟩
  | 1 => some ⟨.a, .w64, .w64, .w32, true, 8⟩
  | 2 => some ⟨.a, .w32, .w64, .w32, true, 8⟩
  | 3 => some ⟨.a, .w64, .w64, .w32, true, 8⟩
  | 4 => some ⟨.a, .w32, .w64, .w64, true, 1⟩
  | 5 => some ⟨.a, .w32, .w64, .w64, true, 1⟩
  | 6 => some ⟨.a, .w32, .w64, .w32, true, 8⟩
  | 7 => some ⟨.a, .w32, .w64, .w32, true, 8⟩
  | 8 => some ⟨.a, .w32, .w64, .w32, true, 8⟩
  | 9 => some ⟨.a, .w32, .w64, .w32, true, 8⟩
  | 10 => some ⟨.a, .w64, .w64, .w64, true, 8⟩
  | 11 => some ⟨.a, .w64, .w64, .w64, true, 8⟩
  | 12 => some ⟨.a, .no, .no, .no, true, 4⟩
  | 13 => some ⟨.a, .w32, .w64, .w32, true, 8⟩
  | _ => none

/-- The shape of a team-set opcode, or `none` where it is unassigned (R55). -/
def teamShape (op : Nat) : Option Shape :=
  match op / 16 with
  | 0 => teamShape0 (op % 16)
  | 1 => teamShape1 (op % 16)
  | 2 => teamShape2 (op % 16)
  | 3 => teamShape3 (op % 16)
  | 4 => teamShape4 (op % 16)
  | 5 => teamShape5 (op % 16)
  | 6 => teamShape6 (op % 16)
  | 7 => teamShape7 (op % 16)
  | _ => none

/-- The shape of an opcode of a set (R22, R40). SREAD of %circle in the lane set writes a pair (R97). -/
def shapeOf (r : Raw) : Option Shape :=
  if r.team then teamShape r.op.toNat
  else if r.op.toNat = 0x25 ∧ r.imm = 18 then some ⟨.j, .w64, .no, .no, true, 8⟩
  else laneShape r.op.toNat

/-- The instruction of a lane-set opcode 0x00 to 0x0F with its operands. -/
def laneBuild0 (lo : Nat) (o : Operands) : Option Instr :=
  match lo with
  | 0 => (Sat.ofCode o.m).map fun m => .iadd o.d o.a o.b m
  | 1 => (Sat.ofCode o.m).map fun m => .isub o.d o.a o.b m
  | 2 => some (.imul o.d o.a o.b)
  | 3 => (Sgn.ofCode o.m).map fun m => .imulh o.d o.a o.b m
  | 4 => some (.imad o.d o.a o.b)
  | 5 => (Sgn.ofCode o.m).map fun m => .idiv o.d o.a o.b m
  | 6 => (Sgn.ofCode o.m).map fun m => .irem o.d o.a o.b m
  | 7 => (Sgn.ofCode o.m).map fun m => .imin o.d o.a o.b m
  | 8 => (Sgn.ofCode o.m).map fun m => .imax o.d o.a o.b m
  | 9 => some (.iabs o.d o.a)
  | 10 => some (.dadd o.d o.a o.b)
  | 11 => some (.dsub o.d o.a o.b)
  | 12 => some (.dmul o.d o.a o.b)
  | 13 => some (.dneg o.d o.a)
  | 14 => some (.and o.d o.a o.b)
  | 15 => some (.or o.d o.a o.b)
  | _ => none

/-- The instruction of a lane-set opcode 0x10 to 0x1F with its operands. -/
def laneBuild1 (lo : Nat) (o : Operands) : Option Instr :=
  match lo with
  | 0 => some (.xor o.d o.a o.b)
  | 1 => some (.andn o.d o.a o.b)
  | 2 => some (.not o.d o.a)
  | 3 => some (.shl o.d o.a o.b)
  | 4 => some (.shr o.d o.a o.b)
  | 5 => some (.sar o.d o.a o.b)
  | 6 => some (.rol o.d o.a o.b)
  | 7 => some (.ror o.d o.a o.b)
  | 8 => (Sgn.ofCode o.m).map fun m => .bfx o.d o.a o.b m
  | 9 => some (.bfi o.d o.a o.b)
  | 10 => some (.popc o.d o.a)
  | 11 => some (.clz o.d o.a)
  | 12 => some (.ctz o.d o.a)
  | 13 => some (.brev o.d o.a)
  | 14 => some (.dshl o.d o.a o.b)
  | 15 => (Sgn.ofCode o.m).map fun m => .dshr o.d o.a o.b m
  | _ => none

/-- The instruction of a lane-set opcode 0x20 to 0x2F with its operands. -/
def laneBuild2 (lo : Nat) (o : Operands) : Option Instr :=
  match lo with
  | 0 => (Icc.ofCode o.m).map fun m => .icmp o.d o.a o.b m
  | 1 => (Icc.ofCode o.m).map fun m => .dcmp o.d o.a o.b m
  | 2 => some (.sel o.d o.a o.b)
  | 3 => some (.mov o.d o.a)
  | 4 => some (.dmov o.d o.a)
  | 5 => some (.sread o.d o.imm)
  | 6 => some (.swrite o.a o.imm)
  | 7 => (Rmu.ofCode o.m).map fun m => .cvtif o.d o.a m
  | 8 => (Rmu.ofCode o.m).map fun m => .cvtfi o.d o.a m
  | 9 => (Rmu.ofCode o.m).map fun m => .cvtdf o.d o.a m
  | 10 => (Rmu.ofCode o.m).map fun m => .cvtfd o.d o.a m
  | 11 => (ExtMode.ofCode o.m).map fun m => .ext o.d o.a m
  | 12 => (Sgn.ofCode o.m).map fun m => .dext o.d o.a m
  | 13 => some (.ldi o.d o.imm)
  | 14 => some (.alwr o.d o.a)
  | _ => none

/-- The instruction of a lane-set opcode 0x30 to 0x3F with its operands. -/
def laneBuild3 (lo : Nat) (o : Operands) : Option Instr :=
  match lo with
  | 0 => some (.bra o.imm)
  | 1 => some (.bnz o.a o.imm)
  | 2 => some (.bz o.a o.imm)
  | 3 => some (.call o.imm)
  | 4 => some (.callr o.a)
  | 5 => some (.jmpr o.a)
  | 6 => some .ret
  | 7 => some .exit
  | 8 => some (.trap o.imm)
  | 9 => some (.bkpt o.imm)
  | 10 => some .yield
  | 11 => some .nop
  | 12 => some (.balw o.a o.imm)
  | _ => none

/-- The instruction of a lane-set opcode 0x40 to 0x4F with its operands. -/
def laneBuild4 (lo : Nat) (o : Operands) : Option Instr :=
  match lo with
  | 0 => (Rm.ofCode o.m).map fun m => .fadd o.d o.a o.b m
  | 1 => (Rm.ofCode o.m).map fun m => .fsub o.d o.a o.b m
  | 2 => (Rm.ofCode o.m).map fun m => .fmul o.d o.a o.b m
  | 3 => some (.fmin o.d o.a o.b)
  | 4 => some (.fmax o.d o.a o.b)
  | 5 => some (.fabs o.d o.a)
  | 6 => (Rm.ofCode o.m).map fun m => .fmac o.d o.a o.b m
  | 7 => (Rm.ofCode o.m).map fun m => .fnmac o.d o.a o.b m
  | 8 => (Rm.ofCode o.m).map fun m => .fdiv o.d o.a o.b m
  | 9 => (Rm.ofCode o.m).map fun m => .fsqrt o.d o.a m
  | 10 => some (.frcp o.d o.a)
  | 11 => some (.frsq o.d o.a)
  | 12 => some (.fexp2 o.d o.a)
  | 13 => some (.flog2 o.d o.a)
  | 14 => some (.fneg o.d o.a)
  | 15 => (Fcc.ofCode o.m).map fun m => .fcmp o.d o.a o.b m
  | _ => none

/-- The instruction of a lane-set opcode 0x50 to 0x5F with its operands. -/
def laneBuild5 (lo : Nat) (o : Operands) : Option Instr :=
  match lo with
  | 0 => some (.fclass o.d o.a)
  | 1 => (Rm.ofCode o.m).map fun m => .frnd o.d o.a m
  | 2 => (Ns.ofCode o.m).map fun m => .cvtbf o.d o.a m
  | 3 => some (.cvtfb o.d o.a)
  | 4 => (Ns.ofCode o.m).map fun m => .cvte4 o.d o.a m
  | 5 => (Ns.ofCode o.m).map fun m => .cvte5 o.d o.a m
  | 6 => some (.cvt4f o.d o.a)
  | 7 => some (.cvt5f o.d o.a)
  | 8 => (Ns.ofCode o.m).map fun m => .qnt8 o.d o.a o.b m
  | 9 => some (.dq8 o.d o.a o.b)
  | 10 => (Ns.ofCode o.m).map fun m => .qnt4 o.d o.a o.b m
  | 11 => some (.dq4 o.d o.a o.b)
  | 12 => (Byi.ofCode o.m).map fun m => .bpack o.d o.a m
  | 13 => (Byx.ofCode o.m).map fun m => .bunpk o.d o.a m
  | 14 => (Rm.ofCode o.m).map fun m => .fscl o.d o.a o.b m
  | _ => none

/-- The instruction of a lane-set opcode 0x60 to 0x6F with its operands. -/
def laneBuild6 (lo : Nat) (o : Operands) : Option Instr :=
  match lo with
  | 0 => some (.setc o.a)
  | 1 => some .join
  | 2 => (Shf.ofCode o.m).map fun m => .shfl o.d o.a o.b m
  | 3 => (Vot.ofCode o.m).map fun m => .vote o.d o.a m
  | 4 => some (.sift o.d o.a)
  | 5 => (Rdf.ofCode o.m).map fun m => .credf o.d o.a m
  | 6 => (Rdi.ofCode o.m).map fun m => .credi o.d o.a m
  | 8 => some (.ldw o.d o.a o.b (lblOf o.m))
  | 9 => some (.ldd o.d o.a o.b (lblOf o.m))
  | 10 => some (.ldh o.d o.a o.b (lblOf o.m))
  | 11 => some (.ldb o.d o.a o.b (lblOf o.m))
  | 12 => some (.stw o.d o.a o.b (lblOf o.m))
  | 13 => some (.std o.d o.a o.b (lblOf o.m))
  | 14 => some (.sth o.d o.a o.b (lblOf o.m))
  | 15 => some (.stb o.d o.a o.b (lblOf o.m))
  | _ => none

/-- The instruction of a lane-set opcode 0x70 to 0x7F with its operands. -/
def laneBuild7 (lo : Nat) (o : Operands) : Option Instr :=
  match lo with
  | 0 => some (.lde o.d o.a o.b (lblOf o.m))
  | 1 => some (.ldx o.d o.a o.b)
  | 2 => some (.stx o.d o.a o.b)
  | 3 => some (.aadd o.d o.a o.b (lblOf o.m))
  | 4 => some (.amax o.d o.a o.b (lblOf o.m))
  | 5 => some (.aor o.d o.a o.b (lblOf o.m))
  | 6 => some (.axch o.d o.a o.b (lblOf o.m))
  | 7 => some (.acas o.d o.a o.b (lblOf o.m))
  | 8 => some (.aaddd o.d o.a o.b (lblOf o.m))
  | 9 => some (.acasd o.d o.a o.b (lblOf o.m))
  | 10 => (Scp.ofCode o.m).map fun m => .fence m
  | 11 => some (.fencef o.d o.a o.b (lblOf o.m))
  | 12 => some (.waita o.d o.a o.b (lblOf o.m))
  | 13 => some (.barv o.d o.a o.b)
  | 14 => some (.barw o.a o.b)
  | 15 => some (.amsg o.d o.a o.b)
  | _ => none

/-- The instruction of a lane-set opcode with its operands. -/
def laneBuild (op : Nat) (o : Operands) : Option Instr :=
  match op / 16 with
  | 0 => laneBuild0 (op % 16) o
  | 1 => laneBuild1 (op % 16) o
  | 2 => laneBuild2 (op % 16) o
  | 3 => laneBuild3 (op % 16) o
  | 4 => laneBuild4 (op % 16) o
  | 5 => laneBuild5 (op % 16) o
  | 6 => laneBuild6 (op % 16) o
  | 7 => laneBuild7 (op % 16) o
  | _ => none

/-- The instruction of a team-set opcode 0x00 to 0x0F with its operands. -/
def teamBuild0 (lo : Nat) (o : Operands) : Option Instr :=
  match lo with
  | 0 => (Sat.ofCode o.m).map fun m => .teamIadd o.d o.a o.b m
  | 1 => (Sat.ofCode o.m).map fun m => .teamIsub o.d o.a o.b m
  | 2 => some (.teamImul o.d o.a o.b)
  | 3 => (Sgn.ofCode o.m).map fun m => .teamImulh o.d o.a o.b m
  | 4 => some (.teamImad o.d o.a o.b)
  | 5 => (Sgn.ofCode o.m).map fun m => .teamIdiv o.d o.a o.b m
  | 6 => (Sgn.ofCode o.m).map fun m => .teamIrem o.d o.a o.b m
  | 7 => (Sgn.ofCode o.m).map fun m => .teamImin o.d o.a o.b m
  | 8 => (Sgn.ofCode o.m).map fun m => .teamImax o.d o.a o.b m
  | 9 => some (.teamIabs o.d o.a)
  | 10 => some (.teamDadd o.d o.a o.b)
  | 11 => some (.teamDsub o.d o.a o.b)
  | 12 => some (.teamDmul o.d o.a o.b)
  | 13 => some (.teamDneg o.d o.a)
  | 14 => some (.teamAnd o.d o.a o.b)
  | 15 => some (.teamOr o.d o.a o.b)
  | _ => none

/-- The instruction of a team-set opcode 0x10 to 0x1F with its operands. -/
def teamBuild1 (lo : Nat) (o : Operands) : Option Instr :=
  match lo with
  | 0 => some (.teamXor o.d o.a o.b)
  | 1 => some (.teamAndn o.d o.a o.b)
  | 2 => some (.teamNot o.d o.a)
  | 3 => some (.teamShl o.d o.a o.b)
  | 4 => some (.teamShr o.d o.a o.b)
  | 5 => some (.teamSar o.d o.a o.b)
  | 6 => some (.teamRol o.d o.a o.b)
  | 7 => some (.teamRor o.d o.a o.b)
  | 8 => (Sgn.ofCode o.m).map fun m => .teamBfx o.d o.a o.b m
  | 9 => some (.teamBfi o.d o.a o.b)
  | 10 => some (.teamPopc o.d o.a)
  | 11 => some (.teamClz o.d o.a)
  | 12 => some (.teamCtz o.d o.a)
  | 13 => some (.teamBrev o.d o.a)
  | 14 => some (.teamDshl o.d o.a o.b)
  | 15 => (Sgn.ofCode o.m).map fun m => .teamDshr o.d o.a o.b m
  | _ => none

/-- The instruction of a team-set opcode 0x20 to 0x2F with its operands. -/
def teamBuild2 (lo : Nat) (o : Operands) : Option Instr :=
  match lo with
  | 0 => (Icc.ofCode o.m).map fun m => .teamIcmp o.d o.a o.b m
  | 1 => (Icc.ofCode o.m).map fun m => .teamDcmp o.d o.a o.b m
  | 2 => some (.teamSel o.d o.a o.b)
  | 3 => some (.teamMov o.d o.a)
  | 4 => some (.teamDmov o.d o.a)
  | 5 => some (.teamSread o.d o.imm)
  | 6 => some (.teamSwrite o.a o.imm)
  | 7 => (Rmu.ofCode o.m).map fun m => .teamCvtif o.d o.a m
  | 8 => (Rmu.ofCode o.m).map fun m => .teamCvtfi o.d o.a m
  | 9 => (Rmu.ofCode o.m).map fun m => .teamCvtdf o.d o.a m
  | 10 => (Rmu.ofCode o.m).map fun m => .teamCvtfd o.d o.a m
  | 11 => (ExtMode.ofCode o.m).map fun m => .teamExt o.d o.a m
  | 12 => (Sgn.ofCode o.m).map fun m => .teamDext o.d o.a m
  | 13 => some (.teamLdi o.d o.imm)
  | 14 => some (.teamAlwr o.d o.a)
  | _ => none

/-- The instruction of a team-set opcode 0x30 to 0x3F with its operands. -/
def teamBuild3 (lo : Nat) (o : Operands) : Option Instr :=
  match lo with
  | 0 => some (.teamBra o.imm)
  | 1 => some (.teamBnz o.a o.imm)
  | 2 => some (.teamBz o.a o.imm)
  | 3 => some (.teamCall o.imm)
  | 4 => some (.teamCallr o.a)
  | 5 => some (.teamJmpr o.a)
  | 6 => some .teamRet
  | 7 => some .teamExit
  | 8 => some (.teamTrap o.imm)
  | 9 => some (.teamBkpt o.imm)
  | 10 => some .teamYield
  | 11 => some .teamNop
  | 12 => some (.teamBalw o.a o.imm)
  | _ => none

/-- The instruction of a team-set opcode 0x40 to 0x4F with its operands. -/
def teamBuild4 (lo : Nat) (o : Operands) : Option Instr :=
  match lo with
  | 0 => some (.qld o.d o.a o.b (lblOf o.m))
  | 1 => some (.qldu o.d o.a o.b (lblOf o.m))
  | 2 => some (.qldg o.d o.a o.b (lblOf o.m))
  | 3 => some (.qsts o.d o.a o.b (lblOf o.m))
  | 4 => some (.setl o.a (lblOf o.m))
  | 5 => some (.getl o.d (lblOf o.m))
  | 6 => (Pos.ofCode o.m).map fun m => .mkl o.d o.a m
  | 7 => some (.ldl o.a o.b (lblOf o.m))
  | 8 => some (.qocc o.d o.imm)
  | _ => none

/-- The instruction of a team-set opcode 0x50 to 0x5F with its operands. -/
def teamBuild5 (lo : Nat) (o : Operands) : Option Instr :=
  match lo with
  | 0 => some (.cpy o.d o.a o.b (lblOf o.m))
  | 1 => some (.cpym o.d o.a o.b (lblOf o.m))
  | 2 => some (.cpys o.d o.a o.b (lblOf o.m))
  | 3 => (Twc.ofCode o.m).map fun m => .twait o.a o.b m
  | 4 => some (.tempty o.a)
  | 5 => some (.tstat o.d o.a)
  | 6 => some (.wld o.d o.a o.b (lblOf o.m))
  | 7 => some (.wst o.d o.a o.b (lblOf o.m))
  | 8 => some (.mmat o.d o.a o.b)
  | 9 => some (.mmad o.d o.a o.b)
  | 10 => some (.mmaz o.d o.a)
  | 11 => (Afm.ofCode o.m).map fun m => .accst o.d o.a o.b m
  | 12 => some (.accv o.d o.a)
  | 13 => some (.cpyf o.d o.a o.b (lblOf o.m))
  | _ => none

/-- The instruction of a team-set opcode 0x60 to 0x6F with its operands. -/
def teamBuild6 (lo : Nat) (o : Operands) : Option Instr :=
  match lo with
  | 0 => some (.teamBarv o.d o.a o.b)
  | 1 => some (.teamBarw o.a o.b)
  | 2 => some (.teamWaita o.d o.a o.b (lblOf o.m))
  | 3 => some (.launch o.d o.a o.b (lblOf o.m))
  | 4 => some (.cnta o.a o.b)
  | 5 => some (.cntw o.a o.b)
  | 6 => (Wrk.ofCode o.m).map fun m => .cancel o.a m
  | 7 => some (.wref o.d o.a)
  | 8 => (Lvl.ofCode o.m).map fun m => .linv o.a m
  | 9 => some (.flushr o.a o.b (lblOf o.m))
  | 10 => some (.teamAmsg o.d o.a o.b)
  | _ => none

/-- The instruction of a team-set opcode 0x70 to 0x7F with its operands. -/
def teamBuild7 (lo : Nat) (o : Operands) : Option Instr :=
  match lo with
  | 0 => some (.teamLdw o.d o.a o.b (lblOf o.m))
  | 1 => some (.teamLdd o.d o.a o.b (lblOf o.m))
  | 2 => some (.teamStw o.d o.a o.b (lblOf o.m))
  | 3 => some (.teamStd o.d o.a o.b (lblOf o.m))
  | 4 => some (.teamLdx o.d o.a o.b)
  | 5 => some (.teamStx o.d o.a o.b)
  | 6 => some (.teamAadd o.d o.a o.b (lblOf o.m))
  | 7 => some (.teamAmax o.d o.a o.b (lblOf o.m))
  | 8 => some (.teamAxch o.d o.a o.b (lblOf o.m))
  | 9 => some (.teamAcas o.d o.a o.b (lblOf o.m))
  | 10 => some (.teamAaddd o.d o.a o.b (lblOf o.m))
  | 11 => some (.teamAcasd o.d o.a o.b (lblOf o.m))
  | 12 => (Scp.ofCode o.m).map fun m => .teamFence m
  | 13 => some (.teamFencef o.d o.a o.b (lblOf o.m))
  | _ => none

/-- The instruction of a team-set opcode with its operands. -/
def teamBuild (op : Nat) (o : Operands) : Option Instr :=
  match op / 16 with
  | 0 => teamBuild0 (op % 16) o
  | 1 => teamBuild1 (op % 16) o
  | 2 => teamBuild2 (op % 16) o
  | 3 => teamBuild3 (op % 16) o
  | 4 => teamBuild4 (op % 16) o
  | 5 => teamBuild5 (op % 16) o
  | 6 => teamBuild6 (op % 16) o
  | 7 => teamBuild7 (op % 16) o
  | _ => none

/-- A queue code, 116 to 123 (R25). -/
def isQueueCode (c : BitVec 7) : Bool := decide (116 ≤ c.toNat ∧ c.toNat ≤ 123)

/-- A literal code, 124 or 125 (R25). -/
def isLiteralCode (c : BitVec 7) : Bool := c == 124 || c == 125

/-- Row 6 of R34 for a D field that is written or read as a register: code 127, a queue code in a 64-bit position, or a
lane-set code 118 to 123. A field that is not used must hold 126 (R31). Codes 124 and 125 in any D field of format A are left to
row 7. -/
def dBad (team : Bool) (k : Width) (c : BitVec 7) : Bool :=
  match k with
  | .no => c != 126 && !isLiteralCode c
  | .w32 => c == 127 || (!team && isQueueCode c && decide (118 ≤ c.toNat))
  | .w64 => c == 127 || isQueueCode c

/-- Row 6 of R34 for an A or B field: code 127, code 125 in a 32-bit position, a queue code in a 64-bit position, or a
team-set code 118 to 123. A field that is not used must hold 126 (R31). -/
def srcBad (team : Bool) (k : Width) (c : BitVec 7) : Bool :=
  match k with
  | .no => c != 126
  | .w32 => c == 127 || c == 125 || (team && isQueueCode c && decide (118 ≤ c.toNat))
  | .w64 => c == 127 || isQueueCode c

/-- Row 8 of R34 for one field: an odd register in a 64-bit position (R27). -/
def oddCode (k : Width) (c : BitVec 7) : Bool := k == .w64 && decide (c.toNat < 116) && c.getLsbD 0

/-- The first of rows 5 to 8 of R34 that applies to the fields, if any. In format J the one field stands at D. -/
def Shape.reject (sh : Shape) (r : Raw) : Option Reject :=
  match sh.format with
  | .a =>
    if ¬ r.m.toNat < sh.ms then some (.badModifier r.m)
    else if dBad r.team sh.d r.d then some (.badOperand 1 r.d)
    else if srcBad r.team sh.a r.a then some (.badOperand 2 r.a)
    else if srcBad r.team sh.b r.b then some (.badOperand 3 r.b)
    else if isLiteralCode r.d then some (.literalDest r.d)
    else if oddCode sh.d r.d then some (.oddPair 1 r.d)
    else if oddCode sh.a r.a then some (.oddPair 2 r.a)
    else if oddCode sh.b r.b then some (.oddPair 3 r.b)
    else none
  | .j =>
    if isLiteralCode r.d then some (.badOperand 1 r.d)
    else if (if sh.dst then dBad r.team sh.d r.d else srcBad r.team sh.d r.d) then some (.badOperand 1 r.d)
    else if oddCode sh.d r.d then some (.oddPair 1 r.d)
    else none

/-- How many literal words a source code takes (R28). -/
def litWords (c : BitVec 7) : Nat := if c = 124 then 1 else if c = 125 then 2 else 0

/-- The length in words that the fetch unit takes from a first word fetched by a slice of the set `team` (R32): one word
where the word implies no format. -/
def lengthOf (team : Bool) (w : Word) : Nat :=
  let r := Raw.ofWord w
  if r.team ≠ team then 1
  else
    match shapeOf r with
    | none => 1
    | some sh => match sh.format with
      | .j => 1
      | .a => 1 + litWords r.a + litWords r.b

/-- The destination of a D code that row 6 and row 7 of R34 pass. -/
def dstOf (c : BitVec 7) : Dst :=
  if h : c.toNat < 116 then .reg ⟨c.toNat, h⟩
  else if h : c.toNat - 116 < 8 then .queue ⟨c.toNat - 116, h⟩
  else .zero

/-- The source of an A or B code that row 6 of R34 passes, with the literal words before it, and the words left. -/
def srcOf (c : BitVec 7) (ws : List Word) : Option (Src × List Word) :=
  if h : c.toNat < 116 then some (.reg ⟨c.toNat, h⟩, ws)
  else if h : c.toNat - 116 < 8 then some (.queue ⟨c.toNat - 116, h⟩, ws)
  else if c = 124 then
    match ws with
    | w :: rest => some (.lit w, rest)
    | [] => none
  else if c = 125 then
    match ws with
    | lo :: hi :: rest => some (.lit64 (hi ++ lo), rest)
    | _ => none
  else some (.zero, ws)

/-- The operands of the fields and the literal words that follow, A's first (R28). -/
def operandsOf (sh : Shape) (r : Raw) (lits : List Word) : Option Operands :=
  match sh.format with
  | .j =>
    match srcOf r.d [] with
    | some (a, _) => some ⟨dstOf r.d, a, .zero, 0, r.imm⟩
    | none => none
  | .a =>
    match srcOf r.a lits with
    | none => none
    | some (a, rest) =>
      match srcOf r.b rest with
      | none => none
      | some (b, _) => some ⟨dstOf r.d, a, b, r.m, 0⟩

/-- The decoder: the instruction that the words stand for when a slice of the set `team` fetches them, or the first row
of R34 from 3 to 8 that rejects them. -/
def decode (team : Bool) : List Word → Except Reject Instr
  | [] => .error .truncated
  | w :: lits =>
    let r := Raw.ofWord w
    if r.team ≠ team then .error (.wrongSlice w)
    else
      match shapeOf r with
      | none => .error (.illegalOp w)
      | some sh =>
        match sh.reject r with
        | some e => .error e
        | none =>
          match operandsOf sh r lits with
          | none => .error .truncated
          | some o =>
            match (if team then teamBuild r.op.toNat o else laneBuild r.op.toNat o) with
            | some i => .ok i
            | none => .error (.illegalOp w)

/-- The code of a destination (R25). -/
def Dst.code : Dst → BitVec 7
  | .reg n => BitVec.ofNat 7 n.val
  | .queue n => BitVec.ofNat 7 (116 + n.val)
  | .zero => 126

/-- The code of a source (R25, R28). -/
def Src.code : Src → BitVec 7
  | .reg n => BitVec.ofNat 7 n.val
  | .queue n => BitVec.ofNat 7 (116 + n.val)
  | .lit _ => 124
  | .lit64 _ => 125
  | .zero => 126

/-- The literal words of a source, the low word first (R28). -/
def Src.words : Src → List Word
  | .lit w => [w]
  | .lit64 v => [v.extractLsb' 0 32, v.extractLsb' 32 32]
  | _ => []

/-- A format J word's fields (R23). -/
def rawJ (team : Bool) (op : BitVec 7) (d : BitVec 7) (imm : BitVec 17) : Raw :=
  ⟨team, op, d, imm.extractLsb' 10 7, imm.extractLsb' 3 7, imm.extractLsb' 0 3⟩


/-- The raw word fields of an instruction and its literal words, from the encoding tables (R22, R23, R44 to R54); `none`
for a step that no word encodes. -/
def Instr.raw : Instr → Option (Raw × List Word)
  | .iadd d a b m => some (⟨false, 0x00, d.code, a.code, b.code, m.code⟩, a.words ++ b.words)
  | .isub d a b m => some (⟨false, 0x01, d.code, a.code, b.code, m.code⟩, a.words ++ b.words)
  | .imul d a b => some (⟨false, 0x02, d.code, a.code, b.code, 0⟩, a.words ++ b.words)
  | .imulh d a b m => some (⟨false, 0x03, d.code, a.code, b.code, m.code⟩, a.words ++ b.words)
  | .imad d a b => some (⟨false, 0x04, d.code, a.code, b.code, 0⟩, a.words ++ b.words)
  | .idiv d a b m => some (⟨false, 0x05, d.code, a.code, b.code, m.code⟩, a.words ++ b.words)
  | .irem d a b m => some (⟨false, 0x06, d.code, a.code, b.code, m.code⟩, a.words ++ b.words)
  | .imin d a b m => some (⟨false, 0x07, d.code, a.code, b.code, m.code⟩, a.words ++ b.words)
  | .imax d a b m => some (⟨false, 0x08, d.code, a.code, b.code, m.code⟩, a.words ++ b.words)
  | .iabs d a => some (⟨false, 0x09, d.code, a.code, 126, 0⟩, a.words)
  | .dadd d a b => some (⟨false, 0x0A, d.code, a.code, b.code, 0⟩, a.words ++ b.words)
  | .dsub d a b => some (⟨false, 0x0B, d.code, a.code, b.code, 0⟩, a.words ++ b.words)
  | .dmul d a b => some (⟨false, 0x0C, d.code, a.code, b.code, 0⟩, a.words ++ b.words)
  | .dneg d a => some (⟨false, 0x0D, d.code, a.code, 126, 0⟩, a.words)
  | .and d a b => some (⟨false, 0x0E, d.code, a.code, b.code, 0⟩, a.words ++ b.words)
  | .or d a b => some (⟨false, 0x0F, d.code, a.code, b.code, 0⟩, a.words ++ b.words)
  | .xor d a b => some (⟨false, 0x10, d.code, a.code, b.code, 0⟩, a.words ++ b.words)
  | .andn d a b => some (⟨false, 0x11, d.code, a.code, b.code, 0⟩, a.words ++ b.words)
  | .not d a => some (⟨false, 0x12, d.code, a.code, 126, 0⟩, a.words)
  | .shl d a b => some (⟨false, 0x13, d.code, a.code, b.code, 0⟩, a.words ++ b.words)
  | .shr d a b => some (⟨false, 0x14, d.code, a.code, b.code, 0⟩, a.words ++ b.words)
  | .sar d a b => some (⟨false, 0x15, d.code, a.code, b.code, 0⟩, a.words ++ b.words)
  | .rol d a b => some (⟨false, 0x16, d.code, a.code, b.code, 0⟩, a.words ++ b.words)
  | .ror d a b => some (⟨false, 0x17, d.code, a.code, b.code, 0⟩, a.words ++ b.words)
  | .bfx d a b m => some (⟨false, 0x18, d.code, a.code, b.code, m.code⟩, a.words ++ b.words)
  | .bfi d a b => some (⟨false, 0x19, d.code, a.code, b.code, 0⟩, a.words ++ b.words)
  | .popc d a => some (⟨false, 0x1A, d.code, a.code, 126, 0⟩, a.words)
  | .clz d a => some (⟨false, 0x1B, d.code, a.code, 126, 0⟩, a.words)
  | .ctz d a => some (⟨false, 0x1C, d.code, a.code, 126, 0⟩, a.words)
  | .brev d a => some (⟨false, 0x1D, d.code, a.code, 126, 0⟩, a.words)
  | .dshl d a b => some (⟨false, 0x1E, d.code, a.code, b.code, 0⟩, a.words ++ b.words)
  | .dshr d a b m => some (⟨false, 0x1F, d.code, a.code, b.code, m.code⟩, a.words ++ b.words)
  | .icmp d a b m => some (⟨false, 0x20, d.code, a.code, b.code, m.code⟩, a.words ++ b.words)
  | .dcmp d a b m => some (⟨false, 0x21, d.code, a.code, b.code, m.code⟩, a.words ++ b.words)
  | .sel d a b => some (⟨false, 0x22, d.code, a.code, b.code, 0⟩, a.words ++ b.words)
  | .mov d a => some (⟨false, 0x23, d.code, a.code, 126, 0⟩, a.words)
  | .dmov d a => some (⟨false, 0x24, d.code, a.code, 126, 0⟩, a.words)
  | .sread d imm => some (rawJ false 0x25 d.code imm, [])
  | .swrite a imm => some (rawJ false 0x26 a.code imm, [])
  | .cvtif d a m => some (⟨false, 0x27, d.code, a.code, 126, m.code⟩, a.words)
  | .cvtfi d a m => some (⟨false, 0x28, d.code, a.code, 126, m.code⟩, a.words)
  | .cvtdf d a m => some (⟨false, 0x29, d.code, a.code, 126, m.code⟩, a.words)
  | .cvtfd d a m => some (⟨false, 0x2A, d.code, a.code, 126, m.code⟩, a.words)
  | .ext d a m => some (⟨false, 0x2B, d.code, a.code, 126, m.code⟩, a.words)
  | .dext d a m => some (⟨false, 0x2C, d.code, a.code, 126, m.code⟩, a.words)
  | .ldi d imm => some (rawJ false 0x2D d.code imm, [])
  | .alwr d a => some (⟨false, 0x2E, d.code, a.code, 126, 0⟩, a.words)
  | .bra imm => some (rawJ false 0x30 126 imm, [])
  | .bnz a imm => some (rawJ false 0x31 a.code imm, [])
  | .bz a imm => some (rawJ false 0x32 a.code imm, [])
  | .call imm => some (rawJ false 0x33 126 imm, [])
  | .callr a => some (⟨false, 0x34, 126, a.code, 126, 0⟩, a.words)
  | .jmpr a => some (⟨false, 0x35, 126, a.code, 126, 0⟩, a.words)
  | .ret => some (⟨false, 0x36, 126, 126, 126, 0⟩, [])
  | .exit => some (⟨false, 0x37, 126, 126, 126, 0⟩, [])
  | .trap imm => some (rawJ false 0x38 126 imm, [])
  | .bkpt imm => some (rawJ false 0x39 126 imm, [])
  | .yield => some (⟨false, 0x3A, 126, 126, 126, 0⟩, [])
  | .nop => some (⟨false, 0x3B, 126, 126, 126, 0⟩, [])
  | .balw a imm => some (rawJ false 0x3C a.code imm, [])
  | .fadd d a b m => some (⟨false, 0x40, d.code, a.code, b.code, m.code⟩, a.words ++ b.words)
  | .fsub d a b m => some (⟨false, 0x41, d.code, a.code, b.code, m.code⟩, a.words ++ b.words)
  | .fmul d a b m => some (⟨false, 0x42, d.code, a.code, b.code, m.code⟩, a.words ++ b.words)
  | .fmin d a b => some (⟨false, 0x43, d.code, a.code, b.code, 0⟩, a.words ++ b.words)
  | .fmax d a b => some (⟨false, 0x44, d.code, a.code, b.code, 0⟩, a.words ++ b.words)
  | .fabs d a => some (⟨false, 0x45, d.code, a.code, 126, 0⟩, a.words)
  | .fmac d a b m => some (⟨false, 0x46, d.code, a.code, b.code, m.code⟩, a.words ++ b.words)
  | .fnmac d a b m => some (⟨false, 0x47, d.code, a.code, b.code, m.code⟩, a.words ++ b.words)
  | .fdiv d a b m => some (⟨false, 0x48, d.code, a.code, b.code, m.code⟩, a.words ++ b.words)
  | .fsqrt d a m => some (⟨false, 0x49, d.code, a.code, 126, m.code⟩, a.words)
  | .frcp d a => some (⟨false, 0x4A, d.code, a.code, 126, 0⟩, a.words)
  | .frsq d a => some (⟨false, 0x4B, d.code, a.code, 126, 0⟩, a.words)
  | .fexp2 d a => some (⟨false, 0x4C, d.code, a.code, 126, 0⟩, a.words)
  | .flog2 d a => some (⟨false, 0x4D, d.code, a.code, 126, 0⟩, a.words)
  | .fneg d a => some (⟨false, 0x4E, d.code, a.code, 126, 0⟩, a.words)
  | .fcmp d a b m => some (⟨false, 0x4F, d.code, a.code, b.code, m.code⟩, a.words ++ b.words)
  | .fclass d a => some (⟨false, 0x50, d.code, a.code, 126, 0⟩, a.words)
  | .frnd d a m => some (⟨false, 0x51, d.code, a.code, 126, m.code⟩, a.words)
  | .cvtbf d a m => some (⟨false, 0x52, d.code, a.code, 126, m.code⟩, a.words)
  | .cvtfb d a => some (⟨false, 0x53, d.code, a.code, 126, 0⟩, a.words)
  | .cvte4 d a m => some (⟨false, 0x54, d.code, a.code, 126, m.code⟩, a.words)
  | .cvte5 d a m => some (⟨false, 0x55, d.code, a.code, 126, m.code⟩, a.words)
  | .cvt4f d a => some (⟨false, 0x56, d.code, a.code, 126, 0⟩, a.words)
  | .cvt5f d a => some (⟨false, 0x57, d.code, a.code, 126, 0⟩, a.words)
  | .qnt8 d a b m => some (⟨false, 0x58, d.code, a.code, b.code, m.code⟩, a.words ++ b.words)
  | .dq8 d a b => some (⟨false, 0x59, d.code, a.code, b.code, 0⟩, a.words ++ b.words)
  | .qnt4 d a b m => some (⟨false, 0x5A, d.code, a.code, b.code, m.code⟩, a.words ++ b.words)
  | .dq4 d a b => some (⟨false, 0x5B, d.code, a.code, b.code, 0⟩, a.words ++ b.words)
  | .bpack d a m => some (⟨false, 0x5C, d.code, a.code, 126, m.code⟩, a.words)
  | .bunpk d a m => some (⟨false, 0x5D, d.code, a.code, 126, m.code⟩, a.words)
  | .fscl d a b m => some (⟨false, 0x5E, d.code, a.code, b.code, m.code⟩, a.words ++ b.words)
  | .setc a => some (⟨false, 0x60, 126, a.code, 126, 0⟩, a.words)
  | .join => some (⟨false, 0x61, 126, 126, 126, 0⟩, [])
  | .shfl d a b m => some (⟨false, 0x62, d.code, a.code, b.code, m.code⟩, a.words ++ b.words)
  | .vote d a m => some (⟨false, 0x63, d.code, a.code, 126, m.code⟩, a.words)
  | .sift d a => some (⟨false, 0x64, d.code, a.code, 126, 0⟩, a.words)
  | .credf d a m => some (⟨false, 0x65, d.code, a.code, 126, m.code⟩, a.words)
  | .credi d a m => some (⟨false, 0x66, d.code, a.code, 126, m.code⟩, a.words)
  | .ldw d a b l => some (⟨false, 0x68, d.code, a.code, b.code, (lblCode l)⟩, a.words ++ b.words)
  | .ldd d a b l => some (⟨false, 0x69, d.code, a.code, b.code, (lblCode l)⟩, a.words ++ b.words)
  | .ldh d a b l => some (⟨false, 0x6A, d.code, a.code, b.code, (lblCode l)⟩, a.words ++ b.words)
  | .ldb d a b l => some (⟨false, 0x6B, d.code, a.code, b.code, (lblCode l)⟩, a.words ++ b.words)
  | .stw d a b l => some (⟨false, 0x6C, d.code, a.code, b.code, (lblCode l)⟩, a.words ++ b.words)
  | .std d a b l => some (⟨false, 0x6D, d.code, a.code, b.code, (lblCode l)⟩, a.words ++ b.words)
  | .sth d a b l => some (⟨false, 0x6E, d.code, a.code, b.code, (lblCode l)⟩, a.words ++ b.words)
  | .stb d a b l => some (⟨false, 0x6F, d.code, a.code, b.code, (lblCode l)⟩, a.words ++ b.words)
  | .lde d a b l => some (⟨false, 0x70, d.code, a.code, b.code, (lblCode l)⟩, a.words ++ b.words)
  | .ldx d a b => some (⟨false, 0x71, d.code, a.code, b.code, 0⟩, a.words ++ b.words)
  | .stx d a b => some (⟨false, 0x72, d.code, a.code, b.code, 0⟩, a.words ++ b.words)
  | .aadd d a b l => some (⟨false, 0x73, d.code, a.code, b.code, (lblCode l)⟩, a.words ++ b.words)
  | .amax d a b l => some (⟨false, 0x74, d.code, a.code, b.code, (lblCode l)⟩, a.words ++ b.words)
  | .aor d a b l => some (⟨false, 0x75, d.code, a.code, b.code, (lblCode l)⟩, a.words ++ b.words)
  | .axch d a b l => some (⟨false, 0x76, d.code, a.code, b.code, (lblCode l)⟩, a.words ++ b.words)
  | .acas d a b l => some (⟨false, 0x77, d.code, a.code, b.code, (lblCode l)⟩, a.words ++ b.words)
  | .aaddd d a b l => some (⟨false, 0x78, d.code, a.code, b.code, (lblCode l)⟩, a.words ++ b.words)
  | .acasd d a b l => some (⟨false, 0x79, d.code, a.code, b.code, (lblCode l)⟩, a.words ++ b.words)
  | .fence m => some (⟨false, 0x7A, 126, 126, 126, m.code⟩, [])
  | .fencef d a b l => some (⟨false, 0x7B, d.code, a.code, b.code, (lblCode l)⟩, a.words ++ b.words)
  | .waita d a b l => some (⟨false, 0x7C, d.code, a.code, b.code, (lblCode l)⟩, a.words ++ b.words)
  | .barv d a b => some (⟨false, 0x7D, d.code, a.code, b.code, 0⟩, a.words ++ b.words)
  | .barw a b => some (⟨false, 0x7E, 126, a.code, b.code, 0⟩, a.words ++ b.words)
  | .amsg d a b => some (⟨false, 0x7F, d.code, a.code, b.code, 0⟩, a.words ++ b.words)
  | .teamIadd d a b m => some (⟨true, 0x00, d.code, a.code, b.code, m.code⟩, a.words ++ b.words)
  | .teamIsub d a b m => some (⟨true, 0x01, d.code, a.code, b.code, m.code⟩, a.words ++ b.words)
  | .teamImul d a b => some (⟨true, 0x02, d.code, a.code, b.code, 0⟩, a.words ++ b.words)
  | .teamImulh d a b m => some (⟨true, 0x03, d.code, a.code, b.code, m.code⟩, a.words ++ b.words)
  | .teamImad d a b => some (⟨true, 0x04, d.code, a.code, b.code, 0⟩, a.words ++ b.words)
  | .teamIdiv d a b m => some (⟨true, 0x05, d.code, a.code, b.code, m.code⟩, a.words ++ b.words)
  | .teamIrem d a b m => some (⟨true, 0x06, d.code, a.code, b.code, m.code⟩, a.words ++ b.words)
  | .teamImin d a b m => some (⟨true, 0x07, d.code, a.code, b.code, m.code⟩, a.words ++ b.words)
  | .teamImax d a b m => some (⟨true, 0x08, d.code, a.code, b.code, m.code⟩, a.words ++ b.words)
  | .teamIabs d a => some (⟨true, 0x09, d.code, a.code, 126, 0⟩, a.words)
  | .teamDadd d a b => some (⟨true, 0x0A, d.code, a.code, b.code, 0⟩, a.words ++ b.words)
  | .teamDsub d a b => some (⟨true, 0x0B, d.code, a.code, b.code, 0⟩, a.words ++ b.words)
  | .teamDmul d a b => some (⟨true, 0x0C, d.code, a.code, b.code, 0⟩, a.words ++ b.words)
  | .teamDneg d a => some (⟨true, 0x0D, d.code, a.code, 126, 0⟩, a.words)
  | .teamAnd d a b => some (⟨true, 0x0E, d.code, a.code, b.code, 0⟩, a.words ++ b.words)
  | .teamOr d a b => some (⟨true, 0x0F, d.code, a.code, b.code, 0⟩, a.words ++ b.words)
  | .teamXor d a b => some (⟨true, 0x10, d.code, a.code, b.code, 0⟩, a.words ++ b.words)
  | .teamAndn d a b => some (⟨true, 0x11, d.code, a.code, b.code, 0⟩, a.words ++ b.words)
  | .teamNot d a => some (⟨true, 0x12, d.code, a.code, 126, 0⟩, a.words)
  | .teamShl d a b => some (⟨true, 0x13, d.code, a.code, b.code, 0⟩, a.words ++ b.words)
  | .teamShr d a b => some (⟨true, 0x14, d.code, a.code, b.code, 0⟩, a.words ++ b.words)
  | .teamSar d a b => some (⟨true, 0x15, d.code, a.code, b.code, 0⟩, a.words ++ b.words)
  | .teamRol d a b => some (⟨true, 0x16, d.code, a.code, b.code, 0⟩, a.words ++ b.words)
  | .teamRor d a b => some (⟨true, 0x17, d.code, a.code, b.code, 0⟩, a.words ++ b.words)
  | .teamBfx d a b m => some (⟨true, 0x18, d.code, a.code, b.code, m.code⟩, a.words ++ b.words)
  | .teamBfi d a b => some (⟨true, 0x19, d.code, a.code, b.code, 0⟩, a.words ++ b.words)
  | .teamPopc d a => some (⟨true, 0x1A, d.code, a.code, 126, 0⟩, a.words)
  | .teamClz d a => some (⟨true, 0x1B, d.code, a.code, 126, 0⟩, a.words)
  | .teamCtz d a => some (⟨true, 0x1C, d.code, a.code, 126, 0⟩, a.words)
  | .teamBrev d a => some (⟨true, 0x1D, d.code, a.code, 126, 0⟩, a.words)
  | .teamDshl d a b => some (⟨true, 0x1E, d.code, a.code, b.code, 0⟩, a.words ++ b.words)
  | .teamDshr d a b m => some (⟨true, 0x1F, d.code, a.code, b.code, m.code⟩, a.words ++ b.words)
  | .teamIcmp d a b m => some (⟨true, 0x20, d.code, a.code, b.code, m.code⟩, a.words ++ b.words)
  | .teamDcmp d a b m => some (⟨true, 0x21, d.code, a.code, b.code, m.code⟩, a.words ++ b.words)
  | .teamSel d a b => some (⟨true, 0x22, d.code, a.code, b.code, 0⟩, a.words ++ b.words)
  | .teamMov d a => some (⟨true, 0x23, d.code, a.code, 126, 0⟩, a.words)
  | .teamDmov d a => some (⟨true, 0x24, d.code, a.code, 126, 0⟩, a.words)
  | .teamSread d imm => some (rawJ true 0x25 d.code imm, [])
  | .teamSwrite a imm => some (rawJ true 0x26 a.code imm, [])
  | .teamCvtif d a m => some (⟨true, 0x27, d.code, a.code, 126, m.code⟩, a.words)
  | .teamCvtfi d a m => some (⟨true, 0x28, d.code, a.code, 126, m.code⟩, a.words)
  | .teamCvtdf d a m => some (⟨true, 0x29, d.code, a.code, 126, m.code⟩, a.words)
  | .teamCvtfd d a m => some (⟨true, 0x2A, d.code, a.code, 126, m.code⟩, a.words)
  | .teamExt d a m => some (⟨true, 0x2B, d.code, a.code, 126, m.code⟩, a.words)
  | .teamDext d a m => some (⟨true, 0x2C, d.code, a.code, 126, m.code⟩, a.words)
  | .teamLdi d imm => some (rawJ true 0x2D d.code imm, [])
  | .teamAlwr d a => some (⟨true, 0x2E, d.code, a.code, 126, 0⟩, a.words)
  | .teamBra imm => some (rawJ true 0x30 126 imm, [])
  | .teamBnz a imm => some (rawJ true 0x31 a.code imm, [])
  | .teamBz a imm => some (rawJ true 0x32 a.code imm, [])
  | .teamCall imm => some (rawJ true 0x33 126 imm, [])
  | .teamCallr a => some (⟨true, 0x34, 126, a.code, 126, 0⟩, a.words)
  | .teamJmpr a => some (⟨true, 0x35, 126, a.code, 126, 0⟩, a.words)
  | .teamRet => some (⟨true, 0x36, 126, 126, 126, 0⟩, [])
  | .teamExit => some (⟨true, 0x37, 126, 126, 126, 0⟩, [])
  | .teamTrap imm => some (rawJ true 0x38 126 imm, [])
  | .teamBkpt imm => some (rawJ true 0x39 126 imm, [])
  | .teamYield => some (⟨true, 0x3A, 126, 126, 126, 0⟩, [])
  | .teamNop => some (⟨true, 0x3B, 126, 126, 126, 0⟩, [])
  | .teamBalw a imm => some (rawJ true 0x3C a.code imm, [])
  | .qld d a b l => some (⟨true, 0x40, d.code, a.code, b.code, (lblCode l)⟩, a.words ++ b.words)
  | .qldu d a b l => some (⟨true, 0x41, d.code, a.code, b.code, (lblCode l)⟩, a.words ++ b.words)
  | .qldg d a b l => some (⟨true, 0x42, d.code, a.code, b.code, (lblCode l)⟩, a.words ++ b.words)
  | .qsts d a b l => some (⟨true, 0x43, d.code, a.code, b.code, (lblCode l)⟩, a.words ++ b.words)
  | .setl a l => some (⟨true, 0x44, 126, a.code, 126, (lblCode l)⟩, a.words)
  | .getl d l => some (⟨true, 0x45, d.code, 126, 126, (lblCode l)⟩, [])
  | .mkl d a m => some (⟨true, 0x46, d.code, a.code, 126, m.code⟩, a.words)
  | .ldl a b l => some (⟨true, 0x47, 126, a.code, b.code, (lblCode l)⟩, a.words ++ b.words)
  | .qocc d imm => some (rawJ true 0x48 d.code imm, [])
  | .cpy d a b l => some (⟨true, 0x50, d.code, a.code, b.code, (lblCode l)⟩, a.words ++ b.words)
  | .cpym d a b l => some (⟨true, 0x51, d.code, a.code, b.code, (lblCode l)⟩, a.words ++ b.words)
  | .cpys d a b l => some (⟨true, 0x52, d.code, a.code, b.code, (lblCode l)⟩, a.words ++ b.words)
  | .twait a b m => some (⟨true, 0x53, 126, a.code, b.code, m.code⟩, a.words ++ b.words)
  | .tempty a => some (⟨true, 0x54, 126, a.code, 126, 0⟩, a.words)
  | .tstat d a => some (⟨true, 0x55, d.code, a.code, 126, 0⟩, a.words)
  | .wld d a b l => some (⟨true, 0x56, d.code, a.code, b.code, (lblCode l)⟩, a.words ++ b.words)
  | .wst d a b l => some (⟨true, 0x57, d.code, a.code, b.code, (lblCode l)⟩, a.words ++ b.words)
  | .mmat d a b => some (⟨true, 0x58, d.code, a.code, b.code, 0⟩, a.words ++ b.words)
  | .mmad d a b => some (⟨true, 0x59, d.code, a.code, b.code, 0⟩, a.words ++ b.words)
  | .mmaz d a => some (⟨true, 0x5A, d.code, a.code, 126, 0⟩, a.words)
  | .accst d a b m => some (⟨true, 0x5B, d.code, a.code, b.code, m.code⟩, a.words ++ b.words)
  | .accv d a => some (⟨true, 0x5C, d.code, a.code, 126, 0⟩, a.words)
  | .cpyf d a b l => some (⟨true, 0x5D, d.code, a.code, b.code, (lblCode l)⟩, a.words ++ b.words)
  | .teamBarv d a b => some (⟨true, 0x60, d.code, a.code, b.code, 0⟩, a.words ++ b.words)
  | .teamBarw a b => some (⟨true, 0x61, 126, a.code, b.code, 0⟩, a.words ++ b.words)
  | .teamWaita d a b l => some (⟨true, 0x62, d.code, a.code, b.code, (lblCode l)⟩, a.words ++ b.words)
  | .launch d a b l => some (⟨true, 0x63, d.code, a.code, b.code, (lblCode l)⟩, a.words ++ b.words)
  | .cnta a b => some (⟨true, 0x64, 126, a.code, b.code, 0⟩, a.words ++ b.words)
  | .cntw a b => some (⟨true, 0x65, 126, a.code, b.code, 0⟩, a.words ++ b.words)
  | .cancel a m => some (⟨true, 0x66, 126, a.code, 126, m.code⟩, a.words)
  | .wref d a => some (⟨true, 0x67, d.code, a.code, 126, 0⟩, a.words)
  | .linv a m => some (⟨true, 0x68, 126, a.code, 126, m.code⟩, a.words)
  | .flushr a b l => some (⟨true, 0x69, 126, a.code, b.code, (lblCode l)⟩, a.words ++ b.words)
  | .teamAmsg d a b => some (⟨true, 0x6A, d.code, a.code, b.code, 0⟩, a.words ++ b.words)
  | .teamLdw d a b l => some (⟨true, 0x70, d.code, a.code, b.code, (lblCode l)⟩, a.words ++ b.words)
  | .teamLdd d a b l => some (⟨true, 0x71, d.code, a.code, b.code, (lblCode l)⟩, a.words ++ b.words)
  | .teamStw d a b l => some (⟨true, 0x72, d.code, a.code, b.code, (lblCode l)⟩, a.words ++ b.words)
  | .teamStd d a b l => some (⟨true, 0x73, d.code, a.code, b.code, (lblCode l)⟩, a.words ++ b.words)
  | .teamLdx d a b => some (⟨true, 0x74, d.code, a.code, b.code, 0⟩, a.words ++ b.words)
  | .teamStx d a b => some (⟨true, 0x75, d.code, a.code, b.code, 0⟩, a.words ++ b.words)
  | .teamAadd d a b l => some (⟨true, 0x76, d.code, a.code, b.code, (lblCode l)⟩, a.words ++ b.words)
  | .teamAmax d a b l => some (⟨true, 0x77, d.code, a.code, b.code, (lblCode l)⟩, a.words ++ b.words)
  | .teamAxch d a b l => some (⟨true, 0x78, d.code, a.code, b.code, (lblCode l)⟩, a.words ++ b.words)
  | .teamAcas d a b l => some (⟨true, 0x79, d.code, a.code, b.code, (lblCode l)⟩, a.words ++ b.words)
  | .teamAaddd d a b l => some (⟨true, 0x7A, d.code, a.code, b.code, (lblCode l)⟩, a.words ++ b.words)
  | .teamAcasd d a b l => some (⟨true, 0x7B, d.code, a.code, b.code, (lblCode l)⟩, a.words ++ b.words)
  | .teamFence m => some (⟨true, 0x7C, 126, 126, 126, m.code⟩, [])
  | .teamFencef d a b l => some (⟨true, 0x7D, d.code, a.code, b.code, (lblCode l)⟩, a.words ++ b.words)
  | .illegalOp _ => none
  | .wrongSlice _ => none
  | .fetchRange _ => none
  | .wake _ => none
  | .loadComplete _ _ => none
  | .queueElementPerform _ _ => none
  | .homeStore _ => none
  | .homeAtomic _ => none
  | .leaseRenewal _ => none
  | .lineFill _ _ => none
  | .mscFill _ _ _ => none
  | .waitaWake _ => none
  | .ctTick _ => none
  | .drowsy _ _ => none
  | .copyStart _ _ => none
  | .chunkLand _ _ _ _ => none
  | .copyComplete _ _ => none
  | .arrayStart _ _ => none
  | .arrayResult _ => none
  | .temptyEffect _ _ => none
  | .barrierContribution _ => none
  | .teamEnd _ => none
  | .trapRecordWrite _ => none
  | .faultRecordWrite _ => none
  | .recordRetry _ => none
  | .faultAckResume _ _ _ => none
  | .faultAckRefuse _ _ _ => none
  | .faultqDescriptorWrite _ _ _ _ => none
  | .lqtail _ _ _ => none
  | .recordCurrent _ => none
  | .placeGang => none
  | .priorityAging _ => none
  | .loaderWaitExpiry _ => none
  | .preempt => none
  | .preload _ => none
  | .bankSwap _ => none
  | .spill _ => none
  | .extract _ _ => none
  | .launchComplete _ => none
  | .combinerDrain _ => none
  | .handlerCreate => none
  | .rcmdResume _ _ _ _ => none
  | .rcmdRetire _ _ _ _ => none
  | .counterWrite _ _ _ => none
  | .lcpcmd _ _ => none
  | .lcpInvalidationComplete => none
  | .partitionWrite _ _ _ => none
  | .quotaUpdate _ => none
  | .debugSlotWrite _ _ _ _ => none
  | .registerWrite _ _ _ => none
  | .hostAccess _ _ _ _ _ => none
  | .refresh _ => none
  | .uncorrectableError _ => none
  | .meshCrcFailure _ _ _ => none
  | .packetArrival _ => none
  | .refusal _ _ => none
  | .acknowledgement _ => none
  | .grant _ _ _ => none
  | .flitAuthFailure _ _ => none
  | .linkKeyExhausted _ _ => none
  | .scaleOutResend _ => none
  | .holdExpiry _ => none
  | .keyload _ => none
  | .keyfree _ => none
  | .scrub _ => none
  | .scrubComplete => none
  | .readback _ => none
  | .svnadvance _ => none
  | .fmenrol _ => none
  | .phasemap _ => none
  | .incarnation _ => none
  | .inctab _ => none
  | .icred _ => none
  | .linkkey _ => none
  | .linkstat _ => none
  | .dcmdResume _ _ _ _ => none
  | .stepteam _ _ _ _ => none
  | .regwrite _ _ _ _ => none
  | .dcmdRetire _ _ _ _ => none
  | .stepon _ _ _ _ => none
  | .stepoff _ _ _ _ => none
  | .flagwrite _ _ _ _ => none
  | .sample _ _ => none
  | .recover _ _ => none
  | .go _ _ => none
  | .recoveryImageVerify _ => none
  | .scanModeEntry _ => none
  | .reset => none
  | .rom => none
  | .train _ _ _ => none
  | .clear => none
  | .link => none
  | .clockHalve _ => none
  | .clockRestore => none
  | .drain _ _ => none
  | .drainComplete => none
  | .linkDrainTimeout _ => none
  | .test _ _ => none
  | .repair _ _ _ => none
  | .returnService _ _ _ => none
  | .fwupdate _ _ => none
  | .dieReset _ => none
  | .powerLoss => none
  | .lifetimeRecordUpdate _ _ _ => none
  | .testComplete _ => none

/-- The words of an instruction: its first word, then A's literal words, then B's (R28). A step without an encoding has
none. -/
def encode (i : Instr) : List Word :=
  match i.raw with
  | some (r, lits) => r.word :: lits
  | none => []

/-- Whether a word encodes the instruction: false for the 105 steps without an encoding. -/
def Instr.hasWord (i : Instr) : Bool := i.raw.isSome

/-- The set of an instruction that a word encodes: true for the team set (R21). -/
def Instr.isTeam (i : Instr) : Bool :=
  match i.raw with
  | some (r, _) => r.team
  | none => false

/-- The length of an instruction in words (R28, R32). -/
def Instr.length (i : Instr) : Nat := (encode i).length

/-- A word from the bytes that hold it, the lowest address first (R4). -/
def wordOfBytes (b0 b1 b2 b3 : Byte) : Word := (b3 ++ b2 ++ b1 ++ b0 : BitVec 32)

/-- The words that bytes hold, four bytes to a word; bytes left over are dropped. -/
def wordsOfBytes : List Byte → List Word
  | b0 :: b1 :: b2 :: b3 :: rest => wordOfBytes b0 b1 b2 b3 :: wordsOfBytes rest
  | _ => []

/-- The bytes of `w` as memory holds them, `n` bytes from the least significant up (R4). -/
def bytesOfNat : Nat → Nat → List Byte
  | 0, _ => []
  | n + 1, w => BitVec.ofNat 8 w :: bytesOfNat n (w / 256)

/-- The longest instruction: one word and two literals of two words each (R28). -/
def maxInstrBytes : Nat := 20

/-- The instruction that the decoder reads from a table row's bits, laid out in memory order, every bit above them 0. -/
def decodeTableWord (_nbits w : Nat) : Option Instr :=
  match wordsOfBytes (bytesOfNat maxInstrBytes w) with
  | [] => none
  | w0 :: lits =>
    let team := (Raw.ofWord w0).team
    match decode team ((w0 :: lits).take (lengthOf team w0)) with
    | .ok i => some i
    | .error _ => none

end Sys2Proof
end

