-- ==== Sys2Proof/Machine/State.lean ====
section
/-! DEFINITION. The state of one HX-OZ9 package as plain data: every piece of state the spec names, the accesses and
records in motion, and the model's own schedule. INVENTORY.md lists the fields with the rules that name them. -/

namespace Sys2Proof.Machine

/-- A finite map as a list of key and value pairs with rising keys. -/
abbrev Table (α : Type) := List (Nat × α)

/-- Bytes of a memory: (address, byte) pairs, addresses strictly rising, no byte 0 listed. An unlisted address reads as 0
(log 3 for main and host memory; cleared storage for the weight store and the tiles, R434, R219). -/
abbrev Memory := List Host.Cell

/-! ### Slices -/

/-- What a waiting slice waits for (the classes of R107 that a wait carries). -/
inductive ParkClass where
  | depend | queueEmpty | queueFull | backq | tile | barrier | allowance | address | join | memory
  deriving DecidableEq, Repr

/-- What a parked strand waits for: an element at its pop position, room for its push to an entry, a barrier's phase (the
word, the phase, the next PC), its charge, its word, its circle (R98); `passed` where the phase had completed when the barrier's team
ended, with what it published (R283, R288). -/
inductive WaitFor where
  | elem (q pos elem : Nat)
  | room (q n : Nat)
  | barrier (word phase next : Word)
  | passed (ts : Option Word)
  | allowance
  | address
  | join
  deriving DecidableEq, Repr

/-- The class of a wait (R107). -/
def WaitFor.cls : WaitFor → ParkClass
  | .elem _ _ _ => .queueEmpty
  | .room _ _ => .queueFull
  | .barrier _ _ _ | .passed _ => .barrier
  | .allowance => .allowance
  | .address => .address
  | .join => .join

/-- The run states of R98 that a slice holds itself. FROZEN is the team's (`Team.frozen`), and SWAPPED is that of a slice
whose gang stands in the save pool. -/
inductive Run where
  | runnable
  | parked (w : WaitFor)
  | trapped
  | exited
  deriving DecidableEq, Repr

/-- A trap record (R103). `detail` holds D6 and D7. -/
structure TrapRecord where
  cause : Byte
  cls : BitVec 4
  pkg : BitVec 13
  id : SliceId
  nextPc : Word
  pc : Word
  launch : Word
  world : BitVec 16
  field : BitVec 3
  clock : DWord
  info0 : DWord
  info1 : DWord
  detail0 : DWord
  detail1 : DWord
  deriving DecidableEq, Repr

/-- A strand's arrival at a collective (R161): its PC, that of the next instruction, its installed mask and the sources it
gathered. -/
structure Arrival where
  pc : Word
  next : Word
  mask : DWord
  a : Word
  b : Word
  deriving DecidableEq, Repr

/-- A refused store kept at the source, with those refused BLOCKED after it (R387): its place among the slice's stores toward the target,
and `again` once it has been sent again and not been refused since. -/
structure HeldStore where
  access : Nat
  ordinal : Nat
  bucket : Nat
  target : Nat
  lw : DWord
  off : DWord
  again : Bool
  deriving DecidableEq, Repr

/-- Fabric stores and atomics of a slice toward one target since its last FENCEF there, in all, and with its FENCEFs (R399,
R411). Targets below 8,192 are packages; 8,192 + 4,096 x port + window is a scale-out window. `lost`: one that the next FENCEF to a scale-out window counts
has been discarded, and so will be the flag (R399). -/
structure FabricCount where
  target : Nat
  sinceFlag : Nat
  total : Nat
  issued : Nat
  flagged : Bool
  lost : Bool
  deriving DecidableEq, Repr

/-- The trace words of the stations C, D, P and F (R350). -/
structure StationTrace where
  c : Word := 0
  d : Word := 0
  p : Word := 0
  f : Word := 0
  deriving DecidableEq, Repr

/-- A copy of a label entry held at a station (R339): whose table it came from (launch, world or 0), label, D0 and D1. -/
structure EntryCopy where
  scope : Nat
  label : BitVec 16
  d0 : DWord
  d1 : DWord
  deriving DecidableEq, Repr

/-- Where a path ends. `regs` and `stack` are the requester's own windows. -/
inductive Dest where
  | scratch (gteam off : Nat)
  | regs (off : Nat)
  | stack (off : Nat)
  | weight (die wa : Nat)
  | main (pa key : Nat) (cache desc : Bool)
  | host (pa : Nat)
  | fabric (target label : Nat)
  | window (port number label : Nat) (raddr : Nat)
  deriving DecidableEq, Repr

/-- A path that an access may take: where it ends, what it may do there, the level, the position of the label, the trace, the copies of
entries that the walk leaves (R339) and the labels that it used at each level (R344). -/
structure Path where
  dest : Dest
  have6 : BitVec 6
  level : BitVec 2
  pos : BitVec 2
  trace : StationTrace
  copies : List (Lvl × EntryCopy)
  used : List (Nat × BitVec 16)
  deriving DecidableEq, Repr

/-- For what a requester reads an entry of its launch's C table over the fabric (R337): an instruction of the slice, a queue-load
element of the team, or a unit of a Sluice command, by its order. -/
inductive EntryFor where
  | instr
  | elems
  | unit (order u : Nat)
  deriving DecidableEq, Repr

/-- The read of an entry of a launch's C table over the fabric (R337): its label, and the access whose walk needs it, of which its fault
is reported to be one: its label word, offset, size and need. -/
structure EntryRead where
  label : Nat
  by' : EntryFor
  lw : DWord
  off : DWord
  size : Nat
  need : BitVec 6
  deriving DecidableEq, Repr

/-- Such a read that a walk has to make first: the path of the read, and its offset. -/
structure EntryFetch where
  read : EntryRead
  path : Path
  off : DWord
  deriving DecidableEq, Repr

/-- An entry of a launch's C table that a requester has read over the fabric for the walk that it makes next (R337). -/
structure TableRead where
  who : SliceName
  by' : EntryFor
  label : Nat
  bytes : List Byte
  deriving DecidableEq, Repr

/-- An element's store of a scatter that the stations have walked and not yet accepted (R231, R404); `fresh` when a LINV has made a
copy stale that its walk used (R405). -/
structure Scattered where
  off : DWord
  value : Word
  path : Path
  fresh : Bool
  deriving DecidableEq, Repr

/-- Where an access is performed. `key` is the key slot of the delivering entry. -/
inductive Place where
  | main (pa : Nat) (key : Nat) (cache : Bool)
  | scratch (gteam : Nat) (off : Nat)
  | host (pa : Nat)
  | weight (die : Nat) (wa : Nat)
  | fabric (target : Nat) (label : BitVec 16) (have6 : BitVec 6) (bucket : Nat)
  | window (port : Nat) (number : Nat) (label : BitVec 16)
  deriving DecidableEq, Repr

/-- What a waiting WAITA waits on (R284, R285): the word's place, the value it compares with, the queues it pops when it
completes, and the PC at which it then goes on; the labels of its path (R344); `woken` once the word is to be read again, `stale` once a
LINV has it walk afresh then. -/
structure Watched where
  place : Place
  old : Word
  pops : List Nat
  next : Word
  used : List (Nat × BitVec 16)
  woken : Bool
  stale : Bool
  deriving DecidableEq, Repr

/-- The state of a compute strand or an address slice (R94). `regs` has as many registers as the team declares. -/
structure Slice where
  pc : Word
  regs : List Word
  sp : Word
  fflags : Word
  circle : DWord
  stepBit : Bool
  run : Run
  /-- The class an address slice, or a slice waiting with class MEMORY, stalls with; none when it does not. -/
  stall : Option ParkClass
  /-- What it parked or stalled for at its instruction, where that is more than its class. -/
  waits : Option WaitFor
  /-- The PC of the instruction that it waits for with class DEPEND (R209, R210). -/
  blame : Option Word
  /-- The access whose data the slice's instruction waits for (R176, R227, R388). -/
  await : Option Nat
  /-- The entry of its launch's C table that its walk has to read over the fabric first (R337). -/
  fetch : Option EntryFetch
  /-- The record of its last trap (R103). -/
  record : Option TrapRecord
  /-- The count sampled at its last read of %clock (R97). -/
  clockSample : DWord
  /-- The skip mark of R439. -/
  skip : Bool
  /-- The lines of its stack window that the core cache holds: (line number, 128 bytes), R223. -/
  stack : Table (List Byte)
  arrived : Option Arrival
  /-- Pops made of q0 to q7 (R187). -/
  popped : List Nat
  /-- Pushes made to b0 and b1 (R191). -/
  pushed : List Nat
  /-- The poisoned element whose pop has trapped: queue and entry number (R201). -/
  poisonSeen : Option (Nat × Nat)
  watched : Option Watched
  held : List HeldStore
  /-- The stores of a QSTS that wait to be accepted behind one that waits for its charge (R231, R404). -/
  scatter : List Scattered
  /-- For a LINV that waits, one more than the number of the first access after its marking (R344). -/
  linv : Nat
  /-- The back-queue pops of the instruction that waits with class BACKQ, in order (R195). -/
  backq : List Nat
  fabric : List FabricCount
  /-- The cycle in which it last became eligible (R205). -/
  ready : DWord
  deriving DecidableEq, Repr

/-! ### Queues -/

/-- Kind of a queue (R63). -/
inductive QKind where
  | undeclared | uniform | lane
  deriving DecidableEq, Repr

/-- Combine rule of a UNIFORM back queue (R63, R192). -/
inductive QRule where
  | first | sum | max | or
  deriving DecidableEq, Repr

/-- A queue declaration (R63). -/
structure QueueDecl where
  kind : QKind
  rule : QRule
  float : Bool
  depth : Nat
  deriving DecidableEq, Repr

/-- The fault details of a poisoned element (R199, R214), the package that refused it (R386), and whether its fault record
has been posted (R200). -/
structure Poison where
  cause : Byte
  level : BitVec 2
  reason : Byte
  pos : BitVec 2
  label : BitVec 16
  gen : Byte
  action : BitVec 2
  need : BitVec 6
  have6 : BitVec 6
  traceC : Word
  traceD : Word
  traceP : Word
  traceF : Word
  target : Option Nat
  posted : Bool
  deriving DecidableEq, Repr

/-- State of a queue element (R197, R199, R202, R404): `sent`, charged and on its way as an access; `arrived` early, with the write
time and the lease of what it holds, or none where the value stands for good; `failed`, to be poisoned when its turn comes. -/
inductive ElemState where
  | pending
  | sent (n : Nat)
  | arrived (lease : Option (Word × Word))
  | failed (p : Poison)
  | performed
  | poisoned (p : Poison)
  deriving DecidableEq, Repr

/-- An element of a forward-queue entry: its value, the access that fills it, and the labels of the walk that brought what it
has not taken yet (R344). -/
structure Elem where
  state : ElemState
  value : Word
  lw : DWord
  off : DWord
  used : List (Nat × BitVec 16)
  deriving DecidableEq, Repr

/-- An entry of a forward queue: its elements, the timestamp its push published (R365), the PC of the instruction that
made it, and the place of a queue load in the address slice's load order. -/
structure FEntry where
  elems : List Elem
  ts : Option Word
  pc : Word
  order : Option Nat
  deriving DecidableEq, Repr

/-- A forward queue (R187): entries made since creation, and those not retired, oldest first. -/
structure FQueue where
  made : Nat
  entries : List FEntry
  deriving DecidableEq, Repr

/-- One strand's contribution to an entry of a back queue (R191). -/
structure Contribution where
  strand : Nat
  value : Word
  pc : Word
  deriving DecidableEq, Repr

/-- An entry of a back queue: contributions in the order made, the latest timestamp they published (R365), and the PC of the push that
made its first contribution (R195). -/
structure BEntry where
  contribs : List Contribution
  ts : Option Word
  pc : Word
  deriving DecidableEq, Repr

/-- A back queue (R191): entries popped since creation, and those not popped, oldest first; the PC of the push that
completed the last completed entry (R195). -/
structure BQueue where
  popped : Nat
  entries : List BEntry
  lastPc : Option Word
  deriving DecidableEq, Repr

/-! ### Tiles, accumulators, slots, barriers -/

/-- The state of a declared tile besides its bytes (R241). FULL and EMPTY are read from `map` and `claim`. `ts` holds by chunk the
time held with its bit, and at key 64 that held with EMPTY (R365). -/
structure Tile where
  map : DWord
  claim : DWord
  status : Byte
  errOff : Word
  ts : Table Word
  deriving DecidableEq, Repr

/-- An accumulator (R258): element (i, c) at key 62 i + c, an unlisted element +0; version and STATUS. -/
structure Acc where
  elems : Table Word
  version : BitVec 16
  status : Byte
  ts : Option Word
  deriving DecidableEq, Repr

/-- A trit (R79). -/
inductive Trit where
  | neg | zero | pos
  deriving DecidableEq, Repr

/-- A column of a weight slot (R252). A column with no trits listed is all zero. -/
structure Column where
  trits : List Trit
  scale : Byte
  poison : Bool
  invalid : Bool
  deriving DecidableEq, Repr

/-- A weight slot (R252): columns by number, its bits, STATUS and ERROFF, and the timestamp of its fill (R365). -/
structure WSlot where
  full : Bool
  claim : Bool
  cols : Table Column
  status : Byte
  errOff : Word
  ts : Option Word
  deriving DecidableEq, Repr

/-- A barrier object (R277) with the two timestamps of R365, none while nothing has contributed. AREM and BREM are
signed. -/
structure Barrier where
  phase : Word
  arem : Int
  brem : Int
  tsNow : Option Word
  tsDone : Option Word
  deriving DecidableEq, Repr

/-! ### Engine commands -/

/-- The commands of Sluice and the weight loader (R250). -/
inductive CopyKind where
  | cpy | cpym | cpyf | cpys | wld | wst
  deriving DecidableEq, Repr

/-- How a frozen or killed engine command stands, with the byte offset in the command of what failed (R251). -/
inductive EngineFault where
  | none
  | missed (cause : Byte) (off : Nat)
  | frozen (cause : Byte) (off : Nat)
  | killed (cause : Byte) (off : Nat)
  deriving DecidableEq, Repr

/-- A unit of a command in a die's weight store between its one walk and its landing (R251, R344): where its bytes stand, the labels that
the walk used, and its number among the accepted accesses. -/
structure Walked where
  unit : Nat
  n : Nat
  die : Nat
  wa : Nat
  used : List (Nat × BitVec 16)
  deriving DecidableEq, Repr

/-- A Sluice command that holds a channel (R244, R249). `cw` is the CCW or slot word, `odd` D's odd register, `flag`
CPYF's flag location; `after` the number of the first access accepted after its issue (R366); `landed` the chunks (or 512-byte
units of a WLD) landed; `got` the 64-byte weight-store blocks read or written of units that have not landed, by their offset in the
command (R300), and `walked` such units; `err` the lowest error reported (R251); `ts` the latest time of its accesses (R364). -/
structure Channel where
  kind : CopyKind
  slot : Nat
  cw : Word
  odd : Word
  flag : Word
  lw : DWord
  off : DWord
  pc : Word
  order : Nat
  after : Nat
  started : Bool
  landed : List Nat
  got : Table (List Byte)
  walked : List Walked
  fault : EngineFault
  err : Option (Byte × Nat)
  ts : Word
  deriving DecidableEq, Repr

/-- The array's commands (R256, R259). -/
inductive ArrayKind where
  | mmat | mmad | mmaz | accst (fmt : Afm)
  deriving DecidableEq, Repr

/-- An array command that holds a window entry (R244): its ACW, its tile, its row mask or first chunk. `waits` says that it
is the follow-on of a CPYM that has not handed it over (R253), `since` the cycle in which it started, `slots` the weight slots that it
then read (R256). -/
structure ArrayCmd where
  kind : ArrayKind
  slot : Nat
  acw : Word
  tile : Nat
  arg : Word
  pc : Word
  order : Nat
  after : Nat
  started : Bool
  since : DWord
  waits : Bool
  slots : List WSlot
  deriving DecidableEq, Repr

/-- A TEMPTY that has been issued and has not taken effect (R263). -/
structure EmptyCmd where
  slot : Nat
  object : Word
  order : Nat
  pc : Word
  deriving DecidableEq, Repr

/-! ### Teams -/

/-- What a team record declares (R62). `tiles` gives sizes in chunks, 0 undeclared; `bars` arrival and byte counts. -/
structure TeamDecl where
  strands : Nat
  wregs : Nat
  kregs : Nat
  accs : Nat
  index : Nat
  queues : List QueueDecl
  aentry : Word
  centry : Word
  tiles : List Nat
  lstack : List DWord
  bars : List (Nat × Nat)
  deriving DecidableEq, Repr

/-- A team (R185): its declaration, its place in its gang, its slices, and the state they share. -/
structure Team where
  decl : TeamDecl
  launch : Nat
  gang : Nat
  gteam : Nat
  world : Nat
  level : BitVec 2
  labels : List DWord
  addr : Slice
  strands : List Slice
  fqueues : List FQueue
  bqueues : List BQueue
  loads : Nat
  bqWait0 : Word
  bqWait1 : Word
  bqCycles : DWord
  fullCycles : DWord
  emptyCycles : DWord
  tiles : List Tile
  scratch : Memory
  accs : List Acc
  bars : List Barrier
  frozen : Bool
  /-- Cancelled, or killed by the owner of a violated level: its slices stop, and it ends under R240 (R332, R348). -/
  killed : Bool
  deriving DecidableEq, Repr

/-! ### Cores -/

/-- A line copy in a core cache (R358): the line's bytes when it was filled, under the key it was read with, its write time
and its own lease. -/
structure LineCopy where
  line : Nat
  key : Nat
  bytes : List Byte
  wts : Word
  lrt : Word
  deriving DecidableEq, Repr

/-- A command of a restored team that waits for its place (R265): a Sluice command with the array command that follows it, an
array command, a TEMPTY. -/
inductive Reissue where
  | copy (c : Channel) (follow : Option ArrayCmd)
  | array (a : ArrayCmd)
  | tempty (e : EmptyCmd)
  deriving DecidableEq, Repr

/-- The team slot of a command that waits for its place. -/
def Reissue.slot (r : Reissue) : Nat :=
  match r with
  | .copy c _ => c.slot
  | .array a => a.slot
  | .tempty e => e.slot

/-- A waiter on an allowance entry that left its core with its team (R407): a slice, the team's queue-load elements, a Sluice command
by its order, a held store, a resume marker; with the package that it goes to. -/
inductive KeptWaiter where
  | slice (w : Option Nat) (pkg : Nat)
  | elems (pkg : Nat)
  | channel (order pkg : Nat)
  | resend (n pkg : Nat)
  | marker (w : SliceName) (p : Packet)
  deriving DecidableEq, Repr

/-- A bank's resident set (R214, R217, R244): teams by slot, weight slots, pending commands; the commands of restored teams
that wait for a place, in order, and the slot copies of restored teams that wait for their slot to be EMPTY, each with its
team's slot and its number (R265). -/
structure Bank where
  teams : Table Team
  wslots : List WSlot
  sluice : Table Channel
  array : Table ArrayCmd
  tempties : List EmptyCmd
  reissue : List Reissue
  copies : List (Nat × Nat × WSlot)
  /-- What waited with a restored Sluice command that had no channel yet, by team slot, in order; whether it has joined (R407). -/
  unjoined : List (Nat × KeptWaiter × Bool)
  /-- What of a bank that is not active waits on an allowance entry, by team slot, in order (R407). -/
  rejoin : List (Nat × KeptWaiter)
  /-- The array entry whose command holds the array (R261). -/
  running : Option Nat
  nextOrder : Nat
  deriving DecidableEq, Repr

/-- A waiter on an allowance entry (R405), with the package that it goes to: a slice, with the cycle in which it joined; the next
queue-load element of a team (R404); a Sluice channel of this core; a held store to be sent again; a resume marker of a slice
(R387, R403). -/
inductive Waiter where
  | slice (id : SliceId) (pkg : Nat) (since : DWord)
  | elems (t : TeamId) (pkg : Nat)
  | channel (n : Nat) (pkg : Nat)
  | resend (n : Nat)
  | marker (w : SliceName) (p : Packet)
  deriving DecidableEq, Repr

/-- An entry of the allowance table (R401), its capacity (R402), and its waiters in order (R405). -/
structure Allowance where
  bound : Bool
  pkg : Nat
  world : Nat
  cap : Nat
  alw : Nat
  sent : Nat
  waiters : List Waiter
  deriving DecidableEq, Repr

/-- A core (R12): world latch, logical times, core-cache and station C copies, banks, allowance table, outstanding
fabric count (R388), dirty-world tags of its gated units (R426: 0 the array, 1 the weight loader, 2 + n channel n), drowsy
segments of the active bank and when each of its segments was last touched (R213). -/
structure Core where
  world : Nat
  ct : Word
  ctSince : DWord
  sl : Word
  copies : List LineCopy
  cCopies : List EntryCopy
  active : Bank
  shadow : Option Bank
  outgoing : Option Bank
  spilled : Nat
  allow : Table Allowance
  outstanding : Nat
  unitWorlds : Table Nat
  drowsy : List Nat
  touched : Table DWord
  deriving DecidableEq, Repr

/-! ### Accesses in flight -/

/-- Where the data of a load or the old value of an atomic goes; `high` takes the high word of a pair whose low half a debugger has
written by force (R442). -/
inductive Sink where
  | none
  | reg (n : Nat)
  | pair (n : Nat)
  | high (n : Nat)
  | push (q : Nat)
  | label (l : Nat)
  deriving DecidableEq, Repr

/-- What an access does. `queued` is a queue-load element (R199); `element` is LDE's element index (R173); `refetch` renews a
poisoned element (R201);
`flag` is FENCEF with its count n (R399); `message` an active message (R411); `wait` WAITA's read (R284), `record` LAUNCH's read for a queue (R329),
`entry` the read of an entry of the launch's C table for a walk (R337). -/
inductive AccessKind where
  | load
  | queued
  | element (i : Word)
  | store
  | atomic (op : AtomicOp) (operand compare : DWord)
  | refetch (q entry elem : Nat)
  | flag (n : Nat)
  | message (handler marks : Nat)
  | wait (old : Word)
  | record (q : Nat)
  | entry (r : EntryRead)
  | copyRead (chan : Nat) (chunk : Nat)
  | copyWrite (chan : Nat) (chunk : Nat)
  deriving DecidableEq, Repr

/-- A packet of an access that has left (R381, R396): its part, the key and number of its sequence, the wall-clock times at which it left
first (R397) and last, how often it has been sent again, and whether it has been acknowledged. -/
structure PartSend where
  part : Nat
  key : Nat
  seq : BitVec 16
  first : Nat
  sentAt : Nat
  resends : Nat
  acked : Bool
  deriving DecidableEq, Repr

/-- An access that the stations have accepted (R176): performed at its place, then returned. `next` is the PC at which
its instruction completes when it waits for the data, `pops` the queues that it then pops; `used` the labels of its path
by level (R344), `pos` and `trace` what its records show (R349); `allowance` the entry that paid for its packet (R406). -/
structure Access where
  n : Nat
  who : SliceName
  world : Nat
  core : Nat
  kind : AccessKind
  place : Place
  size : Nat
  lw : DWord
  off : DWord
  pc : Word
  next : Word
  data : DWord
  bytes : List Byte
  sink : Sink
  pops : List Nat
  used : List (Nat × BitVec 16)
  pos : BitVec 2
  trace : StationTrace
  allowance : Nat
  performed : Bool
  result : List Byte
  /-- Its packet has left (a flag toward a scale-out window waits for its counted accesses, R399). -/
  sent : Bool
  /-- Packets of it that have been charged and sent (R403, R404), and each of them (R381, R396). -/
  parts : Nat
  sends : List PartSend
  /-- The window of a scale-out access has asked for it again (R397). -/
  asked : Bool
  /-- One of its counted accesses has been discarded, and so will be this flag toward a scale-out window (R399); or a LINV has made what
  the load of an element, or of an entry for a walk, brings worthless (R344). -/
  lost : Bool
  /-- Its place among the slice's stores, atomics and flags toward its target (R399). -/
  ordinal : Nat
  /-- Units of it granted back, and the core whose entry paid for what is under way of it (R406). -/
  granted : Nat
  payCore : Nat
  deriving DecidableEq, Repr

/-! ### Home slices, weight store -/

/-- What a home slice holds of a line (R293): write time, read lease, whether it is dirty, and which of its sectors
still stand poisoned (R304). -/
structure Line where
  wts : Word
  rts : Word
  dirty : Bool
  poisoned : List Nat
  deriving DecidableEq, Repr

/-- A die: weight store and its loader launch (R303), WDTBASE, station D copies, DIE_STOP, hops retired (R304), and the plane on which
its next packet begins to look for its turn (R380). -/
structure Die where
  weights : Memory
  badBlocks : List Nat
  loader : Option Nat
  wdtBase : DWord
  copies : List EntryCopy
  stopped : Bool
  hops : List Nat
  spray : Nat
  deriving DecidableEq, Repr

/-! ### Launches and gangs -/

/-- How a gang stands (R98, R319): placed and running, preloaded in shadow banks, stopped for a save, waiting in an
outgoing bank, or in the save pool. -/
inductive GangState where
  | resident | preloaded | stopping | outgoing | saved | ended
  deriving DecidableEq, Repr

/-- A saved member of a gang (R319, R265, R407, R361): its team, its pending commands in order of issue, the copies of weight slots,
what waited on an allowance entry, in order, the time of the core that it left, and where its context stands in the save pool (R320). -/
structure SavedTeam where
  team : Team
  work : List Reissue
  slots : Table WSlot
  waiting : List KeptWaiter
  ct : Word
  pool : Nat
  deriving DecidableEq, Repr

/-- A gang that has been placed (R270): where its teams stand by team index, its stack frame (R223), its effective
priority (R313), the members saved, the teams ended, and the faults it waits on (R322). -/
structure Gang where
  launch : Nat
  number : Nat
  frame : Nat
  prio : Nat
  place : List TeamId
  state : GangState
  saved : List SavedTeam
  ended : List Nat
  misses : Nat
  /-- Its place in the order of acknowledgements once it waits for nothing more; taken over when its save has ended (R313). -/
  acked : Option Nat
  ready : Option Nat
  deriving DecidableEq, Repr

/-- A launch from the moment its record is current (R309, R310). `words` are the record's doublewords D0 to D31; `code`
is the code segment as it stood then (R33). -/
structure Launch where
  id : Nat
  queue : Option Nat
  number : Nat
  recordPa : Nat
  world : Nat
  level : BitVec 2
  words : List DWord
  code : List Word
  decls : List TeamDecl
  prio : Nat
  placed : Nat
  /-- When it last became eligible, and for how long it had been eligible before (R313). -/
  eligibleSince : Option Nat
  eligibleFor : Nat
  aged : Bool
  passes : Nat
  loaderWait : Option Nat
  loaderOver : Bool
  cancelled : Bool
  done : Bool
  /-- The latest time of its accesses (R365), and the times that its gangs see from the start (R326, R329). -/
  ts : Option Word
  seen : Option Word
  deriving DecidableEq, Repr

/-- What the distributor keeps of a launch queue beside its descriptor in memory (R306): the number of the record that
becomes current next, records completed ahead of HEAD (R308), records that a CANCEL removed (R332), and the submitter's time of
submitted records (R307, R329). -/
structure LaunchQueue where
  current : Nat
  finished : List Nat
  removed : List Nat
  stamps : Table Word
  deriving DecidableEq, Repr

/-! ### Records -/

/-- Whom an acknowledgement moves on (R348): a slice, a Sluice channel, the same at another package's source, or nobody. -/
inductive Master where
  | slice (w : SliceName)
  | channel (w : SliceName) (order : Nat)
  | remote (source access : Nat)
  | nobody
  deriving DecidableEq, Repr

/-- A fault at another package that waits for its owner's acknowledgement (R386). -/
structure RemoteFault where
  target : Nat
  access : Nat
  miss : Bool
  master : Master
  deriving DecidableEq, Repr

/-- A resume marker that has left and has not been acknowledged (R381, R387): its number, its target, and the key and number of its
sequence. -/
structure MarkerSent where
  access : Nat
  target : Nat
  key : Nat
  seq : BitVec 16
  deriving DecidableEq, Repr

/-- A refused store of a slice whose team has ended (R137, R387): the slice, its world and core; `opened` once its owner lets it be sent
again. -/
structure LateStore where
  who : SliceName
  world : Nat
  core : Nat
  store : HeldStore
  opened : Bool
  deriving DecidableEq, Repr

/-- A bucket blocked for a slice of another package (R387); `again` when a store sent again blocked it. -/
structure Block where
  source : Nat
  slice : SliceName
  bucket : Nat
  again : Bool
  deriving DecidableEq, Repr

/-- What this target knows of a slice's stores, atomics and flags (R399): all below `low` have been performed or discarded,
those of `ended` too; those of `lost` were discarded; `base` is the place after the last flag taken. -/
structure Ended where
  source : Nat
  slice : SliceName
  low : Nat
  ended : List Nat
  lost : List Nat
  base : Nat
  deriving DecidableEq, Repr

/-- A record that waits to be written into its queue (R323, R348): eight doublewords. -/
structure Waiting where
  q : FaultQ
  words : List DWord
  master : Master
  /-- A fault of the write has been reported (R323). -/
  reported : Bool
  deriving DecidableEq, Repr

/-- A record that stands in its queue: the slot, and where it was written. `kills`: 1 in its D0 refuses it, a fault record's or a die
error record's (R348, R304). -/
structure Posted where
  q : FaultQ
  slot : Nat
  dest : Dest
  cls : BitVec 4
  frec : Bool
  kills : Bool
  master : Master
  deriving DecidableEq, Repr

/-- A barrier contribution in flight (R278, R279). -/
structure Pledge where
  launch : Nat
  gang : Nat
  gteam : Nat
  bar : Nat
  arrivals : Nat
  bytes : Nat
  ts : Word
  deriving DecidableEq, Repr

/-! ### Registers of the package -/

/-- A fault queue descriptor's D0 and D1 (R348). -/
structure QueueDesc where
  d0 : DWord
  d1 : DWord
  deriving DecidableEq, Repr

/-- The slice-control registers of a world (R324). -/
structure RunControl where
  rcmd : DWord
  rarg : DWord
  deriving DecidableEq, Repr

/-- A memory-side cache partition: its register and its counters (R354, R355). -/
structure Partition where
  fixed : Bool
  quota : Nat
  max : Nat
  min : Nat
  occ : DWord
  hits : DWord
  misses : DWord
  evict : DWord
  cause : Byte
  quotaEvict : BitVec 48
  /-- The owner wrote MIN, MAX or FIXED since the last quota update; what last moved the quota (R355). -/
  written : Bool
  why : Byte
  deriving DecidableEq, Repr

/-- A line of the memory-side cache (R353): its number and the partition it belongs to. A set lists them LRU first. -/
structure CachedLine where
  line : Nat
  part : Nat
  deriving DecidableEq, Repr

/-- The utility monitor of a partition (R354): shadow tags of its sampled sets, most recent first, and the hits at each of 16 depths. -/
structure Monitor where
  tags : Table (List Nat)
  hits : List Nat
  deriving DecidableEq, Repr

/-- What a host read through the link has completed with (R335): the function, the offset, the data, and whether they are marked as
poisoned. -/
structure HostRead where
  fn : Nat
  off : Nat
  data : List Byte
  poisoned : Bool
  deriving DecidableEq, Repr

/-- A Saltin mailbox (R428). -/
structure Mailbox where
  scmd : DWord
  sstat : DWord
  buffer : Table Byte
  deriving DecidableEq, Repr

/-- A debug slot (R438): D0 to D8, its breakpoints and watchpoints by doubleword number from byte 128 on, what breakpoints held before
their last writes and when these were (R439), the next slot of its sample ring, by core the place of its last sample in the round-robin order of R443 and when it was taken, a REGWRITE that waits for a pending register
(R442), and the team of a step-team request that has not completed (R106). -/
structure DebugSlot where
  d : List DWord
  points : Table DWord
  earlier : List (Nat × DWord × DWord)
  samplePos : Nat
  lastSample : Table (Nat × DWord)
  regwrite : Option (SliceName × Nat × Word)
  stepping : Option SliceName
  deriving DecidableEq, Repr

/-- The link status of a plane in one direction (R393), and its flit counter. -/
structure LinkStatus where
  exh : Bool
  up : Bool
  drained : Bool
  nextKey : Bool
  epoch : Byte
  authFail : Word
  ctr : DWord
  deriving DecidableEq, Repr

/-- A state of R451. -/
inductive UnitState where
  | inService | draining | isolated | testing | failed
  deriving DecidableEq, Repr

/-- A write in the host write combiner (R369), with the number of its access and the labels of its path, which is in use until it is
delivered (R344). -/
structure Combined where
  who : SliceName
  world : Nat
  n : Nat
  pa : Nat
  bytes : List Byte
  used : List (Nat × BitVec 16)
  deriving DecidableEq, Repr

/-- The registers of the package (R335, R343, R346, R348, R379, R402, R455). -/
structure Regs where
  qtBase : DWord
  cttBase : DWord
  ptBase : DWord
  ptCount : DWord
  spBase : DWord
  spSize : DWord
  fworld : Table DWord
  hlabel : Table DWord
  wkey : Table Word
  handlers : Table (DWord × DWord)
  ownerQ : QueueDesc
  guestQ : Table QueueDesc
  noticeLost : DWord
  lcpCmd : DWord
  lcpBusy : Bool
  /-- The number of the first access accepted after the copies of the port's invalidation went stale (R346). -/
  lcpMark : Nat
  lcpErr : Bool
  runControl : Table RunControl
  ftBase : DWord
  ftCount : DWord
  phaseMap : BitVec 128
  incarnation : Byte
  number : Nat
  fabOut : Word
  incTab : Table Byte
  icred : Nat
  sowBase : List DWord
  sowCount : List DWord
  svcCmd : DWord
  svcStat : DWord
  deriving DecidableEq, Repr

/-- A scrub that runs (R434, R435): the function that asked, its nonce and FLAGS, and what its record counts. -/
structure Scrub where
  fn : Nat
  nonce : List Byte
  flags : Byte
  keys : Nat
  copies : Nat
  masters : Nat
  deriving DecidableEq, Repr

/-- What Saltin keeps (R394, R431, R433, R434, R436, R446). Fields down to `svn` are non-volatile or fused. -/
structure Saltin where
  hexHash : BitVec 512
  custHash : BitVec 512
  keySel : Bool
  minSvn : Nat
  svn : Nat
  stored : List Byte
  fmKey : Option (List Byte)
  fmFullKey : List Byte
  seq : Nat
  hours : Nat
  powerCycles : Nat
  droops : Nat
  lockouts : Nat
  scrubs : Nat
  retrain : Table Nat
  temps : Table Nat
  corrected : Table Nat
  rctl : Bool
  rstat : Word
  imgAddr : DWord
  imgLen : Word
  /-- The image that the ROM has fetched and has yet to write (R432, R433). -/
  fetched : List Byte
  inRecovery : Bool
  scrubbing : Option Scrub
  scanMode : Bool
  keysDrawn : Nat
  /-- Functions whose mailbox commands wait, in the order their SCMD writes arrived (R428). -/
  pending : List Nat
  /-- An INCARNATION command has been carried out since the last reset or scrub (R394). -/
  numbered : Bool
  /-- Free values drawn; the model's own (log 20). -/
  draws : Nat
  deriving DecidableEq, Repr

/-- Service and boot (R448 to R451). Units: clusters at 12 x die + cluster, links at 48 + n, planes at 64 + n. `linkSince` is the
wall-clock time at which the DRAIN of the link that is out began, `hotSince` that of the last over-temperature or droop. -/
structure Service where
  stage : Nat
  fail : Bool
  drainPlane : BitVec 16
  drainLink : BitVec 16
  bootClus : DWord
  halved : Bool
  units : Table UnitState
  busy : Option Nat
  linkSince : Option Nat
  hotSince : Nat
  deriving DecidableEq, Repr

/-! ### The package -/

/-- Who moves in a turn: a slice issues, or a step of the table without an encoding comes about. -/
inductive Actor where
  | slice (id : SliceId)
  | event (e : Instr)
  deriving DecidableEq, Repr

/-- A turn of the schedule (log 1): `cycles` ac cycles pass (log 2), then the actor moves. -/
structure Turn where
  cycles : Nat
  actor : Actor
  deriving DecidableEq, Repr

/-- The state of one package. -/
structure State where
  /-- The slice whose turn it is. -/
  cur : SliceId
  /-- The schedule of what moves next; the model's own (log 1). -/
  agenda : List Turn
  /-- ac cycles since reset (R97), and wall-clock time since reset in nominal ac cycles (R301). -/
  clock : DWord
  wall : Nat
  memSize : Nat
  mem : Memory
  /-- The key identity each 32-byte sector of main memory was last written under (R177, R342). -/
  sectorKeys : Table Nat
  hostMem : Memory
  combiner : List Combined
  /-- Key slots in use: slot and identity of the key it holds (R342). -/
  keys : Table Nat
  regs : Regs
  counters : Table Word
  counterTs : Table Word
  cores : Table Core
  dies : List Die
  lines : Table Line
  /-- mts of each home slice (R293). -/
  mts : Table Word
  /-- The waiter tables: line and the cores recorded on it, oldest first (R295). -/
  waiters : List (Nat × List Nat)
  /-- Dirty-world tags of the home slices' atomic units (R426). -/
  atomicWorlds : Table Nat
  hl : Word
  fl : Word
  pCopies : List EntryCopy
  fCopies : List EntryCopy
  inflight : List Access
  nextAccess : Nat
  /-- Sequence numbers sent and expected, by (package, bucket) key (R381). -/
  sent : Table (BitVec 16)
  expected : Table (BitVec 16)
  heldPackets : List Packet
  /-- Packets that have left toward other packages, oldest first. -/
  outbox : List Packet
  /-- Packets that wait for a plane while none sprays, oldest first (R390). -/
  unsprayed : List Packet
  /-- Resume markers that are on their way (R381, R387). -/
  markers : List MarkerSent
  /-- Refused stores of slices that are gone (R137, R387). -/
  late : List LateStore
  /-- Entries of C tables read over the fabric for walks to come (R337). -/
  tableReads : List TableRead
  /-- Messages that wait in the port's receive buffers for their handler team (R412). -/
  messages : List Packet
  blocked : List Block
  /-- Packets that stand past their sequence's order: flags and messages that wait for accesses they count, and those behind
  them (R399, R412). -/
  standing : List Packet
  ended : List Ended
  /-- Faults at other packages that wait for their owner's acknowledgement (R386). -/
  remoteFaults : List RemoteFault
  links : Table LinkStatus
  launchCount : Word
  queues : Table LaunchQueue
  launches : List Launch
  gangs : List Gang
  /-- Round-robin queue position of each priority, and the count that orders re-entries (R313). -/
  visits : Table Nat
  ackOrder : Nat
  /-- The dies for which the oldest message's handler waits as a loader, and since when (R316, R327). -/
  loaderHandler : Option (List Nat × Nat)
  /-- LAUNCHes that wait on a full queue, in the order they began to wait (R329). -/
  launchWaits : List (Nat × SliceName)
  waiting : List Waiting
  rings : List (FaultQ × Nat)
  posted : List Posted
  pledges : List Pledge
  partitions : Table Partition
  cacheSets : Table (List CachedLine)
  monitors : Table Monitor
  /-- The wall-clock time of the last update of the quotas (R354). -/
  quotaAt : Nat
  /-- Reads of the host that have completed, oldest first (R335). -/
  hostReads : List HostRead
  mailboxes : Table Mailbox
  debugSlots : Table DebugSlot
  saltin : Saltin
  service : Service
  deriving DecidableEq, Repr

/-- Why a step stops the machine. -/
inductive Fault where
  /-- Raised by every instruction meaning and by `step` when the current slice names no slice that stands in an active
  bank: no slice issues, so nothing can. Safe: no run of the hardware has such an issue. -/
  | noSlice
  deriving DecidableEq, Repr

/-- Why an instruction has no meaning. -/
inductive Refusal where
  /-- Raised by an arm of `exec` whose instruction has no meaning yet. Safe. -/
  | notModelled (mnemonic : String)
  deriving DecidableEq, Repr

/-! ### After reset -/

/-- An empty weight slot (R252). -/
def WSlot.empty : WSlot := ⟨false, false, [], 0, 0, none⟩

/-- A bank with no resident team (R219: cleared). -/
def Bank.empty : Bank := ⟨[], List.replicate 8 WSlot.empty, [], [], [], [], [], [], [], none, 0⟩

/-- Allowance entry 31 at reset (R401, R402). -/
def Allowance.shared (icred : Nat) : Allowance := ⟨true, 0x1FFF, 0, icred, icred, 0, []⟩

/-- A core at reset (R358, R402). World latch 0: log 5. -/
def Core.idle : Core :=
  { world := 0, ct := 0, ctSince := 0, sl := 0, copies := [], cCopies := [], active := Bank.empty, shadow := none,
    outgoing := none, spilled := 0, allow := [(31, Allowance.shared 32)], outstanding := 0, unitWorlds := [],
    drowsy := [], touched := [] }

/-- A die at reset (R303, R455). -/
def Die.idle : Die :=
  { weights := [], badBlocks := [], loader := none, wdtBase := 0, copies := [], stopped := false, hops := [], spray := 0 }

/-- A debug slot at reset (R438): SINT 15. -/
def DebugSlot.idle : DebugSlot := ⟨[0, 0xF0000000, 0, 0, 0, 0, 0, 0, 0], [], [], 0, [], none, none⟩

/-- The package registers at reset (R346, R348, R382, R402, R455); the values that the spec does not give are 0 (log 5,
log 6). -/
def Regs.reset : Regs :=
  { qtBase := 0, cttBase := 0, ptBase := 0, ptCount := 0, spBase := 0, spSize := 0, fworld := [], hlabel := [],
    wkey := [], handlers := [], ownerQ := ⟨0, 0⟩, guestQ := [], noticeLost := 0, lcpCmd := 0, lcpBusy := false, lcpMark := 0,
    lcpErr := false, runControl := [], ftBase := 0, ftCount := 0, phaseMap := 1, incarnation := 0, number := 0,
    fabOut := 0, incTab := [], icred := 32, sowBase := [0, 0], sowCount := [0, 0], svcCmd := 0, svcStat := 0 }

/-- Saltin at reset (log 5 for the values that the spec does not give). -/
def Saltin.reset : Saltin :=
  { hexHash := 0, custHash := 0, keySel := false, minSvn := 0, svn := 0, stored := [], fmKey := none,
    fmFullKey := [], seq := 0, hours := 0, powerCycles := 0, droops := 0, lockouts := 0, scrubs := 0, retrain := [],
    temps := [], corrected := [], rctl := false, rstat := 0, imgAddr := 0, imgLen := 0, fetched := [],
    inRecovery := false, scrubbing := none, scanMode := false, keysDrawn := 0, pending := [],
    numbered := false, draws := 0 }

/-- Boot and service at reset (R449, R450). -/
def Service.reset : Service :=
  { stage := 1, fail := false, drainPlane := 0, drainLink := 0, bootClus := 0, halved := false, units := [],
    busy := none, linkSince := none, hotSince := 0 }

/-- The package right after reset: boot stage 1 (R449), nothing placed, memory with nothing listed. -/
def State.reset : State :=
  { cur := ⟨0, 0, none⟩, agenda := [], clock := 0, wall := 0, memSize := 0x20000000000, mem := [], sectorKeys := [],
    hostMem := [], combiner := [], keys := [], regs := Regs.reset, counters := [], counterTs := [], cores := [],
    dies := [Die.idle, Die.idle, Die.idle, Die.idle], lines := [], mts := [], waiters := [], atomicWorlds := [], hl := 0, fl := 0,
    pCopies := [], fCopies := [], inflight := [], nextAccess := 0, sent := [], expected := [], heldPackets := [],
    outbox := [], unsprayed := [], markers := [], late := [], tableReads := [], messages := [], blocked := [], standing := [], ended := [], remoteFaults := [], links := [], launchCount := 1, queues := [], launches := [],
    gangs := [], visits := [], ackOrder := 0, loaderHandler := none, launchWaits := [], waiting := [], rings := [], posted := [], pledges := [],
    partitions := [], cacheSets := [], monitors := [], quotaAt := 0, hostReads := [], mailboxes := [], debugSlots := [], saltin := Saltin.reset,
    service := Service.reset }

end Sys2Proof.Machine
end

