-- ==== Sys2Proof/Machine/Table.lean ====
section
/-! DEFINITION. Operations on the plain data that State is made of: tables, memories of bytes, bit fields. -/

namespace Sys2Proof.Machine

/-! ### Tables -/

/-- The value at a key. -/
def Table.get {α : Type} : Table α → Nat → Option α
  | [], _ => none
  | (k, v) :: rest, n => if k = n then some v else Table.get rest n

/-- The value at a key, or `d` where the table lists none. -/
def Table.getD {α : Type} (t : Table α) (n : Nat) (d : α) : α := (Table.get t n).getD d

/-- The table with value `v` at key `n`; keys stay rising. -/
def Table.put {α : Type} : Table α → Nat → α → Table α
  | [], n, v => [(n, v)]
  | (k, w) :: rest, n, v =>
    if n < k then (n, v) :: (k, w) :: rest
    else if k = n then (n, v) :: rest
    else (k, w) :: Table.put rest n v

/-- The table without key `n`. -/
def Table.del {α : Type} : Table α → Nat → Table α
  | [], _ => []
  | (k, w) :: rest, n => if k = n then Table.del rest n else (k, w) :: Table.del rest n

/-- The smallest number from `n` on, among the next `fuel`, that is no key of the table. -/
def Table.freeFrom {α : Type} (t : Table α) : Nat → Nat → Option Nat
  | 0, _ => none
  | fuel + 1, n => if (Table.get t n).isNone then some n else Table.freeFrom t fuel (n + 1)

/-! ### Memories -/

/-- The byte at an address; 0 where none is listed. -/
def Memory.read : Memory → Nat → Byte
  | [], _ => 0
  | (a, b) :: rest, n => if a = n then b else Memory.read rest n

/-- The memory with byte `b` at address `n`, in canonical form: a byte 0 is not listed. -/
def Memory.write : Memory → Nat → Byte → Memory
  | [], n, b => if b = 0 then [] else [(n, b)]
  | (a, c) :: rest, n, b =>
    if n < a then (if b = 0 then (a, c) :: rest else (n, b) :: (a, c) :: rest)
    else if a = n then (if b = 0 then rest else (n, b) :: rest)
    else (a, c) :: Memory.write rest n b

/-- `n` bytes from an address up. -/
def Memory.readBytes (m : Memory) (a : Nat) : Nat → List Byte
  | 0 => []
  | n + 1 => Memory.read m a :: Memory.readBytes m (a + 1) n

/-- The bytes stored from an address up. -/
def Memory.writeBytes (m : Memory) : Nat → List Byte → Memory
  | _, [] => m
  | a, b :: bs => Memory.writeBytes (Memory.write m a b) (a + 1) bs

/-- The canonical form: addresses strictly rise from `lo` on and no byte 0 is listed. -/
def Memory.wfFrom : Nat → Memory → Bool
  | _, [] => true
  | lo, (a, b) :: rest => decide (lo ≤ a) && b != 0 && Memory.wfFrom (a + 1) rest

/-- The canonical form of a memory. -/
def Memory.wf (m : Memory) : Bool := Memory.wfFrom 0 m

/-- The number that bytes hold, the first least significant (R4). -/
def natOfBytes : List Byte → Nat
  | [] => 0
  | b :: bs => b.toNat + 256 * natOfBytes bs

/-- A doubleword from its bytes (R4). -/
def dwordOfBytes (bs : List Byte) : DWord := BitVec.ofNat 64 (natOfBytes bs)

/-- The eight bytes of a doubleword (R4). -/
def bytesOfDWord (v : DWord) : List Byte := bytesOfNat 8 v.toNat

/-- The bytes of doublewords in order. -/
def bytesOfDWords (vs : List DWord) : List Byte := vs.flatMap bytesOfDWord

/-- `n` doublewords from bytes. -/
def dwordsOfBytes : Nat → List Byte → List DWord
  | 0, _ => []
  | n + 1, bs => dwordOfBytes (bs.take 8) :: dwordsOfBytes n (bs.drop 8)

/-! ### Bit fields (R4) -/

/-- Bits [hi:lo] of a doubleword, as a number. -/
def field (v : DWord) (hi lo : Nat) : Nat := (v.toNat / 2 ^ lo) % 2 ^ (hi + 1 - lo)

/-- Bits [hi:lo] of a word, as a number. -/
def wfield (v : Word) (hi lo : Nat) : Nat := (v.toNat / 2 ^ lo) % 2 ^ (hi + 1 - lo)

/-- One bit of a doubleword as 0 or 1, at its place. -/
def bitAt (b : Bool) (n : Nat) : Nat := if b then 2 ^ n else 0

/-- The even register of a pair (R5). -/
def lowWord (v : DWord) : Word := v.setWidth 32

/-- The odd register of a pair (R5). -/
def highWord (v : DWord) : Word := v.extractLsb' 32 32

/-- A pair's value (R5). -/
def pairOf (lo hi : Word) : DWord := (hi ++ lo : BitVec 64)

/-! ### Lists -/

/-- The list with element `i` changed. -/
def listModify {α : Type} (f : α → α) : List α → Nat → List α
  | [], _ => []
  | x :: xs, 0 => f x :: xs
  | x :: xs, n + 1 => x :: listModify f xs n

/-- The element at a place, or `d`. -/
def listGetD {α : Type} (xs : List α) (n : Nat) (d : α) : α := (xs[n]?).getD d

/-- The first element that a test accepts, with its place. -/
def findIdx {α : Type} (p : α → Bool) : List α → Nat → Option (Nat × α)
  | [], _ => none
  | x :: xs, n => if p x then some (n, x) else findIdx p xs (n + 1)

/-! ### Serial numbers of logical time (R358) -/

/-- `x` is earlier than `y`. -/
def earlier (x y : Word) : Bool := let d := (y - x).toNat; decide (1 ≤ d ∧ d < 2 ^ 31)

/-- The later of two logical times. -/
def laterOf (x y : Word) : Word := if earlier x y then y else x

/-- A published time folded by max into what has been published so far (R365). -/
def foldTime (x : Option Word) (y : Word) : Option Word :=
  match x with
  | none => some y
  | some x => some (laterOf x y)

end Sys2Proof.Machine
end

