-- ==== Sys2Proof/Machine/Flags.lean ====
section
/-! DEFINITION. The flags of %fflags (spec/05 R78). How each operation computes them stands with the operation, in
Float.lean. -/

namespace Sys2Proof.Machine

/-- %fflags NV. -/
def flagNV : Word := 16
/-- %fflags DZ. -/
def flagDZ : Word := 8
/-- %fflags OF. -/
def flagOF : Word := 4
/-- %fflags UF. -/
def flagUF : Word := 2
/-- %fflags NX. -/
def flagNX : Word := 1

/-- A flag if a condition holds. -/
def flagIf (b : Bool) (f : Word) : Word := if b then f else 0

end Sys2Proof.Machine
end

