-- ==== Sys2Proof/Machine/Float.lean ====
section
/-! DEFINITION. Floating-point formats, exact dyadic numbers, the one rounding of a result to a format, and the FP32
operations (spec/05 R74 to R81, spec/08 R143 to R157). -/

namespace Sys2Proof.Machine

/-! ### Results -/

/-- A result and the flags it sets. -/
structure FRes where
  bits : Word
  flags : Word := 0
  deriving DecidableEq, Repr

/-! ### Formats and values -/

/-- A floating-point format (R74): `p` bits of significand, least subnormal 2^`emin`, the sign's place, the encodings of
the largest finite value, of infinity (for E4M3 the NaN that stands in for it) and of the canonical NaN (R76). -/
structure Fmt where
  p : Nat
  emin : Int
  sign : Nat
  maxBits : Nat
  infBits : Nat
  nanBits : Nat
  deriving DecidableEq, Repr

/-- FP32. -/
def fp32 : Fmt := ⟨24, -149, 31, 0x7F7FFFFF, 0x7F800000, 0x7FC00000⟩
/-- BF16. -/
def bf16 : Fmt := ⟨8, -133, 15, 0x7F7F, 0x7F80, 0x7FC0⟩
/-- FP8 E4M3. -/
def e4m3 : Fmt := ⟨4, -9, 7, 0x7E, 0x7F, 0x7F⟩
/-- FP8 E5M2. -/
def e5m2 : Fmt := ⟨3, -16, 7, 0x7B, 0x7C, 0x7E⟩

/-- What an encoding stands for (R75, R76): the finite value is (-1)^neg x m x 2^e. -/
inductive Fp where
  | nan (signalling : Bool)
  | inf (neg : Bool)
  | fin (neg : Bool) (m : Nat) (e : Int)
  deriving DecidableEq, Repr

/-- The value of a finite encoding of a format (R75). -/
def finiteOf (f : Fmt) (neg : Bool) (mag : Nat) : Fp :=
  let h := 2 ^ (f.p - 1)
  let e := mag / h
  let m := mag % h
  if e = 0 then .fin neg m f.emin else .fin neg (h + m) (f.emin + (e : Int) - 1)

/-- The value of an encoding of a format (R74, R75, R76). FP8 has no signalling NaNs. -/
def Fmt.read (f : Fmt) (v : Nat) : Fp :=
  let neg := (v / 2 ^ f.sign) % 2 == 1
  let mag := v % 2 ^ f.sign
  if mag ≤ f.maxBits then finiteOf f neg mag
  else if mag = f.infBits ∧ f.infBits ≠ f.nanBits then .inf neg
  else .nan (f.sign != 7 && (mag / 2 ^ (f.p - 2)) % 2 == 0)

/-- An FP32 operand. -/
def readF (w : Word) : Fp := fp32.read w.toNat

/-- A NaN. -/
def Fp.isNan : Fp → Bool
  | .nan _ => true
  | _ => false

/-- A signalling NaN. -/
def Fp.isSnan : Fp → Bool
  | .nan b => b
  | _ => false

/-- An infinity. -/
def Fp.isInf : Fp → Bool
  | .inf _ => true
  | _ => false

/-- A zero of either sign. -/
def Fp.isZero : Fp → Bool
  | .fin _ m _ => m == 0
  | _ => false

/-- The sign of a value that is no NaN. -/
def Fp.neg : Fp → Bool
  | .nan _ => false
  | .inf b => b
  | .fin b _ _ => b

/-- The value with its sign inverted. -/
def Fp.negate : Fp → Fp
  | .nan b => .nan b
  | .inf b => .inf (!b)
  | .fin b m e => .fin (!b) m e

/-! ### Rounding (R77, R78) -/

/-- Whether a magnitude whose low part is `rem` of `2^s` rounds up. -/
def roundsUp (rm : Rm) (neg : Bool) (k rem s : Nat) : Bool :=
  match rm with
  | .rne => decide (2 * rem > 2 ^ s) || (2 * rem == 2 ^ s && k % 2 == 1)
  | .rtz => false
  | .rup => rem != 0 && !neg
  | .rdn => rem != 0 && neg

/-- m x 2^e rounded to a multiple of 2^q: the multiple, and whether it differs. -/
def roundAt (rm : Rm) (neg : Bool) (m : Nat) (e q : Int) : Nat × Bool :=
  if q ≤ e then (m * 2 ^ (e - q).toNat, false)
  else
    let s := (q - e).toNat
    let k := m / 2 ^ s
    let rem := m % 2 ^ s
    (if roundsUp rm neg k rem s then k + 1 else k, rem != 0)

/-- Number of bits of a number. -/
def bitLen (m : Nat) : Nat := if m = 0 then 0 else Nat.log2 m + 1

/-- A magnitude rounded to a format: its encoding without sign (above the format's largest where it overflows), whether
it differs from the exact value, and whether it is tiny (R77: after rounding with an unbounded exponent). -/
def roundMag (f : Fmt) (rm : Rm) (neg : Bool) (m : Nat) (e : Int) : Nat × Bool × Bool :=
  let qu := e + bitLen m - f.p
  let q := max qu f.emin
  let r := roundAt rm neg m e q
  let u := roundAt rm neg m e qu
  let tiny := decide (u.1 ≠ 0 ∧ bitLen u.1 + qu < f.emin + f.p)
  ((q - f.emin).toNat * 2 ^ (f.p - 1) + r.1, r.2, tiny)

/-- The encoding with a sign. -/
def Fmt.signed (f : Fmt) (neg : Bool) (mag : Nat) : Nat := (if neg then 2 ^ f.sign else 0) + mag

/-- ROUNDING the exact non-zero value (-1)^neg x m x 2^e to a format (R77, R78, R145): overflow goes to infinity or to the
largest finite value as the mode directs. -/
def roundTo (f : Fmt) (rm : Rm) (neg : Bool) (m : Nat) (e : Int) : FRes :=
  let r := roundMag f rm neg m e
  if r.1 > f.maxBits then
    let big := match rm with
      | .rne => true
      | .rtz => false
      | .rup => !neg
      | .rdn => neg
    ⟨BitVec.ofNat 32 (f.signed neg (if big then f.infBits else f.maxBits)), flagOF ||| flagNX⟩
  else
    ⟨BitVec.ofNat 32 (f.signed neg r.1), flagIf (r.2.2 && r.2.1) flagUF ||| flagIf r.2.1 flagNX⟩

/-- The canonical NaN of FP32 (R76). -/
def nanF : Word := 0x7FC00000

/-- A signed infinity of FP32. -/
def infF (neg : Bool) : Word := if neg then 0xFF800000 else 0x7F800000

/-- A signed zero of FP32. -/
def zeroF (neg : Bool) : Word := if neg then 0x80000000 else 0

/-- Rounding an exact integer multiple of 2^e; a zero takes the given sign. -/
def roundInt (rm : Rm) (zneg : Bool) (v : Int) (e : Int) : FRes :=
  if v = 0 then ⟨zeroF zneg, 0⟩ else roundTo fp32 rm (decide (v < 0)) v.natAbs e

/-- The signed integer of a finite value at a quantum 2^q that divides it. -/
def scaled (neg : Bool) (m : Nat) (e q : Int) : Int :=
  let k : Int := (m * 2 ^ (e - q).toNat : Nat)
  if neg then -k else k

/-! ### Arithmetic (R145 to R148) -/

/-- The NV flag of signalling operands (R76). -/
def snan (xs : List Fp) : Word := flagIf (xs.any Fp.isSnan) flagNV

/-- The sum of two values that are no NaN (R145, R146). -/
def addFp (rm : Rm) (x y : Fp) : FRes :=
  match x, y with
  | .inf a, .inf b => if a = b then ⟨infF a, 0⟩ else ⟨nanF, flagNV⟩
  | .inf a, _ => ⟨infF a, 0⟩
  | _, .inf b => ⟨infF b, 0⟩
  | .fin a m e, .fin b n g =>
    let q := min e g
    let v := scaled a m e q + scaled b n g q
    roundInt rm (if a = b then a else rm == .rdn) v q
  | _, _ => ⟨nanF, 0⟩

/-- FADD (R145). -/
def faddOp (rm : Rm) (x y : Word) : FRes :=
  let a := readF x; let b := readF y
  if a.isNan || b.isNan then ⟨nanF, snan [a, b]⟩ else addFp rm a b

/-- FSUB (R145). -/
def fsubOp (rm : Rm) (x y : Word) : FRes :=
  let a := readF x; let b := readF y
  if a.isNan || b.isNan then ⟨nanF, snan [a, b]⟩ else addFp rm a b.negate

/-- The exact product of two values, or none for 0 x infinity (R145). -/
def mulFp (x y : Fp) : Option Fp :=
  match x, y with
  | .fin a m e, .fin b n g => some (.fin (a != b) (m * n) (e + g))
  | .inf a, .inf b => some (.inf (a != b))
  | .inf a, .fin b n _ => if n = 0 then none else some (.inf (a != b))
  | .fin a m _, .inf b => if m = 0 then none else some (.inf (a != b))
  | _, _ => none

/-- A value that is no NaN, rounded to FP32. -/
def deliver (rm : Rm) : Fp → FRes
  | .nan _ => ⟨nanF, 0⟩
  | .inf b => ⟨infF b, 0⟩
  | .fin b m e => if m = 0 then ⟨zeroF b, 0⟩ else roundTo fp32 rm b m e

/-- FMUL (R145). -/
def fmulOp (rm : Rm) (x y : Word) : FRes :=
  let a := readF x; let b := readF y
  if a.isNan || b.isNan then ⟨nanF, snan [a, b]⟩
  else match mulFp a b with
    | none => ⟨nanF, flagNV⟩
    | some p => deliver rm p

/-- FMAC and, with `minus`, FNMAC (R146): D + A x B or D - A x B, rounded once. -/
def fmacOp (minus : Bool) (rm : Rm) (x y d : Word) : FRes :=
  let a := readF x; let b := readF y; let z := readF d
  let nv := snan [a, b, z]
  if (a.isZero && b.isInf) || (a.isInf && b.isZero) then ⟨nanF, flagNV⟩
  else if a.isNan || b.isNan || z.isNan then ⟨nanF, nv⟩
  else match mulFp a b with
    | none => ⟨nanF, flagNV⟩
    | some p => addFp rm (if minus then p.negate else p) z

/-- The quotient m / n with 64 more bits than m, its last bit set where bits are lost; its exponent is `e - g - 65`. -/
def quotient (m n : Nat) : Nat :=
  let k := m * 2 ^ 64 / n
  2 * k + (if k * n = m * 2 ^ 64 then 0 else 1)

/-- FDIV of two values that are no NaN (R145). -/
def divFp (rm : Rm) (x y : Fp) : FRes :=
  match x, y with
  | .inf _, .inf _ => ⟨nanF, flagNV⟩
  | .inf a, _ => ⟨infF (a != y.neg), 0⟩
  | _, .inf b => ⟨zeroF (x.neg != b), 0⟩
  | .fin a m e, .fin b n g =>
    if n = 0 then (if m = 0 then ⟨nanF, flagNV⟩ else ⟨infF (a != b), flagDZ⟩)
    else if m = 0 then ⟨zeroF (a != b), 0⟩
    else roundTo fp32 rm (a != b) (quotient m n) (e - g - 65)
  | _, _ => ⟨nanF, 0⟩

/-- FDIV (R145). -/
def fdivOp (rm : Rm) (x y : Word) : FRes :=
  let a := readF x; let b := readF y
  if a.isNan || b.isNan then ⟨nanF, snan [a, b]⟩ else divFp rm a b

/-- The largest `r` with `r * r ≤ n`, found from bit `i - 1` down, starting from `r`. -/
def sqrtFrom (n : Nat) : Nat → Nat → Nat
  | 0, r => r
  | i + 1, r => sqrtFrom n i (if (r + 2 ^ i) * (r + 2 ^ i) ≤ n then r + 2 ^ i else r)

/-- The integer square root of a number below 2^(2 x 64). -/
def isqrt (n : Nat) : Nat := sqrtFrom n 64 0

/-- A magnitude with an even exponent: m x 2^e = m' x 2^(2 h). -/
def evenExp (m : Nat) (e : Int) : Nat × Int := if e % 2 = 0 then (m, e / 2) else (2 * m, (e - 1) / 2)

/-- FSQRT (R147). -/
def fsqrtOp (rm : Rm) (x : Word) : FRes :=
  match readF x with
  | .nan s => ⟨nanF, flagIf s flagNV⟩
  | .inf b => if b then ⟨nanF, flagNV⟩ else ⟨infF false, 0⟩
  | .fin b m e =>
    if m = 0 then ⟨zeroF b, 0⟩
    else if b then ⟨nanF, flagNV⟩
    else
      let v := evenExp m e
      let n := v.1 * 2 ^ 80
      let r := isqrt n
      roundTo fp32 rm false (2 * r + (if r * r = n then 0 else 1)) (v.2 - 41)

/-- FRCP (R148). -/
def frcpOp (x : Word) : FRes := fdivOp .rne 0x3F800000 x

/-- FRSQ (R148): 1/√x with 60 fraction bits and a last bit set where bits are lost. -/
def frsqOp (x : Word) : FRes :=
  match readF x with
  | .nan s => ⟨nanF, flagIf s flagNV⟩
  | .inf b => if b then ⟨nanF, flagNV⟩ else ⟨zeroF false, 0⟩
  | .fin b m e =>
    if m = 0 then ⟨infF b, flagDZ⟩
    else if b then ⟨nanF, flagNV⟩
    else
      let v := evenExp m e
      let r := isqrt (2 ^ 120 / v.1)
      roundTo fp32 .rne false (2 * r + (if r * r * v.1 = 2 ^ 120 then 0 else 1)) (-v.2 - 61)

/-! ### 2^x and log2 x (R148). Precision beyond every rounding boundary: log 11. -/

/-- The sum of 2^P / ((2k + 1) 3^(2k + 1)) over the next terms, `t` being 2^P / 3^(2k + 1). -/
def ln2Sum : Nat → Nat → Nat → Nat
  | 0, _, _ => 0
  | n + 1, k, t => t / (2 * k + 1) + ln2Sum n (k + 1) (t / 9)

/-- ln 2 with 320 fraction bits, from below: 2 artanh(1/3). -/
def ln2 : Nat := 2 * ln2Sum 110 0 (2 ^ 320 / 3)

/-- The sum of the exponential series from the term `t` (number `k`) on, for y / 2^320. -/
def expSum (y : Nat) : Nat → Nat → Nat → Nat
  | 0, _, _ => 0
  | n + 1, k, t => t + expSum y n (k + 1) (t * y / (2 ^ 320 * (k + 1)))

/-- 2^(f / 2^k) with 320 fraction bits, from below, for a fraction below 1. -/
def exp2Frac (f k : Nat) : Nat := expSum (f * ln2 / 2 ^ k) 90 0 (2 ^ 320)

/-- FEXP2 (R148). -/
def fexp2Op (x : Word) : FRes :=
  match readF x with
  | .nan s => ⟨nanF, flagIf s flagNV⟩
  | .inf b => if b then ⟨zeroF false, 0⟩ else ⟨infF false, 0⟩
  | .fin b m e =>
    let k := (-e).toNat
    let v : Int := scaled b m e (min e 0)
    let i := v / (2 ^ k : Nat)
    let f := (v % (2 ^ k : Nat)).toNat
    if i ≥ 128 then ⟨infF false, flagOF ||| flagNX⟩
    else if i < -200 then ⟨zeroF false, flagUF ||| flagNX⟩
    else if f = 0 then roundTo fp32 .rne false 1 i
    else roundTo fp32 .rne false (2 * exp2Frac f k + 1) (i - 321)

/-- The next bits of log2 v for v in [1, 2) held with 320 fraction bits, most significant first, on the bits `acc`: one
squaring a bit. -/
def log2Bits : Nat → Nat → Nat → Nat
  | 0, _, acc => acc
  | n + 1, v, acc =>
    let w := v * v / 2 ^ 320
    if 2 ^ 321 ≤ w then log2Bits n (w / 2) (2 * acc + 1) else log2Bits n w (2 * acc)

/-- FLOG2 (R148). -/
def flog2Op (x : Word) : FRes :=
  match readF x with
  | .nan s => ⟨nanF, flagIf s flagNV⟩
  | .inf b => if b then ⟨nanF, flagNV⟩ else ⟨infF false, 0⟩
  | .fin b m e =>
    if m = 0 then ⟨infF true, flagDZ⟩
    else if b then ⟨nanF, flagNV⟩
    else
      let l := Nat.log2 m
      let i : Int := e + l
      if m = 2 ^ l then roundInt .rne false i 0
      else
        let f := log2Bits 128 (m * 2 ^ (320 - l)) 0
        if i ≥ 0 then roundTo fp32 .rne false (2 * (i.toNat * 2 ^ 128 + f) + 1) (-129)
        else roundTo fp32 .rne true (2 * ((-i).toNat * 2 ^ 128 - f - 1) + 1) (-129)

/-! ### Selection, sign and classification (R149 to R154) -/

/-- A place on the line of FP32 values that are no NaN, -0 below +0. -/
def orderF (w : Word) : Int :=
  let mag : Int := (w.toNat % 2 ^ 31 : Nat)
  if w.getLsbD 31 then -mag - 1 else mag

/-- FMIN, or FMAX with `most` (R149). -/
def fminmaxOp (most : Bool) (x y : Word) : FRes :=
  let a := readF x; let b := readF y
  let nv := snan [a, b]
  if a.isNan && b.isNan then ⟨nanF, nv⟩
  else if a.isNan then ⟨y, nv⟩
  else if b.isNan then ⟨x, nv⟩
  else ⟨if (decide (orderF x ≤ orderF y)) != most then x else y, 0⟩

/-- FABS (R150). -/
def fabsOp (x : Word) : FRes :=
  let a := readF x
  if a.isNan then ⟨nanF, snan [a]⟩ else ⟨x &&& 0x7FFFFFFF, 0⟩

/-- FNEG (R150). -/
def fnegOp (x : Word) : FRes :=
  let a := readF x
  if a.isNan then ⟨nanF, snan [a]⟩ else ⟨x ^^^ 0x80000000, 0⟩

/-- FCMP (R151): 1 or 0, with NV. -/
def fcmpOp (c : Fcc) (x y : Word) : FRes :=
  let a := readF x; let b := readF y
  let un := a.isNan || b.isNan
  let eq := !un && (orderF x == orderF y || (a.isZero && b.isZero))
  let lt := !un && !eq && decide (orderF x < orderF y)
  let holds := match c with
    | .eq => eq
    | .ne => !eq
    | .lt => lt
    | .le => lt || eq
    | .gt => !un && !lt && !eq
    | .ge => !un && !lt
    | .un => un
    | .or => !un
  let nv := match c with
    | .lt | .le | .gt | .ge => flagIf un flagNV
    | .eq | .ne | .un | .or => snan [a, b]
  ⟨if holds then 1 else 0, nv⟩

/-- FCLASS (R152). -/
def fclassOp (x : Word) : Word :=
  match readF x with
  | .nan s => if s then 1 <<< 8 else 1 <<< 9
  | .inf b => if b then 1 else 1 <<< 7
  | .fin b m _ =>
    if m = 0 then (if b then 1 <<< 3 else 1 <<< 4)
    else if m < 2 ^ 23 then (if b then 1 <<< 2 else 1 <<< 5)
    else (if b then 1 <<< 1 else 1 <<< 6)

/-- FRND (R153). -/
def frndOp (rm : Rm) (x : Word) : FRes :=
  match readF x with
  | .nan s => ⟨nanF, flagIf s flagNV⟩
  | .inf _ => ⟨x, 0⟩
  | .fin b m e =>
    if 0 ≤ e then ⟨x, 0⟩
    else
      let r := roundAt rm b m e 0
      if r.1 = 0 then ⟨zeroF b, flagIf r.2 flagNX⟩
      else ⟨(roundTo fp32 .rne b r.1 0).bits, flagIf r.2 flagNX⟩

/-- FSCL (R154). Beyond ±1,000 every scale gives the result that ±1,000 gives: overflow, or a magnitude far below the
least subnormal. -/
def fsclOp (rm : Rm) (x y : Word) : FRes :=
  match readF x with
  | .nan s => ⟨nanF, flagIf s flagNV⟩
  | .inf _ => ⟨x, 0⟩
  | .fin b m e =>
    if m = 0 then ⟨x, 0⟩ else roundTo fp32 rm b m (e + max (-1000) (min 1000 y.toInt))

/-! ### Integers and FP32 (R129, R130) -/

/-- The rounding mode of an RMU modifier. -/
def rmuMode : Rmu → Rm
  | .rne | .urne => .rne
  | .rtz | .urtz => .rtz
  | .rup | .urup => .rup
  | .rdn | .urdn => .rdn

/-- The RMU modifier reads or writes an unsigned integer. -/
def rmuUnsigned : Rmu → Bool
  | .rne | .rtz | .rup | .rdn => false
  | .urne | .urtz | .urup | .urdn => true

/-- An integer rounded to FP32 (R129). -/
def intToF (m : Rmu) (v : Int) : FRes := roundInt (rmuMode m) false v 0

/-- FP32 to an integer in a range (R130): the value and the flags. -/
def fToInt (m : Rmu) (minv maxv : Int) (x : Word) : Int × Word :=
  let fit (v : Int) (inexact : Bool) : Int × Word :=
    if v > maxv then (maxv, flagNV)
    else if v < minv then (minv, flagNV)
    else (v, flagIf inexact flagNX)
  match readF x with
  | .nan _ => (0, flagNV)
  | .inf b => (if b then minv else maxv, flagNV)
  | .fin b n e =>
    let r := roundAt (rmuMode m) b n e 0
    fit (if b then -(r.1 : Int) else r.1) r.2

/-! ### Narrow formats (R80, R81, R155 to R157) -/

/-- FP32 to a narrow floating-point format (R80). -/
def narrow (f : Fmt) (ns : Ns) (x : Word) : FRes :=
  let put (neg : Bool) (mag : Nat) : Word := BitVec.ofNat 32 (f.signed neg mag)
  let ovf (neg : Bool) : Word :=
    match ns with
    | .sat => put neg f.maxBits
    | .rne => if f.infBits = f.nanBits then BitVec.ofNat 32 f.nanBits else put neg f.infBits
  match readF x with
  | .nan s => ⟨BitVec.ofNat 32 f.nanBits, flagIf s flagNV⟩
  | .inf b =>
    ⟨ovf b, match ns with
      | .sat => flagNX
      | .rne => flagIf (f.infBits == f.nanBits) flagNV⟩
  | .fin b m e =>
    if m = 0 then ⟨put b 0, 0⟩
    else
      let r := roundMag f .rne b m e
      if r.1 > f.maxBits then ⟨ovf b, flagOF ||| flagNX⟩
      else ⟨put b r.1, flagIf (r.2.2 && r.2.1) flagUF ||| flagIf r.2.1 flagNX⟩

/-- A narrow floating-point value to FP32, exactly (R81). -/
def widen (f : Fmt) (v : Nat) : Word := (deliver .rne (f.read v)).bits

/-- FP32 over a scale of 2^(s - 127), to an integer of `bits` bits (R80, R156); s = 255 is poison. -/
def quantise (bits : Nat) (ns : Ns) (x : Word) (s : Nat) : FRes :=
  let lo : Int := -((2 ^ (bits - 1) : Nat) : Int)
  let hi : Int := ((2 ^ (bits - 1) : Nat) : Int) - 1
  let put (v : Int) : Word := BitVec.ofInt 32 v
  let nanValue : Int := match ns with
    | .rne => lo
    | .sat => 0
  if s = 255 then ⟨put nanValue, flagNV⟩
  else match readF x with
    | .nan _ => ⟨put nanValue, flagNV⟩
    | .inf b => ⟨put (match ns with
        | .rne => lo
        | .sat => if b then lo else hi), flagNV⟩
    | .fin b m e =>
      let r := roundAt .rne b m (e - ((s : Int) - 127)) 0
      let v : Int := if b then -(r.1 : Int) else r.1
      if v < lo ∨ hi < v then
        match ns with
        | .rne => ⟨put lo, flagNV⟩
        | .sat => ⟨put (if v < lo then lo else hi), flagNX⟩
      else ⟨put v, flagIf r.2 flagNX⟩

/-- An integer times 2^(s - 127) as FP32 (R157); s = 255 gives the NaN. -/
def dequantise (v : Int) (s : Nat) : FRes :=
  if s = 255 then ⟨nanF, 0⟩ else roundInt .rne false v ((s : Int) - 127)

/-! ### Reductions (R167, R192) -/

/-- The exact sum of finite values in units of 2^-149. -/
def exactSum : List Fp → Int
  | [] => 0
  | .fin b m e :: vs => scaled b m e (-149) + exactSum vs
  | _ :: vs => exactSum vs

/-- CREDF.SUM (R167): the exact sum of the values, rounded once. -/
def sumF (ws : List Word) : FRes :=
  let vs := ws.map readF
  let nv := snan vs
  let pos := vs.any fun v => v == .inf false
  let neg := vs.any fun v => v == .inf true
  if vs.any Fp.isNan then ⟨nanF, if pos && neg then flagNV else nv⟩
  else if pos && neg then ⟨nanF, flagNV⟩
  else if pos then ⟨infF false, 0⟩
  else if neg then ⟨infF true, 0⟩
  else roundInt .rne (vs.all fun v => v.isZero && v.neg) (exactSum vs) (-149)

/-- The FMIN or FMAX of all the values (R167, R192); a value for none. -/
def extremeF (most : Bool) (none : Word) : List Word → FRes
  | [] => ⟨none, 0⟩
  | [w] =>
    let a := readF w
    if a.isNan then ⟨nanF, snan [a]⟩ else ⟨w, 0⟩
  | w :: ws =>
    let r := extremeF most none ws
    let x := fminmaxOp most w r.bits
    ⟨x.bits, r.flags ||| x.flags⟩

end Sys2Proof.Machine
end

