-- ==== Sys2Proof/Machine/Blocks.lean ====
section
/-! DEFINITION. Hallmarked blocks of 64 bytes (spec/05 R79, R82 to R85) and the element load LDE (spec/09 R173). -/

namespace Sys2Proof.Machine

/-- A byte of a block. -/
def blockByte (bs : List Byte) (i : Nat) : Nat := (listGetD bs i 0).toNat

/-- The number of elements of a format code (R83); none for a reserved code. -/
def elementCount (f : Nat) : Option Nat :=
  match f with
  | 0 => some 0
  | 1 => some 62
  | 2 => some 62
  | 3 => some 62
  | 4 => some 31
  | 5 => some 124
  | 6 => some 310
  | 7 => some 15
  | _ => none

/-- The payload bytes 2 to 63. -/
def payload (bs : List Byte) : List Byte := (bs.drop 2).take 62

/-- A block is invalid (R85): a reserved format code, or a TRIT5 payload byte above 242. -/
def blockInvalid (bs : List Byte) : Bool :=
  (elementCount (blockByte bs 0)).isNone || (blockByte bs 0 == 6 && (payload bs).any fun b => decide (242 < b.toNat))

/-- A block is poison (R84). -/
def blockPoison (bs : List Byte) : Bool := blockByte bs 1 == 255

/-- Trit `j` of a packed byte (R79), as a number. -/
def tritOf (b j : Nat) : Int := ((b / 3 ^ j % 3 : Nat) : Int) - 1

/-- An integer as an exact value. -/
def intFp (v : Int) : Fp := .fin (decide (v < 0)) v.natAbs 0

/-- A number of `bits` bits read as two's complement. -/
def signedOf (bits v : Nat) : Int := if v < 2 ^ (bits - 1) then (v : Int) else (v : Int) - (2 ^ bits : Nat)

/-- The value of element `i` of a block of a format (R83), the scale not applied. -/
def elementValue (bs : List Byte) (i : Nat) : Fp :=
  match blockByte bs 0 with
  | 1 => intFp (signedOf 8 (blockByte bs (2 + i)))
  | 2 => e4m3.read (blockByte bs (2 + i))
  | 3 => e5m2.read (blockByte bs (2 + i))
  | 4 => bf16.read (blockByte bs (2 + 2 * i) + 256 * blockByte bs (3 + 2 * i))
  | 5 => intFp (signedOf 4 (blockByte bs (2 + i / 2) / (if i % 2 = 0 then 1 else 16) % 16))
  | 6 => intFp (tritOf (blockByte bs (2 + i / 5)) (i % 5))
  | 7 => fp32.read (natOfBytes ((bs.drop (2 + 4 * i)).take 4))
  | _ => .fin false 0 0

/-- LDE's result from a block (R173); none where the block is invalid and the load traps BAD_HALLMARK. -/
def ldeResult (bs : List Byte) (i : Nat) : Option FRes :=
  let s := blockByte bs 1
  if blockInvalid bs then none
  else if s = 255 then some ⟨nanF, 0⟩
  else if ((elementCount (blockByte bs 0)).getD 0) ≤ i then some ⟨0, 0⟩
  else match elementValue bs i with
    | .nan _ => some ⟨nanF, 0⟩
    | .inf b => some ⟨infF b, 0⟩
    | .fin b m e => some (deliver .rne (.fin b m (e + ((s : Int) - 127))))

end Sys2Proof.Machine
end

