-- ==== Sys2Proof/Config.lean ====
section
/-! DEFINITION. What an implementation fixes or the spec leaves open, as constants with no body: nothing can
evaluate them, so a claim that holds of the model holds whatever they are. -/

namespace Sys2Proof.Config

/-- AES-256-XTS (R177): under a key pair, by the key's identity, and at a 16-byte block of main memory, by its number, which gives the tweak
of its sector and its place there, a permutation of the block's contents. Which one it is, is left open; log 9. -/
opaque xts (key block : Nat) : Equiv.Perm (BitVec 128)

/-- The cause value that a copy reports when it is killed after an uncorrectable error of a kind has frozen its channel (R304,
R251): the spec names no trap code for it; log 17. -/
opaque killStatus (kind : Nat) : Byte

/-- Which of the REASONs that R454 lists for a trap the fault record shows when LAUNCH, CNTA, CNTW, CANCEL or LINV raises it (R328,
R344), by cause value and modulo their number: R454 gives these cases none; log 18. -/
opaque openReason (cause : Byte) : Nat

/-- A byte of a team's context as the spill engine writes it into the save pool (R320): the spec gives no layout; log 50. -/
opaque contextByte (launch gang gteam : Nat) (clock offset : Nat) : Byte

/-- A byte of main memory below a line that the home slices or the memory-side cache held changed when a scrub or a wipe cleared them
(R434, R436): what had been written back by then depends on evictions; log 100. -/
opaque staleByte (pa clock : Nat) : Byte

/-- Which of `n` lines or ways a cache gives up where the spec names no victim (R215, R293, R353), modulo `n`; by the moment; log 16. -/
opaque victim (clock accesses : Nat) : Nat

/-- In which segment of those behind the team areas a line of the core cache stands, modulo their number: the spec places no line in a
way (R215). By the moment and the line; log 102. -/
opaque waySegment (clock accesses line : Nat) : Nat

/-- The set of the memory-side cache in which a line stands, modulo 8,388,608: the spec gives 16,384 MiB in sets of 16 ways and no
mapping (R353); log 106. -/
opaque cacheSet (line : Nat) : Nat

/-- Which set of each 1,024 the utility monitors watch, modulo 1,024 (R354 names none); log 106. -/
opaque monitoredSet : Nat

/-- Whether a station that holds a copy of a label's entry uses it or walks the table afresh: until a LINV both are allowed
(R339). By the package's ac-cycle count and the number of accesses begun; log 7. -/
opaque copyServes (clock accesses lab : Nat) : Bool

/-- Whether a fetch within 64 ac cycles of a breakpoint's write is matched, where the values before and after the write differ on it: both
are allowed (R439). By the cycle and the breakpoint; log 87. -/
opaque pointSeen (clock point : Nat) : Bool

/-- Which of its launch's free stack frames a gang takes when it is first placed, modulo their number (R223 names none); log 19. -/
opaque freeFrame (launch gang : Nat) : Nat

/-- The die from whose fabric port an answer leaves, modulo 4: the spec names the dies of the packages' requests alone (R380); log 22. -/
opaque answerDie (answers : Nat) : Nat

/-- The flit counter at which a link that holds a next key marks its boundary and switches to it, by link and epoch (R390); log 22. -/
opaque keyBoundary (link epoch : Nat) : Nat

/-- The junction temperature of every die has stayed below 100 degrees for the 10 ms before a moment of wall-clock time (R448): the
temperature is the world's; log 126. -/
opaque cooled (wall : Nat) : Bool

/-- A boot stage after the first fails when it is tried at a moment (R449): what makes training, clearing or the link fail is the world's;
log 126. -/
opaque stageFails (stage clock : Nat) : Bool

/-- Saltin's restart into an updated image is over at a moment (R452): its length is timing; log 126. -/
opaque restartOver (clock : Nat) : Bool

/-- SHA-512 (R394, R431): an uninterpreted function; log 8. -/
opaque sha512 (message : List Byte) : List Byte

/-- Hextal's PCI-SIG vendor ID, and the next-capability pointer of the recovery capability (R433); log 118. -/
opaque vendorId : BitVec 16
opaque nextCapability : BitVec 12

/-- RSASSA-PSS with SHA-512 verification of `sig` over `message` under `key` (R394, R431); log 8. -/
opaque pssVerifies (key message sig : List Byte) : Bool

/-- The public key that a firmware image's header carries (R431): the spec gives no layout of it; log 8. -/
opaque imageKey (image : List Byte) : List Byte

/-- The security version that a firmware image's header carries (R431); log 8. -/
opaque imageSvn (image : List Byte) : Nat

/-- A firmware image verifies under the key that it carries (R431); log 8. -/
opaque imageVerifies (image : List Byte) : Bool

/-- The `n`-th free byte drawn for a READBACK of an element whose layout the spec does not give (R445); log 20. -/
opaque openByte (n : Nat) : Byte

/-- RSASSA-PSS with SHA-512 signature under the device identity key (R435, R394 LINKSTAT); log 8. -/
opaque identitySign (message : List Byte) : List Byte

/-- RSAES-OAEP decryption under the key-encryption key, with `label` (R430); `none` where it does not decrypt; log 8. -/
opaque oaepUnwrap (label wrapped : List Byte) : Option (List Byte)

/-- The fresh owner key that Saltin's own generator gives at its `n`-th draw (R434 step 3, R449); log 8. -/
opaque generatedKey (n : Nat) : List Byte

/-- A byte of the certificates that READBACK returns in SPACE 0x0B (R445); log 8. -/
opaque certificateByte (offset : Nat) : Byte

/-- The part's serial number, as its identity certificate gives it (R430); log 8. -/
opaque serialNumber : List Byte

/-- The memory link, 0 to 15, whose modules hold a line: the spec names the links and not the mapping (R451); log 15. -/
opaque memoryLink (line : Nat) : Nat

end Sys2Proof.Config
end

