-- ==== Sys2Proof/Machine/Ops.lean ====
section
/-! DEFINITION. The named operations over the package's state: cores, teams and slices, the trap codes and their classes,
taking a trap, faults of the label path and their records, completing an instruction. -/

namespace Sys2Proof.Machine

/-! ### Cores, teams, slices -/

/-- A core's ct at a moment: it has risen by 1 for every 128 ac cycles in which it did not change (R362). -/
def Core.tickCt (now : DWord) (k : Core) : Core :=
  let n := (now - k.ctSince).toNat / 128
  { k with ct := k.ct + BitVec.ofNat 32 n, ctSince := k.ctSince + BitVec.ofNat 64 (128 * n) }

/-- The core numbered 0 to 383 (96 x die + core); one that nothing has touched since reset stands idle. -/
def core (s : State) (c : Nat) : Core := Table.getD s.cores c (Core.idle.tickCt s.clock)

/-- The state with a core replaced. -/
def putCore (s : State) (c : Nat) (k : Core) : State := { s with cores := Table.put s.cores c k }

/-- The state with a core changed. -/
def modCore (s : State) (c : Nat) (f : Core → Core) : State := putCore s c (f (core s c))

/-- The team in a slot of a core's active bank. -/
def teamAt (s : State) (t : TeamId) : Option Team := Table.get (core s t.core).active.teams t.slot

/-- The state with the team in a slot of an active bank replaced. -/
def putTeam (s : State) (t : TeamId) (tm : Team) : State :=
  modCore s t.core fun k => { k with active := { k.active with teams := Table.put k.active.teams t.slot tm } }

/-- A slice of a team. -/
def Team.slice (tm : Team) : Option Nat → Option Slice
  | none => some tm.addr
  | some i => tm.strands[i]?

/-- The team with a slice replaced. -/
def Team.putSlice (tm : Team) (w : Option Nat) (sl : Slice) : Team :=
  match w with
  | none => { tm with addr := sl }
  | some i => { tm with strands := tm.strands.set i sl }

/-- The place of a slice's team. -/
def teamIdOf (id : SliceId) : TeamId := ⟨id.core, id.slot⟩

/-- A slice that stands in an active bank, with its team. -/
def sliceAt (s : State) (id : SliceId) : Option (Team × Slice) :=
  match teamAt s (teamIdOf id) with
  | none => none
  | some tm => (tm.slice id.strand).map fun sl => (tm, sl)

/-- The state with a slice in an active bank replaced, and its team with it. -/
def putSlice (s : State) (id : SliceId) (tm : Team) (sl : Slice) : State :=
  putTeam s (teamIdOf id) (tm.putSlice id.strand sl)

/-- The state with a slice in an active bank changed, if it stands there. -/
def modSlice (s : State) (id : SliceId) (f : Slice → Slice) : State :=
  match sliceAt s id with
  | none => s
  | some (tm, sl) => putSlice s id tm (f sl)

/-- The state with a team in an active bank changed, if it stands there. -/
def modTeam (s : State) (t : TeamId) (f : Team → Team) : State :=
  match teamAt s t with
  | none => s
  | some tm => putTeam s t (f tm)

/-- The name of a slice of a team (R271). -/
def Team.name (tm : Team) (w : Option Nat) : SliceName := ⟨tm.launch, tm.gang, tm.gteam, w⟩

/-- The die of a core. -/
def dieOf (c : Nat) : Nat := c / 96

/-- A die of the package. -/
def die (s : State) (d : Nat) : Die := listGetD s.dies d Die.idle

/-- The state with a die changed. -/
def modDie (s : State) (d : Nat) (f : Die → Die) : State := { s with dies := listModify f s.dies d }

/-! ### Gangs -/

/-- The gang of a launch with a gang number. -/
def gangOf (s : State) (launch number : Nat) : Option Gang :=
  s.gangs.find? fun g => g.launch == launch && g.number == number

/-- The state with a gang changed. -/
def modGang (s : State) (launch number : Nat) (f : Gang → Gang) : State :=
  { s with gangs := s.gangs.map fun g => if g.launch == launch && g.number == number then f g else g }

/-- The launch with an identifier (%launch). -/
def launchOf (s : State) (id : Nat) : Option Launch := s.launches.find? fun l => l.id == id

/-- The state with a launch changed. -/
def modLaunch (s : State) (id : Nat) (f : Launch → Launch) : State :=
  { s with launches := s.launches.map fun l => if l.id == id then f l else l }

/-- The number of teams in a gang of a launch: WIDTH + 1 of D0 (R309), 1 for a launch that the state does not hold. -/
def widthOf (s : State) (launch : Nat) : Nat :=
  match launchOf s launch with
  | none => 1
  | some l => l.decls.length

/-- A team is the one that a launch, gang and team index name. -/
def Team.is (tm : Team) (launch gang gteam : Nat) : Bool :=
  tm.launch == launch && tm.gang == gang && tm.gteam == gteam

/-- Where a gang's team stands: in an active, outgoing or shadow bank, or in the save pool. -/
inductive TeamPlace where
  | active (t : TeamId)
  | outgoing (t : TeamId)
  | shadow (t : TeamId)
  | saved
  deriving DecidableEq, Repr

/-- The team of a bank's slot when it is the one named. -/
def bankTeam (b : Option Bank) (slot launch gang gteam : Nat) : Option Team :=
  match b with
  | none => none
  | some b => (Table.get b.teams slot).filter fun tm => tm.is launch gang gteam

/-- The team that a launch, gang and team index name, with where it stands. -/
def findTeam (s : State) (launch gang gteam : Nat) : Option (TeamPlace × Team) :=
  match gangOf s launch gang with
  | none => none
  | some g =>
    match g.saved.find? fun v => v.team.is launch gang gteam with
    | some v => some (.saved, v.team)
    | none =>
      match g.place[gteam]? with
      | none => none
      | some t =>
        let k := core s t.core
        match bankTeam (some k.active) t.slot launch gang gteam with
        | some tm => some (.active t, tm)
        | none =>
          match bankTeam k.outgoing t.slot launch gang gteam with
          | some tm => some (.outgoing t, tm)
          | none => (bankTeam k.shadow t.slot launch gang gteam).map fun tm => (.shadow t, tm)

/-- A bank with a team replaced. -/
def Bank.putTeam (b : Bank) (slot : Nat) (tm : Team) : Bank := { b with teams := Table.put b.teams slot tm }

/-- The state with the team at a place replaced. -/
def putTeamAt (s : State) (p : TeamPlace) (tm : Team) : State :=
  match p with
  | .active t => putTeam s t tm
  | .outgoing t => modCore s t.core fun k => { k with outgoing := k.outgoing.map (·.putTeam t.slot tm) }
  | .shadow t => modCore s t.core fun k => { k with shadow := k.shadow.map (·.putTeam t.slot tm) }
  | .saved => modGang s tm.launch tm.gang fun g =>
      { g with saved := g.saved.map fun v => if v.team.is tm.launch tm.gang tm.gteam then { v with team := tm } else v }

/-- The state with a named team changed, wherever it stands. -/
def modNamed (s : State) (launch gang gteam : Nat) (f : Team → Team) : State :=
  match findTeam s launch gang gteam with
  | none => s
  | some (p, tm) => putTeamAt s p (f tm)

/-- The team with a slice changed. -/
def Team.modSlice (tm : Team) (w : Option Nat) (f : Slice → Slice) : Team :=
  match tm.slice w with
  | none => tm
  | some sl => tm.putSlice w (f sl)

/-- A named slice with its team. -/
def namedSlice (s : State) (w : SliceName) : Option (Team × Slice) :=
  match findTeam s w.launch w.gang w.gteam with
  | none => none
  | some (_, tm) => (tm.slice w.strand).map fun sl => (tm, sl)

/-- The state with a named slice changed, wherever its team stands. -/
def modNamedSlice (s : State) (w : SliceName) (f : Slice → Slice) : State :=
  modNamed s w.launch w.gang w.gteam fun tm => tm.modSlice w.strand f

/-- The core where a named slice's team stands or stood last. -/
def coreOfName (s : State) (w : SliceName) : Nat :=
  match gangOf s w.launch w.gang with
  | none => 0
  | some g => ((g.place[w.gteam]?).map (·.core)).getD 0

/-- A slice is live: it has not exited (R99, R194). -/
def Slice.live (sl : Slice) : Bool := sl.run != .exited

/-- A team has ended (R240): its address slice and every strand have; one that is frozen only once it has been killed. -/
def Team.over (tm : Team) : Bool := (tm.killed || !tm.frozen) && !tm.addr.live && tm.strands.all fun sl => !sl.live

/-- The gang team n of a gang has ended (R240), whether or not what it held has been released. -/
def teamEnded (s : State) (launch gang gteam : Nat) : Bool :=
  match gangOf s launch gang with
  | none => false
  | some g => g.ended.contains gteam || (findTeam s launch gang gteam).any fun p => p.2.over

/-- Each strand with its index. -/
def Team.indexed (tm : Team) : List (Nat × Slice) := (List.range tm.strands.length).zip tm.strands

/-- The slices of a team by name. -/
def Team.members (tm : Team) : List (Option Nat × Slice) :=
  (none, tm.addr) :: (tm.indexed.map fun p => (some p.1, p.2))

/-- The live compute strands of a team with their indices. -/
def Team.liveStrands (tm : Team) : List (Nat × Slice) := tm.indexed.filter fun p => p.2.live

/-- The WKEY register of a world (R343). -/
def wkey (s : State) (w : Nat) : Word := Table.getD s.regs.wkey w 0

/-- A world may run (R343). -/
def worldRuns (s : State) (world : Nat) : Bool := (wkey s world).getLsbD 31

/-- A gang stands resident (R98). -/
def gangRuns (s : State) (launch number : Nat) : Bool :=
  match gangOf s launch number with
  | some g => g.state == .resident
  | none => false

/-- A slice of the package may issue (R98): RUNNABLE, its team not frozen, its gang resident, its world not stopped by the
owner of level P (R321, R343; log 115), the die not stopped, no
instruction of it waiting for data or for a word that it watches, no store of it held (R387), and for an address slice every restored command of its team in
its place (R265). -/
def canIssue (s : State) (id : SliceId) : Bool :=
  match sliceAt s id with
  | none => false
  | some (tm, sl) =>
    sl.run == .runnable && sl.await.isNone && sl.watched.isNone && !tm.frozen && !tm.killed && !(die s (dieOf id.core)).stopped &&
    sl.held.isEmpty && (id.strand.isSome || (core s id.core).active.reissue.all fun r => r.slot != id.slot) &&
    gangRuns s tm.launch tm.gang && worldRuns s tm.world

/-! ### Trap codes -/

/-- The trap codes of R102. -/
inductive Cause where
  | illegalOp | wrongSlice | badModifier | badOperand | literalDest | oddPair | regRange | queueUndeclared | queueKind
  | fetchRange | misalignedPc | badSpecial | stackOverflow | stackUnderflow | circleMask | trap | breakpoint | step
  | watch | labelMiss | labelDenied | offsetRange | wrongWorld | poisonPop | badHallmark | misalignedAccess | peerReset
  | notInPhase | linkKeyExhausted
  deriving DecidableEq, Repr

/-- The cause value of a trap code (R34, R102). -/
def Cause.value : Cause → Byte
  | .illegalOp => 0x01 | .wrongSlice => 0x02 | .badModifier => 0x03 | .badOperand => 0x04 | .literalDest => 0x05
  | .oddPair => 0x06 | .regRange => 0x07 | .queueUndeclared => 0x08 | .queueKind => 0x09 | .fetchRange => 0x0A
  | .misalignedPc => 0x0B | .badSpecial => 0x0C | .stackOverflow => 0x0D | .stackUnderflow => 0x0E
  | .circleMask => 0x0F | .trap => 0x10 | .breakpoint => 0x11 | .step => 0x12 | .watch => 0x13 | .labelMiss => 0x20
  | .labelDenied => 0x21 | .offsetRange => 0x22 | .wrongWorld => 0x23 | .poisonPop => 0x24 | .badHallmark => 0x25
  | .misalignedAccess => 0x26 | .peerReset => 0x27 | .notInPhase => 0x28 | .linkKeyExhausted => 0x29

/-- The classes of R101. -/
inductive TrapClass where
  | encoding | program | debug | data | miss | violation | event
  deriving DecidableEq, Repr

/-- The class value (R101). -/
def TrapClass.value : TrapClass → BitVec 4
  | .encoding => 0 | .program => 1 | .debug => 2 | .data => 3 | .miss => 4 | .violation => 5 | .event => 6

/-- The class of a trap code (R102). -/
def Cause.cls : Cause → TrapClass
  | .illegalOp | .wrongSlice | .badModifier | .badOperand | .literalDest | .oddPair | .regRange | .queueUndeclared
  | .queueKind | .fetchRange | .misalignedPc | .badSpecial => .encoding
  | .stackOverflow | .stackUnderflow | .circleMask | .trap => .program
  | .breakpoint | .step | .watch => .debug
  | .labelMiss => .miss
  | .labelDenied | .offsetRange | .wrongWorld => .violation
  | .poisonPop | .badHallmark | .misalignedAccess | .peerReset | .notInPhase => .data
  | .linkKeyExhausted => .event

/-- The identity of a slice in bits [47:11] of a record (R103), as a number. -/
def identityBits (pkg : Nat) (id : SliceId) : Nat :=
  pkg % 8192 * 2 ^ 35 + dieOf id.core % 4 * 2 ^ 33 + id.core % 96 * 2 ^ 26 + id.slot % 16 * 2 ^ 22 +
  (match id.strand with
   | none => 2 ^ 21
   | some i => i % 1024 * 2 ^ 11)

/-- The eight doublewords of a trap record (R103). -/
def TrapRecord.words (r : TrapRecord) : List DWord :=
  [ BitVec.ofNat 64 (r.cause.toNat * 2 ^ 56 + r.cls.toNat * 2 ^ 52 + identityBits r.pkg.toNat r.id),
    pairOf r.pc r.nextPc,
    BitVec.ofNat 64 (r.launch.toNat * 2 ^ 32 + r.world.toNat * 2 ^ 16 + r.field.toNat * 2 ^ 13),
    r.clock, r.info0, r.info1, r.detail0, r.detail1 ]

/-- What a trap says beside its code (R103, R453). -/
structure TrapInfo where
  cause : Cause
  field : BitVec 3 := 0
  next : Word := 0
  info0 : DWord := 0
  info1 : DWord := 0
  detail0 : DWord := 0
  detail1 : DWord := 0
  deriving DecidableEq, Repr

/-- A memory code's trap with its offset and label word (R103). -/
def TrapInfo.memory (c : Cause) (next : Word) (lw off : DWord) : TrapInfo :=
  { cause := c, next := next, info0 := off, info1 := lw }

/-- The trap record of a slice for a trap (R103). -/
def trapRecord (s : State) (id : SliceId) (tm : Team) (sl : Slice) (t : TrapInfo) : TrapRecord :=
  { cause := t.cause.value, cls := t.cause.cls.value, pkg := BitVec.ofNat 13 s.regs.number, id := id,
    nextPc := t.next, pc := sl.pc, launch := BitVec.ofNat 32 tm.launch, world := BitVec.ofNat 16 tm.world,
    field := t.field, clock := s.clock, info0 := t.info0, info1 := t.info1, detail0 := t.detail0,
    detail1 := t.detail1 }

/-- The debug slot that a launch's DEBUG records go to: bound, with a ring (R438). DESIGN CHOICE (log 112): of several slots bound to one
launch, the lowest-numbered takes its records. -/
def debugSlotOf (s : State) (launch : Nat) : Option Nat :=
  (s.debugSlots.find? fun p =>
    field (listGetD p.2.d 0 0) 63 63 == 1 && field (listGetD p.2.d 0 0) 62 62 == 1 &&
    field (listGetD p.2.d 1 0) 63 32 == launch && field (listGetD p.2.d 3 0) 63 48 != 0).map (·.1)

/-- Where a trap record of a class goes (R101). -/
def recordQueue (s : State) (launch : Nat) (c : TrapClass) : FaultQ :=
  match c with
  | .debug =>
    match debugSlotOf s launch with
    | some n => .debug n
    | none => .trap launch
  | _ => .trap launch

/-- The slice after it has been stopped by a trap: TRAPPED with its record (R100). Its PC is unchanged. -/
def Slice.stopped (sl : Slice) (r : TrapRecord) : Slice :=
  { sl with run := .trapped, record := some r, stall := none, await := none, skip := false, arrived := none, waits := none, scatter := [], linv := 0 }

/-- TAKING A TRAP of class ENCODING, PROGRAM, DATA or DEBUG (R100, R101): the slice enters TRAPPED with its record, its PC
left on the instruction, nothing else of it changed, and the record waits for its queue. -/
def trapSlice (s : State) (id : SliceId) (t : TrapInfo) : State :=
  match sliceAt s id with
  | none => s
  | some (tm, sl) =>
    let r := trapRecord s id tm sl t
    let s := putSlice s id tm (sl.stopped r)
    { s with waiting := s.waiting ++
        [⟨recordQueue s tm.launch t.cause.cls, r.words, .slice (tm.name id.strand), false⟩] }

/-! ### Faults of the label path -/

/-- What holds up an access that has met no trap (R301, R304, R451): a place that does not answer now, an uncorrectable error that
freezes the access's master, with its kind, unit and address for R305, or an entry that the walk has to read over the fabric first
(R337). -/
inductive Hold where
  | waits
  | freezes (kind unit addr : Nat)
  | fetch (f : EntryFetch)
  deriving DecidableEq, Repr

/-- A trap that an access meets (R171, R340): the station's level, REASON, POS, LABEL, the entry's GEN and ACTION, NEED,
HAVE on arrival, and the trace. With `hold`, no trap but what stands in the way of the access. -/
structure PathFault where
  cause : Cause
  level : BitVec 2 := 0
  reason : Byte := 0
  pos : BitVec 2 := 0
  label : BitVec 16 := 0
  gen : Byte := 0
  action : BitVec 2 := 3
  need : BitVec 6 := 0
  have6 : BitVec 6 := 0
  trace : StationTrace := {}
  hold : Option Hold := none
  /-- The fault of a barrier word, which passes no station (R454). -/
  barrier : Bool := false
  deriving DecidableEq, Repr

/-- An access held up. -/
def PathFault.ofHold (h : Hold) : PathFault := { cause := .labelMiss, hold := some h }

/-- A trace word that is redacted (R351). -/
def redacted : Word := 0x1000

/-- A station trace as a reader of a privilege sees it (R351): 0 JOB sees C, 1 GUEST C and D, 2 OWNER C, D and P, 3 all. -/
def StationTrace.shown (t : StationTrace) (reader : Nat) : StationTrace :=
  { c := t.c, d := if 1 ≤ reader then t.d else redacted, p := if 2 ≤ reader then t.p else redacted,
    f := if 3 ≤ reader then t.f else redacted }

/-- The two doublewords of a station trace (R350): C and D, P and F. -/
def StationTrace.words (t : StationTrace) : DWord × DWord := (pairOf t.d t.c, pairOf t.f t.p)

/-- The trace of a fault as a reader of a privilege sees it (R351); that of a barrier word stands as R454 gives it. -/
def PathFault.shown (f : PathFault) (reader : Nat) : DWord × DWord :=
  (if f.barrier then f.trace else f.trace.shown reader).words

/-- A trap with a station trace in DETAIL as its reader, JOB, sees it (R103, R351). -/
def TrapInfo.traced (t : TrapInfo) (tr : StationTrace) : TrapInfo :=
  { t with detail0 := (tr.shown 0).words.1, detail1 := (tr.shown 0).words.2 }

/-- Everything a fault record says of its requester (R349). -/
structure Requester where
  identity : Nat
  chan : Bool := false
  host : Option Nat := none
  pc : Word := 0
  world : Nat := 0
  off : DWord := 0
  size : Nat := 0
  deriving DecidableEq, Repr

/-- The eight doublewords of a fault record or notice (R349) as its reader sees it (R351). -/
def faultWords (s : State) (q : Requester) (f : PathFault) (reader : Nat) (notice : Bool) : List DWord :=
  let hidden := decide (reader < f.level.toNat)
  let tr := f.shown reader
  [ BitVec.ofNat 64 (f.cause.value.toNat * 2 ^ 56 + f.cause.cls.value.toNat * 2 ^ 52 + f.level.toNat * 2 ^ 50 +
      f.pos.toNat * 2 ^ 48 + q.identity + bitAt q.chan 10 + bitAt notice 9 + bitAt hidden 8 + f.reason.toNat),
    BitVec.ofNat 64 (2 ^ 63 + bitAt q.host.isSome 62 + (q.host.getD 0) % 256 * 2 ^ 32 + q.pc.toNat),
    BitVec.ofNat 64 (q.world % 65536 * 2 ^ 48 + (if hidden then 0 else f.label.toNat * 2 ^ 32 + f.gen.toNat * 2 ^ 24 +
      f.action.toNat * 2 ^ 22) + f.need.toNat * 2 ^ 16 + f.have6.toNat * 2 ^ 10),
    q.off, tr.1, tr.2, s.clock, BitVec.ofNat 64 (q.size % 2 ^ 32) ]

/-- The queue that the fault record of a failing level goes to (R347). A missing world descriptor goes to the owner
(R298). -/
def faultQueue (launch world : Nat) (f : PathFault) : FaultQ :=
  if f.level = 0 then .trap launch
  else if f.level = 1 ∧ f.reason ≠ 18 then .guest world
  else .owner

/-- The privilege of a queue's reader (R351). -/
def readerOf (f : PathFault) : FaultQ → Nat
  | .owner => if f.level = 3 then 3 else 2
  | .guest _ => 1
  | .trap _ => 0
  | .debug _ => 0

/-- A guest fault queue's descriptor (R348). -/
def guestDesc (s : State) (world : Nat) : QueueDesc := Table.getD s.regs.guestQ world ⟨0, 0⟩

/-- The notice of a P or F fault (R347): redacted, to the guest queue, dropped and counted when the queue is absent. -/
def postNotice (s : State) (q : Requester) (f : PathFault) : State :=
  if field (guestDesc s q.world).d1 63 48 = 0 then
    { s with regs := { s.regs with noticeLost := s.regs.noticeLost + 1 } }
  else { s with waiting := s.waiting ++ [⟨.guest q.world, faultWords s q f 1 true, .nobody, false⟩] }

/-- The fault record of a MISS or VIOLATION to the owner of the failing level, and the notice of a P or F fault that is
the package's own (R347). -/
def postFault (s : State) (launch : Nat) (q : Requester) (f : PathFault) (m : Master) : State :=
  let fq := faultQueue launch q.world f
  let s := { s with waiting := s.waiting ++ [⟨fq, faultWords s q f (readerOf f fq) false, m, false⟩] }
  if 2 ≤ f.level.toNat then postNotice s q f else s

/-- The requester fields of a slice's access (R349). -/
def sliceRequester (s : State) (id : SliceId) (tm : Team) (sl : Slice) (off : DWord) (size : Nat) : Requester :=
  { identity := identityBits s.regs.number id, pc := sl.pc, world := tm.world, off := off, size := size }

/-- A gang stops for a swap-out (R319, R322): its slices issue no more, and EXTRACT saves it. -/
def stopGang (s : State) (launch gang : Nat) : State :=
  modGang s launch gang fun g =>
    { g with state := (match g.state with
        | .resident => .stopping
        | x => x), misses := g.misses + 1, acked := none, ready := none }

/-- A die error record (R305). -/
def dieError (s : State) (kind dieNo unit addr : Nat) (who : DWord) : List DWord :=
  [BitVec.ofNat 64 (kind * 2 ^ 56 + dieNo % 4 * 2 ^ 45 + unit % 512 * 2 ^ 36), BitVec.ofNat 64 addr, who, s.clock, 0, 0, 0, 0]

/-- Where a named slice stands, or stood last. -/
def nameId (s : State) (w : SliceName) : SliceId :=
  match gangOf s w.launch w.gang with
  | none => ⟨0, 0, w.strand⟩
  | some g =>
    match g.place[w.gteam]? with
    | none => ⟨0, 0, w.strand⟩
    | some t => ⟨t.core, t.slot, w.strand⟩

/-- The requester identity of a named slice in the layout of R103. -/
def nameIdentity (s : State) (w : SliceName) : DWord := BitVec.ofNat 64 (identityBits s.regs.number (nameId s w))

/-- A slice that an uncorrectable error stops (R304): its team freezes with no trap record, and the die error record goes to
the owner, once while the team stays frozen. -/
def freezeMaster (s : State) (w : SliceName) (kind unit addr : Nat) : State :=
  match namedSlice s w with
  | none => s
  | some (tm, _) =>
    if tm.frozen then s
    else
      let s := modNamed s w.launch w.gang w.gteam fun tm => { tm with frozen := true }
      { s with waiting := s.waiting ++
          [⟨.owner, dieError s kind (unit / 384) (unit % 384) addr (nameIdentity s w), .slice w, false⟩] }

/-- Every team in an active bank. -/
def activeTeams (s : State) : List (TeamId × Team) :=
  s.cores.flatMap fun p => p.2.active.teams.map fun t => (⟨p.1, t.1⟩, t.2)

/-- STALLING at an instruction (R98, R107): a slice that waits on memory or a pending register, or an address slice, stays
RUNNABLE and tries again. The PC stays on the instruction. -/
def waitSlice (s : State) (id : SliceId) (c : ParkClass) : State := modSlice s id fun sl => { sl with stall := some c }

/-- TAKING A FAULT of the label path by a slice at its instruction (R101, R347): a DATA code traps the slice; a MISS stops
the gang for its swap-out, the slice to execute the instruction again; a VIOLATION freezes the team. A MISS or VIOLATION
posts the fault record, the notice, and, unless the level is C, the slice's trap record. No destination is written. `info0`
and `info1` stand in the trap record, `off` and `size` in the fault record. What is only held up waits with class MEMORY, its team
frozen where an uncorrectable error stands in the way (R304); an entry to be read over the fabric is noted for the slice (R337). -/
def faultWith (s : State) (id : SliceId) (f : PathFault) (info0 info1 off : DWord) (size : Nat) (next : Word) : State :=
  match sliceAt s id with
  | none => s
  | some (tm, sl) =>
    match f.hold with
    | some .waits => waitSlice s id .memory
    | some (.fetch x) => modSlice (waitSlice s id .memory) id fun sl => { sl with fetch := some x }
    | some (.freezes kind unit addr) => freezeMaster (waitSlice s id .memory) (tm.name id.strand) kind unit addr
    | none =>
    let d := f.shown 0
    let t : TrapInfo := { cause := f.cause, next := next, info0 := info0, info1 := info1, detail0 := d.1, detail1 := d.2 }
    match f.cause.cls with
    | .miss | .violation =>
      let r := trapRecord s id tm sl t
      let w := tm.name id.strand
      let tm' := { tm with frozen := tm.frozen || f.cause.cls == .violation }
      let s := putSlice s id tm' { sl with record := some r, stall := none, await := none, skip := false, waits := none, scatter := [], linv := 0 }
      let s := postFault s tm.launch (sliceRequester s id tm sl off size) f (.slice w)
      let s := if f.level = 0 then s else
        { s with waiting := s.waiting ++ [⟨.trap tm.launch, r.words, .slice w, false⟩] }
      if f.cause.cls == .miss then stopGang s tm.launch tm.gang else s
    | _ => trapSlice s id t

/-- A fault of an access: INFO0 its offset, INFO1 its label word (R103). -/
def faultSlice (s : State) (id : SliceId) (f : PathFault) (lw off : DWord) (size : Nat) (next : Word) : State :=
  faultWith s id f off lw off size next

/-! ### Completing and waiting -/

/-- The address of the instruction after one of `len` words (R28). -/
def nextPc (pc : Word) (len : Nat) : Word := pc + BitVec.ofNat 32 (4 * len)

/-- COMPLETING an instruction (R29, R105): the slice goes on at `next`; with its step bit set it enters TRAPPED with cause
STEP, PC and NEXTPC both at `next`. -/
def complete (s : State) (id : SliceId) (next : Word) : State :=
  match sliceAt s id with
  | none => s
  | some (tm, sl) =>
    let sl := { sl with pc := next, stall := none, await := none, skip := false, arrived := none, waits := none, scatter := [], linv := 0 }
    let s := putSlice s id tm sl
    if sl.stepBit then trapSlice s id { cause := .step, next := next } else s

/-- PARKING at an instruction (R98, R107): a compute strand parks until it is woken; an address slice stalls. -/
def parkSlice (s : State) (id : SliceId) (w : WaitFor) : State :=
  modSlice s id fun sl =>
    if id.strand.isSome then { sl with run := .parked w, stall := none, waits := some w }
    else { sl with stall := some w.cls, waits := some w }

/-! ### Time -/

/-- A 64-bit sum that saturates. -/
def satAdd64 (x : DWord) (n : Nat) : DWord := if x.toNat + n < 2 ^ 64 then x + BitVec.ofNat 64 n else BitVec.allOnes 64

end Sys2Proof.Machine
end

