-- ==== Sys2Proof/Machine/Walk.lean ====
section
/-! DEFINITION. Memory under keys, label entries, and the walk of an access through the stations C, D and P, and of a packet
at F (spec/20 R334 to R343, spec/12 R221, R222, spec/18 R297 to R303, spec/22 R385, R395). -/

namespace Sys2Proof.Machine

/-! ### Memory under keys (R177, R342) -/

/-- The identity of the key that a slot holds; 0 for a FREE slot. -/
def keyId (s : State) (slot : Nat) : Nat := Table.getD s.keys slot 0

/-- The plaintext that a reader under a key finds in a 16-byte block that holds `old` as plaintext under the key `writer` (R177, R342): it
decrypts the block's ciphertext. -/
def decryptBlock (reader writer block : Nat) (old : BitVec 128) : BitVec 128 :=
  (Config.xts reader block).symm (Config.xts writer block old)

/-- A block of main memory as plaintext under the key that it was written under. -/
def blockAt (s : State) (block : Nat) : BitVec 128 := BitVec.ofNat 128 (natOfBytes (Memory.readBytes s.mem (16 * block) 16))

/-- The byte of main memory that a reader under a key finds (R177, R342; log 9). -/
def byteUnder (s : State) (reader pa : Nat) : Byte :=
  match Table.get s.sectorKeys (pa / 32) with
  | none => Memory.read s.mem pa
  | some w =>
    if w = reader then Memory.read s.mem pa
    else (decryptBlock reader w (pa / 16) (blockAt s (pa / 16))).extractLsb' (8 * (pa % 16)) 8

/-- Bytes of main memory read under a key slot. -/
def readKeyed (s : State) (slot pa n : Nat) : List Byte := (List.range n).map fun i => byteUnder s (keyId s slot) (pa + i)

/-- A sector of main memory taken under a key: its ciphertext stays, and its plaintext is what that key's reader finds. -/
def rekeySector (s : State) (id sec : Nat) : State :=
  match Table.get s.sectorKeys sec with
  | none => { s with sectorKeys := Table.put s.sectorKeys sec id }
  | some w =>
    if w = id then s
    else { s with
      mem := Memory.writeBytes s.mem (32 * sec) ((List.range 32).map fun i => byteUnder s id (32 * sec + i))
      sectorKeys := Table.put s.sectorKeys sec id }

/-- Bytes of main memory written under a key slot. -/
def writeKeyed (s : State) (slot pa : Nat) (bs : List Byte) : State :=
  let s := (List.range ((pa + bs.length + 31) / 32 - pa / 32)).foldl
    (fun s i => rekeySector s (keyId s slot) (pa / 32 + i)) s
  { s with mem := Memory.writeBytes s.mem pa bs }

/-- All bytes lie in populated main memory (R334). -/
def populated (s : State) (pa size : Nat) : Bool := decide (pa + size ≤ s.memSize ∧ pa + size ≤ 2 ^ 41)

/-- All bytes lie in the host window (R334). -/
def inHostWindow (pa size : Nat) : Bool := decide (2 ^ 47 ≤ pa ∧ pa + size ≤ 2 ^ 48)

/-! ### Home slices and the weight store: what answers (R292, R293, R300, R301, R304, R451) -/

/-- The home slice of a line (R292). -/
def homeSlice (line : Nat) : Nat := (line + 5 * (line / 1536)) % 1536

/-- What the home slice holds of a line; a line that is absent is filled with mts (R293). -/
def lineAt (s : State) (line : Nat) : Line :=
  match Table.get s.lines line with
  | some l => l
  | none => let m := Table.getD s.mts (homeSlice line) 0; ⟨m, m, false, []⟩

/-- How a line answers. -/
inductive LineStatus where
  | serves
  | waits
  | freezes (kind : Nat)
  deriving DecidableEq, Repr

/-- The service state of a unit (R451). -/
def unitState (s : State) (u : Nat) : UnitState := Table.getD s.service.units u .inService

/-- The memory-side cache holds a line. -/
def inMsc (s : State) (line : Nat) : Bool := s.cacheSets.any fun p => p.2.any fun c => c.line == line

/-- Whether a line's home serves an access (R304, R451): DIE_STOP, a memory link out of service, a poisoned line. `whole`:
the access writes only whole sectors. -/
def lineStatus (s : State) (line : Nat) (whole : Bool) : LineStatus :=
  if (die s (homeSlice line / 384)).stopped then .waits
  else
    let away := (Table.get s.lines line).isNone && !inMsc s line
    match unitState s (48 + Config.memoryLink line) with
    | .failed => if away then .freezes 5 else if (lineAt s line).poisoned != [] && !whole then .freezes 2 else .serves
    | .inService => if (lineAt s line).poisoned != [] && !whole then .freezes 2 else .serves
    | .draining | .isolated | .testing =>
      if away then .waits else if (lineAt s line).poisoned != [] && !whole then .freezes 2 else .serves

/-- Nominal ac cycles of a refresh window of 2 µs; a period holds 32 of them (R301). -/
def refreshWindow : Nat := 2100

/-- A bank of the weight store is refreshing (R301). -/
def refreshing (s : State) (bank : Nat) : Bool := s.wall % (32 * refreshWindow) / refreshWindow == bank

/-- The weight-store bank of an offset (R300). -/
def weightBank (wa : Nat) : Nat := wa / 4096 % 32

/-- The lines that bytes touch. -/
def linesOf (pa size : Nat) : List Nat := (List.range ((pa + size + 127) / 128 - pa / 128)).map fun i => pa / 128 + i

/-- What a line's home sets against an access (R304, R451). -/
def lineHold (s : State) (line : Nat) (whole : Bool) : Option Hold :=
  match lineStatus s line whole with
  | .serves => none
  | .waits => some .waits
  | .freezes kind => some (.freezes kind (homeSlice line) (128 * line))

/-- What stands against reading bytes of main memory now. -/
def mainHold (s : State) (pa size : Nat) : Option Hold := (linesOf pa size).findSome? fun l => lineHold s l false

/-- What stands against a 64-byte block of a die's weight store but a refresh (R304); `write` rewrites it. -/
def blockFault (s : State) (d block : Nat) (write : Bool) : Option Hold :=
  if (die s d).stopped then some .waits
  else if !write && (die s d).badBlocks.contains block then some (.freezes 3 (384 * d + weightBank (64 * block)) (64 * block))
  else none

/-- What stands against a read or write of a block now (R300, R301, R304). -/
def blockHold (s : State) (d block : Nat) (write : Bool) : Option Hold :=
  match blockFault s d block write with
  | some h => some h
  | none => if refreshing s (weightBank (64 * block)) then some .waits else none

/-- The blocks that bytes of a weight store touch. -/
def blocksOf (wa size : Nat) : List Nat := (List.range ((wa + size + 63) / 64 - wa / 64)).map fun i => wa / 64 + i

/-- What stands against reading bytes of a weight store now. -/
def weightHold (s : State) (d wa size : Nat) : Option Hold := (blocksOf wa size).findSome? fun b => blockHold s d b false

/-! ### Permissions (R338, R341): R, W, X, A, M, H from bit 5 down -/

/-- R. -/
def permR : BitVec 6 := 32
/-- W. -/
def permW : BitVec 6 := 16
/-- X. -/
def permX : BitVec 6 := 8
/-- A. -/
def permA : BitVec 6 := 4
/-- M. -/
def permM : BitVec 6 := 2
/-- H. -/
def permH : BitVec 6 := 1

/-- `need` is within `have6`. -/
def within (need have6 : BitVec 6) : Bool := need &&& have6 == need

/-! ### Entries (R338) -/

/-- A label entry's two doublewords. -/
structure Entry where
  d0 : DWord
  d1 : DWord
  deriving DecidableEq, Repr

/-- VALID. -/
def Entry.valid (e : Entry) : Bool := e.d0.getLsbD 63
/-- ACTION: 0 POP, 1 SWAP, 2 DELIVER. -/
def Entry.action (e : Entry) : Nat := field e.d0 62 61
/-- PERM. -/
def Entry.perm (e : Entry) : BitVec 6 := e.d0.extractLsb' 55 6
/-- DESC. -/
def Entry.desc (e : Entry) : Bool := e.d0.getLsbD 54
/-- CACHE. -/
def Entry.cache (e : Entry) : Bool := e.d0.getLsbD 53
/-- REMOTE. -/
def Entry.remote (e : Entry) : Bool := e.d0.getLsbD 52
/-- LIMIT in bytes. -/
def Entry.limit (e : Entry) : Nat := 64 * field e.d0 51 16
/-- WORLD. -/
def Entry.world (e : Entry) : Nat := field e.d0 15 0
/-- The region start: 64 x BASE. -/
def Entry.base (e : Entry) : Nat := 64 * field e.d1 63 22
/-- OUT. -/
def Entry.out (e : Entry) : Nat := field e.d1 63 48
/-- KIND. -/
def Entry.kind (e : Entry) : Nat := field e.d1 47 46
/-- TARGET. -/
def Entry.target (e : Entry) : Nat := field e.d1 34 22
/-- KEY. -/
def Entry.key (e : Entry) : Nat := field e.d1 21 12
/-- GEN. -/
def Entry.gen (e : Entry) : Byte := e.d1.extractLsb' 4 8
/-- TEAM. -/
def Entry.team (e : Entry) : Nat := field e.d1 2 0

/-- A bad entry at a station (R338). -/
def Entry.bad (e : Entry) (lvl : Lvl) : Bool :=
  e.action == 3 || e.d1.getLsbD 3 ||
  (e.action == 1 && (field e.d1 45 35 != 0 || field e.d0 51 16 != 0)) ||
  (e.action == 0 && (field e.d1 63 4 != 0 || field e.d0 51 16 != 0)) ||
  (e.action == 1 && lvl == .p && (e.kind == 3 || !e.remote)) ||
  (e.action == 1 && (lvl == .c || lvl == .d) && (e.kind != 0 || e.target != 0)) ||
  (e.team != 0 && !(lvl == .c && e.action == 2))

/-- The actions that a station allows (R340). -/
def actionAllowed (lvl : Lvl) (action : Nat) : Bool :=
  match lvl with
  | .c | .d => action ≤ 2
  | .p => action == 1 || action == 2
  | .f => action == 2

/-! ### Requests -/

/-- What makes an access, where the path asks (R175, R285, R395, R399, R250, R345, R411). -/
inductive Req where
  /-- Loads, stores, queue-load elements, copies: served everywhere their permissions allow. -/
  | plain
  | atomic (op : AtomicOp)
  | waita
  | flag
  | wst
  | flushr
  | amsg
  deriving DecidableEq, Repr

/-- An access as the stations see it: the core it enters at, its team's launch, gang and world; its
offset, size, need and kind; the requester for whose walk an entry of its C table is read over the fabric (R337). -/
structure Ask where
  core : Nat
  launch : Nat
  gang : Nat
  world : Nat
  off : Nat
  size : Nat
  need : BitVec 6
  req : Req
  who : SliceName := ⟨0, 0, 0, none⟩
  by' : EntryFor := .instr
  deriving DecidableEq, Repr

/-- An access on its way: label word, position of the top label, have, rem, the trace so far, the copies of entries that
the walk leaves (R339) and the labels it used at each level (R344). -/
structure Going where
  lw : DWord
  pos : Nat := 0
  have6 : BitVec 6 := 63
  rem : Bool := true
  trace : StationTrace := {}
  copies : List (Lvl × EntryCopy) := []
  used : List (Nat × BitVec 16) := []
  deriving DecidableEq, Repr

/-- The label at a position of a label word; none is left beyond the fourth (R170). -/
def labelAt (lw : DWord) (pos : Nat) : Nat := if pos < 4 then field lw (63 - 16 * pos) (48 - 16 * pos) else 0

/-- A label word with the label at a position replaced. -/
def setLabel (lw : DWord) (pos lab : Nat) : DWord :=
  let sh := 48 - 16 * pos
  BitVec.ofNat 64 (lw.toNat - field lw (sh + 15) sh * 2 ^ sh + lab % 65536 * 2 ^ sh)

/-- A trace word (R350). -/
def traceWord (lab act : Nat) (perm : BitVec 6) (rem : Bool) : Word :=
  BitVec.ofNat 32 (lab % 65536 * 65536 + act % 8 * 8192 + perm.toNat * 64 + bitAt rem 5)

/-- A trace with a station's word. -/
def StationTrace.put (t : StationTrace) (lvl : Lvl) (w : Word) : StationTrace :=
  match lvl with
  | .c => { t with c := w }
  | .d => { t with d := w }
  | .p => { t with p := w }
  | .f => { t with f := w }

/-- A level's number (R349). -/
def Lvl.num (l : Lvl) : BitVec 2 :=
  match l with
  | .c => 0
  | .d => 1
  | .p => 2
  | .f => 3

/-- ACT of a failing station (R350). -/
def actOf : Cause → Nat
  | .labelMiss => 4
  | .labelDenied => 5
  | .offsetRange => 6
  | .wrongWorld => 7
  | _ => 2

/-- A fault at a station. -/
def Going.fail (g : Going) (lvl : Lvl) (need : BitVec 6) (e : Option Entry) (c : Cause) (reason : Byte) : PathFault :=
  let lab := labelAt g.lw g.pos
  { cause := c, level := Lvl.num lvl, reason := reason, pos := BitVec.ofNat 2 g.pos, label := BitVec.ofNat 16 lab,
    gen := (e.map Entry.gen).getD 0, action := (e.map fun e => BitVec.ofNat 2 e.action).getD 3, need := need,
    have6 := g.have6, trace := g.trace.put lvl (traceWord lab (actOf c) 0 false) }

/-- A requirement of a walk. -/
def require (ok : Bool) (f : PathFault) : Except PathFault Unit := if ok then .ok () else .error f

/-! ### Table reads -/

/-- A table read at a physical address under a key slot (R334, R337): in main memory, or through the host window. -/
def readTable (s : State) (pa key n : Nat) : Option (List DWord) :=
  if populated s pa (8 * n) then some (dwordsOfBytes n (readKeyed s key pa (8 * n)))
  else if inHostWindow pa (8 * n) then some (dwordsOfBytes n (Memory.readBytes s.hostMem (pa - 2 ^ 47) (8 * n)))
  else none

/-- What stands against reading or writing bytes at a physical address now: the lines of main memory (R304, R451). `whole`: only whole
sectors are written. -/
def physicalHold (s : State) (pa size : Nat) (whole : Bool) : Option Hold :=
  if populated s pa size then (linesOf pa size).findSome? fun l => lineHold s l whole else none

/-- A station's table read at a physical address (R337): `f` where the memory is not there; held up where a line does not answer. -/
def stationRead (s : State) (pa key n : Nat) (f : PathFault) : Except PathFault (List DWord) :=
  match readTable s pa key n with
  | none => .error f
  | some ds =>
    match physicalHold s pa (8 * n) false with
    | some h => .error (.ofHold h)
    | none => .ok ds

/-- The entry of a table, and whether it came from a station's copy. -/
def entryOf : List DWord → Entry
  | d0 :: d1 :: _ => ⟨d0, d1⟩
  | _ => ⟨0, 0⟩

/-- A station's copy of an entry, where the access is served by it and not by a fresh walk (R339; log 7). -/
def findCopy (s : State) (cs : List EntryCopy) (scope lab : Nat) : Option Entry :=
  match cs.find? fun c => c.scope == scope && c.label == BitVec.ofNat 16 lab with
  | none => none
  | some c => if Config.copyServes s.clock.toNat s.nextAccess lab then some ⟨c.d0, c.d1⟩ else none

/-- The key slot of a world's own structures (R343). -/
def worldKey (s : State) (w : Nat) : Nat := wfield (wkey s w) 9 0

/-- Where the world descriptor of a world on a die stands (R297). -/
def worldDescPa (s : State) (d w : Nat) : Nat := 32 * field (die s d).wdtBase 47 5 + 32 * w

/-- The world descriptor of a world on a die (R298), D0 to D3; none where it cannot be read. -/
def worldDesc (s : State) (d w : Nat) : Option (List DWord) := if w < 4096 then readTable s (worldDescPa s d w) 0 4 else none

/-- The start and the size in 64-KiB units of the weight-store window of a world descriptor (R298). -/
def weightWindow (desc : List DWord) : Nat × Nat :=
  let d2 := listGetD desc 2 0
  (field d2 15 0, if field d2 15 0 + field d2 31 16 > 6144 then 0 else field d2 31 16)

/-! ### One station (R340) -/

/-- The part of R340 that every station makes: the entry checks, WORLD, permissions and rem. `grant` bounds what a DELIVER
at this station can grant. -/
def stationEnter (lvl : Lvl) (world : Nat) (need grant : BitVec 6) (g : Going) (count : Nat) (e : Entry) (copy : Bool)
    (scope : Nat) : Except PathFault Going := do
  let lab := labelAt g.lw g.pos
  require (decide (lab < count) && e.valid) (g.fail lvl need none .labelMiss 1)
  require (!e.bad lvl) (g.fail lvl need (some e) .labelDenied 7)
  require (actionAllowed lvl e.action) (g.fail lvl need (some e) .labelDenied 6)
  require (e.world == world) (g.fail lvl need (some e) .wrongWorld 10)
  let have6 := g.have6 &&& e.perm &&& (if e.action = 2 then grant else 63)
  require (within need have6) (g.fail lvl need (some e) .labelDenied 4)
  let rem := g.rem && (e.remote || lvl == .p || lvl == .f)
  let lab16 := BitVec.ofNat 16 lab
  .ok { g with
    have6 := have6, rem := rem
    trace := g.trace.put lvl (traceWord lab (e.action + 1) have6 rem)
    copies := if copy then g.copies else g.copies ++ [(lvl, ⟨scope, lab16, e.d0, e.d1⟩)]
    used := g.used ++ [((Lvl.num lvl).toNat, lab16)] }

/-- A path that ends at a station. -/
def Going.arrive (g : Going) (lvl : Lvl) (dest : Dest) : Path :=
  ⟨dest, g.have6, Lvl.num lvl, BitVec.ofNat 2 g.pos, g.trace, g.copies, g.used⟩

/-- An access of a kind that the delivering or forwarding station does not serve (R454 REASON 21). `at0` is the access on
arrival at the station. -/
def notServed (at0 : Going) (lvl : Lvl) (a : Ask) (e : Option Entry) : PathFault := at0.fail lvl a.need e .labelDenied 21

/-- Where the window descriptor of a scale-out port stands (R395). -/
def windowDescPa (s : State) (port n : Nat) : Nat := 32 * field (listGetD s.regs.sowBase port 0) 47 5 + 32 * n

/-- The window descriptor of a scale-out port (R395), D0 to D3. -/
def windowDesc (s : State) (port n : Nat) : Option (List DWord) :=
  if n < (listGetD s.regs.sowCount port 0).toNat then readTable s (windowDescPa s port n) 0 4 else none

/-- What stands against reading it now (R304, R451). -/
def windowHold (s : State) (port n : Nat) : Option Hold :=
  if n < (listGetD s.regs.sowCount port 0).toNat then physicalHold s (windowDescPa s port n) 32 false else none

/-- An atomic that a scale-out window takes (R175, R395). -/
def windowAtomic : AtomicOp → Bool
  | .add | .cas => true
  | .max | .or | .xch => false

/-- The package's PHASEMAP lets it reach a target (R382). -/
def inPhase (s : State) (target : Nat) : Bool := s.regs.phaseMap.getLsbD (target / 64)

/-- Station P's SWAP (R340, R382, R395). -/
def swapAtP (s : State) (a : Ask) (g0 g : Going) (e : Entry) : Except PathFault Path := do
  let fail := g0.fail .p a.need (some e)
  require g.rem (fail .labelDenied 5)
  let served := match a.req with
    | .plain | .flag | .atomic _ => true
    | .amsg => e.kind == 0
    | .wst | .waita | .flushr => false
  require served (notServed g0 .p a (some e))
  if e.kind = 0 then
    require (inPhase s e.target) (fail .notInPhase 0)
    .ok (g.arrive .p (.fabric e.target e.out))
  else
    let port := e.kind - 1
    match windowHold s port e.target, windowDesc s port e.target with
    | some h, _ => .error (.ofHold h)
    | none, none => .error (fail .labelMiss 1)
    | none, some ds =>
      let d0 := listGetD ds 0 0
      require (d0.getLsbD 63) (fail .labelMiss 1)
      require (decide (a.off + a.size ≤ (listGetD ds 3 0).toNat)) (fail .offsetRange 9)
      let ok := match a.req with
        | .atomic op => d0.getLsbD 60 && windowAtomic op
        | _ => true
      require ok (notServed g0 .p a (some e))
      .ok (g.arrive .p (.window port e.target e.out ((listGetD ds 1 0).toNat + a.off)))

/-- A DELIVER at P or F into package or host memory (R340). -/
def deliverPhysical (s : State) (lvl : Lvl) (a : Ask) (g0 g : Going) (e : Entry) : Except PathFault Path := do
  let fail := g0.fail lvl a.need (some e)
  require (decide (a.off + a.size ≤ e.limit)) (fail .offsetRange 9)
  require ((Table.get s.keys e.key).isSome) (fail .labelDenied 8)
  let pa := e.base + a.off
  require (populated s pa a.size || inHostWindow pa a.size) (fail .labelDenied 11)
  if inHostWindow pa a.size then
    require (within permH g.have6) (g0.fail lvl (a.need ||| permH) (some e) .labelDenied 4)
    require (a.req != .waita && a.req != .wst && !(lvl == .p && (a.req == .flag || a.req == .amsg)))
      (notServed g0 lvl { a with need := a.need ||| permH } (some e))
    .ok (g.arrive lvl (.host (pa - 2 ^ 47)))
  else
    require (a.req != .wst && !(lvl == .p && (a.req == .flag || a.req == .amsg))) (notServed g0 lvl a (some e))
    .ok (g.arrive lvl (.main pa e.key e.cache e.desc))

/-- Station P (R340). -/
def stationP (s : State) (a : Ask) (g : Going) : Except PathFault Path := do
  let lab := labelAt g.lw g.pos
  require (lab != 0) (g.fail .p a.need none .labelMiss 2)
  let c := findCopy s s.pCopies 0 lab
  let count := field s.regs.ptCount 16 0
  let e ← match c with
    | some e => .ok e
    | none =>
      if lab < count then
        (stationRead s (64 * field s.regs.ptBase 47 6 + 16 * lab) 0 2 (g.fail .p a.need none .labelDenied 12)).map entryOf
      else .ok ⟨0, 0⟩
  let g1 ← stationEnter .p a.world a.need 63 g (if c.isSome then 65536 else count) e c.isSome 0
  if e.action = 1 then swapAtP s a g g1 e else deliverPhysical s .p a g g1 e

/-- What a weight-store DELIVER grants (R299, R303): R and M; W only to a WST of the die's loader launch. -/
def weightGrant (s : State) (d : Nat) (a : Ask) : BitVec 6 :=
  permR ||| permM ||| (if a.req = .wst ∧ (die s d).loader = some a.launch then permW else 0)

/-- Station D's DELIVER into the weight store (R299, R303). -/
def deliverWeight (d : Nat) (a : Ask) (g0 g : Going) (e : Entry) (desc : List DWord) : Except PathFault Path := do
  let win := weightWindow desc
  require (decide (a.off + a.size ≤ e.limit) && decide (e.base + a.off + a.size ≤ 65536 * win.2))
    (g0.fail .d a.need (some e) .offsetRange 9)
  let served := match a.req with
    | .plain | .wst | .flushr => true
    | .atomic _ | .waita | .flag | .amsg => false
  require served (notServed g0 .d a (some e))
  .ok (g.arrive .d (.weight d (65536 * win.1 + e.base + a.off)))

/-- Stations D and P for an access whose top label is D's (R297 to R299, R340). -/
def stationD (s : State) (a : Ask) (g : Going) : Except PathFault Path := do
  let d := dieOf a.core
  let lab := labelAt g.lw g.pos
  require (lab != 0) (g.fail .d a.need none .labelMiss 2)
  let bad := g.fail .d a.need none .labelDenied 12
  if 4096 ≤ a.world then .error bad
  else
    let desc ← stationRead s (worldDescPa s d a.world) 0 4 bad
    require ((listGetD desc 0 0).getLsbD 0) (g.fail .d a.need none .labelMiss 18)
    let c := findCopy s (die s d).copies a.world lab
    let count := field (listGetD desc 1 0) 31 0
    let e ← match c with
      | some e => .ok e
      | none =>
        if lab < count then
          (stationRead s (64 * field (listGetD desc 0 0) 47 6 + 16 * lab) (worldKey s a.world) 2 bad).map entryOf
        else .ok ⟨0, 0⟩
    let g1 ← stationEnter .d a.world a.need (weightGrant s d a) g (if c.isSome then 65536 else count) e c.isSome a.world
    if e.action = 2 then deliverWeight d a g g1 e desc
    else if e.action = 1 then stationP s a { g1 with lw := setLabel g1.lw g1.pos e.out }
    else stationP s a { g1 with pos := g1.pos + 1 }

/-- The bytes that a path reaches, for a read of the device (R337); none where the path leaves the package (log 12). -/
def readDest (s : State) (d : Dest) (n : Nat) : Option (List Byte) :=
  match d with
  | .main pa key _ _ => some (readKeyed s key pa n)
  | .host pa => some (Memory.readBytes s.hostMem pa n)
  | .weight dd wa => some (Memory.readBytes (die s dd).weights wa n)
  | .scratch _ _ | .regs _ | .stack _ | .fabric _ _ | .window _ _ _ _ => none

/-- What stands against such a read now (R301, R304). -/
def destHold (s : State) (d : Dest) (n : Nat) : Option Hold :=
  match d with
  | .main pa _ _ _ => mainHold s pa n
  | .weight dd wa => weightHold s dd wa n
  | .host _ | .scratch _ _ | .regs _ | .stack _ | .fabric _ _ | .window _ _ _ _ => none

/-- The bytes at the end of a requester's own path: a load made for it (R223, R337). -/
def loadDest (s : State) (p : Path) (n : Nat) (f : PathFault) : Except PathFault (List Byte) :=
  match destHold s p.dest n with
  | some h => .error (.ofHold h)
  | none =>
    match readDest s p.dest n with
    | some bs => .ok bs
    | none => .error { f with level := p.level, pos := p.pos, trace := p.trace }

/-- A doubleword of a launch's record (R309); 0 for a launch that the state does not hold. -/
def launchWord (s : State) (launch i : Nat) : DWord :=
  match launchOf s launch with
  | none => 0
  | some l => listGetD l.words i 0

/-- What a requester has read over the fabric of an entry of its launch's C table (R337). -/
def tableReadFor (s : State) (a : Ask) (lab : Nat) : Option (List Byte) :=
  (s.tableReads.find? fun r => r.who == a.who && r.by' == a.by' && r.label == lab).map (·.bytes)

/-- The entry of a launch's C table (R221, R337): a load by the requester through CTLW, its fault being the access's own with REASON 12;
a world descriptor with VALID = 0 keeps REASON 18, which sends its record to the owner (R298). Where the path leaves the package the walk
waits until that load has returned. -/
def readCTable (s : State) (a : Ask) (g : Going) (lab : Nat) : Except PathFault Entry :=
  let fault12 (f : PathFault) : PathFault :=
    { f with reason := if f.reason = 18 then 18 else 12, trace := { f.trace with c := g.trace.c } }
  let off := field (launchWord s a.launch 7) 47 0 + 16 * lab
  match stationD s { a with off := off, size := 16, need := permR, req := .plain } { lw := launchWord s a.launch 6 } with
  | .error f => .error (fault12 f)
  | .ok p =>
    match p.dest with
    | .fabric _ _ | .window _ _ _ _ =>
      match tableReadFor s a lab with
      | some bs => .ok (entryOf (dwordsOfBytes 2 bs))
      | none => .error (.ofHold (.fetch ⟨⟨lab, a.by', g.lw, BitVec.ofNat 64 a.off, a.size, a.need⟩, p, BitVec.ofNat 64 off⟩))
    | .main _ _ _ _ | .host _ | .weight _ _ | .scratch _ _ | .regs _ | .stack _ =>
      (loadDest s p 16 (g.fail .p permR none .labelDenied 12)).map fun bs => entryOf (dwordsOfBytes 2 bs)

/-- A gang team of a requester exists and has not ended (R222, R275). -/
def gangTeamExists (s : State) (launch gang n : Nat) : Bool :=
  decide (n < widthOf s launch) && !teamEnded s launch gang n

/-- The size of a gang team's tile region in bytes (R222). -/
def tileRegionSize (s : State) (launch n : Nat) : Nat :=
  match launchOf s launch with
  | none => 0
  | some l => 512 * (((l.decls[n]?).map fun d => d.tiles.sum).getD 0)

/-- A reserved label at C (R222): the places 0xFF00 to 0xFF07, 0xFF10 and 0xFF11. `regs` is the byte size of the
requester's register window. -/
def reservedC (s : State) (a : Ask) (g : Going) (lab regs : Nat) : Except PathFault Path := do
  let fail := g.fail .c a.need none
  let deliver (perm : BitVec 6) (limit : Nat) (dest : Dest) (served : Bool) : Except PathFault Path := do
    let have6 := g.have6 &&& perm
    require (within a.need have6) (fail .labelDenied 4)
    require (decide (a.off + a.size ≤ limit)) (fail .offsetRange 9)
    require served (notServed g .c a none)
    let g1 := { g with
      have6 := have6, trace := g.trace.put .c (traceWord lab 3 have6 g.rem)
      used := g.used ++ [(0, BitVec.ofNat 16 lab)] }
    .ok (g1.arrive .c dest)
  if 0xFF00 ≤ lab ∧ lab ≤ 0xFF07 then
    let n := lab - 0xFF00
    require (gangTeamExists s a.launch a.gang n) (fail .labelDenied 20)
    deliver (permR ||| permW ||| permA ||| permM) (tileRegionSize s a.launch n) (.scratch n a.off)
      (a.req != .flag && a.req != .wst && a.req != .amsg)
  else if lab = 0xFF10 then
    deliver (permR ||| permW) regs (.regs a.off) (a.req == .plain || a.req == .flushr)
  else if lab = 0xFF11 then
    deliver (permR ||| permW) 16384 (.stack a.off) (a.req == .plain || a.req == .flushr)
  else .error (fail .labelDenied 19)

/-- Station C's DELIVER into a gang team's tile region (R221). An access that the entry's limit lets past the region's end
is out of range too (log 13). -/
def deliverScratch (s : State) (a : Ask) (g0 g : Going) (e : Entry) : Except PathFault Path := do
  let fail := g0.fail .c a.need (some e)
  require (gangTeamExists s a.launch a.gang e.team) (fail .labelDenied 20)
  require (decide (a.off + a.size ≤ e.limit) &&
    decide (e.base + a.off + a.size ≤ tileRegionSize s a.launch e.team)) (fail .offsetRange 9)
  require (a.req != .flag && a.req != .wst && a.req != .amsg) (notServed g0 .c a (some e))
  .ok (g.arrive .c (.scratch e.team (e.base + a.off)))

/-- THE WALK of a slice's access from station C on (R340). The offset's bits [63:48] are checked first (R171 order 1). -/
def walkC (s : State) (a : Ask) (lw off : DWord) (regs : Nat) : Except PathFault Path := do
  let g : Going := { lw := lw }
  let lab := labelAt lw 0
  require (field off 63 48 == 0) (g.fail .c a.need none .offsetRange 3)
  require (lab != 0) (g.fail .c a.need none .labelMiss 2)
  if 0xFF00 ≤ lab then reservedC s a g lab regs
  else
    let c := findCopy s (core s a.core).cCopies a.launch lab
    let count := field (launchWord s a.launch 7) 63 48
    let e ← match c with
      | some e => .ok e
      | none => if lab < count then readCTable s a g lab else .ok ⟨0, 0⟩
    let g1 ← stationEnter .c a.world a.need 63 g (if c.isSome then 65536 else count) e c.isSome a.launch
    if e.action = 2 then deliverScratch s a g g1 e
    else if e.action = 1 then stationD s a { g1 with lw := setLabel g1.lw g1.pos e.out }
    else stationD s a { g1 with pos := g1.pos + 1 }

/-- Station F for a packet at its target (R385). -/
def stationF (s : State) (a : Ask) (lab : Nat) (have6 : BitVec 6) (pos : Nat) : Except PathFault Path := do
  let g : Going := { lw := setLabel 0 pos lab, pos := pos, have6 := have6 }
  require (lab != 0) (g.fail .f a.need none .labelMiss 2)
  let c := findCopy s s.fCopies 0 lab
  let count := s.regs.ftCount.toNat
  let e ← match c with
    | some e => .ok e
    | none =>
      if lab < count then
        (stationRead s (64 * field s.regs.ftBase 47 6 + 16 * lab) 0 2 (g.fail .f a.need none .labelDenied 12)).map entryOf
      else .ok ⟨0, 0⟩
  let g1 ← stationEnter .f a.world a.need 63 g (if c.isSome then 65536 else count) e c.isSome 0
  if a.req = .amsg then .ok (g1.arrive .f (.main 0 0 false false)) else deliverPhysical s .f a g g1 e

/-! ### Copies (R339) -/

/-- A station's copies with one more, in place of an older one of its entry; the oldest given up where it holds `cap`. -/
def addCopy (cap : Nat) (cs : List EntryCopy) (c : EntryCopy) : List EntryCopy :=
  let cs := cs.filter fun x => !(x.scope == c.scope && x.label == c.label)
  (if cap ≤ cs.length then cs.drop 1 else cs) ++ [c]

/-- The state after a walk from a core has left its copies at the stations. -/
def keepCopies (s : State) (coreNo : Nat) (cs : List (Lvl × EntryCopy)) : State :=
  cs.foldl (fun s c =>
    match c.1 with
    | .c => modCore s coreNo fun k => { k with cCopies := addCopy 256 k.cCopies c.2 }
    | .d => modDie s (dieOf coreNo) fun d => { d with copies := addCopy 2048 d.copies c.2 }
    | .p => { s with pCopies := addCopy 8192 s.pCopies c.2 }
    | .f => { s with fCopies := addCopy 4096 s.fCopies c.2 }) s

end Sys2Proof.Machine
end

