-- ==== Sys2Proof/Machine/Launches.lean ====
section
/-! DEFINITION. Launch queues, launch records and completion counters as they stand in memory and registers (spec/19 R306 to
R312), and submitting a record (R329). -/

namespace Sys2Proof.Machine

/-! ### Structures in main memory -/

/-- Doublewords at a physical address under a key slot; zeros where it is not populated. -/
def readWords (s : State) (pa key n : Nat) : List DWord := (readTable s pa key n).getD (List.replicate n 0)

/-- A doubleword read so. -/
def readWord (s : State) (pa key : Nat) : DWord := listGetD (readWords s pa key 1) 0 0

/-- The state without core-cache copies and WAITA records of the lines that bytes touch. -/
def dropLines (s : State) (pa size : Nat) : State :=
  let hit (l : Nat) : Bool := decide (128 * l < pa + size ∧ pa < 128 * l + 128)
  { s with
    cores := s.cores.map fun p => (p.1, { p.2 with copies := p.2.copies.filter fun c => !hit c.line })
    waiters := s.waiters.filter fun w => !hit w.1 }

/-- The poison of the sectors of main memory that a write covers whole is over (R304). -/
def healSectors (s : State) (pa size : Nat) : State :=
  let whole (line k : Nat) : Bool := decide (pa ≤ 128 * line + 32 * k ∧ 128 * line + 32 * k + 32 ≤ pa + size)
  { s with lines := s.lines.map fun p => (p.1, { p.2 with poisoned := p.2.poisoned.filter fun k => !whole p.1 k }) }

/-- The package's own write of a structure in physical memory under a key slot. Reserved places take nothing. -/
def writeDevice (s : State) (pa key : Nat) (bs : List Byte) : State :=
  if populated s pa bs.length then healSectors (dropLines (writeKeyed s key pa bs) pa bs.length) pa bs.length
  else if inHostWindow pa bs.length then { s with hostMem := Memory.writeBytes s.hostMem (pa - 2 ^ 47) bs }
  else s

/-- The slot of a trap, fault or debug queue that takes its next record, set (R323, R348). -/
def setRingPos (s : State) (q : FaultQ) (n : Nat) : State :=
  { s with rings := (s.rings.filter fun x => x.1 != q) ++ [(q, n)] }

/-! ### Launch queues (R306) -/

/-- Where a queue's descriptor stands. -/
def queuePa (s : State) (q : Nat) : Nat := 32 * field s.regs.qtBase 47 5 + 32 * q

/-- A launch queue's descriptor. -/
structure QueueView where
  d0 : DWord
  d1 : DWord
  d2 : DWord
  deriving DecidableEq, Repr

/-- The descriptor of a queue; all 0 at or beyond 256. -/
def queueView (s : State) (q : Nat) : QueueView :=
  if q < 256 then
    let ds := readWords s (queuePa s q) 0 3
    ⟨listGetD ds 0 0, listGetD ds 1 0, listGetD ds 2 0⟩
  else ⟨0, 0, 0⟩

/-- What stands against a queue's descriptor now (R304, R451). -/
def queueHold (s : State) (q : Nat) : Option Hold := if q < 256 then physicalHold s (queuePa s q) 32 false else none

/-- VALID. -/
def QueueView.valid (v : QueueView) : Bool := v.d0.getLsbD 0
/-- SRC: 1 when LAUNCH feeds it. -/
def QueueView.src (v : QueueView) : Bool := v.d0.getLsbD 2
/-- The physical address of the ring. -/
def QueueView.ring (v : QueueView) : Nat := 256 * field v.d0 47 8
/-- WORLD. -/
def QueueView.world (v : QueueView) : Nat := field v.d1 63 48
/-- PRIO. -/
def QueueView.prio (v : QueueView) : Nat := field v.d1 47 45
/-- The number of slots. -/
def QueueView.slots (v : QueueView) : Nat := 2 ^ field v.d1 35 32
/-- HEAD. -/
def QueueView.head (v : QueueView) : Word := highWord v.d2
/-- TAIL. -/
def QueueView.tail (v : QueueView) : Word := lowWord v.d2
/-- Records submitted and not freed. -/
def QueueView.used (v : QueueView) : Nat := (v.tail - v.head).toNat
/-- Where record n stands. -/
def QueueView.slotPa (v : QueueView) (n : Nat) : Nat := v.ring + 256 * (n % v.slots)

/-- What stands against record n of a queue now: its descriptor, or its slot, which `whole` writes whole. -/
def slotHold (s : State) (q n : Nat) (whole : Bool) : Option Hold :=
  match queueHold s q with
  | some h => some h
  | none => physicalHold s ((queueView s q).slotPa n) 256 whole

/-- The distributor writes HEAD. -/
def putHead (s : State) (q : Nat) (x : Word) : State := writeDevice s (queuePa s q + 20) 0 (bytesOfNat 4 x.toNat)

/-- The distributor writes TAIL. -/
def putTail (s : State) (q : Nat) (x : Word) : State := writeDevice s (queuePa s q + 16) 0 (bytesOfNat 4 x.toNat)

/-- The distributor sets ERR (R307). -/
def setQueueErr (s : State) (q : Nat) : State :=
  writeDevice s (queuePa s q) 0 (bytesOfDWord ((queueView s q).d0 ||| 2))

/-- What the distributor keeps of a queue: with nothing kept, the record at HEAD becomes current next. -/
def launchQueue (s : State) (q : Nat) : LaunchQueue := Table.getD s.queues q ⟨(queueView s q).head.toNat, [], [], []⟩

/-- The 32 doublewords of record n of a queue. -/
def queueRecord (s : State) (q n : Nat) : List DWord :=
  let v := queueView s q
  readWords s (v.slotPa n) (worldKey s v.world) 32

/-! ### Completion counters (R311, R312) -/

/-- Where a counter's control word stands. -/
def counterPa (s : State) (i : Nat) : Nat := 8 * field s.regs.cttBase 47 3 + 8 * i

/-- The control word of a counter. -/
def counterControl (s : State) (i : Nat) : DWord := readWord s (counterPa s i) 0

/-- What stands against it now (R304, R451). -/
def counterHold (s : State) (i : Nat) : Option Hold := physicalHold s (counterPa s i) 8 false

/-- VALID. -/
def counterValid (s : State) (i : Nat) : Bool := (counterControl s i).getLsbD 47

/-- The world that may use a counter. -/
def counterWorld (s : State) (i : Nat) : Nat := field (counterControl s i) 63 48

/-- EXPORT. -/
def counterExport (s : State) (i : Nat) : Bool := (counterControl s i).getLsbD 46

/-- A counter's value. -/
def counterValue (s : State) (i : Nat) : Word := Table.getD s.counters i 0

/-- A counter that a world may not use: VALID is tested first (R311). -/
def counterStop (s : State) (world i : Nat) : Option Cause :=
  if !counterValid s i then some .labelDenied else if counterWorld s i ≠ world then some .wrongWorld else none

/-- A counter has reached a value (R312). -/
def reached (c v : Word) : Bool := decide ((c - v).toNat < 2 ^ 31)

/-! ### Launch records (R309) -/

/-- GANGS of a record. -/
def recGangs (ws : List DWord) : Nat := field (listGetD ws 0 0) 63 40 + 1
/-- WIDTH: teams in a gang. -/
def recWidth (ws : List DWord) : Nat := field (listGetD ws 0 0) 39 37 + 1
/-- ROLE. -/
def recRole (ws : List DWord) : Bool := (listGetD ws 0 0).getLsbD 36
/-- LOADER. -/
def recLoader (ws : List DWord) : Bool := (listGetD ws 0 0).getLsbD 35
/-- STEP. -/
def recStep (ws : List DWord) : Bool := (listGetD ws 0 0).getLsbD 34
/-- DIEMASK. -/
def recDies (ws : List DWord) : Nat := field (listGetD ws 0 0) 33 30
/-- The size of the code segment in bytes. -/
def recCodeSize (ws : List DWord) : Nat := 256 * (field (listGetD ws 5 0) 63 48 + 1)
/-- The number of stack frames. -/
def recFrames (ws : List DWord) : Nat := field (listGetD ws 11 0) 63 48 + 1
/-- TQLEN. -/
def recTrapSlots (ws : List DWord) : Nat := field (listGetD ws 13 0) 63 48

/-- A counter field of a launch record (R309): the index that it names, when it is valid. -/
def counterIndex (f : Nat) : Option Nat := if f / 2 ^ 15 % 2 = 1 then some (f % 4096) else none

/-- The valid waits of a record, with their values. -/
def recWaits (ws : List DWord) : List (Nat × Word) :=
  [listGetD ws 2 0, listGetD ws 3 0].filterMap fun d => (counterIndex (field d 63 48)).map fun i => (i, lowWord d)

/-- A launch is eligible (R312): each valid wait counter has reached its value. -/
def eligible (s : State) (l : Launch) : Bool := (recWaits l.words).all fun w => reached (counterValue s w.1) w.2

/-- A launch that is the current record of its queue (R308): gangs of it have not been placed. -/
def Launch.current (l : Launch) : Bool := l.queue.isSome && !l.done && !l.cancelled && decide (l.placed < recGangs l.words)

/-- A launch's waits re-examined (R312, R313, R316): since when it is eligible, for how long it was before, and since when a
loader's first gang waits. -/
def noteLaunch (s : State) (l : Launch) : Launch :=
  if !l.current then l
  else if eligible s l then
    { l with
      eligibleSince := some (l.eligibleSince.getD s.wall)
      loaderWait := if recLoader l.words && l.placed == 0 then some (l.loaderWait.getD s.wall) else l.loaderWait }
  else
    { l with
      eligibleSince := none
      eligibleFor := l.eligibleFor + ((l.eligibleSince.map fun t => s.wall - t).getD 0) }

/-- Every current record's waits re-examined. -/
def noteWaits (s : State) : State := { s with launches := s.launches.map (noteLaunch s) }

/-- Adding to a counter, with the timestamp published (R330, R365). -/
def addCounter (s : State) (i : Nat) (n : Word) (ts : Option Word) : State :=
  let s := noteWaits { s with counters := Table.put s.counters i (counterValue s i + n) }
  match ts with
  | none => s
  | some t =>
    match foldTime (Table.get s.counterTs i) t with
    | none => s
    | some t => { s with counterTs := Table.put s.counterTs i t }

/-- The four counter fields of D1: launch, graph, phase and job. -/
def counterFields (d1 : DWord) : List (Option Nat) :=
  [counterIndex (field d1 63 48), counterIndex (field d1 47 32), counterIndex (field d1 31 16), counterIndex (field d1 15 0)]

/-- What stands against the control words of a record's counters. -/
def fieldsHold (s : State) (d1 : DWord) : Option Hold := (counterFields d1).findSome? fun c => c.bind (counterHold s)

/-! ### Submitting (R329) -/

/-- A LAUNCH still waits for a slot: its slice stands in an active bank, and its gang runs. One that a swap has stopped is executed again
(R329). -/
def stillWaits (s : State) (w : SliceName) : Bool :=
  match findTeam s w.launch w.gang w.gteam with
  | some (.active _, tm) => !tm.killed && gangRuns s w.launch w.gang && (tm.slice w.strand).any fun sl => sl.run == .runnable && sl.stall == some .memory
  | some (.outgoing _, _) | some (.shadow _, _) | some (.saved, _) | none => false

/-- A slot of a queue is free for a slice's record: the queue is not full, and no LAUNCH that began to wait earlier still
waits (R329). -/
def slotFree (s : State) (q : Nat) (w : SliceName) : Bool :=
  let v := queueView s q
  decide (v.used < v.slots) &&
  match s.launchWaits.find? fun x => x.1 == q && (x.2 == w || stillWaits s x.2) with
  | none => true
  | some x => x.2 == w

/-- A slice joins the LAUNCHes that wait on a queue. -/
def joinQueue (s : State) (q : Nat) (w : SliceName) : State :=
  if s.launchWaits.contains (q, w) then s else { s with launchWaits := s.launchWaits ++ [(q, w)] }

/-- Records of a queue submitted at a time of the submitter. -/
def stampRecords (s : State) (q : Nat) (ns : List Nat) (t : Word) : State :=
  let x := launchQueue s q
  { s with queues := Table.put s.queues q { x with stamps := ns.foldl (fun m n => Table.put m n t) x.stamps } }

/-- A record written into the next slot, and TAIL stepped, in one event (R329), at a time of the submitter. -/
def submitRecord (s : State) (q : Nat) (w : SliceName) (bytes : List Byte) (t : Word) : State :=
  let v := queueView s q
  let s := stampRecords s q [v.tail.toNat] t
  let s := writeDevice s (v.slotPa v.tail.toNat) (worldKey s v.world) bytes
  let s := putTail s q (v.tail + 1)
  { s with launchWaits := s.launchWaits.filter fun x => x != (q, w) }

end Sys2Proof.Machine
end

