-- ==== Sys2Proof/Machine/Queues.lean ====
section
/-! DEFINITION. The queues between the slices of a team (spec/11 R187 to R194). -/

namespace Sys2Proof.Machine

/-- The declaration of forward queue n, or of back queue n with `back`. -/
def Team.queueDecl (tm : Team) (back : Bool) (n : Nat) : QueueDecl :=
  listGetD tm.decl.queues (if back then 8 + n else n) ⟨.undeclared, .first, false, 0⟩

/-- A forward queue of a team. -/
def Team.fqueue (tm : Team) (q : Nat) : FQueue := listGetD tm.fqueues q ⟨0, []⟩

/-- A back queue of a team. -/
def Team.bqueue (tm : Team) (b : Nat) : BQueue := listGetD tm.bqueues b ⟨0, [], none⟩

/-- The number of the oldest entry of a forward queue that has not retired. -/
def FQueue.base (f : FQueue) : Nat := f.made - f.entries.length

/-! ### Forward queues (R187 to R190) -/

/-- What a pop finds: no performed element yet, a poisoned element, or a value. -/
inductive PopResult where
  | wait
  | poison (entry elem : Nat) (e : Elem) (p : Poison) (pc : Word)
  | value (v : Word)
  deriving DecidableEq, Repr

/-- The element of an entry that belongs to a strand (R187). -/
def FEntry.elemOf (d : QueueDecl) (strand : Nat) : Nat :=
  match d.kind with
  | .lane => strand
  | .uniform | .undeclared => 0

/-- The `k`-th pop of a strand's instruction from a forward queue (R187, R189, R200). -/
def popForward (tm : Team) (sl : Slice) (strand q k : Nat) : PopResult :=
  let f := tm.fqueue q
  let pos := listGetD sl.popped q 0 + k
  let i := FEntry.elemOf (tm.queueDecl false q) strand
  match f.entries[pos - f.base]? with
  | none => .wait
  | some e =>
    match e.elems[i]? with
    | none => .wait
    | some x =>
      match x.state with
      | .pending | .sent _ | .arrived _ | .failed _ => .wait
      | .performed => .value x.value
      | .poisoned p => .poison pos i x p e.pc

/-- The timestamp that a pop of an entry observes (R365). -/
def popTs (tm : Team) (sl : Slice) (q k : Nat) : Option Word :=
  let f := tm.fqueue q
  (f.entries[listGetD sl.popped q 0 + k - f.base]?).bind FEntry.ts

/-- The least number of pops that a live strand has made from a forward queue; none where no strand is live. -/
def Team.slowest (tm : Team) (q : Nat) : Option Nat :=
  tm.liveStrands.foldl (fun m p =>
    let n := listGetD p.2.popped q 0
    some (match m with
      | none => n
      | some k => min k n)) none

/-- A forward queue after the entries that every live strand has popped have retired (R187, R194). -/
def FQueue.retire (f : FQueue) (slowest : Option Nat) : FQueue :=
  match slowest with
  | none => { f with entries := [] }
  | some n => { f with entries := f.entries.drop (n - f.base) }

/-- A team after its forward entries have retired (R187, R194). -/
def Team.retire (tm : Team) : Team :=
  { tm with fqueues := (List.range tm.fqueues.length).map fun q => (tm.fqueue q).retire (tm.slowest q) }

/-- A push makes one more entry than the queue may hold unretired (R188). -/
def Team.forwardFull (tm : Team) (q : Nat) : Bool :=
  decide ((tm.queueDecl false q).depth ≤ (tm.fqueue q).entries.length)

/-- A forward queue with one more entry. -/
def FQueue.add (f : FQueue) (e : FEntry) : FQueue := { made := f.made + 1, entries := f.entries ++ [e] }

/-- A team with an entry added to a forward queue; it retires at once where no strand is left to pop it. -/
def Team.addForward (tm : Team) (q : Nat) (e : FEntry) : Team :=
  { tm with fqueues := listModify (fun f => (f.add e).retire (tm.slowest q)) tm.fqueues q }

/-- A complete UNIFORM entry (R188). -/
def uniformEntry (v ts pc : Word) : FEntry := ⟨[⟨.performed, v, 0, 0, []⟩], some ts, pc, none⟩

/-- A slice's pops counted (R29, R187). -/
def Slice.countPops (sl : Slice) (qs : List Nat) : Slice :=
  { sl with popped := qs.foldl (fun ps q => listModify (· + 1) ps q) sl.popped, poisonSeen := none }

/-- An element that has neither been performed nor poisoned (R197). -/
def Elem.unperformed (x : Elem) : Bool :=
  match x.state with
  | .pending | .sent _ | .arrived _ | .failed _ => true
  | .performed | .poisoned _ => false

/-- The queue load that stands next in the address slice's load order: its queue, its place among the queue's entries, and
the entry. -/
def nextLoad (tm : Team) : Option (Nat × Nat × FEntry) :=
  ((List.range tm.fqueues.length).flatMap fun q =>
    (((tm.fqueue q).entries.zip (List.range (tm.fqueue q).entries.length)).filter fun p =>
      p.1.order.isSome && p.1.elems.any Elem.unperformed).map fun p => (q, p.2, p.1)).foldl (fun m x =>
        match m with
        | none => some x
        | some y => if x.2.2.order.getD 0 < y.2.2.order.getD 0 then some x else some y) none

/-- The poisoned elements that a team's poison area holds (R216). -/
def Team.poisons (tm : Team) : Nat :=
  (tm.fqueues.map fun f => (f.entries.map fun e =>
    (e.elems.filter fun x =>
      match x.state with
      | .poisoned _ => true
      | .pending | .sent _ | .arrived _ | .failed _ | .performed => false).length).sum).sum

/-! ### Back queues (R191 to R194) -/

/-- Entry `k` beyond those popped is complete: every live strand has contributed to it (R191, R192). -/
def Team.backComplete (tm : Team) (b k : Nat) : Bool :=
  let n := (tm.bqueue b).popped + k
  tm.liveStrands.all fun p => decide (n < listGetD p.2.pushed b 0)

/-- The back-queue pops of an address slice's instruction that find their entry incomplete (R191). -/
def incompletePops (tm : Team) (qs : List Nat) : List Nat :=
  ((qs.zip (List.range qs.length)).filter fun p => !tm.backComplete p.1 ((qs.take p.2).count p.1)).map (·.1)

/-- The contributions of entry `k` beyond those popped. -/
def Team.contributions (tm : Team) (b k : Nat) : List Contribution :=
  (((tm.bqueue b).entries[k]?).map BEntry.contribs).getD []

/-- The contribution of the lowest-indexed strand. -/
def firstContribution : List Contribution → Option Contribution
  | [] => none
  | c :: cs =>
    match firstContribution cs with
    | none => some c
    | some d => some (if d.strand < c.strand then d else c)

/-- The greatest of words read as signed numbers; 0x8000_0000 for none. -/
def maxSigned (ws : List Word) : Word := ws.foldl (fun m w => if m.slt w then w else m) 0x80000000

/-- The combined value of contributions (R192). -/
def combine (d : QueueDecl) (cs : List Contribution) : Word :=
  let ws := cs.map Contribution.value
  match d.rule with
  | .first => ((firstContribution cs).map Contribution.value).getD 0
  | .sum => if d.float then (if ws.isEmpty then 0 else (sumF ws).bits) else ws.foldl (· + ·) 0
  | .max => if d.float then (extremeF true 0xFF800000 ws).bits else maxSigned ws
  | .or => ws.foldl (· ||| ·) 0

/-- The value that a pop of entry `k` of a UNIFORM back queue takes (R191, R192). -/
def Team.backValue (tm : Team) (b k : Nat) : Word := combine (tm.queueDecl true b) (tm.contributions b k)

/-- The timestamp of entry `k` (R365). -/
def Team.backTs (tm : Team) (b k : Nat) : Option Word := ((tm.bqueue b).entries[k]?).bind BEntry.ts

/-- A team after the oldest entry of a back queue has been popped (R191). -/
def Team.popBack (tm : Team) (b : Nat) : Team :=
  { tm with bqueues := listModify (fun q => { q with popped := q.popped + 1, entries := q.entries.drop 1 }) tm.bqueues b }

/-- A strand's push would go to an entry `n` while entry n - d has not been popped (R191). -/
def Team.backFull (tm : Team) (sl : Slice) (b : Nat) : Bool :=
  decide ((tm.bqueue b).popped + (tm.queueDecl true b).depth ≤ listGetD sl.pushed b 0)

/-- An entry list with a contribution at place `i`. -/
def addContribution (c : Contribution) (ts : Word) : List BEntry → Nat → List BEntry
  | [], 0 => [⟨[c], some ts, c.pc⟩]
  | [], n + 1 => ⟨[], none, 0⟩ :: addContribution c ts [] n
  | e :: es, 0 => ⟨e.contribs ++ [c], foldTime e.ts ts, if e.contribs.isEmpty then c.pc else e.pc⟩ :: es
  | e :: es, n + 1 => e :: addContribution c ts es n

/-- A team after strand `i` has pushed a value to a back queue (R191, R193). DESIGN CHOICE (log 108): the push that R195 blames when an entry
has no contribution is the last one that completed an entry of the queue; an entry that a strand's exit completed leaves it. -/
def Team.pushBack (tm : Team) (i b : Nat) (v ts pc : Word) : Team :=
  match tm.strands[i]? with
  | none => tm
  | some sl =>
    let n := listGetD sl.pushed b 0
    let k := n - (tm.bqueue b).popped
    let tm := tm.putSlice (some i) { sl with pushed := listModify (· + 1) sl.pushed b }
    let tm := { tm with bqueues := listModify (fun q =>
      { q with entries := addContribution ⟨i, v, pc⟩ ts q.entries k }) tm.bqueues b }
    if tm.backComplete b k then
      { tm with bqueues := listModify (fun q => { q with lastPc := some pc }) tm.bqueues b }
    else tm

/-- Back-queue entries complete and not popped (R232). Once no strand is live, R192 has every entry complete without limit as the
address slice reaches it; the count is of the entries that strands have pushed to (log 99). -/
def Team.backReady (tm : Team) (b : Nat) : Nat :=
  ((List.range (tm.bqueue b).entries.length).filter fun k => tm.backComplete b k).length

/-! ### Leaving the live set (R99, R194) -/

/-- A back queue after a strand has left the live set: a LANE entry that is not complete yet has no element of it (R193). -/
def Team.withdraw (tm : Team) (i b : Nat) : BQueue :=
  let q := tm.bqueue b
  if (tm.queueDecl true b).kind != .lane then q
  else { q with entries := (q.entries.zip (List.range q.entries.length)).map fun e =>
    if tm.backComplete b e.2 then e.1 else { e.1 with contribs := e.1.contribs.filter fun c => c.strand != i } }

/-- A team after a slice of it has left the live set: forward entries that waited for it alone retire, and it has no element in the
LANE entries that are incomplete (R193, R194). -/
def Team.endSlice (tm : Team) (w : Option Nat) : Team :=
  let tm := match w with
    | none => tm
    | some i => { tm with bqueues := (List.range tm.bqueues.length).map (tm.withdraw i) }
  (tm.modSlice w fun sl =>
    { sl with run := .exited, stall := none, waits := none, await := none, arrived := none, watched := none, skip := false }).retire

/-! ### Team areas and the core cache (R214, R215) -/

/-- A size rounded up to a multiple of 512. -/
def round512 (n : Nat) : Nat := (n + 511) / 512 * 512

/-- The size of an entry of a queue (R214). -/
def entrySize (d : QueueDecl) (strands : Nat) : Nat :=
  match d.kind with
  | .undeclared => 0
  | .uniform => 32
  | .lane => (16 + 4 * strands + (strands + 3) / 4 + 15) / 16 * 16

/-- The size of a team's context region (R214). -/
def contextArea (d : TeamDecl) : Nat := round512 (256 + 32 * (d.strands + 1))

/-- The size of its register region. -/
def regsArea (d : TeamDecl) : Nat := round512 (4 * d.strands * d.wregs + 4 * d.kregs)

/-- The size of its queue region. -/
def queueArea (d : TeamDecl) : Nat := round512 ((d.queues.map fun q => q.depth * entrySize q d.strands).sum)

/-- Where its tiles begin, behind the poison area. -/
def tilesBase (d : TeamDecl) : Nat := contextArea d + regsArea d + queueArea d + 4096

/-- The size of a team's area (R214). -/
def teamArea (d : TeamDecl) : Nat := tilesBase d + 512 * d.tiles.sum

/-- The bytes of a bank that its resident set leaves free (R215). -/
def Bank.free (b : Bank) : Nat := 786432 - (b.teams.map fun p => teamArea p.2.decl).sum

/-- The lines of the core cache: 128 for each 16-KiB way that the free bytes give (R215). -/
def Bank.cacheLines (b : Bank) : Nat := b.free / 16384 * 128

/-- The stack lines of a team: slice, line and bytes (R223). -/
def Team.stackLines (tm : Team) : List (Option Nat × Nat × List Byte) :=
  tm.members.flatMap fun p => p.2.stack.map fun l => (p.1, l.1, l.2)

/-- The stack lines that a bank's cache holds: team slot, slice, line and bytes. -/
def Bank.stackLines (b : Bank) : List (Nat × Option Nat × Nat × List Byte) :=
  b.teams.flatMap fun p => p.2.stackLines.map fun x => (p.1, x)

/-- The line copies that a core's cache has room for beside its stack lines. -/
def Core.copyRoom (k : Core) : Nat := k.active.cacheLines - k.active.stackLines.length

/-! ### Segments of the active bank (R213) -/

/-- Where a team's area begins, the areas standing one behind another in slot order (R214). -/
def Bank.areaBase (b : Bank) (slot : Nat) : Nat := ((b.teams.filter fun p => decide (p.1 < slot)).map fun p => teamArea p.2.decl).sum

/-- The segments of 4 KiB over which bytes of a bank lie. -/
def segmentsOf (off size : Nat) : List Nat := (List.range ((off + size + 4095) / 4096 - off / 4096)).map fun i => off / 4096 + i

/-- Accesses touch segments of a core's active bank, which wakes those of them that were drowsy (R213). -/
def touchSegments (s : State) (c : Nat) (segs : List Nat) : State :=
  modCore s c fun k => { k with
    drowsy := k.drowsy.filter fun x => !segs.contains x
    touched := segs.foldl (fun m x => Table.put m x s.clock) k.touched }

/-- An access touches bytes of a team's area. -/
def touchArea (s : State) (c slot off size : Nat) : State :=
  touchSegments s c (segmentsOf ((core s c).active.areaBase slot + off) size)

/-- An access touches the whole of a team's area. -/
def touch (s : State) (c slot : Nat) : State :=
  match teamAt s ⟨c, slot⟩ with
  | none => s
  | some tm => touchArea s c slot 0 (teamArea tm.decl)

/-- An access touches bytes of a team's tiles. -/
def touchTiles (s : State) (c slot off size : Nat) : State :=
  match teamAt s ⟨c, slot⟩ with
  | none => s
  | some tm => touchArea s c slot (tilesBase tm.decl + off) size

/-- Elements of a team's queues are written. -/
def touchQueues (s : State) (c slot : Nat) : State :=
  match teamAt s ⟨c, slot⟩ with
  | none => s
  | some tm => touchArea s c slot (contextArea tm.decl + regsArea tm.decl) (queueArea tm.decl)

/-- Where the registers of a slice of a team begin in its register region, and their size (R214). -/
def regsPlace (d : TeamDecl) (w : Option Nat) : Nat × Nat :=
  match w with
  | some i => (4 * d.wregs * i, 4 * d.wregs)
  | none => (4 * d.strands * d.wregs, 4 * d.kregs)

/-- A slice issues. DESIGN CHOICE (log 102): an instruction touches its team's context and queues and its slice's registers; the bytes
of tiles and the lines that it reaches besides are touched when they are. -/
def touchIssue (s : State) (id : SliceId) : State :=
  match teamAt s (teamIdOf id) with
  | none => s
  | some tm =>
    let r := regsPlace tm.decl id.strand
    let s := touchArea s id.core id.slot 0 (contextArea tm.decl)
    touchQueues (touchArea s id.core id.slot (contextArea tm.decl + r.1) r.2) id.core id.slot

/-- A line that stands in a core cache way is touched: one of the segments behind the team areas (R214, R215; log 102). -/
def touchWay (s : State) (c line : Nat) : State :=
  let b := (core s c).active
  let first := (786432 - b.free + 4095) / 4096
  touchSegments s c [first + Config.waySegment s.clock.toNat s.nextAccess line % (192 - first)]

/-! ### Time (R97, R195, R196) -/

/-- A strand is PARKED with class QUEUE_EMPTY. -/
def Slice.emptyParked (sl : Slice) : Bool :=
  match sl.run with
  | .parked (.elem _ _ _) => true
  | .parked _ | .runnable | .trapped | .exited => false

/-- The address slice is stalled under R188: its team not frozen, the queue that its instruction makes an entry of still full. -/
def Team.fullStalled (tm : Team) : Bool :=
  !tm.frozen && tm.addr.stall == some .queueFull &&
  match tm.addr.waits with
  | some (.room q _) => tm.forwardFull q
  | _ => true

/-- The decoupling counters of a team after `n` cycles (R195, R196): a wait on a back queue lasts until the entries awaited are
complete, and one for room until an entry has retired (R188); the slices of a frozen team are FROZEN, which is neither. -/
def Team.tick (n : Nat) (tm : Team) : Team :=
  { tm with
    bqCycles := if tm.addr.stall = some .backq ∧ incompletePops tm tm.addr.backq ≠ [] then satAdd64 tm.bqCycles n else tm.bqCycles
    fullCycles := if tm.fullStalled then satAdd64 tm.fullCycles n else tm.fullCycles
    emptyCycles := if tm.frozen then tm.emptyCycles else satAdd64 tm.emptyCycles
      (n * (tm.strands.filter fun sl => sl.emptyParked).length) }

/-- The state with one team's counters advanced. -/
def Bank.tick (n : Nat) (b : Bank) : Bank := { b with teams := b.teams.map fun p => (p.1, p.2.tick n) }

/-- `n` ac cycles pass (log 2): the package's counts rise, with twice the wall-clock time at the halved clock (R448), and so do the
times of cores in which nothing changes theirs (R362). -/
def passCycles (s : State) (n : Nat) : State :=
  let now := s.clock + BitVec.ofNat 64 n
  { s with clock := now
           wall := s.wall + (if s.service.halved then 2 * n else n)
           cores := s.cores.map fun p => (p.1, { p.2 with active := p.2.active.tick n }.tickCt now) }

end Sys2Proof.Machine
end

