-- ==== Sys2Proof/Machine/Access.lean ====
section
/-! DEFINITION. Accesses from their acceptance to their end: logical time (spec/21 R358 to R364), the home slices (spec/18
R293, R304), performing an access at its place, the allowances (spec/23 R400 to R405), and handing its result over. -/

namespace Sys2Proof.Machine

/-! ### Logical time (R358 to R363) -/

/-- A party that keeps logical time (R358, R364). -/
inductive Party where
  | core (c : Nat)
  | sluice (c : Nat)
  | host
  | fabric
  deriving DecidableEq, Repr

/-- The time of a core's slices, noting the cycle in which it changed (R362). -/
def setCt (s : State) (c : Nat) (t : Word) : State :=
  modCore s c fun k => if k.ct = t then k else { k with ct := t, ctSince := s.clock }

/-- A core's ct merged with a published time (R365). -/
def mergeCt (s : State) (c : Nat) (t : Word) : State := setCt s c (laterOf (core s c).ct t)

/-- A core's ct merged with what was published, if anything was (R365). -/
def mergeStamp (s : State) (c : Nat) (t : Option Word) : State :=
  match t with
  | none => s
  | some t => mergeCt s c t

/-- A party's time. -/
def partyTime (s : State) : Party → Word
  | .core c => (core s c).ct
  | .sluice c => (core s c).sl
  | .host => s.hl
  | .fabric => s.fl

/-- The state with a party's time replaced. -/
def setParty (s : State) (p : Party) (t : Word) : State :=
  match p with
  | .core c => setCt s c t
  | .sluice c => modCore s c fun k => { k with sl := t }
  | .host => { s with hl := t }
  | .fabric => { s with fl := t }

/-- The state with a line at its home replaced. -/
def putLine (s : State) (line : Nat) (l : Line) : State := { s with lines := Table.put s.lines line l }

/-- A line leaves its home slice, its timestamps folded into mts (R293). -/
def evictLine (s : State) (line : Nat) : State :=
  match Table.get s.lines line with
  | none => s
  | some l =>
    let h := homeSlice line
    { s with
      mts := Table.put s.mts h (laterOf (laterOf (Table.getD s.mts h 0) l.wts) l.rts)
      lines := Table.del s.lines line }

/-- The lines that a home slice holds. -/
def linesAtHome (s : State) (h : Nat) : List (Nat × Line) := s.lines.filter fun p => homeSlice p.1 == h

/-- Room at its home for a line that is absent: where the slice's 2,048 lines are full, one of them leaves that is not poisoned (R293;
log 16). -/
def makeRoom (s : State) (line : Nat) : State :=
  if (Table.get s.lines line).isSome then s
  else
    let mine := linesAtHome s (homeSlice line)
    if mine.length < 2048 then s
    else
      let may := mine.filter fun p => p.2.poisoned == []
      match may[Config.victim s.clock.toNat s.nextAccess % may.length]? with
      | some p => evictLine s p.1
      | none => s

/-- A renewal at the home slice (R359): the state, and the lease returned. -/
def renewLine (s : State) (p : Party) (line : Nat) : State × Word :=
  let s := makeRoom s line
  let t := partyTime s p
  let l := lineAt s line
  let lease := laterOf t l.wts + 16
  (setParty (putLine s line { l with rts := laterOf l.rts lease }) p (laterOf t l.wts), lease)

/-- A store or atomic at the home slice (R359, R295): its timestamp, the cores recorded on the line woken. `whole` are the
line's sectors that it writes whole, which ends their poison (R304). -/
def stampStore (s : State) (p : Party) (line : Nat) (whole : List Nat) : State :=
  let s := makeRoom s line
  let t := partyTime s p
  let l := lineAt s line
  let ts := laterOf t (l.rts + 1)
  let s := putLine s line ⟨ts, ts, true, l.poisoned.filter fun x => !whole.contains x⟩
  let s := { s with waiters := s.waiters.filter fun w => w.1 != line }
  setParty s p (laterOf t ts)

/-! ### The core cache (R358, R359; log 16) -/

/-- A copy of a line that serves a hit for a reader's key (R359). -/
def findLine (k : Core) (line key : Nat) : Option LineCopy := k.copies.find? fun c => c.line == line && c.key == key

/-- The copies of a cache with one more, which replaces any older copy of its line; the oldest given up where the cache has room for
`room` copies (R215). -/
def addLine (room : Nat) (cs : List LineCopy) (c : LineCopy) : List LineCopy :=
  let all := cs.filter (fun x => x.line != c.line) ++ [c]
  all.drop (all.length - room)

/-- A read of main memory by a core's slice (R359): a hit on a copy whose lease covers ct, or a renewal at the home slice.
`fresh` renews in any case (R285, R178). The bytes, and the state. -/
def readMain (s : State) (c pa key size : Nat) (cache fresh : Bool) : List Byte × State :=
  let line := pa / 128
  let k := core s c
  let hit := if cache && !fresh then
      (findLine k line (keyId s key)).filter fun x => !earlier x.lrt k.ct
    else none
  match hit with
  | some x => ((x.bytes.drop (pa % 128)).take size, setCt (touchWay s c line) c (laterOf k.ct x.wts))
  | none =>
    let bytes := readKeyed s key pa size
    let r := renewLine s (.core c) line
    let wts := (lineAt s line).wts
    let s' := if cache then
        modCore (touchWay r.1 c line) c fun k => { k with
          copies := addLine k.copyRoom k.copies ⟨line, keyId s key, readKeyed s key (128 * line) 128, wts, r.2⟩ }
      else r.1
    (bytes, s')

/-! ### Atomics (R174) -/

/-- The value that an atomic writes. Four-byte operands stand in the low half. -/
def atomicValue (op : AtomicOp) (size : Nat) (old operand compare : DWord) : DWord :=
  match op with
  | .add => old + operand
  | .max => if (lowWord old).slt (lowWord operand) then operand else old
  | .or => old ||| operand
  | .xch => operand
  | .cas =>
    if (if size = 4 then lowWord old == lowWord compare else old == compare) then operand else old

/-! ### Accesses in flight -/

/-- The access numbered n. -/
def accessOf (s : State) (n : Nat) : Option Access := s.inflight.find? fun a => a.n == n

/-- The state with an access changed. -/
def modAccess (s : State) (n : Nat) (f : Access → Access) : State :=
  { s with inflight := s.inflight.map fun a => if a.n == n then f a else a }

/-- The state without an access. -/
def dropAccess (s : State) (n : Nat) : State := { s with inflight := s.inflight.filter fun a => a.n != n }

/-- The memory scopes (R356). -/
inductive Scope where
  | package | localTo (gteam : Nat) | weight | system | fabric
  deriving DecidableEq, Repr

/-- The scope of a place. -/
def Place.scope : Place → Scope
  | .main _ _ _ => .package
  | .scratch g _ => .localTo g
  | .host _ => .system
  | .weight _ _ => .weight
  | .fabric _ _ _ _ | .window _ _ _ => .fabric

/-- An access of local scope, toward any team. -/
def Place.isLocal : Place → Bool
  | .scratch _ _ => true
  | _ => false

/-- The read of an entry of a C table for a walk (R337). -/
def AccessKind.isEntry (k : AccessKind) : Bool :=
  match k with
  | .entry _ => true
  | _ => false

/-- The read of a WAITA. -/
def AccessKind.watches (k : AccessKind) : Bool :=
  match k with
  | .wait _ => true
  | _ => false

/-- An access that writes. -/
def Access.writes (a : Access) : Bool :=
  match a.kind with
  | .store | .atomic _ _ _ | .flag _ => true
  | _ => false

/-- The read of an entry for the walk of a Sluice command. -/
def EntryRead.ofUnit (r : EntryRead) : Bool :=
  match r.by' with
  | .unit _ _ => true
  | .instr | .elems => false

/-- An access of a Sluice channel. -/
def Access.ofChannel (a : Access) : Bool :=
  match a.kind with
  | .copyRead _ _ | .copyWrite _ _ => true
  | .entry r => r.ofUnit
  | _ => false

/-- An access that returns data to its slice. -/
def Access.returns (a : Access) : Bool :=
  match a.kind with
  | .load | .element _ | .atomic _ _ _ | .refetch _ _ _ | .wait _ | .record _ | .entry _ => true
  | .store | .flag _ | .message _ _ | .copyRead _ _ | .copyWrite _ _ | .queued => false

/-- A load as the stations see it: not an atomic. -/
def Access.isLoad (a : Access) : Bool :=
  match a.kind with
  | .load | .element _ | .refetch _ _ _ | .wait _ | .record _ => true
  | .entry _ | .atomic _ _ _ | .store | .flag _ | .message _ _ | .copyRead _ _ | .copyWrite _ _ | .queued => false

/-- An access stands before another in the order of their slice (R361, R274, R369, R197): it is of the same scope, or both are loads of
an address slice. -/
def Access.before (b a : Access) : Bool :=
  decide (b.n < a.n) && b.who == a.who && !b.ofChannel &&
  (b.place.scope == a.place.scope || (a.who.strand.isNone && a.isLoad && b.isLoad))

/-- An access is next in its slice's order: none that stands before it is unperformed. -/
def mayPerform (s : State) (a : Access) : Bool :=
  !a.performed && !a.ofChannel && s.inflight.all fun b => !(b.before a && !b.performed)

/-- Stores and atomics of a slice in package and local scope that have not been performed (R365, R282). -/
def storesPending (s : State) (w : SliceName) : Bool :=
  s.inflight.any fun a => a.who == w && !a.performed && a.writes && !a.ofChannel &&
    (a.place.scope == .package || a.place.isLocal)

/-- A register of a slice that an access in flight has yet to write (R209). -/
def regPending (s : State) (w : SliceName) (n : Nat) : Bool :=
  s.inflight.any fun a => a.who == w &&
    match a.sink with
    | .reg k => n == k
    | .pair k => n == k || n == k + 1
    | .high k => n == k
    | .none | .push _ | .label _ => false

/-- A label register that an LDL has yet to write (R235). -/
def labelPending (s : State) (w : SliceName) (l : Nat) : Bool :=
  s.inflight.any fun a => a.who == w && a.sink == .label l

/-! ### The host write combiner (R369) -/

/-- A combined write delivered to host memory. -/
def deliverCombined (s : State) (c : Combined) : State := { s with hostMem := Memory.writeBytes s.hostMem c.pa c.bytes }

/-- The combined writes that a test picks are delivered, oldest first. -/
def drainCombiner (s : State) (p : Combined → Bool) : State :=
  (s.combiner.filter p).foldl deliverCombined { s with combiner := s.combiner.filter fun c => !p c }

/-- Bytes of a combined write lie among some. -/
def Combined.touches (c : Combined) (pa size : Nat) : Bool := decide (c.pa < pa + size ∧ pa < c.pa + c.bytes.length)

/-- The combined writes of a slice that a test picks, with every older one of the slice to bytes of one of these, oldest first: what has
to be delivered with them, for a slice's writes to the same bytes are performed in its order (R180). -/
def withOlder (w : SliceName) (hit : Combined → Bool) : List Combined → List Combined
  | [] => []
  | c :: cs =>
    let later := withOlder w hit cs
    if c.who == w && (hit c || later.any fun y => c.touches y.pa y.bytes.length) then c :: later else later

/-- The combined writes of a slice that a test picks are delivered, behind the older ones that have to come first (R180, R369). -/
def deliverPicked (s : State) (w : SliceName) (hit : Combined → Bool) : State :=
  let now := withOlder w hit s.combiner
  now.foldl deliverCombined { s with combiner := s.combiner.filter fun x => !now.contains x }

/-- The n-th held write delivered. -/
def deliverNth (s : State) (n : Nat) : State :=
  match s.combiner[n]? with
  | none => s
  | some c => deliverPicked s c.who (· == c)

/-- A slice's combined writes to some bytes delivered, which a read, an atomic or another write of it to these bytes comes behind (R369). -/
def drainTouching (s : State) (w : SliceName) (pa size : Nat) : State := deliverPicked s w fun c => c.touches pa size

/-! ### Performing (R176, R293, R294, R273) -/

/-- Bytes of a gang team's tile region. -/
def readScratch (s : State) (w : SliceName) (g off size : Nat) : List Byte :=
  match findTeam s w.launch w.gang g with
  | none => List.replicate size 0
  | some (_, tm) => Memory.readBytes tm.scratch off size

/-- Bytes written into a gang team's tile region. -/
def writeScratch (s : State) (w : SliceName) (g off : Nat) (bs : List Byte) : State :=
  modNamed s w.launch w.gang g fun tm => { tm with scratch := Memory.writeBytes tm.scratch off bs }

/-- An access marked performed with what it read. -/
def performed (s : State) (n : Nat) (bs : List Byte) : State :=
  modAccess s n fun a => { a with performed := true, result := bs }

/-- A launch has an access that completed at a time (R365). -/
def noteTime (s : State) (launch : Nat) (t : Word) : State :=
  modLaunch s launch fun l => { l with ts := foldTime l.ts t }

/-- An access of a slice has been performed at its core's ct (R365). -/
def noteAccess (s : State) (a : Access) : State := if a.place.scope = .package then noteTime s a.who.launch (core s a.core).ct else s

/-- Reading at an access's place: the bytes, and the state; none where the place does not answer now. -/
def readPlace (s : State) (a : Access) (fresh : Bool) : Option (List Byte × State) :=
  match a.place with
  | .main pa key cache =>
    match lineStatus s (pa / 128) false with
    | .serves => some (readMain s a.core pa key a.size cache fresh)
    | .waits | .freezes _ => none
  | .scratch g off => some (readScratch s a.who g off a.size, s)
  | .host pa =>
    let s := drainTouching s a.who pa a.size
    some (Memory.readBytes s.hostMem pa a.size, s)
  | .weight d wa =>
    match weightHold s d wa a.size with
    | some _ => none
    | none => some (Memory.readBytes (die s d).weights wa a.size, s)
  | .fabric _ _ _ _ | .window _ _ _ => none

/-- What an access that its place does not serve does to its master: it freezes, or it waits (R304). -/
def refuseAtPlace (s : State) (a : Access) : State :=
  let h := match a.place with
    | .main pa _ _ => lineHold s (pa / 128) false
    | .weight d wa => weightHold s d wa a.size
    | .scratch _ _ | .host _ | .fabric _ _ _ _ | .window _ _ _ => none
  match h with
  | some (.freezes kind unit addr) => freezeMaster s a.who kind unit addr
  | some .waits | some (.fetch _) | none => s

/-- The bytes of a gang team's tiles that an access reaches are touched (R213). -/
def touchScratch (s : State) (w : SliceName) (g off size : Nat) : State :=
  match findTeam s w.launch w.gang g with
  | some (.active t, _) => touchTiles s t.core t.slot off size
  | some (.outgoing _, _) | some (.shadow _, _) | some (.saved, _) | none => s

/-- The place of a performed access is touched, where it stands in a bank. -/
def touchPlace (s : State) (a : Access) : State :=
  match a.place with
  | .scratch g off => touchScratch s a.who g off a.size
  | .main _ _ _ | .host _ | .weight _ _ | .fabric _ _ _ _ | .window _ _ _ => s

/-- PERFORMING A LOAD at its place, when it is next in its slice's order (R359, R361, R274). -/
def performLoad (s : State) (a : Access) : State :=
  if !mayPerform s a then s
  else match readPlace s a a.kind.watches with
    | some (bs, s) => touchPlace (noteAccess (performed s a.n bs) a) a
    | none => refuseAtPlace s a

/-- Bytes written at an access's place. -/
def writePlace (s : State) (a : Access) (bs : List Byte) : State :=
  match a.place with
  | .main pa key _ => stampStore (writeKeyed s key pa bs) (.core a.core) (pa / 128) []
  | .scratch g off => writeScratch s a.who g off bs
  | .host pa => { s with hostMem := Memory.writeBytes s.hostMem pa bs }
  | .weight _ _ | .fabric _ _ _ _ | .window _ _ _ => s

/-- A store of a slice at its place; one to the host window goes to the write combiner (R369). -/
def storePlace (s : State) (a : Access) : State :=
  match a.place with
  | .host pa => { s with combiner := s.combiner ++ [⟨a.who, a.world, a.n, pa, a.bytes, a.used⟩] }
  | .main _ _ _ | .scratch _ _ | .weight _ _ | .fabric _ _ _ _ | .window _ _ _ => writePlace s a a.bytes

/-- The access's place takes a store or atomic now. -/
def placeServes (s : State) (a : Access) : Bool :=
  match a.place with
  | .main pa _ _ => lineStatus s (pa / 128) false == .serves
  | .scratch _ _ | .host _ => true
  | .weight _ _ | .fabric _ _ _ _ | .window _ _ _ => false

/-- PERFORMING A STORE at its place (R293, R274): nothing returns, and the access ends. -/
def performStore (s : State) (a : Access) : State :=
  if !mayPerform s a then s
  else if placeServes s a then touchPlace (noteAccess (dropAccess (storePlace s a) a.n) a) a
  else refuseAtPlace s a

/-- PERFORMING AN ATOMIC at its place as one event (R174, R294): the old value returns. -/
def performAtomic (s : State) (a : Access) (op : AtomicOp) (operand compare : DWord) : State :=
  if !mayPerform s a then s
  else if !placeServes s a then refuseAtPlace s a
  else
    let s := match a.place with
      | .host pa => drainTouching s a.who pa a.size
      | _ => s
    let old := match a.place with
      | .main pa key _ => readKeyed s key pa a.size
      | .scratch g off => readScratch s a.who g off a.size
      | .host pa => Memory.readBytes s.hostMem pa a.size
      | .weight _ _ | .fabric _ _ _ _ | .window _ _ _ => []
    let new := atomicValue op a.size (dwordOfBytes old) operand compare
    let s : State := match a.place with
      | .main pa _ _ => { s with atomicWorlds := Table.put s.atomicWorlds (homeSlice (pa / 128)) a.world }
      | _ => s
    touchPlace (noteAccess (performed (writePlace s a ((bytesOfDWord new).take a.size)) a.n old) a) a

/-! ### Named slices: completing and trapping wherever their team stands (R181, R219) -/

/-- The core whose ct a named slice's team runs under. -/
def nameCore (s : State) (w : SliceName) : Nat := (nameId s w).core

/-- TAKING A TRAP by a named slice (R100): as `trapSlice`, wherever the team stands. -/
def trapNamed (s : State) (w : SliceName) (t : TrapInfo) : State :=
  match namedSlice s w with
  | none => s
  | some (tm, sl) =>
    let r := trapRecord s (nameId s w) tm sl t
    let s := modNamedSlice s w fun sl => sl.stopped r
    { s with waiting := s.waiting ++ [⟨recordQueue s w.launch t.cause.cls, r.words, .slice w, false⟩] }

/-- The pops of a named slice's instruction committed (R29, R365): a strand's forward pops, an address slice's back pops. -/
def commitPops (s : State) (w : SliceName) (qs : List Nat) : State :=
  if qs = [] then s
  else match namedSlice s w with
    | none => s
    | some (tm, sl) =>
      match w.strand with
      | some _ =>
        let ts := (qs.zip (List.range qs.length)).map fun p => popTs tm sl p.1 ((qs.take p.2).count p.1)
        let s := modNamed s w.launch w.gang w.gteam fun tm => (tm.modSlice w.strand fun sl => sl.countPops qs).retire
        ts.foldl (fun s t => mergeStamp s (nameCore s w) t) s
      | none =>
        qs.foldl (fun s b =>
          let t := (findTeam s w.launch w.gang w.gteam).bind fun p => p.2.backTs b 0
          let s := modNamed s w.launch w.gang w.gteam fun tm => tm.popBack b
          mergeStamp s (nameCore s w) t) s

/-- COMPLETING a named slice's instruction that waited for its data (R105, R176). -/
def completeNamed (s : State) (w : SliceName) (next : Word) : State :=
  match namedSlice s w with
  | none => s
  | some (_, sl) =>
    let s := modNamedSlice s w fun sl =>
      { sl with pc := next, stall := none, waits := none, await := none, skip := false, arrived := none, watched := none }
    if sl.stepBit then trapNamed s w { cause := .step, next := next } else s

/-! ### Allowances (R400 to R406) -/

/-- The entry that a charge to a package from a world uses (R400). -/
def allowIndex (k : Core) (world pkg : Nat) : Nat :=
  match k.allow.find? fun p => p.1 != 31 && p.2.bound && p.2.pkg == pkg && p.2.world == world with
  | some p => p.1
  | none => 31

/-- An entry of a core's allowance table. -/
def allowAt (k : Core) (e : Nat) : Allowance := Table.getD k.allow e ⟨false, 0, 0, 0, 0, 0, []⟩

/-- The state with an allowance entry changed. -/
def modAllow (s : State) (c e : Nat) (f : Allowance → Allowance) : State :=
  modCore s c fun k => { k with allow := Table.put k.allow e (f (allowAt k e)) }

/-- One unit charged (R404). -/
def Allowance.charge (a : Allowance) : Allowance := { a with alw := a.alw - 1, sent := a.sent + 1 }

/-- An entry with nothing sent and nobody waiting takes ICRED as its capacity (R402). -/
def Allowance.settle (icred : Nat) (a : Allowance) : Allowance :=
  if a.sent = 0 ∧ a.waiters = [] then { a with cap := icred, alw := icred } else a

/-- One unit granted back (R406). No grant comes for a unit that has not been sent. -/
def Allowance.grant (icred : Nat) (a : Allowance) : Allowance :=
  if a.sent = 0 then a else Allowance.settle icred { a with alw := a.alw + 1, sent := a.sent - 1 }

/-! ### Accepting an access (R176, R380, R388) -/

/-- The bucket of a fabric access (R381). -/
def bucketOf (off : DWord) (lab : Nat) : Nat := (field off 16 7) ^^^ (lab % 1024)

/-- Where an accepted access is performed. -/
def placeOf (p : Path) (off : DWord) : Place :=
  match p.dest with
  | .main pa key cache _ => .main pa key cache
  | .scratch g o => .scratch g o
  | .regs o => .scratch 8 o
  | .stack o => .scratch 8 o
  | .weight d wa => .weight d wa
  | .host pa => .host pa
  | .fabric t lab => .fabric t (BitVec.ofNat 16 lab) p.have6 (bucketOf off lab)
  | .window port n lab _ => .window port n (BitVec.ofNat 16 lab)

/-- What a memory instruction asks beside its address. -/
structure MemOp where
  kind : AccessKind
  size : Nat
  need : BitVec 6
  req : Req := .plain
  align : Nat
  data : DWord := 0
  bytes : List Byte := []
  sink : Sink := .none
  deriving DecidableEq, Repr

/-- The fabric target of a path: a package, or 8,192 + 4,096 x port + window. -/
def targetOf (d : Dest) : Option Nat :=
  match d with
  | .fabric t _ => some t
  | .window port n _ _ => some (8192 + 4096 * port + n)
  | .main _ _ _ _ | .scratch _ _ | .regs _ | .stack _ | .weight _ _ | .host _ => none

/-- The packet kind of an access. -/
def packetKind (k : AccessKind) : PacketKind :=
  match k with
  | .load | .element _ | .refetch _ _ _ | .wait _ | .record _ | .entry _ => .load
  | .queued => .element
  | .store => .store
  | .atomic op x c => .atomic op x c
  | .flag n => .flag n
  | .message h m => .message h m
  | .copyRead _ _ => .copyRead
  | .copyWrite _ _ => .copyWrite

/-- The channel, where it still holds its command, for whose walk an entry is read. -/
def readChannel (s : State) (c : Nat) (w : SliceName) (r : EntryRead) : Option (Nat × Channel) :=
  match r.by' with
  | .unit order _ => (core s c).active.sluice.find? fun p => p.2.order == order && (teamAt s ⟨c, p.2.slot⟩).any fun tm => tm.name none == w
  | .instr | .elems => none

/-- The requester identity that a packet of an access carries (R380, R349): the slice, or the Sluice channel. -/
def requesterOf (s : State) (a : Access) : DWord :=
  match a.kind with
  | .copyRead ch _ | .copyWrite ch _ =>
    BitVec.ofNat 64 (identityBits s.regs.number { nameId s a.who with strand := some (ch % 32) })
  | .entry r =>
    match readChannel s a.core a.who r with
    | some (ch, _) => BitVec.ofNat 64 (identityBits s.regs.number { nameId s a.who with strand := some (ch % 32) })
    | none => nameIdentity s a.who
  | _ => nameIdentity s a.who

/-- A packet of this package toward a target, with nothing of an access. -/
def plainPacket (s : State) (target access : Nat) (kind : PacketKind) : Packet :=
  { source := s.regs.number, target := target, sourceInc := s.regs.incarnation, targetInc := Table.getD s.regs.incTab target 0
    requester := 0, chan := false, slice := ⟨0, 0, 0, none⟩, access := access, world := 0, label := 0, off := 0, have6 := 0
    pos := 0, pc := 0, kind := kind, size := 0, part := 0, ordinal := 0, again := false, bucket := 0, seq := 0, payCore := 0
    payEntry := 32, payload := [] }

/-- Packet `part` of an access that leaves the package, 256 bytes of payload at most (R380, R396). -/
def packetOf (s : State) (a : Access) (part : Nat) (seq : BitVec 16) : Option Packet :=
  let mk (target : Nat) (lab : BitVec 16) (have6 : BitVec 6) (off : DWord) (bucket : Nat) : Packet :=
    { plainPacket s target a.n (packetKind a.kind) with
      requester := requesterOf s a, chan := a.ofChannel, slice := a.who, world := a.world, label := lab, off := off
      have6 := have6, pos := a.pos, pc := a.pc, size := a.size, part := part, ordinal := a.ordinal, bucket := bucket
      seq := seq, payCore := a.payCore, payEntry := a.allowance, payload := (a.bytes.drop (256 * part)).take 256 }
  match a.place with
  | .fabric t lab h _ => some (mk t lab h a.off (bucketOf (a.off + BitVec.ofNat 64 (256 * part)) lab.toNat))
  | .window port n lab => some (mk (8192 + 4096 * port + n) lab 0 (a.data + BitVec.ofNat 64 (256 * part)) 0)
  | .main _ _ _ | .scratch _ _ | .host _ | .weight _ _ => none

/-- The key of a sequence (R381). -/
def seqKey (target bucket : Nat) : Nat := 1024 * target + bucket

/-- A slice's counts toward fabric targets after one more store, atomic, flag or message (R399, R411). -/
def countFabric (cs : List FabricCount) (target : Nat) (k : AccessKind) : List FabricCount :=
  let old := ((cs.find? fun c => c.target == target)).getD ⟨target, 0, 0, 0, false, false⟩
  let rest := cs.filter fun c => c.target != target
  match k with
  | .store | .atomic _ _ _ => rest ++ [{ old with sinceFlag := old.sinceFlag + 1, total := old.total + 1, issued := old.issued + 1 }]
  | .flag _ => rest ++ [{ old with sinceFlag := 0, issued := old.issued + 1, flagged := true, lost := false }]
  | _ => cs

/-- A packet numbered in its sequence and put on its way (R381): the state, and its number. -/
def putPacket (s : State) (p : Packet) : State × BitVec 16 :=
  let key := seqKey p.target p.bucket
  let n := Table.getD s.sent key 0
  ({ s with sent := Table.put s.sent key (n + 1), outbox := s.outbox ++ [{ p with seq := n }] }, n)

/-- A sequence may not take its next number: the packet 32,768 numbers earlier, a resume marker among them, has not been acknowledged
(R381). -/
def seqBlocked (s : State) (target bucket : Nat) : Bool :=
  let key := seqKey target bucket
  let n := Table.getD s.sent key 0
  (s.inflight.any fun a => a.sends.any fun x => x.key == key && x.seq == n + 0x8000 && !x.acked) ||
  s.markers.any fun m => m.key == key && m.seq == n + 0x8000

/-- The packet `part` of an access may not be sent yet (R381). -/
def partBlocked (s : State) (a : Access) (part : Nat) : Bool :=
  match packetOf s a part 0 with
  | none => false
  | some p => seqBlocked s p.target p.bucket

/-- An access with a packet of it sent. -/
def Access.note (a : Access) (x : PartSend) : Access :=
  { a with sent := true, parts := max a.parts (x.part + 1), sends := a.sends.filter (fun y => y.part != x.part) ++ [x] }

/-- A packet of an accepted fabric access leaves (R380, R381). -/
def sendPart (s : State) (n part : Nat) : State :=
  match accessOf s n with
  | none => s
  | some a =>
    match packetOf s a part 0 with
    | none => s
    | some p =>
      let r := putPacket s p
      modAccess r.1 n fun a => a.note ⟨part, seqKey p.target p.bucket, r.2, s.wall, s.wall, 0, false⟩

/-- An accepted fabric access counts in FABOUT and at its core (R388). -/
def countOut (s : State) (c : Nat) : State :=
  modCore { s with regs := { s.regs with fabOut := s.regs.fabOut + 1 } } c fun k => { k with outstanding := k.outstanding + 1 }

/-- The slice's team stands in the save pool, its unacknowledged accesses counted with its gang (R388). -/
def teamSaved (s : State) (w : SliceName) : Bool :=
  match findTeam s w.launch w.gang w.gteam with
  | some (.saved, _) => true
  | some (.active _, _) | some (.outgoing _, _) | some (.shadow _, _) | none => false

/-- An access leaves those counts. -/
def countIn (s : State) (a : Access) : State :=
  let s := { s with regs := { s.regs with fabOut := s.regs.fabOut - 1 } }
  if teamSaved s a.who then s else modCore s a.core fun k => { k with outstanding := k.outstanding - 1 }

/-- What a slice has counted toward a target. -/
def fabricCount (sl : Option Slice) (target : Nat) : FabricCount :=
  ((sl.bind fun sl => sl.fabric.find? fun c => c.target == target)).getD ⟨target, 0, 0, 0, false, false⟩

/-- The accesses that a flag or a message counts toward a target (R399, R411). -/
def marksFor (sl : Option Slice) (target : Nat) (k : AccessKind) : Nat :=
  let c := fabricCount sl target
  match k with
  | .flag _ => if c.flagged then c.sinceFlag + 1 else c.total
  | .message _ _ => c.total
  | _ => 0

/-- A flag toward a scale-out window that counts an access which has been discarded is discarded itself (R399). -/
def flagLost (sl : Option Slice) (t : Option Nat) (k : AccessKind) : Bool :=
  match k, t with
  | .flag _, some t => decide (8192 ≤ t) && (fabricCount sl t).lost
  | _, _ => false

/-- An access with its count of marks. -/
def AccessKind.marked (k : AccessKind) (n : Nat) : AccessKind :=
  match k with
  | .flag _ => .flag n
  | .message h _ => .message h n
  | k => k

/-- A slice's fabric access toward a target has not ended. -/
def towardTarget (a : Access) (w : SliceName) (t : Nat) : Bool :=
  a.who == w &&
  match a.place with
  | .fabric p _ _ _ => t == p
  | .window port n _ => t == 8192 + 4096 * port + n
  | .main _ _ _ | .scratch _ _ | .host _ | .weight _ _ => false

/-- Bytes of the remote side that two accesses of a window touch share a 128-byte line. -/
def sameLine (a b : DWord) (n m : Nat) : Bool :=
  decide (a.toNat / 128 ≤ (b.toNat + m - 1) / 128 ∧ b.toNat / 128 ≤ (a.toNat + n - 1) / 128)

/-- A slice's access waits before it is sent to a scale-out window: a flag for the accesses that it counts (R399), any access for
an earlier one to its line (R396). -/
def sendWaits (s : State) (w : SliceName) (t : Nat) (a : Access) : Bool :=
  decide (8192 ≤ t) && !a.ofChannel && s.inflight.any fun b => decide (b.n < a.n) && !b.ofChannel && towardTarget b w t &&
    ((match a.kind with
      | .flag _ => b.writes
      | _ => false) || sameLine a.data b.data a.size b.size)

/-- ACCEPTING an access (R176): it is in flight from now on; its number. A fabric access counts in FABOUT (R388) and sends its packet. -/
def accept (s : State) (w : SliceName) (world coreNo : Nat) (pc next : Word) (op : MemOp) (p : Path) (lw off : DWord)
    (pops : List Nat) (allowance : Nat) : State × Nat :=
  let s := keepCopies s coreNo p.copies
  let n := s.nextAccess
  let raddr := match p.dest with
    | .window _ _ _ r => BitVec.ofNat 64 r
    | .scratch _ _ | .regs _ | .stack _ | .weight _ _ | .main _ _ _ _ | .host _ | .fabric _ _ => op.data
  let t := targetOf p.dest
  let sl := (namedSlice s w).map (·.2)
  let kind := match t with
    | none => op.kind
    | some t => op.kind.marked (marksFor sl t op.kind)
  let a : Access := {
    n := n, who := w, world := world, core := coreNo, kind := kind, place := placeOf p off, size := op.size, lw := lw,
    off := off, pc := pc, next := next, data := raddr, bytes := op.bytes, sink := op.sink, pops := pops, used := p.used,
    pos := p.pos, trace := p.trace, allowance := allowance, performed := false, result := [], sent := false, parts := 0, sends := [],
    asked := false, lost := flagLost sl t op.kind, ordinal := (t.map fun t => (fabricCount sl t).issued).getD 0, granted := 0, payCore := coreNo }
  let s' := { s with inflight := s.inflight ++ [a], nextAccess := n + 1 }
  match t with
  | none => (s', n)
  | some t =>
    let s' := countOut (modNamedSlice s' w fun sl => { sl with fabric := countFabric sl.fabric t op.kind }) coreNo
    (if sendWaits s w t a then s' else if a.lost then countIn (dropAccess s' n) a else sendPart s' n 0, n)

/-! ### Waiters on allowance entries (R404, R405) -/

/-- An access that moves a unit of a channel's command, its first packet sent and its second not. -/
def halfSent (s : State) (c chan : Nat) : Option Access :=
  match Table.get (core s c).active.sluice chan with
  | none => none
  | some ch =>
    match teamAt s ⟨c, ch.slot⟩ with
    | none => none
    | some tm => s.inflight.find? fun a => a.who == tm.name none && a.parts == 1 &&
        (match a.kind with
         | .copyRead n _ | .copyWrite n _ => n == chan
         | _ => false)

/-- A waiting slice woken at the head of its entry: its instruction examines its charge again (R405). -/
def Slice.wakeHead (sl : Slice) : Slice :=
  { sl with
    run := if sl.run = .parked .allowance then .runnable else sl.run
    stall := if sl.stall = some .allowance then none else sl.stall }

/-- A held store sent again, with its next sequence number, paid by an entry of a core (R387, R381, R403). -/
def sendAgain (s : State) (n c e : Nat) : State :=
  match accessOf s n with
  | none => s
  | some a =>
    match packetOf s a 0 0 with
    | none => s
    | some p =>
      let r := putPacket s { p with again := true, payCore := c, payEntry := e }
      let again (h : HeldStore) : HeldStore := if h.access = n then { h with again := true } else h
      let s' := { r.1 with late := r.1.late.map fun x => { x with store := again x.store } }
      modNamedSlice (modAccess s' n fun a =>
        { a.note ⟨0, seqKey p.target p.bucket, r.2, s.wall, s.wall, 0, false⟩ with granted := 0, payCore := c, allowance := e }) a.who fun sl =>
        { sl with held := sl.held.map again }

/-- A resume marker sent, paid by an entry of a core (R387, R403), under an access number of its own: the slice's stores of its pair that
have been sent again are held no more. -/
def sendMarker (s : State) (w : SliceName) (p : Packet) (c e : Nat) : State :=
  let n := s.nextAccess
  let r := putPacket { s with nextAccess := n + 1 } { p with access := n, payCore := c, payEntry := e }
  let gone (h : HeldStore) : Bool := h.target == p.target && h.bucket == p.bucket && h.again
  let s := { r.1 with
    markers := r.1.markers ++ [⟨n, p.target, seqKey p.target p.bucket, r.2⟩]
    late := r.1.late.filter fun x => !(x.who == w && gone x.store) }
  modNamedSlice s w fun sl => { sl with held := sl.held.filter fun h => !gone h }

/-! ### Queue-load elements that leave by Reach (R197, R403, R404) -/

/-- What the load of an element asks of the stations. -/
def elemAsk (tm : Team) (t : TeamId) (e : Elem) : Ask :=
  { core := t.core, launch := tm.launch, gang := tm.gang, world := tm.world, off := e.off.toNat, size := 4, need := permR, req := .plain
    who := tm.name none, by' := .elems }

/-- An entry of its C table is on its way to a requester (R337). -/
def entrySent (s : State) (w : SliceName) (b : EntryFor) (lab : Nat) : Bool :=
  s.inflight.any fun a => a.who == w &&
    match a.kind with
    | .entry r => r.label == lab && r.by' == b
    | _ => false

/-- What a requester has read over the fabric of an entry of its C table is kept for the walk that asked for it (R337). -/
def keepRead (s : State) (r : TableRead) : State :=
  { s with tableReads := s.tableReads.filter (fun x => !(x.who == r.who && x.by' == r.by' && x.label == r.label)) ++ [r] }

/-- What a requester has read of its C table over the fabric for a walk that is over is given up. -/
def dropReads (s : State) (w : SliceName) (b : EntryFor) : State :=
  { s with tableReads := s.tableReads.filter fun r => !(r.who == w && r.by' == b) }

/-- An access toward another package that an element needs (R197, R337): its operation, path, label word, offset and target. -/
structure Away where
  op : MemOp
  path : Path
  lw : DWord
  off : DWord
  target : Nat
  deriving DecidableEq, Repr

/-- The load of an entry of a launch's C table over the fabric (R337). -/
def fetchAway (s : State) (launch : Nat) (f : EntryFetch) : Option Away :=
  (targetOf f.path.dest).map fun t =>
    ⟨{ kind := .entry f.read, size := 16, need := permR, align := 16 }, f.path, launchWord s launch 6, f.off, t⟩

/-- The access of an element, if it leaves the package: its own, or that of an entry which its walk needs first. -/
def elemAway (s : State) (t : TeamId) (tm : Team) (e : Elem) : Option Away :=
  if e.state != .pending then none
  else match walkC s (elemAsk tm t e) e.lw e.off (4 * tm.addr.regs.length) with
    | .error f =>
      match f.hold with
      | some (.fetch x) => if entrySent s (tm.name none) .elems x.read.label then none else fetchAway s tm.launch x
      | some .waits | some (.freezes _ _ _) | none => none
    | .ok p => (targetOf p.dest).map fun x => ⟨{ kind := .queued, size := 4, need := permR, align := 4 }, p, e.lw, e.off, x⟩

/-- The first element that is to be sent of the team's next queue load: queue, entry, element, and its access. -/
def nextAway (s : State) (t : TeamId) (tm : Team) : Option (Nat × Nat × Nat × Away) :=
  match nextLoad tm with
  | none => none
  | some (q, i, entry) =>
    (entry.elems.zip (List.range entry.elems.length)).findSome? fun x =>
      (elemAway s t tm x.1).map fun r => (q, i, x.2, r)

/-- A team with an element of a forward queue in another state. -/
def Team.setElem (tm : Team) (q i k : Nat) (f : Elem → Elem) : Team :=
  { tm with fqueues := listModify (fun fq =>
      { fq with entries := listModify (fun en => { en with elems := listModify f en.elems k }) fq.entries i }) tm.fqueues q }

/-- A team with the element changed that an access in flight fills. -/
def Team.answerElem (tm : Team) (n : Nat) (f : Elem → Elem) : Team :=
  { tm with fqueues := tm.fqueues.map fun fq => { fq with entries := fq.entries.map fun en => { en with
      elems := en.elems.map fun x => if x.state = .sent n then f x else x } } }

/-- An element's access accepted and sent, paid by an entry (32 where none pays). -/
def sendElem (s : State) (t : TeamId) (tm : Team) (x : Nat × Nat × Nat × Away) (entry : Nat) : State :=
  let w := x.2.2.2
  let pc := (((tm.fqueue x.1).entries[x.2.1]?).map FEntry.pc).getD 0
  let r := accept s (tm.name none) tm.world t.core pc pc w.op w.path w.lw w.off [] entry
  modTeam r.1 t fun tm => tm.setElem x.1 x.2.1 x.2.2.1 fun y => { y with state := .sent r.2 }

/-- The sequence that an access would take its number of is blocked (R381). -/
def Away.blocked (s : State) (w : Away) : Bool :=
  seqBlocked s w.target (bucketOf w.off (match w.path.dest with
    | .fabric _ lab => lab
    | _ => 0))

/-- The elements of a team's next queue load that leave the package are charged and sent in their order; one that cannot be charged
waits on its entry (R404). Toward a scale-out window nothing is charged (R400). -/
def sendElems : Nat → State → TeamId → State
  | 0, s, _ => s
  | fuel + 1, s, t =>
    match teamAt s t with
    | none => s
    | some tm =>
      match nextAway s t tm with
      | none => s
      | some x =>
        let target := x.2.2.2.target
        if x.2.2.2.blocked s then s
        else if 8192 ≤ target then sendElems fuel (sendElem s t tm x 32) t
        else
          let e := allowIndex (core s t.core) tm.world target
          let a := allowAt (core s t.core) e
          if 1 ≤ a.alw ∧ a.waiters = [] then sendElems fuel (sendElem (modAllow s t.core e Allowance.charge) t tm x e) t
          else if a.waiters.any fun w => (match w with
              | .elems t' _ => t' == t
              | .slice _ _ _ | .channel _ _ | .resend _ | .marker _ _ => false) then s
          else modAllow s t.core e fun a => { a with waiters := a.waiters ++ [.elems t target] }

/-- The team at the head of an entry: its next element walks afresh, and is charged and sent where it goes to that entry's package
(R405); its others follow. -/
def serveElems (s : State) (c e : Nat) (t : TeamId) (rest : List Waiter) : State :=
  let left := modAllow s c e fun a => Allowance.settle s.regs.icred { a with waiters := rest }
  match teamAt s t with
  | none => left
  | some tm =>
    match nextAway s t tm with
    | none => left
    | some x =>
      if allowIndex (core s c) tm.world x.2.2.2.target = e ∧ x.2.2.2.target < 8192 then
        sendElems 1024 (sendElem (modAllow s c e fun a => { a.charge with waiters := rest }) t tm x e) t
      else sendElems 1024 left t

/-- A fault kept with an element (R199). -/
def PathFault.poison (f : PathFault) (target : Option Nat) : Poison :=
  { cause := f.cause.value, level := f.level, reason := f.reason, pos := f.pos, label := f.label, gen := f.gen,
    action := f.action, need := f.need, have6 := f.have6, traceC := f.trace.c, traceD := f.trace.d, traceP := f.trace.p,
    traceF := f.trace.f, target := target, posted := false }

/-! ### Serving an entry (R405) -/

/-- SERVING AN ENTRY (R405): while it has a unit, the head waiter goes on. A slice is woken and stays at the head until its instruction
has walked afresh and is charged in the act of issuing (R404); a channel that has sent the first packet of its unit sends the
second, another stays until its unit has walked; an element, a held store and a resume marker are charged and sent. -/
def serveEntry : Nat → State → Nat → Nat → State
  | 0, s, _, _ => s
  | fuel + 1, s, c, e =>
    let a := allowAt (core s c) e
    if a.alw = 0 then s
    else match a.waiters with
      | [] => s
      | .slice id _ _ :: _ => modSlice s id Slice.wakeHead
      | .elems t _ :: rest => serveEntry fuel (serveElems s c e t rest) c e
      | .channel n _ :: rest =>
        match halfSent s c n with
        | some x =>
          if partBlocked s x 1 then s
          else serveEntry fuel (sendPart (modAllow s c e fun a => { a.charge with waiters := rest }) x.n 1) c e
        | none => s
      | .resend n :: rest =>
        if (accessOf s n).any fun a => partBlocked s a 0 then s
        else serveEntry fuel (sendAgain (modAllow s c e fun a => { a.charge with waiters := rest }) n c e) c e
      | .marker w p :: rest =>
        if seqBlocked s p.target p.bucket then s
        else serveEntry fuel (sendMarker (modAllow s c e fun a => { a.charge with waiters := rest }) w p c e) c e

/-- An entry served until it has no unit or its head waiter has yet to walk. -/
def serve (s : State) (c e : Nat) : State := serveEntry ((allowAt (core s c) e).waiters.length + 1) s c e

/-! ### Entries released (R400) -/

/-- The packages that a launch's DEST field names, with 0xFFFF where an entry is unbound (R309). -/
def destOf (l : Launch) : List Nat :=
  ((List.range 31).map fun i => field (listGetD l.words (24 + i / 4) 0) (16 * (i % 4) + 15) (16 * (i % 4)))

/-- A launch's DEST field names a package. -/
def namesDest (l : Launch) (pkg : Nat) : Bool := (destOf l).contains pkg

/-- A core's active bank holds a team of a launch of a world whose DEST names a package. -/
def needsEntry (s : State) (c world pkg : Nat) : Bool :=
  (core s c).active.teams.any fun p =>
    p.2.world == world && (match launchOf s p.2.launch with
      | none => false
      | some l => namesDest l pkg)

/-- The entries of a core that nothing needs any more are released (R400). -/
def releaseEntries (s : State) (c : Nat) : State :=
  let keep (p : Nat × Allowance) : Bool :=
    p.1 == 31 || decide (0 < p.2.sent) || p.2.waiters != [] || needsEntry s c p.2.world p.2.pkg
  modCore s c fun k => { k with allow := k.allow.filter keep }

/-- A unit granted back to an entry, which serves its waiters and is released where nothing needs it any more (R400, R405, R406). -/
def grantUnit (s : State) (c e : Nat) : State := releaseEntries (serve (modAllow s c e (Allowance.grant s.regs.icred)) c e) c

/-- The waiters that a test picks leave an entry. -/
def leaveEntry (s : State) (c e : Nat) (p : Waiter → Bool) : State :=
  releaseEntries (serve (modAllow s c e fun a =>
    Allowance.settle s.regs.icred { a with waiters := a.waiters.filter fun x => !p x }) c e) c

/-- A waiter is a slice. -/
def Waiter.isSlice (id : SliceId) (w : Waiter) : Bool :=
  match w with
  | .slice x _ _ => x == id
  | .elems _ _ | .channel _ _ | .resend _ | .marker _ _ => false

/-- A waiter is a channel. -/
def Waiter.isChannel (n : Nat) (w : Waiter) : Bool :=
  match w with
  | .channel m _ => m == n
  | .slice _ _ _ | .elems _ _ | .resend _ | .marker _ _ => false

/-- A waiter stands for a team's slices and elements. -/
def Waiter.ofTeam (t : TeamId) (w : Waiter) : Bool :=
  match w with
  | .slice x _ _ => x.core == t.core && x.slot == t.slot
  | .elems x _ => x == t
  | .channel _ _ | .resend _ | .marker _ _ => false

/-- Waiters that a test picks leave every entry of a core but one. -/
def leaveOthers (s : State) (c e : Nat) (p : Waiter → Bool) : State :=
  (core s c).allow.foldl (fun s x => if x.1 != e && x.2.waiters.any p then leaveEntry s c x.1 p else s) s

/-- A slice gives up its places in its core's entries. -/
def quitEntries (s : State) (id : SliceId) : State := leaveOthers s id.core 32 (Waiter.isSlice id)

/-! ### Held stores (R387) -/

/-- A held store or resume marker on its way (R403): at the tail of its entry, or sent at once toward a scale-out window. -/
def sendHeld (s : State) (c world target : Nat) (x : Waiter) : State :=
  if 8192 ≤ target then
    match x with
    | .resend n => sendAgain s n c 32
    | .marker w p => sendMarker s w p c 32
    | .slice _ _ _ | .elems _ _ | .channel _ _ => s
  else
    let e := allowIndex (core s c) world target
    serve (modAllow s c e fun a => { a with waiters := a.waiters ++ [x] }) c e

/-- The resume marker of a slice for a held store's pair, with the stores and flags discarded. -/
def markerFor (s : State) (w : SliceName) (world : Nat) (lost flags : List Nat) (h : HeldStore) : Packet :=
  { plainPacket s h.target h.access (.marker lost flags) with
    requester := nameIdentity s w, slice := w, world := world, off := h.off, bucket := h.bucket }

/-- The first held store of each pair. -/
def heldPairs : List HeldStore → List HeldStore
  | [] => []
  | h :: hs => h :: (heldPairs hs).filter fun x => !(x.target == h.target && x.bucket == h.bucket)

/-- Something of a slice's held stores already waits to be sent. -/
def heldQueued (s : State) (w : SliceName) : Bool :=
  s.cores.any fun p => p.2.allow.any fun e => e.2.waiters.any fun x =>
    match x with
    | .resend n => (accessOf s n).any fun a => a.who == w
    | .marker v _ => v == w
    | .slice _ _ _ | .elems _ _ | .channel _ _ => false

/-- The fabric target of an access. -/
def Access.target (a : Access) : Nat :=
  match a.place with
  | .fabric t _ _ _ => t
  | .window port n _ => 8192 + 4096 * port + n
  | .main _ _ _ | .scratch _ _ | .host _ | .weight _ _ => 0

/-- What is held of a refused store. -/
def Access.heldStore (a : Access) : HeldStore :=
  ⟨a.n, a.ordinal, match a.place with
    | .fabric _ _ _ b => b
    | .main _ _ _ | .scratch _ _ | .host _ | .weight _ _ | .window _ _ _ => 0, a.target, a.lw, a.off, false⟩

/-- Two held stores of one pair. -/
def HeldStore.pairs (h x : HeldStore) : Bool := h.target == x.target && h.bucket == x.bucket

/-- A store, flag or message. -/
def AccessKind.holds (k : AccessKind) : Bool :=
  match k with
  | .store | .flag _ | .message _ _ => true
  | .load | .queued | .element _ | .atomic _ _ _ | .refetch _ _ _ | .wait _ | .record _ | .entry _ | .copyRead _ _ | .copyWrite _ _ => false

/-- A store of a pair in which a slice has held stores has been sent and has not come back: it may still be refused BLOCKED, and then be
one of them. -/
def pairPending (s : State) (w : SliceName) (hs : List HeldStore) : Bool :=
  s.inflight.any fun a => a.who == w && a.kind.holds && a.sent && a.place.scope == .fabric &&
    (hs.any a.heldStore.pairs) && !hs.any fun h => h.access == a.n

/-- A slice's held stores sent again in their order, then their resume markers (R387), from a core, once every store of their pairs
has come back. An instruction of the slice that waits on an entry joins it again once it may issue (log 81). -/
def resendHeld (s : State) (c world : Nat) (w : SliceName) (hs : List HeldStore) : State :=
  if hs = [] ∨ heldQueued s w = true ∨ pairPending s w hs = true then s
  else
    let s := quitEntries s (nameId s w)
    let s := hs.foldl (fun s h => sendHeld s c world h.target (.resend h.access)) s
    (heldPairs hs).foldl (fun s h => sendHeld s c world h.target (.marker w (markerFor s w world [] [] h))) s

/-- The held stores of a team's slices sent again where it stands, when it is not frozen. -/
def resendTeam (s : State) (t : TeamId) : State :=
  match teamAt s t with
  | none => s
  | some tm =>
    if tm.frozen then s else tm.members.foldl (fun s p => resendHeld s t.core tm.world (tm.name p.1) p.2.held) s

/-- Those of a team whose gang runs. -/
def resumeTeam (s : State) (t : TeamId) : State :=
  match teamAt s t with
  | none => s
  | some tm => if gangRuns s tm.launch tm.gang then resendTeam s t else s

/-- The held stores of a slice that is gone. -/
def lateOf (s : State) (w : SliceName) : List LateStore := s.late.filter fun x => x.who == w

/-- Those sent again once their owner has let them (R137, R387). -/
def resumeLate (s : State) (w : SliceName) : State :=
  match lateOf s w with
  | [] => s
  | x :: xs => if (x :: xs).all (·.opened) then resendHeld s x.core x.world w ((x :: xs).map (·.store)) else s

/-- A slice's held stores tried again after one of its stores has come back. -/
def retryHeld (s : State) (w : SliceName) : State :=
  let s := resumeLate s w
  match findTeam s w.launch w.gang w.gteam with
  | some (.active t, _) => resumeTeam s t
  | some (.outgoing _, _) | some (.shadow _, _) | some (.saved, _) | none => s

/-- A slice behind the waiters of an entry; strands of one bundle join in ascending index (R405). -/
def joinSlice (id : SliceId) (pkg : Nat) (now : DWord) : List Waiter → List Waiter
  | [] => [.slice id pkg now]
  | .slice x p t :: rest =>
    let bundle := x.core == id.core && x.slot == id.slot && t == now && rest.all fun w => w.ofTeam ⟨id.core, id.slot⟩
    match x.strand, id.strand with
    | some i, some j =>
      if bundle && i / 64 == j / 64 && decide (j < i) then .slice id pkg now :: .slice x p t :: rest
      else .slice x p t :: joinSlice id pkg now rest
    | _, _ => .slice x p t :: joinSlice id pkg now rest
  | w :: rest => w :: joinSlice id pkg now rest

/-- A slice charges one unit for a package (R404, R405): paid where the entry has one and nobody waits before the slice, or it joins
the entry's waiters; it has left those of an entry that an earlier walk named. -/
def chargeSlice (s : State) (id : SliceId) (e pkg : Nat) : Option State × State :=
  let s := leaveOthers s id.core e (Waiter.isSlice id)
  let a := allowAt (core s id.core) e
  match a.waiters with
  | [] =>
    if 1 ≤ a.alw then (some (modAllow s id.core e Allowance.charge), s)
    else (none, modAllow s id.core e fun a => { a with waiters := joinSlice id pkg s.clock a.waiters })
  | w :: rest =>
    if w.isSlice id && decide (1 ≤ a.alw) then
      (some (serve (modAllow s id.core e fun a => { a.charge with waiters := rest }) id.core e), s)
    else if a.waiters.any (Waiter.isSlice id) then (none, s)
    else (none, modAllow s id.core e fun a => { a with waiters := joinSlice id pkg s.clock a.waiters })

/-! ### A slice's own windows (R222 to R224) -/

/-- The bytes of a slice's registers in order. -/
def Slice.regBytes (sl : Slice) : List Byte := sl.regs.flatMap fun w => bytesOfNat 4 w.toNat

/-- Bytes read from the register window. -/
def readRegs (sl : Slice) (off size : Nat) : List Byte := (sl.regBytes.drop off).take size

/-- The registers that bytes from an offset on touch. -/
def regsTouched (off size : Nat) : List Nat := (List.range ((off + size + 3) / 4 - off / 4)).map fun i => off / 4 + i

/-- Words of bytes. -/
def wordsOf : Nat → List Byte → List Word
  | 0, _ => []
  | n + 1, bs => BitVec.ofNat 32 (natOfBytes (bs.take 4)) :: wordsOf n (bs.drop 4)

/-- Registers after bytes have been stored into the register window. -/
def writeRegs (sl : Slice) (off : Nat) (bs : List Byte) : Slice :=
  let all := sl.regBytes
  { sl with regs := wordsOf sl.regs.length (all.take off ++ bs ++ all.drop (off + bs.length)) }

/-- The offset of a slice's stack window in its launch's stack region (R223). -/
def stackBase (s : State) (tm : Team) (strand : Option Nat) : Nat :=
  let frame := ((gangOf s tm.launch tm.gang).map Gang.frame).getD 0
  field (launchWord s tm.launch 11) 47 0 +
    16384 * (1025 * (widthOf s tm.launch * frame + tm.gteam) + strand.getD 1024)

/-- The path through stations D and P of a slice's stack line. -/
def stackPath (s : State) (c : Nat) (tm : Team) (w : Option Nat) (line : Nat) (need : BitVec 6) : Except PathFault Path :=
  stationD s {
    core := c, launch := tm.launch, gang := tm.gang, world := tm.world, off := stackBase s tm w + 128 * line, size := 128,
    need := need, req := .plain } { lw := launchWord s tm.launch 10 }

/-- A stack line may stand only in this package's memory, for remote data is never kept in a core (R177): a path elsewhere is one that
the station does not serve. -/
def stackRefused (s : State) (tm : Team) (need : BitVec 6) (p : Path) : PathFault :=
  { (({ lw := launchWord s tm.launch 10 } : Going).fail .p need none .labelDenied 21) with
    level := p.level, pos := p.pos, trace := p.trace }

/-- The place of a stack line under the key slot of the team's world (R223, R343; log 101). -/
def stackDest (s : State) (tm : Team) (d : Dest) : Dest :=
  match d with
  | .main pa _ cache desc => .main pa (worldKey s tm.world) cache desc
  | d => d

/-- A stack line written back (R223): the state, or the fault of its path. It writes whole what it covers of a line that stands
poisoned (R304). -/
def writeBackLine (s : State) (c : Nat) (tm : Team) (w : Option Nat) (line : Nat) (bs : List Byte) : Except PathFault State :=
  match stackPath s c tm w line permW with
  | .error f => .error f
  | .ok p =>
    let s := keepCopies s c p.copies
    match stackDest s tm p.dest with
    | .main pa key _ _ =>
      match physicalHold s pa 128 (pa % 32 == 0) with
      | some h => .error (.ofHold h)
      | none => .ok (writeDevice s pa key bs)
    | .host pa => .ok { s with hostMem := Memory.writeBytes s.hostMem pa bs }
    | .scratch _ _ | .regs _ | .stack _ | .weight _ _ | .fabric _ _ | .window _ _ _ _ => .error (stackRefused s tm permW p)

/-- A stack line taken out of a slice. -/
def dropStack (s : State) (c slot : Nat) (w : Option Nat) (line : Nat) : State :=
  modSlice s ⟨c, slot, w⟩ fun sl => { sl with stack := Table.del sl.stack line }

/-- Room in a core's cache for a stack line (R215, R223): the oldest copy is given up, or where there is none another stack line is
written back and leaves, its fault being that of the access which needs the room (log 16). -/
def stackRoom (s : State) (c : Nat) : Except PathFault State :=
  let k := core s c
  if k.copies.length < k.copyRoom then .ok s
  else if k.copies != [] then .ok (modCore s c fun k => { k with copies := k.copies.drop 1 })
  else
    let ls := k.active.stackLines
    match ls[Config.victim s.clock.toNat s.nextAccess % ls.length]? with
    | none => .ok s
    | some x =>
      match Table.get k.active.teams x.1 with
      | none => .ok s
      | some tm => (writeBackLine s c tm x.2.1 x.2.2.1 x.2.2.2).map fun s => dropStack s c x.1 x.2.1 x.2.2.1

/-- A line of the stack window ready for an access, in the core cache, or where it stands in host memory: lines of the host window are
never kept (R369, R334). A line that is absent is filled from the launch's stack region through stations D and P (R223). -/
def openStack (s : State) (id : SliceId) (off : Nat) (write : Bool) : Except PathFault (State × Option Nat) := do
  match sliceAt s id with
  | none => .ok (s, none)
  | some (tm, sl) =>
    let line := off / 128
    if (Table.get sl.stack line).isSome then .ok (touchWay s id.core line, none)
    else
      let p ← stackPath s id.core tm id.strand line permR
      match p.dest with
      | .host pa =>
        let q ← if write then stackPath s id.core tm id.strand line permW else .ok p
        .ok (keepCopies s id.core q.copies, some pa)
      | _ =>
        let bs ← loadDest s { p with dest := stackDest s tm p.dest } 128 (stackRefused s tm permR p)
        let s ← stackRoom (keepCopies s id.core p.copies) id.core
        .ok (touchWay (modSlice s id fun sl => { sl with stack := Table.put sl.stack line bs }) id.core line, none)

/-- Bytes of a slice's stack lines. -/
def readStack (sl : Slice) (off size : Nat) : List Byte := ((Table.getD sl.stack (off / 128) []).drop (off % 128)).take size

/-- A slice's stack lines after a store. -/
def writeStack (sl : Slice) (off : Nat) (bs : List Byte) : Slice :=
  let l := Table.getD sl.stack (off / 128) []
  { sl with stack := Table.put sl.stack (off / 128) (l.take (off % 128) ++ bs ++ l.drop (off % 128 + bs.length)) }

/-- A slice's combined writes to some bytes of host memory delivered: its stack accesses come behind them (R180, R369). -/
def drainOwn (s : State) (id : SliceId) (pa size : Nat) : State :=
  match sliceAt s id with
  | none => s
  | some (tm, _) => drainTouching s (tm.name id.strand) pa size

/-- BYTES OF THE STACK WINDOW read (R222, R223), within one line. -/
def loadStack (s : State) (id : SliceId) (off size : Nat) : Except PathFault (State × List Byte) :=
  (openStack s id off false).map fun r =>
    match r.2 with
    | none => (r.1, ((sliceAt r.1 id).map fun x => readStack x.2 off size).getD [])
    | some pa =>
      let s := drainOwn r.1 id (pa + off % 128) size
      (s, Memory.readBytes s.hostMem (pa + off % 128) size)

/-- Some bytes cut into pieces that stand each within one 128-byte line: offset and size. -/
def linePieces (off size : Nat) : List (Nat × Nat) :=
  (linesOf off size).map fun l => (max off (128 * l), min (off + size) (128 * l + 128) - max off (128 * l))

/-- Pieces of the stack window read one after another. -/
def loadPieces (id : SliceId) : List (Nat × Nat) → State → Except PathFault (State × List Byte)
  | [], s => .ok (s, [])
  | x :: xs, s =>
    match loadStack s id x.1 x.2 with
    | .error f => .error f
    | .ok (s, bs) => (loadPieces id xs s).map fun r => (r.1, bs ++ r.2)

/-- BYTES OF THE STACK WINDOW written, within one line. -/
def storeStack (s : State) (id : SliceId) (off : Nat) (bs : List Byte) : Except PathFault State :=
  (openStack s id off true).map fun r =>
    match r.2 with
    | none => modSlice r.1 id fun sl => writeStack sl off bs
    | some pa =>
      let s := drainOwn r.1 id (pa + off % 128) bs.length
      { s with hostMem := Memory.writeBytes s.hostMem (pa + off % 128) bs }

/-! ### Handing over (R176, R173, R201, R235, R284) -/

/-- The value of a register named by its number. -/
def Slice.reg (sl : Slice) (n : Nat) : Word := listGetD sl.regs n 0

/-- A slice after a 64-bit or 32-bit value has been written to its registers. -/
def Slice.setReg (sl : Slice) (n : Nat) (v : Word) : Slice := { sl with regs := sl.regs.set n v }

/-- A slice after a pair has been written (R5). -/
def Slice.setPair (sl : Slice) (n : Nat) (v : DWord) : Slice := (sl.setReg n (lowWord v)).setReg (n + 1) (highWord v)

/-- Flags set at a named slice (R78). -/
def Slice.flag (sl : Slice) (f : Word) : Slice := { sl with fflags := sl.fflags ||| f }

/-- A value delivered to a sink of a named slice (R172, R227, R235). A push publishes the core's ct (R365). -/
def deliverSink (s : State) (w : SliceName) (pc : Word) (sink : Sink) (v : DWord) : State :=
  let ct := (core s (nameCore s w)).ct
  match sink with
  | .none => s
  | .reg n => modNamedSlice s w fun sl => sl.setReg n (lowWord v)
  | .pair n => modNamedSlice s w fun sl => sl.setPair n v
  | .high n => modNamedSlice s w fun sl => sl.setReg n (highWord v)
  | .label l => modNamed s w.launch w.gang w.gteam fun tm => { tm with labels := tm.labels.set l v }
  | .push q =>
    modNamed s w.launch w.gang w.gteam fun tm =>
      match w.strand with
      | none => tm.addForward q (uniformEntry (lowWord v) ct pc)
      | some i => tm.pushBack i q (lowWord v) ct pc

/-- A forward-queue element replaced by a sound value (R201). -/
def replaceElem (tm : Team) (q entry elem : Nat) (v : Word) : Team :=
  { tm with fqueues := listModify (fun f =>
      { f with
        entries := listModify (fun e =>
          { e with
            elems := listModify (fun x => { x with state := .performed, value := v }) e.elems elem })
          f.entries (entry - f.base) }) tm.fqueues q }

/-- The slice's instruction waited for this access. -/
def awaits (s : State) (a : Access) : Bool :=
  match namedSlice s a.who with
  | none => false
  | some (_, sl) => sl.await == some a.n

/-- A slice that watches a word of a line is to read it again. -/
def Slice.wakeLine (line : Nat) (sl : Slice) : Slice :=
  match sl.watched with
  | some x =>
    match x.place with
    | .main pa _ _ => if pa / 128 = line then { sl with watched := some { x with woken := true } } else sl
    | .scratch _ _ | .host _ | .weight _ _ | .fabric _ _ _ _ | .window _ _ _ => sl
  | none => sl

/-- A team with each of its slices changed. -/
def Team.mapSlices (f : Slice → Slice) (tm : Team) : Team := { tm with addr := f tm.addr, strands := tm.strands.map f }

/-- A core is recorded on a line (R285, R295). -/
def recorded (s : State) (line coreNo : Nat) : Bool := s.waiters.any fun w => w.1 == line && w.2.contains coreNo

/-- A core recorded on a line at its home slice, where the oldest of 64 entries is reused (R285, R295). Waiters of the core whose record
has gone, with the write or the reuse that wakes them, are to read again. -/
def recordWaiter (s : State) (line coreNo : Nat) : State :=
  if recorded s line coreNo then s
  else
    let s := modCore s coreNo fun k => { k with active := { k.active with
      teams := k.active.teams.map fun p => (p.1, p.2.mapSlices (Slice.wakeLine line)) } }
    match s.waiters.find? fun w => w.1 == line with
    | some _ => { s with waiters := s.waiters.map fun w => if w.1 = line then (w.1, w.2 ++ [coreNo]) else w }
    | none =>
      let mine := s.waiters.filter fun w => homeSlice w.1 == homeSlice line
      let ws := if 64 ≤ mine.length then
          s.waiters.filter fun w => some w.1 != (mine.head?.map (·.1))
        else s.waiters
      { s with waiters := ws ++ [(line, [coreNo])] }

/-- A WAITA parks on its word (R284, R285): a strand PARKED, an address slice stalled, with class ADDRESS. -/
def parkAddress (s : State) (w : SliceName) (x : Watched) : State :=
  let s := match x.place with
    | .main pa _ _ => recordWaiter s (pa / 128) (nameCore s w)
    | _ => s
  modNamedSlice s w fun sl =>
    { sl with await := none, watched := some { x with woken := false, stale := false }
              run := if w.strand.isSome then .parked .address else sl.run
              stall := if w.strand.isSome then none else some .address }

/-- An access whose slice's instruction always waits for it. -/
def AccessKind.awaited (k : AccessKind) : Bool :=
  match k with
  | .element _ | .wait _ | .refetch _ _ _ | .record _ => true
  | .entry r => r.by' == .instr
  | .load | .queued | .store | .atomic _ _ _ | .flag _ | .message _ _ | .copyRead _ _ | .copyWrite _ _ => false

/-- HANDING OVER the data of a performed load or the old value of a performed atomic (R176): the destination is written,
the pending mark clears, and an instruction that waited for it completes; one that has been stopped meanwhile takes nothing. LDE checks
its block first (R171 order 4). -/
def handOver (s : State) (a : Access) : State :=
  let s1 := dropAccess s a.n
  let v := dwordOfBytes a.result
  let finishWith (s : State) : State :=
    if awaits s a then completeNamed (commitPops s a.who a.pops) a.who a.next else s
  if a.kind.awaited && !awaits s a then s1
  else match a.kind with
  | .element i =>
    match ldeResult a.result i.toNat with
    | none => trapNamed s1 a.who {
        cause := .badHallmark, next := a.next, info0 := a.off, info1 := a.lw,
        detail0 := (a.trace.shown 0).words.1, detail1 := (a.trace.shown 0).words.2 }
    | some r =>
      let s := deliverSink s1 a.who a.pc a.sink (r.bits.setWidth 64)
      finishWith (modNamedSlice s a.who fun sl => sl.flag r.flags)
  | .wait old =>
    if lowWord v = old then parkAddress s1 a.who ⟨a.place, old, a.pops, a.next, a.used, false, false⟩ else finishWith s1
  | .refetch q entry elem =>
    let s := modNamed s1 a.who.launch a.who.gang a.who.gteam fun tm => replaceElem tm q entry elem (lowWord v)
    modNamedSlice s a.who fun sl => { sl with await := none, poisonSeen := none }
  | .record q =>
    if slotFree s1 q a.who && (slotHold s1 q (queueView s1 q).tail.toNat true).isNone then finishWith (submitRecord s1 q a.who a.result (core s1 (nameCore s1 a.who)).ct)
    else modNamedSlice s1 a.who fun sl => { sl with await := none }
  | .load | .atomic _ _ _ => finishWith (deliverSink s1 a.who a.pc a.sink v)
  | .entry _ | .store | .flag _ | .message _ _ | .copyRead _ _ | .copyWrite _ _ | .queued => s1

end Sys2Proof.Machine
end

