-- ==== Sys2Proof/Machine/Operands.lean ====
section
/-! DEFINITION. Every operand form: the checks that the team's declarations decide (spec/02 R34 rows 9 to 11, spec/03 R41),
gathering sources and pops, waiting, and completing with a destination (spec/02 R25 to R30, spec/06 R100, R453). -/

namespace Sys2Proof.Machine

/-- How an instruction uses its D field (R40). `queue`: D names a forward queue that the instruction fills itself, under R30 (QLDU,
R41); `none`: it is not used, or R30 does not apply to it. -/
inductive DRole where
  | none | write | read | both | queue
  deriving DecidableEq, Repr

/-- The type of a value pushed to a UNIFORM back queue (R111, R144, R172). -/
inductive PushType where
  | untyped | i32 | f32
  deriving DecidableEq, Repr

/-- The operand fields of an instruction: its set, length in words, and each field with its width and use. `afield` is the
FIELD number of the A operand (1 for the A/D field of format J, R453). -/
structure Form where
  team : Bool
  len : Nat
  d : Dst := .zero
  dw : Width := .no
  role : DRole := .write
  push : PushType := .i32
  a : Src := .zero
  aw : Width := .no
  afield : BitVec 3 := 2
  b : Src := .zero
  bw : Width := .no
  /-- B is a queue field, which the instruction checks and pops itself (R41, R228). -/
  bq : Bool := false
  deriving DecidableEq, Repr

/-- The number of literal words of a source (R28). -/
def Src.lits (a : Src) : Nat :=
  match a with
  | .lit _ => 1
  | .lit64 _ => 2
  | .reg _ | .queue _ | .zero => 0

/-- Format A with D, A and B of the given widths. -/
def form3 (team : Bool) (d : Dst) (dw : Width) (a : Src) (aw : Width) (b : Src) (bw : Width) : Form :=
  { team := team, len := 1 + Src.lits a + Src.lits b, d := d, dw := dw, a := a, aw := aw, b := b, bw := bw }

/-- Format A with D and A. -/
def form2 (team : Bool) (d : Dst) (dw : Width) (a : Src) (aw : Width) : Form :=
  { team := team, len := 1 + Src.lits a, d := d, dw := dw, a := a, aw := aw }

/-- Format A with sources A and B alone. -/
def formAB (team : Bool) (a : Src) (aw : Width) (b : Src) (bw : Width) : Form :=
  { team := team, len := 1 + Src.lits a + Src.lits b, role := .none, a := a, aw := aw, b := b, bw := bw }

/-- Format J with a destination. -/
def formJd (team : Bool) (d : Dst) (dw : Width) : Form := { team := team, len := 1, d := d, dw := dw }

/-- Format J with a source. -/
def formJs (team : Bool) (a : Src) : Form := { team := team, len := 1, role := .none, a := a, aw := .w32, afield := 1 }

/-- No operand field. -/
def form0 (team : Bool) : Form := { team := team, len := 1, role := .none }

/-- The form with D used in another way. -/
def Form.as (f : Form) (r : DRole) : Form := { f with role := r }

/-- The form whose pushed value has a type. -/
def Form.pushing (f : Form) (t : PushType) : Form := { f with push := t }

/-! ### Checks that the team's declarations decide -/

/-- What stops an instruction before it takes effect. -/
inductive Stop where
  | trap (t : TrapInfo)
  | wait (c : ParkClass)
  /-- A label register that an LDL has yet to write (R235). -/
  | waitLabel (l : Nat)
  | park (w : WaitFor)
  /-- The back-queue pops of an instruction, of which some find their entry incomplete (R191, R195). -/
  | backq (qs : List Nat)
  | poison (q entry elem : Nat) (e : Elem) (p : Poison) (pc : Word)
  deriving DecidableEq, Repr

/-- A condition under which an instruction goes on. -/
def stopIf (bad : Bool) (st : Stop) : Except Stop Unit := if bad then .error st else .ok ()

/-- An ENCODING trap decided by an operand field (R453). -/
def fieldTrap (f : Form) (pc : Word) (c : Cause) (fld : BitVec 3) (code : BitVec 7) : Stop :=
  .trap { cause := c, field := fld, next := nextPc pc f.len, info0 := code.setWidth 64 }

/-- A register or pair member at or above the declared count (R26, R27). -/
def regBad (count : Nat) (w : Width) (n : Nat) : Bool :=
  match w with
  | .no => false
  | .w32 => decide (count ≤ n)
  | .w64 => decide (count ≤ n + 1)

/-- The register check of a source (R34 row 9). -/
def Src.regBad (count : Nat) (w : Width) (a : Src) : Bool :=
  match a with
  | .reg n => Machine.regBad count w n.val
  | .queue _ | .lit _ | .lit64 _ | .zero => false

/-- The register check of a destination (R34 row 9). -/
def Dst.regBad (count : Nat) (w : Width) (d : Dst) : Bool :=
  match d with
  | .reg n => Machine.regBad count w n.val
  | .queue _ | .zero => false

/-- A back queue, for the set's operand: the lane set pushes back queues and pops forward queues, the team set the
reverse (R25). -/
def queueUndeclared (tm : Team) (back : Bool) (n : Nat) : Bool := (tm.queueDecl back n).kind == .undeclared

/-- The queue check of a source (R34 row 10). -/
def Src.undeclared (tm : Team) (team : Bool) (a : Src) : Bool :=
  match a with
  | .queue n => queueUndeclared tm team n.val
  | .reg _ | .lit _ | .lit64 _ | .zero => false

/-- The queue check of a destination (R34 row 10). -/
def Dst.undeclared (tm : Team) (team : Bool) (d : Dst) : Bool :=
  match d with
  | .queue n => queueUndeclared tm (!team) n.val
  | .reg _ | .zero => false

/-- The kind check of a source (R30, R34 row 11): the team set pops no LANE back queue. -/
def Src.wrongKind (tm : Team) (team : Bool) (a : Src) : Bool :=
  match a with
  | .queue n => team && (tm.queueDecl true n.val).kind == .lane
  | .reg _ | .lit _ | .lit64 _ | .zero => false

/-- A back queue's combine rule takes a value type (R30, R111); FIRST and LANE queues take every type. -/
def takesType (d : QueueDecl) (t : PushType) : Bool :=
  d.kind != .uniform || d.rule == .first ||
  match t with
  | .untyped => true
  | .i32 => !d.float
  | .f32 => d.float

/-- The kind check of a destination (R30, R34 row 11), one that is read and written too (R110, R143). -/
def Dst.wrongKind (tm : Team) (f : Form) : Bool :=
  match f.d with
  | .queue n =>
    (f.role == .write || f.role == .both || f.role == .queue) &&
      (if f.team then (tm.queueDecl false n.val).kind == .lane else !takesType (tm.queueDecl true n.val) f.push)
  | .reg _ | .zero => false

/-- A queue code in a D field that the instruction reads (R41, R110). -/
def Dst.readQueue (f : Form) : Bool :=
  match f.d with
  | .queue _ => f.role == .read || f.role == .both
  | .reg _ | .zero => false

/-- The checks of R34 rows 9 to 11, field order D, A, B within each, and then R41's on D. -/
def declChecks (f : Form) (tm : Team) (sl : Slice) : Except Stop Unit := do
  let n := sl.regs.length
  let dc := f.d.code; let ac := f.a.code; let bc := f.b.code
  stopIf (Dst.regBad n f.dw f.d) (fieldTrap f sl.pc .regRange 1 dc)
  stopIf (Src.regBad n f.aw f.a) (fieldTrap f sl.pc .regRange f.afield ac)
  stopIf (Src.regBad n f.bw f.b) (fieldTrap f sl.pc .regRange 3 bc)
  stopIf (Dst.undeclared tm f.team f.d) (fieldTrap f sl.pc .queueUndeclared 1 dc)
  stopIf (Src.undeclared tm f.team f.a) (fieldTrap f sl.pc .queueUndeclared f.afield ac)
  stopIf (Src.undeclared tm f.team f.b) (fieldTrap f sl.pc .queueUndeclared 3 bc)
  stopIf (Dst.wrongKind tm f) (fieldTrap f sl.pc .queueKind 1 dc)
  stopIf (Src.wrongKind tm f.team f.a) (fieldTrap f sl.pc .queueKind f.afield ac)
  stopIf (!f.bq && Src.wrongKind tm f.team f.b) (fieldTrap f sl.pc .queueKind 3 bc)
  stopIf (Dst.readQueue f) (fieldTrap f sl.pc .badOperand 1 dc)

/-! ### Gathering -/

/-- A register or pair member that an access in flight has yet to write (R209). -/
def widthPending (s : State) (w : SliceName) (wd : Width) (n : Nat) : Bool :=
  match wd with
  | .no => false
  | .w32 => regPending s w n
  | .w64 => regPending s w n || regPending s w (n + 1)

/-- A source waits for a pending register (R209). -/
def Src.pending (s : State) (w : SliceName) (wd : Width) (a : Src) : Bool :=
  match a with
  | .reg n => widthPending s w wd n.val
  | .queue _ | .lit _ | .lit64 _ | .zero => false

/-- A destination waits for a pending register (R209). -/
def Dst.pending (s : State) (w : SliceName) (wd : Width) (d : Dst) : Bool :=
  match d with
  | .reg n => widthPending s w wd n.val
  | .queue _ | .zero => false

/-- The pending registers that hold an instruction (R209). -/
def Form.pending (s : State) (w : SliceName) (f : Form) : Bool :=
  Dst.pending s w f.dw f.d || Src.pending s w f.aw f.a || Src.pending s w f.bw (if f.bq then .zero else f.b)

/-- A register or pair read at a width. -/
def Slice.readReg (sl : Slice) (w : Width) (n : Nat) : DWord :=
  match w with
  | .w64 => pairOf (sl.reg n) (sl.reg (n + 1))
  | .no | .w32 => (sl.reg n).setWidth 64

/-- The queue that a source pops. -/
def Src.pops (a : Src) : List Nat :=
  match a with
  | .queue n => [n.val]
  | .reg _ | .lit _ | .lit64 _ | .zero => []

/-- The value of a source (R25, R28, R29); `k` pops of the same queue come before it. -/
def Src.value (tm : Team) (sl : Slice) (w : Option Nat) (wd : Width) (k : Nat) (a : Src) :
    Except Stop DWord :=
  match a with
  | .reg n => .ok (sl.readReg wd n.val)
  | .lit v => .ok (if wd = .w64 then v.signExtend 64 else v.setWidth 64)
  | .lit64 v => .ok v
  | .zero => .ok 0
  | .queue q =>
    match w with
    | none => .ok ((tm.backValue q.val k).setWidth 64)
    | some i =>
      match popForward tm sl i q.val k with
      | .wait =>
        .error (.park (.elem q.val (listGetD sl.popped q.val 0 + k) (FEntry.elemOf (tm.queueDecl false q.val) i)))
      | .poison entry elem e p pc => .error (.poison q.val entry elem e p pc)
      | .value v => .ok (v.setWidth 64)

/-- The old value of D, for the instructions that read it (R40, R41). -/
def Dst.value (sl : Slice) (wd : Width) (d : Dst) : DWord :=
  match d with
  | .reg n => sl.readReg wd n.val
  | .queue _ | .zero => 0

/-- What an instruction gathered: the value of D, A and B, 32-bit ones zero-extended, and its pops in order. -/
structure Vals where
  d : DWord
  a : DWord
  b : DWord
  pops : List Nat
  deriving DecidableEq, Repr

/-- D pushes to a queue. -/
def Form.pushQueue (f : Form) : Option Nat :=
  match f.d, f.role with
  | .queue n, .write => some n.val
  | _, _ => none

/-- A push finds room, and the pusher's earlier stores have been performed (R188, R191, R365). DESIGN CHOICE (log 107): a collective that
pushes waits so before it arrives at its circle; R161 names the checks and the sources alone. -/
def roomForPush (s : State) (tm : Team) (sl : Slice) (w : Option Nat) (f : Form) : Except Stop Unit :=
  match f.pushQueue with
  | none => .ok ()
  | some q => do
    stopIf (if w.isNone then tm.forwardFull q else tm.backFull sl q) (.park (.room q (listGetD sl.pushed q 0)))
    stopIf (storesPending s (tm.name w)) (.wait .memory)

/-- GATHERING (R34, R41, R209, R29): the checks, those the instruction makes itself before it reads a value (`own`), the
pending registers, the sources with their pops, and the room for a push. Nothing takes effect yet. -/
def gather (s : State) (w : Option Nat) (tm : Team) (sl : Slice) (f : Form) (own : Except Stop Unit) : Except Stop Vals := do
  declChecks f tm sl
  own
  let b := if f.bq then .zero else f.b
  stopIf (Form.pending s (tm.name w) f) (.wait .depend)
  let qs := Src.pops f.a ++ Src.pops b
  stopIf (w.isNone && incompletePops tm qs != []) (.backq qs)
  let va ← Src.value tm sl w f.aw 0 f.a
  let vb ← Src.value tm sl w f.bw (if Src.pops f.a = Src.pops b then 1 else 0) b
  roomForPush s tm sl w f
  .ok ⟨Dst.value sl f.dw f.d, va, vb, qs⟩

/-! ### Stopping -/

/-- The words of a poisoned element's trace (R199). -/
def Poison.trace (p : Poison) : StationTrace := ⟨p.traceC, p.traceD, p.traceP, p.traceF⟩

/-- The trap code that a poison keeps. -/
def causeOf (v : Byte) : Cause :=
  if v = 0x20 then .labelMiss else if v = 0x21 then .labelDenied else if v = 0x22 then .offsetRange
  else if v = 0x23 then .wrongWorld else if v = 0x27 then .peerReset else if v = 0x28 then .notInPhase
  else .misalignedAccess

/-- The fault that a poisoned element met (R199). -/
def Poison.fault (p : Poison) : PathFault :=
  { cause := causeOf p.cause, level := p.level, reason := p.reason, pos := p.pos, label := p.label, gen := p.gen,
    action := p.action, need := p.need, have6 := p.have6, trace := p.trace }

/-- A team with a poisoned element marked as posted (R200, R204). -/
def markPosted (tm : Team) (q entry elem : Nat) : Team :=
  { tm with fqueues := listModify (fun f =>
      { f with
        entries := listModify (fun e =>
          { e with
            elems := listModify (fun x =>
              match x.state with
              | .poisoned p => { x with state := .poisoned { p with posted := true } }
              | .pending | .sent _ | .arrived _ | .failed _ | .performed => x) e.elems elem })
          f.entries (entry - f.base) }) tm.fqueues q }

/-- A poisoned element's fault record sent to the package that refused it (R386): the source's trace words redacted (R351). The
number by which the source knows it is that of the next access. -/
def sendRecord (s : State) (target world : Nat) (q : Requester) (f : PathFault) : State :=
  let f' := { f with trace := { c := redacted, d := redacted, p := redacted, f := f.trace.f } }
  let p := { plainPacket s target s.nextAccess (.record (faultWords s q f' 3 false)) with
    requester := BitVec.ofNat 64 q.identity, world := world, label := f.label, off := q.off, have6 := f.have6, size := 64 }
  { s with outbox := s.outbox ++ [p], nextAccess := s.nextAccess + 1 }

/-- A pop that reaches a poisoned element (R200): the strand traps POISON_POP; at the element's first pop its fault record is
posted, and a violation freezes the team. -/
def poisonTrap (s : State) (id : SliceId) (f : Form) (q entry elem : Nat) (e : Elem) (p : Poison) (pc : Word) : State :=
  match sliceAt s id with
  | none => s
  | some (tm, sl) =>
    let d := (p.trace.shown 0).words
    let s := modSlice s id fun sl => { sl with poisonSeen := some (q, entry) }
    let s := trapSlice s id {
      cause := .poisonPop, next := nextPc sl.pc f.len, info0 := BitVec.ofNat 64 (116 + q), info1 := pc.setWidth 64,
      detail0 := d.1, detail1 := d.2 }
    let cls := p.fault.cause.cls
    if p.posted || !(cls == .miss || cls == .violation) then s
    else
      let s := modTeam s (teamIdOf id) fun tm => markPosted tm q entry elem
      let r := { sliceRequester s { id with strand := none } tm tm.addr e.off 4 with pc := pc }
      let m : Master := if cls == .violation then .slice (tm.name id.strand) else .nobody
      let s := match p.target with
        | none => postFault s tm.launch r p.fault m
        | some t =>
          let s := postNotice (sendRecord s t tm.world r p.fault) r p.fault
          if cls == .violation then
            { s with remoteFaults := s.remoteFaults ++ [⟨t, s.nextAccess - 1, false, m⟩] }
          else s
      if cls == .violation then modTeam s (teamIdOf id) fun tm => { tm with frozen := true } else s

/-- What an access of a slice asks of the stations. -/
def askOf (tm : Team) (id : SliceId) (off : DWord) (size : Nat) (need : BitVec 6) (req : Req) : Ask :=
  { core := id.core, launch := tm.launch, gang := tm.gang, world := tm.world, off := off.toNat, size := size, need := need,
    req := req, who := tm.name id.strand }

/-- A charge for a fabric access, or none needed (R403): the state if it may go, or the state in which it waits. -/
def chargeFor (s : State) (id : SliceId) (world : Nat) (p : Path) : Option (State × Nat) × State :=
  match p.dest with
  | .fabric t _ =>
    let e := allowIndex (core s id.core) world t
    match chargeSlice s id e t with
    | (some s', _) => (some (s', e), s)
    | (none, s') => (none, s')
  | _ => (some (s, 32), s)

/-- A register of a slice's window has a write pending. -/
def windowPending (s : State) (w : SliceName) (off size : Nat) : Bool := (regsTouched off size).any fun n => regPending s w n

/-- A slice waits with class DEPEND for a named slice's access whose sink a test picks; the PC of the instruction that made it is noted
(R209, R210). -/
def waitSink (s : State) (id : SliceId) (w : SliceName) (p : Sink → Bool) : State :=
  modSlice (waitSlice s id .depend) id fun sl =>
    { sl with blame := (s.inflight.find? fun a => a.who == w && p a.sink).map Access.pc }

/-- A sink writes one of some registers. -/
def Sink.writes (k : Sink) (regs : List Nat) : Bool :=
  regs.any fun n =>
    match k with
    | .reg r => r == n
    | .pair r => r == n || r + 1 == n
    | .high r => r == n
    | .none | .push _ | .label _ => false

/-- A slice waits with class DEPEND for registers of a named slice that are pending (R209, R210). -/
def waitPending (s : State) (id : SliceId) (w : SliceName) (regs : List Nat) : State :=
  waitSink s id w fun k => k.writes regs

/-- A fabric access must wait before it can be charged: a window's line has an access of this slice unacknowledged (R396), or its
sequence has come round (R381). -/
def fabricWaits (s : State) (w : SliceName) (p : Path) (off : DWord) : Bool :=
  match p.dest with
  | .fabric t lab => seqBlocked s t (bucketOf off lab)
  | .window port n _ _ =>
    seqBlocked s (8192 + 4096 * port + n) 0 ||
    s.inflight.any fun a => a.who == w && a.off.toNat / 128 == off.toNat / 128 &&
      (match a.place with
        | .window port' n' _ => port' == port && n' == n
        | .main _ _ _ | .scratch _ _ | .host _ | .weight _ _ | .fabric _ _ _ _ => false)
  | .main _ _ _ _ | .scratch _ _ | .regs _ | .stack _ | .weight _ _ | .host _ => false

/-- A slice waits for an accepted access's data (R176, R388). -/
def awaitData (s : State) (id : SliceId) (n : Nat) : State := modSlice s id fun sl => { sl with await := some n, stall := none }

/-- A POISONED ELEMENT FETCHED AGAIN (R201) as a load of the strand, its reserved labels resolved for the address slice. -/
def refetchElem (s : State) (id : SliceId) (f : Form) (q entry elem : Nat) (e : Elem) : State :=
  match sliceAt s id with
  | none => s
  | some (tm, sl) =>
    let next := nextPc sl.pc f.len
    match walkC s (askOf tm id e.off 4 permR .plain) e.lw e.off (4 * tm.addr.regs.length) with
    | .error pf => faultSlice s id pf e.lw e.off 4 next
    | .ok p =>
      let set (s : State) (v : List Byte) : State :=
        modTeam s (teamIdOf id) fun tm =>
          (replaceElem tm q entry elem (BitVec.ofNat 32 (natOfBytes v))).modSlice id.strand fun sl =>
            { sl with poisonSeen := none }
      match p.dest with
      | .regs o =>
        if windowPending s (tm.name none) o 4 then waitPending s id (tm.name none) (regsTouched o 4)
        else set s (readRegs tm.addr o 4)
      | .stack o =>
        match loadStack s { id with strand := none } o 4 with
        | .error pf => faultSlice s id pf e.lw e.off 4 next
        | .ok (s, bs) => set s bs
      | _ =>
        if fabricWaits s (tm.name id.strand) p e.off then waitSlice s id .memory
        else match chargeFor s id tm.world p with
        | (none, s) => parkSlice s id .allowance
        | (some (s, al), _) =>
          let op : MemOp := { kind := .refetch q entry elem, size := 4, need := permR, align := 4 }
          let r := accept s (tm.name id.strand) tm.world id.core sl.pc next op p e.lw e.off [] al
          awaitData r.1 id r.2

/-- A loss of decoupling counted at each back queue (R195, R196); the counters saturate. -/
def countBackWaits (tm : Team) (qs : List Nat) : Team :=
  let sat (x : Word) : Word := if x = 0xFFFFFFFF then x else x + 1
  { tm with bqWait0 := if qs.contains 0 then sat tm.bqWait0 else tm.bqWait0
            bqWait1 := if qs.contains 1 then sat tm.bqWait1 else tm.bqWait1 }

/-- The registers that an operand takes at a width. -/
def widthRegs (wd : Width) (n : Nat) : List Nat :=
  match wd with
  | .no => []
  | .w32 => [n]
  | .w64 => [n, n + 1]

/-- The registers that an instruction reads or writes (R209). -/
def Form.regs (f : Form) : List Nat :=
  let src (a : Src) (wd : Width) : List Nat := match a with
    | .reg n => widthRegs wd n.val
    | .queue _ | .lit _ | .lit64 _ | .zero => []
  (match f.d with
   | .reg n => widthRegs f.dw n.val
   | .queue _ | .zero => []) ++ src f.a f.aw ++ src f.b f.bw

/-- An instruction that does not take effect: it traps, waits, or meets a poisoned element (R100, R98, R195, R200, R201). -/
def stopAt (s : State) (id : SliceId) (f : Form) (st : Stop) : State :=
  match st with
  | .trap t => trapSlice s id t
  | .wait c =>
    match sliceAt s id with
    | none => s
    | some (tm, _) =>
      if c = .depend then waitPending s id (tm.name id.strand) f.regs
      else modSlice (waitSlice s id c) id fun sl => { sl with blame := none }
  | .waitLabel l =>
    match sliceAt s id with
    | none => s
    | some (tm, _) => waitSink s id (tm.name id.strand) (· == .label l)
  | .park w => parkSlice s id w
  | .backq qs =>
    match sliceAt s id with
    | none => s
    | some (_, sl) =>
      let s := if sl.stall = some .backq then s else modTeam s (teamIdOf id) fun tm => countBackWaits tm (incompletePops tm qs)
      modSlice (waitSlice s id .backq) id fun sl => { sl with backq := qs }
  | .poison q entry elem e p pc =>
    match sliceAt s id with
    | none => s
    | some (_, sl) =>
      if sl.poisonSeen = some (q, entry) then refetchElem s id f q entry elem e
      else poisonTrap s id f q entry elem e p pc

/-! ### Completing -/

/-- The slice's pops committed, at its place in an active bank. -/
def commitAt (s : State) (id : SliceId) (qs : List Nat) : State :=
  match sliceAt s id with
  | none => s
  | some (tm, _) => commitPops s (tm.name id.strand) qs

/-- A result written to D (R25, R27): a register or pair, a push that publishes ct (R365), or nothing for code 126. -/
def writeDst (s : State) (id : SliceId) (d : Dst) (w : Width) (v : DWord) : State :=
  match d with
  | .zero => s
  | .reg n =>
    match w with
    | .w64 => modSlice s id fun sl => sl.setPair n.val v
    | .no | .w32 => modSlice s id fun sl => sl.setReg n.val (lowWord v)
  | .queue q =>
    match sliceAt s id with
    | none => s
    | some (_, sl) =>
      let ct := (core s id.core).ct
      modTeam s (teamIdOf id) fun tm =>
        match id.strand with
        | none => tm.addForward q.val (uniformEntry (lowWord v) ct sl.pc)
        | some i => tm.pushBack i q.val (lowWord v) ct sl.pc

/-- Flags set in %fflags (R78). -/
def setFlags (s : State) (id : SliceId) (fl : Word) : State :=
  if fl = 0 then s else modSlice s id fun sl => sl.flag fl

/-- COMPLETING an instruction with a result (R29, R78, R100): pops, destination, flags, and the PC on to `next`. -/
def finishTo (s : State) (id : SliceId) (f : Form) (v : Vals) (next : Word) (r : DWord) (fl : Word) : State :=
  complete (setFlags (writeDst (commitAt s id v.pops) id f.d f.dw r) id fl) id next

/-- Completing in order with a result. -/
def finish (f : Form) (sl : Slice) (v : Vals) (r : DWord) (fl : Word) (s : State) : State :=
  finishTo s s.cur f v (nextPc sl.pc f.len) r fl

/-- Completing with no result, the PC on to `next`. -/
def finishNone (v : Vals) (next : Word) (s : State) : State := complete (commitAt s s.cur v.pops) s.cur next

/-- An instruction executed by the current slice: its own checks `own`, its operands gathered, then `k`. -/
def runOwn (f : Form) (s : State) (own : Team → Slice → Except Stop Unit) (k : Team → Slice → Vals → State) :
    Host.Outcome State Fault Refusal :=
  match sliceAt s s.cur with
  | none => .fault .noSlice
  | some (tm, sl) =>
    match gather s s.cur.strand tm sl f (own tm sl) with
    | .error st => .next (stopAt s s.cur f st)
    | .ok v => .next (k tm sl v)

/-- An instruction with no checks of its own before it reads its operands. -/
def run (f : Form) (s : State) (k : Team → Slice → Vals → State) : Host.Outcome State Fault Refusal :=
  runOwn f s (fun _ _ => .ok ()) k

/-- An instruction whose result is a function of its operands alone. -/
def alu (f : Form) (s : State) (g : Vals → DWord × Word) : Host.Outcome State Fault Refusal :=
  run f s fun _ sl v => finish f sl v (g v).1 (g v).2 s

/-- A 32-bit result of two 32-bit sources. -/
def alu3 (f : Form) (s : State) (g : Word → Word → Word) : Host.Outcome State Fault Refusal :=
  alu f s fun v => ((g (lowWord v.a) (lowWord v.b)).setWidth 64, 0)

/-- A 32-bit result of one 32-bit source. -/
def alu2 (f : Form) (s : State) (g : Word → Word) : Host.Outcome State Fault Refusal :=
  alu f s fun v => ((g (lowWord v.a)).setWidth 64, 0)

/-- A 32-bit result of two 32-bit sources and D. -/
def aluD (f : Form) (s : State) (g : Word → Word → Word → Word) : Host.Outcome State Fault Refusal :=
  alu (f.as .both) s fun v => ((g (lowWord v.a) (lowWord v.b) (lowWord v.d)).setWidth 64, 0)

/-- A floating-point result with its flags. -/
def aluF (f : Form) (s : State) (g : Word → Word → Word → FRes) : Host.Outcome State Fault Refusal :=
  alu f s fun v => let r := g (lowWord v.a) (lowWord v.b) (lowWord v.d); (r.bits.setWidth 64, r.flags)

end Sys2Proof.Machine
end

