-- ==== Sys2Proof/Machine/Circles.lean ====
section
/-! DEFINITION. Circles and the collective instructions (spec/08 R159 to R168); barrier objects (spec/16 R277 to R280), and what the
end of a team does to those who wait on its barriers (R240, R280). -/

namespace Sys2Proof.Machine

/-! ### Circles (R159) -/

/-- The strands that a circle mask of group g names, ascending. -/
def circleMembers (mask : DWord) (g : Nat) : List Nat :=
  ((List.range 64).filter fun j => mask.getLsbD j).map fun j => 64 * g + j

/-- The strands named by an arrived strand's mask. -/
def membersOf (strand : Nat) (ar : Arrival) : List Nat := circleMembers ar.mask (strand / 64)

/-- A strand of a team has arrived at a rendezvous (R161). -/
def arrivedAt (tm : Team) (ar : Arrival) (i : Nat) : Bool :=
  match tm.strands[i]? with
  | none => false
  | some sl =>
    match sl.arrived with
    | none => false
    | some x => x.pc == ar.pc && x.mask == ar.mask

/-- A strand named in an arrived strand's mask breaks the circle (R162): it has ended, or it has arrived elsewhere. -/
def breaksCircle (tm : Team) (ar : Arrival) (i : Nat) : Bool :=
  match tm.strands[i]? with
  | none => true
  | some sl =>
    !sl.live ||
    match sl.arrived with
    | none => false
    | some x => x.pc != ar.pc || x.mask != ar.mask

/-- A strand's arrival, if it is one that must trap (R162). -/
def brokenArrival (tm : Team) (p : Nat × Slice) : Option (Nat × Arrival) :=
  match p.2.arrived with
  | none => none
  | some ar => if (membersOf p.1 ar).any (breaksCircle tm ar) then some (p.1, ar) else none

/-- The CIRCLE_MASK traps of a team's arrived strands (R162). -/
def circleTraps (s : State) (t : TeamId) : State :=
  match teamAt s t with
  | none => s
  | some tm =>
    (tm.indexed.filterMap (brokenArrival tm)).foldl (fun s p =>
      trapSlice s ⟨t.core, t.slot, some p.1⟩ { cause := .circleMask, next := p.2.next }) s

/-! ### Barrier objects (R277, R278) -/

/-- The arrival and byte counts that a gang team declares for a barrier (R277). -/
def barrierDecl (s : State) (launch gteam bar : Nat) : Nat × Nat :=
  match (launchOf s launch).bind fun l => l.decls[gteam]? with
  | none => (0, 0)
  | some d => listGetD d.bars bar (0, 0)

/-- Phases complete while both counts have been met (R278); `n` bounds their number. -/
def completePhases (a y : Nat) : Nat → Barrier → Barrier
  | 0, b => b
  | n + 1, b =>
    if b.arem ≤ 0 ∧ b.brem ≤ 0 then
      completePhases a y n {
        phase := b.phase + 1, arem := b.arem + a, brem := b.brem + y, tsNow := none
        tsDone := match b.tsNow with
          | none => b.tsDone
          | some t => foldTime b.tsDone t }
    else b

/-- One contribution of arrivals and bytes (R278), with its timestamp (R365). -/
def Barrier.contribute (b : Barrier) (a y : Nat) (arrivals bytes : Nat) (ts : Word) : Barrier :=
  let b := { b with arem := b.arem - arrivals, brem := b.brem - bytes, tsNow := foldTime b.tsNow ts }
  completePhases a y (b.arem.natAbs + 1) b

/-- A barrier of a gang team. -/
def barrierAt (s : State) (launch gang gteam bar : Nat) : Option Barrier :=
  (findTeam s launch gang gteam).bind fun p => p.2.bars[bar]?

/-- A contribution applied indivisibly at the team that holds the barrier (R278). -/
def contributeTo (s : State) (launch gang gteam bar arrivals bytes : Nat) (ts : Word) : State :=
  let d := barrierDecl s launch gteam bar
  modNamed s launch gang gteam fun tm =>
    { tm with bars := listModify (fun b => b.contribute d.1 d.2 arrivals bytes ts) tm.bars bar }

/-- A phase has completed (R283). -/
def phaseDone (phase p : Word) : Bool := let d := (phase - p).toNat; decide (1 ≤ d ∧ d ≤ 2 ^ 31)

/-! ### The barrier word (R280) -/

/-- The TEAM field. -/
def barTeam (w : Word) : Nat := wfield w 6 4

/-- The BAR field. -/
def barNumber (w : Word) : Nat := wfield w 3 0

/-- The fault of a barrier word whose team has ended (R280, R454). -/
def barEnded : PathFault := { cause := .labelDenied, reason := 20, trace := { c := 0xA000 }, barrier := true }

/-- A slice takes that fault, the word in INFO0. -/
def barFault (s : State) (id : SliceId) (w next : Word) : State := faultWith s id barEnded (w.setWidth 64) 0 0 0 next

/-! ### A team ends (R240, R280) -/

/-- What a slice waits for in BARW, parked or stalled: the word, the phase and the next PC. -/
def Slice.barw (sl : Slice) : Option (Word × Word × Word) :=
  match sl.waits with
  | some (.barrier w ph next) => if sl.live ∧ (sl.run = .parked (.barrier w ph next) ∨ sl.stall = some .barrier) then some (w, ph, next) else none
  | _ => none

/-- The slices of a gang that wait in BARW on a barrier of a team. -/
def barWaiters (s : State) (launch gang gteam : Nat) : List (SliceId × Word × Word × Word) :=
  (activeTeams s).flatMap fun p =>
    if p.2.launch = launch ∧ p.2.gang = gang then
      p.2.members.filterMap fun x =>
        match x.2.barw with
        | some b => if barTeam b.1 = gteam then some (⟨p.1.core, p.1.slot, x.1⟩, b) else none
        | none => none
    else []

/-- A waiter in BARW when the barrier's team ends: it takes that fault (R280), or goes on where its phase has completed (R283, R288). -/
def failBarw (s : State) (x : SliceId × Word × Word × Word) : State :=
  match sliceAt s x.1 with
  | none => s
  | some (tm, _) =>
    let s' := modSlice s x.1 fun sl => { sl with run := .runnable }
    match (barrierAt s tm.launch tm.gang (barTeam x.2.1) (barNumber x.2.1)).filter fun b => phaseDone b.phase x.2.2.1 with
    | some b => modSlice s' x.1 fun sl => { sl with waits := some (.passed b.tsDone), stall := none }
    | none => barFault s' x.1 x.2.1 x.2.2.2

/-- The end of a team met by those who wait on its barriers, if it has ended (R240, R280). -/
def settleOver (s : State) (launch gang gteam : Nat) : State :=
  if teamEnded s launch gang gteam then (barWaiters s launch gang gteam).foldl failBarw s else s

/-! ### The rendezvous (R161) -/

/-- What a member brings: its strand, A and B. -/
structure Member where
  strand : Nat
  a : Word
  b : Word
  deriving DecidableEq, Repr

/-- The members of a rendezvous in rank order, with what they gathered. -/
def rendezvousMembers (tm : Team) (ms : List Nat) : List Member :=
  ms.filterMap fun i =>
    match tm.strands[i]? with
    | none => none
    | some sl => sl.arrived.map fun ar => ⟨i, ar.a, ar.b⟩

/-- Every member completes in one event: `res` gives the result and flags of the member of a rank. -/
def completeAll (s : State) (t : TeamId) (f : Form) (pops : List Nat) (next : Word)
    (ms : List (Member × Nat)) (res : Nat → Member → DWord × Word) : State :=
  ms.foldl (fun s p =>
    let r := res p.2 p.1
    finishTo s ⟨t.core, t.slot, some p.1.strand⟩ f ⟨0, 0, 0, pops⟩ next r.1 r.2) s

/-- The members' stores and atomics to coherent memory and scratchpad have been performed (R164). -/
def membersStored (s : State) (tm : Team) (ms : List Nat) : Bool := ms.all fun i => !storesPending s (tm.name (some i))

/-- ARRIVING at a collective (R161): the strand parks with class JOIN, strands whose circle is broken by the arrival trap (R162), and
the rendezvous completes if it has formed (for JOIN, once the members' stores have been performed, R164). -/
def arrive (f : Form) (stored : Bool) (s : State) (res : List Member → Nat → Member → DWord × Word) :
    Host.Outcome State Fault Refusal :=
  run f s fun tm sl v =>
    let i := s.cur.strand.getD 0
    let t := teamIdOf s.cur
    let ar : Arrival := ⟨sl.pc, nextPc sl.pc f.len, sl.circle, lowWord v.a, lowWord v.b⟩
    let s1 := circleTraps (modSlice s s.cur fun sl => { sl with arrived := some ar, run := .parked .join, stall := none }) t
    let tm1 := tm.modSlice s.cur.strand fun sl => { sl with arrived := some ar }
    let ms := membersOf i ar
    if ms.all (arrivedAt tm1 ar) then
      if stored && !membersStored s tm ms then s1
      else
        let xs := rendezvousMembers tm1 ms
        completeAll (ms.foldl (fun s i => modSlice s ⟨t.core, t.slot, some i⟩ fun sl => { sl with run := .runnable }) s1) t f v.pops
          ar.next (xs.zip (List.range xs.length)) (res xs)
    else s1

/-- A JOIN that has formed completes once its members' stores have been performed (R164). -/
def completeJoin (s : State) (t : TeamId) (strand : Nat) : State :=
  match teamAt s t with
  | none => s
  | some tm =>
    match (tm.strands[strand]?).bind Slice.arrived with
    | none => s
    | some ar =>
      let ms := membersOf strand ar
      if ms.all (arrivedAt tm ar) && membersStored s tm ms then
        ms.foldl (fun s i =>
          let id : SliceId := ⟨t.core, t.slot, some i⟩
          complete (modSlice s id fun sl => { sl with run := .runnable }) id ar.next) s
      else s

/-! ### What the collectives compute -/

/-- The A value of the member of a rank, or a strand's own. -/
def pickRank (xs : List Member) (n : Nat) (own : Member) : Word := ((xs[n]?).getD own).a

/-- SHFL (R165): the value that the member of rank r receives. -/
def shflOp (m : Shf) (xs : List Member) (r : Nat) (x : Member) : Word :=
  let cnt := xs.length
  let n := x.b.toNat
  match m with
  | .pick => pickRank xs n x
  | .rot => pickRank xs ((r + n) % cnt) x
  | .mirr => pickRank xs (((n : Int) - r) % cnt).toNat x
  | .pair => pickRank xs (r ^^^ n) x

/-- VOTE (R166). -/
def voteOp (m : Vot) (xs : List Member) : Word :=
  let count := (xs.filter fun x => x.a != 0).length
  match m with
  | .count => BitVec.ofNat 32 count
  | .first =>
    match findIdx (fun x => x.a != 0) xs 0 with
    | none => 0xFFFFFFFF
    | some p => BitVec.ofNat 32 p.1
  | .same =>
    match xs with
    | [] => 1
    | x :: rest => if rest.all fun y => y.a == x.a then 1 else 0
  | .maj => if xs.length < 2 * count then 1 else 0

/-- SIFT (R166). -/
def siftOp (xs : List Member) : DWord :=
  BitVec.ofNat 64 ((xs.filter fun x => x.a != 0).foldl (fun n x => n + 2 ^ (x.strand % 64)) 0)

/-- CREDF (R167). -/
def credfOp (m : Rdf) (xs : List Member) : FRes :=
  let ws := xs.map Member.a
  match m with
  | .sum => sumF ws
  | .max => extremeF true 0 ws
  | .min => extremeF false 0 ws

/-- A reduction of words; 0 for none. -/
def foldWords (g : Word → Word → Word) : List Word → Word
  | [] => 0
  | w :: ws => ws.foldl g w

/-- CREDI (R168). -/
def crediOp (m : Rdi) (xs : List Member) : Word :=
  let ws := xs.map Member.a
  match m with
  | .sum => foldWords (· + ·) ws
  | .max => foldWords (fun x y => if x.slt y then y else x) ws
  | .min => foldWords (fun x y => if y.slt x then y else x) ws
  | .maxu => foldWords (fun x y => if x.ult y then y else x) ws
  | .minu => foldWords (fun x y => if y.ult x then y else x) ws
  | .and => foldWords (· &&& ·) ws
  | .or => foldWords (· ||| ·) ws
  | .xor => foldWords (· ^^^ ·) ws

/-! ### The instructions -/

/-- SETC's mask is allowed (R160): it names the strand itself and strands that exist. -/
def circleOk (m : DWord) (strand nstrand : Nat) : Bool :=
  m.getLsbD (strand % 64) && (circleMembers m (strand / 64)).all fun i => decide (i < nstrand)

/-- SETC (R160). -/
def execSetc (a : Src) (s : State) : Host.Outcome State Fault Refusal :=
  let f : Form := { team := false, len := 1 + Src.lits a, role := .none, a := a, aw := .w64 }
  run f s fun tm sl v =>
    if circleOk v.a (s.cur.strand.getD 0) tm.decl.strands then
      finishNone v (nextPc sl.pc f.len) (modSlice s s.cur fun sl => { sl with circle := v.a })
    else trapSlice s s.cur { cause := .circleMask, next := nextPc sl.pc f.len }

/-- JOIN (R164). -/
def execJoin (s : State) : Host.Outcome State Fault Refusal := arrive (form0 false) true s fun _ _ _ => (0, 0)

/-- SHFL (R165). -/
def execShfl (d : Dst) (a : Src) (b : Src) (m : Shf) (s : State) : Host.Outcome State Fault Refusal :=
  arrive (Form.pushing (form3 false d .w32 a .w32 b .w32) .untyped) false s fun xs r x =>
    ((shflOp m xs r x).setWidth 64, 0)

/-- VOTE (R166). -/
def execVote (d : Dst) (a : Src) (m : Vot) (s : State) : Host.Outcome State Fault Refusal :=
  arrive (form2 false d .w32 a .w32) false s fun xs _ _ => ((voteOp m xs).setWidth 64, 0)

/-- SIFT (R166). -/
def execSift (d : Dst) (a : Src) (s : State) : Host.Outcome State Fault Refusal :=
  arrive (form2 false d .w64 a .w32) false s fun xs _ _ => (siftOp xs, 0)

/-- CREDF (R167). -/
def execCredf (d : Dst) (a : Src) (m : Rdf) (s : State) : Host.Outcome State Fault Refusal :=
  arrive (Form.pushing (form2 false d .w32 a .w32) .f32) false s fun xs _ _ =>
    let r := credfOp m xs
    (r.bits.setWidth 64, r.flags)

/-- CREDI (R168). -/
def execCredi (d : Dst) (a : Src) (m : Rdi) (s : State) : Host.Outcome State Fault Refusal :=
  arrive (form2 false d .w32 a .w32) false s fun xs _ _ => ((crediOp m xs).setWidth 64, 0)

end Sys2Proof.Machine
end

