-- ==== Sys2Proof/Machine/Control.lean ====
section
/-! DEFINITION. Special registers, control transfer and the allowance reads in both sets (spec/06 R95 to R97, spec/07 R128 to
R141, spec/13 R226, spec/23 R408, R409). -/

namespace Sys2Proof.Machine

/-! ### Special registers (R97) -/

/-- The BAD_SPECIAL trap of an index (R97, R453). -/
def badSpecial (pc : Word) (idx : Nat) : Stop :=
  .trap { cause := .badSpecial, field := 5, next := nextPc pc 1, info0 := BitVec.ofNat 64 idx }

/-- SREAD names a register of its set (R97). -/
def readableSpecial (team : Bool) (idx : Nat) : Bool := decide (idx < 18) || (idx == 18 && !team)

/-- The value of a special register at issue (R97). -/
def specialValue (s : State) (id : SliceId) (tm : Team) (sl : Slice) (idx : Nat) : DWord :=
  let n (v : Nat) : DWord := BitVec.ofNat 64 (v % 2 ^ 32)
  let w (v : Word) : DWord := v.setWidth 64
  match idx with
  | 0 => match id.strand with
    | some i => n i
    | none => 0xFFFFFFFF
  | 1 => n tm.decl.strands
  | 2 => n id.slot
  | 3 => n (widthOf s tm.launch)
  | 4 => n tm.gang
  | 5 => n tm.gteam
  | 6 => n tm.launch
  | 7 => n (id.core % 96)
  | 8 => n (id.core % 96 / 8)
  | 9 => n (dieOf id.core)
  | 10 => n s.regs.number
  | 11 => w (lowWord s.clock)
  | 12 => w (highWord sl.clockSample)
  | 13 => w (core s id.core).ct
  | 14 => n tm.world
  | 15 => tm.level.setWidth 64
  | 16 => w sl.sp
  | 17 => w sl.fflags
  | _ => sl.circle

/-- SREAD (R128): %clock samples the count that %clockh then reads. -/
def sread (team : Bool) (d : Dst) (imm : BitVec 17) (s : State) : Host.Outcome State Fault Refusal :=
  let idx := imm.toNat
  let f := formJd team d (if idx = 18 ∧ !team then .w64 else .w32)
  runOwn f s (fun _ sl => stopIf (!readableSpecial team idx) (badSpecial sl.pc idx)) fun tm sl v =>
    let s' := if idx = 11 then modSlice s s.cur fun sl => { sl with clockSample := s.clock } else s
    finishTo s' s.cur f v (nextPc sl.pc f.len) (specialValue s s.cur tm sl idx) 0

/-- A value that %sp takes (R97). -/
def spOk (v : Word) : Bool := decide (v.toNat ≤ 16384 ∧ v.toNat % 4 = 0)

/-- SWRITE (R128): %sp is the one register with a write path. -/
def swrite (team : Bool) (a : Src) (imm : BitVec 17) (s : State) : Host.Outcome State Fault Refusal :=
  let f := formJs team a
  runOwn f s (fun _ sl => stopIf (imm != 16) (badSpecial sl.pc imm.toNat)) fun _ sl v =>
    let x := lowWord v.a
    if spOk x then finishNone v (nextPc sl.pc f.len) (modSlice s s.cur fun sl => { sl with sp := x })
    else trapSlice s s.cur { cause := .badSpecial, field := 1, next := nextPc sl.pc f.len, info0 := v.a }

/-! ### Control transfer (R131 to R136) -/

/-- The target of a format-J transfer (R24). -/
def branchTarget (pc : Word) (imm : BitVec 17) : Word := pc + 4 * imm.signExtend 32

/-- A branch (R132): `taken` says of A whether the PC goes to the target. -/
def branch (team : Bool) (a : Src) (imm : BitVec 17) (s : State) (taken : Word → Bool) :
    Host.Outcome State Fault Refusal :=
  run (formJs team a) s fun _ sl v =>
    finishNone v (if taken (lowWord v.a) then branchTarget sl.pc imm else nextPc sl.pc 1) s

/-- BRA (R132). -/
def bra (team : Bool) (imm : BitVec 17) (s : State) : Host.Outcome State Fault Refusal :=
  run (form0 team) s fun _ sl v => finishNone v (branchTarget sl.pc imm) s

/-- A transfer target with bit 1 or bit 0 set (R133, R134). -/
def misaligned (t : Word) : Bool := t.toNat % 4 != 0

/-- The MISALIGNED_PC trap (R453, R103). -/
def misalignedTrap (t : Word) : TrapInfo := { cause := .misalignedPc, info0 := t.setWidth 64 }

/-- The label word that names a slice's own stack window (R222). -/
def stackLw : DWord := 0xFF11000000000000

/-- A call (R133): the return PC pushed, then control to the target. R135 has the stack access raise no label fault of its own; a fault
of the fill of its stack line is one of the access that caused it (R223; log 30). -/
def callTo (s : State) (sl : Slice) (v : Vals) (len : Nat) (tgt : Word) : State :=
  let ret := nextPc sl.pc len
  if misaligned tgt then trapSlice s s.cur (misalignedTrap tgt)
  else if sl.sp.toNat < 4 then
    trapSlice s s.cur { cause := .stackOverflow, next := ret, info0 := sl.sp.setWidth 64 }
  else
    let sp := sl.sp - 4
    match storeStack s s.cur sp.toNat (bytesOfNat 4 ret.toNat) with
    | .error pf => faultSlice s s.cur pf stackLw (sp.setWidth 64) 4 ret
    | .ok s => finishNone v tgt (modSlice s s.cur fun sl => { sl with sp := sp })

/-- CALL (R133). -/
def call (team : Bool) (imm : BitVec 17) (s : State) : Host.Outcome State Fault Refusal :=
  run (form0 team) s fun _ sl v => callTo s sl v 1 (branchTarget sl.pc imm)

/-- The form of CALLR and JMPR: A alone, in format A. -/
def formA (team : Bool) (a : Src) : Form := { team := team, len := 1 + Src.lits a, role := .none, a := a, aw := .w32 }

/-- CALLR (R133). -/
def callr (team : Bool) (a : Src) (s : State) : Host.Outcome State Fault Refusal :=
  run (formA team a) s fun _ sl v => callTo s sl v (formA team a).len (lowWord v.a)

/-- JMPR (R134). -/
def jmpr (team : Bool) (a : Src) (s : State) : Host.Outcome State Fault Refusal :=
  run (formA team a) s fun _ _ v =>
    if misaligned (lowWord v.a) then trapSlice s s.cur (misalignedTrap (lowWord v.a)) else finishNone v (lowWord v.a) s

/-- RET (R134, R95); a fault of its stack line's fill as for a call (log 30). -/
def ret (team : Bool) (s : State) : Host.Outcome State Fault Refusal :=
  run (form0 team) s fun _ sl v =>
    if 16380 < sl.sp.toNat then
      trapSlice s s.cur { cause := .stackUnderflow, next := nextPc sl.pc 1, info0 := sl.sp.setWidth 64 }
    else
      match loadStack s s.cur sl.sp.toNat 4 with
      | .error pf => faultSlice s s.cur pf stackLw (sl.sp.setWidth 64) 4 (nextPc sl.pc 1)
      | .ok (s, bs) =>
        let tgt := BitVec.ofNat 32 (natOfBytes bs)
        if misaligned tgt then trapSlice s s.cur (misalignedTrap tgt)
        else finishNone v tgt (modSlice s s.cur fun x => { x with sp := sl.sp + 4 })

/-! ### Ending, trapping, yielding (R137 to R139) -/

/-- An access of a slice has yet to write its destination or make its push (R137). -/
def destPending (s : State) (w : SliceName) : Bool := s.inflight.any fun a => a.who == w && a.sink != .none

/-- EXIT (R137): waits for the slice's pending destinations; then the slice leaves the live set, circles that name it break (R162),
and with its last slice its team has ended (R240). -/
def exitSlice (team : Bool) (s : State) : Host.Outcome State Fault Refusal :=
  run (form0 team) s fun tm _ _ =>
    if destPending s (tm.name s.cur.strand) then waitSink s s.cur (tm.name s.cur.strand) (· != .none)
    else
      settleOver (circleTraps (modTeam s (teamIdOf s.cur) fun tm => tm.endSlice s.cur.strand) (teamIdOf s.cur))
        tm.launch tm.gang tm.gteam

/-- TRAP and BKPT (R138). -/
def trapCode (team : Bool) (c : Cause) (imm : BitVec 17) (s : State) : Host.Outcome State Fault Refusal :=
  run (form0 team) s fun _ sl _ =>
    trapSlice s s.cur { cause := c, next := nextPc sl.pc 1, info0 := imm.setWidth 64 }

/-- YIELD (R139): the slice counts as ready from the current cycle. -/
def yield (team : Bool) (s : State) : Host.Outcome State Fault Refusal :=
  run (form0 team) s fun _ sl v => finishNone v (nextPc sl.pc 1) (modSlice s s.cur fun sl => { sl with ready := s.clock })

/-- NOP (R139). -/
def nop (team : Bool) (s : State) : Host.Outcome State Fault Refusal :=
  run (form0 team) s fun _ sl v => finishNone v (nextPc sl.pc 1) s

/-! ### Allowance reads (R408, R409) -/

/-- The word that ALWR writes for a package (R408). -/
def alwrOp (s : State) (coreNo world : Nat) (x : Word) : Word :=
  let p := x.toNat
  if 4608 ≤ p ∨ ¬ inPhase s p then 0x80000000
  else
    let e := allowIndex (core s coreNo) world p
    let a := allowAt (core s coreNo) e
    BitVec.ofNat 32 (min 255 a.waiters.length * 2 ^ 16 + bitAt (e == 31) 8 + a.alw % 256)

/-- ALWR (R408). -/
def alwr (team : Bool) (d : Dst) (a : Src) (s : State) : Host.Outcome State Fault Refusal :=
  let f := form2 team d .w32 a .w32
  run f s fun tm sl v => finish f sl v ((alwrOp s s.cur.core tm.world (lowWord v.a)).setWidth 64) 0 s

/-- A one-unit charge would succeed (R409). -/
def balwTaken (x : Word) : Bool := wfield x 31 31 == 0 && wfield x 23 16 == 0 && decide (1 ≤ wfield x 7 0)

/-- BALW (R409). -/
def balw (team : Bool) (a : Src) (imm : BitVec 17) (s : State) : Host.Outcome State Fault Refusal :=
  run (formJs team a) s fun tm sl v =>
    finishNone v (if balwTaken (alwrOp s s.cur.core tm.world (lowWord v.a)) then branchTarget sl.pc imm else nextPc sl.pc 1) s

/-! ### The instructions -/

/-- SREAD (R128). -/
def execSread (d : Dst) (imm : BitVec 17) (s : State) : Host.Outcome State Fault Refusal :=
  sread false d imm s

/-- SWRITE (R128). -/
def execSwrite (a : Src) (imm : BitVec 17) (s : State) : Host.Outcome State Fault Refusal :=
  swrite false a imm s

/-- ALWR (R408). -/
def execAlwr (d : Dst) (a : Src) (s : State) : Host.Outcome State Fault Refusal :=
  alwr false d a s

/-- BRA (R132). -/
def execBra (imm : BitVec 17) (s : State) : Host.Outcome State Fault Refusal :=
  bra false imm s

/-- BNZ (R132). -/
def execBnz (a : Src) (imm : BitVec 17) (s : State) : Host.Outcome State Fault Refusal :=
  branch false a imm s fun x => x != 0

/-- BZ (R132). -/
def execBz (a : Src) (imm : BitVec 17) (s : State) : Host.Outcome State Fault Refusal :=
  branch false a imm s fun x => x == 0

/-- CALL (R133). -/
def execCall (imm : BitVec 17) (s : State) : Host.Outcome State Fault Refusal :=
  call false imm s

/-- CALLR (R133). -/
def execCallr (a : Src) (s : State) : Host.Outcome State Fault Refusal :=
  callr false a s

/-- JMPR (R134). -/
def execJmpr (a : Src) (s : State) : Host.Outcome State Fault Refusal :=
  jmpr false a s

/-- RET (R134). -/
def execRet (s : State) : Host.Outcome State Fault Refusal :=
  ret false s

/-- EXIT (R137). -/
def execExit (s : State) : Host.Outcome State Fault Refusal :=
  exitSlice false s

/-- TRAP (R138). -/
def execTrap (imm : BitVec 17) (s : State) : Host.Outcome State Fault Refusal :=
  trapCode false .trap imm s

/-- BKPT (R138). -/
def execBkpt (imm : BitVec 17) (s : State) : Host.Outcome State Fault Refusal :=
  trapCode false .breakpoint imm s

/-- YIELD (R139). -/
def execYield (s : State) : Host.Outcome State Fault Refusal :=
  yield false s

/-- NOP (R139). -/
def execNop (s : State) : Host.Outcome State Fault Refusal :=
  nop false s

/-- BALW (R409). -/
def execBalw (a : Src) (imm : BitVec 17) (s : State) : Host.Outcome State Fault Refusal :=
  balw false a imm s

/-- TEAM_SREAD (R128). -/
def execTeamSread (d : Dst) (imm : BitVec 17) (s : State) : Host.Outcome State Fault Refusal :=
  sread true d imm s

/-- TEAM_SWRITE (R128). -/
def execTeamSwrite (a : Src) (imm : BitVec 17) (s : State) : Host.Outcome State Fault Refusal :=
  swrite true a imm s

/-- TEAM_ALWR (R408). -/
def execTeamAlwr (d : Dst) (a : Src) (s : State) : Host.Outcome State Fault Refusal :=
  alwr true d a s

/-- TEAM_BRA (R132). -/
def execTeamBra (imm : BitVec 17) (s : State) : Host.Outcome State Fault Refusal :=
  bra true imm s

/-- TEAM_BNZ (R132). -/
def execTeamBnz (a : Src) (imm : BitVec 17) (s : State) : Host.Outcome State Fault Refusal :=
  branch true a imm s fun x => x != 0

/-- TEAM_BZ (R132). -/
def execTeamBz (a : Src) (imm : BitVec 17) (s : State) : Host.Outcome State Fault Refusal :=
  branch true a imm s fun x => x == 0

/-- TEAM_CALL (R133). -/
def execTeamCall (imm : BitVec 17) (s : State) : Host.Outcome State Fault Refusal :=
  call true imm s

/-- TEAM_CALLR (R133). -/
def execTeamCallr (a : Src) (s : State) : Host.Outcome State Fault Refusal :=
  callr true a s

/-- TEAM_JMPR (R134). -/
def execTeamJmpr (a : Src) (s : State) : Host.Outcome State Fault Refusal :=
  jmpr true a s

/-- TEAM_RET (R134). -/
def execTeamRet (s : State) : Host.Outcome State Fault Refusal :=
  ret true s

/-- TEAM_EXIT (R137). -/
def execTeamExit (s : State) : Host.Outcome State Fault Refusal :=
  exitSlice true s

/-- TEAM_TRAP (R138). -/
def execTeamTrap (imm : BitVec 17) (s : State) : Host.Outcome State Fault Refusal :=
  trapCode true .trap imm s

/-- TEAM_BKPT (R138). -/
def execTeamBkpt (imm : BitVec 17) (s : State) : Host.Outcome State Fault Refusal :=
  trapCode true .breakpoint imm s

/-- TEAM_YIELD (R139). -/
def execTeamYield (s : State) : Host.Outcome State Fault Refusal :=
  yield true s

/-- TEAM_NOP (R139). -/
def execTeamNop (s : State) : Host.Outcome State Fault Refusal :=
  nop true s

/-- TEAM_BALW (R409). -/
def execTeamBalw (a : Src) (imm : BitVec 17) (s : State) : Host.Outcome State Fault Refusal :=
  balw true a imm s

end Sys2Proof.Machine
end

