-- ==== Sys2Proof/Machine/Debug.lean ====
section
/-! DEFINITION. What a debug slot matches: breakpoints and watchpoints (spec/27 R438 to R440). -/

namespace Sys2Proof.Machine

/-- The debug slots bound to a launch (R438). -/
def boundSlots (s : State) (launch : Nat) : List (Nat × DebugSlot) :=
  s.debugSlots.filter fun p =>
    field (listGetD p.2.d 0 0) 63 63 == 1 && field (listGetD p.2.d 0 0) 62 62 == 1 &&
    field (listGetD p.2.d 1 0) 63 32 == launch

/-- A doubleword of a debug slot from byte 128 on (R438). -/
def DebugSlot.point (b : DebugSlot) (i : Nat) : DWord := Table.getD b.points i 0

/-- A breakpoint's doubleword is enabled for a PC. -/
def enabledAt (pc : Word) (v : DWord) : Bool := v.getLsbD 63 && lowWord v == pc

/-- A breakpoint's write is so recent that a fetch may not see it yet (R439). -/
def recentWrite (now at' : DWord) : Bool := decide ((now - at').toNat < 64)

/-- Breakpoint n matches a fetch (R439): by its value, unless a value that it held within the last 64 cycles differs on it; then both
outcomes are allowed (log 87). -/
def DebugSlot.hits (b : DebugSlot) (now : DWord) (pc : Word) (n : Nat) : Bool :=
  let on := enabledAt pc (b.point n)
  if b.earlier.all fun x => x.1 != n || !recentWrite now x.2.2 || enabledAt pc x.2.1 == on then on else Config.pointSeen now.toNat n

/-- The lowest-numbered breakpoint that matches a fetch at a PC (R439). -/
def DebugSlot.breakpoint (b : DebugSlot) (now : DWord) (pc : Word) : Option Nat := (List.range 16).find? (b.hits now pc)

/-- The breakpoint that a slice's fetch matches (R439); none for a slice with the skip mark. -/
def breakpointAt (s : State) (launch : Nat) (skip : Bool) (pc : Word) : Option Nat :=
  if skip then none else (boundSlots s launch).findSome? fun p => p.2.breakpoint s.clock pc

/-- An access's kind as a watchpoint sees it (R440). -/
inductive WatchKind where
  | none | read | write | both
  deriving DecidableEq, Repr

/-- Watchpoint n of a slot matches an access (R440). -/
def DebugSlot.watches (b : DebugSlot) (k : WatchKind) (lw off : DWord) (size n : Nat) : Bool :=
  let w (i : Nat) : DWord := b.point (16 + 4 * n + i)
  let first := field (w 1) 47 0
  let kind := match k with
    | .none => false
    | .read => (w 2).getLsbD 0
    | .write => (w 2).getLsbD 1
    | .both => (w 2).getLsbD 0 || (w 2).getLsbD 1
  (w 2).getLsbD 63 && kind && w 0 == lw &&
  decide (off.toNat < first + field (w 1) 63 48 + 1 ∧ first < off.toNat + size)

/-- An access of a slice of a launch matches a watchpoint (R440). -/
def watched (s : State) (launch : Nat) (skip : Bool) (k : WatchKind) (lw off : DWord) (size : Nat) : Bool :=
  !skip && (boundSlots s launch).any fun p => (List.range 8).any fun n => p.2.watches k lw off size n

end Sys2Proof.Machine
end

