-- ==== Sys2Proof/Machine/Memory.lean ====
section
/-! DEFINITION. Memory instructions as both sets share them: forming the access and its traps in order (spec/09 R169 to R181),
acceptance, and what waits for its data; fences (spec/21 R373), WAITA (spec/16 R284), FENCEF (spec/22 R399). -/

namespace Sys2Proof.Machine

/-! ### Traps of an access in order (R171) -/

/-- What stops an access before the stations accept it. -/
inductive AccessStop where
  | fault (f : PathFault)
  | misaligned
  | watch
  deriving DecidableEq, Repr

/-- How a watchpoint sees an access (R440). -/
def MemOp.watchKind (op : MemOp) : WatchKind :=
  match op.kind with
  | .load | .element _ | .wait _ => .read
  | .store | .flag _ => .write
  | .atomic _ _ _ => .both
  | .refetch _ _ _ | .message _ _ | .record _ | .entry _ | .copyRead _ _ | .copyWrite _ _ | .queued => .none

/-- The path of an access after its checks (R171 orders 1 to 3, R440). -/
def accessPath (s : State) (id : SliceId) (tm : Team) (sl : Slice) (lw off : DWord) (op : MemOp) :
    Except AccessStop Path :=
  if field off 63 48 ≠ 0 then .error (.fault (({ lw := lw } : Going).fail .c op.need none .offsetRange 3))
  else if off.toNat % op.align ≠ 0 then .error .misaligned
  else if watched s tm.launch sl.skip op.watchKind lw off op.size then .error .watch
  else match walkC s (askOf tm id off op.size op.need op.req) lw off (4 * sl.regs.length) with
    | .error f => .error (.fault f)
    | .ok p => .ok p

/-- An access's slice stopped (R171, R440). -/
def stopAccess (s : State) (id : SliceId) (st : AccessStop) (lw off : DWord) (size : Nat) (next : Word) : State :=
  match st with
  | .fault f => faultSlice s id f lw off size next
  | .misaligned => trapSlice s id ((TrapInfo.memory .misalignedAccess next lw off).traced {})
  | .watch => trapSlice s id (TrapInfo.memory .watch next lw off)

/-! ### The requester's own windows (R224) -/

/-- Completing an access that an own window served with the bytes that it read (R172, R173). -/
def finishRead (s : State) (f : Form) (sl : Slice) (v : Vals) (op : MemOp) (tr : StationTrace) (lw off : DWord)
    (bs : List Byte) : State :=
  match op.kind with
  | .element i =>
    match ldeResult bs i.toNat with
    | none => trapSlice s s.cur ((TrapInfo.memory .badHallmark (nextPc sl.pc f.len) lw off).traced tr)
    | some r => finish f sl v (r.bits.setWidth 64) r.flags s
  | _ =>
    match op.sink with
    | .label l =>
      finishNone v (nextPc sl.pc f.len)
        (modTeam s (teamIdOf s.cur) fun tm => { tm with labels := tm.labels.set l (dwordOfBytes bs) })
    | .none | .reg _ | .pair _ | .high _ | .push _ => finish f sl v (dwordOfBytes bs) 0 s

/-- An access to the slice's own registers (R222, R224). -/
def ownRegs (s : State) (f : Form) (tm : Team) (sl : Slice) (v : Vals) (op : MemOp) (tr : StationTrace) (lw off : DWord)
    (o : Nat) : State :=
  let w := tm.name s.cur.strand
  if windowPending s w o op.size then waitPending s s.cur w (regsTouched o op.size)
  else match op.kind with
    | .store => finishNone v (nextPc sl.pc f.len) (modSlice s s.cur fun sl => writeRegs sl o op.bytes)
    | _ => finishRead s f sl v op tr lw off (readRegs sl o op.size)

/-- An access to the slice's own stack window (R222, R223). -/
def ownStack (s : State) (f : Form) (sl : Slice) (v : Vals) (op : MemOp) (tr : StationTrace) (lw off : DWord) (o : Nat) : State :=
  match op.kind with
  | .store =>
    match storeStack s s.cur o op.bytes with
    | .error pf => faultSlice s s.cur pf lw off op.size (nextPc sl.pc f.len)
    | .ok s => finishNone v (nextPc sl.pc f.len) s
  | _ =>
    match loadStack s s.cur o op.size with
    | .error pf => faultSlice s s.cur pf lw off op.size (nextPc sl.pc f.len)
    | .ok (s, bs) => finishRead s f sl v op tr lw off bs

/-! ### Acceptance (R176, R381, R388, R396, R404) -/

/-- An address slice's load toward another package, performed as soon as its packet leaves, waits for the slice's earlier loads
(R197, R361). -/
def loadsBefore (s : State) (id : SliceId) (w : SliceName) (op : MemOp) (p : Path) : Bool :=
  id.strand.isNone && (targetOf p.dest).isSome &&
  (match op.kind with
   | .load | .element _ | .wait _ | .record _ => true
   | .atomic _ _ _ | .store | .flag _ | .message _ _ | .refetch _ _ _ | .entry _ | .copyRead _ _ | .copyWrite _ _ | .queued => false) &&
  s.inflight.any fun a => a.who == w && a.isLoad && !a.performed

/-- The slice's instruction waits for the access's data (R173, R176, R227, R284, R388): LDE, WAITA, a pushing load, and a
load or atomic that leaves the package. -/
def waitsForData (op : MemOp) (p : Path) : Bool :=
  match op.kind with
  | .element _ | .wait _ | .refetch _ _ _ | .record _ | .entry _ => true
  | .load | .atomic _ _ _ =>
    (targetOf p.dest).isSome ||
    match op.sink with
    | .push _ => true
    | .none | .reg _ | .pair _ | .high _ | .label _ => false
  | .store | .flag _ | .message _ _ | .copyRead _ _ | .copyWrite _ _ | .queued => false

/-- An access that the stations grant goes on (R176): it waits, is charged, is accepted, and its instruction completes or
waits for the data. -/
def acceptFor (s : State) (f : Form) (tm : Team) (sl : Slice) (v : Vals) (op : MemOp) (p : Path) (lw off : DWord) : State :=
  let w := tm.name s.cur.strand
  let next := nextPc sl.pc f.len
  if fabricWaits s w p off || loadsBefore s s.cur w op p then waitSlice s s.cur .memory
  else match chargeFor s s.cur tm.world p with
    | (none, s) => parkSlice s s.cur .allowance
    | (some (s, al), _) =>
      let r := accept s w tm.world s.cur.core sl.pc next op p lw off v.pops al
      if waitsForData op p then awaitData r.1 r.1.cur r.2 else finishNone v next r.1

/-- An access whose path is known takes effect. -/
def deliverTo (s : State) (f : Form) (tm : Team) (sl : Slice) (v : Vals) (op : MemOp) (p : Path) (lw off : DWord) : State :=
  match p.dest with
  | .regs o => ownRegs s f tm sl v op p.trace lw off o
  | .stack o => ownStack s f sl v op p.trace lw off o
  | _ => acceptFor s f tm sl v op p lw off

/-- MAKING AN ACCESS (R170, R171, R176). -/
def issueAccess (s : State) (f : Form) (tm : Team) (sl : Slice) (v : Vals) (op : MemOp) (lw off : DWord) : State :=
  match accessPath s s.cur tm sl lw off op with
  | .error st => stopAccess s s.cur st lw off op.size (nextPc sl.pc f.len)
  | .ok p => deliverTo s f tm sl v op p lw off

/-! ### Forms of the memory instructions -/

/-- Queue loads of the team that are not yet performed hold an address slice's memory instructions (R198). -/
def loadsPending (tm : Team) : Bool :=
  tm.fqueues.any fun q => q.entries.any fun e => e.order.isSome && e.elems.any Elem.unperformed

/-- The checks that hold an instruction of a set before it reads its operands: an address slice's memory instruction waits
for earlier queue loads (R198). -/
def heldByLoads (team : Bool) (tm : Team) : Except Stop Unit := stopIf (team && loadsPending tm) (.wait .memory)

/-- An address slice's instruction that names a label register waits for an LDL of it (R235). -/
def heldByLabel (s : State) (team : Bool) (tm : Team) (l : Fin 8) : Except Stop Unit :=
  stopIf (team && labelPending s (tm.name none) l.val) (.waitLabel l.val)

/-- A label register (R170, R233). -/
def Team.label (tm : Team) (l : Fin 8) : DWord := listGetD tm.labels l.val 0

/-- The sink of a destination. -/
def sinkOf (d : Dst) (wide : Bool) : Sink :=
  match d with
  | .zero => .none
  | .queue q => .push q.val
  | .reg n => if wide then .pair n.val else .reg n.val

/-- A memory instruction through l[M] (R170): its operation from its operands, its offset from A2 and B. -/
def memLabel (f : Form) (l : Fin 8) (s : State) (off : Vals → DWord) (op : Vals → MemOp) :
    Host.Outcome State Fault Refusal :=
  runOwn f s (fun tm _ => do heldByLoads f.team tm; heldByLabel s f.team tm l) fun tm sl v =>
    issueAccess s f tm sl v (op v) (tm.label l) (off v)

/-- The offset of a plain load or store (R170): A2 and a signed displacement. -/
def offDisp (v : Vals) : DWord := v.a + (lowWord v.b).signExtend 64

/-- A load of a size through l[M] (R172). -/
def loadLabel (team : Bool) (d : Dst) (a b : Src) (l : Fin 8) (size : Nat) (s : State) : Host.Outcome State Fault Refusal :=
  let wide := size == 8
  let f := Form.pushing (form3 team d (if wide then .w64 else .w32) a .w64 b .w32) .untyped
  memLabel f l s offDisp fun _ =>
    { kind := .load, size := size, need := permR, align := size, sink := sinkOf d wide }

/-- A store of a size through l[M] (R172). -/
def storeLabel (team : Bool) (d : Dst) (a b : Src) (l : Fin 8) (size : Nat) (s : State) : Host.Outcome State Fault Refusal :=
  let f := Form.as (form3 team d (if size = 8 then .w64 else .w32) a .w64 b .w32) .read
  memLabel f l s offDisp fun v =>
    { kind := .store, size := size, need := permW, align := size, bytes := (bytesOfDWord v.d).take size }

/-- LDX (R172): the label word is B2. -/
def loadExplicit (team : Bool) (d : Dst) (a b : Src) (s : State) : Host.Outcome State Fault Refusal :=
  let f := Form.pushing (form3 team d .w32 a .w64 b .w64) .untyped
  runOwn f s (fun tm _ => heldByLoads team tm) fun tm sl v =>
    issueAccess s f tm sl v { kind := .load, size := 4, need := permR, align := 4, sink := sinkOf d false } v.b v.a

/-- STX (R172). -/
def storeExplicit (team : Bool) (d : Dst) (a b : Src) (s : State) : Host.Outcome State Fault Refusal :=
  let f := Form.as (form3 team d .w32 a .w64 b .w64) .read
  runOwn f s (fun tm _ => heldByLoads team tm) fun tm sl v =>
    issueAccess s f tm sl v
      { kind := .store, size := 4, need := permW, align := 4, bytes := (bytesOfDWord v.d).take 4 } v.b v.a

/-- LDE (R173). -/
def loadElement (d : Dst) (a b : Src) (l : Fin 8) (s : State) : Host.Outcome State Fault Refusal :=
  let f := Form.pushing (form3 false d .w32 a .w64 b .w32) .f32
  memLabel f l s Vals.a fun v =>
    { kind := .element (lowWord v.b), size := 64, need := permR, align := 64, sink := sinkOf d false }

/-- An atomic (R174): `cas` reads D as the compare value. -/
def atomicLabel (team : Bool) (d : Dst) (a b : Src) (l : Fin 8) (op : AtomicOp) (size : Nat) (s : State) :
    Host.Outcome State Fault Refusal :=
  let w : Width := if size = 8 then .w64 else .w32
  let f := Form.as (form3 team d w a .w64 b w) (if op = .cas then .both else .write)
  memLabel f l s Vals.a fun v => {
    kind := .atomic op v.b v.d, size := size, need := permR ||| permW ||| permA, req := .atomic op, align := size,
    bytes := (bytesOfDWord v.b).take size, sink := sinkOf d (size == 8) }

/-! ### Fences (R286, R373) -/

/-- An access of the slice that a fence of a scope waits for. -/
def fenceWaits (a : Access) (w : SliceName) (m : Scp) : Bool :=
  a.who == w && !a.ofChannel &&
  match m with
  | .p => a.place.scope == .package && !a.performed
  | .l => a.place.isLocal && !a.performed
  | .f => a.place.scope == .fabric
  | .s => a.place.scope == .system && !a.performed

/-- FENCE (R373): waits with class MEMORY for the slice's own accesses of the scope; .S delivers its combined writes. -/
def fence (team : Bool) (m : Scp) (s : State) : Host.Outcome State Fault Refusal :=
  let f := form0 team
  runOwn f s (fun tm _ => heldByLoads team tm) fun tm sl v =>
    let w := tm.name s.cur.strand
    let s := if m = .s then drainCombiner s fun c => c.who == w else s
    if s.inflight.any fun a => fenceWaits a w m then waitSlice s s.cur .memory
    else finishNone v (nextPc sl.pc f.len) s

/-- FENCEF (R399): a flag stored behind the slice's earlier accesses to the same target. -/
def fencef (team : Bool) (d : Dst) (a b : Src) (l : Fin 8) (s : State) : Host.Outcome State Fault Refusal :=
  memLabel (Form.as (form3 team d .w32 a .w64 b .w32) .read) l s offDisp fun v => {
    kind := .flag 0, size := 4, need := permW, req := .flag, align := 4, bytes := (bytesOfDWord v.d).take 4 }

/-- WAITA (R284): a read of the word that completes the instruction when it differs from D. -/
def waita (team : Bool) (d : Dst) (a b : Src) (l : Fin 8) (s : State) : Host.Outcome State Fault Refusal :=
  let f := Form.as (form3 team d .w32 a .w64 b .w32) .read
  memLabel f l s offDisp fun v => {
    kind := .wait (lowWord v.d), size := 4, need := permR, req := .waita, align := 4 }

end Sys2Proof.Machine
end

