-- ==== Sys2Proof/Machine/Cluster.lean ====
section
/-! DEFINITION. Barriers (spec/16 R277 to R283) and active messages at their source (spec/23 R410, R411). -/

namespace Sys2Proof.Machine

/-! ### The barrier word (R280) -/

/-- A barrier word that no check refuses (R280). -/
def barWordOk (s : State) (tm : Team) (w : Word) : Bool :=
  wfield w 31 7 == 0 && decide (barTeam w < widthOf s tm.launch) &&
  decide (1 ≤ (barrierDecl s tm.launch (barTeam w) (barNumber w)).1)

/-- The barrier word checked (R280), then `k`. -/
def withBarrier (s : State) (f : Form) (tm : Team) (sl : Slice) (w : Word) (k : State) : State :=
  let next := nextPc sl.pc f.len
  if !barWordOk s tm w then
    trapSlice s s.cur { cause := .badOperand, field := 2, next := next, info0 := w.setWidth 64 }
  else if teamEnded s tm.launch tm.gang (barTeam w) then barFault s s.cur w next
  else k

/-- BARV (R282): once the slice's stores and atomics have been performed, one arrival; D receives the phase that it counted
in. -/
def barv (team : Bool) (d : Dst) (a b : Src) (s : State) : Host.Outcome State Fault Refusal :=
  let f := form3 team d .w32 a .w32 b .w32
  runOwn f s (fun tm _ => heldByLoads team tm) fun tm sl v =>
    let w := lowWord v.a
    withBarrier s f tm sl w <|
      if storesPending s (tm.name s.cur.strand) then waitSlice s s.cur .memory
      else
        let n := barTeam w
        let ph := ((barrierAt s tm.launch tm.gang n (barNumber w)).map Barrier.phase).getD 0
        let ct := (core s s.cur.core).ct
        finish f sl v (ph.setWidth 64) 0
          (contributeTo s tm.launch tm.gang n (barNumber w) 1 (lowWord v.b).toNat ct)

/-- BARW (R283): waits for a phase, then merges what its contributions published (R365). -/
def barw (team : Bool) (a b : Src) (s : State) : Host.Outcome State Fault Refusal :=
  let f := formAB team a .w32 b .w32
  run f s fun tm sl v =>
    let w := lowWord v.a
    let next := nextPc sl.pc f.len
    match sl.waits with
    | some (.passed ts) => finishNone v next (mergeStamp s s.cur.core ts)
    | _ =>
    withBarrier s f tm sl w <|
      match barrierAt s tm.launch tm.gang (barTeam w) (barNumber w) with
      | none => parkSlice s s.cur (.barrier w (lowWord v.b) next)
      | some bar =>
        if phaseDone bar.phase (lowWord v.b) then finishNone v next (mergeStamp s s.cur.core bar.tsDone)
        else parkSlice s s.cur (.barrier w (lowWord v.b) next)

/-! ### AMSG (R411) -/

/-- The HANDLER field of a message word (R410). -/
def msgHandler (w : Word) : Nat := wfield w 31 24

/-- The LEN field of a message word (R410). -/
def msgLen (w : Word) : Nat := wfield w 22 14

/-- A message word that no check refuses (R411). -/
def msgWordOk (w : Word) : Bool := wfield w 23 23 == 0 && wfield w 13 0 == 0 && decide (msgLen w ≤ 256)

/-- AMSG (R411): walks the path, waits for the slice's stores and the payload registers, is charged, and sends. -/
def amsg (team : Bool) (d : Dst) (a b : Src) (s : State) : Host.Outcome State Fault Refusal :=
  let f := Form.as (form3 team d .w32 a .w32 b .w64) .read
  runOwn f s (fun tm _ => heldByLoads team tm) fun tm sl v =>
    let w := lowWord v.d
    let n := msgLen w
    let o := (lowWord v.a).toNat
    let next := nextPc sl.pc f.len
    if !msgWordOk w then trapSlice s s.cur { cause := .badOperand, field := 1, next := next, info0 := v.d }
    else if o % 4 != 0 || decide (4 * sl.regs.length < o + n) then
      trapSlice s s.cur { cause := .badOperand, field := 2, next := next, info0 := v.a }
    else match walkC s (askOf tm s.cur 0 n permW .amsg) v.b 0 (4 * sl.regs.length) with
      | .error pf => faultSlice s s.cur pf v.b 0 n next
      | .ok p =>
        let name := tm.name s.cur.strand
        if storesPending s name then waitSlice s s.cur .memory
        else if windowPending s name o n then waitPending s s.cur name (regsTouched o n)
        else acceptFor s f tm sl v
          { kind := .message (msgHandler w) 0, size := n, need := permW, req := .amsg, align := 1,
            bytes := readRegs sl o n } p v.b 0

end Sys2Proof.Machine
end

