-- ==== Sys2Proof/Machine/SignSelect.lean ====
section
/-! DEFINITION. The arithmetic of the sign-select array (spec/05 R86 to R92, spec/14 R255 to R257): groups, block products,
canonical digit planes, and the rows that ACCST writes. -/

namespace Sys2Proof.Machine

/-! ### Groups (R86 to R88) -/

/-- The number floor(log2 x) + 1 of a non-zero magnitude m x 2^e. -/
def topBit (m : Nat) (e : Int) : Int := bitLen m + e

/-- floor(m x 2^e / 2^q). -/
def inUnits (m : Nat) (e q : Int) : Nat := if q ≤ e then m * 2 ^ (e - q).toNat else m / 2 ^ (q - e).toNat

/-- A term of a group: an integer times a power of two. -/
structure Term where
  v : Int
  e : Int
  deriving DecidableEq, Repr

/-- The sum of a group's terms that are not zero, truncated to the window and rounded once (R87). -/
def windowSum (ts : List Term) : Word :=
  match ts with
  | [] => 0
  | t :: rest =>
    let top := rest.foldl (fun m t => max m (topBit t.v.natAbs t.e)) (topBit t.v.natAbs t.e)
    let q := top - 60
    let w := ts.foldl (fun w t => w + t.v.sign * (inUnits t.v.natAbs t.e q : Int)) 0
    if w = 0 then 0 else (roundTo fp32 .rne (decide (w < 0)) w.natAbs q).bits

/-- A group's result from the carried value, the poison of its blocks and its products (R87). -/
def groupResult (cv : Word) (poison : Bool) (xs : List Term) : Word :=
  match readF cv with
  | .nan _ => nanF
  | .inf _ => if poison then nanF else cv
  | .fin b m e =>
    if poison then nanF
    else
      let ts := ((⟨if b then -(m : Int) else m, e⟩ : Term) :: xs).filter fun t => t.v != 0
      if ts.isEmpty then cv else windowSum ts

/-! ### Blocks as the array reads them (R85, R256) -/

/-- An operand block: its 62 integers and its scale; `bad` when it poisons what it feeds, `invalid` when its format is not
accepted (R85). -/
structure Operand where
  xs : List Int
  scale : Nat
  bad : Bool
  invalid : Bool
  deriving DecidableEq, Repr

/-- An INT8 or VOID block as an operand (R85, R88). -/
def int8Block (bs : List Byte) : Operand :=
  let f := blockByte bs 0
  let inv := f != 0 && f != 1
  { xs := if f = 1 then (payload bs).map fun b => b.toInt else []
    scale := blockByte bs 1, bad := inv || blockPoison bs, invalid := inv }

/-- A trit as a number. -/
def Trit.toInt : Trit → Int
  | .neg => -1
  | .zero => 0
  | .pos => 1

/-- A packed trit. -/
def tritAt (b j : Nat) : Trit :=
  match b / 3 ^ j % 3 with
  | 0 => .neg
  | 1 => .zero
  | _ => .pos

/-- The column that a WLD decodes from a block (R252). -/
def decodeColumn (bs : List Byte) : Column :=
  let f := blockByte bs 0
  let inv := !(f == 0 || f == 6) || blockInvalid bs
  { trits := if f = 6 && !inv then (payload bs).flatMap fun b => (List.range 5).map fun j => tritAt b.toNat j else []
    scale := BitVec.ofNat 8 (blockByte bs 1), poison := inv || blockPoison bs, invalid := inv }

/-- The sum of products of two lists. -/
def dot : List Int → List Int → Int
  | x :: xs, y :: ys => x * y + dot xs ys
  | _, _ => 0

/-- The exponent of a product of two scales (R86). -/
def scaleExp (a b : Nat) : Int := ((a : Int) - 127) + ((b : Int) - 127)

/-- MMAT's group for a row and column (R86): five A blocks against the column's trits. -/
def mmatGroup (cv : Word) (blocks : List Operand) (col : Column) : Word :=
  let terms := (blocks.zip (List.range blocks.length)).map fun p =>
    (⟨dot p.1.xs (((col.trits.drop (62 * p.2)).take 62).map Trit.toInt), scaleExp p.1.scale col.scale.toNat⟩ : Term)
  groupResult cv (blocks.any Operand.bad || col.poison) terms

/-- MMAD's group for a row and column (R88). -/
def mmadGroup (cv : Word) (a b : Operand) : Word :=
  groupResult cv (a.bad || b.bad) [⟨dot a.xs b.xs, scaleExp a.scale b.scale⟩]

/-! ### Digit planes (R257): timing only -/

/-- The non-adjacent form of an integer: bit p is set where digit p is not 0 (`n` bounds the digits). -/
def nafBits : Nat → Int → List Bool
  | 0, _ => []
  | n + 1, v =>
    if v % 2 = 0 then false :: nafBits n (v / 2)
    else
      let d : Int := if v % 4 = 1 then 1 else -1
      true :: nafBits n ((v - d) / 2)

/-- The planes of a K-step that are not zero. -/
def planes (blocks : List Operand) : Nat :=
  let sound := (blocks.filter fun b => !b.bad).flatMap Operand.xs
  ((List.range 8).filter fun p => sound.any fun v => listGetD (nafBits 8 v) p false).length

/-! ### ACCST's rows (R90 to R92) -/

/-- The bytes of a row in layout .F32. -/
def rowF32 (xs : List Word) : List Byte := (xs.flatMap fun w => bytesOfNat 4 w.toNat) ++ List.replicate 8 0

/-- floor(log2(n/d)) rounded up: the least k with n ≤ d x 2^k, for positive n and d. -/
def ceilLog2 (n d : Nat) : Int :=
  let k : Int := (bitLen n : Int) - bitLen d
  let fits (j : Int) : Bool := if 0 ≤ j then decide (n ≤ d * 2 ^ j.toNat) else decide (n * 2 ^ (-j).toNat ≤ d)
  if fits (k - 1) then k - 1 else if fits k then k else k + 1

/-- A finite value in units of 2^-149. -/
def unitsOf (w : Word) : Int :=
  match readF w with
  | .fin b m e => scaled b m e (-149)
  | .nan _ | .inf _ => 0

/-- The scale of a row (R91). -/
def rowScale (xs : List Word) : Nat :=
  let m := xs.foldl (fun m w => max m (unitsOf w).natAbs) 0
  if m = 0 then 127
  else (max 0 (min 254 (ceilLog2 m (127 * 2 ^ 149) + 127))).toNat

/-- An element of a row as INT8 under the row's scale (R91). -/
def rowInt8 (s : Nat) (w : Word) : Byte :=
  match readF w with
  | .fin b m e =>
    let r := roundAt .rne b m (e - ((s : Int) - 127)) 0
    let v : Int := if b then -(r.1 : Int) else r.1
    BitVec.ofInt 8 (max (-128) (min 127 v))
  | .nan _ | .inf _ => 0

/-- The block of a row in layout .I8. -/
def rowI8 (xs : List Word) : List Byte :=
  if xs.any fun w => (readF w).isNan || (readF w).isInf then 0x01 :: 0xFF :: List.replicate 62 0
  else
    let s := rowScale xs
    0x01 :: BitVec.ofNat 8 s :: xs.map (rowInt8 s)

/-- One BF16 block of elements (R92). -/
def blockB16 (xs : List Word) : List Byte :=
  0x04 :: 127 :: xs.flatMap fun w => bytesOfNat 2 (narrow bf16 .rne w).bits.toNat

/-- The bytes of a row in a layout (R90). -/
def accstRow (fmt : Afm) (xs : List Word) : List Byte :=
  match fmt with
  | .f32 => rowF32 xs
  | .i8 => rowI8 xs
  | .b16 => blockB16 (xs.take 31) ++ blockB16 (xs.drop 31)

end Sys2Proof.Machine
end

