-- ==== Sys2Proof/Machine/Engines.lean ====
section
/-! DEFINITION. Tiles, weight slots, the windows of pending engine commands, and the instructions that issue them (spec/14
R241 to R264, spec/18 R302). -/

namespace Sys2Proof.Machine

/-! ### Tiles (R241) -/

/-- The declared size of a tile in chunks; 0 when undeclared (R62). -/
def Team.tileChunks (tm : Team) (t : Nat) : Nat := listGetD tm.decl.tiles t 0

/-- Where a tile starts in its team's tile region (R214). -/
def Team.tileBase (tm : Team) (t : Nat) : Nat := 512 * (tm.decl.tiles.take t).sum

/-- An EMPTY tile. -/
def Tile.empty : Tile := ⟨0, 0, 0, 0, []⟩

/-- A tile's state. -/
def Team.tile (tm : Team) (t : Nat) : Tile := listGetD tm.tiles t Tile.empty

/-- A team with a tile changed. -/
def Team.modTile (tm : Team) (t : Nat) (f : Tile → Tile) : Team := { tm with tiles := listModify f tm.tiles t }

/-- Chunks `first` to `first + n - 1` as a mask. -/
def chunkMask (first n : Nat) : DWord := BitVec.ofNat 64 ((2 ^ n - 1) * 2 ^ first)

/-- FULL of a tile of n chunks. -/
def Tile.full (x : Tile) (n : Nat) : Bool := decide (0 < n) && x.map &&& chunkMask 0 n == chunkMask 0 n

/-- EMPTY of a tile. -/
def Tile.isEmpty (x : Tile) : Bool := x.map == 0 && x.claim == 0

/-- An error reported at an offset, kept when it is the lowest since STATUS was 0 (R241). -/
def Tile.report (x : Tile) (cause : Byte) (off : Nat) : Tile :=
  if x.status = 0 ∨ off < x.errOff.toNat then { x with status := cause, errOff := BitVec.ofNat 32 off } else x

/-- An error reported by a slot (R252). -/
def WSlot.report (x : WSlot) (cause : Byte) (off : Nat) : WSlot :=
  if x.status = 0 ∨ off < x.errOff.toNat then { x with status := cause, errOff := BitVec.ofNat 32 off } else x

/-- EMPTY of a slot. -/
def WSlot.isEmpty (x : WSlot) : Bool := !x.full && !x.claim

/-- A slot of a bank. -/
def Bank.slot (b : Bank) (n : Nat) : WSlot := listGetD b.wslots n WSlot.empty

/-- A bank with a slot changed. -/
def Bank.modSlot (b : Bank) (n : Nat) (f : WSlot → WSlot) : Bank := { b with wslots := listModify f b.wslots n }

/-- The lowest free Sluice channel, and the lowest free array entry (R244). -/
def Bank.freeChannel (b : Bank) : Option Nat := Table.freeFrom b.sluice 32 0
/-- The lowest free array entry. -/
def Bank.freeEntry (b : Bank) : Option Nat := Table.freeFrom b.array 16 0

/-- A command of a restored team takes its place, or stands where its windows have none (R265). -/
def Bank.place (b : Bank) (r : Reissue) : Option Bank :=
  match r with
  | .tempty e => some { b with tempties := b.tempties ++ [e] }
  | .array a => b.freeEntry.map fun n => { b with array := Table.put b.array n a }
  | .copy c none => b.freeChannel.map fun n => { b with sluice := Table.put b.sluice n c }
  | .copy c (some a) =>
    match b.freeChannel, b.freeEntry with
    | some n, some m => some { b with sluice := Table.put b.sluice n c, array := Table.put b.array m a }
    | _, _ => none

/-- The restored commands take places in their order, until one finds none. -/
def Bank.placeAll : List Reissue → Bank → Bank
  | [], b => { b with reissue := [] }
  | r :: rs, b =>
    match b.place r with
    | some b => Bank.placeAll rs b
    | none => { b with reissue := r :: rs }

/-- Slot copies are written into the slots that are EMPTY (R265). -/
def Bank.placeCopies : List (Nat × Nat × WSlot) → Bank → Bank
  | [], b => { b with copies := [] }
  | (t, n, x) :: rest, b =>
    if (b.slot n).isEmpty then Bank.placeCopies rest (b.modSlot n fun _ => x)
    else let b := Bank.placeCopies rest b; { b with copies := (t, n, x) :: b.copies }

/-- A bank after what restored teams wait for has been given to them where it can be. -/
def Bank.settle (b : Bank) : Bank :=
  if b.reissue = [] ∧ b.copies = [] then b else Bank.placeCopies b.copies (Bank.placeAll b.reissue b)

/-- The state with a core's active bank changed. -/
def modBank (s : State) (c : Nat) (f : Bank → Bank) : State := modCore s c fun k => { k with active := (f k.active).settle }

/-- Bytes of a tile. -/
def Team.readTile (tm : Team) (t off n : Nat) : List Byte := Memory.readBytes tm.scratch (tm.tileBase t + off) n

/-- A team with bytes of a tile written. -/
def Team.writeTile (tm : Team) (t off : Nat) (bs : List Byte) : Team :=
  { tm with scratch := Memory.writeBytes tm.scratch (tm.tileBase t + off) bs }

/-! ### Command words (R245 to R247) -/

/-- CCW ARRIVE. -/
def ccwArrive (w : Word) : Bool := w.getLsbD 29
/-- CCW BAR. -/
def ccwBar (w : Word) : Nat := wfield w 28 25
/-- CCW CHK. -/
def ccwChk (w : Word) : Bool := w.getLsbD 24
/-- The number of chunks of a CCW, 1 to 64. -/
def ccwCount (w : Word) : Nat := wfield w 21 16 + 1
/-- CCW FIRST. -/
def ccwFirst (w : Word) : Nat := wfield w 13 8
/-- CCW TILE. -/
def ccwTile (w : Word) : Nat := wfield w 5 0
/-- ACW VER. -/
def acwVer (w : Word) : BitVec 16 := w.extractLsb' 16 16
/-- ACW ACC. -/
def acwAcc (w : Word) : Nat := wfield w 15 14
/-- ACW KS. -/
def acwKs (w : Word) : Nat := wfield w 13 12
/-- ACW KIND: 1 for MMAD. -/
def acwKind (w : Word) : Bool := w.getLsbD 11
/-- ACW REL. -/
def acwRel (w : Word) : Bool := w.getLsbD 10
/-- ACW OPND. -/
def acwOpnd (w : Word) : Nat := wfield w 5 0
/-- The weight slots that an MMAT reads. -/
def acwSlots (w : Word) : List Nat := (List.range (acwKs w)).map fun g => (wfield w 2 0 + g) % 8
/-- Object word SUB. -/
def objSub (w : Word) : Bool := w.getLsbD 7
/-- Object word SLOT. -/
def objSlot (w : Word) : Bool := w.getLsbD 6
/-- Object word INDEX. -/
def objIndex (w : Word) : Nat := wfield w 5 0

/-- A CCW that no check refuses (R245, R248, R279). -/
def ccwOk (tm : Team) (kind : CopyKind) (w : Word) : Bool :=
  wfield w 31 30 == 0 && wfield w 23 22 == 0 && wfield w 15 14 == 0 && wfield w 7 6 == 0 &&
  !(kind == .cpys && ccwChk w) && decide (0 < tm.tileChunks (ccwTile w)) &&
  decide (ccwFirst w + ccwCount w ≤ tm.tileChunks (ccwTile w)) &&
  (!ccwArrive w || decide (1 ≤ (listGetD tm.decl.bars (ccwBar w) (0, 0)).1))

/-- The bytes of the A operand of an MMAT or MMAD (R255). -/
def operandBytes (mmad : Bool) (ks : Nat) : Nat := (if mmad then 2048 else 10240) * ks

/-- The bytes of MMAD's B operand (R255). -/
def operandBBytes (ks : Nat) : Nat := 3968 * ks

/-- A tile that holds an operand of a size (R255). -/
def tileHolds (tm : Team) (t n : Nat) : Bool := decide (n ≤ 512 * tm.tileChunks t) && decide (0 < tm.tileChunks t)

/-- An ACW of an MMAT or MMAD that no check refuses (R246, R248, R255). -/
def acwOk (tm : Team) (mmad : Bool) (w : Word) : Bool :=
  wfield w 9 6 == 0 && decide (acwAcc w < tm.decl.accs) && decide (1 ≤ acwKs w) && acwKind w == mmad &&
  (if mmad then !acwRel w && tileHolds tm (acwOpnd w) (operandBBytes (acwKs w)) else wfield w 5 3 == 0)

/-- An ACW of an MMAZ or ACCST that no check refuses (R259). -/
def acwPlainOk (tm : Team) (w : Word) : Bool :=
  wfield w 13 0 == 0 && decide (acwAcc w < tm.decl.accs)

/-- The chunks that ACCST writes (R259). -/
def accstChunks (fmt : Afm) : Nat :=
  match fmt with
  | .f32 => 16
  | .i8 => 4
  | .b16 => 8

/-- An object word that no check refuses (R247). -/
def objOk (tm : Team) (w : Word) : Bool :=
  wfield w 31 8 == 0 && (if objSlot w then decide (objIndex w < 8) else decide (0 < tm.tileChunks (objIndex w)))

/-! ### Commands that name a tile or slot (R243, R244, R263, R264) -/

/-- A Sluice command names a tile. -/
def Channel.names (c : Channel) (slot t : Nat) : Bool := c.slot == slot && c.kind != .wld && ccwTile c.cw == t

/-- An array command names a tile. -/
def ArrayCmd.names (a : ArrayCmd) (slot t : Nat) : Bool :=
  a.slot == slot &&
  match a.kind with
  | .mmat | .accst _ => a.tile == t
  | .mmad => a.tile == t || acwOpnd a.acw == t
  | .mmaz => false

/-- A TEMPTY names a tile. -/
def EmptyCmd.names (e : EmptyCmd) (slot t : Nat) : Bool := e.slot == slot && !objSlot e.object && objIndex e.object == t

/-- The Sluice commands of a bank, those that wait for a place too. -/
def Bank.copyCmds (b : Bank) : List Channel :=
  b.sluice.map (·.2) ++ b.reissue.filterMap fun r =>
    match r with
    | .copy c _ => some c
    | .array _ | .tempty _ => none

/-- The array commands of a bank, those that wait for a place too. -/
def Bank.arrayCmds (b : Bank) : List ArrayCmd :=
  b.array.map (·.2) ++ b.reissue.filterMap fun r =>
    match r with
    | .copy _ f => f
    | .array a => some a
    | .tempty _ => none

/-- The TEMPTYs of a bank, those that wait for a place too. -/
def Bank.emptyCmds (b : Bank) : List EmptyCmd :=
  b.tempties ++ b.reissue.filterMap fun r =>
    match r with
    | .tempty e => some e
    | .copy _ _ | .array _ => none

/-- The orders of a team's incomplete commands that name a tile. -/
def Bank.naming (b : Bank) (slot t : Nat) : List Nat :=
  ((b.copyCmds.filter fun c => c.names slot t).map Channel.order) ++
  ((b.arrayCmds.filter fun a => a.names slot t).map ArrayCmd.order) ++
  ((b.emptyCmds.filter fun e => e.names slot t).map EmptyCmd.order)

/-- The orders of a team's incomplete TEMPTYs and CPYSs of a tile (R243). -/
def Bank.fences (b : Bank) (slot t : Nat) : List Nat :=
  ((b.copyCmds.filter fun c => c.kind == .cpys && c.names slot t).map Channel.order) ++
  ((b.emptyCmds.filter fun e => e.names slot t).map EmptyCmd.order)

/-- No TEMPTY or CPYS of a tile issued before a command is incomplete (R243). -/
def Bank.pastFences (b : Bank) (slot t order : Nat) : Bool := (b.fences slot t).all fun o => decide (order ≤ o)

/-- No command naming a tile issued before a TEMPTY or CPYS is incomplete (R243). -/
def Bank.allBefore (b : Bank) (slot t order : Nat) : Bool := (b.naming slot t).all fun o => decide (order ≤ o)

/-- A Sluice command fills a slot. -/
def Channel.fills (c : Channel) (n : Nat) : Bool := c.kind == .wld && wfield c.cw 2 0 == n

/-- An array command reads a slot. -/
def ArrayCmd.readsSlot (a : ArrayCmd) (n : Nat) : Bool := a.kind == .mmat && (acwSlots a.acw).contains n

/-- The commands of every team that read or fill a slot. -/
def Bank.slotUsers (b : Bank) (n : Nat) : Nat :=
  (b.copyCmds.filter fun c => c.fills n).length + (b.arrayCmds.filter fun a => a.readsSlot n).length

/-- PEND of an object (R264). -/
def Bank.pend (b : Bank) (slot : Nat) (w : Word) : Nat :=
  let n := objIndex w
  if objSlot w then b.slotUsers n + (b.emptyCmds.filter fun e => objSlot e.object && objIndex e.object == n).length
  else (b.naming slot n).length

/-- The commands that hold an object, by order and PC: of a tile those of its team that name it, of a slot those of every team that
fill, read or empty it (R210, R264). -/
def Bank.holders (b : Bank) (slot : Nat) (w : Word) : List (Nat × Word) :=
  let n := objIndex w
  ((b.copyCmds.filter fun c => if objSlot w then c.fills n else c.names slot n).map fun c => (c.order, c.pc)) ++
  ((b.arrayCmds.filter fun a => if objSlot w then a.readsSlot n else a.names slot n).map fun a => (a.order, a.pc)) ++
  ((b.emptyCmds.filter fun e => if objSlot w then objSlot e.object && objIndex e.object == n else e.names slot n).map
    fun e => (e.order, e.pc))

/-- The PC of the command issued first among some. -/
def firstIssued : List (Nat × Word) → Option Word
  | [] => none
  | x :: xs => some ((xs.foldl (fun m y => if y.1 < m.1 then y else m) x).2)

/-- The current slice stalls with class TILE for an engine command (R107, R210). -/
def waitTile (s : State) (held : List (Nat × Word)) : State :=
  modSlice (waitSlice s s.cur .tile) s.cur fun sl => { sl with blame := firstIssued held }

/-- The Sluice commands that hold channels. -/
def Bank.channelsHeld (b : Bank) : List (Nat × Word) := b.sluice.map fun p => (p.2.order, p.2.pc)

/-- The commands that hold array entries. -/
def Bank.entriesHeld (b : Bank) : List (Nat × Word) := b.array.map fun p => (p.2.order, p.2.pc)

/-! ### Issuing -/

/-- The trap of a command word or value (R248). -/
def commandTrap (f : Form) (pc : Word) (fld : BitVec 3) (v : DWord) : TrapInfo :=
  { cause := .badOperand, field := fld, next := nextPc pc f.len, info0 := v }

/-- The memory checks of an engine command at issue (R248 items 2 and 3). -/
def memoryCheck (lw off : DWord) (len : Nat) (need : BitVec 6) : Option AccessStop :=
  if field off 63 48 ≠ 0 ∨ 2 ^ 48 < off.toNat + len then
    some (.fault (({ lw := lw } : Going).fail .c need none .offsetRange 3))
  else if off.toNat % 64 ≠ 0 then some .misaligned
  else none

/-- What a copy's path must grant (R250). -/
def copyNeed (k : CopyKind) : BitVec 6 :=
  match k with
  | .cpy | .cpym | .cpyf | .wld => permR ||| permM
  | .cpys | .wst => permW ||| permM

/-- The bytes that a copy moves (R250). -/
def copyLength (k : CopyKind) (w : Word) : Nat :=
  match k with
  | .wld => 3968
  | .cpy | .cpym | .cpyf | .cpys | .wst => 512 * ccwCount w

/-- A copy's command word in the active bank of the current core, and a CPYM's follow-on with it (R244, R253). -/
def enterCopy (s : State) (kind : CopyKind) (sl : Slice) (cw odd flag : Word) (lw off : DWord) (chan : Nat)
    (entry : Option Nat) : State :=
  let after := s.nextAccess
  modBank s s.cur.core fun b =>
    let o := b.nextOrder
    let c : Channel := {
      kind := kind, slot := s.cur.slot, cw := cw, odd := odd, flag := flag, lw := lw, off := off, pc := sl.pc, order := o,
      after := after, started := false, landed := [], got := [], walked := [], fault := .none, err := none, ts := 0 }
    let b := { b with sluice := Table.put b.sluice chan c, nextOrder := o + 1 }
    match entry with
    | none => b
    | some e =>
      { b with array := Table.put b.array e {
          kind := if acwKind odd then .mmad else .mmat, slot := s.cur.slot, acw := odd, tile := ccwTile cw,
          arg := 0xFFFFFFFF, pc := sl.pc, order := o, after := after, started := false, since := 0, waits := true, slots := [] } }

/-- The form of a copy command (R249). -/
def copyForm (kind : CopyKind) (d : Dst) (a b : Src) : Form :=
  (form3 true d (match kind with
    | .cpym | .cpyf => .w64
    | .cpy | .cpys | .wld | .wst => .w32) a .w64 b .w32).as .read

/-- The command word check of a copy (R248 item 1): the field and value refused. -/
def copyWordBad (tm : Team) (kind : CopyKind) (v : Vals) : Option (BitVec 3 × DWord) :=
  let w := lowWord v.d
  let odd := highWord v.d
  match kind with
  | .wld => if wfield w 31 3 ≠ 0 then some (1, w.setWidth 64) else none
  | .cpy | .cpys | .wst => if !ccwOk tm kind w then some (1, w.setWidth 64) else none
  | .cpym =>
    if !ccwOk tm kind w then some (1, w.setWidth 64)
    else if !acwOk tm (acwKind odd) odd then some (1, odd.setWidth 64)
    else if !tileHolds tm (ccwTile w) (operandBytes (acwKind odd) (acwKs odd)) then some (1, w.setWidth 64)
    else none
  | .cpyf =>
    let b := lowWord v.b
    if !ccwOk tm kind w then some (1, w.setWidth 64)
    else if b.getLsbD 31 || wfield b 27 20 != 0 || wfield b 1 0 != 0 then some (3, b.setWidth 64)
    else none

/-- The label word of a gang team's tile region (R222). -/
def scratchLw (n : Nat) : DWord := BitVec.ofNat 64 ((0xFF00 + n) * 2 ^ 48)

/-- CPYF's flag checked at station C (R253): the fault, with its label word and offset. -/
def flagFault (s : State) (tm : Team) (kind : CopyKind) (w : Word) : Option (PathFault × DWord × DWord) :=
  match kind with
  | .cpyf =>
    let lw := scratchLw (wfield w 30 28)
    let off := BitVec.ofNat 64 (wfield w 19 0)
    match walkC s (askOf tm s.cur off 4 permW .plain) lw off 0 with
    | .error pf => some (pf, lw, off)
    | .ok _ => none
  | .cpy | .cpym | .cpys | .wld | .wst => none

/-- A Sluice command or weight load issues (R244, R248 to R250). -/
def copyIssue (kind : CopyKind) (d : Dst) (a b : Src) (l : Fin 8) (s : State) : Host.Outcome State Fault Refusal :=
  let f := copyForm kind d a b
  runOwn f s (fun tm _ => do heldByLoads true tm; heldByLabel s true tm l) fun tm sl v =>
    let next := nextPc sl.pc f.len
    let w := lowWord v.d
    let lw := tm.label l
    let off := if kind = .cpyf then v.a else offDisp v
    let len := copyLength kind w
    match copyWordBad tm kind v with
    | some (fld, x) => trapSlice s s.cur (commandTrap f sl.pc fld x)
    | none =>
      match memoryCheck lw off len (copyNeed kind) with
      | some st => stopAccess s s.cur st lw off len next
      | none =>
        match flagFault s tm kind (lowWord v.b) with
        | some (pf, flw, foff) => faultSlice s s.cur pf flw foff 4 next
        | none =>
          let bank := (core s s.cur.core).active
          match bank.freeChannel with
          | none => waitTile s bank.channelsHeld
          | some chan =>
            if kind = .cpym then
              match bank.freeEntry with
              | none => waitTile s bank.entriesHeld
              | some e => finishNone v next (enterCopy s kind sl w (highWord v.d) 0 lw off chan (some e))
            else finishNone v next (enterCopy s kind sl w (highWord v.d) (lowWord v.b) lw off chan none)

/-- An array command enters the window (R244). -/
def enterArray (s : State) (sl : Slice) (kind : ArrayKind) (acw : Word) (tile : Nat) (arg : Word) (e : Nat) : State :=
  let after := s.nextAccess
  modBank s s.cur.core fun b =>
    { b with
      array := Table.put b.array e {
        kind := kind, slot := s.cur.slot, acw := acw, tile := tile, arg := arg, pc := sl.pc, order := b.nextOrder,
        after := after, started := false, since := 0, waits := false, slots := [] }
      nextOrder := b.nextOrder + 1 }

/-- An array command issues once its words pass and the window has room (R244, R248). -/
def arrayIssue (f : Form) (s : State) (check : Team → Vals → Option (BitVec 3 × DWord)) (kind : ArrayKind)
    (tile : Vals → Nat) (arg : Vals → Word) : Host.Outcome State Fault Refusal :=
  run f s fun tm sl v =>
    match check tm v with
    | some (fld, x) => trapSlice s s.cur (commandTrap f sl.pc fld x)
    | none =>
      match (core s s.cur.core).active.freeEntry with
      | none => waitTile s (core s s.cur.core).active.entriesHeld
      | some e =>
        finishNone v (nextPc sl.pc f.len) (enterArray s sl kind (lowWord v.d) (tile v) (arg v) e)

/-- A value refused in a field. -/
def refuseIf (bad : Bool) (fld : BitVec 3) (v : DWord) : Option (BitVec 3 × DWord) := if bad then some (fld, v) else none

/-! ### The instructions -/

/-- CPY (R250). -/
def execCpy (d : Dst) (a b : Src) (l : Fin 8) (s : State) : Host.Outcome State Fault Refusal := copyIssue .cpy d a b l s
/-- CPYM (R250, R253). -/
def execCpym (d : Dst) (a b : Src) (l : Fin 8) (s : State) : Host.Outcome State Fault Refusal := copyIssue .cpym d a b l s
/-- CPYS (R250). -/
def execCpys (d : Dst) (a b : Src) (l : Fin 8) (s : State) : Host.Outcome State Fault Refusal := copyIssue .cpys d a b l s
/-- CPYF (R250, R253). -/
def execCpyf (d : Dst) (a b : Src) (l : Fin 8) (s : State) : Host.Outcome State Fault Refusal := copyIssue .cpyf d a b l s
/-- WLD (R250, R252). -/
def execWld (d : Dst) (a b : Src) (l : Fin 8) (s : State) : Host.Outcome State Fault Refusal := copyIssue .wld d a b l s
/-- WST (R250, R303). -/
def execWst (d : Dst) (a b : Src) (l : Fin 8) (s : State) : Host.Outcome State Fault Refusal := copyIssue .wst d a b l s

/-- The checks of an MMAT or MMAD (R248, R255). -/
def multiplyCheck (mmad : Bool) (tm : Team) (v : Vals) : Option (BitVec 3 × DWord) :=
  let w := lowWord v.d
  match refuseIf (!acwOk tm mmad w) 1 v.d with
  | some x => some x
  | none => refuseIf (!(decide (v.a.toNat < 64) && tileHolds tm v.a.toNat (operandBytes mmad (acwKs w)))) 2 v.a

/-- MMAT (R256). -/
def execMmat (d : Dst) (a b : Src) (s : State) : Host.Outcome State Fault Refusal :=
  arrayIssue ((form3 true d .w32 a .w32 b .w32).as .read) s (multiplyCheck false) .mmat (fun v => v.a.toNat)
    fun v => lowWord v.b

/-- MMAD (R256). -/
def execMmad (d : Dst) (a b : Src) (s : State) : Host.Outcome State Fault Refusal :=
  arrayIssue ((form3 true d .w32 a .w32 b .w32).as .read) s (multiplyCheck true) .mmad (fun v => v.a.toNat)
    fun v => lowWord v.b

/-- MMAZ (R259). -/
def execMmaz (d : Dst) (a : Src) (s : State) : Host.Outcome State Fault Refusal :=
  arrayIssue ((form2 true d .w32 a .w32).as .read) s (fun tm v => refuseIf (!acwPlainOk tm (lowWord v.d)) 1 v.d) .mmaz
    (fun _ => 0) fun v => lowWord v.a

/-- The checks of an ACCST (R248, R259). -/
def accstCheck (fmt : Afm) (tm : Team) (v : Vals) : Option (BitVec 3 × DWord) :=
  match refuseIf (!acwPlainOk tm (lowWord v.d)) 1 v.d with
  | some x => some x
  | none =>
    match refuseIf (!(decide (v.a.toNat < 64) && decide (0 < tm.tileChunks v.a.toNat))) 2 v.a with
    | some x => some x
    | none =>
      refuseIf (!(decide (v.b.toNat < 64) && decide (v.b.toNat + accstChunks fmt ≤ tm.tileChunks v.a.toNat))) 3 v.b

/-- ACCST (R259). -/
def execAccst (d : Dst) (a b : Src) (m : Afm) (s : State) : Host.Outcome State Fault Refusal :=
  arrayIssue ((form3 true d .w32 a .w32 b .w32).as .read) s (accstCheck m) (.accst m) (fun v => v.a.toNat)
    fun v => lowWord v.b

/-- An accumulator of a team. -/
def Team.acc (tm : Team) (n : Nat) : Acc := listGetD tm.accs n ⟨[], 0, 0, none⟩

/-- ACCV (R260). -/
def execAccv (d : Dst) (a : Src) (s : State) : Host.Outcome State Fault Refusal :=
  let f := form2 true d .w32 a .w32
  run f s fun tm sl v =>
    if tm.decl.accs ≤ v.a.toNat then trapSlice s s.cur (commandTrap f sl.pc 2 v.a)
    else
      let c := tm.acc v.a.toNat
      finish f sl v (BitVec.ofNat 64 (c.status.toNat * 65536 + c.version.toNat)) 0 s

/-- The condition of a TWAIT (R262). -/
def twaitHolds (tm : Team) (b : Bank) (w : Word) (m : Twc) (mask : DWord) : Bool :=
  let n := objIndex w
  if objSlot w then (if objSub w then (b.slot n).isEmpty else (b.slot n).full)
  else match m with
    | .mask => (tm.tile n).map &&& mask == mask
    | .full => if objSub w then (tm.tile n).isEmpty else (tm.tile n).full (tm.tileChunks n)

/-- Times folded. -/
def foldTimes (x : Option Word) (ts : List (Option Word)) : Option Word :=
  ts.foldl (fun x t =>
    match t with
    | none => x
    | some t => foldTime x t) x

/-- The time held with the MAP bits of a mask. -/
def Tile.tsOf (x : Tile) (mask : DWord) : Option Word :=
  foldTimes none (((List.range 64).filter fun k => mask.getLsbD k).map (Table.get x.ts))

/-- The time held with a tile's FULL (R365): that of every declared chunk. -/
def Tile.tsFull (x : Tile) (chunks : Nat) : Option Word := x.tsOf (chunkMask 0 chunks)

/-- The time held with a tile's EMPTY (R365): that of the CPYS which set it. -/
def Tile.tsEmpty (x : Tile) : Option Word := Table.get x.ts 64

/-- The time held with the bits that a TWAIT has found set (R365). -/
def twaitTs (tm : Team) (b : Bank) (w : Word) (m : Twc) (mask : DWord) : Option Word :=
  let n := objIndex w
  if objSlot w then (b.slot n).ts
  else match m with
    | .mask => (tm.tile n).tsOf mask
    | .full => if objSub w then (tm.tile n).tsEmpty else (tm.tile n).tsFull (tm.tileChunks n)

/-- TWAIT (R262): stalls with class TILE until the condition holds. -/
def execTwait (a b : Src) (m : Twc) (s : State) : Host.Outcome State Fault Refusal :=
  let f := formAB true a .w32 b .w64
  run f s fun tm sl v =>
    let w := lowWord v.a
    let bank := (core s s.cur.core).active
    let next := nextPc sl.pc f.len
    if !objOk tm w then trapSlice s s.cur (commandTrap f sl.pc 2 v.a)
    else if m = .mask ∧ (objSlot w || objSub w) then
      trapSlice s s.cur { cause := .badModifier, field := 4, next := next, info0 := 1 }
    else if twaitHolds tm bank w m v.b then finishNone v next (mergeStamp s s.cur.core (twaitTs tm bank w m v.b))
    else waitTile s (bank.holders s.cur.slot w)

/-- TEMPTY (R263): a command that empties its object when it becomes eligible. -/
def execTempty (a : Src) (s : State) : Host.Outcome State Fault Refusal :=
  let f : Form := { team := true, len := 1 + Src.lits a, role := .none, a := a, aw := .w32 }
  run f s fun tm sl v =>
    let w := lowWord v.a
    if !objOk tm w || objSub w then trapSlice s s.cur (commandTrap f sl.pc 2 v.a)
    else finishNone v (nextPc sl.pc f.len) (modBank s s.cur.core fun b =>
      { b with tempties := b.tempties ++ [⟨s.cur.slot, w, b.nextOrder, sl.pc⟩], nextOrder := b.nextOrder + 1 })

/-- The status word of an object (R264). -/
def tstatWord (tm : Team) (b : Bank) (slot : Nat) (w : Word) : DWord :=
  let n := objIndex w
  let mk (errOff : Word) (status : Byte) (claim empty full : Bool) : DWord :=
    BitVec.ofNat 64 (errOff.toNat * 2 ^ 32 + status.toNat * 2 ^ 24 + min 255 (b.pend slot w) * 256 + bitAt claim 2 +
      bitAt empty 1 + bitAt full 0)
  if objSlot w then
    let x := b.slot n
    mk x.errOff x.status x.claim x.isEmpty x.full
  else
    let x := tm.tile n
    mk x.errOff x.status (x.claim != 0) x.isEmpty (x.full (tm.tileChunks n))

/-- The time held with the bits that a TSTAT shows set (R365). -/
def tstatTs (tm : Team) (b : Bank) (w : Word) : Option Word :=
  let n := objIndex w
  let x := tm.tile n
  if objSlot w then (if (b.slot n).full || (b.slot n).isEmpty then (b.slot n).ts else none)
  else if objSub w then x.tsOf x.map
  else if x.full (tm.tileChunks n) then x.tsFull (tm.tileChunks n)
  else if x.isEmpty then x.tsEmpty
  else none

/-- TSTAT (R264). -/
def execTstat (d : Dst) (a : Src) (s : State) : Host.Outcome State Fault Refusal :=
  let f := form2 true d .w64 a .w32
  run f s fun tm sl v =>
    let w := lowWord v.a
    let bank := (core s s.cur.core).active
    if !objOk tm w || (objSub w && objSlot w) then trapSlice s s.cur (commandTrap f sl.pc 2 v.a)
    else
      let x := if objSub w then (tm.tile (objIndex w)).map else tstatWord tm bank s.cur.slot w
      finish f sl v x 0 (mergeStamp s s.cur.core (tstatTs tm bank w))

/-! ### Refresh of the weight store (R301, R302) -/

/-- A time in nominal cycles, in cycles of the clock in force (R302, R448). -/
def atClock (s : State) (n : Nat) : Nat := if s.service.halved then n / 2 else n

/-- The word that WREF writes (R302). -/
def wrefOp (s : State) (bank : Nat) : Nat :=
  let p := s.wall % (32 * refreshWindow)
  let start := refreshWindow * bank
  if refreshing s bank then 2 ^ 31 + atClock s (start + refreshWindow - p)
  else atClock s ((start + 32 * refreshWindow - p) % (32 * refreshWindow))

/-- WREF (R302). -/
def execWref (d : Dst) (a : Src) (s : State) : Host.Outcome State Fault Refusal :=
  let f := form2 true d .w32 a .w32
  run f s fun _ sl v =>
    if 32 ≤ v.a.toNat then trapSlice s s.cur (commandTrap f sl.pc 2 v.a)
    else finish f sl v (BitVec.ofNat 64 (wrefOp s v.a.toNat)) 0 s

end Sys2Proof.Machine
end

