-- ==== Sys2Proof/Machine/EngineEvents.lean ====
section
/-! DEFINITION. The engines at work: copies and weight loads (spec/14 R242, R251 to R254), the array (R256 to R261), TEMPTY
(R263), with the times of R364 to R366. An event whose condition does not hold leaves the state as it is. -/

namespace Sys2Proof.Machine

/-! ### What an engine may do now -/

/-- A team's gang stands in place, its world may run, and its die serves (R98, R304, R321). -/
def enginesMove (s : State) (c slot : Nat) : Bool :=
  match teamAt s ⟨c, slot⟩ with
  | none => false
  | some tm =>
    !(die s (dieOf c)).stopped && gangRuns s tm.launch tm.gang && worldRuns s tm.world

/-- The stores and atomics that an address slice made before its `after`-th access have been performed, in package and local
scope (R366). -/
def storesDone (s : State) (w : SliceName) (after : Nat) : Bool :=
  s.inflight.all fun a => !(a.who == w && decide (a.n < after) && !a.performed && a.writes &&
    (a.place.scope == .package || a.place.isLocal))

/-- The chunks that a copy moves, or the 512-byte units of a WLD (R250, R251). -/
def Channel.units' (c : Channel) : Nat :=
  match c.kind with
  | .wld => 8
  | .cpy | .cpym | .cpyf | .cpys | .wst => ccwCount c.cw

/-- The bytes of a unit; a WLD's last has 384. -/
def Channel.unitBytes (c : Channel) (u : Nat) : Nat := if c.kind = .wld ∧ u = 7 then 384 else 512

/-- A copy writes its tile. -/
def CopyKind.fillsTile : CopyKind → Bool
  | .cpy | .cpym | .cpyf => true
  | .cpys | .wst | .wld => false

/-- A tile takes a writer of chunks `first` to `first + n - 1` (R242). -/
def Tile.takesWriter (x : Tile) (chunks first n : Nat) : Bool :=
  !x.full chunks && (x.map ||| x.claim) &&& chunkMask first n == 0

/-- A started writer claims its chunks, and the tile is EMPTY no more (R242). -/
def Tile.claimChunks (x : Tile) (first n : Nat) : Tile :=
  { x with claim := x.claim ||| chunkMask first n, ts := Table.del x.ts 64 }

/-- Chunks that have landed, their time held with their MAP bits (R242, R365). -/
def Tile.landChunks (x : Tile) (first n : Nat) (t : Option Word) : Tile :=
  { x with
    map := x.map ||| chunkMask first n, claim := x.claim &&& ~~~chunkMask first n
    ts := match t with
      | none => x.ts
      | some t => (List.range n).foldl (fun m k => Table.put m (first + k) t) x.ts }

/-- A Sluice command is eligible (R242, R243, R252, R366). -/
def copyEligible (s : State) (c : Nat) (b : Bank) (ch : Channel) : Bool :=
  match teamAt s ⟨c, ch.slot⟩ with
  | none => false
  | some tm =>
    let t := ccwTile ch.cw
    !ch.started && ch.fault == .none && enginesMove s c ch.slot && storesDone s (tm.name none) ch.after &&
    match ch.kind with
    | .wld => (b.slot (wfield ch.cw 2 0)).isEmpty
    | .cpys => b.allBefore ch.slot t ch.order && (tm.tile t).full (tm.tileChunks t)
    | .wst => b.pastFences ch.slot t ch.order && (tm.tile t).full (tm.tileChunks t)
    | .cpy | .cpym | .cpyf =>
      b.pastFences ch.slot t ch.order &&
        (tm.tile t).takesWriter (tm.tileChunks t) (ccwFirst ch.cw) (ccwCount ch.cw)

/-- The state with a channel's command changed. -/
def modChannel (s : State) (c chan : Nat) (f : Channel → Channel) : State :=
  modBank s c fun b =>
    match Table.get b.sluice chan with
    | none => b
    | some ch => { b with sluice := Table.put b.sluice chan (f ch) }

/-- A gated unit of a core takes work of a world (R426): it clears itself where its tag names another, which is timing only. -/
def takeUnit (s : State) (c slot unit : Nat) : State :=
  match teamAt s ⟨c, slot⟩ with
  | none => s
  | some tm => modCore s c fun k => { k with unitWorlds := Table.put k.unitWorlds unit tm.world }

/-- A Sluice command starts (R242, R252, R364). -/
def startCopy (s : State) (c chan : Nat) (ch : Channel) : State :=
  let s := takeUnit s c ch.slot (if ch.kind = .wld then 1 else 2 + chan)
  let s := modCore s c fun k => { k with sl := laterOf k.sl k.ct }
  let s := modChannel s c chan fun ch => { ch with started := true }
  match ch.kind with
  | .wld => modBank s c fun b => b.modSlot (wfield ch.cw 2 0) fun x => { x with claim := true, cols := [], ts := none }
  | .cpy | .cpym | .cpyf =>
    modTeam s ⟨c, ch.slot⟩ fun tm => tm.modTile (ccwTile ch.cw) fun x => x.claimChunks (ccwFirst ch.cw) (ccwCount ch.cw)
  | .cpys | .wst => s

/-- COPY_START (R242, R244): the earliest issued of the eligible Sluice commands starts. -/
def execCopyStart (c chan : Nat) (s : State) : Host.Outcome State Fault Refusal :=
  let b := (core s c).active
  .next <|
    match Table.get b.sluice chan with
    | none => s
    | some ch =>
      if copyEligible s c b ch && b.sluice.all fun p => !(copyEligible s c b p.2 && decide (p.2.order < ch.order))
      then startCopy s c chan ch else s

/-! ### Moving the bytes of a unit -/

/-- How a unit's access comes out at its place: moved, or held up (R301, R304). -/
inductive Landing where
  | moved (s : State) (bs : List Byte)
  | held (h : Hold)
  deriving DecidableEq, Repr

/-- The sectors of a line that bytes cover whole. -/
def wholeSectors (pa size line : Nat) : List Nat :=
  (List.range 4).filter fun i => decide (pa ≤ 128 * line + 32 * i ∧ 128 * line + 32 * i + 32 ≤ pa + size)

/-- Main memory read or written by a party other than a slice (R364): each line once, under its time. -/
def streamMain (s : State) (p : Party) (pa key size : Nat) (write : Option (List Byte)) : Landing :=
  let ls := linesOf pa size
  match ls.findSome? fun l => lineHold s l write.isSome with
  | some h => .held h
  | none =>
    match write with
    | none => .moved (ls.foldl (fun s l => (renewLine s p l).1) s) (readKeyed s key pa size)
    | some bs => .moved (ls.foldl (fun s l => stampStore s p l (wholeSectors pa size l)) (writeKeyed s key pa bs)) []

/-- A block of a die's weight store read, or written by a WST, which ends its error (R300, R303, R304). -/
def streamBlock (s : State) (d block : Nat) (write : Option (List Byte)) : Landing :=
  match blockHold s d block write.isSome with
  | some h => .held h
  | none =>
    match write with
    | some bs =>
      .moved (modDie s d fun k => { k with
        weights := Memory.writeBytes k.weights (64 * block) bs, badBlocks := k.badBlocks.filter fun b => b != block }) []
    | none => .moved s (Memory.readBytes (die s d).weights (64 * block) 64)

/-- A unit's bytes moved where its path ends in the package's memory, a tile or the host window. -/
def moveUnit (s : State) (c : Nat) (w : SliceName) (d : Dest) (size : Nat) (write : Option (List Byte)) : Landing :=
  match d with
  | .main pa key _ _ =>
    match streamMain s (.sluice c) pa key size write with
    | .moved s bs => .moved (noteTime s w.launch (core s c).sl) bs
    | .held h => .held h
  | .scratch g off =>
    match write with
    | none => .moved s (readScratch s w g off size)
    | some bs => .moved (writeScratch s w g off bs) []
  | .host pa =>
    match write with
    | none =>
      let s := drainTouching s w pa size
      .moved s (Memory.readBytes s.hostMem pa size)
    | some bs => .moved { s with hostMem := Memory.writeBytes s.hostMem pa bs } []
  | .weight _ _ | .regs _ | .stack _ | .fabric _ _ | .window _ _ _ _ => .held .waits

/-! ### A unit lands (R241, R251, R252) -/

/-- The lowest of two errors. -/
def lowerError (x : Option (Byte × Nat)) (cause : Byte) (off : Nat) : Option (Byte × Nat) :=
  match x with
  | some (c, o) => if o ≤ off then some (c, o) else some (cause, off)
  | none => some (cause, off)

/-- A block that a checking copy calls invalid (R85, R250): WST takes TRIT5 and VOID blocks only. DESIGN CHOICE (log 104): R251 says
that a poison block gives no status and that an invalid one does; a block that is both gives one. -/
def refusedBlock (wst : Bool) (bs : List Byte) : Bool :=
  blockInvalid bs || (wst && !(blockByte bs 0 == 0 || blockByte bs 0 == 6))

/-- The first refused block of a chunk, by its place. -/
def firstRefused (wst : Bool) (bs : List Byte) : Option Nat :=
  (List.range 8).find? fun j => refusedBlock wst ((bs.drop (64 * j)).take 64)

/-- What a landed chunk's check adds to a copy's error (R251). -/
def Channel.check (ch : Channel) (k : Nat) (bs : List Byte) : Option (Byte × Nat) :=
  if ccwChk ch.cw then
    match firstRefused (ch.kind == .wst) bs with
    | none => ch.err
    | some j => lowerError ch.err 0x25 (512 * k + 64 * j)
  else ch.err

/-- A slot with columns decoded from block `first` on (R252). -/
def WSlot.decode (x : WSlot) (first : Nat) (bs : List Byte) : WSlot :=
  (List.range (bs.length / 64)).foldl (fun x j =>
    let col := decodeColumn ((bs.drop (64 * j)).take 64)
    let x := { x with cols := Table.put x.cols (first + j) col }
    if col.invalid then x.report 0x25 (64 * (first + j)) else x) x

/-- Bytes of a tile are touched (R213). -/
def touchTile (s : State) (t : TeamId) (n off size : Nat) : State :=
  match teamAt s t with
  | none => s
  | some tm => touchTiles s t.core t.slot (tm.tileBase n + off) size

/-- A unit has landed with the bytes read, or written (R241, R251, R252). DESIGN CHOICE (log 103): R254 lets a plain access that races
with a copy meet each 4-byte word before or after the copy's write of it; here the 512 bytes of a chunk are written in one step. -/
def landUnit (s : State) (c chan : Nat) (ch : Channel) (u : Nat) (bs : List Byte) : State :=
  let now := (core s c).sl
  let k := ccwFirst ch.cw + u
  let s := modChannel s c chan fun x =>
    { x with
      landed := x.landed ++ [u], walked := x.walked.filter fun y => y.unit != u, got := x.got.filter fun p => p.1 / 512 != u
      err := if ch.kind = .wld then x.err else ch.check k bs, ts := now }
  match ch.kind with
  | .wld => modBank s c fun b => b.modSlot (wfield ch.cw 2 0) fun x => x.decode (8 * u) bs
  | .cpy | .cpym | .cpyf =>
    touchTile (modTeam s ⟨c, ch.slot⟩ fun tm =>
      (tm.writeTile (ccwTile ch.cw) (512 * k) bs).modTile (ccwTile ch.cw) fun x => x.landChunks k 1 (some now))
      ⟨c, ch.slot⟩ (ccwTile ch.cw) (512 * k) 512
  | .cpys | .wst => touchTile s ⟨c, ch.slot⟩ (ccwTile ch.cw) (512 * k) 512

/-! ### Faults of a channel (R251, R304, R349) -/

/-- The requester of a channel's fault record (R349). -/
def channelRequester (s : State) (c chan : Nat) (ch : Channel) (tm : Team) (u : Nat) : Requester :=
  { identity := identityBits s.regs.number ⟨c, ch.slot, some (chan % 32)⟩, chan := true, pc := ch.pc, world := tm.world,
    off := ch.off + BitVec.ofNat 64 (512 * u), size := ch.unitBytes u }

/-- A command whose unit is to walk afresh, from its first block (R251). -/
def Channel.rewalk (ch : Channel) (u : Nat) : Channel :=
  { ch with walked := ch.walked.filter fun y => y.unit != u, got := ch.got.filter fun p => p.1 / 512 != u }

/-- A command stopped by a fault. -/
def Channel.stop (ch : Channel) (f : EngineFault) : Channel := { ch with fault := f }

/-- A channel that an uncorrectable error freezes (R304, R305). What a later kill reports is left open (log 17). -/
def freezeChannel (s : State) (c chan : Nat) (ch : Channel) (tm : Team) (off kind unit addr : Nat) : State :=
  let s := modChannel s c chan fun y => (y.rewalk (off / 512)).stop (.frozen (Config.killStatus kind) off)
  let who := BitVec.ofNat 64 (identityBits s.regs.number ⟨c, ch.slot, some (chan % 32)⟩ + 1)
  { s with waiting := s.waiting ++
      [⟨.owner, dieError s kind (unit / 384) (unit % 384) addr who, .channel (tm.name none) ch.order, false⟩] }

/-- What holds up a channel's unit at an offset of its command: it waits, or an uncorrectable error freezes the channel (R301, R304). -/
def holdChannel (s : State) (c chan : Nat) (ch : Channel) (tm : Team) (off : Nat) (h : Hold) : State :=
  match h with
  | .waits | .fetch _ => s
  | .freezes kind unit addr => freezeChannel s c chan ch tm off kind unit addr

/-- Where in a unit the 64-byte block stands whose line at a place holds the unit up (R251, R304). -/
def heldBlock (d : Dest) (h : Hold) : Nat :=
  match d, h with
  | .main pa _ _ _, .freezes _ _ addr => addr - pa
  | _, _ => 0

/-- A channel's unit meets a fault of the label path (R251): a miss takes the gang out, a violation freezes the channel, and
a DATA code ends the copy as a kill does. -/
def faultChannel (s : State) (c chan : Nat) (ch : Channel) (tm : Team) (u : Nat) (f : PathFault) : State :=
  let set (x : EngineFault) : State := modChannel s c chan fun y => (y.rewalk u).stop x
  let post (s : State) : State :=
    postFault s tm.launch (channelRequester s c chan ch tm u) f (.channel (tm.name none) ch.order)
  match f.hold with
  | some h => holdChannel s c chan ch tm (512 * u) h
  | none =>
    match f.cause.cls with
    | .miss => stopGang (post (set (.missed f.cause.value (512 * u)))) tm.launch tm.gang
    | .violation => post (set (.frozen f.cause.value (512 * u)))
    | .encoding | .program | .debug | .data | .event => set (.killed f.cause.value (512 * u))

/-! ### Units that leave the package (R380, R403 to R405) -/

/-- An access in flight that moves a unit of a channel. -/
def unitAccess (s : State) (w : SliceName) (chan u : Nat) : Option Access :=
  s.inflight.find? fun a => a.who == w &&
    (match a.kind with
     | .copyRead ch k | .copyWrite ch k => ch == chan && k == u
     | _ => false)

/-- An access is a FENCEF flag. -/
def Access.isFlag (a : Access) : Bool :=
  match a.kind with
  | .flag _ => true
  | _ => false

/-- The accesses toward a scale-out window that waited and wait no more are sent, in their order (R396, R399); a flag that counts a
discarded access ends unsent. -/
def sendWaiting (s : State) (w : SliceName) (t : Nat) : State :=
  s.inflight.foldl (fun s a =>
    match accessOf s a.n with
    | none => s
    | some a =>
      if towardTarget a w t && !a.sent && !a.ofChannel && !sendWaits s w t a && !seqBlocked s t 0 then
        (if a.lost then countIn (dropAccess s a.n) a else sendPart s a.n 0)
      else s) s

/-- Every entry served: a sequence may take its next number again (R381, R405). -/
def serveAll (s : State) : State := s.cores.foldl (fun s p => p.2.allow.foldl (fun s e => serve s p.1 e.1) s) s

/-- A fabric access has ended: it is out of the counts of R388, and what its sequence held back may go (R381). -/
def endFabric (s : State) (a : Access) : State :=
  let s := dropAccess s a.n
  match a.place with
  | .window port n _ => sendWaiting (countIn s a) a.who (8192 + 4096 * port + n)
  | .fabric _ _ _ _ => serveAll (countIn s a)
  | .main _ _ _ | .scratch _ _ | .host _ | .weight _ _ => s

/-- A unit's access accepted, its packets to be sent. -/
def acceptUnit (s : State) (c chan : Nat) (ch : Channel) (tm : Team) (u : Nat) (p : Path) (bs : List Byte) (al : Nat) :
    State × Nat :=
  let off := ch.off + BitVec.ofNat 64 (512 * u)
  let op : MemOp := {
    kind := if bs.isEmpty then .copyRead chan u else .copyWrite chan u, size := ch.unitBytes u, need := copyNeed ch.kind,
    align := 64, bytes := bs }
  accept s (tm.name none) tm.world c ch.pc ch.pc op p ch.lw off [] al

/-- A channel's second unit (R404): charged at once, or the channel stands at the head of the entry. -/
def chargeSecond (s : State) (c chan e target n : Nat) : State :=
  let blocked := (accessOf s n).any fun a => partBlocked s a 1
  if 1 ≤ (allowAt (core s c) e).alw ∧ blocked = false then serve (sendPart (modAllow s c e Allowance.charge) n 1) c e
  else modAllow s c e fun a => { a with waiters := .channel chan target :: a.waiters }

/-- A channel's own place among an entry's waiters comes first, or nobody waits. -/
def channelTurn (a : Allowance) (chan : Nat) : Bool :=
  match a.waiters with
  | [] => true
  | w :: _ => w.isChannel chan

/-- A kept waiter of a team is a waiter of its core. -/
def KeptWaiter.is (b : Bank) (t : TeamId) (x : KeptWaiter) (w : Waiter) : Bool :=
  match x, w with
  | .slice v _, .slice id _ _ => id == ⟨t.core, t.slot, v⟩
  | .elems _, .elems u _ => u == t
  | .channel o _, .channel n _ => (Table.get b.sluice n).any fun ch => ch.order == o
  | .resend n _, .resend m => n == m
  | .marker v p, .marker u q => v == u && p == q
  | _, _ => false

/-- A kept waiter stands for a Sluice command. -/
def KeptWaiter.isCommand (order : Nat) (x : KeptWaiter) : Bool :=
  match x with
  | .channel o _ => o == order
  | .slice _ _ | .elems _ | .resend _ _ | .marker _ _ => false

/-- A waiter before the first of some others, or last. -/
def insertBefore (p : Waiter → Bool) (w : Waiter) : List Waiter → List Waiter
  | [] => [w]
  | x :: xs => if p x then w :: x :: xs else x :: insertBefore p w xs

/-- The waiters of an entry with a channel among them: at the tail, or, where its command was restored and had no channel when what was
saved with it joined, ahead of what was saved behind it (R405, R407). -/
def joinChannel (b : Bank) (t : TeamId) (order : Nat) (w : Waiter) (ws : List Waiter) : List Waiter :=
  let later := ((b.unjoined.filter fun x => x.1 == t.slot).dropWhile fun x => !x.2.1.isCommand order).drop 1
  insertBefore (fun y => later.any fun x => x.2.1.is b t y) w ws

/-- A command has joined: with none left that has not, nothing is kept. -/
def Bank.hasJoined (b : Bank) (slot order : Nat) : Bank :=
  let xs := b.unjoined.map fun x => if x.1 == slot && x.2.1.isCommand order then (x.1, x.2.1, true) else x
  { b with unjoined := if xs.all fun x => x.2.2 then [] else xs }

/-- A channel charges a unit for an access toward a package (R404, R405), at its entry if there is one to charge and no earlier waiter;
else it joins the entry's waiters. -/
def chargeChannel (s : State) (c chan world target : Nat) : State × Option Nat :=
  let e := allowIndex (core s c) world target
  let s := leaveOthers s c e (Waiter.isChannel chan)
  let a := allowAt (core s c) e
  if 1 ≤ a.alw ∧ channelTurn a chan = true then
    (modAllow s c e fun a => { a.charge with waiters := a.waiters.filter fun x => !x.isChannel chan }, some e)
  else if a.waiters.any (Waiter.isChannel chan) then (s, none)
  else
    match Table.get (core s c).active.sluice chan with
    | none => (s, none)
    | some ch =>
      let b := (core s c).active
      let s := modAllow s c e fun a => { a with waiters := joinChannel b ⟨c, ch.slot⟩ ch.order (.channel chan target) a.waiters }
      (modBank s c fun b => b.hasJoined ch.slot ch.order, none)

/-- A unit leaves by Reach (R403, R404, R405): its walk, now fresh, names the entry; where that has a unit to charge and no earlier
waiter, the unit's access is accepted in the act of charging it; else its channel joins the entry's waiters. -/
def unitByReach (s : State) (c chan : Nat) (ch : Channel) (tm : Team) (u : Nat) (p : Path) (target lab : Nat)
    (bs : List Byte) : State :=
  if seqBlocked s target (bucketOf (ch.off + BitVec.ofNat 64 (512 * u)) lab) then s
  else
    match chargeChannel s c chan tm.world target with
    | (s, none) => s
    | (s, some e) =>
      let r := acceptUnit (dropReads s (tm.name none) (.unit ch.order u)) c chan ch tm u p bs e
      chargeSecond r.1 c chan e target r.2

/-- The read of an entry of the launch's C table that a unit's walk needs first (R337, R403): accepted as a unit of the channel is. -/
def fetchByUnit (s : State) (c chan : Nat) (ch : Channel) (tm : Team) (x : EntryFetch) : State :=
  let w := tm.name none
  if entrySent s w x.read.by' x.read.label then s
  else match fetchAway s tm.launch x with
    | none => s
    | some y =>
      if fabricWaits s w y.path y.off then s
      else
        let send (s : State) (e : Nat) : State := (accept s w tm.world c ch.pc ch.pc y.op y.path y.lw y.off [] e).1
        if 8192 ≤ y.target then send s 32
        else match chargeChannel s c chan tm.world y.target with
          | (s, none) => s
          | (s, some e) => serve (send s e) c e

/-- The second packet of a unit's access through a scale-out window, once its sequence takes it (R381, R400). -/
def sendSecond (s : State) (a : Access) : State :=
  match a.place with
  | .window _ _ _ => if partBlocked s a 1 then s else sendPart s a.n 1
  | .main _ _ _ | .scratch _ _ | .host _ | .weight _ _ | .fabric _ _ _ _ => s

/-- A unit leaves by a scale-out window, which takes no allowance (R400). -/
def unitByWindow (s : State) (c chan : Nat) (ch : Channel) (tm : Team) (u : Nat) (p : Path) (target : Nat) (bs : List Byte) : State :=
  if seqBlocked s target 0 then s
  else
    let r := acceptUnit (dropReads s (tm.name none) (.unit ch.order u)) c chan ch tm u p bs 32
    match accessOf r.1 r.2 with
    | some a => sendSecond r.1 a
    | none => r.1

/-- A channel whose walk traps leaves the entry on which it waits (R405). -/
def channelLeaves (s : State) (c chan : Nat) : State := leaveOthers s c 32 (Waiter.isChannel chan)

/-- The entries on which a channel waits are served: one that could not send its second packet then sends it now. -/
def serveChannel (s : State) (c chan : Nat) : State :=
  (core s c).allow.foldl (fun s x => if x.2.waiters.any (Waiter.isChannel chan) then serve s c x.1 else s) s

/-- The blocks of a unit that have not been moved. -/
def Channel.missing (ch : Channel) (u : Nat) : List Nat :=
  (List.range (ch.unitBytes u / 64)).filter fun j => (Table.get ch.got (512 * u + 64 * j)).isNone

/-- The bytes of a unit whose blocks have all been moved. -/
def Channel.gotBytes (ch : Channel) (u : Nat) : List Byte :=
  (List.range (ch.unitBytes u / 64)).flatMap fun j => Table.getD ch.got (512 * u + 64 * j) []

/-- A unit in a weight store moves block by block, each an event in its own bank (R300, R301): the first block that is not held back
by a refresh goes now, or freezes the channel (R304), and the unit lands with its last one. -/
def moveBlocks (s : State) (c chan : Nat) (ch : Channel) (tm : Team) (u d wa : Nat) (write : Option (List Byte)) : State :=
  match (ch.missing u).find? fun j => blockHold s d (wa / 64 + j) write.isSome != some .waits with
  | none => s
  | some j =>
    let off := 512 * u + 64 * j
    let bs := write.map fun w => (w.drop (64 * j)).take 64
    match streamBlock s d (wa / 64 + j) bs with
    | .held h => holdChannel s c chan ch tm off h
    | .moved s got =>
      let ch := { ch with got := Table.put ch.got off (bs.getD got) }
      let s := modChannel s c chan fun x => { x with got := ch.got }
      if ch.missing u = [] then landUnit s c chan ch u (ch.gotBytes u) else s

/-- A command's unit in the weight store has been walked, once (R251). -/
def keepWalk (s : State) (c chan u d wa : Nat) (p : Path) : State :=
  modChannel { s with nextAccess := s.nextAccess + 1 } c chan fun x => { x with walked := x.walked ++ [⟨u, s.nextAccess, d, wa, p.used⟩] }

/-- The bytes that a command's unit writes to memory, read from its tile. -/
def Channel.writes (ch : Channel) (tm : Team) (u : Nat) : Option (List Byte) :=
  match ch.kind with
  | .cpys | .wst => some (tm.readTile (ccwTile ch.cw) (512 * (ccwFirst ch.cw + u)) 512)
  | .cpy | .cpym | .cpyf | .wld => none

/-- A unit walks its path and moves its bytes (R251). -/
def walkUnit (s : State) (c chan : Nat) (ch : Channel) (tm : Team) (u : Nat) : State :=
  let w := tm.name none
  let off := ch.off + BitVec.ofNat 64 (512 * u)
  let size := ch.unitBytes u
  let bs := ch.writes tm u
  let ask := askOf tm ⟨c, ch.slot, none⟩ off size (copyNeed ch.kind) (if ch.kind = .wst then .wst else .plain)
  match walkC s { ask with by' := .unit ch.order u } ch.lw off (4 * tm.addr.regs.length) with
  | .error f =>
    match f.hold with
    | some (.fetch x) => fetchByUnit s c chan ch tm x
    | some .waits => s
    | some (.freezes _ _ _) | none => faultChannel (dropReads (channelLeaves s c chan) w (.unit ch.order u)) c chan ch tm u f
  | .ok p =>
    match p.dest with
    | .fabric t lab => unitByReach s c chan ch tm u p t lab (bs.getD [])
    | .window port n _ _ => unitByWindow s c chan ch tm u p (8192 + 4096 * port + n) (bs.getD [])
    | d =>
      let s := dropReads (keepCopies (channelLeaves s c chan) c p.copies) w (.unit ch.order u)
      match d with
      | .weight dieNo wa => moveBlocks (keepWalk s c chan u dieNo wa p) c chan ch tm u dieNo wa bs
      | d =>
        match moveUnit s c w d size bs with
        | .moved s got => landUnit s c chan ch u (bs.getD got)
        | .held h => holdChannel s c chan ch tm (512 * u + heldBlock d h) h

/-- A unit moves on: one in the weight store that has been walked moves its next block, another walks. -/
def moveOn (s : State) (c chan : Nat) (ch : Channel) (tm : Team) (u : Nat) : State :=
  match ch.walked.find? fun y => y.unit == u with
  | some y => moveBlocks s c chan ch tm u y.die y.wa (ch.writes tm u)
  | none => walkUnit s c chan ch tm u

/-- Bytes made as many as a unit has. -/
def fitBytes (n : Nat) (bs : List Byte) : List Byte := (bs ++ List.replicate n 0).take n

/-- CHUNK_LAND (R251, R252): a unit of a started copy walks and lands, or faults; a unit that left the package lands with
what the target returned. -/
def execChunkLand (c chan u : Nat) (remote : List Byte) (s : State) : Host.Outcome State Fault Refusal :=
  .next <|
    match Table.get (core s c).active.sluice chan with
    | none => s
    | some ch =>
      match teamAt s ⟨c, ch.slot⟩ with
      | none => s
      | some tm =>
        if !(ch.started && ch.fault == .none && decide (u < ch.units') && !ch.landed.contains u && enginesMove s c ch.slot)
        then s
        else match unitAccess s (tm.name none) chan u with
          | none => if (halfSent s c chan).isSome then s else moveOn s c chan ch tm u
          | some a =>
            if a.parts < 2 then serveChannel (sendSecond s a) c chan
            else landUnit (endFabric s a) c chan ch u
              (if a.bytes.isEmpty then fitBytes (ch.unitBytes u) remote else a.bytes)

/-! ### A copy completes (R250 to R253) -/

/-- Accesses in flight of some of a team's channels and commands belong to none from now on, and what they have read of C tables is
given up. -/
def orphan (s : State) (w : SliceName) (chan order : Nat → Bool) : State :=
  let reads (b : EntryFor) : Bool :=
    match b with
    | .unit n _ => order n
    | .instr | .elems => false
  { s with
    tableReads := s.tableReads.filter fun r => !(r.who == w && reads r.by')
    inflight := s.inflight.map fun a =>
      if a.who == w then
        match a.kind with
        | .copyRead ch u => if chan ch then { a with kind := .copyRead 32 u } else a
        | .copyWrite ch u => if chan ch then { a with kind := .copyWrite 32 u } else a
        | .entry r => if reads r.by' then { a with lost := true } else a
        | _ => a
      else a }

/-- A channel freed. -/
def freeChannel (s : State) (c chan : Nat) : State := modBank s c fun b => { b with sluice := Table.del b.sluice chan }

/-- CPYM's array entry: freed, or handed its command (R253). -/
def followOn (s : State) (c order : Nat) (hand : Bool) : State :=
  modBank s c fun b =>
    { b with array := if hand then b.array.map fun p => if p.2.order == order then (p.1, { p.2 with waits := false }) else p
                      else b.array.filter fun p => p.2.order != order }

/-- An error reported to a team's tile. -/
def reportTile (s : State) (t : TeamId) (tile : Nat) (cause : Byte) (off : Nat) : State :=
  modTeam s t fun tm => tm.modTile tile fun x => x.report cause off

/-- What a copy's check found in the chunks that it landed (R251), reported to its tile. -/
def reportLanded (s : State) (c : Nat) (ch : Channel) : State :=
  match ch.err with
  | none => s
  | some (cause, off) => reportTile s ⟨c, ch.slot⟩ (ccwTile ch.cw) cause off

/-- A killed copy or weight load ends (R251): its cause reported with the offset of what failed, the error of what it landed too, the
lower of them kept; no flag, follow-on or arrival. A weight load that had started leaves its slot EMPTY. -/
def endKilled (s : State) (c chan : Nat) (ch : Channel) (tm : Team) (cause : Byte) (off : Nat) : State :=
  let s := freeChannel (orphan (channelLeaves s c chan) (tm.name none) (fun n => n == chan) fun n => n == ch.order) c chan
  match ch.kind with
  | .wld => modBank s c fun b => b.modSlot (wfield ch.cw 2 0) fun x =>
      (if ch.started then { x with full := false, claim := false, cols := [] } else x).report cause off
  | .cpy | .cpym | .cpyf | .cpys | .wst =>
    let first := ccwFirst ch.cw
    let s := if ch.kind = .cpym then followOn s c ch.order false else s
    let s := if ch.kind.fillsTile then
        modTeam s ⟨c, ch.slot⟩ fun tm => tm.modTile (ccwTile ch.cw) fun x =>
          if ch.started then { x with claim := x.claim &&& ~~~chunkMask first (ccwCount ch.cw) } else x
      else s
    reportTile (reportLanded s c ch) ⟨c, ch.slot⟩ (ccwTile ch.cw) cause (512 * (first + off / 512))

/-- CPYF writes its flag, or records that the peer has ended (R253). -/
def writeFlag (s : State) (c : Nat) (ch : Channel) (tm : Team) : State :=
  let n := wfield ch.flag 30 28
  if gangTeamExists s tm.launch tm.gang n then
    writeScratch s (tm.name none) n (wfield ch.flag 19 0) (bytesOfNat 4 ch.odd.toNat)
  else reportTile s ⟨c, ch.slot⟩ (ccwTile ch.cw) 0x21 (512 * ccwFirst ch.cw)

/-- The barrier arrival of a copy with ARRIVE (R245, R279). -/
def pledgeArrival (s : State) (ch : Channel) (tm : Team) : State :=
  if ccwArrive ch.cw then
    { s with pledges := s.pledges ++
        [⟨tm.launch, tm.gang, tm.gteam, ccwBar ch.cw, 0, 512 * ccwCount ch.cw, ch.ts⟩] }
  else s

/-- A copy or weight load that has moved all its bytes ends (R250, R252, R253), its completion time held with the bits that it has set
(R365). -/
def endCopy (s : State) (c chan : Nat) (ch : Channel) (tm : Team) : State :=
  let t : TeamId := ⟨c, ch.slot⟩
  let s := freeChannel s c chan
  match ch.kind with
  | .wld => modBank s c fun b => b.modSlot (wfield ch.cw 2 0) fun x => { x with full := true, claim := false, ts := some ch.ts }
  | .cpy | .cpym | .cpyf | .cpys | .wst =>
    let s := reportLanded s c ch
    let s := if ch.kind.fillsTile then modTeam s t fun tm => tm.modTile (ccwTile ch.cw) fun x =>
        x.landChunks (ccwFirst ch.cw) (ccwCount ch.cw) (some ch.ts)
      else s
    let s := match ch.kind with
      | .cpym => followOn s c ch.order true
      | .cpyf => writeFlag s c ch tm
      | .cpys => modTeam s t fun tm => tm.modTile (ccwTile ch.cw) fun x => { x with map := 0, ts := [(64, ch.ts)] }
      | .cpy | .wst | .wld => s
    pledgeArrival s ch tm

/-- COPY_COMPLETE (R250 to R254). -/
def execCopyComplete (c chan : Nat) (s : State) : Host.Outcome State Fault Refusal :=
  .next <|
    match Table.get (core s c).active.sluice chan with
    | none => s
    | some ch =>
      match teamAt s ⟨c, ch.slot⟩ with
      | none => s
      | some tm =>
        match ch.fault with
        | .killed cause off => endKilled s c chan ch tm cause off
        | .none =>
          if ch.started && ch.landed.length == ch.units' && enginesMove s c ch.slot then endCopy s c chan ch tm else s
        | .missed _ _ | .frozen _ _ => s

/-! ### The array (R255 to R261) -/

/-- The tiles that an array command reads. -/
def ArrayCmd.reads (a : ArrayCmd) : List Nat :=
  match a.kind with
  | .mmat => [a.tile]
  | .mmad => [a.tile, acwOpnd a.acw]
  | .mmaz | .accst _ => []

/-- An array command is eligible (R242, R243, R256, R258, R366). -/
def arrayEligible (s : State) (c : Nat) (b : Bank) (a : ArrayCmd) : Bool :=
  match teamAt s ⟨c, a.slot⟩ with
  | none => false
  | some tm =>
    !a.started && !a.waits && enginesMove s c a.slot && (tm.acc (acwAcc a.acw)).version == acwVer a.acw &&
    storesDone s (tm.name none) a.after &&
    (a.reads.all fun t => b.pastFences a.slot t a.order && (tm.tile t).full (tm.tileChunks t)) &&
    match a.kind with
    | .mmat => (acwSlots a.acw).all fun n => (b.slot n).full && b.copies.all fun x => !(x.1 == a.slot && x.2.1 == n)
    | .mmad | .mmaz => true
    | .accst fmt =>
      b.pastFences a.slot a.tile a.order &&
        (tm.tile a.tile).takesWriter (tm.tileChunks a.tile) a.arg.toNat (accstChunks fmt)

/-- An operand block of a tile. -/
def tileBlock (tm : Team) (t off : Nat) : Operand := int8Block (tm.readTile t off 64)

/-- The occupancy of an array command (R261). -/
def occupancy (tm : Team) (a : ArrayCmd) : Nat :=
  match a.kind with
  | .mmat => 5 * acwKs a.acw
  | .mmad =>
    ((List.range (acwKs a.acw)).map fun g =>
      max 1 (planes ((List.range 62).map fun c => tileBlock tm (acwOpnd a.acw) (3968 * g + 64 * c)))).sum
  | .mmaz => 1
  | .accst _ => 32

/-- Cycles since an array command started. -/
def ArrayCmd.age (s : State) (a : ArrayCmd) : Nat := (s.clock - a.since).toNat

/-- The array is free for a start (R261): nothing holds it, or the occupancy of what held it has passed. -/
def arrayFree (s : State) (c : Nat) (b : Bank) : Bool :=
  match b.running.bind fun e => Table.get b.array e with
  | none => true
  | some a =>
    match teamAt s ⟨c, a.slot⟩ with
    | none => true
    | some tm => decide (occupancy tm a ≤ a.age s)

/-- The tiles of an array command are touched (R213). -/
def touchArray (s : State) (c : Nat) (a : ArrayCmd) : State :=
  let tiles := match a.kind with
    | .accst _ => [a.tile]
    | .mmat | .mmad | .mmaz => a.reads
  tiles.foldl (fun s n => touchTile s ⟨c, a.slot⟩ n 0 (512 * ((teamAt s ⟨c, a.slot⟩).map fun tm => tm.tileChunks n).getD 0)) s

/-- ARRAY_START (R244, R256, R261): the earliest issued of the eligible array commands takes the array. -/
def execArrayStart (c entry : Nat) (s : State) : Host.Outcome State Fault Refusal :=
  let b := (core s c).active
  .next <|
    match Table.get b.array entry with
    | none => s
    | some a =>
      if arrayFree s c b && arrayEligible s c b a &&
          b.array.all fun p => !(arrayEligible s c b p.2 && decide (p.2.order < a.order)) then
        let slots := if a.kind = .mmat then (acwSlots a.acw).map b.slot else []
        let s := modBank (touchArray (takeUnit s c a.slot 0) c a) c fun b => { b with
          array := Table.put b.array entry { a with started := true, since := s.clock, slots := slots }, running := some entry }
        match a.kind with
        | .accst fmt => modTeam s ⟨c, a.slot⟩ fun tm => tm.modTile a.tile fun x => x.claimChunks a.arg.toNat (accstChunks fmt)
        | .mmat | .mmad | .mmaz => s
      else s

/-- An element of an accumulator (R258). -/
def Acc.elem (x : Acc) (i c : Nat) : Word := Table.getD x.elems (62 * i + c) 0

/-- An accumulator with an element replaced; +0 is not listed. -/
def Acc.setElem (x : Acc) (i c : Nat) (v : Word) : Acc :=
  { x with elems := if v = 0 then Table.del x.elems (62 * i + c) else Table.put x.elems (62 * i + c) v }

/-- The rows that a mask selects. -/
def maskRows (m : Word) : List Nat := (List.range 32).filter fun i => m.getLsbD i

/-- Every element of the selected rows replaced by `f` of its row, column and value. -/
def Acc.mapRows (x : Acc) (rows : List Nat) (f : Nat → Nat → Word → Word) : Acc :=
  rows.foldl (fun x i => (List.range 62).foldl (fun x c => x.setElem i c (f i c (x.elem i c))) x) x

/-- The five A blocks of a row and K-step of an MMAT (R255). -/
def mmatRow (tm : Team) (t g i : Nat) : List Operand := (List.range 5).map fun j => tileBlock tm t (10240 * g + 320 * i + 64 * j)

/-- The blocks of the rows in a mask of an operand tile, by offset, in tile order (R255). -/
def blockOffsets (mmad : Bool) (ks : Nat) (rows : List Nat) : List Nat :=
  (List.range ks).flatMap fun g => rows.flatMap fun i =>
    if mmad then [2048 * g + 64 * i] else (List.range 5).map fun j => 10240 * g + 320 * i + 64 * j

/-- The offsets of MMAD's B blocks (R255). -/
def blockOffsetsB (ks : Nat) : List Nat := (List.range ks).flatMap fun g => (List.range 62).map fun c => 3968 * g + 64 * c

/-- The first invalid block at some offsets of a tile. -/
def firstInvalid (tm : Team) (t : Nat) (offs : List Nat) : Option Nat := offs.find? fun o => (tileBlock tm t o).invalid

/-- The accumulator after an MMAT's groups (R86, R87, R256), its slots as they stood when it started. -/
def mmatAcc (tm : Team) (a : ArrayCmd) (x : Acc) : Acc :=
  x.mapRows (maskRows a.arg) fun i c v =>
    (a.slots.zip (List.range a.slots.length)).foldl (fun v p =>
      mmatGroup v (mmatRow tm a.tile p.2 i) (Table.getD p.1.cols c ⟨[], 0, false, false⟩)) v

/-- The accumulator after an MMAD's groups (R88, R256). -/
def mmadAcc (tm : Team) (a : ArrayCmd) (x : Acc) : Acc :=
  x.mapRows (maskRows a.arg) fun i c v =>
    (List.range (acwKs a.acw)).foldl (fun v g =>
      mmadGroup v (tileBlock tm a.tile (2048 * g + 64 * i)) (tileBlock tm (acwOpnd a.acw) (3968 * g + 64 * c))) v

/-- Some column that the command reads is made from an invalid block (R252, R256). -/
def invalidColumn (a : ArrayCmd) : Bool := a.slots.any fun x => x.cols.any fun p => p.2.invalid

/-- The time held with a tile that an array command reads whole (R365). -/
def Team.fullTs (tm : Team) (t : Nat) : Option Word := (tm.tile t).tsFull (tm.tileChunks t)

/-- A team with an accumulator changed. -/
def Team.modAcc (tm : Team) (n : Nat) (f : Acc → Acc) : Team := { tm with accs := listModify f tm.accs n }

/-- An accumulator after a command of a version (R256, R259). -/
def Acc.finish (x : Acc) (a : ArrayCmd) (status : Byte) (ts : Option Word) : Acc :=
  { x with version := acwVer a.acw + 1, status := status, ts := ts }

/-- A tile with an invalid block recorded (R256). -/
def recordInvalid (tm : Team) (t : Nat) (off : Option Nat) : Team :=
  match off with
  | none => tm
  | some o => tm.modTile t fun x => x.report 0x25 o

/-- The results of an array command in its team (R256, R259). DESIGN CHOICE (log 127): a command reads its tiles and its accumulator at the
moment of its result, its slots as they stood at its start; and its accumulator's time, which ACCST publishes, is folded from those of the
tiles and slots that it reads (R364 gives the array no time of its own). -/
def arrayResult (tm : Team) (a : ArrayCmd) : Team :=
  let n := acwAcc a.acw
  let x := tm.acc n
  let rows := maskRows a.arg
  let ks := acwKs a.acw
  match a.kind with
  | .mmat =>
    let bad := firstInvalid tm a.tile (blockOffsets false ks rows)
    let st : Byte := if bad.isSome || (rows != [] && invalidColumn a) then 0x25 else 0
    let ts := foldTimes x.ts (tm.fullTs a.tile :: a.slots.map WSlot.ts)
    recordInvalid (tm.modAcc n fun _ => (mmatAcc tm a x).finish a st ts) a.tile bad
  | .mmad =>
    let bad := firstInvalid tm a.tile (blockOffsets true ks rows)
    let badB := if rows = [] then none else firstInvalid tm (acwOpnd a.acw) (blockOffsetsB ks)
    let st : Byte := if bad.isSome || badB.isSome then 0x25 else 0
    let ts := foldTimes x.ts [tm.fullTs a.tile, tm.fullTs (acwOpnd a.acw)]
    recordInvalid (recordInvalid (tm.modAcc n fun _ => (mmadAcc tm a x).finish a st ts) a.tile bad) (acwOpnd a.acw) badB
  | .mmaz => tm.modAcc n fun x => (x.mapRows rows fun _ _ _ => 0).finish a 0 x.ts
  | .accst fmt =>
    let first := a.arg.toNat
    let bs := (List.range 32).flatMap fun i => accstRow fmt ((List.range 62).map fun c => x.elem i c)
    ((tm.writeTile a.tile (512 * first) bs).modTile a.tile fun t => t.landChunks first (accstChunks fmt) x.ts).modAcc n
      fun x => x.finish a 0 x.ts

/-- The array command whose results come next: the one that started first. -/
def Bank.oldest (b : Bank) : Option (Nat × ArrayCmd) :=
  (b.array.filter fun p => p.2.started).foldl (fun m p =>
    match m with
    | none => some p
    | some q => if p.2.since.toNat < q.2.since.toNat then some p else some q) none

/-- The bank after a command's results: its entry free, an MMAT's slots emptied under REL (R256). DESIGN CHOICE (log 128): a slot that a WLD
refills by then, since an earlier MMAT has emptied it, is left to the WLD. -/
def Bank.endArray (b : Bank) (e : Nat) (a : ArrayCmd) : Bank :=
  let b := { b with array := Table.del b.array e, running := if b.running = some e then none else b.running }
  if a.kind = .mmat ∧ acwRel a.acw then
    (acwSlots a.acw).foldl (fun b n => b.modSlot n fun x =>
      if x.claim then x else { x with full := false, cols := [], ts := none }) b
  else b

/-- A command's results written. -/
def writeResult (s : State) (c e : Nat) (a : ArrayCmd) : State :=
  modBank (touchArray (modTeam s ⟨c, a.slot⟩ fun tm => arrayResult tm a) c a) c fun b => b.endArray e a

/-- ARRAY_RESULT (R261): 16 cycles after its occupancy ends, a command's results and version are written. -/
def execArrayResult (c : Nat) (s : State) : Host.Outcome State Fault Refusal :=
  .next <|
    match (core s c).active.oldest with
    | none => s
    | some (e, a) =>
      match teamAt s ⟨c, a.slot⟩ with
      | none => s
      | some tm => if occupancy tm a + 16 ≤ a.age s then writeResult s c e a else s

/-! ### TEMPTY takes effect (R263) -/

/-- A TEMPTY is eligible (R243, R263). -/
def emptyEligible (s : State) (c : Nat) (b : Bank) (e : EmptyCmd) : Bool :=
  enginesMove s c e.slot &&
  if objSlot e.object then b.slotUsers (objIndex e.object) == 0
  else b.allBefore e.slot (objIndex e.object) e.order

/-- TEMPTY_EFFECT (R263): an eligible TEMPTY, named by its order of issue, empties its object. -/
def execTemptyEffect (c n : Nat) (s : State) : Host.Outcome State Fault Refusal :=
  let b := (core s c).active
  .next <|
    match b.tempties.find? fun e => e.order == n with
    | none => s
    | some e =>
      if emptyEligible s c b e then
        let s := modBank s c fun b => { b with tempties := b.tempties.filter fun x => x.order != n }
        if objSlot e.object then modBank s c fun b => b.modSlot (objIndex e.object) fun _ => WSlot.empty
        else modTeam s ⟨c, e.slot⟩ fun tm => tm.modTile (objIndex e.object) fun _ => Tile.empty
      else s

/-! ### Held stores discarded (R387) -/

/-- A store toward a scale-out window has been discarded: the flag that counts it, the slice's first one there after the store, is
discarded with it (R399), one that has not been issued yet too. -/
def loseFlag (s : State) (w : SliceName) (h : HeldStore) : State :=
  if h.target < 8192 then s
  else match s.inflight.find? fun b => towardTarget b w h.target && b.isFlag && decide (h.ordinal < b.ordinal) with
    | none =>
      modNamedSlice s w fun sl =>
        { sl with fabric := sl.fabric.map fun c =>
            if c.target = h.target ∧ c.issued ≤ h.ordinal + c.sinceFlag then { c with lost := true } else c }
    | some b => modAccess s b.n fun b => { b with lost := true }

/-- The waiters of an access that has ended leave their entries. -/
def quitResend (s : State) (n : Nat) : State :=
  s.cores.foldl (fun s p => p.2.allow.foldl (fun s e =>
    if e.2.waiters.contains (.resend n) then leaveEntry s p.1 e.1 (fun w => w == .resend n) else s) s) s

/-- A pair's held stores, and its held flags, by their places among their slice's accesses toward the target. -/
def lostOf (s : State) (hs : List HeldStore) (h : HeldStore) : List Nat × List Nat :=
  let mine := (hs.filter fun x => x.target == h.target && x.bucket == h.bucket).filterMap fun x => accessOf s x.access
  ((mine.filter fun a => !a.isFlag).map Access.ordinal, (mine.filter Access.isFlag).map Access.ordinal)

/-- Held stores of a slice of a world discarded, their resume markers on their way from a core (R387). -/
def discardStores (s0 : State) (w : SliceName) (world c : Nat) (hs : List HeldStore) : State :=
  let s := hs.foldl (fun s h =>
    match accessOf s h.access with
    | some a => endFabric (quitResend (if a.isFlag then s else loseFlag s w h) a.n) a
    | none => s) s0
  let s := modNamedSlice { s with late := s.late.filter fun x => x.who != w } w fun sl => { sl with held := [] }
  (heldPairs hs).foldl (fun s h =>
    let x := lostOf s0 hs h
    sendHeld s c world h.target (.marker w (markerFor s w world x.1 x.2 h))) s

/-- The held stores of a slice discarded. -/
def discardHeld (s : State) (w : SliceName) : State :=
  match namedSlice s w with
  | none => s
  | some (tm, sl) => discardStores s w tm.world (coreOfName s w) sl.held

/-- The held stores of a slice that is gone discarded, or let be sent again (R137, R387). -/
def ackLate (s : State) (w : SliceName) (refuse : Bool) : State :=
  match lateOf s w with
  | [] => s
  | x :: xs =>
    if refuse then discardStores s w x.world x.core ((x :: xs).map (·.store))
    else resumeLate { s with late := s.late.map fun y => if y.who = w then { y with opened := true } else y } w

/-- A slice's held stores outlive its team (R137, R387). -/
def keepLate (s : State) (tm : Team) (c : Nat) : State :=
  { s with late := s.late ++ tm.members.flatMap fun p => p.2.held.map fun h => ⟨tm.name p.1, tm.world, c, h, true⟩ }

/-- The held stores of a team's slices discarded. -/
def discardTeam (s : State) (tm : Team) : State := (tm.members.map fun p => tm.name p.1).foldl discardHeld s

end Sys2Proof.Machine
end

