-- ==== Sys2Proof/Machine/Work.lean ====
section
/-! DEFINITION. LAUNCH, CNTA, CNTW and CANCEL (spec/19 R328 to R332). -/

namespace Sys2Proof.Machine

/-- The REASONs that R454 lists for a violation. -/
def reasonsOf (c : Cause) : List Byte :=
  match c with
  | .labelDenied => [4, 5, 6, 7, 8, 11, 12, 14, 19, 20, 21]
  | .wrongWorld => [10, 12]
  | _ => [0]

/-- The violation of a counter, queue or level that a slice may not use (R328, R344); which of the REASONs of its trap it carries is
open (log 18). -/
def openFault (c : Cause) : PathFault :=
  let rs := reasonsOf c
  { cause := c, reason := listGetD rs (Config.openReason c.value % rs.length) 0 }

/-- A slice takes that violation, what it named in INFO0. -/
def openStop (s : State) (c : Cause) (info0 : DWord) (next : Word) : State :=
  faultWith s s.cur (openFault c) info0 0 0 0 next

/-- An access of the slice in the scope of a place stands unperformed before it (R361). -/
def earlierPending (s : State) (w : SliceName) (sc : Scope) : Bool :=
  s.inflight.any fun a => a.who == w && a.place.scope == sc && !a.performed && !a.ofChannel

/-! ### LAUNCH (R329) -/

/-- Main memory read line by line by a core's slice. -/
def readLines (s : State) (c pa key size : Nat) (cache : Bool) : List Byte × State :=
  (linesOf pa size).foldl (fun r l =>
    let lo := max pa (128 * l)
    let hi := min (pa + size) (128 * l + 128)
    let x := readMain r.2 c lo key (hi - lo) cache false
    (r.1 ++ x.1, x.2)) ([], s)

/-- A record read by LAUNCH: its bytes, a wait, or the slice stopped. -/
inductive RecordRead where
  | bytes (s : State) (bs : List Byte)
  | waits (s : State)
  | stopped (s : State)
  deriving DecidableEq, Repr

/-- The 256 bytes of a record at a place of the package (R329): read after the waits, not as one access. What holds up the place holds
up LAUNCH (R301, R304). DESIGN CHOICE (log 121): its blocks in a weight store are read at one moment, when none of their banks refreshes. -/
def readRecord (s : State) (tm : Team) (sl : Slice) (p : Path) (lw off : DWord) (next : Word) : RecordRead :=
  let w := tm.name none
  let c := s.cur.core
  let stop (f : PathFault) : RecordRead := .stopped (faultSlice s s.cur f lw off 256 next)
  match destHold s p.dest 256 with
  | some h => stop (.ofHold h)
  | none =>
    match p.dest with
    | .main pa key cache _ => let r := readLines s c pa key 256 cache; .bytes (noteTime r.2 w.launch (core r.2 c).ct) r.1
    | .weight d wa => .bytes s (Memory.readBytes (die s d).weights wa 256)
    | .scratch g o => .bytes s (readScratch s w g o 256)
    | .host pa =>
      let s := drainTouching s w pa 256
      .bytes s (Memory.readBytes s.hostMem pa 256)
    | .regs o =>
      if windowPending s w o 256 then .stopped (waitPending s s.cur w (regsTouched o 256)) else .bytes s (readRegs sl o 256)
    | .stack o =>
      match loadPieces s.cur (linePieces o 256) s with
      | .error pf => stop pf
      | .ok (s, bs) => .bytes s bs
    | .fabric _ _ | .window _ _ _ _ => .waits s

/-- LAUNCH once its path is known: it waits for the slice's stores and for a free slot, reads the record and submits it. -/
def launchAt (s : State) (f : Form) (tm : Team) (sl : Slice) (v : Vals) (q : Nat) (op : MemOp) (p : Path) (lw off : DWord) :
    State :=
  let w := tm.name none
  let next := nextPc sl.pc f.len
  if storesPending s w || earlierPending s w (placeOf p off).scope then waitSlice s s.cur .memory
  else if !slotFree s q w then waitSlice (joinQueue s q w) s.cur .memory
  else match targetOf p.dest, slotHold s q (queueView s q).tail.toNat true with
    | some _, _ => acceptFor s f tm sl v op p lw off
    | none, some h => faultSlice s s.cur (.ofHold h) lw off 256 next
    | none, none =>
      match readRecord (keepCopies s s.cur.core p.copies) tm sl p lw off next with
      | .bytes s bs => finishNone v next (submitRecord s q w bs (core s s.cur.core).ct)
      | .waits s => waitSlice s s.cur .memory
      | .stopped s => s

/-- LAUNCH (R328, R329). -/
def execLaunch (d : Dst) (a b : Src) (l : Fin 8) (s : State) : Host.Outcome State Fault Refusal :=
  let f := (form3 true d .w32 a .w64 b .w32).as .read
  runOwn f s (fun tm _ => do heldByLoads true tm; heldByLabel s true tm l) fun tm sl v =>
    let next := nextPc sl.pc f.len
    let q := v.d.toNat
    let view := queueView s q
    let lw := tm.label l
    let off := offDisp v
    let op : MemOp := { kind := .record q, size := 256, need := permR, align := 64 }
    if 256 ≤ q then trapSlice s s.cur { cause := .badOperand, field := 1, next := next, info0 := v.d }
    else if let some h := queueHold s q then faultSlice s s.cur (.ofHold h) lw off 256 next
    else if !view.valid || !view.src then openStop s .labelDenied v.d next
    else if view.world ≠ tm.world then openStop s .wrongWorld v.d next
    else match accessPath s s.cur tm sl lw off op with
      | .error st => stopAccess s s.cur st lw off 256 next
      | .ok p => launchAt s f tm sl v q op p lw off

/-! ### Counters (R328, R330, R331) -/

/-- The checks of a counter index (R328), then `k`. -/
def withCounter (s : State) (f : Form) (tm : Team) (sl : Slice) (v : DWord) (k : State) : State :=
  let next := nextPc sl.pc f.len
  if 4096 ≤ v.toNat then trapSlice s s.cur { cause := .badOperand, field := 2, next := next, info0 := v }
  else match counterHold s v.toNat, counterStop s tm.world v.toNat with
    | some h, _ => faultSlice s s.cur (.ofHold h) 0 0 8 next
    | none, some c => openStop s c v next
    | none, none => k

/-- CNTA (R330): publishes the core's ct (R365). -/
def execCnta (a b : Src) (s : State) : Host.Outcome State Fault Refusal :=
  let f := formAB true a .w32 b .w32
  runOwn f s (fun tm _ => heldByLoads true tm) fun tm sl v =>
    withCounter s f tm sl v.a <|
      if storesPending s (tm.name none) then waitSlice s s.cur .memory
      else
        let s := if counterExport s v.a.toNat then drainCombiner s fun _ => true else s
        finishNone v (nextPc sl.pc f.len) (addCounter s v.a.toNat (lowWord v.b) (some (core s s.cur.core).ct))

/-- CNTW (R331): merges what was published with the counter (R365). -/
def execCntw (a b : Src) (s : State) : Host.Outcome State Fault Refusal :=
  let f := formAB true a .w32 b .w32
  run f s fun tm sl v =>
    withCounter s f tm sl v.a <|
      if reached (counterValue s v.a.toNat) (lowWord v.b) then
        finishNone v (nextPc sl.pc f.len) (mergeStamp s s.cur.core (Table.get s.counterTs v.a.toNat))
      else waitSlice s s.cur .barrier

/-! ### CANCEL (R332) -/

/-- The counter field of a launch record that a kind of CANCEL compares (R332). -/
def cancelField (m : Wrk) (d1 : DWord) : Option Nat :=
  match m with
  | .launch => counterIndex (field d1 63 48)
  | .graph => counterIndex (field d1 47 32)
  | .phase => counterIndex (field d1 31 16)
  | .job => counterIndex (field d1 15 0)

/-- A bank without the Sluice commands, unstarted array commands and TEMPTYs of a team; a slot that a started WLD was
filling is EMPTY (R251, R332). -/
def Bank.dropCommands (b : Bank) (slot : Nat) : Bank :=
  let b' : Bank := { b with
    sluice := b.sluice.filter fun p => p.2.slot != slot
    array := b.array.filter fun p => p.2.slot != slot || p.2.started
    tempties := b.tempties.filter fun e => e.slot != slot
    reissue := b.reissue.filter fun r => r.slot != slot
    copies := b.copies.filter fun x => x.1 != slot
    unjoined := b.unjoined.filter fun x => x.1 != slot }
  b.sluice.foldl (fun x p =>
    if p.2.slot == slot && p.2.kind == .wld && p.2.started then
      x.modSlot (wfield p.2.cw 2 0) fun w => { w with full := false, claim := false, cols := [], ts := none }
    else x) b'

/-- The Sluice accesses of a team still in flight belong to no channel. -/
def orphanAll (s : State) (w : SliceName) : State := orphan s w (fun _ => true) fun _ => true

/-- A team's slices, elements and channels leave the waiters of their core's allowance entries. -/
def leaveAll (s : State) (c slot : Nat) : State :=
  let s := leaveOthers s c 32 (Waiter.ofTeam ⟨c, slot⟩)
  ((core s c).active.sluice.filter fun p => p.2.slot == slot).foldl (fun s p => channelLeaves s c p.1) s

/-- The commands of a team where it stands are killed (R251). -/
def killCommands (s : State) (p : TeamPlace) (tm : Team) : State :=
  let s := orphanAll s (tm.name none)
  match p with
  | .active t => modBank (leaveAll s t.core t.slot) t.core fun b => b.dropCommands t.slot
  | .outgoing t => modCore s t.core fun k => { k with outgoing := k.outgoing.map (·.dropCommands t.slot) }
  | .shadow t => modCore s t.core fun k => { k with shadow := k.shadow.map (·.dropCommands t.slot) }
  | .saved => s

/-- A slice that has ended keeps no state (R98, R99). -/
def Slice.ended (sl : Slice) : Slice :=
  { sl with run := .exited, stall := none, waits := none, await := none, arrived := none, watched := none, skip := false, scatter := [] }

/-- A team killed (R98, R332): every slice of it EXITED. -/
def Team.kill (tm : Team) : Team := { tm.mapSlices Slice.ended with killed := true }

/-- A gang with a team ended; it has ended with its last team, and its stack frame is free (R223). -/
def Gang.endTeam (g : Gang) (gteam width : Nat) : Gang :=
  let ended := if g.ended.contains gteam then g.ended else g.ended ++ [gteam]
  { g with ended := ended, state := if width ≤ ended.length then .ended else g.state }

/-- A preloaded team goes: it has run nothing. -/
def dropShadow (s : State) (t : TeamId) (tm : Team) : State :=
  let s := modCore s t.core fun k => { k with shadow := (k.shadow.map fun b => { b with teams := Table.del b.teams t.slot }).filter fun b => b.teams != [] }
  modGang s tm.launch tm.gang fun g => g.endTeam tm.gteam (widthOf s tm.launch)

/-- A team stops and is to end under R240, its commands killed; a frozen one stands (R332). Who waits on its barriers meets its end. -/
def killTeam (s : State) (launch gang gteam : Nat) : State :=
  match findTeam s launch gang gteam with
  | none => s
  | some (p, tm) =>
    if tm.frozen then s
    else
      let s := discardTeam (killCommands (putTeamAt s p tm.kill) p tm.kill) tm
      let s := match p with
        | .shadow t => dropShadow s t tm
        | .active _ | .outgoing _ | .saved => s
      settleOver s launch gang gteam

/-- The saved members of a gang go with their saves, but for frozen teams (R332, R98). -/
def discardSaved (width : Nat) (g : Gang) : Gang :=
  (g.saved.filter fun v => !v.team.frozen).foldl (fun g v => g.endTeam v.team.gteam width)
    { g with saved := g.saved.filter fun v => v.team.frozen }

/-- A cancelled gang's saved members go, but for frozen ones, with what their slices held (R332, R387). -/
def dropSaved (s : State) (launch number : Nat) : State :=
  match gangOf s launch number with
  | none => s
  | some g =>
    let gone := g.saved.filter fun v => !v.team.frozen
    let s := gone.foldl (fun s v => discardTeam s v.team) s
    let s := modGang s launch number (discardSaved (widthOf s launch))
    gone.foldl (fun s v => settleOver s launch number v.team.gteam) s

/-- The members of a gang that have been neither placed nor saved end with its launch (R332): those of a preloaded gang that no shadow
bank holds yet. -/
def dropUnplaced (s : State) (launch number : Nat) : State :=
  match gangOf s launch number with
  | none => s
  | some g =>
    if g.state = .preloaded then
      (List.range (widthOf s launch)).foldl (fun s n =>
        match findTeam s launch number n with
        | some _ => s
        | none => modGang s launch number fun g => g.endTeam n (widthOf s launch)) s
    else s

/-- A launch is cancelled (R332). -/
def cancelLaunch (s : State) (l : Launch) : State :=
  let s := modLaunch s l.id fun l => { l with cancelled := true }
  (s.gangs.filter fun g => g.launch == l.id && g.state != .ended).foldl (fun s g =>
    let s := dropUnplaced (dropSaved s l.id g.number) l.id g.number
    (List.range (widthOf s l.id)).foldl (fun s n => killTeam s l.id g.number n) s) s

/-- The submitted records of a queue that have not become current (R308). -/
def waitingRecords (s : State) (q : Nat) : List Nat :=
  let v := queueView s q
  let x := launchQueue s q
  ((List.range (v.tail - BitVec.ofNat 32 x.current).toNat).map fun i => (x.current + i) % 2 ^ 32).filter fun n =>
    !x.removed.contains n

/-- The queues that serve a world. -/
def queuesOf (s : State) (world : Nat) : List Nat :=
  (List.range 256).filter fun q => let v := queueView s q; v.valid && v.world == world

/-- HEAD past every record that has completed (R308). -/
def advanceHead : Nat → Word → List Nat → Word × List Nat
  | 0, h, xs => (h, xs)
  | n + 1, h, xs =>
    if xs.contains h.toNat then advanceHead n (h + 1) (xs.filter fun x => x != h.toNat) else (h, xs)

/-- What a queue keeps once HEAD has moved (R308): of the removed records those that it has yet to pass, so that a later record of the same
number is a new one; the next record to become current is none that it has passed. -/
def LaunchQueue.passed (x : LaunchQueue) (head : Word) (finished : List Nat) : LaunchQueue :=
  { x with
    finished := finished, removed := x.removed.filter finished.contains
    current := if (head - BitVec.ofNat 32 x.current).toNat < 2 ^ 31 then head.toNat else x.current }

/-- A record has completed: HEAD moves past it once every record before it has completed (R308). -/
def finishRecord (s : State) (q n : Nat) : State :=
  let x := launchQueue s q
  let r := advanceHead 32769 (queueView s q).head (x.finished ++ [n])
  putHead { s with queues := Table.put s.queues q (x.passed r.1 r.2) } q r.1

/-- A record's counters advance (R326): those that are VALID for its world. -/
def advanceCounters (s : State) (world : Nat) (d1 : DWord) (ts : Option Word) : State :=
  (counterFields d1).foldl (fun s c =>
    match c with
    | none => s
    | some i => if (counterStop s world i).isNone then addCounter s i 1 ts else s) s

/-- STATUS, REASON and LAUNCH written into D16 of a record (R309, R326). -/
def writeStatus (s : State) (pa key status reason launch : Nat) : State :=
  writeDevice s (pa + 128) key (bytesOfDWord (BitVec.ofNat 64 (status * 2 ^ 56 + reason % 256 * 2 ^ 48 + launch % 2 ^ 32)))

/-- A record that is not yet current is removed, and completes with STATUS 2 (R332, R326). -/
def removeRecord (s : State) (q n : Nat) : State :=
  let v := queueView s q
  let d1 := listGetD (queueRecord s q n) 1 0
  let x := launchQueue s q
  let s := { s with queues := Table.put s.queues q { x with removed := x.removed ++ [n] } }
  let s := drainCombiner s fun _ => true
  let s := writeStatus s (v.slotPa n) (worldKey s v.world) 2 0 0
  finishRecord (advanceCounters s v.world d1 none) q n

/-- CANCEL's selections and their effects (R332). -/
def cancelWork (s : State) (world : Nat) (m : Wrk) (i : Nat) : State :=
  let hits := s.launches.filter fun l => l.world == world && !l.done && cancelField m (listGetD l.words 1 0) == some i
  let recs := (queuesOf s world).flatMap fun q =>
    ((waitingRecords s q).filter fun n => cancelField m (listGetD (queueRecord s q n) 1 0) == some i).map fun n => (q, n)
  recs.foldl (fun s r => removeRecord s r.1 r.2) (hits.foldl cancelLaunch s)

/-- What stands against CANCEL's selections and their effects (R304, R451): the queues, their records and these records' counters. -/
def cancelHold (s : State) (world : Nat) : Option Hold :=
  match (List.range 256).findSome? (queueHold s) with
  | some h => some h
  | none => (queuesOf s world).findSome? fun q => (waitingRecords s q).findSome? fun n =>
      match slotHold s q n false with
      | some h => some h
      | none => fieldsHold s (listGetD (queueRecord s q n) 1 0)

/-- CANCEL (R332): completes once its selections are made. -/
def execCancel (a : Src) (m : Wrk) (s : State) : Host.Outcome State Fault Refusal :=
  let f : Form := { team := true, len := 1 + Src.lits a, role := .none, a := a, aw := .w32 }
  runOwn f s (fun tm _ => heldByLoads true tm) fun tm sl v =>
    withCounter s f tm sl v.a <|
      if let some h := cancelHold s tm.world then faultSlice s s.cur (.ofHold h) 0 0 256 (nextPc sl.pc f.len)
      else cancelWork (finishNone v (nextPc sl.pc f.len) s) tm.world m v.a.toNat

end Sys2Proof.Machine
end

