-- ==== Sys2Proof/Machine/Labels.lean ====
section
/-! DEFINITION. LINV and FLUSHR (spec/20 R344, R345), and the write-back of stack lines (R223). -/

namespace Sys2Proof.Machine

/-! ### LINV (R344) -/

/-- The checks of LINV's label (R344). -/
def linvOk (m : Lvl) (x : Word) : Bool :=
  let lab := wfield x 15 0
  wfield x 31 16 == 0 && lab != 0 && !(m == .c && decide (0xFF00 ≤ lab))

/-- The level of privilege that a LINV needs (R344). -/
def linvLevel : Lvl → Nat
  | .c => 0
  | .d => 1
  | .p => 2
  | .f => 2

/-- A launch's world. -/
def worldOfLaunch (s : State) (launch : Nat) : Nat := ((launchOf s launch).map (·.world)).getD 0

/-- Every copy of a label at a level marked stale: the copies of the world for C and D, every copy for P and F. -/
def staleCopies (s : State) (m : Lvl) (world : Nat) (lab : BitVec 16) : State :=
  match m with
  | .c => { s with cores := s.cores.map fun p => (p.1, { p.2 with
      cCopies := p.2.cCopies.filter fun c => !(c.label == lab && worldOfLaunch s c.scope == world) }) }
  | .d => { s with dies := s.dies.map fun d => { d with copies := d.copies.filter fun c => !(c.label == lab && c.scope == world) } }
  | .p => { s with pCopies := s.pCopies.filter fun c => c.label != lab }
  | .f => { s with fCopies := s.fCopies.filter fun c => c.label != lab }

/-- Every team of the package changed: those in banks, and those saved. -/
def mapTeams (f : Team → Team) (s : State) : State :=
  let bank (b : Bank) : Bank := { b with teams := b.teams.map fun p => (p.1, f p.2) }
  { s with
    cores := s.cores.map fun c => (c.1, { c.2 with
      active := bank c.2.active, shadow := c.2.shadow.map bank, outgoing := c.2.outgoing.map bank })
    gangs := s.gangs.map fun g => { g with saved := g.saved.map fun v => { v with team := f v.team } } }

/-- A scope of a LINV takes in what a world has: every world at P and F (R344). -/
def inScope (m : Lvl) (world w : Nat) : Bool :=
  match m with
  | .c | .d => w == world
  | .p | .f => true

/-- A path used a label at a level. -/
def usedAt (m : Lvl) (lab : BitVec 16) (used : List (Nat × BitVec 16)) : Bool := used.contains ((Lvl.num m).toNat, lab)

/-- A WAITA that watches its word through a label is to walk afresh (R344). -/
def Slice.staleWatch (m : Lvl) (lab : BitVec 16) (sl : Slice) : Slice :=
  { sl with watched := sl.watched.map fun x => if usedAt m lab x.used then { x with stale := true } else x }

/-- Stores of a scatter that has stopped behind a charge, walked through a label, are to walk afresh (R405; log 35). -/
def Slice.staleScatter (m : Lvl) (lab : BitVec 16) (sl : Slice) : Slice :=
  { sl with scatter := sl.scatter.map fun x => if usedAt m lab x.path.used then { x with fresh := true } else x }

/-- An element not performed whose walk used a label walks afresh when its turn comes (R344, R197): what it has brought, or the trap that
it met, is given up. -/
def Elem.unfetch (m : Lvl) (lab : BitVec 16) (e : Elem) : Elem :=
  match e.state with
  | .arrived _ | .failed _ => if usedAt m lab e.used then { e with state := .pending, used := [] } else e
  | .pending | .sent _ | .performed | .poisoned _ => e

/-- A team's elements not performed walk afresh. -/
def Team.unfetch (m : Lvl) (lab : BitVec 16) (tm : Team) : Team :=
  { tm with fqueues := tm.fqueues.map fun q => { q with entries := q.entries.map fun e =>
      { e with elems := e.elems.map (Elem.unfetch m lab) } } }

/-- An access on its way whose answer a LINV has made worthless: an element's load that used the label, which is to walk afresh, or the
read of the label's entry itself (R344, R337). -/
def Access.stale (m : Lvl) (world : Nat) (lab : BitVec 16) (a : Access) : Bool :=
  inScope m world a.world &&
  match a.kind with
  | .queued => usedAt m lab a.used
  | .entry r => m == .c && BitVec.ofNat 16 r.label == lab
  | _ => false

/-- AN INVALIDATION BEGINS (R344): every copy of the label at its level goes stale, elements not performed and waiting WAITAs walk
afresh, and entries of C tables that have been read for walks to come are given up. -/
def invalidate (s : State) (m : Lvl) (world : Nat) (lab : BitVec 16) : State :=
  let s := mapTeams (fun tm => if inScope m world tm.world then (tm.mapSlices (Slice.staleWatch m lab)).unfetch m lab else tm)
    (staleCopies s m world lab)
  { s with
    inflight := s.inflight.map fun a => if a.stale m world lab then { a with lost := true } else a
    tableReads := s.tableReads.filter fun r =>
      !(m == .c && BitVec.ofNat 16 r.label == lab && worldOfLaunch s r.who.launch == world) }

/-- A command moves: its channel has no fault and its team may go on. -/
def channelRuns (s : State) (c : Nat) (ch : Channel) : Bool := ch.fault == .none && enginesMove s c ch.slot

/-- A unit of the weight store that moves was walked before `mark` with a label (R251, R344). -/
def walkedUses (s : State) (m : Lvl) (world : Nat) (lab : BitVec 16) (mark : Nat) : Bool :=
  s.cores.any fun p => p.2.active.sluice.any fun x =>
    channelRuns s p.1 x.2 && ((teamAt s ⟨p.1, x.2.slot⟩).any fun tm => inScope m world tm.world) &&
    x.2.walked.any fun y => decide (y.n < mark) && usedAt m lab y.used

/-- Units of stopped commands that were walked with a label walk afresh when they go on (R251, R344). -/
def rewalkStopped (s : State) (m : Lvl) (world : Nat) (lab : BitVec 16) : State :=
  { s with cores := s.cores.map fun p => (p.1, { p.2 with active := { p.2.active with
      sluice := p.2.active.sluice.map fun x =>
        if !channelRuns s p.1 x.2 && ((teamAt s ⟨p.1, x.2.slot⟩).any fun tm => inScope m world tm.world) then
          (x.1, (x.2.walked.filter fun y => usedAt m lab y.used).foldl (fun ch y => ch.rewalk y.unit) x.2)
        else x } }) }

/-- An invalidation completes: waiters whose walk used a stale copy walk afresh (R405). -/
def invalidated (s : State) (m : Lvl) (world : Nat) (lab : BitVec 16) : State :=
  mapTeams (fun tm => if inScope m world tm.world then tm.mapSlices (Slice.staleScatter m lab) else tm) (rewalkStopped s m world lab)

/-- A scatter that runs and has stores accepted has others that used a label: it is one access that the stations have accepted in part, so
the invalidation waits for it (R231, R344; log 35). -/
def scatterUses (s : State) (m : Lvl) (world : Nat) (lab : BitVec 16) : Bool :=
  (activeTeams s).any fun p =>
    inScope m world p.2.world && !p.2.frozen && !p.2.killed && gangRuns s p.2.launch p.2.gang && worldRuns s p.2.world &&
    p.2.addr.scatter.any fun y => !y.fresh && usedAt m lab y.path.used

/-- An access accepted before `mark` that used a label at a level is still in flight, a store of it in the write combiner among them, or
at F a message that has not been acknowledged (R344, R369, R385). -/
def usesLabel (s : State) (m : Lvl) (world : Nat) (lab : BitVec 16) (mark : Nat) : Bool :=
  (s.inflight.any fun a => decide (a.n < mark) && usedAt m lab a.used && inScope m world a.world &&
    (a.place.scope == .fabric || a.ofChannel || !a.performed)) ||
  (s.combiner.any fun c => decide (c.n < mark) && usedAt m lab c.used && inScope m world c.world) ||
  (m == .f && s.messages.any fun p => p.label == lab) || scatterUses s m world lab ||
    walkedUses s m world lab mark

/-- A store or atomic of a slice, of any scope, has not been performed. -/
def anyStorePending (s : State) (w : SliceName) : Bool :=
  s.inflight.any fun a => a.who == w && a.writes && !a.ofChannel && !a.performed

/-- LINV (R344): the copies go stale at its first try; it completes when nothing accepted before that is in flight. -/
def execLinv (a : Src) (m : Lvl) (s : State) : Host.Outcome State Fault Refusal :=
  let f : Form := { team := true, len := 1 + Src.lits a, role := .none, a := a, aw := .w32 }
  runOwn f s (fun tm _ => heldByLoads true tm) fun tm sl v =>
    let x := lowWord v.a
    let next := nextPc sl.pc f.len
    let w := tm.name none
    let lab := BitVec.ofNat 16 x.toNat
    if !linvOk m x then trapSlice s s.cur { cause := .badOperand, field := 2, next := next, info0 := v.a }
    else if tm.level.toNat < linvLevel m then openStop s .labelDenied v.a next
    else
      let s := drainCombiner s fun c => c.who == w
      if anyStorePending s w then waitSlice s s.cur .memory
      else
        let s1 := if sl.linv = 0 then
            modSlice (invalidate s m tm.world lab) s.cur fun sl => { sl with linv := s.nextAccess + 1 }
          else s
        let mark := if sl.linv = 0 then s.nextAccess else sl.linv - 1
        if usesLabel s1 m tm.world lab mark then waitSlice s1 s.cur .memory
        else finishNone v next (invalidated s1 m tm.world lab)

/-! ### FLUSHR (R345) -/

/-- A partition at reset (R354). -/
def Partition.idle : Partition := ⟨false, 0, 16, 0, 0, 0, 0, 0, 0, 0, false, 0⟩

/-- A partition of the memory-side cache. -/
def partition (s : State) (p : Nat) : Partition := Table.getD s.partitions p Partition.idle

/-- The state with a partition changed. -/
def modPartition (s : State) (p : Nat) (f : Partition → Partition) : State :=
  { s with partitions := Table.put s.partitions p (f (partition s p)) }

/-- A line lies in a range of main memory. -/
def lineIn (pa len line : Nat) : Bool := decide (pa ≤ 128 * line ∧ 128 * line < pa + len)

/-- The lines of a range that the home slices hold. -/
def linesHeld (s : State) (pa len : Nat) : List Nat := (s.lines.filter fun p => lineIn pa len p.1).map (·.1)

/-- What stands against a flush of a range (R304, R451): a line that its home holds and does not serve. -/
def flushHold (s : State) (pa len : Nat) : Option Hold := (linesHeld s pa len).findSome? fun l => lineHold s l false

/-- The lines of a range dropped from every core cache and from the memory-side cache, whose partitions hold so much less (R345, R355). -/
def dropCached (s : State) (pa len : Nat) : State :=
  let gone := s.cacheSets.flatMap fun p => p.2.filter fun c => lineIn pa len c.line
  let s := gone.foldl (fun s c => modPartition s c.part fun x => { x with occ := x.occ - 1 }) s
  { s with
    cores := s.cores.map fun p => (p.1, { p.2 with copies := p.2.copies.filter fun c => !lineIn pa len c.line })
    cacheSets := s.cacheSets.map fun p => (p.1, p.2.filter fun c => !lineIn pa len c.line) }

/-- The teams in the active and outgoing banks, each with its core. -/
def runningTeams (s : State) : List (Nat × Team) :=
  s.cores.flatMap fun p => (p.2.active.teams.map fun t => (p.1, t.2)) ++
    ((p.2.outgoing.map Bank.teams).getD []).map fun t => (p.1, t.2)

/-- The stack lines of a team that stand in a range are written back and dropped (R345, R223). A line that cannot be written back keeps
its place in the core. -/
def flushStacks (s : State) (c : Nat) (tm : Team) (pa len : Nat) : State :=
  tm.stackLines.foldl (fun s x =>
    match stackPath s c tm x.1 x.2.1 permW with
    | .error _ => s
    | .ok p =>
      match stackDest s tm p.dest with
      | .main a key _ _ =>
        if lineIn pa len (a / 128) then
          modNamedSlice (writeDevice s a key x.2.2) (tm.name x.1) fun sl => { sl with stack := Table.del sl.stack x.2.1 }
        else s
      | .scratch _ _ | .regs _ | .stack _ | .weight _ _ | .host _ | .fabric _ _ | .window _ _ _ _ => s) s

/-- A range of main memory flushed (R345): stack lines written back, timestamps folded into mts, every line dropped from every
cache. -/
def flushRange (s : State) (pa len : Nat) : State :=
  let s := (runningTeams s).foldl (fun s t => flushStacks s t.1 t.2 pa len) s
  dropCached ((linesHeld s pa len).foldl evictLine s) pa len

/-- FLUSHR (R345). -/
def execFlushr (a b : Src) (l : Fin 8) (s : State) : Host.Outcome State Fault Refusal :=
  let f := formAB true a .w64 b .w64
  runOwn f s (fun tm _ => do heldByLoads true tm; heldByLabel s true tm l) fun tm sl v =>
    let next := nextPc sl.pc f.len
    let off := v.a
    let len := v.b.toNat
    let lw := tm.label l
    if len = 0 then finishNone v next s
    else if field off 63 48 ≠ 0 ∨ 2 ^ 48 < off.toNat + len then
      faultSlice s s.cur (({ lw := lw } : Going).fail .c permW none .offsetRange 3) lw off len next
    else if off.toNat % 128 ≠ 0 ∨ len % 128 ≠ 0 then
      stopAccess s s.cur .misaligned lw off len next
    else match walkC s (askOf tm s.cur off len permW .flushr) lw off (4 * sl.regs.length) with
      | .error pf => faultSlice s s.cur pf lw off len next
      | .ok p =>
        let s := keepCopies s s.cur.core p.copies
        match p.dest with
        | .main pa _ _ _ =>
          match flushHold s pa len with
          | some h => faultSlice s s.cur (.ofHold h) lw off len next
          | none => finishNone v next (flushRange s pa len)
        | .scratch _ _ | .regs _ | .stack _ | .weight _ _ | .host _ | .fabric _ _ | .window _ _ _ _ => finishNone v next s

end Sys2Proof.Machine
end

