-- ==== Sys2Proof/Machine/MemoryEvents.lean ====
section
/-! DEFINITION. Fetch traps, waking (spec/06 R98), and what comes about in memory: accesses performed and returned (spec/09 R176,
spec/18 R293, R294, spec/21 R359), queue-load elements (spec/11 R197 to R199), logical time (R362, R363), caches (R293, R353 to
R355) and refresh (R301). An event whose condition does not hold leaves the state as it is. -/

namespace Sys2Proof.Machine

/-! ### Fetch traps (R32, R55, R238) -/

/-- The current slice takes an ENCODING trap of its fetch. -/
def fetchTrap (s : State) (t : Word → TrapInfo) : Host.Outcome State Fault Refusal :=
  match sliceAt s s.cur with
  | none => .fault .noSlice
  | some (_, sl) => .next (trapSlice s s.cur (t sl.pc))

/-- ILLEGAL_OP (R55, R453): the first word in INFO0; a word of one word's length. -/
def execIllegalOp (w : Word) (s : State) : Host.Outcome State Fault Refusal :=
  fetchTrap s fun pc => { cause := .illegalOp, next := nextPc pc 1, info0 := w.setWidth 64 }

/-- WRONG_SLICE (R238, R453). -/
def execWrongSlice (w : Word) (s : State) : Host.Outcome State Fault Refusal :=
  fetchTrap s fun pc => { cause := .wrongSlice, next := nextPc pc 1, info0 := w.setWidth 64 }

/-- FETCH_RANGE (R32, R103, R453): the first word beyond the segment in INFO0, NEXTPC 0. -/
def execFetchRange (off : Word) (s : State) : Host.Outcome State Fault Refusal :=
  fetchTrap s fun _ => { cause := .fetchRange, next := 0, info0 := off.setWidth 64 }

/-! ### Waking (R98, R189, R191, R283, R405) -/

/-- The element that a parked strand waits for has been performed or poisoned (R189). -/
def elemReady (tm : Team) (q pos elem : Nat) : Bool :=
  let f := tm.fqueue q
  match (f.entries[pos - f.base]?).bind fun e => e.elems[elem]? with
  | none => false
  | some x => decide (f.base ≤ pos) && !x.unperformed

/-- What a parked strand waits for holds. -/
def waitOver (s : State) (id : SliceId) (tm : Team) (sl : Slice) (w : WaitFor) : Bool :=
  match w with
  | .elem q pos elem => elemReady tm q pos elem
  | .room q _ => !tm.backFull sl q
  | .barrier word phase _ =>
    match barrierAt s tm.launch tm.gang (barTeam word) (barNumber word) with
    | none => false
    | some b => phaseDone b.phase phase
  | .passed _ => true
  | .allowance => !(core s id.core).allow.any fun p => p.2.waiters.any (Waiter.isSlice id)
  | .address | .join => false

/-- A slice's gang stands resident, its team neither frozen nor killed, its die serving. -/
def mayMove (s : State) (id : SliceId) : Bool :=
  match teamAt s (teamIdOf id) with
  | none => false
  | some tm => enginesMove s id.core id.slot && !tm.frozen && !tm.killed

/-- A parked strand made runnable; it examines its instruction again (R98). -/
def makeRunnable (s : State) (id : SliceId) : State :=
  modSlice s id fun sl => { sl with run := .runnable, stall := none, ready := s.clock }

/-- WAKE (R98): a parked strand whose condition holds is made runnable; a rendezvous whose members' stores have been performed
completes (R164). A stalled slice examines its instruction again when its turn comes. -/
def execWake (id : SliceId) (s : State) : Host.Outcome State Fault Refusal :=
  .next <|
    match sliceAt s id with
    | none => s
    | some (tm, sl) =>
      if !mayMove s id then s
      else match sl.run with
        | .parked .join => completeJoin s (teamIdOf id) (id.strand.getD 0)
        | .parked w => if waitOver s id tm sl w then makeRunnable s id else s
        | .runnable | .trapped | .exited => s

/-! ### Accesses performed and returned -/

/-- The read of an entry for a walk has returned (R337): the walk is made again, with the entry, or, where a LINV has come between, with
another read of it. -/
def landEntry (s : State) (a : Access) (bs : List Byte) : State :=
  match a.kind with
  | .entry r =>
    let s := if a.lost then s else keepRead s ⟨a.who, r.by', r.label, bs⟩
    match r.by' with
    | .instr => if awaits s a then modNamedSlice s a.who fun sl => { sl with await := none } else s
    | .elems => modNamed s a.who.launch a.who.gang a.who.gteam fun tm => tm.answerElem a.n fun e => { e with state := .pending }
    | .unit _ _ => s
  | _ => s

/-- A fabric access's data has returned (R388): a slice's instruction takes it, or a queue-load element, which waits for its turn (R197). -/
def fabricReply (s : State) (a : Access) (reply : List Byte) : State :=
  let bs := fitBytes a.size reply
  if !a.sent then s
  else if a.kind = .queued then
    modNamed (endFabric s a) a.who.launch a.who.gang a.who.gteam fun tm =>
      tm.answerElem a.n fun e =>
        if a.lost then { e with state := .pending }
        else { e with state := .arrived none, value := BitVec.ofNat 32 (natOfBytes bs), used := a.used }
  else if a.kind.isEntry then landEntry (endFabric s a) a bs
  else handOver (endFabric s a) { a with performed := true, result := bs }

/-- LOAD_COMPLETE (R176, R388): the data of an accepted load or atomic arrives; a load that its place answers at once is
performed first. -/
def execLoadComplete (n : Nat) (reply : List Byte) (s : State) : Host.Outcome State Fault Refusal :=
  .next <|
    match accessOf s n with
    | none => s
    | some a =>
      if !a.returns ∧ a.kind ≠ .queued then s
      else if a.place.scope = .fabric then fabricReply s a reply
      else
        let s := if a.performed || !a.isLoad then s else performLoad s a
        match accessOf s n with
        | none => s
        | some a => if a.performed then handOver s a else s

/-- HOME_STORE (R293, R361): a store is performed at its place. -/
def execHomeStore (n : Nat) (s : State) : Host.Outcome State Fault Refusal :=
  .next <|
    match accessOf s n with
    | none => s
    | some a => if a.kind = .store ∧ a.place.scope ≠ .fabric then performStore s a else s

/-- HOME_ATOMIC (R294). -/
def execHomeAtomic (n : Nat) (s : State) : Host.Outcome State Fault Refusal :=
  .next <|
    match accessOf s n with
    | none => s
    | some a =>
      match a.kind with
      | .atomic op x c => if a.place.scope = .fabric then s else performAtomic s a op x c
      | _ => s

/-- LEASE_RENEWAL (R359): a load is performed at its line's home slice. A WAITA has its word compared in the same event, its core recorded
where it waits, so that no wake is lost (R285). -/
def execLeaseRenewal (n : Nat) (s : State) : Host.Outcome State Fault Refusal :=
  .next <|
    match accessOf s n with
    | none => s
    | some a =>
      if a.isLoad && a.place.scope == .package then
        let s := performLoad s a
        match accessOf s n with
        | none => s
        | some a => if a.performed && a.kind.watches then handOver s a else s
      else s

/-! ### Queue-load elements (R197 to R199, R216) -/

/-- What an uncorrectable error in the way does to a slice, or nothing where its access only waits (R301, R304). -/
def holdMaster (s : State) (w : SliceName) (h : Hold) : State :=
  match h with
  | .waits | .fetch _ => s
  | .freezes kind unit addr => freezeMaster s w kind unit addr

/-- An element's load made in the package: the state and its value, or the trap that poisons it, or what holds it up. Another package
answers an element's own access. -/
def readElem (s : State) (t : TeamId) (tm : Team) (e : Elem) : Except PathFault (State × Word) := do
  let w := tm.name none
  let word (bs : List Byte) : Word := BitVec.ofNat 32 (natOfBytes bs)
  let p ← walkC s (elemAsk tm t e) e.lw e.off (4 * tm.addr.regs.length)
  let s := keepCopies s t.core p.copies
  match destHold s p.dest 4 with
  | some h => .error (.ofHold h)
  | none =>
    match p.dest with
    | .main pa key cache _ =>
      let r := readMain s t.core pa key 4 cache false
      .ok (noteTime r.2 tm.launch (core r.2 t.core).ct, word r.1)
    | .scratch n off => .ok (touchScratch s w n off 4, word (readScratch s w n off 4))
    | .weight d wa => .ok (s, word (Memory.readBytes (die s d).weights wa 4))
    | .host pa =>
      let s := drainTouching s w pa 4
      .ok (s, word (Memory.readBytes s.hostMem pa 4))
    | .regs off => if windowPending s w off 4 then .error (.ofHold .waits) else .ok (s, word (readRegs tm.addr off 4))
    | .stack off =>
      (loadStack s ⟨t.core, t.slot, none⟩ off 4).map fun r => (r.1, word r.2)
    | .fabric _ _ | .window _ _ _ _ => .error (.ofHold .waits)

/-- How a group of elements stands while it is performed: the state, the elements done, and what holds the group up. -/
structure Group where
  s : State
  elems : List Elem
  hold : Option Hold
  deriving DecidableEq, Repr

/-- An element done. -/
def Group.add (g : Group) (s : State) (e : Elem) : Group := { g with s := s, elems := g.elems ++ [e] }

/-- An element loaded now. -/
def Group.load (g : Group) (t : TeamId) (e : Elem) : Group :=
  match teamAt g.s t with
  | none => g.add g.s e
  | some tm =>
    match readElem g.s t tm e with
    | .ok (s, v) => g.add s { e with state := .performed, value := v }
    | .error f => if f.hold.isSome then { g with hold := f.hold } else g.add g.s { e with state := .poisoned (f.poison none) }

/-- One element of a group performed at the core's ct (R197, R366): loaded, or taken as it arrived where its lease still covers ct. -/
def performElem (t : TeamId) (g : Group) (e : Elem) : Group :=
  if g.hold.isSome then g
  else match e.state with
    | .performed | .poisoned _ => g.add g.s e
    | .sent _ => { g with hold := some .waits }
    | .failed p => g.add g.s { e with state := .poisoned p }
    | .arrived none => g.add g.s { e with state := .performed }
    | .arrived (some (wts, lrt)) =>
      let ct := (core g.s t.core).ct
      if earlier lrt ct then g.load t e
      else
        let s := setCt g.s t.core (laterOf ct wts)
        let s := match teamAt s t with
          | some tm => noteTime s tm.launch (core s t.core).ct
          | none => s
        g.add s { e with state := .performed }
    | .pending => g.load t e

/-- An access of the address slice that stands before its queue loads and is not performed (R197, R361, R274, R369); stores and flags
that leave the package stand in their target's order. -/
def loadsHeld (s : State) (w : SliceName) : Bool :=
  s.inflight.any fun a => a.who == w && !a.performed && !a.ofChannel && a.kind != .queued &&
    (a.place.scope != .fabric || a.returns)

/-- The team's queue loads may go on. -/
def loadsMove (s : State) (t : TeamId) (tm : Team) : Bool := enginesMove s t.core t.slot && !tm.frozen && !tm.killed

/-- The elements of the next queue load performed together, or poisoned. -/
def performGroup (s : State) (t : TeamId) : State :=
  match teamAt s t with
  | none => s
  | some tm =>
    match nextLoad tm with
    | none => s
    | some (q, i, entry) =>
      let g := entry.elems.foldl (performElem t) ⟨s, [], none⟩
      let set (tm : Team) : Team := { tm with fqueues := listModify (fun f =>
        { f with entries := listModify (fun e => { e with elems := g.elems }) f.entries i }) tm.fqueues q }
      match g.hold with
      | some h => holdMaster s (tm.name none) h
      | none =>
        if (set tm).poisons ≤ 64 then dropReads (touchQueues (modTeam g.s t set) t.core t.slot) (tm.name none) .elems else s

/-- An early read of main memory for a queue load (R197): the bytes, the write time and the lease that it brings, and the state. A copy of
the core cache whose lease covers ct serves it; a renewal leaves its copy with the element alone, and its core's ct stays. -/
def readEarly (s : State) (c pa key size : Nat) : List Byte × (Word × Word) × State :=
  let line := pa / 128
  let k := core s c
  match (findLine k line (keyId s key)).filter fun x => !earlier x.lrt k.ct with
  | some x => ((x.bytes.drop (pa % 128)).take size, (x.wts, x.lrt), touchWay s c line)
  | none =>
    let bytes := readKeyed s key pa size
    let r := renewLine s (.core c) line
    (bytes, ((lineAt s line).wts, r.2), modCore r.1 c fun x => { x with ct := k.ct, ctSince := k.ctSince })

/-- An element of cacheable main memory fetched early (R197). -/
def fetchElem (s : State) (t : TeamId) (tm : Team) (q i k : Nat) : State :=
  match ((tm.fqueue q).entries[i]?).bind fun e => e.elems[k]? with
  | none => s
  | some e =>
    if e.state != .pending then s
    else match walkC s (elemAsk tm t e) e.lw e.off (4 * tm.addr.regs.length) with
      | .error _ => s
      | .ok p =>
        match p.dest with
        | .main pa key true _ =>
          match mainHold s pa 4 with
          | some _ => s
          | none =>
            let r := readEarly (keepCopies s t.core p.copies) t.core pa key 4
            modTeam r.2.2 t fun tm => tm.setElem q i k fun y =>
              { y with state := .arrived (some r.2.1), value := BitVec.ofNat 32 (natOfBytes r.1), used := p.used }
        | _ => s

/-- QUEUE_ELEMENT_PERFORM (R197 to R199, R404): an element arrives early (`fetch` names its queue, its entry's place and its own), or the
elements of the next queue load that leave the package are charged and sent, and its elements are performed together or poisoned; the
group waits when an element's place does not answer or the poison area is full. DESIGN CHOICE (log 105): a queue load with more
poisoned elements than the area has free slots takes none of them, so that one with more than 64 is never performed. -/
def execQueueElementPerform (t : TeamId) (fetch : Option (Nat × Nat × Nat)) (s : State) : Host.Outcome State Fault Refusal :=
  .next <|
    match teamAt s t with
    | none => s
    | some tm =>
      if !loadsMove s t tm then s
      else match fetch with
        | some (q, i, k) => fetchElem s t tm q i k
        | none => if loadsHeld s (tm.name none) then s else performGroup (sendElems 1024 s t) t

/-! ### Caches (R293, R353 to R355) -/

/-- LINE_FILL (R293, R334): an absent line of main memory is filled with timestamps mts; a victim of the same home slice is evicted where the
slice's 2,048 lines are full. A poisoned line is no victim. -/
def execLineFill (line : Nat) (victim : Option Nat) (s : State) : Host.Outcome State Fault Refusal :=
  .next <|
    if !populated s (128 * line) 128 || (Table.get s.lines line).isSome || lineStatus s line true != .serves then s
    else
      let h := homeSlice line
      let s1 := match victim with
        | none => s
        | some v => if homeSlice v = h ∧ (lineAt s v).poisoned = [] then evictLine s v else s
      if (linesAtHome s1 h).length < 2048 then putLine s1 line (lineAt s1 line) else s

/-- Lines of a partition in a set. -/
def linesOfPart (xs : List CachedLine) (p : Nat) : Nat := (xs.filter fun c => c.part == p).length

/-- The partition furthest over its quota in a set, the lower on ties (R354). -/
def furthestOver (s : State) (xs : List CachedLine) : Option Nat :=
  ((List.range 64).filter fun p => decide ((partition s p).quota < linesOfPart xs p)).foldl (fun m p =>
    match m with
    | none => some p
    | some q =>
      if linesOfPart xs q - (partition s q).quota < linesOfPart xs p - (partition s p).quota then some p else some q) none

/-- The victim's partition of a fill by partition q of a set without room (R354); none when it does not allocate. -/
def victimPart (s : State) (xs : List CachedLine) (q : Nat) : Option Nat :=
  let mine := linesOfPart xs q
  let quota := (partition s q).quota
  if quota = 0 ∧ mine = 0 then none
  else
    match (if mine < quota then furthestOver s xs else none) with
    | some p => some p
    | none => if mine = 0 then none else some q

/-- A set without its least recently used line of a partition. -/
def dropLru (p : Nat) : List CachedLine → List CachedLine
  | [] => []
  | c :: cs => if c.part = p then cs else c :: dropLru p cs

/-- A 64-bit counter one higher, saturating (R355). -/
def inc64 (x : DWord) : DWord := satAdd64 x 1

/-- The counters after a fill by q evicts a line of p (R355). -/
def countEviction (s : State) (q p : Nat) : State :=
  let s := modPartition s p fun x => { x with occ := x.occ - 1 }
  if p = q then modPartition s q fun x => { x with evict := inc64 x.evict }
  else modPartition s p fun x =>
    { x with quotaEvict := (if x.quotaEvict = BitVec.allOnes 48 then x.quotaEvict else x.quotaEvict + 1), cause := x.why }

/-- A line added to a set by a partition. -/
def addCached (s : State) (set : Nat) (xs : List CachedLine) (line q : Nat) : State :=
  modPartition { s with cacheSets := Table.put s.cacheSets set (xs ++ [⟨line, q⟩]) } q fun x =>
    { x with occ := inc64 x.occ }

/-- The set of the memory-side cache in which a line stands (R353; log 106). -/
def cacheSetOf (line : Nat) : Nat := Config.cacheSet line % 8388608

/-- The partition of the access that takes a line into the cache: its world's PART, or 0 for owner structures (R343, R353). -/
def partOf (s : State) (owner : Bool) (world : Nat) : Nat := if owner then 0 else wfield (wkey s world) 21 16

/-- A partition's utility monitor (R354). -/
def monitor (s : State) (p : Nat) : Monitor := Table.getD s.monitors p ⟨[], List.replicate 16 0⟩

/-- A monitor after an access to a line of a set: its shadow tags are LRU stacks of 16, and a hit counts at its depth (R354). -/
def Monitor.note (m : Monitor) (set line : Nat) : Monitor :=
  let xs := Table.getD m.tags set []
  { tags := Table.put m.tags set ((line :: xs.filter fun x => x != line).take 16)
    hits := match findIdx (fun x => x == line) xs 0 with
      | none => m.hits
      | some d => listModify (· + 1) m.hits d.1 }

/-- The monitor of a partition sees its access to a line of a set that it watches (R354; log 106). -/
def watchCache (s : State) (p set line : Nat) : State :=
  if set % 1024 = Config.monitoredSet % 1024 then
    { s with monitors := Table.put s.monitors p ((monitor s p).note set line) }
  else s

/-- MSC_FILL (R353, R354, R451): an access of a world, or to an owner structure, takes a line of main memory (R334) into its set of the memory-side cache; a line
that the set holds is a hit, and becomes the most recently used. A line whose memory link does not answer is not filled. -/
def execMscFill (line : Nat) (owner : Bool) (world : Nat) (s : State) : Host.Outcome State Fault Refusal :=
  let set := cacheSetOf line
  let part := partOf s owner world
  .next <|
    if !populated s (128 * line) 128 || lineStatus s line true != .serves then s
    else
      let s := watchCache s part set line
      let xs := Table.getD s.cacheSets set []
      match xs.find? fun c => c.line == line with
      | some c =>
        modPartition { s with cacheSets := Table.put s.cacheSets set ((xs.filter fun x => x.line != line) ++ [c]) } part
          fun x => { x with hits := inc64 x.hits }
      | none =>
        let s := modPartition s part fun x => { x with misses := inc64 x.misses }
        if (partition s part).quota = 0 ∧ linesOfPart xs part = 0 then s
        else if xs.length < 16 then addCached s set xs line part
        else match victimPart s xs part with
          | none => s
          | some p => addCached (countEviction s part p) set (dropLru p xs) line part

/-! ### WAITA (R284, R285) -/

/-- A WAITA's read made again at its place (R285). -/
def rereadOf (s : State) (w : SliceName) (tm : Team) (c : Nat) (x : Watched) : Access :=
  { n := s.nextAccess, who := w, world := tm.world, core := c, kind := .wait x.old, place := x.place, size := 4, lw := 0, off := 0,
    pc := 0, next := x.next, data := 0, bytes := [], sink := .none, pops := x.pops, used := x.used, pos := 0, trace := {},
    allowance := 32, performed := false, result := [], sent := false, parts := 0, sends := [], asked := false, lost := false,
    ordinal := 0, granted := 0, payCore := c }

/-- A waiting WAITA is woken (R285): its core is no longer recorded on the word's line, by the write or the reuse of the entry, or the
gang was restored. A word of a tile is read again freely, which shows nothing unless it was written. -/
def wokenAt (s : State) (c : Nat) (x : Watched) : Bool :=
  match x.place with
  | .main pa _ _ => x.woken || !recorded s (pa / 128) c
  | .scratch _ _ | .host _ | .weight _ _ | .fabric _ _ _ _ | .window _ _ _ => true

/-- A waiting WAITA goes back to its instruction, which walks afresh (R344). -/
def Slice.unwatch (sl : Slice) : Slice :=
  { sl with run := if sl.run = .parked .address then .runnable else sl.run, stall := none, waits := none, watched := none }

/-- A woken WAITA reads its word afresh (R285, R365): it completes where the word differs, and waits again where it does not. -/
def rereadWord (s : State) (id : SliceId) (tm : Team) (x : Watched) : State :=
  let w := tm.name id.strand
  let a := rereadOf s w tm id.core x
  match readPlace s a true with
  | none => refuseAtPlace s a
  | some (bs, s) =>
    let s := noteAccess s a
    if BitVec.ofNat 32 (natOfBytes bs) = x.old then parkAddress s w x
    else completeNamed (commitPops (modSlice s id fun sl => { sl.unwatch with ready := s.clock }) w x.pops) w x.next

/-- WAITA_WAKE (R285). -/
def execWaitaWake (id : SliceId) (s : State) : Host.Outcome State Fault Refusal :=
  .next <|
    match sliceAt s id with
    | none => s
    | some (tm, sl) =>
      match sl.watched with
      | none => s
      | some x =>
        if !mayMove s id then s
        else if x.stale then modSlice s id fun sl => { sl.unwatch with ready := s.clock }
        else if wokenAt s id.core x then rereadWord s id tm x
        else s

/-! ### Logical time (R362, R363) -/

/-- The package's greatest ct (R363): of the cores that something has touched, and of an idle one while there is one. -/
def greatestCt (s : State) : Word :=
  let idle := (Core.idle.tickCt s.clock).ct
  match s.cores with
  | [] => idle
  | p :: ps => ps.foldl (fun m p => laterOf m p.2.ct) (if s.cores.length < 384 then laterOf idle p.2.ct else p.2.ct)

/-- A value that lags more than 2^30 behind the greatest ct, raised to the greatest ct minus 2^29 (R363). -/
def raised (g x : Word) : Option Word :=
  let d := (g - x).toNat
  if 2 ^ 30 < d ∧ d < 2 ^ 31 then some (g - 0x20000000) else none

/-- A value raised where it lags. -/
def raise (g x : Word) : Word := (raised g x).getD x

/-- A value lags. -/
def lags (g x : Word) : Bool := (raised g x).isSome

/-- A line's timestamps raised at its home slice. A lease that does not lag is kept (log 113). -/
def Line.raise (g : Word) (l : Line) : Line := { l with wts := Machine.raise g l.wts, rts := laterOf l.rts (Machine.raise g l.wts) }

/-- An element that arrived early with a lease that lags is fetched again. -/
def Elem.raise (g : Word) (e : Elem) : Elem :=
  match e.state with
  | .arrived (some (wts, lrt)) => if lags g wts || lags g lrt then { e with state := .pending } else e
  | .pending | .sent _ | .arrived none | .failed _ | .performed | .poisoned _ => e

/-- What a slice waits for, its time raised. -/
def Slice.raise (g : Word) (sl : Slice) : Slice :=
  { sl with waits := sl.waits.map fun w =>
      match w with
      | .passed t => .passed (t.map (Machine.raise g))
      | w => w }

/-- The published times of a table raised. -/
def raiseTable (g : Word) (t : Table Word) : Table Word := t.map fun p => (p.1, raise g p.2)

/-- A weight slot's time raised. -/
def WSlot.raise (g : Word) (x : WSlot) : WSlot := { x with ts := x.ts.map (Machine.raise g) }

/-- A team's times raised. -/
def Team.raise (g : Word) (tm : Team) : Team :=
  let up (t : Option Word) : Option Word := t.map (Machine.raise g)
  { tm.mapSlices (Slice.raise g) with
    fqueues := tm.fqueues.map fun q => { q with entries := q.entries.map fun e =>
      { e with ts := up e.ts, elems := e.elems.map (Elem.raise g) } }
    bqueues := tm.bqueues.map fun q => { q with entries := q.entries.map fun e => { e with ts := up e.ts } }
    tiles := tm.tiles.map fun x => { x with ts := raiseTable g x.ts }
    accs := tm.accs.map fun x => { x with ts := up x.ts }
    bars := tm.bars.map fun x => { x with tsNow := up x.tsNow, tsDone := up x.tsDone } }

/-- A Sluice command's time raised. -/
def Channel.raise (g : Word) (c : Channel) : Channel := { c with ts := Machine.raise g c.ts }

/-- The times that an array command latched raised. -/
def ArrayCmd.raise (g : Word) (a : ArrayCmd) : ArrayCmd := { a with slots := a.slots.map (WSlot.raise g) }

/-- The times of a command that waits for its place raised. -/
def Reissue.raise (g : Word) (r : Reissue) : Reissue :=
  match r with
  | .copy c a => .copy (c.raise g) (a.map (ArrayCmd.raise g))
  | .array a => .array (a.raise g)
  | .tempty e => .tempty e

/-- A bank's times raised. -/
def Bank.raise (g : Word) (b : Bank) : Bank :=
  { b with
    teams := b.teams.map fun p => (p.1, p.2.raise g)
    wslots := b.wslots.map (WSlot.raise g)
    sluice := b.sluice.map fun p => (p.1, p.2.raise g)
    array := b.array.map fun p => (p.1, p.2.raise g)
    reissue := b.reissue.map (Reissue.raise g)
    copies := b.copies.map fun x => (x.1, x.2.1, x.2.2.raise g) }

/-- A saved member's times raised. -/
def SavedTeam.raise (g : Word) (v : SavedTeam) : SavedTeam :=
  { v with
    team := v.team.raise g, work := v.work.map (Reissue.raise g)
    slots := v.slots.map fun p => (p.1, p.2.raise g), ct := Machine.raise g v.ct }

/-- A core's times raised; copies of `old` lines, and copies that lag, are dropped. -/
def Core.raise (g : Word) (now : DWord) (old : List Nat) (k : Core) : Core :=
  { k with
    ct := Machine.raise g k.ct, sl := Machine.raise g k.sl, ctSince := if lags g k.ct then now else k.ctSince
    copies := k.copies.filter fun c => !old.contains c.line && !lags g c.wts && !lags g c.lrt
    active := k.active.raise g, shadow := k.shadow.map (Bank.raise g), outgoing := k.outgoing.map (Bank.raise g) }

/-- LOGICAL TIME RAISED (R363): every live value that lags, those of cores and home slices that stand at their reset value among them;
a raised line's core-cache copies are dropped. -/
def raiseTimes (s : State) : State :=
  let g := greatestCt s
  let old := (s.lines.filter fun p => lags g p.2.wts || lags g p.2.rts).map (·.1)
  let cores := if lags g (Core.idle.tickCt s.clock).ct || lags g 0 then (List.range 384).map fun c => (c, core s c) else s.cores
  let mts := if lags g 0 then (List.range 1536).map fun h => (h, Table.getD s.mts h 0) else s.mts
  { s with
    cores := cores.map fun p => (p.1, p.2.raise g s.clock old)
    hl := raise g s.hl, fl := raise g s.fl
    lines := s.lines.map fun p => (p.1, p.2.raise g)
    mts := raiseTable g mts
    counterTs := raiseTable g s.counterTs
    launches := s.launches.map fun l => { l with ts := l.ts.map (raise g), seen := l.seen.map (raise g) }
    gangs := s.gangs.map fun x => { x with saved := x.saved.map (SavedTeam.raise g) }
    queues := s.queues.map fun p => (p.1, { p.2 with stamps := raiseTable g p.2.stamps })
    pledges := s.pledges.map fun p => { p with ts := raise g p.ts } }

/-- CT_TICK (R362): a core's ct rises by 1 when it has not changed for 128 ac cycles. It does so without this event too, as time passes
(`passCycles`). -/
def execCtTick (c : Nat) (s : State) : Host.Outcome State Fault Refusal :=
  .next <|
    let k := core s c
    if 128 ≤ (s.clock - k.ctSince).toNat then raiseTimes (setCt s c (k.ct + 1)) else s

/-- DROWSY (R213): a segment of a core's active bank that nothing has touched for 256 ac cycles drops to its retention voltage; its
contents stay. -/
def execDrowsy (c seg : Nat) (s : State) : Host.Outcome State Fault Refusal :=
  .next <|
    let k := core s c
    if 192 ≤ seg ∨ (s.clock - Table.getD k.touched seg 0).toNat < 256 ∨ k.drowsy.contains seg = true then s
    else modCore s c fun k => { k with drowsy := k.drowsy ++ [seg] }

/-! ### Refresh and the write combiner -/

/-- Nominal ac cycles until a bank's refresh window next begins or ends (R301). -/
def untilRefresh (s : State) (bank : Nat) : Nat :=
  let p := s.wall % (32 * refreshWindow)
  let start := refreshWindow * bank
  if refreshing s bank then start + refreshWindow - p
  else (start + 32 * refreshWindow - p) % (32 * refreshWindow)

/-- REFRESH (R301): time passes to the moment at which a bank enters or leaves its window. -/
def execRefresh (bank : Nat) (s : State) : Host.Outcome State Fault Refusal :=
  .next <|
    if 32 ≤ bank then s
    else
      let n := untilRefresh s bank
      passCycles s (if s.service.halved then (n + 1) / 2 else n)

/-- COMBINER_DRAIN (R326, R369): a held write is delivered to host memory. -/
def execCombinerDrain (n : Nat) (s : State) : Host.Outcome State Fault Refusal :=
  .next <|
    deliverNth s n

end Sys2Proof.Machine
end

