-- ==== Sys2Proof/Machine/TeamEvents.lean ====
section
/-! DEFINITION. Barrier contributions in flight (spec/16 R278, R279) and the end of a team (spec/13 R240), with the allowance
entries that it releases (spec/23 R400). -/

namespace Sys2Proof.Machine

/-- BARRIER_CONTRIBUTION (R278): a contribution in flight is applied at the team that holds the barrier. -/
def execBarrierContribution (n : Nat) (s : State) : Host.Outcome State Fault Refusal :=
  .next <|
    match s.pledges[n]? with
    | none => s
    | some p =>
      contributeTo { s with pledges := s.pledges.eraseIdx n } p.launch p.gang p.gteam p.bar p.arrivals p.bytes p.ts

/-- The slices of a team, named at a place. -/
def sliceIds (t : TeamId) (tm : Team) : List SliceId := tm.members.map fun p => ⟨t.core, t.slot, p.1⟩

/-! ### The end of a team (R240) -/

/-- A bank holds a command of a team that has not completed. -/
def Bank.busy (b : Bank) (slot : Nat) : Bool :=
  (b.copyCmds.any fun c => c.slot == slot) || (b.arrayCmds.any fun a => a.slot == slot) ||
  (b.emptyCmds.any fun e => e.slot == slot)

/-- A gang peer's accepted store into a team's tiles has not been performed (R240). -/
def storesInto (s : State) (tm : Team) : Bool :=
  s.inflight.any fun a => a.who.launch == tm.launch && a.who.gang == tm.gang && !a.performed && a.writes &&
    (match a.place with
     | .scratch g _ => g == tm.gteam
     | .main _ _ _ | .host _ | .weight _ _ | .fabric _ _ _ _ | .window _ _ _ => false)

/-- A team may end now: its slices have, its commands have completed, and it stands in a gang that runs, or was killed. -/
def teamMayEnd (s : State) (t : TeamId) (tm : Team) : Bool :=
  tm.over && !(core s t.core).active.busy t.slot && !storesInto s tm && (tm.killed || gangRuns s tm.launch tm.gang)

/-- A stack line whose write-back by no access of a slice meets a fault keeps its place, and the failing level's owner is told, with the
gang as requester (R223; log 114). -/
def postSpill (s : State) (id : SliceId) (tm : Team) (line : Nat) (f : PathFault) : State :=
  let q : Requester := {
    identity := identityBits s.regs.number { id with strand := none }, world := tm.world
    off := BitVec.ofNat 64 (stackBase s tm id.strand + 128 * line), size := 128 }
  if f.hold.isSome then s
  else match f.cause.cls with
    | .miss | .violation => postFault s tm.launch q f .nobody
    | .encoding | .program | .debug | .data | .event => s

/-- A stack line given up: written back where its path lets it (R223). -/
def giveUpLine (c : Nat) (s : State) (x : Nat × Option Nat × Nat × List Byte) : State :=
  match Table.get (core s c).active.teams x.1 with
  | none => s
  | some tm =>
    match writeBackLine s c tm x.2.1 x.2.2.1 x.2.2.2 with
    | .ok s => dropStack s c x.1 x.2.1 x.2.2.1
    | .error f => postSpill s ⟨c, x.1, x.2.1⟩ tm x.2.2.1 f

/-- THE CORE CACHE IS CARVED AGAIN for a changed resident set (R215): the oldest copies beyond its room are dropped, stack lines beyond it
written back. -/
def recarve (s : State) (c : Nat) : State :=
  let b := (core s c).active
  let ls := b.stackLines
  let s := (ls.take (ls.length - b.cacheLines)).foldl (giveUpLine c) s
  modCore s c fun k => { k with copies := k.copies.drop (k.copies.length - k.copyRoom) }

/-- A slice of a team. -/
def Team.owns (tm : Team) (w : SliceName) : Bool := tm.is w.launch w.gang w.gteam

/-- LAUNCHes of a team wait no more. -/
def quitLaunches (s : State) (tm : Team) : State :=
  { s with launchWaits := s.launchWaits.filter fun x => !tm.owns x.2 }

/-- A team released (R240): its elements discarded with its context, its slot free. Stores of it that are held are sent again all the
same (R137), but for those of a team that was killed (R387). -/
def endTeam (s : State) (t : TeamId) (tm : Team) : State :=
  let s := leaveAll s t.core t.slot
  let s := if tm.killed then discardTeam s tm else keepLate s tm t.core
  let s := (tm.stackLines.map fun x => (t.slot, x)).foldl (giveUpLine t.core) s
  let s := modBank s t.core fun b => { b with teams := Table.del b.teams t.slot }
  let s := modGang s tm.launch tm.gang fun g => g.endTeam tm.gteam (widthOf s tm.launch)
  releaseEntries (settleOver (quitLaunches s tm) tm.launch tm.gang tm.gteam) t.core

/-- TEAM_END (R240). -/
def execTeamEnd (t : TeamId) (s : State) : Host.Outcome State Fault Refusal :=
  .next <|
    match teamAt s t with
    | none => s
    | some tm => if teamMayEnd s t tm then endTeam s t tm else s

end Sys2Proof.Machine
end

