-- ==== Sys2Proof/Machine/Placement.lean ====
section
/-! DEFINITION. What placing, saving and restoring a gang do (spec/19 R309 to R323, spec/12 R214 to R220, spec/14 R265, spec/23
R400, R407), and the checks of a launch record (R310). -/

namespace Sys2Proof.Machine

/-! ### Team records (spec/04 R62 to R64) -/

/-- A queue declaration (R63); none where it is not a valid one. -/
def parseQueue (back : Bool) (v : Nat) : Option QueueDecl :=
  let kind := v / 2 ^ 14
  let rule := v / 2 ^ 11 % 8
  let float := v / 2 ^ 10 % 2 == 1
  let depth := v % 64 + 1
  if v = 0 then some ⟨.undeclared, .first, false, 0⟩
  else if kind = 0 ∨ kind = 3 ∨ v / 64 % 16 ≠ 0 then none
  else if back ∧ kind = 1 then
    match rule with
    | 0 => some ⟨.uniform, .first, float, depth⟩
    | 1 => some ⟨.uniform, .sum, float, depth⟩
    | 2 => some ⟨.uniform, .max, float, depth⟩
    | 3 => if float then none else some ⟨.uniform, .or, false, depth⟩
    | _ => none
  else if rule ≠ 0 ∨ float then none
  else some ⟨if kind = 1 then .uniform else .lane, .first, false, depth⟩

/-- Options all given. -/
def allSome {α : Type} : List (Option α) → Option (List α)
  | [] => some []
  | none :: _ => none
  | some x :: rest => (allSome rest).map (x :: ·)

/-- A team record's fields (R62), with the limits of R62 to R64 checked. DESIGN CHOICE: where INDEX is not the record's place among the
launch's (log 110), or a reserved byte is not zero (log 111), the record breaks a limit.  -/
def parseTeam (bs : List Byte) (i : Nat) : Option TeamDecl :=
  let u (o n : Nat) : Nat := natOfBytes ((bs.drop o).take n)
  match allSome ((List.range 10).map fun q => parseQueue (decide (8 ≤ q)) (u (16 + 2 * q) 2)) with
  | none => none
  | some qs =>
    let d : TeamDecl := {
      strands := u 4 2, wregs := u 6 1, kregs := u 7 1, accs := u 8 1, index := u 9 1, queues := qs
      aentry := BitVec.ofNat 32 (u 36 4), centry := BitVec.ofNat 32 (u 40 4)
      tiles := (List.range 64).map fun t => u (64 + t) 1
      lstack := (List.range 8).map fun k => BitVec.ofNat 64 (u (128 + 8 * k) 8)
      bars := (List.range 16).map fun k => (u (192 + 8 * k) 4, u (196 + 8 * k) 4) }
    if 1 ≤ d.strands ∧ d.strands ≤ 1024 ∧ 1 ≤ d.wregs ∧ d.wregs ≤ 116 ∧ 1 ≤ d.kregs ∧ d.kregs ≤ 116 ∧ d.accs ≤ 4 ∧
        d.index = i ∧ u 10 6 = 0 ∧ u 44 20 = 0 ∧ u 320 192 = 0 ∧ (d.tiles.all fun n => decide (n ≤ 64)) ∧
        teamArea d ≤ 720896 then some d
    else none

/-- A team's entries lie in the segment, at words (R62). -/
def entriesOk (d : TeamDecl) (size : Nat) : Bool :=
  d.aentry.toNat % 4 == 0 && d.centry.toNat % 4 == 0 && decide (d.aentry.toNat < size ∧ d.centry.toNat < size)

/-! ### The checks of a record (R310) -/

/-- The distributor's access through a label word of a record, past stations D and P of the world (R309). -/
def recordPath (s : State) (launch world : Nat) (lw : DWord) (off size : Nat) (need : BitVec 6) : Except PathFault Path :=
  stationD s { core := 0, launch := launch, gang := 0, world := world, off := off, size := size, need := need, req := .plain }
    { lw := lw }

/-- The bytes that it reads; none where the read meets a trap. -/
def recordRead (s : State) (launch world : Nat) (lw : DWord) (off size : Nat) (need : BitVec 6) : Option (List Byte) :=
  match recordPath s launch world lw off size need with
  | .error _ => none
  | .ok p => readDest s p.dest size

/-- A reserved field is non-zero, or a value breaks a limit (R309, R223). -/
def recordBad (ws : List DWord) : Bool :=
  let w (i : Nat) : DWord := listGetD ws i 0
  field (w 0) 29 0 != 0 || field (w 1) 62 60 != 0 || field (w 1) 46 44 != 0 || field (w 1) 30 28 != 0 ||
  field (w 1) 14 12 != 0 || field (w 2) 62 60 != 0 || field (w 2) 47 32 != 0 || field (w 3) 62 60 != 0 ||
  field (w 3) 47 32 != 0 || field (w 9) 63 48 != 0 || w 14 != 0 || w 15 != 0 ||
  field (w 16) 47 32 != 0 || ((List.range 7).any fun i => w (17 + i) != 0) || field (w 31) 63 48 != 0 || recTrapSlots ws == 0 ||
  decide (2 ^ 48 < field (w 11) 47 0 + 16384 * 1025 * recWidth ws * recFrames ws) ||
  ((List.range 31).any fun i =>
    let p := field (w (24 + i / 4)) (16 * (i % 4) + 15) (16 * (i % 4))
    decide (4608 ≤ p) && p != 0xFFFF)

/-- Every valid counter field names a VALID counter of the world (R310). -/
def countersOk (s : State) (world : Nat) (ws : List DWord) : Bool :=
  (counterFields (listGetD ws 1 0) ++ (recWaits ws).map fun w => some w.1).all fun c =>
    match c with
    | none => true
    | some i => (counterStop s world i).isNone

/-- What stands against a read of many blocks. -/
def longHold (s : State) (d : Dest) (n : Nat) : Option Hold :=
  match d with
  | .weight dd wa => (blocksOf wa n).findSome? fun b => blockFault s dd b false
  | .main _ _ _ _ | .host _ | .scratch _ _ | .regs _ | .stack _ | .fabric _ _ | .window _ _ _ _ => destHold s d n

/-- A read through a label word of a record does not answer now (R304, R451). DESIGN CHOICE (log 121): a read of many blocks of the weight
store is one step of the model, and so waits for no bank's refresh. -/
def recordHeld (s : State) (launch world : Nat) (lw off : DWord) (size : Nat) (need : BitVec 6) : Bool :=
  match recordPath s launch world lw (field off 47 0) size need with
  | .error f => f.hold.isSome
  | .ok p => (longHold s p.dest size).isSome

/-- A read that the checks of a record make does not answer now, so that they wait. -/
def recordWaits (s : State) (launch world : Nat) (ws : List DWord) : Bool :=
  let w (i : Nat) : DWord := listGetD ws i 0
  let held := recordHeld s launch world
  held (w 8) (w 9) (512 * recWidth ws) permR || held (w 4) (w 5) (recCodeSize ws) permX ||
  (decide (field (w 7) 63 48 ≠ 0) && held (w 6) (w 7) (16 * field (w 7) 63 48) permR) ||
  held (w 12) (w 13) (64 * recTrapSlots ws) permR || (fieldsHold s (w 1)).isSome ||
  (recWaits ws).any fun x => (counterHold s x.1).isSome

/-- The team records of a record; none where they cannot be read. -/
def readTeams (s : State) (launch world : Nat) (ws : List DWord) : Option (Option (List TeamDecl)) :=
  (recordRead s launch world (listGetD ws 8 0) (field (listGetD ws 9 0) 47 0) (512 * recWidth ws) permR).map fun bs =>
    allSome ((List.range (recWidth ws)).map fun i => parseTeam ((bs.drop (512 * i)).take 512) i)

/-- A record checked (R310): its teams and its code segment, or the first failing REASON. -/
def checkRecord (s : State) (launch world : Nat) (ws : List DWord) (handler : Bool) : Except Nat (List TeamDecl × List Word) :=
  let w (i : Nat) : DWord := listGetD ws i 0
  let read (lw off : DWord) (size : Nat) (need : BitVec 6) : Option (List Byte) :=
    recordRead s launch world lw (field off 47 0) size need
  let teams := readTeams s launch world ws
  if recordBad ws then .error 1
  else if !countersOk s world ws then .error 2
  else if teams == some none then .error 3
  else match teams with
    | none | some none => .error 4
    | some (some ds) =>
      if !(ds.all fun d => entriesOk d (recCodeSize ws)) then .error 3
      else match read (w 4) (w 5) (recCodeSize ws) permX with
        | none => .error 4
        | some code =>
          if field (w 7) 63 48 ≠ 0 ∧ (read (w 6) (w 7) (16 * field (w 7) 63 48) permR).isNone then .error 4
          else if (read (w 12) (w 13) (64 * recTrapSlots ws) permR).isNone then .error 4
          else if recLoader ws ∧ recDies ws = 0 ∨ recRole ws ≠ handler then .error 5
          else .ok (ds, wordsOf (recCodeSize ws / 4) code)

/-! ### The launch count (R310) -/

/-- A value of the launch count that an incomplete launch holds. -/
def countTaken (s : State) (n : Word) : Bool := s.launches.any fun l => !l.done && l.id == n.toNat

/-- The first value of the launch count from one on that is not 0 and that no incomplete launch holds. -/
def nextCount (s : State) : Nat → Word → Word
  | 0, n => n
  | k + 1, n => if n = 0 ∨ countTaken s n then nextCount s k (n + 1) else n

/-- The next %launch value. -/
def nextLaunch (s : State) : Word := nextCount s (s.launches.length + 2) s.launchCount

/-! ### Where a gang fits (R314) -/

/-- The lowest free team slot of a bank. -/
def Bank.lowestSlot (b : Bank) : Nat := (Table.freeFrom b.teams 16 0).getD 16

/-- A core that a preloaded gang is to take. -/
def reservedCore (s : State) (c : Nat) : Bool :=
  s.gangs.any fun g => g.state == .preloaded && g.place.any fun t => t.core == c

/-- A core takes a team (R314, R215, R258). -/
def coreFits (s : State) (c world : Nat) (d : TeamDecl) : Bool :=
  let k := core s c
  let ds := k.active.teams.map fun p => p.2.decl
  !reservedCore s c && decide (k.active.teams.length < 16) &&
  decide ((ds.map teamArea).sum + teamArea d + 65536 ≤ 786432) && decide ((ds.map TeamDecl.accs).sum + d.accs ≤ 16) &&
  decide ((ds.map TeamDecl.strands).sum + d.strands ≤ 4096) && (ds.isEmpty || k.world == world)

/-- The lowest cores of a list that each take the next team, in order. -/
def pickCores (s : State) (world : Nat) : List Nat → List TeamDecl → Option (List TeamId)
  | _, [] => some []
  | [], _ :: _ => none
  | c :: cs, d :: ds =>
    if coreFits s c world d then (pickCores s world cs ds).map (⟨c, (core s c).active.lowestSlot⟩ :: ·)
    else pickCores s world cs (d :: ds)

/-- The cores of cluster n of the package, 0 to 47. -/
def clusterCores (n : Nat) : List Nat := (List.range 8).map fun i => 8 * n + i

/-- The dies that a launch's DIEMASK names. -/
def diesOf (l : Launch) : List Nat :=
  (List.range 4).filter fun d => recDies l.words == 0 || (recDies l.words).testBit d

/-- 1 ms of wall-clock time in nominal ac cycles (R301). -/
def millisecond : Nat := 1050000

/-- The handler of the oldest message has waited 10 ms as a loader for a die (R316, R327). -/
def handlerHolds (s : State) (d : Nat) : Bool :=
  match s.loaderHandler with
  | none => false
  | some (ds, since) => ds.contains d && decide (10 * millisecond ≤ s.wall - since)

/-- The first gang of another loader launch has waited 10 ms for a die (R316). -/
def loaderHolds (s : State) (l : Launch) (d : Nat) : Bool :=
  handlerHolds s d || s.launches.any fun o => o.id != l.id && o.current && o.placed == 0 && o.loaderOver && (diesOf o).contains d

/-- A gang of a launch may take a cluster (R13, R303, R316); `fresh` for one placed for the first time. -/
def clusterOpen (s : State) (l : Launch) (fresh : Bool) (n : Nat) : Bool :=
  let d := n / 12
  unitState s n == .inService && !(die s d).stopped && (diesOf l).contains d &&
  ((die s d).loader == none || (die s d).loader == some l.id) && !(fresh && loaderHolds s l d)

/-- The free team slots of a cluster. -/
def freeSlots (s : State) (n : Nat) : Nat := ((clusterCores n).map fun c => 16 - (core s c).active.teams.length).sum

/-- The cluster with the fewest free slots of those on which a gang fits, ties to the lowest, with the places it takes. -/
def bestFit (s : State) (l : Launch) (fresh : Bool) (ds : List TeamDecl) : Option (List TeamId) :=
  ((List.range 48).foldl (fun (m : Option (Nat × List TeamId)) n =>
    if !clusterOpen s l fresh n then m
    else match pickCores s l.world (clusterCores n) ds with
      | none => m
      | some ts =>
        match m with
        | some (k, _) => if freeSlots s n < k then some (freeSlots s n, ts) else m
        | none => some (freeSlots s n, ts)) none).map (·.2)

/-- The stack frames that a launch's gangs hold (R223), in rising order. -/
def framesHeld (s : State) (l : Launch) : List Nat :=
  ((s.gangs.filter fun g => g.launch == l.id && g.state != .ended).foldl
    (fun (t : Table Unit) g => Table.put t g.frame ()) []).map (·.1)

/-- The k-th number that is not among numbers in rising order. -/
def nthFree : List Nat → Nat → Nat
  | [], k => k
  | f :: fs, k => if f ≤ k then nthFree fs (k + 1) else k

/-- The free frame that a launch's next gang takes; none where none is free (R223; log 19). -/
def frameFor (s : State) (l : Launch) : Option Nat :=
  let held := framesHeld s l
  let free := recFrames l.words - held.length
  if free = 0 then none else some (nthFree held (Config.freeFrame l.id l.placed % free))

/-- A gang of another launch stands on, preloaded into or saved from a die of a loader launch (R316): where its live members stand, or
stood last. -/
def diesBusy (s : State) (l : Launch) : Bool :=
  s.gangs.any fun g => g.launch != l.id && g.state != .ended && (List.range g.place.length).any fun n =>
    !g.ended.contains n && (g.place[n]?).any fun t => (diesOf l).contains (dieOf t.core)

/-- A loader's first gang waits for its dies. -/
def loaderWaits (s : State) (l : Launch) : Bool := recLoader l.words && l.placed == 0 && diesBusy s l

/-- The members of a gang that have not ended, in order of their index. -/
def Gang.live (g : Gang) (width : Nat) : List Nat := (List.range width).filter fun n => !g.ended.contains n

/-- The declarations of members. -/
def Launch.declsOf (l : Launch) (ns : List Nat) : List TeamDecl := ns.filterMap fun n => l.decls[n]?

/-! ### Making a team (R94, R96, R99, R185) -/

/-- The default circle of a strand (R96). -/
def defaultCircle (strands i : Nat) : DWord :=
  BitVec.ofNat 64 (2 ^ min 64 (strands - i / 64 * 64) - 1)

/-- A slice at creation (R94). -/
def newSlice (s : State) (entry : Word) (regs : Nat) (step : Bool) (circle : DWord) : Slice :=
  { pc := entry, regs := List.replicate regs 0, sp := 16384, fflags := 0, circle := circle, stepBit := step, run := .runnable,
    stall := none, waits := none, blame := none, await := none, record := none, clockSample := 0, skip := false, stack := [],
    arrived := none, popped := List.replicate 8 0, pushed := List.replicate 2 0, poisonSeen := none, watched := none, held := [],
    scatter := [], linv := 0, backq := [], fabric := [], ready := s.clock, fetch := none }

/-- A team at creation (R99, R185, R241, R258, R277). -/
def newTeam (s : State) (l : Launch) (gang gteam : Nat) (d : TeamDecl) : Team :=
  let step := recStep l.words
  { decl := d, launch := l.id, gang := gang, gteam := gteam, world := l.world, level := l.level, labels := d.lstack
    addr := newSlice s d.aentry d.kregs step 0
    strands := (List.range d.strands).map fun i => newSlice s d.centry d.wregs step (defaultCircle d.strands i)
    fqueues := List.replicate 8 ⟨0, []⟩, bqueues := List.replicate 2 ⟨0, [], none⟩, loads := 0, bqWait0 := 0, bqWait1 := 0
    bqCycles := 0, fullCycles := 0, emptyCycles := 0, tiles := List.replicate 64 Tile.empty, scratch := []
    accs := List.replicate d.accs ⟨[], 0, 0, none⟩
    bars := d.bars.map fun b => ⟨0, (b.1 : Int), (b.2 : Int), none, none⟩, frozen := false, killed := l.cancelled }

/-! ### A core that takes a team (R220, R400, R326) -/

/-- A core with no resident team takes a world's latch, cleared (R220). -/
def latchWorld (s : State) (c world : Nat) : State :=
  modCore s c fun k =>
    if k.active.teams.isEmpty then
      { k with world := world, copies := if k.world = world then k.copies else []
               active := { Bank.empty with nextOrder := k.active.nextOrder } }
    else k

/-- An entry for a package and world is bound, or the package keeps the entry that it has, or it shares entry 31 (R400). DESIGN CHOICE (log
133): of the free entries the lowest. -/
def bindEntry (s : State) (c world pkg : Nat) : State :=
  let k := core s c
  if pkg = 0xFFFF ∨ allowIndex k world pkg ≠ 31 then s
  else match Table.freeFrom k.allow 31 0 with
    | none => s
    | some e => modAllow s c e fun _ => ⟨true, pkg, world, s.regs.icred, s.regs.icred, 0, []⟩

/-- The entries of a launch's DEST field bound at a core. -/
def bindEntries (s : State) (c : Nat) (l : Launch) : State := (destOf l).foldl (fun s p => bindEntry s c l.world p) s

/-- A core's ct merged with what a gang of a launch is to see: the submitter's time, and those of its wait counters (R326, R329). -/
def mergeSeen (s : State) (c : Nat) (l : Launch) : State :=
  (l.seen :: (recWaits l.words).map fun w => Table.get s.counterTs w.1).foldl (fun s t => mergeStamp s c t) s

/-- A core made ready for a team of a launch: entries that nothing needs any more are released before others are bound (R400). -/
def readyCore (s : State) (c : Nat) (l : Launch) : State :=
  mergeSeen (bindEntries (releaseEntries (latchWorld s c l.world) c) c l) c l

/-! ### Restoring a team (R265, R407, R98) -/

/-- A slice restored (R98, R329): parked again where it was, to re-examine its condition; a WAITA reads its word again (R285), a scatter's
elements and a LINV begin afresh. -/
def Slice.restored (s : State) (sl : Slice) : Slice :=
  { sl with
    await := none, watched := sl.watched.map fun x => { x with woken := true }
    scatter := sl.scatter.map fun x => { x with fresh := true }, linv := 0, ready := s.clock }

/-- A command with a new team slot and order. -/
def Reissue.renew (r : Reissue) (slot order : Nat) : Reissue :=
  match r with
  | .copy c f => .copy { c with slot := slot, order := order } (f.map fun a => { a with slot := slot, order := order })
  | .array a => .array { a with slot := slot, order := order }
  | .tempty e => .tempty { e with slot := slot, order := order }

/-- The order of a command. -/
def Reissue.order (r : Reissue) : Nat :=
  match r with
  | .copy c _ => c.order
  | .array a => a.order
  | .tempty e => e.order

/-- A master named anew where it is a channel of a team whose commands took new orders. -/
def Master.renew (w : SliceName) (m : List (Nat × Nat)) (x : Master) : Master :=
  match x with
  | .channel v o => if v = w then .channel v (((m.find? fun p => p.1 == o).map (·.2)).getD o) else x
  | .slice _ | .remote _ _ | .nobody => x

/-- The records that name channels of a team with their new orders. -/
def renewMasters (s : State) (w : SliceName) (m : List (Nat × Nat)) : State :=
  { s with
    waiting := s.waiting.map fun x => { x with master := x.master.renew w m }
    posted := s.posted.map fun x => { x with master := x.master.renew w m }
    remoteFaults := s.remoteFaults.map fun x => { x with master := x.master.renew w m } }

/-- The new orders of a saved team's commands in a bank. -/
def newOrders (b : Bank) (v : SavedTeam) : List (Nat × Nat) :=
  (v.work.zip (List.range v.work.length)).map fun p => (p.1.order, b.nextOrder + p.2)

/-- A waiter whose Sluice command took a new order. -/
def KeptWaiter.renew (m : List (Nat × Nat)) (x : KeptWaiter) : KeptWaiter :=
  match x with
  | .channel o pkg => .channel (((m.find? fun p => p.1 == o).map (·.2)).getD o) pkg
  | .slice _ _ | .elems _ | .resend _ _ | .marker _ _ => x

/-- A saved command is an MMAT, or a copy with one to follow, that reads a slot (R265). -/
def Reissue.readsSlot (r : Reissue) (n : Nat) : Bool :=
  match r with
  | .copy _ f => f.any fun a => a.readsSlot n
  | .array a => a.readsSlot n
  | .tempty _ => false

/-- The slot copies of a save that a bank takes: all into a bank that it has for itself; into one that it shares those of slots that held
weights or that an MMAT of the save reads (R217, R265). -/
def SavedTeam.slotsFor (v : SavedTeam) (alone : Bool) : Table WSlot :=
  v.slots.filter fun x => alone || x.2.full || v.work.any fun r => r.readsSlot x.1

/-- A bank with a saved team put into a slot, its commands to be reissued in their order, its slot copies to be placed. -/
def Bank.restore (s : State) (b : Bank) (slot : Nat) (v : SavedTeam) : Bank :=
  let n := v.work.length
  { b with
    teams := Table.put b.teams slot (v.team.mapSlices (Slice.restored s))
    reissue := b.reissue ++ (v.work.zip (List.range n)).map fun p => p.1.renew slot (b.nextOrder + p.2)
    copies := b.copies ++ (v.slotsFor (b.teams == [])).map fun x => (slot, x.1, x.2)
    rejoin := b.rejoin ++ v.waiting.map fun x => (slot, x.renew (newOrders b v))
    nextOrder := b.nextOrder + n }

/-- The channel of a team's command with an order. -/
def Bank.channelOf (b : Bank) (order : Nat) : Option Nat := (b.sluice.find? fun p => p.2.order == order).map (·.1)

/-- A kept waiter as a waiter of its new core, with its package; a command that holds no channel yet joins, in its place, when it walks (log 116). -/
def KeptWaiter.at (s : State) (t : TeamId) (x : KeptWaiter) : Option (Waiter × Nat) :=
  match x with
  | .slice w pkg => some (.slice ⟨t.core, t.slot, w⟩ pkg s.clock, pkg)
  | .elems pkg => some (.elems t pkg, pkg)
  | .channel order pkg => ((core s t.core).active.channelOf order).map fun n => (.channel n pkg, pkg)
  | .resend n pkg => some (.resend n, pkg)
  | .marker w p => some (.marker w p, p.target)

/-- A waiter joins the tail of an entry of its new core (R407): that of its package, or the shared one. -/
def joinEntry (s : State) (c : Nat) (x : Nat × KeptWaiter) : State :=
  match teamAt s ⟨c, x.1⟩, x.2.at s ⟨c, x.1⟩ with
  | some tm, some (w, pkg) =>
    let e := allowIndex (core s c) tm.world pkg
    serve (modAllow s c e fun a => { a with waiters := a.waiters ++ [w] }) c e
  | _, _ => s

/-- The waiters of a core's new teams join the entries in their saved order. -/
def joinEntries (s : State) (c : Nat) : State :=
  let xs := (core s c).active.rejoin
  let joined := xs.map fun x => (x.1, x.2, (x.2.at s ⟨c, x.1⟩).isSome)
  xs.foldl (fun s x => joinEntry s c x) (modBank s c fun b =>
    { b with rejoin := [], unjoined := b.unjoined ++ if joined.all fun x => x.2.2 then [] else joined })

/-- The fabric accesses of a team that have not been acknowledged. -/
def Team.unacked (tm : Team) (s : State) : List Access :=
  s.inflight.filter fun a => tm.owns a.who && a.place.scope == .fabric

/-- A team's unacknowledged accesses count at the core that takes it (R388), whose ct merges with that of the core it left (R361). -/
def adopt (s : State) (c : Nat) (v : SavedTeam) : State :=
  let n := (v.team.unacked s).length
  let s := { s with inflight := s.inflight.map fun a => if v.team.owns a.who then { a with core := c } else a }
  mergeCt (modCore s c fun k => { k with outstanding := k.outstanding + n }) c v.ct

/-- An element of a queue load through the slice's own windows is read where the restored team's tokens are issued (R203, R180). -/
def replayElem (t : TeamId) (s : State) (x : Nat × Nat × Nat × Elem) : State :=
  let lab := labelAt x.2.2.2.lw 0
  match teamAt s t with
  | none => s
  | some tm =>
    if x.2.2.2.state != .pending || !(lab == 0xFF10 || lab == 0xFF11) then s
    else match readElem s t tm x.2.2.2 with
      | .ok (s, v) => modTeam s t fun tm => tm.setElem x.1 x.2.1 x.2.2.1 fun e => { e with state := .arrived none, value := v }
      | .error f =>
        if f.hold.isSome then s
        else modTeam s t fun tm => tm.setElem x.1 x.2.1 x.2.2.1 fun e => { e with state := .failed (f.poison none) }

/-- Every forward-queue element of a team: queue, entry's place, its own place, itself. -/
def Team.elements (tm : Team) : List (Nat × Nat × Nat × Elem) :=
  (List.range tm.fqueues.length).flatMap fun q =>
    let es := (tm.fqueue q).entries
    (es.zip (List.range es.length)).flatMap fun e =>
      (e.1.elems.zip (List.range e.1.elems.length)).map fun x => (q, e.2, x.2, x.1)

/-- What ended while a team was away is met as it comes back: circles that a retired strand broke, and barriers of teams that have ended
(R162, R280; log 124). -/
def meetEnds (s : State) (t : TeamId) : State :=
  match teamAt s t with
  | none => s
  | some tm => (List.range (widthOf s tm.launch)).foldl (fun s n => settleOver s tm.launch tm.gang n) (circleTraps s t)

/-- A team that stands in its core's active bank goes on: the cache is carved for it, its own-window tokens read, its waiters join, its
held stores are sent again (R215, R203, R407, R387), and what ended meanwhile is met. -/
def settleTeam (s : State) (t : TeamId) : State :=
  let s := touch (recarve s t.core) t.core t.slot
  let s := match teamAt s t with
    | none => s
    | some tm => tm.elements.foldl (replayElem t) s
  meetEnds (resendTeam (joinEntries s t.core) t) t

/-- A member of a gang put into a core's active bank: restored from its save, or made (R99, R322). -/
def installTeam (s : State) (l : Launch) (g : Gang) (n : Nat) (t : TeamId) : State :=
  let s := readyCore s t.core l
  match g.saved.find? fun v => v.team.gteam == n with
  | some v =>
    let s := renewMasters s (v.team.name none) (newOrders (core s t.core).active v)
    let s := modBank s t.core fun b => b.restore s t.slot v
    let s := modGang s g.launch g.number fun g => { g with saved := g.saved.filter fun v => v.team.gteam != n }
    settleTeam (adopt s t.core v) t
  | none =>
    match l.decls[n]? with
    | none => s
    | some d => settleTeam (modBank s t.core fun b => b.putTeam t.slot (newTeam s l g.number n d)) t

/-- A gang's places with members set. -/
def putPlaces (width : Nat) (old : List TeamId) (ns : List Nat) (ts : List TeamId) : List TeamId :=
  (List.range width).map fun i =>
    match (ns.zip ts).find? fun p => p.1 == i with
    | some p => p.2
    | none => listGetD old i ⟨0, 0⟩

/-! ### Saving a team (R202, R219, R265, R319, R407) -/

/-- Where a member's context stands in its gang's block of the save pool (R320; log 50): the members' areas one behind another. -/
def memberOffset (s : State) (launch n : Nat) : Nat :=
  (((launchOf s launch).map fun l => l.decls.take n).getD []).map teamArea |>.sum

/-- The size of a gang's block. -/
def gangBytes (s : State) (launch : Nat) : Nat := memberOffset s launch (widthOf s launch)

/-- The block of a gang with a saved member. -/
def gangBlock (s : State) (g : Gang) : Option (Nat × Nat) :=
  g.saved.head?.map fun v => (v.pool - memberOffset s g.launch v.team.gteam, gangBytes s g.launch)

/-- The blocks of the save pool that are taken: offset and size. -/
def poolBlocks (s : State) : List (Nat × Nat) := s.gangs.filterMap (gangBlock s)

/-- The size of the save pool (R455). -/
def poolSize (s : State) : Nat := 4096 * field s.regs.spSize 47 12

/-- The lowest place for a block among blocks of the pool. -/
def firstBlock (limit size : Nat) (blocks : List (Nat × Nat)) : Option Nat :=
  let fits (o : Nat) : Bool := decide (o + size ≤ limit) && blocks.all fun b => decide (o + size ≤ b.1 ∨ b.1 + b.2 ≤ o)
  ((0 :: blocks.map fun b => b.1 + b.2).filter fits).foldl (fun m o =>
    match m with
    | none => some o
    | some k => some (min k o)) none

/-- The pool has room for more blocks. -/
def blocksFit (limit : Nat) : List Nat → List (Nat × Nat) → Bool
  | [], _ => true
  | n :: ns, blocks =>
    match firstBlock limit n blocks with
    | none => false
    | some o => blocksFit limit ns ((o, n) :: blocks)

/-- The save pool has room for gangs (R320). -/
def poolRoom (s : State) (gangs : List (Nat × Nat)) : Bool :=
  blocksFit (poolSize s) (gangs.map fun x => gangBytes s x.1) (poolBlocks s)

/-- Where a gang's block stands, or is to stand: none where the pool has no room for the whole gang (R320). -/
def poolPlace (s : State) (launch number : Nat) : Option Nat :=
  match (gangOf s launch number).bind (gangBlock s) with
  | some b => some b.1
  | none => firstBlock (poolSize s) (gangBytes s launch) (poolBlocks s)

/-- Where a member's context goes in the save pool, for a gang's block there. -/
def contextPa (s : State) (pool : Nat) : Nat := 4096 * field s.regs.spBase 47 12 + pool

/-- What stands against saving a member of a gang into its gang's block (R304, R451). -/
def contextHold (s : State) (tm : Team) (block : Nat) : Option Hold :=
  physicalHold s (contextPa s (block + memberOffset s tm.launch tm.gteam)) (teamArea tm.decl) true

/-- The bytes of a saved context stand in the save pool under the key of its world (R320, R343); the layout is open (log 50). -/
def writeContext (s : State) (v : SavedTeam) : State :=
  writeDevice s (contextPa s v.pool) (worldKey s v.team.world)
    ((List.range (teamArea v.team.decl)).map (Config.contextByte v.team.launch v.team.gang v.team.gteam s.clock.toNat))

/-- The accepted accesses of a team inside the package have been performed and have written their destinations, and so have its gang's
barrier arrivals; fabric accesses that return data have (R181, R276, R319, R374). -/
def saveReady (s : State) (tm : Team) : Bool :=
  (s.inflight.all fun a => !tm.owns a.who || a.ofChannel || !(a.returns || a.place.scope != .fabric)) &&
  s.pledges.all fun p => !(p.launch == tm.launch && p.gang == tm.gang)

/-- A Sluice command saved (R265): CPYS, WST and WLD start again. -/
def Channel.suspended (c : Channel) : Channel :=
  match c.kind with
  | .cpys | .wst | .wld => { c with started := false, landed := [], got := [], walked := [] }
  | .cpy | .cpym | .cpyf => { c with got := [], walked := [] }

/-- Commands in order of issue. -/
def insertOrder (r : Reissue) : List Reissue → List Reissue
  | [] => [r]
  | x :: xs => if r.order ≤ x.order then r :: x :: xs else x :: insertOrder r xs

/-- The commands of a team in a bank, in order of issue (R265). -/
def Bank.workOf (b : Bank) (slot : Nat) : List Reissue :=
  let follow (c : Channel) : Option ArrayCmd :=
    if c.kind = .cpym then ((b.array.map (·.2)).find? fun a => a.waits && a.order == c.order) else none
  let rs := ((b.sluice.filter fun p => p.2.slot == slot).map fun p => Reissue.copy p.2.suspended (follow p.2)) ++
    ((b.array.filter fun p => p.2.slot == slot && !p.2.waits).map fun p => Reissue.array p.2) ++
    ((b.tempties.filter fun e => e.slot == slot).map Reissue.tempty)
  rs.foldl (fun xs r => insertOrder r xs) [] ++ b.reissue.filter fun r => r.slot == slot

/-- The slots that a team's started weight loads fill. -/
def Bank.filling (b : Bank) (slot : Nat) : List Nat :=
  ((b.sluice.filter fun p => p.2.slot == slot && p.2.kind == .wld && p.2.started).map fun p => wfield p.2.cw 2 0)

/-- A slot as it is saved: one that a started weight load fills is EMPTY (R265). -/
def Bank.slotSaved (b : Bank) (n : Nat) : WSlot :=
  if b.teams.any fun p => (b.filling p.1).contains n then { b.slot n with full := false, claim := false, cols := [], ts := none }
  else b.slot n

/-- The slot copies that leave with a team (R265): of every slot that its MMATs read and no weight load of its own fills, and those not
yet placed. -/
def Bank.slotsRead (b : Bank) (slot : Nat) : Table WSlot :=
  let mine := (List.range 8).filter fun n =>
    (b.arrayCmds.any fun a => a.slot == slot && a.readsSlot n) && !(b.filling slot).contains n
  mine.map (fun n => (n, b.slotSaved n)) ++ (b.copies.filter fun x => x.1 == slot).map (·.2)

/-- A team stands in a bank's lowest used slot. -/
def Bank.lowest (b : Bank) (slot : Nat) : Bool := (b.teams.head?.map (·.1)) == some slot

/-- The slots that leave with a team of a bank at its swap (R217, R265): all of them with the team in its lowest slot, copies of those that
its MMATs read with another (log 122). -/
def Bank.slotsKept (b : Bank) (slot : Nat) : Table WSlot :=
  if b.lowest slot then
    ((List.range 8).map fun n => (n, b.slotSaved n)) ++ (b.copies.filter fun x => x.1 == slot).map (·.2)
  else b.slotsRead slot

/-- A bank whose slots have left with a team: the copies that its other teams need stay (log 122). -/
def Bank.giveSlots (b : Bank) (slot : Nat) : Bank :=
  { b with
    copies := (b.teams.filter fun p => p.1 != slot).flatMap fun p => (b.slotsRead p.1).map fun x => (p.1, x.1, x.2)
    wslots := List.replicate 8 WSlot.empty }

/-- A waiter stands for something of a team: its slices and elements, its channels, its held stores and resume markers. -/
def waitsFor (s : State) (t : TeamId) (tm : Team) (w : Waiter) : Bool :=
  match w with
  | .slice _ _ _ | .elems _ _ => w.ofTeam t
  | .channel n _ => ((Table.get (core s t.core).active.sluice n).map (·.slot)) == some t.slot
  | .resend n => (accessOf s n).any fun a => tm.owns a.who
  | .marker v _ => tm.owns v

/-- A waiter of a team as it is kept with its save (R407). -/
def keptWaiter (s : State) (t : TeamId) (w : Waiter) : Option KeptWaiter :=
  match w with
  | .slice id pkg _ => some (.slice id.strand pkg)
  | .elems _ pkg => some (.elems pkg)
  | .channel n pkg => (Table.get (core s t.core).active.sluice n).map fun ch => .channel ch.order pkg
  | .resend n => (accessOf s n).bind fun a => (match a.place with
      | .fabric p _ _ _ => some (.resend n p)
      | .window _ _ _ | .main _ _ _ | .scratch _ _ | .host _ | .weight _ _ => none)
  | .marker v p => some (.marker v p)

/-- What of a team waits in its core's entries, in order (R407). -/
def waitersOf (s : State) (t : TeamId) (tm : Team) : List KeptWaiter :=
  (core s t.core).allow.flatMap fun e => (e.2.waiters.filter (waitsFor s t tm)).filterMap (keptWaiter s t)

/-- A team leaves its core's entries and its engines before its bank is saved. -/
def leaveTeam (s : State) (t : TeamId) (tm : Team) : State :=
  orphanAll (leaveOthers s t.core 32 (waitsFor s t tm)) (tm.name none)

/-- An element that has not been performed becomes a replay token (R203). -/
def Elem.token (e : Elem) : Elem := if e.unperformed then { e with state := .pending } else e

/-- A team as it is saved (R202, R203). -/
def Team.tokens (tm : Team) : Team :=
  { tm with fqueues := tm.fqueues.map fun q => { q with entries := q.entries.map fun e => { e with elems := e.elems.map Elem.token } } }

/-- A stack line of a team to be saved written back where its path lets it, or kept with the save, the fault reported (R223). -/
def spillLine (s : State) (c slot : Nat) (r : Team) (x : Option Nat × Nat × List Byte) : State × Team :=
  match writeBackLine s c r x.1 x.2.1 x.2.2 with
  | .ok s => (s, r.modSlice x.1 fun sl => { sl with stack := Table.del sl.stack x.2.1 })
  | .error f => (postSpill s ⟨c, slot, x.1⟩ r x.2.1 f, r)

/-- The stack lines of a team spilled. -/
def spillLines (s : State) (c slot : Nat) (tm : Team) : State × Team :=
  tm.stackLines.foldl (fun r x => spillLine r.1 c slot r.2 x) (s, tm)

/-- A gang has been saved when each of its members has been or has ended (R319): it re-enters unless a fault of it waits, and a
cancelled launch's is discarded (R332). -/
def settleGang (s : State) (launch number : Nat) : State :=
  match gangOf s launch number with
  | none => s
  | some g =>
    let all := (g.live (widthOf s launch)).all fun n => g.saved.any fun v => v.team.gteam == n
    if !all ∨ ¬ (g.state = .stopping ∨ g.state = .outgoing) then s
    else
      let gone := match launchOf s launch with
        | none => false
        | some l => l.cancelled
      let order := g.acked.getD s.ackOrder
      let s' := { s with ackOrder := if g.acked.isSome then s.ackOrder else s.ackOrder + 1 }
      let s' := modGang s' launch number fun g =>
        { g with state := .saved, acked := none, ready := if g.misses = 0 then some order else none }
      if gone then dropSaved s' launch number else s'

/-- A member added to its gang's save, its unacknowledged accesses counted with it (R388). -/
def addSaved (s : State) (c : Nat) (v : SavedTeam) : State :=
  let n := (v.team.unacked s).length
  let s := modCore (quitLaunches s v.team) c fun k => { k with outstanding := k.outstanding - n }
  settleGang (writeContext (modGang s v.team.launch v.team.gang fun g => { g with saved := g.saved ++ [v] }) v)
    v.team.launch v.team.gang

/-- A member of a gang saved from a core's active bank, which keeps its other teams, into its gang's block of the pool (R265, R319, R320). -/
def extractTeam (s : State) (t : TeamId) (tm : Team) (block : Nat) : State :=
  let waiting := waitersOf s t tm
  let s := leaveTeam s t tm
  let r := spillLines s t.core t.slot ((teamAt s t).getD tm).tokens
  let b := (core r.1 t.core).active
  let v : SavedTeam := ⟨r.2, b.workOf t.slot, b.slotsRead t.slot, waiting, (core s t.core).ct, block + memberOffset s tm.launch tm.gteam⟩
  let s := modBank r.1 t.core fun b =>
    let b' := b.dropCommands t.slot
    { b' with teams := Table.del b'.teams t.slot }
  addSaved (releaseEntries s t.core) t.core v

/-- An outgoing bank without a team, cleared with its last (R219). -/
def dropOutgoing (s : State) (c slot : Nat) (b : Bank) (slots : Bool) : State :=
  let b' := (if slots then b.giveSlots slot else b).dropCommands slot
  let b' : Bank := { b' with
    teams := Table.del b'.teams slot
    rejoin := b'.rejoin.filter fun x => x.1 != slot }
  modCore s c fun k => { k with
    outgoing := if b'.teams = [] then none else some b'
    spilled := if b'.teams = [] then 0 else k.spilled + 1 }

/-- A member of a gang saved from a core's outgoing bank (R219). -/
def spillTeam (s : State) (c slot : Nat) (b : Bank) (tm : Team) (block : Nat) : State :=
  let r := spillLines s c slot tm.tokens
  let waiting := (b.rejoin.filter fun x => x.1 == slot).map (·.2)
  let v : SavedTeam := ⟨r.2, b.workOf slot, b.slotsKept slot, waiting, (core s c).ct, block + memberOffset s tm.launch tm.gteam⟩
  addSaved (dropOutgoing r.1 c slot b (b.lowest slot)) c v

/-- A killed team of an outgoing bank ends there, its context cleared (R332, R240). -/
def endOutgoing (s : State) (c slot : Nat) (b : Bank) (tm : Team) : State :=
  let s := dropOutgoing (discardTeam s tm) c slot b false
  let s := modGang (quitLaunches s tm) tm.launch tm.gang fun g => g.endTeam tm.gteam (widthOf s tm.launch)
  settleGang (settleOver s tm.launch tm.gang tm.gteam) tm.launch tm.gang

end Sys2Proof.Machine
end

