-- ==== Sys2Proof/Machine/Distributor.lean ====
section
/-! DEFINITION. The distributor's events: tail writes and counter writes of the host (spec/19 R307, R311), records becoming
current (R308 to R310), placing (R313 to R316), pre-emption, bank swaps and extraction (R318 to R321, R218, R219), and the end of a
launch (R325, R326). An event whose condition does not hold leaves the state as it is. -/

namespace Sys2Proof.Machine

/-! ### The host's writes (R307, R311, R455) -/

/-- The world bound to a host-link function. -/
def functionWorld (s : State) (fn : Nat) : Nat := field (Table.getD s.regs.fworld fn 0) 11 0

/-- A function may reach what belongs to a world: the physical function, or one of that world (R455). -/
def reachesWorld (s : State) (fn world : Nat) : Bool := fn == 0 || functionWorld s fn == world

/-- Host writes to the register window take effect (R449, R434): the package is READY and no scrub runs. -/
def hostWrites (s : State) : Bool := s.service.stage == 5 && s.saltin.scrubbing.isNone

/-- LQTAIL (R307): a tail value accepted, its records submitted, or refused with ERR. -/
def execLqtail (fn q : Nat) (x : Word) (s : State) : Host.Outcome State Fault Refusal :=
  let v := queueView s q
  .next <|
    if !hostWrites s ∨ 256 ≤ q ∨ (queueHold s q).isSome ∨ !reachesWorld s fn v.world then s
    else if !v.valid ∨ v.src ∨ v.slots < (x - v.tail).toNat + v.used then setQueueErr s q
    else putTail (stampRecords s q ((List.range (x - v.tail).toNat).map fun i => (v.tail.toNat + i) % 2 ^ 32) s.hl) q x

/-- COUNTER_WRITE (R311): a counter's value written by the host, the waits re-examined (R312). -/
def execCounterWrite (fn i : Nat) (x : Word) (s : State) : Host.Outcome State Fault Refusal :=
  .next <|
    if !hostWrites s ∨ 4096 ≤ i ∨ (counterHold s i).isSome ∨ !reachesWorld s fn (counterWorld s i) then s
    else noteWaits { s with counters := Table.put s.counters i x }

/-! ### A record becomes current (R308 to R310) -/

/-- The queue has a current record with gangs unplaced. -/
def hasCurrent (s : State) (q : Nat) : Bool := s.launches.any fun l => l.queue == some q && l.current

/-- A debug slot bound to a launch when its record becomes current (R438). -/
def DebugSlot.bind (b : DebugSlot) (q world n launch : Nat) : DebugSlot :=
  let d0 := listGetD b.d 0 0
  let d1 := listGetD b.d 1 0
  if field d0 63 63 = 1 ∧ field d0 55 48 = q ∧ field d0 47 32 = world ∧ field d0 31 0 = n then
    { b with d := (b.d.set 0 (d0 ||| BitVec.ofNat 64 (2 ^ 62))).set 1 (BitVec.ofNat 64 (launch * 2 ^ 32 + field d1 31 0)) }
  else b

/-- A queue's next record taken: its number is past. -/
def LaunchQueue.take (x : LaunchQueue) (n : Nat) : LaunchQueue :=
  { x with current := (n + 1) % 2 ^ 32, removed := x.removed.filter fun m => m != n, stamps := Table.del x.stamps n }

/-- The debug slots bound to a record that becomes current, refused or not (R438). A slot bound anew begins at slot 0 of its ring (R323). -/
def bindSlots (s : State) (q world n launch : Nat) : State :=
  s.debugSlots.foldl (fun s p =>
    let b := p.2.bind q world n launch
    if b = p.2 then s else setRingPos { s with debugSlots := Table.put s.debugSlots p.1 b } (.debug p.1) 0) s

/-- A record refused (R310): STATUS 3 with its REASON, complete at once. -/
def refuseRecord (s : State) (q n launch reason : Nat) (ws : List DWord) : State :=
  let v := queueView s q
  let s := writeStatus (drainCombiner s fun _ => true) (v.slotPa n) (worldKey s v.world) 3 reason launch
  finishRecord (advanceCounters s v.world (listGetD ws 1 0) none) q n

/-- A launch begun (R309, R310). -/
def beginLaunch (s : State) (q n launch : Nat) (ws : List DWord) (ds : List TeamDecl) (code : List Word) (seen : Option Word) :
    State :=
  let v := queueView s q
  let l : Launch := {
    id := launch, queue := some q, number := n, recordPa := v.slotPa n, world := v.world
    level := (wkey s v.world).extractLsb' 24 2, words := ws, code := code, decls := ds, prio := v.prio, placed := 0
    eligibleSince := none, eligibleFor := 0, aged := false, passes := 0, loaderWait := none, loaderOver := false
    cancelled := false, done := false, ts := none, seen := seen }
  noteWaits { s with launches := s.launches ++ [l] }

/-- RECORD_CURRENT (R308, R310): a queue's oldest record with gangs unplaced becomes current, takes a %launch value and is
checked, once what the checks read answers (R301, R304, R451). -/
def execRecordCurrent (q : Nat) (s : State) : Host.Outcome State Fault Refusal :=
  let v := queueView s q
  .next <|
    if (queueHold s q).isSome || !v.valid || hasCurrent s q then s
    else match waitingRecords s q with
      | [] => s
      | n :: _ =>
        let id := nextLaunch s
        let ws := queueRecord s q n
        let x := launchQueue s q
        if (slotHold s q n false).isSome || recordWaits s id.toNat v.world ws then s
        else
        let s := writeStatus { s with launchCount := id + 1 } (v.slotPa n) (worldKey s v.world) 0 0 id.toNat
        let s := bindSlots { s with queues := Table.put s.queues q (x.take n) } q v.world n id.toNat
        match checkRecord s id.toNat v.world ws false with
        | .error reason => refuseRecord s q n id.toNat reason ws
        | .ok (ds, code) => beginLaunch s q n id.toNat ws ds code (Table.get x.stamps n)

/-! ### Choosing (R313, R315) -/

/-- What may be placed next: a gang that re-enters, or the next gang of a current record. -/
inductive Candidate where
  | again (g : Gang) (l : Launch)
  | fresh (l : Launch)
  deriving DecidableEq, Repr

/-- A record's effective priority (R313). -/
def Launch.effPrio (l : Launch) : Nat := if l.aged then min (l.prio + 1) 7 else l.prio

/-- Gangs in the order of their acknowledgements. -/
def insertReady (g : Gang) : List Gang → List Gang
  | [] => [g]
  | x :: xs => if g.ready.getD 0 ≤ x.ready.getD 0 then g :: x :: xs else x :: insertReady g xs

/-- The gangs that re-enter at a priority, in the order of their acknowledgements (R313). -/
def reentering (s : State) (p : Nat) : List Candidate :=
  let gs := s.gangs.filter fun g => g.state == .saved && g.ready.isSome && g.misses == 0 && g.prio == p
  (gs.foldl (fun xs g => insertReady g xs) []).filterMap fun g =>
    match launchOf s g.launch with
    | none => none
    | some l => if worldRuns s l.world then some (.again g l) else none

/-- The current record of a queue, when it may have a gang placed. -/
def placeable (s : State) (q : Nat) : Option Launch :=
  s.launches.find? fun l => l.queue == some q && l.current && eligible s l && worldRuns s l.world

/-- The current records at a priority, their queues in round-robin order (R313). -/
def freshAt (s : State) (p : Nat) : List Candidate :=
  ((List.range 256).map fun i => (Table.getD s.visits p 0 + i) % 256).filterMap fun q =>
    match placeable s q with
    | none => none
    | some l => if l.effPrio = p then some (.fresh l) else none

/-- The candidates with their priorities, in the order in which the distributor serves them (R313). -/
def candidates (s : State) : List (Nat × Candidate) :=
  (List.range 8).reverse.flatMap fun p => (reentering s p ++ freshAt s p).map fun c => (p, c)

/-- A record other than a launch's has been passed 256 times, so that no gang of equal or lower priority is placed (R315); `low` for those
of lower priority alone. -/
def passedOver (s : State) (p me : Nat) (low : Bool) : Bool :=
  s.launches.any fun b =>
    b.id != me && b.current && eligible s b && worldRuns s b.world && decide (256 ≤ b.passes) &&
    (if low then decide (p < b.effPrio) else decide (p ≤ b.effPrio))

/-- A record passed 256 times lets no other gang of equal or lower priority be placed (R315); of several such records of one priority none
holds another back. -/
def heldBack (s : State) (p : Nat) (c : Candidate) : Bool :=
  match c with
  | .fresh l => passedOver s p l.id (decide (256 ≤ l.passes))
  | .again _ _ => passedOver s p 0 false

/-- A launch cannot start now: its code segment does not answer (R33, R304, R451). -/
def codeHeld (s : State) (c : Candidate) : Bool :=
  match c with
  | .fresh l => l.placed == 0 &&
      recordHeld s l.id l.world (listGetD l.words 4 0) (listGetD l.words 5 0) (recCodeSize l.words) permX
  | .again _ _ => false

/-- The members that a candidate places, with the launch. -/
def Candidate.members (s : State) (c : Candidate) : Launch × List Nat :=
  match c with
  | .again g l => (l, g.live (widthOf s l.id))
  | .fresh l => (l, List.range l.decls.length)

/-- Where a candidate fits now; none where it fits nowhere, or waits as a loader's first gang, or finds no frame. -/
def fitOf (s : State) (c : Candidate) : Option (List TeamId) :=
  let m := c.members s
  match c with
  | .again _ l => bestFit s l false (l.declsOf m.2)
  | .fresh l => if loaderWaits s l || (frameFor s l).isNone then none else bestFit s l true (l.declsOf m.2)

/-- A launch starts with its first gang: its instructions are fetched as its code segment stands then (R33). DESIGN CHOICE (log 123): a gang
that enters by pre-emption is placed, for this, when PREEMPT chooses it; and where the segment can be read no longer, the copy stands that was
taken when the record became current. -/
def startLaunch (s : State) (l : Launch) : State :=
  if l.placed ≠ 0 then s
  else match recordRead s l.id l.world (listGetD l.words 4 0) (field (listGetD l.words 5 0) 47 0) (recCodeSize l.words) permX with
    | none => s
    | some bs => modLaunch s l.id fun l => { l with code := wordsOf (recCodeSize l.words / 4) bs }

/-- A loader launch's first gang puts its dies in LOAD (R303). DESIGN CHOICE (log 129): all that its DIEMASK names at once, those too on which
none of its gangs stands yet, since R316 has it follow R303 on every one of them. -/
def loadDies (s : State) (l : Launch) : State :=
  if recLoader l.words && l.placed == 0 then
    (diesOf l).foldl (fun s d => modDie s d fun k => { k with loader := some l.id }) s
  else s

/-- The gang that a candidate becomes at places, in a state. -/
def enrol (s : State) (p : Nat) (c : Candidate) (ts : List TeamId) (st : GangState) : State × Gang :=
  let m := c.members s
  match c with
  | .again g l =>
    let g' : Gang := { g with place := putPlaces (widthOf s l.id) g.place m.2 ts, state := st, ready := none }
    (modGang s l.id g.number fun _ => g', g')
  | .fresh l =>
    let g : Gang := ⟨l.id, l.placed, (frameFor s l).getD 0, p, ts, st, [], [], 0, none, none⟩
    let s := startLaunch s l
    let s := modLaunch { s with gangs := s.gangs ++ [g] } l.id fun l => { l with placed := l.placed + 1, passes := 0 }
    let s : State := { s with visits := match l.queue with
      | none => s.visits
      | some q => Table.put s.visits p ((q + 1) % 256) }
    (loadDies s l, g)

/-- A candidate placed (R270, R314): its members installed together, the gang resident. -/
def placeAt (s : State) (p : Nat) (c : Candidate) (ts : List TeamId) : State :=
  let m := c.members s
  let r := enrol s p c ts .resident
  let s := (m.2.zip ts).foldl (fun s x => installTeam s m.1 r.2 x.1 x.2) r.1
  modGang s r.2.launch r.2.number fun g => { g with saved := [] }

/-- The launch whose new gang a candidate is; 0 for a gang that re-enters. -/
def Candidate.placed (c : Candidate) : Nat :=
  match c with
  | .fresh l => l.id
  | .again _ _ => 0

/-- The records whose next gang fits nowhere have been passed once more by a gang placed (R315). -/
def countPasses (s0 s : State) (placed : Nat) : State :=
  { s with launches := s.launches.map fun l =>
      if l.id != placed && l.current && eligible s0 l && worldRuns s0 l.world && !loaderWaits s0 l && (fitOf s0 (.fresh l)).isNone
      then { l with passes := l.passes + 1 } else l }

/-- The first candidate that may be placed, with its places. -/
def firstPlaced (s : State) : List (Nat × Candidate) → Option (Nat × Candidate × List TeamId)
  | [] => none
  | (p, c) :: rest =>
    if heldBack s p c || codeHeld s c then firstPlaced s rest
    else match fitOf s c with
      | some ts => some (p, c, ts)
      | none => firstPlaced s rest

/-- PLACE_GANG (R313 to R316): the first candidate that fits is placed whole. -/
def execPlaceGang (s : State) : Host.Outcome State Fault Refusal :=
  .next <|
    match firstPlaced s (candidates s) with
    | none => s
    | some (p, c, ts) => countPasses s (placeAt s p c ts) c.placed

/-- PRIORITY_AGING (R313): a record that has been eligible with a gang waiting for 1 ms in all. -/
def execPriorityAging (launch : Nat) (s : State) : Host.Outcome State Fault Refusal :=
  .next <|
    modLaunch s launch fun l =>
      match l.eligibleSince with
      | none => l
      | some t => if l.current && eligible s l && decide (millisecond ≤ l.eligibleFor + (s.wall - t)) then { l with aged := true } else l

/-- LOADER_WAIT_EXPIRY (R316): a loader's first gang has waited 10 ms. -/
def execLoaderWaitExpiry (launch : Nat) (s : State) : Host.Outcome State Fault Refusal :=
  .next <|
    modLaunch s launch fun l =>
      match l.loaderWait with
      | none => l
      | some t => if l.current && l.placed == 0 && decide (10 * millisecond ≤ s.wall - t) then { l with loaderOver := true } else l

/-! ### Pre-emption (R318) -/

/-- A gang that a gang of priority p may displace. -/
def displaceable (s : State) (p : Nat) (launch number : Nat) : Bool :=
  match gangOf s launch number, launchOf s launch with
  | some g, some l =>
    decide (g.prio < p) && g.state == .resident && !recLoader l.words &&
    (List.range (widthOf s launch)).all fun n =>
      match findTeam s launch number n with
      | none => true
      | some (_, tm) => !tm.frozen
  | _, _ => false

/-- A core that may be emptied for a gang of priority p. -/
def emptiable (s : State) (p c : Nat) : Bool :=
  let k := core s c
  !reservedCore s c && k.shadow.isNone && k.outgoing.isNone &&
  k.active.teams.all fun t => displaceable s p t.2.launch t.2.gang

/-- The gangs that stand in the active banks of cores. -/
def gangsOn (s : State) (cs : List Nat) : List (Nat × Nat) :=
  (cs.flatMap fun c => (core s c).active.teams.map fun t => (t.2.launch, t.2.gang)).eraseDups

/-- The cores to be emptied for a gang of priority p (R318, R320): on the cluster that displaces the fewest gangs. -/
def displacement (s : State) (l : Launch) (fresh : Bool) (p width : Nat) : Option (List Nat) :=
  ((List.range 48).foldl (fun (m : Option (Nat × List Nat)) n =>
    let cs := ((clusterCores n).filter fun c => emptiable s p c).take width
    let gs := gangsOn s cs
    if !clusterOpen s l fresh n || cs.length != width || !poolRoom s gs then m
    else match m with
      | some (k, _) => if gs.length < k then some (gs.length, cs) else m
      | none => some (gs.length, cs)) none).map (·.2)

/-- The cores to be emptied for a candidate. -/
def displaceFor (s : State) (p : Nat) (c : Candidate) : Option (List Nat) :=
  let m := c.members s
  match c with
  | .again _ l => displacement s l false p m.2.length
  | .fresh l => if loaderWaits s l || (frameFor s l).isNone then none else displacement s l true p m.2.length

/-- The first candidate that fits nowhere and for which gangs may be displaced; a candidate that fits is placed first. -/
def firstDisplacing (s : State) : List (Nat × Candidate) → Option (Nat × Candidate × List Nat)
  | [] => none
  | (p, c) :: rest =>
    if heldBack s p c || codeHeld s c then firstDisplacing s rest
    else match fitOf s c with
      | some _ => none
      | none =>
        match displaceFor s p c with
        | some cs => some (p, c, cs)
        | none => firstDisplacing s rest

/-- PREEMPT (R318, R315): cores are chosen to be emptied for a gang, which takes the lowest slot of each. -/
def execPreempt (s : State) : Host.Outcome State Fault Refusal :=
  .next <|
    match firstDisplacing s (candidates s) with
    | none => s
    | some (p, c, cs) => countPasses s (enrol s p c (cs.map fun c => ⟨c, 0⟩) .preloaded).1 c.placed

/-- The preloaded gang that is to take a core, with its member there. -/
def preloading (s : State) (c : Nat) : Option (Gang × Nat) :=
  s.gangs.findSome? fun g =>
    if g.state = .preloaded then
      ((g.live (widthOf s g.launch)).find? fun n => (g.place[n]?).any fun t => t.core == c).map fun n => (g, n)
    else none

/-- A member of a preloaded gang stands in its core's shadow bank, or is active already. -/
def memberLoaded (s : State) (g : Gang) (n : Nat) : Bool :=
  match findTeam s g.launch g.number n with
  | some (.shadow _, _) | some (.active _, _) => true
  | some (.outgoing _, _) | some (.saved, _) | none => false

/-- The shadow bank with a member of a gang: its saved context, or a new team (R218, R265). -/
def preloadMember (s : State) (c : Nat) (g : Gang) (n : Nat) : State :=
  let b : Bank := { Bank.empty with nextOrder := (core s c).active.nextOrder }
  match g.saved.find? fun v => v.team.gteam == n with
  | some v =>
    let s := renewMasters s (v.team.name none) (newOrders b v)
    let s := modGang s g.launch g.number fun g => { g with saved := g.saved.filter fun v => v.team.gteam != n }
    adopt (modCore s c fun k => { k with shadow := some (b.restore s 0 v).settle }) c v
  | none =>
    match launchOf s g.launch with
    | none => s
    | some l =>
      match l.decls[n]? with
      | none => s
      | some d => modCore s c fun k => { k with shadow := some (b.putTeam 0 (newTeam s l g.number n d)) }

/-- A member of a preloaded gang whose cluster has been taken out of service goes back from the shadow bank into the save pool. -/
def returnMember (block : Nat) (g : Gang) (s : State) (n : Nat) : State :=
  match findTeam s g.launch g.number n with
  | some (.shadow t, tm) =>
    match (core s t.core).shadow with
    | none => s
    | some b =>
      let v : SavedTeam := ⟨tm.tokens, b.workOf t.slot, b.slotsKept t.slot, b.rejoin.map (·.2), (core s t.core).ct,
        block + memberOffset s g.launch n⟩
      addSaved (modCore s t.core fun k => { k with shadow := none }) t.core v
  | some (.active _, _) | some (.outgoing _, _) | some (.saved, _) | none => s

/-- A cluster that is drained takes no gang (R13): a gang preloaded there that has not run waits to be placed elsewhere. -/
def returnPreloaded (s : State) (g : Gang) : State :=
  let held (block n : Nat) : Bool := match findTeam s g.launch g.number n with
    | some (.shadow _, tm) => (contextHold s tm block).isSome
    | some (.active _, _) | some (.outgoing _, _) | some (.saved, _) | none => false
  match (poolPlace s g.launch g.number).filter fun b => !(List.range (widthOf s g.launch)).any (held b) with
  | none => s
  | some block =>
    let s := (List.range (widthOf s g.launch)).foldl (returnMember block g) s
    modGang { s with ackOrder := s.ackOrder + 1 } g.launch g.number fun g => { g with state := .saved, ready := some s.ackOrder }

/-- No member of a preloaded gang has become active. -/
def notStarted (s : State) (g : Gang) : Bool :=
  (g.live (widthOf s g.launch)).all fun n =>
    match findTeam s g.launch g.number n with
    | some (.active _, _) => false
    | some (.shadow _, _) | some (.outgoing _, _) | some (.saved, _) | none => true

/-- A gang is preloaded onto a core of a cluster that is out of service. -/
def preloadBarred (s : State) (c : Nat) (g : Gang) : Bool := unitState s (c / 8) != .inService && notStarted s g

/-- PRELOAD (R218, R219): the incoming member goes into the shadow bank, once the bank that was swapped out last has been cleared. -/
def execPreload (c : Nat) (s : State) : Host.Outcome State Fault Refusal :=
  .next <|
    match preloading s c with
    | none => s
    | some (g, n) =>
      if preloadBarred s c g then returnPreloaded s g
      else if (core s c).shadow.isSome || (core s c).outgoing.isSome || memberLoaded s g n then s else preloadMember s c g n

/-- The started array commands of a core complete (R218). -/
def finishArrays (s : State) (c : Nat) : State :=
  (List.range 16).foldl (fun s _ =>
    match (core s c).active.oldest with
    | none => s
    | some (e, a) => writeResult s c e a) s

/-- What of a core's teams waits in its entries, by team slot, in order (R407). -/
def coreWaiters (s : State) (c : Nat) : List (Nat × KeptWaiter) :=
  (core s c).active.teams.flatMap fun p => (waitersOf s ⟨c, p.1⟩ p.2).map fun x => (p.1, x)

/-- A core's teams leave its engines and its allowance entries before its banks change. -/
def leaveCore (s : State) (c : Nat) : State :=
  (core s c).active.teams.foldl (fun s p => leaveTeam s ⟨c, p.1⟩ p.2) s

/-- The banks of a core exchanged (R218, R220); the segments of the incoming one have just been written (R213). -/
def exchangeBanks (s : State) (c world : Nat) (b : Bank) (waiting : List (Nat × KeptWaiter)) : State :=
  modCore s c fun k => { k with
    world := world, copies := [], active := b, shadow := none, drowsy := []
    touched := (List.range 192).map fun i => (i, s.clock)
    outgoing := if k.active.teams = [] then none else some { k.active with rejoin := waiting } }

/-- A displaced gang stops (R219, R318). -/
def Gang.displaced (g : Gang) : Gang := { g with state := if g.state = .resident then .outgoing else g.state }

/-- A preloaded gang runs once it stands in the active banks of all its cores (R318). -/
def settlePreloaded (s : State) (g : Gang) : State :=
  let here (n : Nat) : Bool := match findTeam s g.launch g.number n with
    | some (.active _, _) => true
    | some (.shadow _, _) | some (.outgoing _, _) | some (.saved, _) | none => false
  if (g.live (widthOf s g.launch)).all here then modGang s g.launch g.number fun g => { g with state := .resident } else s

/-- A core's swap for a gang whose members are all preloaded (R218 to R220). -/
def swapBank (s : State) (c : Nat) (g : Gang) (l : Launch) (b : Bank) : State :=
  let s := finishArrays s c
  let waiting := coreWaiters s c
  let out := gangsOn s [c]
  let s := exchangeBanks (leaveCore s c) c l.world b waiting
  let s := out.foldl (fun s x => modGang s x.1 x.2 Gang.displaced) s
  let s := settleTeam (mergeSeen (bindEntries (releaseEntries s c) c l) c l) ⟨c, 0⟩
  settlePreloaded s g

/-- BANK_SWAP (R218): the shadow bank becomes the active bank, once every member of the incoming gang is preloaded. -/
def execBankSwap (c : Nat) (s : State) : Host.Outcome State Fault Refusal :=
  .next <|
    match (core s c).shadow, preloading s c with
    | some b, some (g, _) =>
      match launchOf s g.launch with
      | none => s
      | some l =>
        if preloadBarred s c g then returnPreloaded s g
        else if (core s c).outgoing.isNone && (g.live (widthOf s g.launch)).all (memberLoaded s g) then swapBank s c g l b else s
    | _, _ => s

/-- What becomes of a team that leaves its bank: it ends, killed; it is saved in its gang's block; or it stays (R319, R320, R332). -/
inductive Leaving where
  | ends
  | saved (block : Nat)
  | stays
  deriving DecidableEq, Repr

/-- How a team of a stopped gang leaves its bank now: the pool must have room for the whole gang (R320). -/
def leaving (s : State) (tm : Team) : Leaving :=
  if tm.killed && tm.over then (if storesInto s tm then .stays else .ends)
  else if saveReady s tm then
    match poolPlace s tm.launch tm.gang with
    | some block => if (contextHold s tm block).isSome then .stays else .saved block
    | none => .stays
  else .stays

/-- SPILL (R219 to R321): the spill engine saves the next team of the outgoing bank that is ready, and clears the bank with the
last. -/
def execSpill (c : Nat) (s : State) : Host.Outcome State Fault Refusal :=
  .next <|
    match (core s c).outgoing with
    | none => s
    | some b =>
      match b.teams.find? fun p => leaving s p.2 != .stays with
      | none => s
      | some (slot, tm) =>
        match leaving s tm with
        | .ends => endOutgoing s c slot b tm
        | .saved block => spillTeam s c slot b tm block
        | .stays => s

/-- A member of a stopped gang saved from its active bank, when it is ready and the pool has room (R319, R320); a killed one ends. -/
def extractMember (s : State) (launch number n : Nat) : State :=
  match findTeam s launch number n with
  | some (.active t, tm) =>
    match leaving s tm with
    | .ends => if teamMayEnd s t tm then endTeam s t tm else s
    | .saved block =>
      if (core s t.core).active.array.all fun p => !(p.2.slot == t.slot && p.2.started) then extractTeam s t tm block else s
    | .stays => s
  | some (.shadow _, _) | some (.outgoing _, _) | some (.saved, _) | none => s

/-- EXTRACT (R319): the members of a stopped gang are saved from the cores that keep running. -/
def execExtract (launch number : Nat) (s : State) : Host.Outcome State Fault Refusal :=
  .next <|
    match gangOf s launch number with
    | none => s
    | some g =>
      if g.state = .stopping ∨ g.state = .outgoing then
        settleGang ((g.live (widthOf s launch)).foldl (fun s n => extractMember s launch number n) s) launch number
      else s

/-! ### The end of a launch (R325, R326) -/

/-- Every gang of a launch has been placed and has ended, or the launch has been cancelled and those placed have ended. -/
def gangsOver (s : State) (l : Launch) : Bool :=
  (l.cancelled || decide (recGangs l.words ≤ l.placed)) && s.gangs.all fun g => g.launch != l.id || g.state == .ended

/-- Its stores and atomics have been performed and its fabric accesses acknowledged (R325). -/
def accessesOver (s : State) (l : Launch) : Bool :=
  s.inflight.all fun a => a.who.launch != l.id || !(a.sent || (a.writes && !a.performed))

/-- The combiner is flushed before the launch completes (R326). -/
def flushesAtEnd (s : State) (l : Launch) : Bool :=
  l.cancelled ||
  (match l.queue with
   | some q => !(queueView s q).src
   | none => false) ||
  (counterFields (listGetD l.words 1 0)).any fun c =>
    match c with
    | none => false
    | some i => (counterStop s l.world i).isNone && counterExport s i

/-- A launch completed (R326): the combiner flushed where it must be, STATUS written, counters advanced, its dies in READ (R303),
its record freed in order. A handler's template takes no STATUS. -/
def completeLaunch (s : State) (l : Launch) : State :=
  let s := if flushesAtEnd s l then drainCombiner s fun _ => true else s
  let s := if l.queue.isSome then writeStatus s l.recordPa (worldKey s l.world) (if l.cancelled then 2 else 1) 0 l.id else s
  let s := modLaunch s l.id fun l => { l with done := true }
  let s := advanceCounters s l.world (listGetD l.words 1 0) l.ts
  let s : State := { s with dies := s.dies.map fun d => if d.loader == some l.id then { d with loader := none } else d }
  match l.queue with
  | some q => finishRecord s q l.number
  | none => s

/-- What completing a launch writes or reads in memory does not answer now (R304, R451). -/
def completeHeld (s : State) (l : Launch) : Bool :=
  (fieldsHold s (listGetD l.words 1 0)).isSome || l.queue.any fun q => (slotHold s q l.number false).isSome

/-- LAUNCH_COMPLETE (R325, R326). -/
def execLaunchComplete (launch : Nat) (s : State) : Host.Outcome State Fault Refusal :=
  .next <|
    match launchOf s launch with
    | none => s
    | some l => if !l.done && gangsOver s l && accessesOver s l && !completeHeld s l then completeLaunch s l else s

end Sys2Proof.Machine
end

