-- ==== Sys2Proof/Machine/Records.lean ====
section
/-! DEFINITION. Trap queues, fault queues and debug rings (spec/19 R323, spec/20 R347, R348, R352, spec/22 R386, R387, spec/27 R438):
writing the records that wait, and the acknowledgements of owners. -/

namespace Sys2Proof.Machine

/-! ### Rings -/

/-- A ring of record slots: its label word, the offset of slot 0, its slots, and the world in which it is reached. -/
structure Ring where
  lw : DWord
  off : Nat
  len : Nat
  world : Nat
  deriving DecidableEq, Repr

/-- The ring of a queue (R309, R348, R438). -/
def ringOf (s : State) (q : FaultQ) : Ring :=
  match q with
  | .owner => ⟨0, field s.regs.ownerQ.d1 47 0, field s.regs.ownerQ.d1 63 48, 0⟩
  | .guest w => let d := guestDesc s w; ⟨d.d0, field d.d1 47 0, field d.d1 63 48, w⟩
  | .trap l =>
    let w (i : Nat) : DWord := launchWord s l i
    ⟨w 12, field (w 13) 47 0, field (w 13) 63 48, worldOfLaunch s l⟩
  | .debug n =>
    let d := ((Table.get s.debugSlots n).map DebugSlot.d).getD []
    ⟨listGetD d 2 0, field (listGetD d 3 0) 47 0, field (listGetD d 3 0) 63 48, field (listGetD d 0 0) 47 32⟩

/-- Where a slot of a queue stands (R323, R348): physical for the owner queue, otherwise past stations D and P. -/
def ringSlot (s : State) (q : FaultQ) (slot : Nat) : Except PathFault Dest :=
  let r := ringOf s q
  let off := r.off + 64 * slot
  match q with
  | .owner => .ok (if inHostWindow off 64 then .host (off - 2 ^ 47) else .main off 0 false false)
  | .trap l => (recordPath s l r.world r.lw off 64 permW).map Path.dest
  | .guest _ | .debug _ => (recordPath s 0 r.world r.lw off 64 permW).map Path.dest

/-- The first doubleword of a place; none where it cannot be read now (R301, R304). -/
def slotWord (s : State) (d : Dest) : Option DWord :=
  if (destHold s d 8).isSome then none else (readDest s d 8).map dwordOfBytes

/-- The package's own write at a place. -/
def writeDest (s : State) (d : Dest) (bs : List Byte) : State :=
  match d with
  | .main pa key _ _ => writeDevice s pa key bs
  | .host pa => { s with hostMem := Memory.writeBytes s.hostMem pa bs }
  | .scratch _ _ | .regs _ | .stack _ | .weight _ _ | .fabric _ _ | .window _ _ _ _ => s

/-- The slot of a queue that takes its next record. DESIGN CHOICE (log 132): where a fault queue's descriptor has been rewritten, the next
record goes on where the last one stood, or to slot 0 where the ring has no such slot. -/
def ringPos (s : State) (q : FaultQ) : Nat :=
  let n := ((s.rings.find? fun x => x.1 == q).map (·.2)).getD 0
  if (ringOf s q).len ≤ n then 0 else n

/-- A fault record, notice or event record (R349). -/
def isFrec (ws : List DWord) : Bool := (listGetD ws 1 0).getLsbD 63

/-- A notice. -/
def isNotice (ws : List DWord) : Bool := isFrec ws && (listGetD ws 0 0).getLsbD 9

/-! ### Acknowledgements (R348, R352) -/

/-- A channel of a team with its fault changed, wherever its command stands. -/
def Channel.withFault (order : Nat) (f : EngineFault → EngineFault) (c : Channel) : Channel :=
  if c.order = order then { c with fault := f c.fault } else c

/-- A waiting command with its channel's fault changed. -/
def Reissue.withFault (order : Nat) (f : EngineFault → EngineFault) (r : Reissue) : Reissue :=
  match r with
  | .copy c a => .copy (c.withFault order f) a
  | .array _ | .tempty _ => r

/-- A bank with a team's channel fault changed. -/
def Bank.withFault (slot order : Nat) (f : EngineFault → EngineFault) (b : Bank) : Bank :=
  { b with
    sluice := b.sluice.map fun p => if p.2.slot = slot then (p.1, p.2.withFault order f) else p
    reissue := b.reissue.map fun r => if r.slot = slot then r.withFault order f else r }

/-- The state with a channel's fault changed. -/
def modFault (s : State) (w : SliceName) (order : Nat) (f : EngineFault → EngineFault) : State :=
  match findTeam s w.launch w.gang w.gteam with
  | none => s
  | some (.active t, _) => modBank s t.core (Bank.withFault t.slot order f)
  | some (.outgoing t, _) => modCore s t.core fun k => { k with outgoing := k.outgoing.map (Bank.withFault t.slot order f) }
  | some (.shadow t, _) => modCore s t.core fun k => { k with shadow := k.shadow.map (Bank.withFault t.slot order f) }
  | some (.saved, _) => modGang s w.launch w.gang fun g => { g with saved := g.saved.map fun v =>
      if v.team.gteam = w.gteam then { v with work := v.work.map (Reissue.withFault order f) } else v }

/-- A channel released, or killed with the cause and unit that stopped it (R251). -/
def EngineFault.acked (refuse : Bool) (f : EngineFault) : EngineFault :=
  match f with
  | .missed c u | .frozen c u => if refuse then .killed c u else .none
  | .none | .killed _ _ => f

/-- A gang with one fault fewer to wait for; with none left it re-enters at its place in the order of acknowledgements, once its
save has ended (R322, R313). -/
def Gang.ackMiss (order : Nat) (g : Gang) : Gang :=
  let last : Bool := g.misses ≤ 1
  { g with
    misses := g.misses - 1
    ready := if last && g.state == .saved then some order else g.ready
    acked := if last && g.state != .saved then some order else g.acked }

/-- One fault of a gang has been acknowledged. -/
def ackMiss (s : State) (w : SliceName) : State :=
  modGang { s with ackOrder := s.ackOrder + 1 } w.launch w.gang (Gang.ackMiss s.ackOrder)

/-- A slice whose miss was refused re-enters TRAPPED with its record (R348); it has arrived at no circle (R161). -/
def refuseMiss (s : State) (w : SliceName) : State :=
  modNamedSlice (discardHeld s w) w fun sl =>
    { sl with run := .trapped, stall := none, waits := none, await := none, arrived := none, skip := false }

/-- A master belongs to a team. -/
def Master.ofTeam (w : SliceName) (m : Master) : Bool :=
  match m with
  | .slice v => v.launch == w.launch && v.gang == w.gang && v.gteam == w.gteam
  | .channel _ _ | .remote _ _ | .nobody => false

/-- A violation record of a team's slices has not been acknowledged. -/
def violated (s : State) (w : SliceName) : Bool :=
  let isTrap (q : FaultQ) (frec : Bool) : Bool := (match q with
    | .trap _ | .debug _ => true
    | .owner | .guest _ => false) && !frec
  (s.waiting.any fun x => x.master.ofTeam w && !isTrap x.q (isFrec x.words) && field (listGetD x.words 0 0) 55 52 != 4) ||
  (s.posted.any fun x => x.master.ofTeam w && !isTrap x.q x.frec && x.cls != 4) ||
  (s.remoteFaults.any fun x => x.master.ofTeam w && !x.miss)

/-- A frozen team released, or killed, by the owner of the violated level (R352): with another violation unacknowledged it stays
frozen; a cancelled launch's ends (R332). -/
def ackViolation (s : State) (w : SliceName) (refuse : Bool) : State :=
  if refuse then
    let s := modNamed s w.launch w.gang w.gteam fun tm => { tm with frozen := false }
    let s := match findTeam s w.launch w.gang w.gteam with
      | none => s
      | some (_, tm) => (tm.members.map fun p => tm.name p.1).foldl discardHeld s
    killTeam s w.launch w.gang w.gteam
  else if violated s w then s
  else
    let s := modNamed s w.launch w.gang w.gteam fun tm => { tm with frozen := false }
    let s := match findTeam s w.launch w.gang w.gteam with
      | some (.active t, _) => resumeTeam s t
      | some (.outgoing _, _) | some (.shadow _, _) | some (.saved, _) | none => s
    match launchOf s w.launch with
    | none => s
    | some l => if l.cancelled then killTeam s w.launch w.gang w.gteam else s

/-- A gang of a cancelled launch in the save pool goes once no team of it is frozen (R332). -/
def dropCancelled (s : State) (launch gang : Nat) : State :=
  match launchOf s launch with
  | none => s
  | some l => if l.cancelled then dropSaved s launch gang else s

/-- AN ACKNOWLEDGEMENT ACTS on its master (R348): RESUME of a miss lets the gang re-enter, REFUSE with the slice TRAPPED;
RESUME of a violation releases, REFUSE kills. Of a slice that is gone the held stores alone are sent again or discarded (R137, R387). -/
def ackMaster (s : State) (m : Master) (miss refuse : Bool) : State :=
  match m with
  | .nobody => s
  | .remote source n => { s with outbox := s.outbox ++ [plainPacket s source n (.ownerAck (!refuse))] }
  | .slice w =>
    if (namedSlice s w).isNone then dropCancelled (ackLate s w refuse) w.launch w.gang
    else if miss then ackMiss (if refuse then refuseMiss s w else s) w
    else dropCancelled (ackViolation s w refuse) w.launch w.gang
  | .channel w order =>
    let s := modFault s w order (EngineFault.acked refuse)
    if miss then ackMiss s w else s

/-- The record posted at a place of a queue's ring. -/
def postedAt (s : State) (q : FaultQ) (d : Dest) : Option Posted := s.posted.find? fun x => x.q == q && x.dest == d

/-- The acknowledgement of a posted record (R348): it leaves, and acts; a trap record's slot is freed only (R323). -/
def acknowledge (s : State) (x : Posted) (refuse : Bool) : State :=
  let s := { s with posted := s.posted.filter fun y => y != x }
  let trap := (match x.q with
    | .trap _ | .debug _ => true
    | .owner | .guest _ => false) && !x.frec
  if trap || x.cls == 6 then s else ackMaster s x.master (x.cls == 4) refuse

/-! ### Writing the records that wait (R323, R347, R348) -/

/-- The first record that waits for a queue leaves. -/
def dropFirst (q : FaultQ) : List Waiting → List Waiting
  | [] => []
  | x :: xs => if x.q = q then xs else x :: dropFirst q xs

/-- The first record that waits for a queue has had its fault reported. -/
def markFirst (q : FaultQ) : List Waiting → List Waiting
  | [] => []
  | x :: xs => if x.q = q then { x with reported := true } :: xs else x :: markFirst q xs

/-- The notices of a queue that has no free slot, dropped and counted: a notice never waits, behind another record neither (R347). -/
def loseNotices (s : State) (q : FaultQ) : State :=
  let lost (x : Waiting) : Bool := x.q == q && isNotice x.words
  { s with
    waiting := s.waiting.filter fun x => !lost x
    regs := { s.regs with noticeLost := s.regs.noticeLost + BitVec.ofNat _ (s.waiting.filter lost).length } }

/-- The write of a record met a fault (R323): reported once to the owner of the failing level, the record kept. -/
def reportWrite (s : State) (q : FaultQ) (x : Waiting) (f : PathFault) : State :=
  if x.reported then s
  else
    let r := ringOf s q
    let rq : Requester := {
      identity := s.regs.number % 8192 * 2 ^ 35, world := r.world, off := BitVec.ofNat 64 (r.off + 64 * ringPos s q), size := 64 }
    let launch := match q with
      | .trap l => l
      | .owner | .guest _ | .debug _ => 0
    let s := { s with waiting := markFirst q s.waiting }
    match f.cause.cls with
    | .miss | .violation => postFault s launch rq f .nobody
    | .encoding | .program | .debug | .data | .event => s

/-- A record written into its slot. -/
def placeRecord (s : State) (q : FaultQ) (x : Waiting) (d : Dest) : State :=
  let n := ringPos s q
  let s := writeDest { s with waiting := dropFirst q s.waiting } d (bytesOfDWords x.words)
  let w0 := listGetD x.words 0 0
  let p : Posted := ⟨q, n, d, BitVec.ofNat 4 (field w0 55 52), isFrec x.words, isFrec x.words || q == .owner, x.master⟩
  { setRingPos s q ((n + 1) % max 1 (ringOf s q).len) with
    posted := (s.posted.filter fun y => !(y.q == q && y.dest == d)) ++ [p] }

/-- WRITING A QUEUE'S OLDEST RECORD (R323, R348): into its next slot when that is free. With no free slot the records wait and the
notices among them are lost; a fault of the write is reported, and a place that does not answer is tried again (R301, R304). -/
def writeRecord (s : State) (q : FaultQ) : State :=
  match s.waiting.find? fun x => x.q == q with
  | none => s
  | some x =>
    if (ringOf s q).len = 0 then loseNotices s q
    else match ringSlot s q (ringPos s q) with
      | .error f => if f.hold.isSome || isNotice x.words then loseNotices s q else reportWrite (loseNotices s q) q x f
      | .ok d =>
        if slotWord s d = some 0 then
          placeRecord (match postedAt s q d with
            | some y => acknowledge s y false
            | none => s) q x d
        else loseNotices s q

/-! ### The owners' words (R323, R348) -/

/-- What an owner has written into the D0 of a posted record, where it stands: 0 resumes or frees; 1 refuses a fault record or a die error
record (R348, R304), and says nothing to a trap record or an event record. -/
def Posted.answer (s : State) (x : Posted) : Option Bool :=
  if slotWord s x.dest = some 0 then some false
  else if slotWord s x.dest = some 1 && x.kills && x.cls != 6 then some true
  else none

/-- A posted record that its owner has answered, by whatever store (R348): it is acknowledged, the device writes D0 := 0 after a
refusal, and the queue's next record is tried. -/
def settleAck (s : State) (x : Posted) : State :=
  match x.answer s with
  | none => s
  | some refuse =>
    let s := if refuse then writeDest s x.dest (List.replicate 8 0) else s
    writeRecord (acknowledge s x refuse) x.q

/-- Every posted record that its owner has answered. -/
def settleAcks (s : State) : State := s.posted.foldl settleAck s

/-- TRAP_RECORD_WRITE (R323). -/
def execTrapRecordWrite (launch : Nat) (s : State) : Host.Outcome State Fault Refusal := .next (writeRecord s (.trap launch))

/-- FAULT_RECORD_WRITE (R347, R348). -/
def execFaultRecordWrite (q : FaultQ) (s : State) : Host.Outcome State Fault Refusal := .next (writeRecord s q)

/-- RECORD_RETRY (R348): the write is tried again. -/
def execRecordRetry (q : FaultQ) (s : State) : Host.Outcome State Fault Refusal := .next (writeRecord s q)

/-! ### The owners' writes (R348) -/

/-- A function may acknowledge the records of a queue. -/
def mayAck (s : State) (fn : Nat) (q : FaultQ) : Bool :=
  match q with
  | .owner => fn == 0
  | .guest w => reachesWorld s fn w
  | .trap l => reachesWorld s fn (worldOfLaunch s l)
  | .debug n => reachesWorld s fn (ringOf s (.debug n)).world

/-- The owner's write of a slot's D0 (R348), which answers the record posted there; with none, a record that waits is tried. -/
def ackSlot (s : State) (fn : Nat) (q : FaultQ) (slot : Nat) (refuse : Bool) : State :=
  if !mayAck s fn q || decide ((ringOf s q).len ≤ slot) then s
  else match ringSlot s q slot with
    | .error _ => s
    | .ok d =>
      let s := writeDest s d (bytesOfDWords [if refuse then 1 else 0])
      match postedAt s q d with
      | none => writeRecord s q
      | some x => settleAck s x

/-- FAULT_ACK_RESUME (R348): 0 written into a slot's D0. -/
def execFaultAckResume (fn : Nat) (q : FaultQ) (slot : Nat) (s : State) : Host.Outcome State Fault Refusal :=
  .next (ackSlot s fn q slot false)

/-- FAULT_ACK_REFUSE (R348): 1 written into a slot's D0, which the device then clears. -/
def execFaultAckRefuse (fn : Nat) (q : FaultQ) (slot : Nat) (s : State) : Host.Outcome State Fault Refusal :=
  .next (ackSlot s fn q slot true)

/-- A descriptor with a doubleword replaced; D2 and D3 are reserved. -/
def QueueDesc.put (d : QueueDesc) (i : Nat) (v : DWord) : QueueDesc :=
  match i with
  | 0 => { d with d0 := v }
  | 1 => { d with d1 := v }
  | _ => d

/-- A fault queue's descriptor written, and its waiting record tried (R348). -/
def writeDesc (s : State) (fn : Nat) (q : FaultQ) (i : Nat) (v : DWord) : State :=
  match q with
  | .owner => if fn = 0 then writeRecord { s with regs := { s.regs with ownerQ := s.regs.ownerQ.put i v } } .owner else s
  | .guest w =>
    if reachesWorld s fn w then
      writeRecord { s with regs := { s.regs with guestQ := Table.put s.regs.guestQ w ((guestDesc s w).put i v) } } (.guest w)
    else s
  | .trap _ | .debug _ => s

/-- FAULTQ_DESCRIPTOR_WRITE (R348). -/
def execFaultqDescriptorWrite (fn : Nat) (q : FaultQ) (dword : Nat) (v : DWord) (s : State) :
    Host.Outcome State Fault Refusal :=
  .next (if hostWrites s then writeDesc s fn q dword v else s)

end Sys2Proof.Machine
end

