-- ==== Sys2Proof/Machine/HostControl.lean ====
section
/-! DEFINITION. What the host writes into the register window and does through its HDM ranges (spec/19 R324, spec/20 R335, R343,
R346, R354, R355, R455, spec/22 R379, spec/27 R438). -/

namespace Sys2Proof.Machine

/-! ### Resuming and retiring (R104, R98, R99, R324) -/

/-- A TRAPPED slice made RUNNABLE at a PC, with the skip mark of R439 or without (R104). -/
def restart (s : State) (w : SliceName) (pc : Word) (skip : Bool) : State :=
  modNamedSlice s w fun sl =>
    { sl with pc := pc, run := .runnable, stall := none, skip := skip, ready := s.clock
              poisonSeen := if pc = sl.pc then sl.poisonSeen else none }

/-- A resume at a PC (R104): at the slice's own with the skip mark (R439). -/
def resumeSlice (s : State) (w : SliceName) (pc : Word) : State := restart s w pc ((namedSlice s w).any fun p => p.2.pc == pc)

/-- A slice retired (R98, R99): it leaves the live set, circles that name it break (R162), and a team with none left is over (R240). The
circles of a team that has been swapped out break as it comes back (log 124). -/
def retireSlice (s : State) (w : SliceName) : State :=
  let s := modNamed s w.launch w.gang w.gteam fun tm => tm.endSlice w.strand
  let s := match findTeam s w.launch w.gang w.gteam with
    | some (.active t, _) => circleTraps s t
    | some (.outgoing _, _) | some (.shadow _, _) | some (.saved, _) | none => s
  settleOver s w.launch w.gang w.gteam

/-- A slice is TRAPPED, its team not frozen (R98). -/
def isTrapped (s : State) (w : SliceName) : Bool := (namedSlice s w).any fun p => p.2.run == .trapped && !p.1.frozen

/-- The slice-control registers of a world. -/
def runControl (s : State) (world : Nat) : RunControl := Table.getD s.regs.runControl world ⟨0, 0⟩

/-- RARG of a world after the host's write of it, where it makes one (R324). -/
def setRarg (s : State) (world : Nat) (v : Option DWord) : State :=
  match v with
  | none => s
  | some v => { s with regs := { s.regs with runControl := Table.put s.regs.runControl world { runControl s world with rarg := v } } }

/-- RCMD as it reads after a command (R324). -/
def setRunControl (s : State) (world : Nat) (rcmd : DWord) (err : Bool) : State :=
  let kept := field rcmd 63 60 * 2 ^ 60 + bitAt err 57 + field rcmd 15 0
  let x : RunControl := { runControl s world with rcmd := BitVec.ofNat 64 kept }
  { s with regs := { s.regs with runControl := Table.put s.regs.runControl world x } }

/-- The slice that a command names by the slot of its trap record; none where the command is refused (R324). -/
def commandSlice (s : State) (world : Nat) (rcmd rarg : DWord) : Option SliceName :=
  let launch := field rarg 63 32
  let slot := field rcmd 15 0
  match launchOf s launch with
  | none => none
  | some l =>
    if l.done || l.world != world || decide (recTrapSlots l.words ≤ slot) || rcmd.getLsbD 59 || field rcmd 56 16 != 0 then none
    else match ringSlot s (.trap launch) slot with
      | .error _ => none
      | .ok d =>
        match postedAt s (.trap launch) d with
        | none => none
        | some p =>
          if slotWord s d = some 0 ∨ p.frec then none
          else match p.master with
            | .slice w => if isTrapped s w then some w else none
            | .channel _ _ | .remote _ _ | .nobody => none

/-- A command of the runtime, written into RCMD (R324): it names its launch and PC by RARG as it stands; `code` 1 resumes, 2 retires. A
word with the other's code is no write of this one. A slice for which a debugger's REGWRITE waits is moved on after it (R441; log 125). -/
def runCommand (s0 : State) (fn world : Nat) (rcmd : DWord) (v : Option DWord) (code : Nat) : State :=
  if !hostWrites s0 ∨ !reachesWorld s0 fn world ∨ field rcmd 63 60 = 3 - code then s0
  else
    let s := setRarg s0 world v
    let rarg := (runControl s world).rarg
    match commandSlice s world rcmd rarg with
    | none => setRunControl s world rcmd true
    | some w =>
      let pc := lowWord rarg
      if s.debugSlots.any fun p => p.2.regwrite.any fun x => x.1 == w then s0
      else if field rcmd 63 60 ≠ code ∨ pc &&& 3 ≠ 0 then setRunControl s world rcmd true
      else
        let s := setRunControl s world rcmd false
        if code = 1 then resumeSlice s w pc else retireSlice s w

/-- RCMD_RESUME (R324). -/
def execRcmdResume (fn world : Nat) (rcmd : DWord) (rarg : Option DWord) (s : State) : Host.Outcome State Fault Refusal :=
  .next (runCommand s fn world rcmd rarg 1)

/-- RCMD_RETIRE (R324). -/
def execRcmdRetire (fn world : Nat) (rcmd : DWord) (rarg : Option DWord) (s : State) : Host.Outcome State Fault Refusal :=
  .next (runCommand s fn world rcmd rarg 2)

/-! ### The label-control port (R346) -/

/-- A level by its number. -/
def lvlOf (n : Nat) : Lvl :=
  match n % 4 with
  | 0 => .c
  | 1 => .d
  | 2 => .p
  | _ => .f

/-- The port's ERR set. -/
def lcpError (s : State) : State := { s with regs := { s.regs with lcpErr := true } }

/-- LCPCMD (R346): every copy of the label goes stale; BUSY until nothing in flight used one. DESIGN CHOICE (log 131): a command that is taken
clears ERR. -/
def execLcpcmd (fn : Nat) (v : DWord) (s : State) : Host.Outcome State Fault Refusal :=
  .next <|
    if !hostWrites s then s
    else if fn ≠ 0 ∨ s.regs.lcpBusy ∨ field v 15 0 = 0 then lcpError s
    else
      let kept := BitVec.ofNat 64 (field v 63 62 * 2 ^ 62 + field v 47 32 * 2 ^ 32 + field v 15 0)
      let s := invalidate s (lvlOf (field v 63 62)) (field v 47 32) (BitVec.ofNat 16 (field v 15 0))
      { s with regs := { s.regs with lcpCmd := kept, lcpBusy := true, lcpMark := s.nextAccess, lcpErr := false } }

/-- LCP_INVALIDATION_COMPLETE (R346, R344): BUSY clears once no access that used a stale copy is in flight. -/
def execLcpInvalidationComplete (s : State) : Host.Outcome State Fault Refusal :=
  let v := s.regs.lcpCmd
  let m := lvlOf (field v 63 62)
  let lab := BitVec.ofNat 16 (field v 15 0)
  .next <|
    if s.regs.lcpBusy && !usesLabel s m (field v 47 32) lab s.regs.lcpMark then
      invalidated { s with regs := { s.regs with lcpBusy := false } } m (field v 47 32) lab
    else s

/-! ### Memory-side cache partitions (R354, R355) -/

/-- The sum of MIN over the partitions. -/
def minSum (s : State) : Nat := (s.partitions.map fun p => p.2.min).sum

/-- PARTITION_WRITE (R354): MIN, MAX and FIXED, ignored where the minima exceed 16 or MIN exceeds MAX. -/
def execPartitionWrite (fn part : Nat) (v : DWord) (s : State) : Host.Outcome State Fault Refusal :=
  let mn := field v 4 0
  let mx := field v 12 8
  .next <|
    if !hostWrites s ∨ fn ≠ 0 ∨ 64 ≤ part ∨ mx < mn ∨ 16 < mx ∨ 16 < minSum s - (partition s part).min + mn then s
    else modPartition s part fun x =>
      { x with min := mn, max := mx, fixed := v.getLsbD 24, quota := if v.getLsbD 24 then mn else x.quota, written := true
               why := if v.getLsbD 24 then 2 else x.why }

/-- The added hits that the monitor of a partition shows for one way more than a quota (R354). -/
def gainOf (s : State) (p quota : Nat) : Nat := listGetD (monitor s p).hits quota 0

/-- The partition that takes the next way: FIXED 0 and below its MAX, with the most added hits, the lower on ties; partition 0
where none can. -/
def nextTaker (s : State) (quotas : List Nat) : Nat :=
  ((List.range 64).foldl (fun (m : Option Nat) p =>
    let q := listGetD quotas p 0
    if (partition s p).fixed || decide ((partition s p).max ≤ q) then m
    else match m with
      | none => some p
      | some b => if gainOf s b (listGetD quotas b 0) < gainOf s p q then some p else m) none).getD 0

/-- Ways handed out one at a time. -/
def handWays (s : State) : Nat → List Nat → List Nat
  | 0, qs => qs
  | n + 1, qs => handWays s n (listModify (· + 1) qs (nextTaker s qs))

/-- A partition with its quota set by the hardware; `why` is what moved it (R355). -/
def Partition.requota (q : Nat) (x : Partition) : Partition :=
  { x with quota := q, written := false, why := if x.quota = q then x.why else if x.written then 2 else 1 }

/-- QUOTA_UPDATE (R354): 1 ms after the last, each quota starts at MIN, and the remaining ways go by the monitors' added hits. Whether the
monitors then count anew is open (log 106). -/
def execQuotaUpdate (anew : Bool) (s : State) : Host.Outcome State Fault Refusal :=
  let mins := (List.range 64).map fun p => (partition s p).min
  let qs := handWays s (16 - mins.sum) mins
  .next <|
    if s.wall < s.quotaAt + millisecond then s
    else
      let s := (List.range 64).foldl (fun s p =>
        let q := listGetD qs p 0
        if (partition s p).quota = q ∧ !(partition s p).written then s else modPartition s p (Partition.requota q)) s
      { s with quotaAt := s.wall, monitors := if anew then s.monitors.map fun m => (m.1, { m.2 with hits := List.replicate 16 0 }) else s.monitors }

/-! ### Debug slots (R438) -/

/-- A debug slot. -/
def debugSlot (s : State) (n : Nat) : DebugSlot := Table.getD s.debugSlots n DebugSlot.idle

/-- What a breakpoint or watchpoint doubleword keeps of a written value (R438, R440): its reserved bits take nothing. -/
def pointKept (i : Nat) (v : DWord) : DWord :=
  if i < 16 then BitVec.ofNat 64 (bitAt (v.getLsbD 63) 63 + field v 31 0)
  else match i % 4 with
    | 0 | 1 => v
    | 2 => BitVec.ofNat 64 (bitAt (v.getLsbD 63) 63 + field v 1 0)
    | _ => 0

/-- A slot with a breakpoint or watchpoint doubleword written; what a breakpoint held is kept for 64 cycles (R439). -/
def DebugSlot.writePoint (b : DebugSlot) (now : DWord) (i : Nat) (v : DWord) : DebugSlot :=
  { b with
    points := Table.put b.points i (pointKept i v)
    earlier := if i < 16 then (b.earlier.filter fun x => recentWrite now x.2.2) ++ [(i, b.point i, now)] else b.earlier }

/-- A slot with a doubleword written by the host: a write to D0 clears BOUND; read-only and reserved fields take nothing; D7 is
DCMD's own. -/
def DebugSlot.write (b : DebugSlot) (now : DWord) (i : Nat) (v : DWord) : DebugSlot :=
  let old := listGetD b.d i 0
  match i with
  | 0 => { b with d := b.d.set 0 (BitVec.ofNat 64 (bitAt (v.getLsbD 63) 63 + field v 55 0)) }
  | 1 => { b with d := b.d.set 1 (BitVec.ofNat 64 (field old 63 32 * 2 ^ 32 + field v 31 28 * 2 ^ 28 + field v 8 0)) }
  | 2 | 3 | 4 | 5 | 8 => { b with d := b.d.set i v }
  | _ => if 16 ≤ i ∧ i < 64 then b.writePoint now (i - 16) v else b

/-- DEBUG_SLOT_WRITE (R438): a slot attached or given a debug ring anew writes it from slot 0 (R323). -/
def execDebugSlotWrite (fn slot off : Nat) (v : DWord) (s : State) : Host.Outcome State Fault Refusal :=
  .next <|
    if !hostWrites s ∨ 64 ≤ slot ∨ off % 8 ≠ 0 ∨ !reachesWorld s fn (field (listGetD (debugSlot s slot).d 0 0) 47 32) then s
    else
      let s : State := { s with debugSlots := Table.put s.debugSlots slot ((debugSlot s slot).write s.clock (off / 8) v) }
      if off = 0 ∨ off = 16 ∨ off = 24 then setRingPos s (.debug slot) 0 else s

/-! ### Registers with no behaviour of their own (R335, R343, R327, R324, R379, R402, R428, R433, R455) -/

/-- Bits [hi:lo] of a doubleword kept at their place. -/
def keepBits (v : DWord) (hi lo : Nat) : DWord := BitVec.ofNat 64 (field v hi lo * 2 ^ lo)

/-- A package register written by the physical function (R455). -/
def writePackageReg (s : State) (off : Nat) (v : DWord) : State :=
  let put (f : Regs → Regs) : State := { s with regs := f s.regs }
  match off with
  | 0x000 => put fun r => { r with qtBase := keepBits v 47 5 }
  | 0x008 => put fun r => { r with cttBase := keepBits v 47 3 }
  | 0x010 => put fun r => { r with ptBase := keepBits v 47 6 }
  | 0x018 => put fun r => { r with ptCount := keepBits v 16 0 }
  | 0x040 => put fun r => { r with spBase := keepBits v 47 12 }
  | 0x048 => put fun r => { r with spSize := keepBits v 47 12 }
  | _ =>
    if 0x020 ≤ off ∧ off < 0x040 ∧ off % 8 = 0 then modDie s ((off - 0x020) / 8) fun d => { d with wdtBase := keepBits v 47 5 }
    else if 0x100 ≤ off ∧ off < 0x900 ∧ off % 8 = 0 then
      put fun r => { r with fworld := Table.put r.fworld ((off - 0x100) / 8) (keepBits v 11 0) }
    else if 0x900 ≤ off ∧ off < 0x1100 ∧ off % 8 = 0 then
      put fun r => { r with hlabel := Table.put r.hlabel ((off - 0x900) / 8) (keepBits v 15 0) }
    else s

/-- A field of the fabric block that the owner of level P writes (R379). SOWCOUNT stands in bits [63:48] beside SOWBASE. -/
def writeFabricReg (s : State) (off : Nat) (v : DWord) : State :=
  let put (f : Regs → Regs) : State := { s with regs := f s.regs }
  match off with
  | 0x0000 => put fun r => { r with ftBase := keepBits v 47 6 }
  | 0x0008 => put fun r => { r with ftCount := v }
  | 0x3000 => put fun r => { r with
      sowBase := r.sowBase.set 0 (keepBits v 47 5), sowCount := r.sowCount.set 0 (BitVec.ofNat 64 (field v 63 48)) }
  | 0x3008 => put fun r => { r with
      sowBase := r.sowBase.set 1 (keepBits v 47 5), sowCount := r.sowCount.set 1 (BitVec.ofNat 64 (field v 63 48)) }
  | _ => s

/-- A function's Saltin mailbox (R428). -/
def mailbox (s : State) (fn : Nat) : Mailbox := Table.getD s.mailboxes fn ⟨0, 0, []⟩

/-- Bytes put into a mailbox's buffer. -/
def putBuffer (m : Mailbox) (off : Nat) (bs : List Byte) : Mailbox :=
  { m with buffer := (bs.zip (List.range bs.length)).foldl (fun t p =>
      if off + p.2 < 4096 then Table.put t (off + p.2) p.1 else t) m.buffer }

/-- SSTAT as it stands with a status and a result (R428). -/
def statWord (busy : Bool) (status result : Nat) : DWord :=
  BitVec.ofNat 64 (bitAt busy 63 + status % 256 * 2 ^ 48 + result % 2 ^ 48)

/-- A write of SCMD (R428): the command waits for its turn; with BUSY set or a reserved code it is a BAD_REQUEST. -/
def writeCommand (s : State) (fn : Nat) (v : DWord) : State :=
  let m := mailbox s fn
  let put (m : Mailbox) : State := { s with mailboxes := Table.put s.mailboxes fn m }
  if m.sstat.getLsbD 63 then put { m with sstat := statWord true 3 (field m.sstat 47 0) }
  else if field v 63 56 = 0 ∨ 7 < field v 63 56 then put { m with sstat := statWord false 3 0 }
  else
    let s := put { m with scmd := keepBits v 63 56, sstat := statWord true 0 0 }
    { s with saltin := { s.saltin with pending := s.saltin.pending ++ [fn] } }

/-- The offset at which the model numbers PCIe configuration space (R433): beyond the 8 MiB window. -/
def configSpace : Nat := 0x800000

/-- A write of a register at an offset of a function's window. -/
def writeRegister (s : State) (fn off : Nat) (v : DWord) : State :=
  let owner := fn == 0
  let world (base size : Nat) : Nat := (off - base) / size
  if off < 0x10000 then (if owner then writePackageReg s off v else s)
  else if 0x30000 ≤ off ∧ off < 0x40000 then
    let w := world 0x30000 16
    let old := Table.getD s.regs.handlers w (0, 0)
    let new := if off % 16 = 0 then (v, old.2) else if off % 16 = 8 then (old.1, keepBits v 47 0) else old
    if reachesWorld s fn w then { s with regs := { s.regs with handlers := Table.put s.regs.handlers w new } } else s
  else if 0x50000 ≤ off ∧ off < 0x54000 ∧ off % 4 = 0 then
    let k := keepBits v 31 31 ||| keepBits v 25 24 ||| keepBits v 21 16 ||| keepBits v 9 0
    if owner then { s with regs := { s.regs with wkey := Table.put s.regs.wkey (world 0x50000 4) (lowWord k) } } else s
  else if 0x60000 ≤ off ∧ off < 0x70000 then (if owner then writeFabricReg s (off - 0x60000) v else s)
  else if off = 0x80000 then writeCommand s fn v
  else if 0x81000 ≤ off ∧ off < 0x82000 then
    { s with mailboxes := Table.put s.mailboxes fn (putBuffer (mailbox s fn) (off - 0x81000) (bytesOfDWord v)) }
  else if 0xB0000 ≤ off ∧ off < 0xC0000 ∧ off % 16 = 8 then
    let w := world 0xB0000 16
    if reachesWorld s fn w then
      { s with regs := { s.regs with runControl := Table.put s.regs.runControl w { runControl s w with rarg := v } } }
    else s
  else s

/-- REGISTER_WRITE (R335, R433, R455): in the window, or the recovery capability's IMGADDR and IMGLEN, which take a write at every
stage. -/
def execRegisterWrite (fn off : Nat) (v : DWord) (s : State) : Host.Outcome State Fault Refusal :=
  .next <|
    if off = configSpace + 0x410 then (if fn = 0 then { s with saltin := { s.saltin with imgAddr := v } } else s)
    else if off = configSpace + 0x418 then (if fn = 0 then { s with saltin := { s.saltin with imgLen := lowWord v } } else s)
    else if hostWrites s then writeRegister s fn off v else s

/-! ### Host accesses through HLABEL (R335, R369, R370) -/

/-- The walk of a host access at station P (R335): label HLABEL, the function's world, H with R or W. A SWAP there serves no host
access. -/
def hostPath (s : State) (fn : Nat) (write : Bool) (off size : Nat) : Except PathFault Path := do
  let need := permH ||| (if write then permW else permR)
  let lw := setLabel 0 0 (field (Table.getD s.regs.hlabel fn 0) 15 0)
  let a : Ask := {
    core := 0, launch := 0, gang := 0, world := functionWorld s fn, off := off, size := size, need := need, req := .plain }
  let p ← stationP s a { lw := lw }
  match p.dest with
  | .fabric _ _ | .window _ _ _ _ => .error ((({ lw := lw } : Going).fail .p need none .labelDenied 21))
  | .main _ _ _ _ | .host _ | .scratch _ _ | .regs _ | .stack _ | .weight _ _ => .ok p

/-- The fault record of a host access (R335, R349): HOST 1, its function, the package number alone of the identity. -/
def hostFault (s : State) (fn off size : Nat) (f : PathFault) : State :=
  let q : Requester := {
    identity := s.regs.number % 8192 * 2 ^ 35, host := some fn, world := functionWorld s fn, off := BitVec.ofNat 64 off, size := size }
  match f.cause.cls with
  | .miss | .violation => postFault s 0 q { f with pos := 0 } .nobody
  | .encoding | .program | .debug | .data | .event => s

/-- A host read completed on the link, its data marked as poisoned or not (R335). -/
def hostReturn (s : State) (fn off : Nat) (data : List Byte) (poisoned : Bool) : State :=
  { s with hostReads := s.hostReads ++ [⟨fn, off, data, poisoned⟩] }

/-- A host access performed in host order at hl (R364, R370), a read completing with its data. One at a place that does not answer now
(R301, R304, R451) is not made yet (log 117). -/
def hostPerform (s : State) (fn off : Nat) (d : Dest) (write : Bool) (size : Nat) (data : List Byte) : State :=
  let w := if write then some (fitBytes size data) else none
  match d with
  | .main pa key _ _ =>
    match streamMain s .host pa key size w with
    | .moved s bs => if write then s else hostReturn s fn off bs false
    | .held _ => s
  | .host pa =>
    match w with
    | some bs => { s with hostMem := Memory.writeBytes s.hostMem pa bs }
    | none => hostReturn s fn off (Memory.readBytes s.hostMem pa size) false
  | .scratch _ _ | .regs _ | .stack _ | .weight _ _ | .fabric _ _ | .window _ _ _ _ => s

/-- HOST_ACCESS (R335): performed; or, having met a trap at station P, not: its fault record posted, a read completing with all-zero data
marked as poisoned and a write discarded. -/
def execHostAccess (fn : Nat) (write : Bool) (off size : Nat) (data : List Byte) (s : State) :
    Host.Outcome State Fault Refusal :=
  .next <|
    match hostPath s fn write off size with
    | .error f =>
      if f.hold.isSome then s
      else
        let s := hostFault s fn off size f
        if write then s else hostReturn s fn off (List.replicate size 0) true
    | .ok p => hostPerform (keepCopies s 0 p.copies) fn off p.dest write size data

end Sys2Proof.Machine
end

