-- ==== Sys2Proof/Machine/Fabric.lean ====
section
/-! DEFINITION. The Reach fabric (spec/22): packets at their target (R381, R385 to R389, R399), what comes back to the source (R386
to R389), links (R390, R391), scale-out windows (R396, R397), grants (R406), and active messages at their target (R327, R412,
R413). An event whose condition does not hold leaves the state as it is. -/

namespace Sys2Proof.Machine

/-! ### At the target: what has ended of a slice's accesses (R399) -/

/-- What this target knows of a slice of another package. -/
def endedOf (s : State) (source : Nat) (w : SliceName) : Ended :=
  (s.ended.find? fun e => e.source == source && e.slice == w).getD ⟨source, w, 0, [], [], 0⟩

/-- `low` raised over the accesses that have ended. -/
def Ended.advance : Nat → Ended → Ended
  | 0, e => e
  | fuel + 1, e =>
    if e.ended.contains e.low then Ended.advance fuel { e with low := e.low + 1, ended := e.ended.filter fun n => n != e.low } else e

/-- Accesses ended, performed or discarded. -/
def Ended.add (lost : Bool) (ns : List Nat) (e : Ended) : Ended :=
  Ended.advance (e.ended.length + ns.length) { e with
    ended := e.ended ++ ns.filter fun n => decide (e.low ≤ n) && !e.ended.contains n
    lost := if lost then e.lost ++ ns else e.lost }

/-- The state with what is known of a slice changed. -/
def modEnded (s : State) (p : Packet) (f : Ended → Ended) : State :=
  let e := endedOf s p.source p.slice
  { s with ended := (s.ended.filter fun x => !(x.source == p.source && x.slice == p.slice)) ++ [f e] }

/-- The access at a place has ended. -/
def Ended.has (e : Ended) (n : Nat) : Bool := decide (n < e.low) || e.ended.contains n

/-- The accesses that a flag or message counts have ended (R399, R412). -/
def countedEnded (s : State) (p : Packet) : Bool :=
  let e := endedOf s p.source p.slice
  match p.kind with
  | .flag n => (List.range n).all fun i => e.has (p.ordinal - n + i)
  | .message _ _ => (List.range (p.ordinal - e.low)).all fun i => e.has (e.low + i)
  | _ => true

/-- An access that a flag or message counts has been discarded: it is discarded itself (R399). -/
def countedLost (s : State) (p : Packet) : Bool :=
  let e := endedOf s p.source p.slice
  match p.kind with
  | .flag _ => e.lost.any fun n => decide (e.base ≤ n ∧ n < p.ordinal)
  | .message _ _ => e.lost.any fun n => decide (n < p.ordinal)
  | _ => false

/-! ### At the target: answers -/

/-- The grant of a packet that leaves the receive buffers, to the entry that paid for it (R406). -/
def grantOf (s : State) (p : Packet) : Packet :=
  { plainPacket s p.source p.access .grant with part := p.part, payCore := p.payCore, payEntry := p.payEntry }

/-- The answer that a packet brings back. -/
def answerOf (s : State) (p : Packet) (k : PacketKind) (bs : List Byte) : Packet :=
  { plainPacket s p.source p.access k with
    requester := p.requester, chan := p.chan, slice := p.slice, size := p.size, part := p.part, bucket := p.bucket
    seq := p.seq, payload := bs }

/-- A packet leaves the receive buffers with an answer: the answer and the grant go to its source. -/
def answer (s : State) (p : Packet) (k : PacketKind) (bs : List Byte) : State :=
  { s with outbox := s.outbox ++ [answerOf s p k bs, grantOf s p] }

/-- A packet refused. -/
def refusePacket (s : State) (p : Packet) (r : RefusalInfo) : State := answer s p (.refused r) []

/-- The refusal of a packet of another incarnation (R389): no table has been read. -/
def resetInfo : RefusalInfo := .fault Cause.peerReset.value 0 3 ⟨0, 0, 3, 0, 0, 0⟩

/-- A refused atomic stands as not issued: no flag waits for it (R387, R388). -/
def voidAtomic (s : State) (p : Packet) : State :=
  match p.kind with
  | .atomic _ _ _ => modEnded s p (Ended.add false [p.ordinal])
  | _ => s

/-- A packet of a store, flag or message: a refusal blocks its bucket (R387, R412). -/
def PacketKind.blocks : PacketKind → Bool
  | .store | .flag _ | .message _ _ => true
  | .load | .element | .atomic _ _ _ | .copyRead | .copyWrite | .marker _ _ | .reply | .ack | .refused _ | .record _ | .ownerAck _
  | .grant => false

/-- A packet of another package has the incarnations of now (R389); none has while the package waits for an incarnation after a
reset or a scrub (R434). -/
def incarnate (s : State) (p : Packet) : Bool :=
  s.saltin.numbered && p.targetInc == s.regs.incarnation && p.sourceInc == Table.getD s.regs.incTab p.source 0

/-! ### At the target: blocked buckets (R387) -/

/-- A block of a packet's slice in its bucket. -/
def Block.of (p : Packet) (b : Block) : Bool := b.source == p.source && b.slice == p.slice && b.bucket == p.bucket

/-- A packet is refused BLOCKED: its bucket is blocked for its slice, and it is no held store sent again after the block. -/
def isBlocked (s : State) (p : Packet) : Bool :=
  !p.chan && (match s.blocked.find? (Block.of p) with
  | none => false
  | some b => !p.again || b.again)

/-- A bucket blocked for a packet's slice. -/
def blockFor (s : State) (p : Packet) : State :=
  if PacketKind.blocks p.kind then
    { s with blocked := (s.blocked.filter fun b => !Block.of p b) ++ [⟨p.source, p.slice, p.bucket, p.again⟩] }
  else s

/-- A resume marker (R387): the block is lifted; one that a store sent again has made stays for the next resume. A discarded flag counts
for the next one as performed, which counts from the place after it (R399). -/
def markPacket (s : State) (p : Packet) (lost flags : List Nat) : State :=
  let s := { s with blocked := s.blocked.filterMap fun b =>
    if (Block.of p b : Bool) then (if b.again then some { b with again := false } else none) else some b }
  let s := modEnded s p fun e =>
    let e := Ended.add false flags (Ended.add true lost e)
    { e with base := flags.foldl (fun m n => max m (n + 1)) e.base }
  { s with outbox := s.outbox ++ [grantOf s p] }

/-! ### At the target: station F and performing (R385, R386, R364) -/

/-- What an access of a packet needs, and what it is to the stations. -/
def PacketKind.asks : PacketKind → BitVec 6 × Req
  | .load | .element => (permR, .plain)
  | .store => (permW, .plain)
  | .copyRead => (permR ||| permM, .plain)
  | .copyWrite => (permW ||| permM, .plain)
  | .atomic op _ _ => (permR ||| permW ||| permA, .atomic op)
  | .flag _ => (permW, .flag)
  | .message _ _ => (permW, .amsg)
  | .marker _ _ | .reply | .ack | .refused _ | .record _ | .ownerAck _ | .grant => (0, .plain)

/-- The walk of a packet at F. A message's BASE and LIMIT are ignored (R412). -/
def walkF (s : State) (p : Packet) : Except PathFault Path :=
  stationF s {
    core := 0, launch := 0, gang := 0, world := p.world, off := p.off.toNat, size := p.size, need := (PacketKind.asks p.kind).1
    req := (PacketKind.asks p.kind).2 } p.label.toNat p.have6 p.pos.toNat

/-- A record that names another package's access stands in a queue or waits for one. -/
def remoteReported (s : State) (p : Packet) : Bool :=
  (s.waiting.any fun x => x.master == .remote p.source p.access) || s.posted.any fun x => x.master == .remote p.source p.access

/-- A refusal at F (R386): the record in the owner's queue, the source's trace words redacted (R351), and the packet refused. A
queue-load element's record comes with its first pop. -/
def refuseAtF (s : State) (p : Packet) (f : PathFault) : State :=
  let f' := { f with trace := { c := redacted, d := redacted, p := redacted, f := f.trace.f } }
  let q : Requester := {
    identity := p.requester.toNat, chan := p.chan, pc := p.pc, world := p.world, off := p.off, size := p.size }
  let s := if p.kind = .element || remoteReported s p then s else
    { s with waiting := s.waiting ++ [⟨.owner, faultWords s q f' 3 false, .remote p.source p.access, false⟩] }
  refusePacket (voidAtomic (blockFor s p) p) p (.fault f.cause.value f.reason 3 ⟨f.label, f.gen, f.action, f.pos, f.have6, f.trace.f⟩)

/-- How a packet comes out at its place. -/
inductive Arrived where
  | done (s : State) (bs : List Byte)
  | waits
  | frozen (kind unit addr : Nat)
  deriving DecidableEq, Repr

/-- The bytes of a packet's part in its access: where they begin, and how many. -/
def Packet.span (p : Packet) : Nat × Nat := (256 * p.part, min 256 (p.size - 256 * p.part))

/-- A packet's access to main memory under fl (R364), its lines stamped. -/
def arriveMain (s : State) (p : Packet) (pa key n : Nat) : Arrived :=
  let ls := linesOf pa n
  match ls.findSome? fun l => lineHold s l (p.kind == .copyWrite) with
  | some (.freezes kind unit addr) => .frozen kind unit addr
  | some .waits | some (.fetch _) => .waits
  | none =>
    let stamp (s : State) : State := ls.foldl (fun s l => stampStore s .fabric l (wholeSectors pa n l)) s
    match p.kind with
    | .store | .flag _ | .copyWrite => .done (stamp (writeKeyed s key pa (fitBytes n p.payload))) []
    | .atomic op x c =>
      let old := readKeyed s key pa n
      let new := atomicValue op n (dwordOfBytes old) x c
      let s := { s with atomicWorlds := Table.put s.atomicWorlds (homeSlice (pa / 128)) p.world }
      .done (stamp (writeKeyed s key pa ((bytesOfDWord new).take n))) old
    | _ => .done (ls.foldl (fun s l => (renewLine s .fabric l).1) s) (readKeyed s key pa n)

/-- A packet's access to the host window. -/
def arriveHost (s : State) (p : Packet) (pa n : Nat) : Arrived :=
  let old := Memory.readBytes s.hostMem pa n
  let put (bs : List Byte) : State := { s with hostMem := Memory.writeBytes s.hostMem pa bs }
  match p.kind with
  | .store | .flag _ | .copyWrite => .done (put (fitBytes n p.payload)) []
  | .atomic op x c => .done (put ((bytesOfDWord (atomicValue op n (dwordOfBytes old) x c)).take n)) old
  | _ => .done s old

/-- A packet that passed F performed where its path ends. -/
def arriveAt (s : State) (p : Packet) (d : Dest) : Arrived :=
  let sp := Packet.span p
  match d with
  | .main pa key _ _ => arriveMain s p (pa + sp.1) key sp.2
  | .host pa => arriveHost s p (pa + sp.1) sp.2
  | .scratch _ _ | .regs _ | .stack _ | .weight _ _ | .fabric _ _ | .window _ _ _ _ => .waits

/-- A performed packet answered and counted. -/
def finishPacket (s : State) (p : Packet) (bs : List Byte) : State :=
  match p.kind with
  | .store | .flag _ => answer (modEnded s p (Ended.add false [p.ordinal])) p .ack []
  | .atomic _ _ _ => answer (modEnded s p (Ended.add false [p.ordinal])) p .reply bs
  | .copyWrite => answer s p .ack []
  | _ => answer s p .reply bs

/-- The die error record of another package's access (R304, R305), once. -/
def freezeRemote (s : State) (p : Packet) (kind unit addr : Nat) : State :=
  if remoteReported s p then s
  else
    let who := BitVec.ofNat 64 (p.requester.toNat + bitAt p.chan 0)
    { s with waiting := s.waiting ++
        [⟨.owner, dieError s kind (unit / 384) (unit % 384) addr who, .remote p.source p.access, false⟩] }

/-- A flag taken, whether performed or discarded: the next counts from the place after it (R399). -/
def flagTaken (s : State) (p : Packet) : State :=
  match p.kind with
  | .flag _ => modEnded s p fun e => { e with base := p.ordinal + 1 }
  | _ => s

/-- A packet that counts a discarded access discarded, and acknowledged (R399). -/
def discardPacket (s : State) (p : Packet) : State :=
  match p.kind with
  | .flag _ => answer (modEnded (flagTaken s p) p (Ended.add false [p.ordinal])) p .ack []
  | _ => answer s p .ack []

/-- TAKING A PACKET that may be taken (R385 to R389): the state, and whether it was taken. -/
def takePacket (s : State) (p : Packet) : State × Bool :=
  match p.kind with
  | .marker lost flags => (markPacket s p lost flags, true)
  | _ =>
    if isBlocked s p then (refusePacket (voidAtomic s p) p .blocked, true)
    else if countedLost s p then (discardPacket s p, true)
    else match walkF s p with
      | .error f =>
        match f.hold with
        | some (.freezes kind unit addr) => (freezeRemote s p kind unit addr, false)
        | some .waits | some (.fetch _) => (s, false)
        | none => (refuseAtF s p f, true)
      | .ok path =>
        let s := keepCopies s 0 path.copies
        match p.kind with
        | .message _ _ => ({ s with messages := s.messages ++ [p] }, true)
        | _ =>
          match arriveAt s p path.dest with
          | .done s bs => (finishPacket (flagTaken s p) p bs, true)
          | .waits => (s, false)
          | .frozen kind unit addr => (freezeRemote s p kind unit addr, false)

/-! ### At the target: order (R381, R399) -/

/-- Two packets of one slice in one bucket. -/
def Packet.follows (p q : Packet) : Bool :=
  !p.chan && !q.chan && p.source == q.source && p.slice == q.slice && p.bucket == q.bucket

/-- One pass over the packets that stand: each that may be taken is taken, in order; the state, the packets kept, and whether any
was taken. -/
def passStanding (s : State) : List Packet → List Packet → Bool → State × List Packet × Bool
  | [], kept, moved => (s, kept, moved)
  | p :: ps, kept, moved =>
    if kept.any (Packet.follows p) || !(isBlocked s p || countedEnded s p) then passStanding s ps (kept ++ [p]) moved
    else
      let r := takePacket s p
      if r.2 then passStanding r.1 ps kept true else passStanding r.1 ps (kept ++ [p]) moved

/-- Passes until nothing moves. -/
def settleStanding : Nat → State → State
  | 0, s => s
  | fuel + 1, s =>
    let r := passStanding { s with standing := [] } s.standing [] false
    let s := { r.1 with standing := r.2.1 }
    if r.2.2 then settleStanding fuel s else s

/-- Packets in sequence stand in the order of their sequence; one that arrived early is held (R381). -/
def releaseHeld : Nat → State → State
  | 0, s => s
  | fuel + 1, s =>
    match s.heldPackets.find? fun p => p.seq == Table.getD s.expected (seqKey p.source p.bucket) 0 with
    | none => s
    | some p =>
      let key := seqKey p.source p.bucket
      releaseHeld fuel { s with
        heldPackets := s.heldPackets.erase p, expected := Table.put s.expected key (p.seq + 1)
        standing := s.standing ++ [p] }

/-- A packet of the sequences arrives (R381, R389). -/
def arriveOrdered (s : State) (p : Packet) : State :=
  if s.standing.contains p then settleStanding (s.standing.length + 1) s
  else if !incarnate s p then refusePacket s p resetInfo
  else
    let s := releaseHeld (s.heldPackets.length + 1) { s with heldPackets := s.heldPackets ++ [p] }
    settleStanding (s.standing.length + 1) s

/-- A target owner's acknowledgement comes back to the source (R386). -/
def arriveAck (s : State) (p : Packet) (resume : Bool) : State :=
  match s.remoteFaults.find? fun r => r.target == p.source && r.access == p.access with
  | none => s
  | some r => ackMaster { s with remoteFaults := s.remoteFaults.filter fun x => x != r } r.master r.miss (!resume)

/-- PACKET_ARRIVAL (R385): a request is checked for its incarnations, ordered, walked at F, and performed or refused; a packet that
stands already is tried again; a poisoned element's record is posted and an owner's acknowledgement acts, where their incarnations are
those of now (R389). Replies, acknowledgements
and refusals reach the source as events of their own. -/
def execPacketArrival (p : Packet) (s : State) : Host.Outcome State Fault Refusal :=
  .next <|
    if p.target ≠ s.regs.number then s
    else match p.kind with
      | .reply | .ack | .refused _ | .grant => s
      | .ownerAck resume => if incarnate s p then arriveAck s p resume else s
      | .record ws => if !incarnate s p then s else { s with waiting := s.waiting ++ [⟨.owner, ws, .remote p.source p.access, false⟩] }
      | .load | .element | .store | .atomic _ _ _ | .flag _ | .copyRead | .copyWrite | .message _ _ | .marker _ _ => arriveOrdered s p

/-! ### At the source: faults that come back (R386 to R389, R397) -/

/-- What an access needs. -/
def AccessKind.need (k : AccessKind) : BitVec 6 := (PacketKind.asks (packetKind k)).1

/-- The fault that a refusal brings back. -/
def Access.fault (a : Access) (cause reason : Byte) (level : BitVec 2) : PathFault :=
  let h : BitVec 6 := match a.place with
    | .fabric _ _ h _ => h
    | .main _ _ _ | .scratch _ _ | .host _ | .weight _ _ | .window _ _ _ => 0
  { cause := causeOf cause, level := level, reason := reason, pos := a.pos, need := a.kind.need, have6 := h, trace := a.trace }

/-- The fault that a refusal at another package's station F brings back (R386). -/
def Access.faultAtF (a : Access) (cause reason : Byte) (level : BitVec 2) (x : SeenAtF) : PathFault :=
  let f := a.fault cause reason level
  if x.label = 0 then f
  else { f with label := x.label, gen := x.gen, action := x.action, pos := x.pos, have6 := x.have6, trace := { f.trace with f := x.trace } }

/-- What its records say of its requester. -/
def Access.requester (s : State) (a : Access) : Requester :=
  { identity := (requesterOf s a).toNat, chan := a.ofChannel, pc := a.pc, world := a.world, off := a.off, size := a.size }

/-- The records of a refusal (R386, R397): of a package's, the notice, the target's owner to acknowledge; of a window's, the fault
record in the own owner's queue too. -/
def reportRefusal (s : State) (a : Access) (f : PathFault) (m : Master) : State :=
  if 8192 ≤ a.target then postFault s a.who.launch (a.requester s) f m
  else
    let s := postNotice s (a.requester s) f
    { s with remoteFaults := s.remoteFaults ++ [⟨a.target, a.n, f.cause.cls == .miss, m⟩] }

/-- The length in words of the instruction at a PC of a launch. -/
def lengthAt (s : State) (launch : Nat) (team : Bool) (pc : Word) : Nat :=
  match launchOf s launch with
  | none => 1
  | some l => lengthOf team (listGetD l.code (pc.toNat / 4) 0)

/-- What a slice's trap record says of a refused access. -/
def Access.trap (a : Access) (f : PathFault) (next : Word) : TrapInfo :=
  let d := (f.trace.shown 0).words
  { cause := f.cause, next := next, info0 := a.off, info1 := a.lw, detail0 := d.1, detail1 := d.2 }

/-- A slice stopped by a MISS or VIOLATION at F where it stands (R386, R387): its record kept and written, its gang taken out or
its team frozen. What its instruction waits for beside stays awaited (R388). Of a team that has ended, the records alone are posted
(R386), and its stores wait for the answer (R137). -/
def stopNamed (s : State) (a : Access) (f : PathFault) : State :=
  match namedSlice s a.who with
  | none =>
    reportRefusal { s with late := s.late.map fun x => if x.who = a.who then { x with opened := false } else x } a f (.slice a.who)
  | some (tm, sl) =>
    let w := a.who
    let next := nextPc sl.pc (lengthAt s w.launch w.strand.isNone sl.pc)
    let r := trapRecord s (nameId s w) tm sl (a.trap f next)
    let s := modNamedSlice s w fun sl =>
      { sl with record := some r, stall := none, await := sl.await.filter fun n => n != a.n, skip := false }
    let s := reportRefusal s a f (.slice w)
    let s := { s with waiting := s.waiting ++ [⟨.trap w.launch, r.words, .slice w, false⟩] }
    if f.cause.cls == .miss then stopGang s w.launch w.gang
    else modNamed s w.launch w.gang w.gteam fun tm => { tm with frozen := true }

/-- A refusal whose requester waits for nothing any more: its records alone (R386). -/
def reportAlone (s : State) (a : Access) (f : PathFault) : State :=
  match f.cause.cls with
  | .miss | .violation => reportRefusal s a f .nobody
  | .encoding | .program | .debug | .data | .event => s

/-- A refused load or atomic (R386, R388): its instruction, which waits for it, traps. -/
def refuseLoad (s : State) (a : Access) (f : PathFault) : State :=
  let waited := awaits s a
  let s := endFabric s a
  if !waited then reportAlone s a f
  else match f.cause.cls with
    | .miss | .violation => stopNamed s a f
    | .encoding | .program | .debug | .data | .event => trapNamed s a.who (a.trap f a.next)

/-- A load or atomic refused BLOCKED: its instruction stands as not issued (R387). -/
def dropLoad (s : State) (a : Access) : State :=
  let waited := awaits s a
  let s := endFabric s a
  if waited then modNamedSlice s a.who fun sl => { sl with await := none } else s

/-- Held stores with one more, in the order in which they were accepted; one that was sent again and refused again is held anew. -/
def holdIn (h : HeldStore) : List HeldStore → List HeldStore
  | [] => [h]
  | x :: xs =>
    if x.access = h.access then h :: xs
    else if h.access < x.access then h :: x :: xs
    else x :: holdIn h xs

/-- A slice with a store held (R387). -/
def Slice.hold (h : HeldStore) (sl : Slice) : Slice := { sl with held := holdIn h sl.held }

/-- A refused store or flag is held at its slice, or for it where its team has ended (R387, R137). -/
def holdStore (s : State) (a : Access) : State :=
  match namedSlice s a.who with
  | none =>
    let mine := lateOf s a.who
    let hs := holdIn a.heldStore (mine.map (·.store))
    let opened := mine.all (·.opened)
    { s with late := (s.late.filter fun x => x.who != a.who) ++ hs.map fun h => ⟨a.who, a.world, a.core, h, opened⟩ }
  | some _ => modNamedSlice s a.who (Slice.hold a.heldStore)

/-- The trap record of a store that ended with PEER_RESET (R389): its PC, offset and label word. -/
def resetRecord (s : State) (a : Access) (f : PathFault) : TrapRecord :=
  let t := a.trap f a.next
  { cause := f.cause.value, cls := f.cause.cls.value, pkg := BitVec.ofNat 13 s.regs.number, id := nameId s a.who
    nextPc := a.next, pc := a.pc, launch := BitVec.ofNat 32 a.who.launch, world := BitVec.ofNat 16 a.world, field := 0
    clock := s.clock, info0 := t.info0, info1 := t.info1, detail0 := t.detail0, detail1 := t.detail1 }

/-- A store or flag that ends with PEER_RESET (R389): counted as acknowledged, one record to the launch's trap queue, its slice, if it
is still there, as it was. -/
def resetStore (s : State) (a : Access) (f : PathFault) : State :=
  let s := quitResend (endFabric s a) a.n
  let s := { s with late := s.late.filter fun x => x.store.access != a.n }
  let s := modNamedSlice s a.who fun sl => { sl with held := sl.held.filter fun h => h.access != a.n }
  { s with waiting := s.waiting ++ [⟨.trap a.who.launch, (resetRecord s a f).words, .nobody, false⟩] }

/-- A refused queue-load element: it is poisoned when its turn comes (R199, R386, R389). -/
def refuseElem (s : State) (a : Access) (f : PathFault) : State :=
  let target := if a.target < 8192 && f.cause.cls != .data then some a.target else none
  modNamed (endFabric s a) a.who.launch a.who.gang a.who.gteam fun tm => tm.answerElem a.n fun e =>
    if a.lost then { e with state := .pending } else { e with state := .failed (f.poison target), used := a.used }

/-- A unit of a channel's command refused (R251, R386): the channel is taken out, frozen or ended; one that has been killed is no more
than reported. -/
def refuseChannel (s : State) (a : Access) (chan : Nat) (ch : Channel) (tm : Team) (u : Nat) (f : PathFault) : State :=
  let s := endFabric (channelLeaves s a.core chan) a
  let off := 512 * u
  let set (s : State) (x : EngineFault) : State := modChannel s a.core chan fun y => { y with fault := x }
  let m : Master := .channel a.who ch.order
  match ch.fault with
  | .killed _ _ => reportAlone s a f
  | .none | .missed _ _ | .frozen _ _ =>
    match f.cause.cls with
    | .miss => stopGang (reportRefusal (set s (.missed f.cause.value off)) a f m) tm.launch tm.gang
    | .violation => reportRefusal (set s (.frozen f.cause.value off)) a f m
    | .encoding | .program | .debug | .data | .event => set s (.killed f.cause.value off)

/-- A refused unit of a copy: its channel where it still stands with the command, else its records alone (R386). -/
def refuseUnit (s : State) (a : Access) (chan u : Nat) (f : PathFault) : State :=
  match Table.get (core s a.core).active.sluice chan with
  | none => reportAlone (endFabric s a) a f
  | some ch =>
    match teamAt s ⟨a.core, ch.slot⟩ with
    | none => reportAlone (endFabric s a) a f
    | some tm => if tm.name none != a.who then reportAlone (endFabric s a) a f else refuseChannel s a chan ch tm u f

/-- A refused read of an entry of a C table: a fault of the access whose walk needed it, with REASON 12 (R337, R454). -/
def refuseEntry (s : State) (a : Access) (r : EntryRead) (f : PathFault) : State :=
  let f := { f with reason := if f.cause.cls == .data then f.reason else 12, need := r.need }
  let a := { a with lw := r.lw, off := r.off, size := r.size }
  match r.by' with
  | .instr => refuseLoad s a f
  | .elems => refuseElem s a f
  | .unit _ u =>
    match readChannel s a.core a.who r with
    | none => reportAlone (endFabric s a) a f
    | some (chan, ch) =>
      match teamAt s ⟨a.core, ch.slot⟩ with
      | none => reportAlone (endFabric s a) a f
      | some tm => refuseChannel s a chan ch tm u f

/-- AN ACCESS REFUSED AT ITS TARGET, by its kind (R386, R387, R389). -/
def refuseAccess (s : State) (a : Access) (f : PathFault) : State :=
  match a.kind with
  | .queued => refuseElem s a f
  | .load | .element _ | .atomic _ _ _ | .refetch _ _ _ | .wait _ | .record _ => refuseLoad s a f
  | .entry r => refuseEntry s a r f
  | .store | .flag _ | .message _ _ =>
    match f.cause.cls with
    | .miss | .violation => stopNamed (holdStore s a) a f
    | .encoding | .program | .debug | .data | .event => retryHeld (resetStore s a f) a.who
  | .copyRead chan u | .copyWrite chan u => refuseUnit s a chan u f

/-- A queue load's element whose access stands as not issued. -/
def dropElem (s : State) (a : Access) : State :=
  modNamed (endFabric s a) a.who.launch a.who.gang a.who.gteam fun tm => tm.answerElem a.n fun e => { e with state := .pending }

/-- A refusal BLOCKED (R387). -/
def blockAccess (s : State) (a : Access) : State :=
  match a.kind with
  | .queued => dropElem s a
  | .load | .element _ | .atomic _ _ _ | .refetch _ _ _ | .wait _ | .record _ => dropLoad s a
  | .entry r =>
    match r.by' with
    | .instr => dropLoad s a
    | .elems => dropElem s a
    | .unit _ _ => endFabric s a
  | .store | .flag _ | .message _ _ => retryHeld (holdStore s a) a.who
  | .copyRead _ _ | .copyWrite _ _ => endFabric s a

/-- The notice of a message that the target's distributor refused (R413): LABEL holds the handler's number. -/
def noHandlerNotice (s : State) (a : Access) (reason : Byte) (handler : Nat) : State :=
  let f := { a.fault Cause.labelMiss.value reason 3 with label := BitVec.ofNat 16 handler }
  if field (guestDesc s a.world).d1 63 48 = 0 then
    { s with regs := { s.regs with noticeLost := s.regs.noticeLost + 1 } }
  else
    let ws := faultWords s (a.requester s) f 1 true
    let ws := ws.set 2 (listGetD ws 2 0 ||| BitVec.ofNat 64 (handler % 65536 * 2 ^ 32))
    { s with waiting := s.waiting ++ [⟨.guest a.world, ws, .nobody, false⟩] }

/-- A message refused by the target's distributor (R413): ended as acknowledged. -/
def noHandler (s : State) (a : Access) (reason : Byte) (handler : Nat) : State :=
  match a.kind with
  | .message _ _ => noHandlerNotice (endFabric s a) a reason handler
  | _ => s

/-- The faults that a refusal can bring back, by cause and REASON: those of station F (R385, R340), and those of a scale-out window's
remote side (R397); every other REASON is reserved (R454). -/
def faultSeen (a : Access) (cause reason : Byte) (level : BitVec 2) : Bool :=
  let r := reason.toNat
  level == 3 &&
  match causeOf cause with
  | .peerReset => r == 0
  | .labelMiss => if 8192 ≤ a.target then r == 13 else r == 1 || r == 2
  | .labelDenied => if 8192 ≤ a.target then r == 14 else [4, 6, 7, 8, 11, 12, 21].contains r
  | .offsetRange => decide (a.target < 8192) && r == 9
  | .wrongWorld => decide (a.target < 8192) && r == 10
  | _ => false

/-- REFUSAL (R386, R387, R389, R397, R413): what a target refused comes back to the source. No target refuses with a reserved REASON
(R454). -/
def execRefusal (n : Nat) (r : RefusalInfo) (s : State) : Host.Outcome State Fault Refusal :=
  .next <|
    match accessOf s n with
    | none => s
    | some a =>
      if !a.sent then s
      else match r with
        | .fault cause reason level seen =>
          if faultSeen a cause reason level then refuseAccess s a (a.faultAtF cause reason level seen) else s
        | .blocked => blockAccess s a
        | .noHandler reason handler => if 15 ≤ reason.toNat ∧ reason.toNat ≤ 17 then noHandler s a reason handler else s
        | .resend => modAccess s n fun a => { a with asked := true }

/-- A resume marker has been taken: the sequence that waited for it goes on (R381). -/
def dropMarker (s : State) (n : Nat) : State :=
  if s.markers.any fun m => m.access == n then serveAll { s with markers := s.markers.filter fun m => m.access != n } else s

/-- ACKNOWLEDGEMENT (R388, R396, R411): a packet of a store, flag or message, or of a unit, has been acknowledged. A unit that no channel
waits for ends so; another lands (R251). A resume marker through a scale-out window is acknowledged so too. -/
def execAcknowledgement (p : PartName) (s : State) : Host.Outcome State Fault Refusal :=
  .next <|
    match accessOf s p.access with
    | none => dropMarker s p.access
    | some a =>
      if !a.sends.any fun x => x.part == p.part then s
      else match a.kind with
        | .store | .flag _ | .message _ _ => retryHeld (endFabric s a) a.who
        | .copyRead chan _ | .copyWrite chan _ =>
          if chan = 32 then endFabric s a
          else serveAll <|
            modAccess s p.access fun a => { a with sends := a.sends.map fun x => if x.part = p.part then { x with acked := true } else x }
        | .load | .element _ | .atomic _ _ _ | .refetch _ _ _ | .wait _ | .record _ | .entry _ | .queued => s

/-- GRANT (R406): a unit comes back to its entry, of an access that may still be in flight, or of a resume marker, which it tells to have
been taken. -/
def execGrant (c entry n : Nat) (s : State) : Host.Outcome State Fault Refusal :=
  .next <| grantUnit (modAccess (dropMarker s n) n fun a =>
    if a.allowance = entry ∧ a.payCore = c ∧ a.granted < a.parts then { a with granted := a.granted + 1 } else a) c entry

/-! ### Incarnations at the source (R389) -/

/-- The units of an access that have not come back return to their entry (R406). -/
def returnUnits (s : State) (a : Access) : State :=
  if a.allowance < 32 then (List.range (a.parts - a.granted)).foldl (fun s _ => grantUnit s a.payCore a.allowance) s else s

/-- An access ends with PEER_RESET (R389). -/
def peerReset (s : State) (a : Access) : State := refuseAccess (returnUnits s a) a (a.fault Cause.peerReset.value 0 3)

/-! ### Links (R390, R391) -/

/-- A link at reset (R393). -/
def LinkStatus.idle : LinkStatus := ⟨false, false, false, false, 0, 0, 0⟩

/-- The key of a plane's link in a direction. -/
def linkKey (plane : Nat) (recv : Bool) : Nat := plane + bitAt recv 4

/-- A link's status. -/
def linkAt (s : State) (n : Nat) : LinkStatus := Table.getD s.links n LinkStatus.idle

/-- The state with a link's status changed. -/
def modLink (s : State) (n : Nat) (f : LinkStatus → LinkStatus) : State := { s with links := Table.put s.links n (f (linkAt s n)) }

/-- FLIT_AUTH_FAILURE (R390): a received flit is discarded and resent; repeated failures retrain the link. -/
def execFlitAuthFailure (plane : Nat) (retrain : Bool) (s : State) : Host.Outcome State Fault Refusal :=
  .next <|
    if 16 ≤ plane then s
    else
      let s := modLink s (linkKey plane true) fun l =>
        { l with authFail := if l.authFail = 0xFFFFFFFF then l.authFail else l.authFail + 1 }
      if retrain then
        { s with saltin := { s.saltin with
            retrain := Table.put s.saltin.retrain plane (min (2 ^ 64 - 1) (Table.getD s.saltin.retrain plane 0 + 1)) } }
      else s

/-- A link switched to its next key (R390). -/
def LinkStatus.switch (l : LinkStatus) : LinkStatus := { l with nextKey := false, epoch := l.epoch + 1, ctr := 0, exh := false }

/-- The event record of a link without a key (R391). -/
def exhaustedRecord (s : State) (plane : Nat) (recv : Bool) : List DWord :=
  [BitVec.ofNat 64 (Cause.linkKeyExhausted.value.toNat * 2 ^ 56 + 6 * 2 ^ 52 + 3 * 2 ^ 50), BitVec.ofNat 64 (2 ^ 63), 0,
   BitVec.ofNat 64 (plane % 16 + bitAt recv 4), 0, 0, s.clock, 0]

/-- The last counter value that a link may use under a key (R391). -/
def lastFlit : Nat := 2 ^ 64 - 2

/-- A link that holds a next key and has come to its boundary switches to it before its next flit (R390; log 22). -/
def LinkStatus.boundary (n : Nat) (l : LinkStatus) : LinkStatus :=
  if l.nextKey && decide (Config.keyBoundary n l.epoch.toNat ≤ l.ctr.toNat) then l.switch else l

/-- Flits leave on a link: each takes the next counter value (R390), past the last one under the next key. -/
def LinkStatus.send (n flits : Nat) (l : LinkStatus) : LinkStatus :=
  let l := l.boundary n
  let c := l.ctr.toNat + flits
  if c ≤ lastFlit then { l with ctr := BitVec.ofNat 64 c }
  else if l.nextKey then { l.switch with ctr := BitVec.ofNat 64 (c - lastFlit) }
  else { l with ctr := BitVec.ofNat 64 lastFlit }

/-- A plane takes packets (R380, R391, R392): up, not drained, and not at the end of its last key. -/
def sprays (s : State) (plane : Nat) : Bool :=
  let l := linkAt s (linkKey plane false)
  l.up && !l.drained && !l.exh && (l.nextKey || decide (l.ctr.toNat < lastFlit))

/-- The flits of a packet (R380): a header, and its payload by 64 bytes; an atomic's operands are one (log 22). -/
def packetFlits (p : Packet) : Nat :=
  match p.kind with
  | .atomic _ _ _ => 2
  | _ => 1 + (p.payload.length + 63) / 64

/-- The die from which a packet leaves (R380): its requester's, or for what a target sends an open one. -/
def packetDie (s : State) (p : Packet) (n : Nat) : Nat :=
  match p.kind with
  | .load | .element | .store | .atomic _ _ _ | .flag _ | .copyRead | .copyWrite | .message _ _ | .marker _ _ | .record _ =>
    dieOf (coreOfName s p.slice) % 4
  | .reply | .ack | .refused _ | .ownerAck _ | .grant => Config.answerDie n % 4

/-- A packet's flits leave on the next plane of its die in turn (R380); with no plane up they wait, and take their counter values when one
takes packets again (R390). -/
def sprayPacket (s : State) (p : Packet) (n : Nat) : State :=
  let d := packetDie s p n
  match ((List.range 16).map fun i => ((die s d).spray + i) % 16).find? (sprays s) with
  | none => { s with unsprayed := s.unsprayed ++ [p] }
  | some plane =>
    modLink (modDie s d fun k => { k with spray := (plane + 1) % 16 }) (linkKey plane false)
      (LinkStatus.send (linkKey plane false) (packetFlits p))

/-- The packets that wait for a plane, and then those that have left since `n` of them had: each takes its plane (R380, R390). -/
def sprayFrom (n : Nat) (s : State) : State :=
  let ps := s.unsprayed ++ s.outbox.drop n
  (ps.zip (List.range ps.length)).foldl (fun s x => sprayPacket s x.1 (n + x.2)) { s with unsprayed := [] }

/-- LINK_KEY_EXHAUSTED (R391): a link's counter has reached 2^64 - 2, in the sending direction as this package counts it, in the
receiving one as the other end does; it switches to its next key, or stops and posts its record. -/
def execLinkKeyExhausted (plane : Nat) (recv : Bool) (s : State) : Host.Outcome State Fault Refusal :=
  let n := linkKey plane recv
  .next <|
    if 16 ≤ plane ∨ (linkAt s n).exh ∨ (!recv ∧ (linkAt s n).ctr.toNat < lastFlit) then s
    else if (linkAt s n).nextKey then modLink s n LinkStatus.switch
    else
      let s := modLink s n fun l => { l with exh := true, ctr := BitVec.ofNat 64 lastFlit }
      { s with waiting := s.waiting ++ [⟨.owner, exhaustedRecord s plane recv, .nobody, false⟩] }

/-! ### Scale-out windows (R396, R397) -/

/-- The descriptor of the window that an access goes through; none while its memory does not answer (R304, R451). -/
def windowOf (s : State) (a : Access) : Option (List DWord) :=
  match a.place with
  | .window port n _ => if (windowHold s port n).isSome then none else windowDesc s port n
  | .main _ _ _ | .scratch _ _ | .host _ | .weight _ _ | .fabric _ _ _ _ => none

/-- A packet of an access that has been sent (R396). -/
def Access.send (a : Access) (part : Nat) : Option PartSend := a.sends.find? fun x => x.part == part

/-- A packet sent again, alone, under its own number (R396). -/
def resendPart (s : State) (a : Access) (x : PartSend) : State :=
  modAccess { s with outbox := s.outbox ++ (packetOf s a x.part x.seq).toList } a.n fun a =>
    a.note { x with resends := x.resends + 1, sentAt := s.wall }

/-- A number of nanoseconds has passed since a time: 21 nominal ac cycles are 20 ns (R1). -/
def nsPassed (s : State) (t ns : Nat) : Bool := decide (21 * ns ≤ 20 * (s.wall - t))

/-- SCALE_OUT_RESEND (R396, R397): RESENDNS has passed since a packet left that has not been acknowledged; it is sent again, or after
RETRIES resends the access ends: with LABEL_MISS where the window asked for the resends, with PEER_RESET where nothing came
back. -/
def execScaleOutResend (p : PartName) (s : State) : Host.Outcome State Fault Refusal :=
  .next <|
    match accessOf s p.access with
    | none => s
    | some a =>
      match windowOf s a, a.send p.part with
      | some ds, some x =>
        if x.acked || !nsPassed s x.sentAt (field (listGetD ds 2 0) 31 0) then s
        else if x.resends < field (listGetD ds 2 0) 63 48 then resendPart s a x
        else if a.asked then refuseAccess s a (a.fault Cause.labelMiss.value 13 3)
        else peerReset s a
      | _, _ => s

/-- HOLD_EXPIRY (R397): the remote has held an access for HOLDMS since its packet first left, through a paged window with HOLD. -/
def execHoldExpiry (n : Nat) (s : State) : Host.Outcome State Fault Refusal :=
  .next <|
    match accessOf s n with
    | none => s
    | some a =>
      match windowOf s a with
      | none => s
      | some ds =>
        if (listGetD ds 0 0).getLsbD 62 && (listGetD ds 0 0).getLsbD 61 &&
            a.sends.any fun x => !x.acked && nsPassed s x.first (1000000 * field (listGetD ds 2 0) 47 32) then
          refuseAccess s a (a.fault Cause.labelMiss.value 13 3)
        else s

/-! ### Active messages at the target (R327, R412, R413) -/

/-- Why no handler can be made of a message now: it is refused with a REASON (R413), or a read does not answer (R301, R304, R451). -/
inductive NoHandler where
  | refused (reason : Byte)
  | waits
  deriving DecidableEq, Repr

/-- A read through a label word of a handler's table or template; `reason` where it meets a trap. -/
def handlerRead (s : State) (world : Nat) (lw : DWord) (off size : Nat) (reason : Byte) : Except NoHandler (List Byte) :=
  if recordHeld s 0 world lw (BitVec.ofNat 64 off) size permR then .error .waits
  else match recordRead s 0 world lw off size permR with
    | none => .error (.refused reason)
    | some bs => .ok bs

/-- A handler's template: its doublewords, its priority (R327). -/
def handlerTemplate (s : State) (world h : Nat) : Except NoHandler (List DWord × Nat) :=
  match Table.get s.regs.handlers world with
  | none => .error (.refused 17)
  | some (lw, off) => do
    if lw = 0 then throw (.refused 17)
    let bs ← handlerRead s world lw (field off 47 0 + 16 * h) 16 17
    let e := entryOf (dwordsOfBytes 2 bs)
    if e.d0 = 0 then throw (.refused 15)
    let ws ← handlerRead s world e.d0 (field e.d1 47 0) 256 16
    .ok (dwordsOfBytes 32 ws, field e.d1 50 48)

/-- A template's team takes a message's pushes (R327). -/
def takesMessage (d : TeamDecl) : Bool :=
  let q (n : Nat) : QueueDecl := listGetD d.queues n ⟨.undeclared, .first, false, 0⟩
  (q 0).kind == .uniform && decide (64 ≤ (q 0).depth) && (q 1).kind == .uniform && decide (1 ≤ (q 1).depth)

/-- A handler's launch made from its template, which the checks of R310 pass, or why not (R327, R413). -/
def handlerLaunch (s : State) (p : Packet) (h : Nat) : Except NoHandler Launch := do
  let (ws, prio) ← handlerTemplate s p.world h
  let id := nextLaunch s
  if recordWaits s id.toNat p.world ws then throw .waits
  match checkRecord s id.toNat p.world ws true with
  | .error _ => .error (.refused 16)
  | .ok (ds, code) =>
    if recGangs ws = 1 ∧ recWidth ws = 1 ∧ ds.all takesMessage then
      .ok {
        id := id.toNat, queue := none, number := 0, recordPa := 0, world := p.world
        level := (wkey s p.world).extractLsb' 24 2, words := ws, code := code, decls := ds, prio := prio, placed := 0
        eligibleSince := none, eligibleFor := 0, aged := false, passes := 0, loaderWait := none, loaderOver := false
        cancelled := false, done := false, ts := none, seen := none }
    else .error (.refused 16)

/-- The words that a message pushes into q0, the last zero-padded (R327). -/
def messageWords (p : Packet) : List Word := wordsOf ((p.size + 3) / 4) (fitBytes (4 * ((p.size + 3) / 4)) (p.payload.take p.size))

/-- The word that it pushes into q1: the source package and the byte count (R327). -/
def messageHead (p : Packet) : Word := BitVec.ofNat 32 (p.source % 65536 * 65536 + p.size % 512)

/-- A handler's team with its message pushed. -/
def Team.withMessage (tm : Team) (p : Packet) (ts : Word) : Team :=
  ((messageWords p).foldl (fun tm w => tm.addForward 0 (uniformEntry w ts 0)) tm).addForward 1 (uniformEntry (messageHead p) ts 0)

/-- The first message leaves the buffers. -/
def popMessage (s : State) : State := { s with messages := s.messages.drop 1, loaderHandler := none }

/-- A handler's team created at a place (R327, R412): its launch begun, its message pushed, its core's ct at fl at least; a loader's dies
are in LOAD (R303, R316). -/
def createHandler (s : State) (p : Packet) (l : Launch) (t : TeamId) (frame : Nat) : State :=
  let g : Gang := ⟨l.id, 0, frame, l.prio, [t], .resident, [], [], 0, none, none⟩
  let s := loadDies s l
  let s := { s with
    launchCount := BitVec.ofNat 32 (l.id + 1), launches := s.launches ++ [{ l with placed := 1 }], gangs := s.gangs ++ [g] }
  let s := mergeCt (installTeam s l g 0 t) t.core s.fl
  answer (popMessage (modTeam s t fun tm => tm.withMessage p s.fl)) p .ack []

/-- The oldest message's handler waits for its dies as a loader: since when is kept (R316). -/
def waitAsLoader (s : State) (l : Launch) : State :=
  { s with loaderHandler := some (diesOf l, (s.loaderHandler.map (·.2)).getD s.wall) }

/-- HANDLER_CREATE (R412): the oldest message that has passed F has its handler team created, or is refused; it waits where a record
that has been passed 256 times holds it back (R315), where its template loads dies that are not clear (R316), where the team fits
nowhere, and while its world runs nothing or its template's waits have not been reached. -/
def execHandlerCreate (s : State) : Host.Outcome State Fault Refusal :=
  .next <|
    match s.messages with
    | [] => s
    | p :: _ =>
      match p.kind with
      | .message h _ =>
        match handlerLaunch s p h with
        | .error .waits => s
        | .error (.refused r) => refusePacket (popMessage s) p (.noHandler r h)
        | .ok l =>
          if !worldRuns s l.world || !eligible s l || passedOver s l.prio l.id false then s
          else if loaderWaits s l then waitAsLoader s l
          else match frameFor s l, bestFit { s with loaderHandler := none } l true l.decls with
            | some frame, some [t] => countPasses s (createHandler s p l t frame) l.id
            | _, _ => s
      | _ => popMessage s

end Sys2Proof.Machine
end

