-- ==== Sys2Proof/Machine/Samples.lean ====
section
/-! DEFINITION. What the debug slots record (spec/06 R107, R108, spec/27 R443, R444): the sample ring, stall samples, and the trace records
and EXITED samples of a step, read from the slices of the attached launch before and after it. -/

namespace Sys2Proof.Machine

/-! ### The sample ring (R444) -/

/-- The state with a debug slot changed. -/
def modDebug (s : State) (n : Nat) (f : DebugSlot → DebugSlot) : State := { s with debugSlots := Table.put s.debugSlots n (f (debugSlot s n)) }

/-- One more record dropped (R438 LOST). -/
def loseSample (s : State) (n : Nat) : State :=
  modDebug s n fun b =>
    let d6 := listGetD b.d 6 0
    { b with d := b.d.set 6 (BitVec.ofNat 64 (min (2 ^ 32 - 1) (field d6 63 32 + 1) * 2 ^ 32 + field d6 31 0)) }

/-- A record of at most 31 bytes and its kind written into a slot's sample ring, or dropped (R444). -/
def emit (s : State) (n : Nat) (ws : List DWord) (kind : Byte) : State :=
  let b := debugSlot s n
  let w (i : Nat) : DWord := listGetD b.d i 0
  let len := field (w 5) 63 48
  let pos := if len ≤ b.samplePos then 0 else b.samplePos
  if len = 0 then loseSample s n
  else match recordPath s 0 (field (w 0) 47 32) (w 4) (field (w 5) 47 0 + 32 * pos) 32 permW with
    | .error _ => loseSample s n
    | .ok p =>
      match if (destHold s p.dest 32).isSome then none else readDest s p.dest 32 with
      | none => loseSample s n
      | some old =>
        if listGetD old 31 0 ≠ 0 then loseSample s n
        else modDebug (writeDest s p.dest (fitBytes 31 (bytesOfDWords ws) ++ [kind])) n fun b =>
          { b with samplePos := (pos + 1) % len }

/-- A slot is bound to a launch, and to which (R438). -/
def DebugSlot.launch (b : DebugSlot) : Option Nat :=
  if field (listGetD b.d 0 0) 63 62 = 3 then some (field (listGetD b.d 1 0) 63 32) else none

/-- SINT. -/
def DebugSlot.sint (b : DebugSlot) : Nat := field (listGetD b.d 1 0) 31 28

/-- TMASK has an event's bit. -/
def DebugSlot.traces (b : DebugSlot) (event : Nat) : Bool := (field (listGetD b.d 1 0) 8 0).testBit event

/-- A trace record (R108). -/
def traceRecord (s : State) (id : SliceId) (event : Nat) (pc arg : Word) : List DWord :=
  [BitVec.ofNat 64 (event * 2 ^ 56 + identityBits s.regs.number id), pairOf pc arg, s.clock]

/-! ### Samples (R107, R443) -/

/-- The class value of a wait (R107). -/
def ParkClass.value : ParkClass → Nat
  | .depend => 2 | .queueEmpty => 4 | .queueFull => 5 | .backq => 6 | .tile => 7 | .barrier => 8 | .allowance => 9
  | .address => 10 | .join => 11 | .memory => 12

/-- The class of a slice's sample (R107); a slice of a gang that is stopped for its swap-out shows MEMORY (R320). -/
def sampleClass (s : State) (tm : Team) (sl : Slice) : Nat :=
  if tm.frozen then 14
  else match sl.run with
    | .trapped => 13
    | .exited => 15
    | run =>
      if !gangRuns s tm.launch tm.gang then 12
      else match run, sl.stall with
        | .parked w, _ => w.cls.value
        | _, some c => c.value
        | _, none => if sl.await.isSome then 12 else 0

/-- The compute strand's push that a wait on a back queue blames (R195): the first contribution to the awaited entry, the first incomplete
one that the instruction pops, or the push that completed the queue's entry before it. -/
def blamedPush (tm : Team) (sl : Slice) : Option Word :=
  let pops := (sl.backq.zip (List.range sl.backq.length)).map fun p => (p.1, (sl.backq.take p.2).count p.1)
  (pops.find? fun p => !tm.backComplete p.1 p.2).bind fun p =>
    match (tm.bqueue p.1).entries[p.2]? with
    | some e => if e.ts.isSome then some e.pc else (tm.bqueue p.1).lastPc
    | none => (tm.bqueue p.1).lastPc

/-- The address slice's push or load of the forward element that a slice waits for (R210). -/
def blamedElem (tm : Team) (sl : Slice) : Option Word :=
  match sl.run with
  | .parked (.elem q pos _) =>
    let f := tm.fqueue q
    if f.base ≤ pos then (f.entries[pos - f.base]?).map FEntry.pc else none
  | .parked _ | .runnable | .trapped | .exited => none

/-- What a wait of a class names as the producing instruction, and BSLICE: it stands in the other slice (R107, R195, R210). -/
def blamed (tm : Team) (strand : Bool) (sl : Slice) (cls : Nat) : Option Word × Bool :=
  match cls with
  | 2 => (sl.blame, false)
  | 4 => (blamedElem tm sl, (blamedElem tm sl).isSome)
  | 6 => (blamedPush tm sl, true)
  | 7 => (sl.blame, strand)
  | _ => (none, false)

/-- A stall sample (R107). -/
def sampleWords (s : State) (id : SliceId) (tm : Team) (sl : Slice) (cls : Nat) : List DWord :=
  let b := blamed tm id.strand.isSome sl cls
  [BitVec.ofNat 64 (cls * 2 ^ 56 + identityBits s.regs.number id + bitAt b.1.isSome 10 + bitAt b.2 9), pairOf sl.pc (b.1.getD 0)]

/-- The live slices of a launch on a core, by team slot, then address slice, then strand index, each with its place in that order. -/
def sampled (s : State) (launch c : Nat) : List (Nat × SliceId × Team × Slice) :=
  (core s c).active.teams.flatMap fun t =>
    if t.2.launch = launch then
      (t.2.members.filter fun m => m.2.live).map fun m =>
        (1025 * t.1 + (m.1.map fun i => i + 1).getD 0, ⟨c, t.1, m.1⟩, t.2, m.2)
    else []

/-! ### Trace records of a step (R108, R443) -/

/-- A trace event of R108 with the PC and ARG of its record. -/
structure TraceEvent where
  event : Nat
  pc : Word
  arg : Word
  deriving DecidableEq, Repr

/-- The slices of a team, with the place where it stands or stood last. -/
def Team.placed (tm : Team) (c slot : Nat) : List (SliceId × SliceName × Slice) :=
  tm.members.map fun m => (⟨c, slot, m.1⟩, tm.name m.1, m.2)

/-- The slices of a launch, by place, wherever their teams stand: in a bank of a core, or saved. -/
def launchSlices (s : State) (launch : Nat) : List (SliceId × SliceName × Slice) :=
  (s.cores.flatMap fun c => (c.2.active :: (c.2.shadow.toList ++ c.2.outgoing.toList)).flatMap fun b => b.teams.flatMap fun t =>
    if t.2.launch = launch then t.2.placed c.1 t.1 else []) ++
  (s.gangs.filter fun g => g.launch == launch).flatMap fun g => g.saved.flatMap fun v =>
    let p := listGetD g.place v.team.gteam ⟨0, 0⟩
    v.team.placed p.core p.slot

/-- What a slice issued by a turn: the slice that moved, if it could, unless it stalls or parks for an allowance, which issues nothing
(R404). -/
def issueEvents (actor : Option Actor) (s : State) (id : SliceId) (before after : Slice) : List TraceEvent :=
  match actor with
  | some (.slice x) =>
    if x = id ∧ canIssue s id = true ∧ after.stall = none ∧ after.run ≠ .parked .allowance then [⟨0, before.pc, 0⟩] else []
  | some (.event _) | none => []

/-- A turn retired a slice, rather than that it ended (R98). -/
def retires (actor : Option Actor) : Bool :=
  match actor with
  | some (.event (.rcmdRetire _ _ _ _)) | some (.event (.dcmdRetire _ _ _ _)) => true
  | _ => false

/-- A trap record made by a turn. -/
def newRecord (before after : Slice) : Option TrapRecord :=
  if after.record ≠ before.record ∨ (after.run = .trapped ∧ before.run ≠ .trapped) then after.record else none

/-- The change of a slice's run state (R108); a PARKED slice whose instruction completes into STEP has woken first. -/
def runEvents (actor : Option Actor) (before after : Slice) : List TraceEvent :=
  match newRecord before after with
  | some r =>
    if r.cause = Cause.step.value then (if before.run = .runnable then [] else [⟨4, before.pc, 0⟩]) ++ [⟨2, r.pc, 0⟩]
    else [⟨1, r.pc, r.cause.setWidth 32⟩]
  | none =>
    match before.run, after.run with
    | .runnable, .parked w => [⟨3, after.pc, BitVec.ofNat 32 w.cls.value⟩]
    | .parked _, .runnable => [⟨4, before.pc, 0⟩]
    | .trapped, .runnable => [⟨6, before.pc, after.pc⟩]
    | .trapped, .exited => [⟨if retires actor then 7 else 5, after.pc, 0⟩]
    | .runnable, .exited | .parked _, .exited => [⟨5, after.pc, 0⟩]
    | _, _ => []

/-- The events of a slice in a turn, in order. -/
def sliceEvents (actor : Option Actor) (s : State) (id : SliceId) (before after : Slice) : List TraceEvent :=
  issueEvents actor s id before after ++ runEvents actor before after

/-- An EXITED sample (R107). -/
def exitSample (s : State) (id : SliceId) (sl : Slice) : List DWord :=
  [BitVec.ofNat 64 (15 * 2 ^ 56 + identityBits s.regs.number id), pairOf sl.pc 0]

/-- The records of one slice of an attached launch (R443). -/
def observeSlice (actor : Option Actor) (was : State) (n : Nat) (id : SliceId) (before after : Slice) (s : State) : State :=
  let b := debugSlot s n
  let s := (sliceEvents actor was id before after).foldl (fun s e =>
    if b.traces e.event then emit s n (traceRecord s id e.event e.pc e.arg) 2 else s) s
  if after.run = .exited ∧ before.run ≠ .exited ∧ b.sint < 15 then emit s n (exitSample s id after) 1 else s

/-- A slice as a step leaves it: one that is gone with its team has exited (R98). -/
def sliceAfter (after : State) (w : SliceName) (sl : Slice) : Slice :=
  match namedSlice after w with
  | none => { sl with run := .exited }
  | some (_, sl) => sl

/-- The records of one debug slot of the step from a state to another, in a state in which they can still be written. -/
def observeSlot (actor : Option Actor) (before after : State) (n launch : Nat) (s : State) : State :=
  (launchSlices before launch).foldl (fun s x => observeSlice actor before n x.1 x.2.2 (sliceAfter after x.2.1 x.2.2) s) s

/-- What the debug slots record of a step, by an actor where one moved. -/
def observeSlots (actor : Option Actor) (before after s : State) : State :=
  s.debugSlots.foldl (fun s p =>
    match p.2.launch with
    | none => s
    | some launch => observeSlot actor before after p.1 launch s) s

/-- The records of slices that the package ends with everything of their launches (R434, R98). -/
def observeEnds (s : State) : State := observeSlots none s { s with cores := [], gangs := [] } s

end Sys2Proof.Machine
end

