-- ==== Sys2Proof/Machine/Saltin.lean ====
section
/-! DEFINITION. Saltin: its mailbox commands (spec/26 R428 to R430, R434 to R437, spec/27 R445, R446), the fabric manager's (spec/22
R394), recovery (R431 to R433) and scan mode (R436). An event whose condition does not hold leaves the state as it is. -/

namespace Sys2Proof.Machine

/-! ### The mailbox (R428) -/

/-- DONE, DENIED, KEYS_FULL, BAD_REQUEST, IN_USE, BAD_WRAP (R428). -/
inductive MailStatus where
  | done | denied | keysFull | badRequest | inUse | badWrap
  deriving DecidableEq, Repr

/-- The value of a status. -/
def MailStatus.value : MailStatus → Nat
  | .done => 0 | .denied => 1 | .keysFull => 2 | .badRequest => 3 | .inUse => 4 | .badWrap => 5

/-- A command's result written: BUSY clears, and the next command may run. -/
def finishMail (s : State) (fn : Nat) (st : MailStatus) (result : Nat) : State :=
  { s with
    mailboxes := Table.put s.mailboxes fn { mailbox s fn with sstat := statWord false st.value result }
    saltin := { s.saltin with pending := s.saltin.pending.drop 1 } }

/-- The number, of no unit, that BUSY holds while Saltin restarts into an updated image (R452). -/
def firmwareUnit : Nat := 80

/-- The command of a function with a code runs now: it is first in line, no scrub runs, and Saltin does not restart (R452). -/
def mailRuns (s : State) (fn code : Nat) : Bool :=
  s.saltin.pending.head? == some fn && field (mailbox s fn).scmd 63 56 == code && s.saltin.scrubbing.isNone &&
  s.service.busy != some firmwareUnit

/-- A command that needs OWNER. -/
def ownerMail (s : State) (fn code : Nat) (f : State → State) : State :=
  if !mailRuns s fn code then s else if fn ≠ 0 then finishMail s fn .denied 0 else f s

/-- Bytes of a mailbox's buffer. -/
def mailBytes (s : State) (fn off n : Nat) : List Byte := (List.range n).map fun i => Table.getD (mailbox s fn).buffer (off + i) 0

/-- A number in a mailbox's buffer, little-endian. -/
def mailNat (s : State) (fn off n : Nat) : Nat := natOfBytes (mailBytes s fn off n)

/-- Bytes written into a mailbox's buffer. -/
def putMail (s : State) (fn off : Nat) (bs : List Byte) : State :=
  { s with mailboxes := Table.put s.mailboxes fn (putBuffer (mailbox s fn) off bs) }

/-! ### Keys (R429, R430, R342) -/

/-- ASCII "OZ9K". -/
def magicK : List Byte := [0x4F, 0x5A, 0x39, 0x4B]

/-- The plaintext of a wrapped key blob of a kind; none where it does not unwrap (R430). -/
def unwrapBlob (blob : List Byte) (kind size : Nat) : Option (List Byte) :=
  if blob.take 4 = magicK ∧ natOfBytes ((blob.drop 4).take 2) = kind ∧ (blob.drop 8).take 8 = Config.serialNumber then
    (Config.oaepUnwrap (magicK ++ (blob.drop 4).take 12) ((blob.drop 16).take 512)).filter fun p => p.length == size
  else none

/-- The identity of a key pair that was loaded: its bytes as a number. -/
def loadedKey (pair : List Byte) : Nat := 2 * natOfBytes pair + 1

/-- The identity of the n-th key pair that Saltin's generator gave. -/
def drawnKey (n : Nat) : Nat := 2 * n + 2

/-- The bytes of a key pair by its identity. -/
def keyBytes (id : Nat) : List Byte := if id % 2 = 1 then bytesOfNat 64 (id / 2) else Config.generatedKey ((id - 2) / 2)

/-- Slot 0 takes a fresh owner key, and every other slot is FREE (R434 step 3, R449). -/
def drawOwnerKey (s : State) : State :=
  { s with keys := [(0, drawnKey s.saltin.keysDrawn)], saltin := { s.saltin with keysDrawn := s.saltin.keysDrawn + 1 } }

/-- KEYLOAD (R429): the pair takes the lowest FREE slot. -/
def execKeyload (fn : Nat) (s : State) : Host.Outcome State Fault Refusal :=
  .next <| ownerMail s fn 1 fun s =>
    match unwrapBlob (mailBytes s fn 0 528) 1 64 with
    | none => finishMail s fn .badWrap 0
    | some pair =>
      match Table.freeFrom s.keys 1023 1 with
      | none => finishMail s fn .keysFull 0
      | some n => finishMail { s with keys := Table.put s.keys n (loadedKey pair) } fn .done n

/-- KEYFREE (R429). -/
def execKeyfree (fn : Nat) (s : State) : Host.Outcome State Fault Refusal :=
  .next <| ownerMail s fn 2 fun s =>
    let n := mailNat s fn 0 2
    if n = 0 ∨ 1024 ≤ n then finishMail s fn .badRequest 0
    else if s.regs.wkey.any fun p => wfield p.2 9 0 == n then finishMail s fn .inUse 0
    else finishMail { s with keys := Table.del s.keys n } fn .done 0

/-! ### Wiping storage (R434 step 2, R436, R449) -/

/-- Cores whose every storage element is zero, their shared allowance entries at the capacity in force (R402). -/
def clearedCores (icred : Nat) (now : DWord) : Table Core :=
  if icred = 32 then [] else (List.range 384).map fun c => (c, { Core.idle.tickCt now with allow := [(31, Allowance.shared icred)] })

/-- The lines that the package's own caches hold, whose bytes may not have been written back (R293, R353). -/
def cachedLines (s : State) : List Nat :=
  (s.lines.map (·.1) ++ s.cacheSets.flatMap fun p => p.2.map CachedLine.line).eraseDups

/-- Main memory once the caches have been cleared without a write-back (R434, R436): a line that they held keeps what had been written
back, which is open (log 100). -/
def staleCached (s : State) : State :=
  let stale (l : Nat) : List Byte := (List.range 128).map fun i => Config.staleByte (128 * l + i) s.clock.toNat
  { s with mem := (cachedLines s).foldl (fun m l => Memory.writeBytes m (128 * l) (stale l)) s.mem }

/-- The storage that the wipes of R434 and R436 have in common: the cores' banks and caches, the home slices and their
timestamps, with the lines that these held. Accesses in flight end. -/
def wipeCores (s : State) : State :=
  let s := (staleCached s)
  { s with
    cores := clearedCores s.regs.icred s.clock, lines := [], mts := [], waiters := [], atomicWorlds := [], hl := 0, fl := 0
    cacheSets := [], monitors := [], pCopies := [], fCopies := [], inflight := [], pledges := [], markers := [], late := []
    tableReads := []
    dies := s.dies.map fun d => { d with copies := [] }
    regs := { s.regs with fabOut := 0 } }

/-- What stood in the launches and their queues is gone with the storage that held it. -/
def dropWork (s : State) : State :=
  { s with
    launches := [], gangs := [], queues := [], launchWaits := [], waiting := [], rings := [], posted := [], messages := []
    standing := [], heldPackets := [], blocked := [], ended := [], remoteFaults := [], sent := [], expected := []
    loaderHandler := none }

/-- The partition registers and counters written to zero (R434): MAX too, which a reset leaves at 16 (R354). -/
def zeroPartitions : Table Partition := (List.range 64).map fun p => (p, { Partition.idle with max := 0 })

/-- Every storage element of step 2 of R434 but main memory written to zero; the launch count begins again at 1 (R310). -/
def wipeStorage (s : State) : State :=
  let s := dropWork (wipeCores s)
  { s with
    dies := s.dies.map fun d => { d with weights := [], badBlocks := [], loader := none }
    counters := [], counterTs := [], partitions := zeroPartitions, launchCount := 1
    regs := { s.regs with qtBase := 0, cttBase := 0, ownerQ := ⟨0, 0⟩, guestQ := [], noticeLost := 0 } }

/-- A team ended by force: its launch completes with the scrub (R434). -/
def scrubTeams (b : Bank) : Nat := (b.teams.filter fun p => p.2.frozen).length

/-- A command is frozen by an error or violation. -/
def Channel.isFrozen (c : Channel) : Bool :=
  match c.fault with
  | .frozen _ _ => true
  | .none | .missed _ _ | .killed _ _ => false

/-- Channels of a bank that are frozen. -/
def frozenChannels (b : Bank) : Nat := (b.copyCmds.filter Channel.isFrozen).length

/-- The frozen masters of a saved team: itself, and its channels. -/
def SavedTeam.frozenMasters (v : SavedTeam) : Nat :=
  bitAt v.team.frozen 0 + (v.work.filter fun r =>
    match r with
    | .copy c _ => c.isFrozen
    | .array _ | .tempty _ => false).length

/-- The banks of a core. -/
def Core.banks (k : Core) : List Bank := k.active :: (k.shadow.toList ++ k.outgoing.toList)

/-- The frozen masters of the package (R434 step 1). -/
def frozenMasters (s : State) : Nat :=
  ((s.cores.flatMap fun p => p.2.banks).map fun b => scrubTeams b + frozenChannels b).sum +
  (s.gangs.map fun g => (g.saved.map SavedTeam.frozenMasters).sum).sum

/-- The label-station copies of the package. -/
def allCopies (s : State) : Nat :=
  (s.cores.map fun p => p.2.cCopies.length).sum + (s.dies.map fun d => d.copies.length).sum + s.pCopies.length + s.fCopies.length

/-- The records of a queue that are not current removed as by CANCEL (R332). -/
def removeWaiting (s : State) (q : Nat) : State := if (queueView s q).valid then (waitingRecords s q).foldl (fun s n => removeRecord s q n) s else s

/-- Every launch of every world cancelled, and completed with STATUS 2 (R434 step 1, R332). -/
def cancelAll (s : State) : State :=
  let s := (List.range 256).foldl removeWaiting s
  (s.launches.filter fun l => !l.done).foldl (fun s l => completeLaunch s { l with cancelled := true }) s

/-- SCRUB (R434): everything cancelled and killed, packets that wait here refused, the storage wiped, slot 0 keyed afresh. The
record comes with its completion. -/
def scrub (s : State) (fn : Nat) : State :=
  let flags : Byte := Table.getD (mailbox s fn).buffer 32 0
  let x : Scrub := ⟨fn, mailBytes s fn 0 32, flags, (s.keys.filter fun p => p.1 != 0).length, allCopies s, frozenMasters s⟩
  let s := cancelAll (observeEnds s)
  let s := (s.standing ++ s.heldPackets ++ s.messages).foldl (fun s p => refusePacket s p resetInfo) s
  let s := drawOwnerKey (wipeStorage s)
  let s := if flags.getLsbD 0 then { s with mem := [], sectorKeys := [] } else s
  { s with saltin := { s.saltin with
      scrubbing := some x, fmKey := none, fmFullKey := [], seq := 0, numbered := false } }

/-- SCRUB (R434). -/
def execScrub (fn : Nat) (s : State) : Host.Outcome State Fault Refusal := .next <| ownerMail s fn 3 fun s => scrub s fn

/-- ASCII "OZ9SCRUB". -/
def magicScrub : List Byte := [0x4F, 0x5A, 0x39, 0x53, 0x43, 0x52, 0x55, 0x42]

/-- The scrub record's bytes 0 to 255 (R435). -/
def scrubRecord (s : State) (x : Scrub) : List Byte :=
  let u (n : Nat) : List Byte := bytesOfNat 8 n
  magicScrub ++ x.nonce ++ u x.flags.toNat ++ bytesOfDWord s.clock ++ u s.saltin.powerCycles ++ u (384 * 2 * 786432) ++
  u (1536 * 262144) ++ u (4 * 402653184) ++ u (16384 * 2 ^ 20) ++ u (if x.flags.getLsbD 0 then s.memSize else 0) ++ u x.keys ++
  u x.copies ++ u x.masters ++ List.replicate 128 0

/-- A 64-bit counter that saturates, one higher. -/
def satUp (n : Nat) : Nat := min (2 ^ 64 - 1) (n + 1)

/-- SCRUB_COMPLETE (R435): the signed record, and STATUS DONE. -/
def execScrubComplete (s : State) : Host.Outcome State Fault Refusal :=
  .next <|
    match s.saltin.scrubbing with
    | none => s
    | some x =>
      let r := scrubRecord s x
      let s := putMail s x.fn 0 (r ++ fitBytes 512 (Config.identitySign r))
      finishMail { s with saltin := { s.saltin with scrubbing := none, scrubs := satUp s.saltin.scrubs } } x.fn .done 0

/-! ### Readback (R437, R445) -/

/-- Who may read an element: the owner, the guest of a world or of one of several too, or any. -/
inductive Reader where
  | owner
  | guest (world : Nat)
  | guests (worlds : List Nat)
  | any
  deriving DecidableEq, Repr

/-- A byte that a readback address reaches: its value, none where the spec gives its element no layout, and its readers. -/
structure ReadCell where
  value : Option Byte
  reader : Reader
  deriving DecidableEq, Repr

/-- A byte of doublewords. -/
def byteOfWords (ws : List DWord) (o : Nat) : Byte := (listGetD ws (o / 8) 0).extractLsb' (8 * (o % 8)) 8

/-- A team's decoupling counters (R196). -/
def Team.decoupling (tm : Team) : List DWord := [(tm.bqWait1 ++ tm.bqWait0), tm.bqCycles, tm.fullCycles, tm.emptyCycles]

/-- A byte of a team's context region (R214): its label registers, then its decoupling counters; the layout of the rest is open. -/
def contextCell (tm : Team) (o : Nat) : Option Byte :=
  let ws := tm.labels ++ tm.decoupling
  if o < 8 * ws.length then some (byteOfWords ws o) else none

/-- A byte of a team area (R214). -/
def areaByte (tm : Team) (o : Nat) : Option Byte :=
  let d := tm.decl
  let r1 := round512 (256 + 32 * (d.strands + 1))
  let r2 := r1 + round512 (4 * d.strands * d.wregs + 4 * d.kregs)
  let t := teamArea d - 512 * d.tiles.sum
  if r1 ≤ o ∧ o < r1 + 4 * d.strands * d.wregs then
    let x := o - r1
    (tm.strands[x / (4 * d.wregs)]?).map fun sl => byteOfWords (dwordsOfBytes 58 sl.regBytes) (x % (4 * d.wregs))
  else if r1 + 4 * d.strands * d.wregs ≤ o ∧ o < r1 + 4 * d.strands * d.wregs + 4 * d.kregs then
    some (byteOfWords (dwordsOfBytes 58 tm.addr.regBytes) (o - r1 - 4 * d.strands * d.wregs))
  else if r2 ≤ o ∧ o < t then none
  else if t ≤ o then some (Memory.read tm.scratch (o - t))
  else contextCell tm o

/-- A byte of a bank: of the team area that holds it, in team-slot order; past the areas what the core cache holds, in an open layout, or
zero where it holds nothing (R215, R219). -/
def bankByte (cached : Bool) : Table Team → Nat → ReadCell
  | [], _ => ⟨if cached then none else some 0, .owner⟩
  | (_, tm) :: rest, o =>
    if o < teamArea tm.decl then ⟨areaByte tm o, .guest tm.world⟩ else bankByte cached rest (o - teamArea tm.decl)

/-- SPACE 0x01: a byte of a core's active bank, or of its other bank, which is zero once cleared (R219). -/
def readBank (s : State) (c bank o : Nat) : Option ReadCell :=
  if 786432 ≤ o then none
  else
    let k := core s c
    let b := if bank = 0 then some k.active else k.shadow <|> k.outgoing
    some (match b with
      | none => ⟨some 0, .owner⟩
      | some b => bankByte (b.stackLines != [] || (bank == 0 && k.copies != [])) b.teams o)

/-- A barrier as R277 lays it out. -/
def Barrier.words (b : Barrier) : List DWord := [b.phase ++ BitVec.ofInt 32 b.arem, BitVec.ofInt 64 b.brem]

/-- A tile's bits (R241): MAP, CLAIM, and STATUS with ERROFF. -/
def Tile.words (x : Tile) : List DWord := [x.map, x.claim, BitVec.ofNat 64 (x.status.toNat * 2 ^ 32 + x.errOff.toNat)]

/-- The state of a queue element as a readback shows it (log 21). -/
def ElemState.code : ElemState → Byte
  | .pending => 0 | .sent _ => 1 | .arrived _ => 2 | .failed _ => 3 | .performed => 4 | .poisoned _ => 5

/-- The words of a team's context in SPACE 0x02 (log 21): its label words, decoupling counters, 16 barriers, 64 tiles, and of each queue
the entries made or popped and those it holds. -/
def Team.contextWords (tm : Team) : List DWord :=
  tm.labels ++ tm.decoupling ++ ((List.range 16).flatMap fun n => (listGetD tm.bars n ⟨0, 0, 0, none, none⟩).words) ++
  ((List.range 64).flatMap fun n => (listGetD tm.tiles n ⟨0, 0, 0, 0, []⟩).words) ++
  (tm.fqueues.flatMap fun q => [BitVec.ofNat 64 q.made, BitVec.ofNat 64 q.entries.length]) ++
  tm.bqueues.flatMap fun q => [BitVec.ofNat 64 q.popped, BitVec.ofNat 64 q.entries.length]

/-- The elements' states of a team's forward queues, in order. -/
def Team.elementCodes (tm : Team) : List Byte :=
  tm.fqueues.flatMap fun q => q.entries.flatMap fun e => e.elems.map fun x => x.state.code

/-- A byte of a team's context: its words, then the states of its queues' elements; zero past them. -/
def Team.contextByte (tm : Team) (o : Nat) : Byte :=
  let ws := tm.contextWords
  if o < 8 * ws.length then byteOfWords ws o else listGetD tm.elementCodes (o - 8 * ws.length) 0

/-- SPACE 0x02: the context of the team in slot i of a core's active bank, from OFFSET 0x10_0000 x i on (log 21); zero where the slot is
free. -/
def readContext (s : State) (c o : Nat) : Option ReadCell :=
  if 16 * 0x100000 ≤ o then none
  else match Table.get (core s c).active.teams (o / 0x100000) with
    | none => some ⟨some 0, .owner⟩
    | some tm => some ⟨some (tm.contextByte (o % 0x100000)), .guest tm.world⟩

/-- An allowance entry as a doubleword (R401). -/
def allowWord (k : Core) (e : Nat) : DWord :=
  let a := allowAt k e
  if e = 31 then
    BitVec.ofNat 64 (2 ^ 63 + 0x1FFF * 2 ^ 48 + k.world % 65536 * 2 ^ 32 + a.alw % 256 * 2 ^ 24 +
      min 255 a.waiters.length * 65536 + a.sent % 65536)
  else
    BitVec.ofNat 64 (bitAt a.bound 63 + a.pkg % 8192 * 2 ^ 48 + a.world % 65536 * 2 ^ 32 + a.alw % 256 * 2 ^ 24 +
      min 255 a.waiters.length * 65536 + a.sent % 65536)

/-- A byte of label-station copies, 16 bytes each; zero beyond those held. -/
def copyByte (cs : List EntryCopy) (reader : EntryCopy → Reader) (o : Nat) : ReadCell :=
  match cs[o / 16]? with
  | none => ⟨some 0, .owner⟩
  | some c => ⟨some (byteOfWords [c.d0, c.d1] (o % 16)), reader c⟩

/-- SPACE 0x05: the D copies of a die, and on die 0 from 0x8000 on the P copies and from 0x2_8000 on the F copies (log 21). -/
def readStations (s : State) (d o : Nat) : Option ReadCell :=
  if o < 0x8000 then some (copyByte (die s d).copies (fun c => .guest c.scope) o)
  else if d = 0 ∧ o < 0x28000 then some (copyByte s.pCopies (fun _ => .owner) (o - 0x8000))
  else if d = 0 ∧ o < 0x38000 then some (copyByte s.fCopies (fun _ => .owner) (o - 0x28000))
  else none

/-- The worlds whose windows of a die's weight store hold an offset (R298), among the worlds that may run. -/
def windowWorlds (s : State) (d wa : Nat) : Reader :=
  .guests ((s.regs.wkey.filter fun p =>
      match worldDesc s d p.1 with
      | none => false
      | some ds =>
        let w := weightWindow ds
        decide (65536 * w.1 ≤ wa ∧ wa < 65536 * (w.1 + w.2))).map (·.1))

/-- SPACE 0x06: what a home slice holds (R293, R295; log 21): the 128 bytes of each of its 2,048 places, then, eight bytes a place, wts and
rts, then, 64 bytes for each of 64 entries, the line and the set of cores of its waiter table; zero where it holds nothing. -/
def readSlice (s : State) (h o : Nat) : Option ReadCell :=
  let ls := (s.lines.filter fun p => homeSlice p.1 == h)
  if o < 0x40000 then
    some ⟨some (match ls[o / 128]? with
      | none => 0
      | some p => Memory.read s.mem (128 * p.1 + o % 128)), .owner⟩
  else if o < 0x44000 then
    some ⟨some (match ls[(o - 0x40000) / 8]? with
      | none => 0
      | some p => byteOfWords [p.2.rts ++ p.2.wts] (o % 8)), .owner⟩
  else if o < 0x45000 then
    some ⟨some (match (s.waiters.filter fun w => homeSlice w.1 == h)[(o - 0x44000) / 64]? with
      | none => 0
      | some w => listGetD (bytesOfNat 64 (w.1 + (w.2.map fun c => 2 ^ (64 + c)).sum)) (o % 64) 0), .owner⟩
  else none

/-- SPACE 0x09: eight bytes for each bank of a core, the teams that have been saved from it (R219; log 21), for the guest of the bank's
world too. -/
def readSpill (s : State) (c o : Nat) : Option ReadCell :=
  let k := core s c
  let reader (b : Option Bank) : Reader := match b.bind fun b => b.teams.head? with
    | none => .owner
    | some p => .guest p.2.world
  if o < 8 then some ⟨some 0, reader (some k.active)⟩
  else if o < 16 then some ⟨some (byteOfWords [BitVec.ofNat 64 k.spilled] (o % 8)), reader (k.shadow <|> k.outgoing)⟩
  else none

/-- SPACE 0x07: a byte of a bank of a die's weight store (R300). -/
def readWeights (s : State) (d bank o : Nat) : Option ReadCell :=
  if 32 ≤ bank ∨ 12582912 ≤ o then none
  else
    let wa := (o / 4096 * 32 + bank) * 4096 + o % 4096
    some ⟨some (Memory.read (die s d).weights wa), windowWorlds s d wa⟩

/-- A key slot's fingerprint (R437): eight bytes, zero for a FREE slot. -/
def fingerprint (s : State) (n : Nat) : List Byte :=
  match Table.get s.keys n with
  | none => List.replicate 8 0
  | some id => fitBytes 8 (Config.sha512 (bytesOfNat 2 n ++ keyBytes id))

/-- A byte of the lifetime records (R446). -/
def lifetimeByte (x : Saltin) (o : Nat) : Byte :=
  let u (n w k : Nat) : Byte := listGetD (bytesOfNat w n) k 0
  if o < 0x28 then u (listGetD [x.hours, x.powerCycles, x.droops, x.lockouts, x.scrubs] (o / 8) 0) 8 (o % 8)
  else if o < 0x40 then 0
  else if o < 0xC0 then u (Table.getD x.retrain ((o - 0x40) / 8) 0) 8 (o % 8)
  else if o < 0x1C0 then u (Table.getD x.temps ((o - 0xC0) / 8) 0) 8 (o % 8)
  else u (Table.getD x.corrected ((o - 0x1C0) / 4) 0) 4 (o % 4)

/-- What a readback address reaches (R445). -/
def readCell (s : State) (addr : Nat) : Option ReadCell :=
  let space := addr / 2 ^ 56
  let d := addr / 2 ^ 54 % 4
  let unit := addr / 2 ^ 45 % 512
  let o := addr % 2 ^ 45
  let c := 96 * d + unit
  match space with
  | 0x01 => if unit < 96 then readBank s c (o / 2 ^ 44) (o % 2 ^ 44) else none
  | 0x02 => if unit < 96 then readContext s c o else none
  | 0x03 =>
    if unit < 96 ∧ o < 256 then
      let w := allowWord (core s c) (o / 8)
      some ⟨some (byteOfWords [w] (o % 8)), .guest (field w 47 32)⟩
    else none
  | 0x04 => if unit < 96 ∧ o < 4096 then some (copyByte (core s c).cCopies (fun x => .guest (worldOfLaunch s x.scope)) o) else none
  | 0x05 => if unit = 0 then readStations s d o else none
  | 0x06 => if unit < 384 then readSlice s (384 * d + unit) o else none
  | 0x07 => readWeights s d unit o
  | 0x08 => if unit = 0 ∧ o < 8192 then some ⟨some (listGetD (fingerprint s (o / 8)) (o % 8) 0), .owner⟩ else none
  | 0x09 => if unit < 96 then readSpill s c o else none
  | 0x0A => if unit = 0 ∧ o < 0x2820 then some ⟨some (lifetimeByte s.saltin o), .owner⟩ else none
  | 0x0B => if unit = 0 ∧ o < 0x2000 then some ⟨some (Config.certificateByte o), .any⟩ else none
  | _ => none

/-- A function may read what has a reader. -/
def Reader.admits (s : State) (fn : Nat) (r : Reader) : Bool :=
  fn == 0 || match r with
  | .owner => false
  | .guest w => functionWorld s fn == w
  | .guests ws => ws.contains (functionWorld s fn)
  | .any => true

/-- The bytes of cells, the open ones drawn from a number on (log 20). -/
def drawBytes : Nat → List ReadCell → List Byte × Nat
  | n, [] => ([], n)
  | n, c :: cs =>
    match c.value with
    | some b => let r := drawBytes n cs; (b :: r.1, r.2)
    | none => let r := drawBytes (n + 1) cs; (Config.openByte n :: r.1, r.2)

/-- READBACK (R437, R445): the elements' bytes in the buffer. -/
def execReadback (fn : Nat) (s : State) : Host.Outcome State Fault Refusal :=
  .next <|
    if !mailRuns s fn 4 then s
    else
      let addr := mailNat s fn 0 8
      let n := mailNat s fn 8 4
      if 4096 < n then finishMail s fn .badRequest 0
      else match allSome ((List.range n).map fun i => readCell s (addr + i)) with
        | none => finishMail s fn .badRequest 0
        | some cs =>
          if cs.all fun c => c.reader.admits s fn then
            let r := drawBytes s.saltin.draws cs
            finishMail (putMail { s with saltin := { s.saltin with draws := r.2 } } fn 0 r.1) fn .done 0
          else finishMail s fn .denied 0

/-! ### The minimum security version (R431) -/

/-- SVNADVANCE (R431). -/
def execSvnadvance (fn : Nat) (s : State) : Host.Outcome State Fault Refusal :=
  .next <| ownerMail s fn 5 fun s =>
    let m := mailNat s fn 0 2
    if m < s.saltin.minSvn ∨ 64 < m ∨ s.saltin.svn < m then finishMail s fn .badRequest 0
    else finishMail { s with saltin := { s.saltin with minSvn := m } } fn .done 0

/-! ### The fabric manager (R394) -/

/-- FMENROL (R394): the key enrolled by its hash, SEQ at 0. -/
def execFmenrol (fn : Nat) (s : State) : Host.Outcome State Fault Refusal :=
  .next <| ownerMail s fn 6 fun s =>
    let key := mailBytes s fn 0 1024
    finishMail { s with saltin := { s.saltin with fmKey := some (Config.sha512 key), fmFullKey := key, seq := 0 } } fn .done 0

/-- ASCII "OZ9F". -/
def magicF : List Byte := [0x4F, 0x5A, 0x39, 0x46]

/-- A request verifies: a key is enrolled, SIG is right, SEQ is new, and PKG is this package's; the first INCARNATION after a reset
or a scrub names no package. -/
def requestOk (s : State) (fn op : Nat) : Bool :=
  let x := s.saltin
  x.fmKey == some (Config.sha512 x.fmFullKey) && Config.pssVerifies x.fmFullKey (mailBytes s fn 0 1048) (mailBytes s fn 1048 512) &&
  decide (x.seq < mailNat s fn 8 8) && (mailNat s fn 16 2 == s.regs.number || (op == 2 && !x.numbered))

/-- How a request's operation comes out: carried out in a state, or refused. -/
inductive FmResult where
  | did (s : State)
  | bad
  | wrap
  deriving DecidableEq, Repr

/-- The bytes of BODY that an operation uses (R394); `n` is INCTAB's count. -/
def bodyUsed (op n i : Nat) : Bool :=
  match op with
  | 1 => decide (i < 18 ∨ 20 ≤ i ∧ i < 24)
  | 2 => i == 0 || i == 2 || i == 3
  | 3 => decide (i < 4 ∨ 8 ≤ i ∧ i < 8 + n)
  | 4 => i == 0
  | 5 => decide (i < 2 ∨ 8 ≤ i ∧ i < 536)
  | _ => false

/-- The bytes that a request makes Zero are (R394). DESIGN CHOICE (log 109): bytes 512 to 1,023 of BODY, where it carries its key by
reference, are not looked at. -/
def zerosOk (s : State) (fn op : Nat) : Bool :=
  let n := mailNat s fn 26 2
  mailNat s fn 6 2 == 0 && mailNat s fn 18 6 == 0 &&
  ((mailBytes s fn 24 512).zip (List.range 512)).all fun x => bodyUsed op n x.2 || x.1 == 0

/-- A fabric-manager request (R394): MAGIC and OP, then its authority, then its fields, the Zero bytes among them. -/
def fmCommand (s : State) (fn op : Nat) (f : State → FmResult) : State :=
  let bad := mailBytes s fn 0 4 != magicF || mailNat s fn 4 2 == 0 || decide (6 < mailNat s fn 4 2)
  if !mailRuns s fn 7 then s
  else if fn ≠ 0 then finishMail s fn .denied 0
  else if bad then finishMail s fn .badRequest 0
  else if mailNat s fn 4 2 ≠ op then s
  else if !requestOk s fn op then finishMail s fn .denied 0
  else if !zerosOk s fn op then finishMail s fn .badRequest 0
  else match f s with
    | .did s' => finishMail { s' with saltin := { s'.saltin with seq := mailNat s fn 8 8 } } fn .done 0
    | .bad => finishMail s fn .badRequest 0
    | .wrap => finishMail s fn .badWrap 0

/-- PHASEMAP (R382 to R384): the map, the own group's bit always set, then the gate counter. -/
def setPhase (s : State) (fn : Nat) : FmResult :=
  let m := mailNat s fn 24 16
  let g := mailNat s fn 40 2
  if 2 ^ 72 ≤ m ∨ (4096 ≤ g ∧ g ≠ 0xFFFF) then .bad
  else
    let map : BitVec 128 := BitVec.ofNat 128 m ||| BitVec.ofNat 128 (2 ^ (s.regs.number / 64))
    let s' := { s with regs := { s.regs with phaseMap := map } }
    .did (if g = 0xFFFF then s' else addCounter s' g (BitVec.ofNat 32 (mailNat s fn 44 4)) none)

/-- PHASEMAP (R394). -/
def execPhasemap (fn : Nat) (s : State) : Host.Outcome State Fault Refusal := .next <| fmCommand s fn 1 fun s => setPhase s fn

/-- A slice with its counts toward targets that a test picks begun again. -/
def Slice.recount (p : Nat → Bool) (sl : Slice) : Slice := { sl with fabric := sl.fabric.filter fun c => !p c.target }

/-- A team with its slices' counts begun again. -/
def Team.recount (p : Nat → Bool) (tm : Team) : Team :=
  { tm with addr := tm.addr.recount p, strands := tm.strands.map (Slice.recount p) }

/-- A bank with its slices' counts begun again. -/
def Bank.recount (p : Nat → Bool) (b : Bank) : Bank := { b with teams := b.teams.map fun t => (t.1, t.2.recount p) }

/-- Every slice's counts toward targets that a test picks begun again: what came before has ended or been performed (R399). -/
def recount (s : State) (p : Nat → Bool) : State :=
  { s with
    cores := s.cores.map fun c => (c.1, { c.2 with
      active := c.2.active.recount p, shadow := c.2.shadow.map (Bank.recount p), outgoing := c.2.outgoing.map (Bank.recount p) })
    gangs := s.gangs.map fun g => { g with saved := g.saved.map fun v => { v with team := v.team.recount p } } }

/-- The sequences toward and from packages that a test picks begin again, with what the target side kept of them (R381, R387). -/
def restartSequences (s : State) (p : Nat → Bool) : State :=
  { s with
    sent := s.sent.filter fun x => !p (x.1 / 1024)
    expected := s.expected.filter fun x => !p (x.1 / 1024)
    heldPackets := s.heldPackets.filter fun x => !p x.source
    standing := s.standing.filter fun x => !p x.source
    blocked := s.blocked.filter fun x => !p x.source
    markers := s.markers.filter fun m => !p m.target
    ended := s.ended.filter fun x => !p x.source }

/-- INCARNATION (R394, R389): SELFINC, and the package number; its own group's bit of PHASEMAP is always set (R382). -/
def setIncarnation (s : State) (fn : Nat) : FmResult :=
  let n := mailNat s fn 26 2
  if 4608 ≤ n then .bad
  else
    let s := recount (restartSequences s fun p => decide (p < 8192)) fun t => decide (t < 8192)
    .did { s with
      regs := { s.regs with
        incarnation := BitVec.ofNat 8 (mailNat s fn 24 1), number := n
        phaseMap := s.regs.phaseMap ||| BitVec.ofNat 128 (2 ^ (n / 64)) }
      saltin := { s.saltin with numbered := true } }

/-- INCARNATION (R394). -/
def execIncarnation (fn : Nat) (s : State) : Host.Outcome State Fault Refusal := .next <| fmCommand s fn 2 fun s => setIncarnation s fn

/-- The faults that waited for an owner of a package that was reset are resumed: no acknowledgement will come. -/
def resumeRemote (s : State) (p : Nat) : State :=
  let mine := s.remoteFaults.filter fun r => r.target == p
  mine.foldl (fun s r => ackMaster s r.master r.miss false) { s with remoteFaults := s.remoteFaults.filter fun r => r.target != p }

/-- INCTAB[p] changes (R389): the packets of its old incarnation are refused, and every outstanding access to p ends; what that lets go goes
to the new incarnation, in sequences begun again. -/
def setPeer (s : State) (p : Nat) (inc : Byte) : State :=
  if Table.getD s.regs.incTab p 0 = inc then s
  else
    let out := s.inflight.filter fun a => a.sent && a.place.scope == .fabric && a.target == p
    let s := ((s.standing ++ s.heldPackets).filter fun x => x.source == p).foldl
      (fun s x => refusePacket s x resetInfo) s
    let s := recount (restartSequences s fun q => q == p) fun t => t == p
    let s := out.foldl peerReset { s with regs := { s.regs with incTab := Table.put s.regs.incTab p inc } }
    resumeRemote s p

/-- INCTAB (R394). -/
def setPeers (s : State) (fn : Nat) : FmResult :=
  let p := mailNat s fn 24 2
  let n := mailNat s fn 26 2
  if n = 0 ∨ 1016 < n ∨ 4608 < p + n then .bad
  else .did ((List.range n).foldl (fun s' i => setPeer s' (p + i) (BitVec.ofNat 8 (mailNat s fn (32 + i) 1))) s)

/-- INCTAB (R394). -/
def execInctab (fn : Nat) (s : State) : Host.Outcome State Fault Refusal := .next <| fmCommand s fn 3 fun s => setPeers s fn

/-- ICRED (R402): every entry with nothing sent and nobody waiting takes it at once. -/
def setIcred (s : State) (fn : Nat) : FmResult :=
  let v := mailNat s fn 24 1
  if v = 0 then .bad
  else .did { s with
    regs := { s.regs with icred := v }
    cores := (List.range 384).map fun c =>
      let k := core s c
      (c, { k with allow := k.allow.map fun e => (e.1, Allowance.settle v e.2) }) }

/-- ICRED (R394). -/
def execIcred (fn : Nat) (s : State) : Host.Outcome State Fault Refusal := .next <| fmCommand s fn 4 fun s => setIcred s fn

/-- LINKKEY (R390, R391): the next key of a link's direction; a link that stopped for want of one switches to it. -/
def loadLinkKey (s : State) (fn : Nat) : FmResult :=
  let plane := mailNat s fn 24 1
  let dir := mailNat s fn 25 1
  if 16 ≤ plane ∨ 2 ≤ dir then .bad
  else match unwrapBlob (mailBytes s fn 32 528) 2 32 with
    | none => .wrap
    | some _ => .did (modLink s (linkKey plane (dir == 1)) fun l => if l.exh then l.switch else { l with nextKey := true })

/-- LINKKEY (R394). -/
def execLinkkey (fn : Nat) (s : State) : Host.Outcome State Fault Refusal := .next <| fmCommand s fn 5 fun s => loadLinkKey s fn

/-- The status block of a plane (R393): of its sending direction, EXH of either, AUTHFAIL of the receiving one (log 22). -/
def linkBlock (s : State) (plane : Nat) : List DWord :=
  let a := linkAt s (linkKey plane false)
  let b := linkAt s (linkKey plane true)
  [BitVec.ofNat 64 (bitAt (a.exh || b.exh) 63 + bitAt a.up 62 + bitAt a.drained 61 + bitAt a.nextKey 60 +
    a.epoch.toNat * 2 ^ 32 + b.authFail.toNat), a.ctr]

/-- LINKSTAT (R394): the blocks, CLOCK and the signature in the buffer. -/
def linkStatus (s : State) (fn : Nat) : FmResult :=
  let r := bytesOfDWords ((List.range 16).flatMap (linkBlock s)) ++ bytesOfDWord s.clock
  .did (putMail s fn 0 (r ++ fitBytes 512 (Config.identitySign r)))

/-- LINKSTAT (R394). -/
def execLinkstat (fn : Nat) (s : State) : Host.Outcome State Fault Refusal := .next <| fmCommand s fn 6 fun s => linkStatus s fn

/-! ### Reset and recovery (R431 to R433) -/

/-- What Saltin keeps through a reset: its fuses, its non-volatile storage, and the model's own counts. -/
def Saltin.kept (x : Saltin) : Saltin :=
  { Saltin.reset with
    hexHash := x.hexHash, custHash := x.custHash, keySel := x.keySel, minSvn := x.minSvn, stored := x.stored, fmKey := x.fmKey
    fmFullKey := x.fmFullKey, seq := x.seq, hours := x.hours, powerCycles := x.powerCycles, droops := x.droops
    lockouts := x.lockouts, scrubs := x.scrubs, retrain := x.retrain, temps := x.temps, corrected := x.corrected
    keysDrawn := x.keysDrawn, draws := x.draws }

/-- The package reset (R449): everything at its reset value but what Saltin keeps, the bytes of main and host memory, and what has
left the package. -/
def resetPackage (s : State) : State :=
  { State.reset with
    agenda := s.agenda, memSize := s.memSize, mem := s.mem, sectorKeys := s.sectorKeys, hostMem := s.hostMem, outbox := s.outbox
    saltin := s.saltin.kept }

/-- RSTAT (R433). -/
def rstatWord (state reason : Nat) (fail : Bool) : Word := BitVec.ofNat 32 (state + bitAt fail 4 + reason * 256)

/-- RECOVER (R432, R433): the host's bit or the pin; Saltin is reset into the boot ROM, the rest held in reset. The bit reads 1 until the
ROM has taken the request. -/
def execRecover (fn : Nat) (pin : Bool) (s : State) : Host.Outcome State Fault Refusal :=
  .next <|
    if !pin ∧ fn ≠ 0 then s
    else
      let s := resetPackage s
      { s with saltin := { s.saltin with inRecovery := true, rctl := true, rstat := rstatWord 0 0 false } }

/-- The ROM takes a request for recovery, and waits for an image (R433). -/
def takeRecover (s : State) : State :=
  if s.saltin.rctl then { s with saltin := { s.saltin with rctl := false, rstat := rstatWord 1 0 false } } else s

/-- An image refused (R433). -/
def refuseImage (s : State) (reason : Nat) : State := { s with saltin := { s.saltin with rstat := rstatWord 1 reason true } }

/-- GO (R433): fetching starts, unless IMGLEN or IMGADDR is out of range. -/
def execGo (fn : Nat) (v : Word) (s : State) : Host.Outcome State Fault Refusal :=
  let x := s.saltin
  .next <|
    if fn ≠ 0 ∨ v ≠ 1 ∨ !x.inRecovery ∨ wfield x.rstat 3 0 ≠ 1 then s
    else if x.imgLen.toNat < 4096 ∨ 2 ^ 26 < x.imgLen.toNat ∨ x.imgAddr.toNat % 4096 ≠ 0 then refuseImage s 4
    else { s with saltin := { x with rstat := rstatWord 2 0 false } }

/-- A SHA-512 hash as 512 fuses. -/
def fusesOf (hash : List Byte) : BitVec 512 := BitVec.ofNat 512 (natOfBytes hash)

/-- The fused hash that KEYSEL selects (R431). -/
def Saltin.hash (x : Saltin) : BitVec 512 := if x.keySel then x.custHash else x.hexHash

/-- The operator's enrolment of a customer key (R431): CUSTHASH and KEYSEL are blown together, once. No event of the package does it
(log 118). -/
def Saltin.enrol (key : List Byte) (x : Saltin) : Saltin :=
  if x.keySel then x else { x with custHash := fusesOf (Config.sha512 key), keySel := true }

/-- Why the ROM refuses an image, 0 where it accepts it (R431, R433). -/
def imageReason (x : Saltin) (image : List Byte) : Nat :=
  if fusesOf (Config.sha512 (Config.imageKey image)) ≠ x.hash then 1
  else if !Config.imageVerifies image then 2
  else if Config.imageSvn image < x.minSvn then 3
  else 0

/-- An image runs: the ROM's stage is over (R431, R449). -/
def runImage (s : State) (image : List Byte) : State :=
  { s with
    saltin := { s.saltin with stored := image, svn := Config.imageSvn image, inRecovery := false }
    service := { s.service with stage := 2, fail := false } }

/-- RECOVERY_IMAGE_VERIFY (R432, R433): the ROM's next stage with an image. Fetching: the bytes of host memory that IMGADDR and IMGLEN
name are read, unless the DMA fails; verifying: the image passes, or is refused; writing: it is stored, and runs. -/
def execRecoveryImageVerify (dmaError : Bool) (s : State) : Host.Outcome State Fault Refusal :=
  let x := s.saltin
  let put (y : Saltin) (state : Nat) : State := { s with saltin := { y with rstat := rstatWord state 0 false } }
  .next <|
    if !x.inRecovery then s
    else match wfield x.rstat 3 0 with
      | 2 =>
        if dmaError then refuseImage s 5
        else put { x with fetched := Memory.readBytes s.hostMem x.imgAddr.toNat x.imgLen.toNat } 3
      | 3 => if imageReason x x.fetched ≠ 0 then refuseImage s (imageReason x x.fetched) else put x 4
      | 4 =>
        let s := runImage s x.fetched
        { s with saltin := { s.saltin with fetched := [], rstat := rstatWord 5 0 false } }
      | _ => s

/-! ### Scan mode (R436) -/

/-- SCAN_MODE_ENTRY (R436): the hardware wipe, counted; no port opens before it. -/
def execScanModeEntry (_memoryTest : Bool) (s : State) : Host.Outcome State Fault Refusal :=
  .next <|
    if s.saltin.scanMode then s
    else
      let s := dropWork (wipeCores s)
      { s with
        keys := []
        saltin := { s.saltin with scanMode := true, lockouts := satUp s.saltin.lockouts } }

end Sys2Proof.Machine
end

