-- ==== Sys2Proof/Machine/DebugControl.lean ====
section
/-! DEFINITION. What a debugger does (spec/27 R441 to R443, spec/06 R106): the commands of DCMD, and the sampling of a core. An event whose condition does not hold leaves the state as it is. -/

namespace Sys2Proof.Machine

/-! ### Samples (R107, R443) -/

/-- The sample interval has passed since a slot's last sample of a core (R443). -/
def sampleDue (s : State) (b : DebugSlot) (c : Nat) : Bool :=
  match Table.get b.lastSample c with
  | none => true
  | some x => decide (2 ^ (6 + b.sint) ≤ (s.clock - x.2).toNat)

/-- SAMPLE (R443): the next live slice in round-robin order, once the sample interval has passed. -/
def execSample (slot c : Nat) (s : State) : Host.Outcome State Fault Refusal :=
  let b := debugSlot s slot
  .next <|
    match b.launch with
    | none => s
    | some launch =>
      if b.sint = 15 || !sampleDue s b c then s
      else
        let xs := sampled s launch c
        let last := Table.get b.lastSample c
        let next := match xs.find? fun x => last.any fun n => decide (n.1 < x.1) with
          | some x => some x
          | none => xs.head?
        match next with
        | none => s
        | some (n, id, tm, sl) =>
          modDebug (emit s slot (sampleWords s id tm sl (sampleClass s tm sl)) 1) slot fun b =>
            { b with lastSample := Table.put b.lastSample c (n, s.clock) }

/-! ### Commands (R441, R442) -/

/-- The slice that a command's identity names, in this package. -/
def commandId (pkg : Nat) (dcmd : DWord) : Option SliceId :=
  let core' := 96 * field dcmd 34 33 + field dcmd 32 26
  if field dcmd 47 35 ≠ pkg ∨ 96 ≤ field dcmd 32 26 then none
  else some ⟨core', field dcmd 25 22, if dcmd.getLsbD 21 then none else some (field dcmd 20 11)⟩

/-- DCMD as it reads after a command; BUSY and ERR are read only, and reserved bits take nothing. -/
def dcmdWord (dcmd : DWord) (busy err : Bool) : DWord :=
  BitVec.ofNat 64 (field dcmd 63 59 * 2 ^ 59 + bitAt busy 58 + bitAt err 57 + field dcmd 54 11 * 2 ^ 11)

/-- DARG after the host's write of it, where it makes one. -/
def setDarg (s : State) (n : Nat) (v : Option DWord) : State :=
  match v with
  | none => s
  | some v => modDebug s n fun b => { b with d := b.d.set 8 v }

/-- DCMD set. -/
def setDcmd (s : State) (n : Nat) (dcmd : DWord) (busy err : Bool) : State :=
  modDebug s n fun b => { b with d := b.d.set 7 (dcmdWord dcmd busy err) }

/-- The reserved bits of DCMD are 0. -/
def dcmdOk (dcmd : DWord) : Bool := field dcmd 56 55 == 0 && field dcmd 10 0 == 0 && decide (1 ≤ field dcmd 63 60 ∧ field dcmd 63 60 ≤ 7)

/-- Another slot holds a REGWRITE of a slice, or of one of its team, that waits: the commands on a slice take effect in the order written
(R441). DESIGN CHOICE (log 125): the host's write of the later command is taken when the earlier has finished. -/
def commandWaits (s : State) (n : Nat) (w : SliceName) (team : Bool) : Bool :=
  s.debugSlots.any fun p => p.1 != n && p.2.regwrite.any fun x => x.1 == w || (team && { x.1 with strand := none } == w)

/-- A command carried out on a slice of the attached launch, or refused with ERR and nothing changed (R441). It takes its argument from
DARG as it stands; `who` is the slice that it names; `ok` decides on the argument and the slice, and `act` acts on the state in which DCMD
has been set. A word with the code of another command is no write of this one. -/
def debugCommand (s : State) (fn n : Nat) (dcmd : DWord) (v : Option DWord) (code : Nat) (who : Option SliceId)
    (ok : DWord → Team → Slice → Bool) (act : State → SliceId → Team → DWord → State) : State :=
  let b := debugSlot s n
  let c := field dcmd 63 60
  let busy := (listGetD b.d 7 0).getLsbD 58
  let arg := v.getD (listGetD b.d 8 0)
  let u := setDarg s n v
  let refuse : State :=
    if busy then modDebug u n fun b => { b with d := b.d.set 7 (listGetD b.d 7 0 ||| BitVec.ofNat 64 (2 ^ 57)) }
    else setDcmd u n dcmd false true
  if !hostWrites s ∨ 64 ≤ n ∨ !reachesWorld s fn (field (listGetD b.d 0 0) 47 32) ∨ (1 ≤ c ∧ c ≤ 7 ∧ c ≠ code) then s
  else if busy || !dcmdOk dcmd then refuse
  else match b.launch, who with
    | some launch, some id =>
      match sliceAt s id with
      | none => refuse
      | some (tm, sl) =>
        if commandWaits s n (tm.name id.strand) (code == 2) then s
        else if tm.launch = launch ∧ ok arg tm sl then act (setDcmd u n dcmd false false) id tm arg else refuse
    | _, _ => refuse

/-- A command on the slice that DCMD names. -/
def sliceCommand (s : State) (fn n : Nat) (dcmd : DWord) (v : Option DWord) (code : Nat) (ok : DWord → Team → Slice → Bool)
    (act : State → SliceId → Team → DWord → State) : State :=
  debugCommand s fn n dcmd v code (commandId s.regs.number dcmd) ok act

/-- A slice is TRAPPED (R441). -/
def Slice.isTrapped (tm : Team) (sl : Slice) : Bool := sl.run == .trapped && !tm.frozen

/-- DCMD_RESUME (R441, R104). -/
def execDcmdResume (fn slot : Nat) (dcmd : DWord) (darg : Option DWord) (s : State) : Host.Outcome State Fault Refusal :=
  .next <| sliceCommand s fn slot dcmd darg 1 (fun x tm sl => sl.isTrapped tm && lowWord x &&& 3 == 0) fun s id tm x =>
    resumeSlice s (tm.name id.strand) (lowWord x)

/-- DCMD_RETIRE (R441, R98). -/
def execDcmdRetire (fn slot : Nat) (dcmd : DWord) (darg : Option DWord) (s : State) : Host.Outcome State Fault Refusal :=
  .next <| sliceCommand s fn slot dcmd darg 4 (fun _ tm sl => sl.isTrapped tm) fun s id tm _ => retireSlice s (tm.name id.strand)

/-- STEPON (R441). -/
def execStepon (fn slot : Nat) (dcmd : DWord) (darg : Option DWord) (s : State) : Host.Outcome State Fault Refusal :=
  .next <| sliceCommand s fn slot dcmd darg 5 (fun _ _ _ => true) fun s id _ _ => modSlice s id fun sl => { sl with stepBit := true }

/-- STEPOFF (R441). -/
def execStepoff (fn slot : Nat) (dcmd : DWord) (darg : Option DWord) (s : State) : Host.Outcome State Fault Refusal :=
  .next <| sliceCommand s fn slot dcmd darg 6 (fun _ _ _ => true) fun s id _ _ => modSlice s id fun sl => { sl with stepBit := false }

/-- FLAGWRITE (R441): the whole %fflags. -/
def execFlagwrite (fn slot : Nat) (dcmd : DWord) (darg : Option DWord) (s : State) : Host.Outcome State Fault Refusal :=
  .next <| sliceCommand s fn slot dcmd darg 7 (fun x tm sl => sl.isTrapped tm && field x 31 5 == 0) fun s id _ x =>
    modSlice s id fun sl => { sl with fflags := BitVec.ofNat 32 (field x 4 0) }

/-- A slice of a step team resumed (R106): not where its record carries NEXTPC 0; at its PC after a breakpoint of a debug slot;
otherwise at NEXTPC, with no skip mark. -/
def stepSlice (s : State) (w : SliceName) : State :=
  match namedSlice s w with
  | none => s
  | some (_, sl) =>
    match sl.run, sl.record with
    | .trapped, some r =>
      if r.nextPc = 0 then s
      else if r.cause = Cause.breakpoint.value ∧ 0x20000 ≤ r.info0.toNat then restart s w sl.pc true
      else restart s w r.nextPc false
    | _, _ => s

/-- A STEP TEAM request (R106). -/
def stepTeam (s : State) (t : TeamId) (tm : Team) : State :=
  let s := if tm.frozen then s else (tm.members.map fun m => tm.name m.1).foldl stepSlice s
  modTeam s t fun tm =>
    { tm with addr := { tm.addr with stepBit := true }, strands := tm.strands.map fun sl => { sl with stepBit := true } }

/-- A team has no RUNNABLE slice: its step-team request is complete (R106). The slices of a frozen team are FROZEN, those of a gang that
has been swapped out SWAPPED (R98). -/
def stepped (s : State) (w : SliceName) : Bool :=
  match findTeam s w.launch w.gang w.gteam with
  | none => true
  | some (_, tm) => tm.frozen || !gangRuns s w.launch w.gang || tm.members.all fun m => m.2.run != .runnable

/-- The team that a STEPTEAM names, by its address slice: AS and STRAND of its identity are ignored (R441). -/
def commandTeam (pkg : Nat) (dcmd : DWord) : Option SliceId :=
  (commandId pkg dcmd).map fun id => { id with strand := none }

/-- STEPTEAM (R441, R106): BUSY until no slice of the team is RUNNABLE. -/
def execStepteam (fn slot : Nat) (dcmd : DWord) (darg : Option DWord) (s : State) : Host.Outcome State Fault Refusal :=
  .next <| debugCommand s fn slot dcmd darg 2 (commandTeam s.regs.number dcmd) (fun _ _ _ => true) fun s id tm _ =>
    let s := stepTeam s (teamIdOf id) tm
    let w := tm.name none
    if stepped s w then s
    else modDebug s slot fun b => { b with d := b.d.set 7 (dcmdWord dcmd true false), stepping := some w }

/-- The part of a pending write-back that is left when one register's is dropped (R442). -/
def Sink.without (r : Nat) (k : Sink) : Sink :=
  match k with
  | .reg n => if n = r then .none else k
  | .pair n => if n = r then .high (n + 1) else if n + 1 = r then .reg n else k
  | .high n => if n = r then .none else k
  | .none | .push _ | .label _ => k

/-- A REGWRITE with FORCE (R442): the pending write-back dropped, the register written, FORCE_WRITE traced whatever TMASK holds. -/
def forceWrite (s : State) (slot : Nat) (id : SliceId) (tm : Team) (r : Nat) (v : Word) : State :=
  let w := tm.name id.strand
  let s : State := { s with inflight := s.inflight.map fun a => if a.who == w then { a with sink := a.sink.without r } else a }
  let pc := ((sliceAt s id).map fun p => p.2.pc).getD 0
  emit (modSlice s id fun sl => sl.setReg r v) slot (traceRecord s id 8 pc (BitVec.ofNat 32 r)) 2

/-- REGWRITE (R442): at once where the register is not pending or with FORCE, otherwise when its mark clears. -/
def execRegwrite (fn slot : Nat) (dcmd : DWord) (darg : Option DWord) (s : State) : Host.Outcome State Fault Refusal :=
  let r := field dcmd 54 48
  .next <| sliceCommand s fn slot dcmd darg 3 (fun _ tm sl => sl.isTrapped tm && decide (r < sl.regs.length)) fun s id tm x =>
    if dcmd.getLsbD 59 then forceWrite s slot id tm r (lowWord x)
    else if regPending s (tm.name id.strand) r then
      modDebug s slot fun b =>
        { b with d := b.d.set 7 (dcmdWord dcmd true false), regwrite := some (tm.name id.strand, r, lowWord x) }
    else modSlice s id fun sl => sl.setReg r (lowWord x)

/-! ### Commands that wait (R106, R442) -/

/-- A slot's command has finished. -/
def DebugSlot.finished (b : DebugSlot) : DebugSlot :=
  { b with d := b.d.set 7 (listGetD b.d 7 0 &&& ~~~(BitVec.ofNat 64 (2 ^ 58))), regwrite := none, stepping := none }

/-- A slot's waiting command carried out, if what it waits for has come. -/
def settleSlot (s : State) (n : Nat) : State :=
  let b := debugSlot s n
  match b.regwrite, b.stepping with
  | some (w, r, v), _ => if regPending s w r then s else modDebug (modNamedSlice s w fun sl => sl.setReg r v) n DebugSlot.finished
  | none, some w => if stepped s w then modDebug s n DebugSlot.finished else s
  | none, none => s

/-- Every slot's waiting command. -/
def settleDebug (s : State) : State := s.debugSlots.foldl (fun s p => settleSlot s p.1) s

end Sys2Proof.Machine
end

