-- ==== Sys2Proof/Machine/LaneFloat.lean ====
section
/-! DEFINITION. The floating-point and narrow-format instructions of the lane set (spec/08 R142 to R158). -/

namespace Sys2Proof.Machine

/-! ### Packing bytes (R158) -/

/-- The byte number of a BYI modifier. -/
def byiIndex : Byi → Nat
  | .b0 => 0
  | .b1 => 1
  | .b2 => 2
  | .b3 => 3

/-- BPACK (R158): byte n of D replaced by the low byte of A. -/
def bpackOp (m : Byi) (x d : Word) : Word :=
  let n := 8 * byiIndex m
  BitVec.ofNat 32 (d.toNat - d.toNat / 2 ^ n % 256 * 2 ^ n + x.toNat % 256 * 2 ^ n)

/-- The byte number of a BYX modifier, and whether it zero-extends. -/
def byxIndex : Byx → Nat × Bool
  | .b0 => (0, false)
  | .b1 => (1, false)
  | .b2 => (2, false)
  | .b3 => (3, false)
  | .zb0 => (0, true)
  | .zb1 => (1, true)
  | .zb2 => (2, true)
  | .zb3 => (3, true)

/-- BUNPK (R158). -/
def bunpkOp (m : Byx) (x : Word) : Word :=
  let b : BitVec 8 := x.extractLsb' (8 * (byxIndex m).1) 8
  if (byxIndex m).2 then b.setWidth 32 else b.signExtend 32

/-! ### The instructions -/

/-- FADD (R145). -/
def execFadd (d : Dst) (a : Src) (b : Src) (m : Rm) (s : State) : Host.Outcome State Fault Refusal :=
  aluF (Form.pushing (form3 false d .w32 a .w32 b .w32) .f32) s fun x y _ => faddOp m x y

/-- FSUB (R145). -/
def execFsub (d : Dst) (a : Src) (b : Src) (m : Rm) (s : State) : Host.Outcome State Fault Refusal :=
  aluF (Form.pushing (form3 false d .w32 a .w32 b .w32) .f32) s fun x y _ => fsubOp m x y

/-- FMUL (R145). -/
def execFmul (d : Dst) (a : Src) (b : Src) (m : Rm) (s : State) : Host.Outcome State Fault Refusal :=
  aluF (Form.pushing (form3 false d .w32 a .w32 b .w32) .f32) s fun x y _ => fmulOp m x y

/-- FMIN (R149). -/
def execFmin (d : Dst) (a : Src) (b : Src) (s : State) : Host.Outcome State Fault Refusal :=
  aluF (Form.pushing (form3 false d .w32 a .w32 b .w32) .f32) s fun x y _ => fminmaxOp false x y

/-- FMAX (R149). -/
def execFmax (d : Dst) (a : Src) (b : Src) (s : State) : Host.Outcome State Fault Refusal :=
  aluF (Form.pushing (form3 false d .w32 a .w32 b .w32) .f32) s fun x y _ => fminmaxOp true x y

/-- FABS (R150). -/
def execFabs (d : Dst) (a : Src) (s : State) : Host.Outcome State Fault Refusal :=
  aluF (Form.pushing (form2 false d .w32 a .w32) .f32) s fun x _ _ => fabsOp x

/-- FMAC (R146). -/
def execFmac (d : Dst) (a : Src) (b : Src) (m : Rm) (s : State) : Host.Outcome State Fault Refusal :=
  aluF (Form.as (Form.pushing (form3 false d .w32 a .w32 b .w32) .f32) .both) s fun x y z => fmacOp false m x y z

/-- FNMAC (R146). -/
def execFnmac (d : Dst) (a : Src) (b : Src) (m : Rm) (s : State) : Host.Outcome State Fault Refusal :=
  aluF (Form.as (Form.pushing (form3 false d .w32 a .w32 b .w32) .f32) .both) s fun x y z => fmacOp true m x y z

/-- FDIV (R145). -/
def execFdiv (d : Dst) (a : Src) (b : Src) (m : Rm) (s : State) : Host.Outcome State Fault Refusal :=
  aluF (Form.pushing (form3 false d .w32 a .w32 b .w32) .f32) s fun x y _ => fdivOp m x y

/-- FSQRT (R147). -/
def execFsqrt (d : Dst) (a : Src) (m : Rm) (s : State) : Host.Outcome State Fault Refusal :=
  aluF (Form.pushing (form2 false d .w32 a .w32) .f32) s fun x _ _ => fsqrtOp m x

/-- FRCP (R148). -/
def execFrcp (d : Dst) (a : Src) (s : State) : Host.Outcome State Fault Refusal :=
  aluF (Form.pushing (form2 false d .w32 a .w32) .f32) s fun x _ _ => frcpOp x

/-- FRSQ (R148). -/
def execFrsq (d : Dst) (a : Src) (s : State) : Host.Outcome State Fault Refusal :=
  aluF (Form.pushing (form2 false d .w32 a .w32) .f32) s fun x _ _ => frsqOp x

/-- FEXP2 (R148). -/
def execFexp2 (d : Dst) (a : Src) (s : State) : Host.Outcome State Fault Refusal :=
  aluF (Form.pushing (form2 false d .w32 a .w32) .f32) s fun x _ _ => fexp2Op x

/-- FLOG2 (R148). -/
def execFlog2 (d : Dst) (a : Src) (s : State) : Host.Outcome State Fault Refusal :=
  aluF (Form.pushing (form2 false d .w32 a .w32) .f32) s fun x _ _ => flog2Op x

/-- FNEG (R150). -/
def execFneg (d : Dst) (a : Src) (s : State) : Host.Outcome State Fault Refusal :=
  aluF (Form.pushing (form2 false d .w32 a .w32) .f32) s fun x _ _ => fnegOp x

/-- FCMP (R151). -/
def execFcmp (d : Dst) (a : Src) (b : Src) (m : Fcc) (s : State) : Host.Outcome State Fault Refusal :=
  aluF (form3 false d .w32 a .w32 b .w32) s fun x y _ => fcmpOp m x y

/-- FCLASS (R152). -/
def execFclass (d : Dst) (a : Src) (s : State) : Host.Outcome State Fault Refusal :=
  alu2 (form2 false d .w32 a .w32) s fclassOp

/-- FRND (R153). -/
def execFrnd (d : Dst) (a : Src) (m : Rm) (s : State) : Host.Outcome State Fault Refusal :=
  aluF (Form.pushing (form2 false d .w32 a .w32) .f32) s fun x _ _ => frndOp m x

/-- CVTBF (R155, R80). -/
def execCvtbf (d : Dst) (a : Src) (m : Ns) (s : State) : Host.Outcome State Fault Refusal :=
  aluF (form2 false d .w32 a .w32) s fun x _ _ => narrow bf16 m x

/-- CVTE4 (R155, R80). -/
def execCvte4 (d : Dst) (a : Src) (m : Ns) (s : State) : Host.Outcome State Fault Refusal :=
  aluF (form2 false d .w32 a .w32) s fun x _ _ => narrow e4m3 m x

/-- CVTE5 (R155, R80). -/
def execCvte5 (d : Dst) (a : Src) (m : Ns) (s : State) : Host.Outcome State Fault Refusal :=
  aluF (form2 false d .w32 a .w32) s fun x _ _ => narrow e5m2 m x

/-- CVTFB (R155, R81). -/
def execCvtfb (d : Dst) (a : Src) (s : State) : Host.Outcome State Fault Refusal :=
  alu2 (Form.pushing (form2 false d .w32 a .w32) .f32) s fun x => widen bf16 (x.toNat % 65536)

/-- CVT4F (R155, R81). -/
def execCvt4f (d : Dst) (a : Src) (s : State) : Host.Outcome State Fault Refusal :=
  alu2 (Form.pushing (form2 false d .w32 a .w32) .f32) s fun x => widen e4m3 (x.toNat % 256)

/-- CVT5F (R155, R81). -/
def execCvt5f (d : Dst) (a : Src) (s : State) : Host.Outcome State Fault Refusal :=
  alu2 (Form.pushing (form2 false d .w32 a .w32) .f32) s fun x => widen e5m2 (x.toNat % 256)

/-- QNT8 (R156). -/
def execQnt8 (d : Dst) (a : Src) (b : Src) (m : Ns) (s : State) : Host.Outcome State Fault Refusal :=
  aluF (form3 false d .w32 a .w32 b .w32) s fun x y _ => quantise 8 m x (y.toNat % 256)

/-- QNT4 (R156). -/
def execQnt4 (d : Dst) (a : Src) (b : Src) (m : Ns) (s : State) : Host.Outcome State Fault Refusal :=
  aluF (form3 false d .w32 a .w32 b .w32) s fun x y _ => quantise 4 m x (y.toNat % 256)

/-- DQ8 (R157). -/
def execDq8 (d : Dst) (a : Src) (b : Src) (s : State) : Host.Outcome State Fault Refusal :=
  aluF (Form.pushing (form3 false d .w32 a .w32 b .w32) .f32) s fun x y _ => dequantise (x.extractLsb' 0 8).toInt (y.toNat % 256)

/-- DQ4 (R157). -/
def execDq4 (d : Dst) (a : Src) (b : Src) (s : State) : Host.Outcome State Fault Refusal :=
  aluF (Form.pushing (form3 false d .w32 a .w32 b .w32) .f32) s fun x y _ => dequantise (x.extractLsb' 0 4).toInt (y.toNat % 256)

/-- BPACK (R158). -/
def execBpack (d : Dst) (a : Src) (m : Byi) (s : State) : Host.Outcome State Fault Refusal :=
  aluD (form2 false d .w32 a .w32) s fun x _ z => bpackOp m x z

/-- BUNPK (R158). -/
def execBunpk (d : Dst) (a : Src) (m : Byx) (s : State) : Host.Outcome State Fault Refusal :=
  alu2 (form2 false d .w32 a .w32) s (bunpkOp m)

/-- FSCL (R154). -/
def execFscl (d : Dst) (a : Src) (b : Src) (m : Rm) (s : State) : Host.Outcome State Fault Refusal :=
  aluF (Form.pushing (form3 false d .w32 a .w32 b .w32) .f32) s fun x y _ => fsclOp m x y

end Sys2Proof.Machine
end

