-- ==== Sys2Proof/Machine/LaneInt.lean ====
section
/-! DEFINITION. The integer, logic, move and conversion instructions of the lane set (spec/07 R109 to R130). -/

namespace Sys2Proof.Machine

/-! ### The operations (spec/07 R113 to R130) -/

/-- A value clamped to a range, as a 32-bit word (R113). -/
def clampWord (v lo hi : Int) : Word := BitVec.ofInt 32 (max lo (min hi v))

/-- IADD (R113). -/
def iaddOp (m : Sat) (x y : Word) : Word :=
  match m with
  | .wrap => x + y
  | .ss => clampWord (x.toInt + y.toInt) (-2 ^ 31) (2 ^ 31 - 1)
  | .us => clampWord ((x.toNat : Int) + y.toNat) 0 (2 ^ 32 - 1)

/-- ISUB (R113). -/
def isubOp (m : Sat) (x y : Word) : Word :=
  match m with
  | .wrap => x - y
  | .ss => clampWord (x.toInt - y.toInt) (-2 ^ 31) (2 ^ 31 - 1)
  | .us => clampWord ((x.toNat : Int) - y.toNat) 0 (2 ^ 32 - 1)

/-- A word read as signed or unsigned (R8). -/
def readInt (m : Sgn) (x : Word) : Int :=
  match m with
  | .s => x.toInt
  | .u => x.toNat

/-- IMULH (R114). -/
def imulhOp (m : Sgn) (x y : Word) : Word := BitVec.ofInt 32 (readInt m x * readInt m y / 2 ^ 32)

/-- IDIV (R115): rounded toward zero, -1 for a division by zero. -/
def idivOp (m : Sgn) (x y : Word) : Word :=
  if y = 0 then 0xFFFFFFFF else BitVec.ofInt 32 ((readInt m x).tdiv (readInt m y))

/-- IREM (R115): the sign of A, A itself for a division by zero. -/
def iremOp (m : Sgn) (x y : Word) : Word :=
  if y = 0 then x else BitVec.ofInt 32 ((readInt m x).tmod (readInt m y))

/-- IMIN (R116). -/
def iminOp (m : Sgn) (x y : Word) : Word := if readInt m x ≤ readInt m y then x else y

/-- IMAX (R116). -/
def imaxOp (m : Sgn) (x y : Word) : Word := if readInt m x ≤ readInt m y then y else x

/-- IABS (R116). -/
def iabsOp (x : Word) : Word := if x.getLsbD 31 then 0 - x else x

/-- SHL (R119). -/
def shlOp (x y : Word) : Word := if 32 ≤ y.toNat then 0 else x <<< y.toNat

/-- SHR (R119). -/
def shrOp (x y : Word) : Word := if 32 ≤ y.toNat then 0 else x >>> y.toNat

/-- SAR (R119). -/
def sarOp (x y : Word) : Word := x.sshiftRight (min y.toNat 31)

/-- ROL (R119). -/
def rolOp (x y : Word) : Word := x.rotateLeft (y.toNat % 32)

/-- ROR (R119). -/
def rorOp (x y : Word) : Word := x.rotateRight (y.toNat % 32)

/-- The position of a bit field that B describes (R121). -/
def fieldPos (y : Word) : Nat := wfield y 4 0

/-- The width of a bit field that B describes, clamped to the word (R121). -/
def fieldWidth (y : Word) : Nat := min (wfield y 13 8) (32 - fieldPos y)

/-- BFX (R121). -/
def bfxOp (m : Sgn) (x y : Word) : Word :=
  let w := fieldWidth y
  let f := x.toNat / 2 ^ fieldPos y % 2 ^ w
  if w = 0 then 0
  else match m with
    | .s => BitVec.ofInt 32 (signedOf w f)
    | .u => BitVec.ofNat 32 f

/-- BFI (R121): the low bits of A into a field of D. -/
def bfiOp (x y d : Word) : Word :=
  let p := fieldPos y
  let w := fieldWidth y
  BitVec.ofNat 32 (d.toNat - d.toNat / 2 ^ p % 2 ^ w * 2 ^ p + x.toNat % 2 ^ w * 2 ^ p)

/-- POPC (R122). -/
def popcOp (x : Word) : Word := BitVec.ofNat 32 ((List.range 32).filter fun i => x.getLsbD i).length

/-- CLZ (R122). -/
def clzOp (x : Word) : Word := BitVec.ofNat 32 (32 - bitLen x.toNat)

/-- The place of the lowest set bit among the `n` bits from `i` on; the end where none is set. -/
def lowestBit (x : Word) : Nat → Nat → Nat
  | 0, i => i
  | n + 1, i => if x.getLsbD i then i else lowestBit x n (i + 1)

/-- CTZ (R122). -/
def ctzOp (x : Word) : Word := BitVec.ofNat 32 (lowestBit x 32 0)

/-- BREV (R122). -/
def brevOp (x : Word) : Word :=
  BitVec.ofNat 32 ((List.range 32).foldl (fun n i => 2 * n + (if x.getLsbD i then 1 else 0)) 0)

/-- DSHL (R120). -/
def dshlOp (x : DWord) (y : Word) : DWord := if 64 ≤ y.toNat then 0 else x <<< y.toNat

/-- DSHR (R120). -/
def dshrOp (m : Sgn) (x : DWord) (y : Word) : DWord :=
  match m with
  | .s => x.sshiftRight (min y.toNat 63)
  | .u => if 64 ≤ y.toNat then 0 else x >>> y.toNat

/-- A comparison of two bit strings of one width (R123). -/
def iccHolds {n : Nat} (c : Icc) (x y : BitVec n) : Bool :=
  match c with
  | .eq => x == y
  | .ne => x != y
  | .lt => x.slt y
  | .ge => !x.slt y
  | .ltu => x.ult y
  | .geu => !x.ult y

/-- 1 or 0. -/
def truth (b : Bool) : Word := if b then 1 else 0

/-- EXT (R127). -/
def extOp (m : ExtMode) (x : Word) : Word :=
  match m with
  | .sb => (x.setWidth 8).signExtend 32
  | .sh => (x.setWidth 16).signExtend 32
  | .zb => (x.setWidth 8).setWidth 32
  | .zh => (x.setWidth 16).setWidth 32

/-- DEXT (R127). -/
def dextOp (m : Sgn) (x : Word) : DWord :=
  match m with
  | .s => x.signExtend 64
  | .u => x.setWidth 64

/-- CVTIF (R129). -/
def cvtifOp (m : Rmu) (x : Word) : FRes := intToF m (if rmuUnsigned m then (x.toNat : Int) else x.toInt)

/-- CVTDF (R129). -/
def cvtdfOp (m : Rmu) (x : DWord) : FRes := intToF m (if rmuUnsigned m then (x.toNat : Int) else x.toInt)

/-- CVTFI (R130). -/
def cvtfiOp (m : Rmu) (x : Word) : FRes :=
  let r := if rmuUnsigned m then fToInt m 0 (2 ^ 32 - 1) x else fToInt m (-2 ^ 31) (2 ^ 31 - 1) x
  ⟨BitVec.ofInt 32 r.1, r.2⟩

/-- CVTFD (R130): the 64-bit value and the flags. -/
def cvtfdOp (m : Rmu) (x : Word) : DWord × Word :=
  let r := if rmuUnsigned m then fToInt m 0 (2 ^ 64 - 1) x else fToInt m (-2 ^ 63) (2 ^ 63 - 1) x
  (BitVec.ofInt 64 r.1, r.2)

/-! ### The instructions -/

/-- IADD (R113). -/
def execIadd (d : Dst) (a : Src) (b : Src) (m : Sat) (s : State) : Host.Outcome State Fault Refusal :=
  alu3 (form3 false d .w32 a .w32 b .w32) s (iaddOp m)

/-- ISUB (R113). -/
def execIsub (d : Dst) (a : Src) (b : Src) (m : Sat) (s : State) : Host.Outcome State Fault Refusal :=
  alu3 (form3 false d .w32 a .w32 b .w32) s (isubOp m)

/-- IMUL (R114). -/
def execImul (d : Dst) (a : Src) (b : Src) (s : State) : Host.Outcome State Fault Refusal :=
  alu3 (form3 false d .w32 a .w32 b .w32) s (· * ·)

/-- IMULH (R114). -/
def execImulh (d : Dst) (a : Src) (b : Src) (m : Sgn) (s : State) : Host.Outcome State Fault Refusal :=
  alu3 (form3 false d .w32 a .w32 b .w32) s (imulhOp m)

/-- IMAD (R114). -/
def execImad (d : Dst) (a : Src) (b : Src) (s : State) : Host.Outcome State Fault Refusal :=
  aluD (form3 false d .w32 a .w32 b .w32) s fun x y z => x * y + z

/-- IDIV (R115). -/
def execIdiv (d : Dst) (a : Src) (b : Src) (m : Sgn) (s : State) : Host.Outcome State Fault Refusal :=
  alu3 (form3 false d .w32 a .w32 b .w32) s (idivOp m)

/-- IREM (R115). -/
def execIrem (d : Dst) (a : Src) (b : Src) (m : Sgn) (s : State) : Host.Outcome State Fault Refusal :=
  alu3 (form3 false d .w32 a .w32 b .w32) s (iremOp m)

/-- IMIN (R116). -/
def execImin (d : Dst) (a : Src) (b : Src) (m : Sgn) (s : State) : Host.Outcome State Fault Refusal :=
  alu3 (form3 false d .w32 a .w32 b .w32) s (iminOp m)

/-- IMAX (R116). -/
def execImax (d : Dst) (a : Src) (b : Src) (m : Sgn) (s : State) : Host.Outcome State Fault Refusal :=
  alu3 (form3 false d .w32 a .w32 b .w32) s (imaxOp m)

/-- IABS (R116). -/
def execIabs (d : Dst) (a : Src) (s : State) : Host.Outcome State Fault Refusal :=
  alu2 (form2 false d .w32 a .w32) s iabsOp

/-- DADD (R117). -/
def execDadd (d : Dst) (a : Src) (b : Src) (s : State) : Host.Outcome State Fault Refusal :=
  alu (form3 false d .w64 a .w64 b .w64) s fun v => (v.a + v.b, 0)

/-- DSUB (R117). -/
def execDsub (d : Dst) (a : Src) (b : Src) (s : State) : Host.Outcome State Fault Refusal :=
  alu (form3 false d .w64 a .w64 b .w64) s fun v => (v.a - v.b, 0)

/-- DMUL (R117). -/
def execDmul (d : Dst) (a : Src) (b : Src) (s : State) : Host.Outcome State Fault Refusal :=
  alu (form3 false d .w64 a .w64 b .w64) s fun v => (v.a * v.b, 0)

/-- DNEG (R117). -/
def execDneg (d : Dst) (a : Src) (s : State) : Host.Outcome State Fault Refusal :=
  alu (form2 false d .w64 a .w64) s fun v => (0 - v.a, 0)

/-- AND (R118). -/
def execAnd (d : Dst) (a : Src) (b : Src) (s : State) : Host.Outcome State Fault Refusal :=
  alu3 (form3 false d .w32 a .w32 b .w32) s (· &&& ·)

/-- OR (R118). -/
def execOr (d : Dst) (a : Src) (b : Src) (s : State) : Host.Outcome State Fault Refusal :=
  alu3 (form3 false d .w32 a .w32 b .w32) s (· ||| ·)

/-- XOR (R118). -/
def execXor (d : Dst) (a : Src) (b : Src) (s : State) : Host.Outcome State Fault Refusal :=
  alu3 (form3 false d .w32 a .w32 b .w32) s (· ^^^ ·)

/-- ANDN (R118). -/
def execAndn (d : Dst) (a : Src) (b : Src) (s : State) : Host.Outcome State Fault Refusal :=
  alu3 (form3 false d .w32 a .w32 b .w32) s fun x y => x &&& ~~~y

/-- NOT (R118). -/
def execNot (d : Dst) (a : Src) (s : State) : Host.Outcome State Fault Refusal :=
  alu2 (form2 false d .w32 a .w32) s fun x => ~~~x

/-- SHL (R119). -/
def execShl (d : Dst) (a : Src) (b : Src) (s : State) : Host.Outcome State Fault Refusal :=
  alu3 (form3 false d .w32 a .w32 b .w32) s shlOp

/-- SHR (R119). -/
def execShr (d : Dst) (a : Src) (b : Src) (s : State) : Host.Outcome State Fault Refusal :=
  alu3 (form3 false d .w32 a .w32 b .w32) s shrOp

/-- SAR (R119). -/
def execSar (d : Dst) (a : Src) (b : Src) (s : State) : Host.Outcome State Fault Refusal :=
  alu3 (form3 false d .w32 a .w32 b .w32) s sarOp

/-- ROL (R119). -/
def execRol (d : Dst) (a : Src) (b : Src) (s : State) : Host.Outcome State Fault Refusal :=
  alu3 (form3 false d .w32 a .w32 b .w32) s rolOp

/-- ROR (R119). -/
def execRor (d : Dst) (a : Src) (b : Src) (s : State) : Host.Outcome State Fault Refusal :=
  alu3 (form3 false d .w32 a .w32 b .w32) s rorOp

/-- BFX (R121). -/
def execBfx (d : Dst) (a : Src) (b : Src) (m : Sgn) (s : State) : Host.Outcome State Fault Refusal :=
  alu3 (form3 false d .w32 a .w32 b .w32) s (bfxOp m)

/-- BFI (R121). -/
def execBfi (d : Dst) (a : Src) (b : Src) (s : State) : Host.Outcome State Fault Refusal :=
  aluD (form3 false d .w32 a .w32 b .w32) s bfiOp

/-- POPC (R122). -/
def execPopc (d : Dst) (a : Src) (s : State) : Host.Outcome State Fault Refusal :=
  alu2 (form2 false d .w32 a .w32) s popcOp

/-- CLZ (R122). -/
def execClz (d : Dst) (a : Src) (s : State) : Host.Outcome State Fault Refusal :=
  alu2 (form2 false d .w32 a .w32) s clzOp

/-- CTZ (R122). -/
def execCtz (d : Dst) (a : Src) (s : State) : Host.Outcome State Fault Refusal :=
  alu2 (form2 false d .w32 a .w32) s ctzOp

/-- BREV (R122). -/
def execBrev (d : Dst) (a : Src) (s : State) : Host.Outcome State Fault Refusal :=
  alu2 (form2 false d .w32 a .w32) s brevOp

/-- DSHL (R120). -/
def execDshl (d : Dst) (a : Src) (b : Src) (s : State) : Host.Outcome State Fault Refusal :=
  alu (form3 false d .w64 a .w64 b .w32) s fun v => (dshlOp v.a (lowWord v.b), 0)

/-- DSHR (R120). -/
def execDshr (d : Dst) (a : Src) (b : Src) (m : Sgn) (s : State) : Host.Outcome State Fault Refusal :=
  alu (form3 false d .w64 a .w64 b .w32) s fun v => (dshrOp m v.a (lowWord v.b), 0)

/-- ICMP (R123). -/
def execIcmp (d : Dst) (a : Src) (b : Src) (m : Icc) (s : State) : Host.Outcome State Fault Refusal :=
  alu3 (form3 false d .w32 a .w32 b .w32) s fun x y => truth (iccHolds m x y)

/-- DCMP (R123). -/
def execDcmp (d : Dst) (a : Src) (b : Src) (m : Icc) (s : State) : Host.Outcome State Fault Refusal :=
  alu (form3 false d .w32 a .w64 b .w64) s fun v => ((truth (iccHolds m v.a v.b)).setWidth 64, 0)

/-- SEL (R124). -/
def execSel (d : Dst) (a : Src) (b : Src) (s : State) : Host.Outcome State Fault Refusal :=
  aluD ((form3 false d .w32 a .w32 b .w32).pushing .untyped) s fun x y z => if z ≠ 0 then x else y

/-- MOV (R125). -/
def execMov (d : Dst) (a : Src) (s : State) : Host.Outcome State Fault Refusal :=
  alu2 ((form2 false d .w32 a .w32).pushing .untyped) s fun x => x

/-- DMOV (R125). -/
def execDmov (d : Dst) (a : Src) (s : State) : Host.Outcome State Fault Refusal :=
  alu (form2 false d .w64 a .w64) s fun v => (v.a, 0)

/-- CVTIF (R129). -/
def execCvtif (d : Dst) (a : Src) (m : Rmu) (s : State) : Host.Outcome State Fault Refusal :=
  alu ((form2 false d .w32 a .w32).pushing .f32) s fun v => let r := cvtifOp m (lowWord v.a); (r.bits.setWidth 64, r.flags)

/-- CVTFI (R130). -/
def execCvtfi (d : Dst) (a : Src) (m : Rmu) (s : State) : Host.Outcome State Fault Refusal :=
  alu (form2 false d .w32 a .w32) s fun v => let r := cvtfiOp m (lowWord v.a); (r.bits.setWidth 64, r.flags)

/-- CVTDF (R129). -/
def execCvtdf (d : Dst) (a : Src) (m : Rmu) (s : State) : Host.Outcome State Fault Refusal :=
  alu ((form2 false d .w32 a .w64).pushing .f32) s fun v => let r := cvtdfOp m v.a; (r.bits.setWidth 64, r.flags)

/-- CVTFD (R130). -/
def execCvtfd (d : Dst) (a : Src) (m : Rmu) (s : State) : Host.Outcome State Fault Refusal :=
  alu (form2 false d .w64 a .w32) s fun v => cvtfdOp m (lowWord v.a)

/-- EXT (R127). -/
def execExt (d : Dst) (a : Src) (m : ExtMode) (s : State) : Host.Outcome State Fault Refusal :=
  alu2 (form2 false d .w32 a .w32) s (extOp m)

/-- DEXT (R127). -/
def execDext (d : Dst) (a : Src) (m : Sgn) (s : State) : Host.Outcome State Fault Refusal :=
  alu (form2 false d .w64 a .w32) s fun v => (dextOp m (lowWord v.a), 0)

/-- LDI (R126). -/
def execLdi (d : Dst) (imm : BitVec 17) (s : State) : Host.Outcome State Fault Refusal :=
  alu ((formJd false d .w32).pushing .untyped) s fun _ => ((imm.signExtend 32).setWidth 64, 0)

end Sys2Proof.Machine
end

