-- ==== Sys2Proof/Machine/LaneMemory.lean ====
section
/-! DEFINITION. The memory, fence, barrier and message instructions of the lane set (spec/09, spec/16, spec/21 to spec/23). -/

namespace Sys2Proof.Machine

/-- LDW (R172). -/
def execLdw (d : Dst) (a : Src) (b : Src) (l : Fin 8) (s : State) : Host.Outcome State Fault Refusal :=
  loadLabel false d a b l 4 s

/-- LDD (R172). -/
def execLdd (d : Dst) (a : Src) (b : Src) (l : Fin 8) (s : State) : Host.Outcome State Fault Refusal :=
  loadLabel false d a b l 8 s

/-- LDH (R172). -/
def execLdh (d : Dst) (a : Src) (b : Src) (l : Fin 8) (s : State) : Host.Outcome State Fault Refusal :=
  loadLabel false d a b l 2 s

/-- LDB (R172). -/
def execLdb (d : Dst) (a : Src) (b : Src) (l : Fin 8) (s : State) : Host.Outcome State Fault Refusal :=
  loadLabel false d a b l 1 s

/-- STW (R172). -/
def execStw (d : Dst) (a : Src) (b : Src) (l : Fin 8) (s : State) : Host.Outcome State Fault Refusal :=
  storeLabel false d a b l 4 s

/-- STD (R172). -/
def execStd (d : Dst) (a : Src) (b : Src) (l : Fin 8) (s : State) : Host.Outcome State Fault Refusal :=
  storeLabel false d a b l 8 s

/-- STH (R172). -/
def execSth (d : Dst) (a : Src) (b : Src) (l : Fin 8) (s : State) : Host.Outcome State Fault Refusal :=
  storeLabel false d a b l 2 s

/-- STB (R172). -/
def execStb (d : Dst) (a : Src) (b : Src) (l : Fin 8) (s : State) : Host.Outcome State Fault Refusal :=
  storeLabel false d a b l 1 s

/-- LDE (R173). -/
def execLde (d : Dst) (a : Src) (b : Src) (l : Fin 8) (s : State) : Host.Outcome State Fault Refusal :=
  loadElement d a b l s

/-- LDX (R172). -/
def execLdx (d : Dst) (a : Src) (b : Src) (s : State) : Host.Outcome State Fault Refusal :=
  loadExplicit false d a b s

/-- STX (R172). -/
def execStx (d : Dst) (a : Src) (b : Src) (s : State) : Host.Outcome State Fault Refusal :=
  storeExplicit false d a b s

/-- AADD (R174). -/
def execAadd (d : Dst) (a : Src) (b : Src) (l : Fin 8) (s : State) : Host.Outcome State Fault Refusal :=
  atomicLabel false d a b l .add 4 s

/-- AMAX (R174). -/
def execAmax (d : Dst) (a : Src) (b : Src) (l : Fin 8) (s : State) : Host.Outcome State Fault Refusal :=
  atomicLabel false d a b l .max 4 s

/-- AOR (R174). -/
def execAor (d : Dst) (a : Src) (b : Src) (l : Fin 8) (s : State) : Host.Outcome State Fault Refusal :=
  atomicLabel false d a b l .or 4 s

/-- AXCH (R174). -/
def execAxch (d : Dst) (a : Src) (b : Src) (l : Fin 8) (s : State) : Host.Outcome State Fault Refusal :=
  atomicLabel false d a b l .xch 4 s

/-- ACAS (R174). -/
def execAcas (d : Dst) (a : Src) (b : Src) (l : Fin 8) (s : State) : Host.Outcome State Fault Refusal :=
  atomicLabel false d a b l .cas 4 s

/-- AADDD (R174). -/
def execAaddd (d : Dst) (a : Src) (b : Src) (l : Fin 8) (s : State) : Host.Outcome State Fault Refusal :=
  atomicLabel false d a b l .add 8 s

/-- ACASD (R174). -/
def execAcasd (d : Dst) (a : Src) (b : Src) (l : Fin 8) (s : State) : Host.Outcome State Fault Refusal :=
  atomicLabel false d a b l .cas 8 s

/-- FENCE (R373). -/
def execFence (m : Scp) (s : State) : Host.Outcome State Fault Refusal :=
  fence false m s

/-- FENCEF (R399). -/
def execFencef (d : Dst) (a : Src) (b : Src) (l : Fin 8) (s : State) : Host.Outcome State Fault Refusal :=
  fencef false d a b l s

/-- WAITA (R284). -/
def execWaita (d : Dst) (a : Src) (b : Src) (l : Fin 8) (s : State) : Host.Outcome State Fault Refusal :=
  waita false d a b l s

/-- BARV (R282). -/
def execBarv (d : Dst) (a : Src) (b : Src) (s : State) : Host.Outcome State Fault Refusal :=
  barv false d a b s

/-- BARW (R283). -/
def execBarw (a : Src) (b : Src) (s : State) : Host.Outcome State Fault Refusal :=
  barw false a b s

/-- AMSG (R411). -/
def execAmsg (d : Dst) (a : Src) (b : Src) (s : State) : Host.Outcome State Fault Refusal :=
  amsg false d a b s

end Sys2Proof.Machine
end

