-- ==== Sys2Proof/Machine/Service.lean ====
section
/-! DEFINITION. Boot, clocks, storage errors, service commands and lifetime records (spec/18 R304, R305, spec/27 R446, spec/28 R448 to
R452). Units are numbered as `Service` says: clusters at 12 x die + cluster, memory links at 48 + n, Reach planes at 64 + n. An
event whose condition does not hold leaves the state as it is. -/

namespace Sys2Proof.Machine

/-! ### Storage errors (R304, R305) -/

/-- The teams that stand in the banks of cores. -/
def residentNames (s : State) (cs : List Nat) : List SliceName :=
  cs.flatMap fun c => (core s c).banks.flatMap fun b => b.teams.map fun t => t.2.name none

/-- Every started channel of a core frozen by a DIE_STOP (R304, R251). -/
def stopChannels (s : State) (c slice : Nat) : State :=
  (core s c).active.sluice.foldl (fun s x =>
    match teamAt s ⟨c, x.2.slot⟩ with
    | none => s
    | some tm =>
      if x.2.started && x.2.fault == .none then freezeChannel s c x.1 x.2 tm (512 * x.2.landed.length) 4 slice 0 else s) s

/-- DIE_STOP (R304): the die serves no access, and every master of it is frozen. A stop with no master leaves one record. DESIGN CHOICE (log
130): ADDR is 0, since a tag or waiter-table error names no line. -/
def stopDie (s : State) (slice : Nat) : State :=
  let d := slice / 384
  let cs := (List.range 96).map fun i => 96 * d + i
  let before := s.waiting.length
  let s := modDie s d fun k => { k with stopped := true }
  let s := (residentNames s cs).foldl (fun s w => freezeMaster s w 4 slice 0) s
  let s := cs.foldl (fun s c => stopChannels s c slice) s
  if s.waiting.length = before then
    { s with waiting := s.waiting ++ [⟨.owner, dieError s 4 d (slice % 384) 0 0, .nobody, false⟩] }
  else s

/-- UNCORRECTABLE_ERROR (R304): a clean line is refilled, a dirty one stands poisoned, a tag or waiter-table error stops the die, a
weight-store block stops each access that reads it. DESIGN CHOICE (log 130): WHO of the record of a poisoned line is 0, since no access made
the error. -/
def execUncorrectableError (e : StorageError) (s : State) : Host.Outcome State Fault Refusal :=
  .next <|
    match e with
    | .cleanLine _ => s
    | .dirtyLine n =>
      match Table.get s.lines n with
      | none => s
      | some l =>
        if !l.dirty then s
        else
          let h := homeSlice n
          { s with
            lines := Table.put s.lines n { l with poisoned := [0, 1, 2, 3] }
            waiting := s.waiting ++ [⟨.owner, dieError s 1 (h / 384) (h % 384) (128 * n) 0, .nobody, false⟩] }
    | .sliceTag h => if 1536 ≤ h ∨ (die s (h / 384)).stopped then s else stopDie s h
    | .weightBlock d wa =>
      if 4 ≤ d ∨ 402653184 ≤ wa then s
      else modDie s d fun k => if k.badBlocks.contains (wa / 64) then k else { k with badBlocks := k.badBlocks ++ [wa / 64] }

/-- DIE_RESET (R304): the die serves accesses again; its masters stay frozen until their owner acknowledges. -/
def execDieReset (d : Nat) (s : State) : Host.Outcome State Fault Refusal := .next <| modDie s d fun k => { k with stopped := false }

/-! ### Units (R451) -/

/-- The number that STATE shows (R450). -/
def UnitState.value : UnitState → Nat
  | .inService => 0 | .draining => 1 | .isolated => 2 | .testing => 3 | .failed => 4

/-- The unit that a command word names; none where KIND is reserved or UNIT is out of range (R450). -/
def commandUnit (v : DWord) : Option Nat :=
  let u := field v 55 48
  match field v 59 58 with
  | 0 => if u < 12 then some (12 * field v 57 56 + u) else none
  | 1 => if u < 16 then some (48 + u) else none
  | 2 => if u < 16 then some (64 + u) else none
  | _ => none

/-- The state with a unit's state changed, a unit in service unlisted. -/
def putUnit (s : State) (u : Nat) (x : UnitState) : State :=
  { s with service := { s.service with
      units := if x = .inService then Table.del s.service.units u else Table.put s.service.units u x } }

/-- The number of the state of the unit that SVCCMD names, as it is (R450); 0 with no unit named. -/
def namedState (s : State) : Nat :=
  match field s.regs.svcCmd 63 60, commandUnit s.regs.svcCmd with
  | 0, _ | 5, _ | _, none => 0
  | _, some u => (unitState s u).value

/-- SVCSTAT as it reads: BUSY, STATE, RESULT. -/
def svcStatWord (s : State) : DWord := s.regs.svcStat ||| BitVec.ofNat 64 (namedState s * 2 ^ 60)

/-- BUSY and RESULT of SVCSTAT for the command in SVCCMD (R450). -/
def reportService (s : State) (busy : Option Nat) (result : Nat) : State :=
  { s with
    regs := { s.regs with svcStat := BitVec.ofNat 64 (bitAt busy.isSome 63 + result * 2 ^ 56) }
    service := { s.service with busy := busy } }

/-- The gangs resident on a cluster stopped to be extracted; no fault of theirs waits (R451, R319). -/
def clearCluster (s : State) (n : Nat) : State :=
  (gangsOn s (clusterCores n)).foldl (fun s x =>
    modGang s x.1 x.2 fun g => if g.state = .resident then { g with state := .stopping, ready := none } else g) s

/-- A plane taken out of spraying, or put back, in both directions (R392); one that is put back is trained and in use (R393). -/
def drainPlane (s : State) (plane : Nat) (out : Bool) : State :=
  let f (l : LinkStatus) : LinkStatus := { l with drained := out, up := l.up || !out }
  modLink (modLink s (linkKey plane false) f) (linkKey plane true) f

/-- A unit leaves service (R451). -/
def drainUnit (s : State) (u : Nat) : State :=
  let s := putUnit s u .draining
  if u < 48 then clearCluster s u
  else if u < 64 then { s with service := { s.service with linkSince := some s.wall } }
  else drainPlane s (u - 64) true

/-- No team stands in any bank of a cluster, and none of a preloaded gang is to take its place there (R13). -/
def clusterEmpty (s : State) (n : Nat) : Bool :=
  (residentNames s (clusterCores n)).isEmpty &&
  s.gangs.all fun g => g.state != .preloaded || g.place.all fun t => !(clusterCores n).contains t.core

/-- A cluster's storage cleared as in step 2 of R434. Home slices belong to the die (R12) and keep serving. -/
def wipeCluster (s : State) (n : Nat) : State :=
  (clusterCores n).foldl (fun s c => putCore s c { Core.idle.tickCt s.clock with allow := [(31, Allowance.shared s.regs.icred)] }) s

/-- A unit returns to service, cleared; a memory link that does not train has failed (R451). -/
def restoreUnit (s : State) (u : Nat) (trains : Bool) : State :=
  if u < 48 then putUnit (wipeCluster s u) u .inService
  else if u < 64 then
    putUnit { s with service := { s.service with linkSince := none } } u (if trains then .inService else .failed)
  else putUnit (drainPlane s (u - 64) false) u .inService

/-- A memory link other than one is draining, isolated or testing. -/
def otherLinkOut (s : State) (u : Nat) : Bool :=
  (List.range 16).any fun n => 48 + n != u &&
    (match unitState s (48 + n) with
     | .draining | .isolated | .testing => true
     | .inService | .failed => false)

/-! ### Service commands (R450 to R452) -/

/-- A write of SVCCMD by a function, when its OP is `op`: refused as BAD_REQUEST, or carried out by `f`, which is given the unit. The
register keeps a running command's word, and of a word its fields: reserved bits are ignored and read 0 (R7). -/
def serviceCommand (s : State) (fn : Nat) (v : DWord) (op : Nat) (f : State → Nat → State) : State :=
  let code := field v 63 60
  if fn ≠ 0 ∨ !hostWrites s then s
  else if s.service.busy.isSome then reportService s s.service.busy 1
  else
    let s' := { s with regs := { s.regs with svcCmd := keepBits v 63 48 } }
    if code = 0 ∨ 5 < code then reportService s' none 1
    else if code ≠ op then s
    else if op = 5 then f s' 0
    else match commandUnit v with
      | none => reportService s' none 1
      | some u => f s' u

/-- DRAIN (R451). -/
def execDrain (fn : Nat) (v : DWord) (s : State) : Host.Outcome State Fault Refusal :=
  .next <| serviceCommand s fn v 1 fun s u =>
    if unitState s u ≠ .inService ∨ (48 ≤ u ∧ u < 64 ∧ otherLinkOut s u) then reportService s none 2
    else reportService (drainUnit s u) (some u) 0

/-- A draining unit has nothing left: no team on a cluster. -/
def drained (s : State) (u : Nat) : Bool := if u < 48 then clusterEmpty s u else true

/-- DRAIN_COMPLETE (R451): draining units with nothing left are ISOLATED; gangs whose placement ended since are extracted with the
rest. -/
def execDrainComplete (s : State) : Host.Outcome State Fault Refusal :=
  .next <|
    ((List.range 80).filter fun u => unitState s u == .draining).foldl (fun s u =>
      if drained s u then
        let s := putUnit s u .isolated
        if s.service.busy = some u then reportService s none 0 else s
      else clearCluster s u) s

/-- 50 ms in nominal ac cycles (R451, R97). -/
def linkBound : Nat := 52500000

/-- LINK_DRAIN_TIMEOUT (R451): 50 ms after its DRAIN, the link returns, or has failed. -/
def execLinkDrainTimeout (trains : Bool) (s : State) : Host.Outcome State Fault Refusal :=
  .next <|
    if (s.service.linkSince.map fun t => decide (s.wall < t + linkBound)).getD true then s
    else match (List.range 16).find? fun n =>
        match unitState s (48 + n) with
        | .draining | .isolated | .testing => true
        | .inService | .failed => false with
      | none => s
      | some n =>
        let u := 48 + n
        if s.service.busy = some u then reportService (restoreUnit s u trains) none 0
        else reportService (restoreUnit s u trains) s.service.busy (field s.regs.svcStat 59 56)

/-- TEST (R451): the unit tests itself. -/
def execTest (fn : Nat) (v : DWord) (s : State) : Host.Outcome State Fault Refusal :=
  .next <| serviceCommand s fn v 2 fun s u =>
    if unitState s u ≠ .isolated then reportService s none 2 else reportService (putUnit s u .testing) (some u) 0

/-- TEST_COMPLETE (R451): the unit is ISOLATED again, with DONE or TEST_FAIL. -/
def execTestComplete (passed : Bool) (s : State) : Host.Outcome State Fault Refusal :=
  .next <|
    match s.service.busy with
    | none => s
    | some u =>
      if unitState s u ≠ .testing then s else reportService (putUnit s u .isolated) none (if passed then 0 else 3)

/-- REPAIR (R451): spare rows take the place of faulty ones, which no program sees. -/
def execRepair (fn : Nat) (v : DWord) (spares : Bool) (s : State) : Host.Outcome State Fault Refusal :=
  .next <| serviceCommand s fn v 3 fun s u =>
    if unitState s u ≠ .isolated then reportService s none 2
    else reportService s none (if spares ∨ 64 ≤ u then 0 else 4)

/-- RETURN (R451). -/
def execReturnService (fn : Nat) (v : DWord) (trains : Bool) (s : State) : Host.Outcome State Fault Refusal :=
  .next <| serviceCommand s fn v 4 fun s u =>
    if unitState s u ≠ .isolated then reportService s none 2 else reportService (restoreUnit s u trains) none 0

/-- FWUPDATE (R452): the image in the mailbox buffer, verified as R431 says, replaces the stored one, and Saltin restarts into it. Everything
else goes on. -/
def execFwupdate (fn : Nat) (v : DWord) (s : State) : Host.Outcome State Fault Refusal :=
  .next <| serviceCommand s fn v 5 fun s _ =>
    let image := mailBytes s 0 0 4096
    if imageReason s.saltin image ≠ 0 then reportService s none 5
    else reportService { s with saltin := { s.saltin with stored := image } } (some firmwareUnit) 0

/-- The end of that restart: the new image runs, BUSY clears, and mailbox commands go on (log 126). -/
def endRestart (s : State) : State :=
  if s.service.busy = some firmwareUnit ∧ Config.restartOver s.clock.toNat = true then
    reportService { s with saltin := { s.saltin with svn := Config.imageSvn s.saltin.stored } } none 0
  else s

/-- MESH_CRC_FAILURE (R304): the hop is retired; clusters that can no longer be reached are drained. -/
def execMeshCrcFailure (d hop : Nat) (unreached : List Nat) (s : State) : Host.Outcome State Fault Refusal :=
  .next <|
    if 4 ≤ d ∨ (die s d).hops.contains hop then s
    else
      let s := modDie s d fun k => { k with hops := k.hops ++ [hop] }
      (unreached.filter fun n => decide (n < 48)).foldl (fun s n =>
        if unitState s n = .inService then drainUnit s n else s) s

/-! ### Clocks (R448) -/

/-- CLOCK_HALVE (R448): over-temperature, or a supply droop, which is counted. -/
def execClockHalve (droop : Bool) (s : State) : Host.Outcome State Fault Refusal :=
  .next { s with
    service := { s.service with halved := true, hotSince := s.wall }
    saltin := { s.saltin with droops := if droop then satUp s.saltin.droops else s.saltin.droops } }

/-- CLOCK_RESTORE (R448): 10 ms have passed without a droop, and with every temperature below 100 degrees (log 126). -/
def execClockRestore (s : State) : Host.Outcome State Fault Refusal :=
  .next <| if s.wall < s.service.hotSince + 10 * millisecond ∨ Config.cooled s.wall = false then s else { s with service := { s.service with halved := false } }

/-! ### Boot (R449) -/

/-- RESET (R449). -/
def execReset (s : State) : Host.Outcome State Fault Refusal := .next (resetPackage s)

/-- The stored image runs, or recovery is entered and the sequence stops (R431, R449). -/
def bootRom (s : State) : State :=
  if s.service.stage ≠ 1 ∨ s.saltin.inRecovery then s
  else
    let r := imageReason s.saltin s.saltin.stored
    if r = 0 then runImage s s.saltin.stored
    else { s with
      saltin := { s.saltin with inRecovery := true, rstat := rstatWord 1 r true }
      service := { s.service with fail := true } }

/-- ROM (R449). -/
def execRom (s : State) : Host.Outcome State Fault Refusal := .next (bootRom s)

/-- A unit that failed to train is ISOLATED. -/
def isolateUnits (s : State) (base n : Nat) (bits : Nat) : State :=
  (List.range n).foldl (fun s i => if bits.testBit i then putUnit s (base + i) .isolated else s) s

/-- A boot stage after the first (R449): what it does, or FAIL where it fails. A sequence that has failed has stopped. -/
def bootStage (s : State) (stage : Nat) (f : State → State) : State :=
  if s.service.stage ≠ stage ∨ s.service.fail = true then s
  else if Config.stageFails stage s.clock.toNat then { s with service := { s.service with fail := true } }
  else f s

/-- TRAIN (R449): the bits of `clusters`, `links` and `planes` name the units that failed to train; the other planes' links are up. -/
def bootTrain (clusters : BitVec 48) (links planes : BitVec 16) (s : State) : State :=
  bootStage s 2 fun s =>
    let s := isolateUnits (isolateUnits (isolateUnits s 0 48 clusters.toNat) 48 16 links.toNat) 64 16 planes.toNat
    let s := (List.range 16).foldl (fun s j =>
      let f (l : LinkStatus) : LinkStatus := { l with up := !planes.getLsbD j }
      modLink (modLink s (linkKey j false) f) (linkKey j true) f) s
    { s with service := { s.service with
        stage := 3, bootClus := clusters.setWidth 64, drainLink := links, drainPlane := planes } }

/-- TRAIN (R449). -/
def execTrain (clusters : BitVec 48) (links planes : BitVec 16) (s : State) : Host.Outcome State Fault Refusal :=
  .next (bootTrain clusters links planes s)

/-- The storage cleared, slot 0 keyed (R449, R434). -/
def bootClear (s : State) : State :=
  bootStage s 3 fun s =>
    let s := drawOwnerKey (wipeStorage s)
    { s with service := { s.service with stage := 4 } }

/-- CLEAR (R449). -/
def execClear (s : State) : Host.Outcome State Fault Refusal := .next (bootClear s)

/-- The host link is up: READY (R449). -/
def bootLink (s : State) : State := bootStage s 4 fun s => { s with service := { s.service with stage := 5 } }

/-- LINK (R449). -/
def execLink (s : State) : Host.Outcome State Fault Refusal := .next (bootLink s)

/-- POWER_LOSS (R446): the volatile state is lost, main memory with it; power comes back to a reset, and the cycle is counted. -/
def execPowerLoss (s : State) : Host.Outcome State Fault Refusal :=
  .next <|
    let s := resetPackage s
    { s with mem := [], sectorKeys := [], saltin := { s.saltin with powerCycles := satUp s.saltin.powerCycles } }

/-! ### Lifetime records (R446) -/

/-- A saturating sum in `w` bytes. -/
def satSum (w n k : Nat) : Nat := min (2 ^ (8 * w) - 1) (n + k)

/-- LIFETIME_RECORD_UPDATE (R446): what Saltin has measured since the last commitment: powered hours, seconds per temperature bin,
corrected errors by the index of their count (the counts stand in one row from offset 0x1C0 on). -/
def execLifetimeRecordUpdate (hours : Nat) (temps : List Nat) (corrected : List (Nat × Nat)) (s : State) :
    Host.Outcome State Fault Refusal :=
  let x := s.saltin
  .next { s with saltin := { x with
    hours := satSum 8 x.hours hours
    temps := ((List.range 32).zip temps).foldl (fun t p =>
      if p.2 = 0 then t else Table.put t p.1 (satSum 8 (Table.getD t p.1 0) p.2)) x.temps
    corrected := corrected.foldl (fun t p =>
      if 2456 ≤ p.1 ∨ p.2 = 0 then t else Table.put t p.1 (satSum 4 (Table.getD t p.1 0) p.2)) x.corrected } }

end Sys2Proof.Machine
end

