-- ==== Sys2Proof/Machine/TeamInt.lean ====
section
/-! DEFINITION. The same instructions in the team set (spec/07 R112, spec/13 R226). -/

namespace Sys2Proof.Machine

/-- TEAM_IADD (R113, R112). -/
def execTeamIadd (d : Dst) (a : Src) (b : Src) (m : Sat) (s : State) : Host.Outcome State Fault Refusal :=
  alu3 (form3 true d .w32 a .w32 b .w32) s (iaddOp m)

/-- TEAM_ISUB (R113, R112). -/
def execTeamIsub (d : Dst) (a : Src) (b : Src) (m : Sat) (s : State) : Host.Outcome State Fault Refusal :=
  alu3 (form3 true d .w32 a .w32 b .w32) s (isubOp m)

/-- TEAM_IMUL (R114, R112). -/
def execTeamImul (d : Dst) (a : Src) (b : Src) (s : State) : Host.Outcome State Fault Refusal :=
  alu3 (form3 true d .w32 a .w32 b .w32) s (· * ·)

/-- TEAM_IMULH (R114, R112). -/
def execTeamImulh (d : Dst) (a : Src) (b : Src) (m : Sgn) (s : State) : Host.Outcome State Fault Refusal :=
  alu3 (form3 true d .w32 a .w32 b .w32) s (imulhOp m)

/-- TEAM_IMAD (R114, R112). -/
def execTeamImad (d : Dst) (a : Src) (b : Src) (s : State) : Host.Outcome State Fault Refusal :=
  aluD (form3 true d .w32 a .w32 b .w32) s fun x y z => x * y + z

/-- TEAM_IDIV (R115, R112). -/
def execTeamIdiv (d : Dst) (a : Src) (b : Src) (m : Sgn) (s : State) : Host.Outcome State Fault Refusal :=
  alu3 (form3 true d .w32 a .w32 b .w32) s (idivOp m)

/-- TEAM_IREM (R115, R112). -/
def execTeamIrem (d : Dst) (a : Src) (b : Src) (m : Sgn) (s : State) : Host.Outcome State Fault Refusal :=
  alu3 (form3 true d .w32 a .w32 b .w32) s (iremOp m)

/-- TEAM_IMIN (R116, R112). -/
def execTeamImin (d : Dst) (a : Src) (b : Src) (m : Sgn) (s : State) : Host.Outcome State Fault Refusal :=
  alu3 (form3 true d .w32 a .w32 b .w32) s (iminOp m)

/-- TEAM_IMAX (R116, R112). -/
def execTeamImax (d : Dst) (a : Src) (b : Src) (m : Sgn) (s : State) : Host.Outcome State Fault Refusal :=
  alu3 (form3 true d .w32 a .w32 b .w32) s (imaxOp m)

/-- TEAM_IABS (R116, R112). -/
def execTeamIabs (d : Dst) (a : Src) (s : State) : Host.Outcome State Fault Refusal :=
  alu2 (form2 true d .w32 a .w32) s iabsOp

/-- TEAM_DADD (R117, R112). -/
def execTeamDadd (d : Dst) (a : Src) (b : Src) (s : State) : Host.Outcome State Fault Refusal :=
  alu (form3 true d .w64 a .w64 b .w64) s fun v => (v.a + v.b, 0)

/-- TEAM_DSUB (R117, R112). -/
def execTeamDsub (d : Dst) (a : Src) (b : Src) (s : State) : Host.Outcome State Fault Refusal :=
  alu (form3 true d .w64 a .w64 b .w64) s fun v => (v.a - v.b, 0)

/-- TEAM_DMUL (R117, R112). -/
def execTeamDmul (d : Dst) (a : Src) (b : Src) (s : State) : Host.Outcome State Fault Refusal :=
  alu (form3 true d .w64 a .w64 b .w64) s fun v => (v.a * v.b, 0)

/-- TEAM_DNEG (R117, R112). -/
def execTeamDneg (d : Dst) (a : Src) (s : State) : Host.Outcome State Fault Refusal :=
  alu (form2 true d .w64 a .w64) s fun v => (0 - v.a, 0)

/-- TEAM_AND (R118, R112). -/
def execTeamAnd (d : Dst) (a : Src) (b : Src) (s : State) : Host.Outcome State Fault Refusal :=
  alu3 (form3 true d .w32 a .w32 b .w32) s (· &&& ·)

/-- TEAM_OR (R118, R112). -/
def execTeamOr (d : Dst) (a : Src) (b : Src) (s : State) : Host.Outcome State Fault Refusal :=
  alu3 (form3 true d .w32 a .w32 b .w32) s (· ||| ·)

/-- TEAM_XOR (R118, R112). -/
def execTeamXor (d : Dst) (a : Src) (b : Src) (s : State) : Host.Outcome State Fault Refusal :=
  alu3 (form3 true d .w32 a .w32 b .w32) s (· ^^^ ·)

/-- TEAM_ANDN (R118, R112). -/
def execTeamAndn (d : Dst) (a : Src) (b : Src) (s : State) : Host.Outcome State Fault Refusal :=
  alu3 (form3 true d .w32 a .w32 b .w32) s fun x y => x &&& ~~~y

/-- TEAM_NOT (R118, R112). -/
def execTeamNot (d : Dst) (a : Src) (s : State) : Host.Outcome State Fault Refusal :=
  alu2 (form2 true d .w32 a .w32) s fun x => ~~~x

/-- TEAM_SHL (R119, R112). -/
def execTeamShl (d : Dst) (a : Src) (b : Src) (s : State) : Host.Outcome State Fault Refusal :=
  alu3 (form3 true d .w32 a .w32 b .w32) s shlOp

/-- TEAM_SHR (R119, R112). -/
def execTeamShr (d : Dst) (a : Src) (b : Src) (s : State) : Host.Outcome State Fault Refusal :=
  alu3 (form3 true d .w32 a .w32 b .w32) s shrOp

/-- TEAM_SAR (R119, R112). -/
def execTeamSar (d : Dst) (a : Src) (b : Src) (s : State) : Host.Outcome State Fault Refusal :=
  alu3 (form3 true d .w32 a .w32 b .w32) s sarOp

/-- TEAM_ROL (R119, R112). -/
def execTeamRol (d : Dst) (a : Src) (b : Src) (s : State) : Host.Outcome State Fault Refusal :=
  alu3 (form3 true d .w32 a .w32 b .w32) s rolOp

/-- TEAM_ROR (R119, R112). -/
def execTeamRor (d : Dst) (a : Src) (b : Src) (s : State) : Host.Outcome State Fault Refusal :=
  alu3 (form3 true d .w32 a .w32 b .w32) s rorOp

/-- TEAM_BFX (R121, R112). -/
def execTeamBfx (d : Dst) (a : Src) (b : Src) (m : Sgn) (s : State) : Host.Outcome State Fault Refusal :=
  alu3 (form3 true d .w32 a .w32 b .w32) s (bfxOp m)

/-- TEAM_BFI (R121, R112). -/
def execTeamBfi (d : Dst) (a : Src) (b : Src) (s : State) : Host.Outcome State Fault Refusal :=
  aluD (form3 true d .w32 a .w32 b .w32) s bfiOp

/-- TEAM_POPC (R122, R112). -/
def execTeamPopc (d : Dst) (a : Src) (s : State) : Host.Outcome State Fault Refusal :=
  alu2 (form2 true d .w32 a .w32) s popcOp

/-- TEAM_CLZ (R122, R112). -/
def execTeamClz (d : Dst) (a : Src) (s : State) : Host.Outcome State Fault Refusal :=
  alu2 (form2 true d .w32 a .w32) s clzOp

/-- TEAM_CTZ (R122, R112). -/
def execTeamCtz (d : Dst) (a : Src) (s : State) : Host.Outcome State Fault Refusal :=
  alu2 (form2 true d .w32 a .w32) s ctzOp

/-- TEAM_BREV (R122, R112). -/
def execTeamBrev (d : Dst) (a : Src) (s : State) : Host.Outcome State Fault Refusal :=
  alu2 (form2 true d .w32 a .w32) s brevOp

/-- TEAM_DSHL (R120, R112). -/
def execTeamDshl (d : Dst) (a : Src) (b : Src) (s : State) : Host.Outcome State Fault Refusal :=
  alu (form3 true d .w64 a .w64 b .w32) s fun v => (dshlOp v.a (lowWord v.b), 0)

/-- TEAM_DSHR (R120, R112). -/
def execTeamDshr (d : Dst) (a : Src) (b : Src) (m : Sgn) (s : State) : Host.Outcome State Fault Refusal :=
  alu (form3 true d .w64 a .w64 b .w32) s fun v => (dshrOp m v.a (lowWord v.b), 0)

/-- TEAM_ICMP (R123, R112). -/
def execTeamIcmp (d : Dst) (a : Src) (b : Src) (m : Icc) (s : State) : Host.Outcome State Fault Refusal :=
  alu3 (form3 true d .w32 a .w32 b .w32) s fun x y => truth (iccHolds m x y)

/-- TEAM_DCMP (R123, R112). -/
def execTeamDcmp (d : Dst) (a : Src) (b : Src) (m : Icc) (s : State) : Host.Outcome State Fault Refusal :=
  alu (form3 true d .w32 a .w64 b .w64) s fun v => ((truth (iccHolds m v.a v.b)).setWidth 64, 0)

/-- TEAM_SEL (R124, R112). -/
def execTeamSel (d : Dst) (a : Src) (b : Src) (s : State) : Host.Outcome State Fault Refusal :=
  aluD ((form3 true d .w32 a .w32 b .w32).pushing .untyped) s fun x y z => if z ≠ 0 then x else y

/-- TEAM_MOV (R125, R112). -/
def execTeamMov (d : Dst) (a : Src) (s : State) : Host.Outcome State Fault Refusal :=
  alu2 ((form2 true d .w32 a .w32).pushing .untyped) s fun x => x

/-- TEAM_DMOV (R125, R112). -/
def execTeamDmov (d : Dst) (a : Src) (s : State) : Host.Outcome State Fault Refusal :=
  alu (form2 true d .w64 a .w64) s fun v => (v.a, 0)

/-- TEAM_CVTIF (R129, R112). -/
def execTeamCvtif (d : Dst) (a : Src) (m : Rmu) (s : State) : Host.Outcome State Fault Refusal :=
  alu ((form2 true d .w32 a .w32).pushing .f32) s fun v => let r := cvtifOp m (lowWord v.a); (r.bits.setWidth 64, r.flags)

/-- TEAM_CVTFI (R130, R112). -/
def execTeamCvtfi (d : Dst) (a : Src) (m : Rmu) (s : State) : Host.Outcome State Fault Refusal :=
  alu (form2 true d .w32 a .w32) s fun v => let r := cvtfiOp m (lowWord v.a); (r.bits.setWidth 64, r.flags)

/-- TEAM_CVTDF (R129, R112). -/
def execTeamCvtdf (d : Dst) (a : Src) (m : Rmu) (s : State) : Host.Outcome State Fault Refusal :=
  alu ((form2 true d .w32 a .w64).pushing .f32) s fun v => let r := cvtdfOp m v.a; (r.bits.setWidth 64, r.flags)

/-- TEAM_CVTFD (R130, R112). -/
def execTeamCvtfd (d : Dst) (a : Src) (m : Rmu) (s : State) : Host.Outcome State Fault Refusal :=
  alu (form2 true d .w64 a .w32) s fun v => cvtfdOp m (lowWord v.a)

/-- TEAM_EXT (R127, R112). -/
def execTeamExt (d : Dst) (a : Src) (m : ExtMode) (s : State) : Host.Outcome State Fault Refusal :=
  alu2 (form2 true d .w32 a .w32) s (extOp m)

/-- TEAM_DEXT (R127, R112). -/
def execTeamDext (d : Dst) (a : Src) (m : Sgn) (s : State) : Host.Outcome State Fault Refusal :=
  alu (form2 true d .w64 a .w32) s fun v => (dextOp m (lowWord v.a), 0)

/-- TEAM_LDI (R126, R112). -/
def execTeamLdi (d : Dst) (imm : BitVec 17) (s : State) : Host.Outcome State Fault Refusal :=
  alu ((formJd true d .w32).pushing .untyped) s fun _ => ((imm.signExtend 32).setWidth 64, 0)

end Sys2Proof.Machine
end

