-- ==== Sys2Proof/Machine/TeamMemory.lean ====
section
/-! DEFINITION. The memory, fence, barrier and message instructions of the team set (spec/13 R237, spec/16, spec/21 to spec/23). -/

namespace Sys2Proof.Machine

/-- TEAM_LDW (R172, R237). -/
def execTeamLdw (d : Dst) (a : Src) (b : Src) (l : Fin 8) (s : State) : Host.Outcome State Fault Refusal :=
  loadLabel true d a b l 4 s

/-- TEAM_LDD (R172, R237). -/
def execTeamLdd (d : Dst) (a : Src) (b : Src) (l : Fin 8) (s : State) : Host.Outcome State Fault Refusal :=
  loadLabel true d a b l 8 s

/-- TEAM_STW (R172, R237). -/
def execTeamStw (d : Dst) (a : Src) (b : Src) (l : Fin 8) (s : State) : Host.Outcome State Fault Refusal :=
  storeLabel true d a b l 4 s

/-- TEAM_STD (R172, R237). -/
def execTeamStd (d : Dst) (a : Src) (b : Src) (l : Fin 8) (s : State) : Host.Outcome State Fault Refusal :=
  storeLabel true d a b l 8 s

/-- TEAM_LDX (R172, R237). -/
def execTeamLdx (d : Dst) (a : Src) (b : Src) (s : State) : Host.Outcome State Fault Refusal :=
  loadExplicit true d a b s

/-- TEAM_STX (R172, R237). -/
def execTeamStx (d : Dst) (a : Src) (b : Src) (s : State) : Host.Outcome State Fault Refusal :=
  storeExplicit true d a b s

/-- TEAM_AADD (R174, R237). -/
def execTeamAadd (d : Dst) (a : Src) (b : Src) (l : Fin 8) (s : State) : Host.Outcome State Fault Refusal :=
  atomicLabel true d a b l .add 4 s

/-- TEAM_AMAX (R174, R237). -/
def execTeamAmax (d : Dst) (a : Src) (b : Src) (l : Fin 8) (s : State) : Host.Outcome State Fault Refusal :=
  atomicLabel true d a b l .max 4 s

/-- TEAM_AXCH (R174, R237). -/
def execTeamAxch (d : Dst) (a : Src) (b : Src) (l : Fin 8) (s : State) : Host.Outcome State Fault Refusal :=
  atomicLabel true d a b l .xch 4 s

/-- TEAM_ACAS (R174, R237). -/
def execTeamAcas (d : Dst) (a : Src) (b : Src) (l : Fin 8) (s : State) : Host.Outcome State Fault Refusal :=
  atomicLabel true d a b l .cas 4 s

/-- TEAM_AADDD (R174, R237). -/
def execTeamAaddd (d : Dst) (a : Src) (b : Src) (l : Fin 8) (s : State) : Host.Outcome State Fault Refusal :=
  atomicLabel true d a b l .add 8 s

/-- TEAM_ACASD (R174, R237). -/
def execTeamAcasd (d : Dst) (a : Src) (b : Src) (l : Fin 8) (s : State) : Host.Outcome State Fault Refusal :=
  atomicLabel true d a b l .cas 8 s

/-- TEAM_FENCE (R373). -/
def execTeamFence (m : Scp) (s : State) : Host.Outcome State Fault Refusal :=
  fence true m s

/-- TEAM_FENCEF (R399). -/
def execTeamFencef (d : Dst) (a : Src) (b : Src) (l : Fin 8) (s : State) : Host.Outcome State Fault Refusal :=
  fencef true d a b l s

/-- TEAM_WAITA (R284). -/
def execTeamWaita (d : Dst) (a : Src) (b : Src) (l : Fin 8) (s : State) : Host.Outcome State Fault Refusal :=
  waita true d a b l s

/-- TEAM_BARV (R282). -/
def execTeamBarv (d : Dst) (a : Src) (b : Src) (s : State) : Host.Outcome State Fault Refusal :=
  barv true d a b s

/-- TEAM_BARW (R283). -/
def execTeamBarw (a : Src) (b : Src) (s : State) : Host.Outcome State Fault Refusal :=
  barw true a b s

/-- TEAM_AMSG (R411). -/
def execTeamAmsg (d : Dst) (a : Src) (b : Src) (s : State) : Host.Outcome State Fault Refusal :=
  amsg true d a b s

end Sys2Proof.Machine
end

