-- ==== Sys2Proof/Machine/TeamQueues.lean ====
section
/-! DEFINITION. The queue loads, the scatter and the label registers of the address slice (spec/13 R228 to R236). -/

namespace Sys2Proof.Machine

/-! ### Queue fields (R41, R228) -/

/-- The queue of a D field that must hold a forward queue of a kind (R41). -/
def queueDst (f : Form) (tm : Team) (sl : Slice) (lane : Bool) : Except Stop Unit :=
  match f.d with
  | .queue n =>
    stopIf ((tm.queueDecl false n.val).kind != (if lane then .lane else .uniform)) (fieldTrap f sl.pc .queueKind 1 f.d.code)
  | .reg _ | .zero => .error (fieldTrap f sl.pc .badOperand 1 f.d.code)

/-- The queue of a B field that must hold a back queue declared LANE (R41, R228). -/
def queueSrc (f : Form) (tm : Team) (sl : Slice) : Except Stop Unit :=
  match f.b with
  | .queue n => stopIf ((tm.queueDecl true n.val).kind != .lane) (fieldTrap f sl.pc .queueKind 3 f.b.code)
  | .reg _ | .lit _ | .lit64 _ | .zero => .error (fieldTrap f sl.pc .badOperand 3 f.b.code)

/-- The number of a queue field. -/
def Dst.queueNo : Dst → Nat
  | .queue n => n.val
  | .reg _ | .zero => 0

/-- The number of a queue field. -/
def Src.queueNo : Src → Nat
  | .queue n => n.val
  | .reg _ | .lit _ | .lit64 _ | .zero => 0

/-- A source's value where no pop has to give it, once no register of the instruction is pending. -/
def Src.readyValue (sl : Slice) (wd : Width) (a : Src) : Option DWord :=
  match a with
  | .queue _ => none
  | .reg n => some (sl.readReg wd n.val)
  | .lit w => some (if wd = .w64 then w.signExtend 64 else w.setWidth 64)
  | .lit64 v => some v
  | .zero => some 0

/-- A value that is there and is no multiple of 4. -/
def unaligned (v : Option DWord) : Bool :=
  match v with
  | none => false
  | some v => v.toNat % 4 != 0

/-- The MISALIGNED_ACCESS trap of an offset through a label word (R103). DESIGN CHOICE (log 32): of a queue load or QSTS whose stride alone
is misaligned, the offset is A2. -/
def misalignedAt (f : Form) (pc : Word) (off lw : DWord) : TrapInfo :=
  (TrapInfo.memory .misalignedAccess (nextPc pc f.len) lw off).traced {}

/-! ### Queue loads (R228, R229) -/

/-- An element that is to be loaded. -/
def pendingElem (lw off : DWord) : Elem := ⟨.pending, 0, lw, off, []⟩

/-- The elements of a queue load as they stand once it issues, or the state in which it waits: one through the slice's own registers or
stack takes what stands there now, for such accesses are ordered with operand use (R180, R224), or is to be poisoned when its turn comes. -/
def captureElem (f : Form) (r : Except State (State × List Elem)) (e : Elem) : Except State (State × List Elem) := do
  let (s, es) ← r
  let lab := labelAt e.lw 0
  if e.state != .pending || !(lab == 0xFF10 || lab == 0xFF11) then .ok (s, es ++ [e])
  else match sliceAt s s.cur with
    | none => .ok (s, es ++ [e])
    | some (tm, sl) =>
      let got (s : State) (bs : List Byte) : Except State (State × List Elem) :=
        .ok (s, es ++ [{ e with state := .arrived none, value := BitVec.ofNat 32 (natOfBytes bs) }])
      let fails (pf : PathFault) : Except State (State × List Elem) :=
        if pf.hold.isSome then .error (faultSlice s s.cur pf e.lw e.off 4 (nextPc sl.pc f.len))
        else .ok (s, es ++ [{ e with state := .failed (pf.poison none) }])
      match walkC s (askOf tm s.cur e.off 4 permR .plain) e.lw e.off (4 * sl.regs.length) with
      | .error pf => fails pf
      | .ok p =>
        match p.dest with
        | .regs o =>
          if windowPending s (tm.name none) o 4 then .error (waitPending s s.cur (tm.name none) (regsTouched o 4))
          else got s (readRegs sl o 4)
        | .stack o =>
          match loadStack s s.cur o 4 with
          | .error pf => fails pf
          | .ok (s, bs) => got s bs
        | _ => .ok (s, es ++ [e])

/-- The address slice makes a queue-load entry and completes (R229); `pop` is what it pops. -/
def allocate (s : State) (f : Form) (sl : Slice) (v : Vals) (elems : List Elem) (pop : State → State) : State :=
  match elems.foldl (captureElem f) (.ok (s, [])) with
  | .error s => s
  | .ok (s, es) =>
    finishNone v (nextPc sl.pc f.len) (modTeam (pop s) (teamIdOf s.cur) fun tm =>
      { tm.addForward (Dst.queueNo f.d) ⟨es, none, sl.pc, some tm.loads⟩ with loads := tm.loads + 1 })

/-- The checks of QLD and QLDU before their pops (R41, R235, R209, R229): the offset that a misaligned operand's record shows is that
of the first element, or A2 where B is a pop that has not been made (log 32). -/
def queueLoadChecks (s : State) (f : Form) (l : Fin 8) (lane : Bool) (tm : Team) (sl : Slice) : Except Stop Unit := do
  queueDst f tm sl lane
  heldByLabel s true tm l
  stopIf (Form.pending s (tm.name none) f) (.wait .depend)
  let a := (Src.readyValue sl .w64 f.a).getD 0
  let b := Src.readyValue sl .w32 f.b
  let off := if lane then a else a + (lowWord (b.getD 0)).signExtend 64
  stopIf (a.toNat % 4 != 0 || unaligned b) (.trap (misalignedAt f sl.pc off (tm.label l)))

/-- A queue load waits until an entry of its queue retires (R188). -/
def waitRoom (s : State) (tm : Team) (q : Nat) : State := parkSlice s s.cur (.room q (tm.fqueue q).made)

/-- QLD and QLDU (R228, R229). -/
def queueLoad (d : Dst) (a b : Src) (l : Fin 8) (lane : Bool) (s : State) : Host.Outcome State Fault Refusal :=
  let f := (form3 true d .w32 a .w64 b .w32).as (if lane then .none else .queue)
  runOwn f s (queueLoadChecks s f l lane) fun tm sl v =>
    let lw := tm.label l
    let off := if lane then v.a else offDisp v
    if v.b.toNat % 4 != 0 then trapSlice s s.cur (misalignedAt f sl.pc off lw)
    else if tm.forwardFull (Dst.queueNo d) then waitRoom s tm (Dst.queueNo d)
    else if lane then
      let step := (lowWord v.b).signExtend 64
      allocate s f sl v ((List.range tm.decl.strands).map fun i => pendingElem lw (v.a + BitVec.ofNat 64 i * step)) id
    else allocate s f sl v [pendingElem lw off] id

/-- QLD (R228). -/
def execQld (d : Dst) (a b : Src) (l : Fin 8) (s : State) : Host.Outcome State Fault Refusal := queueLoad d a b l true s

/-- QLDU (R228). -/
def execQldu (d : Dst) (a b : Src) (l : Fin 8) (s : State) : Host.Outcome State Fault Refusal := queueLoad d a b l false s

/-- The element that strand i has in a back-queue entry. -/
def present (cs : List Contribution) (i : Nat) : Option Word := (cs.find? fun c => c.strand == i).map Contribution.value

/-- The team's back queue of a LANE entry is popped by the address slice, its time merged (R191, R365). -/
def popLane (s : State) (b : Nat) : State :=
  match teamAt s (teamIdOf s.cur) with
  | none => s
  | some tm => mergeStamp (modTeam s (teamIdOf s.cur) fun tm => tm.popBack b) s.cur.core (tm.backTs b 0)

/-- QLDG (R228 to R230). -/
def execQldg (d : Dst) (a b : Src) (l : Fin 8) (s : State) : Host.Outcome State Fault Refusal :=
  let f := { (form3 true d .w32 a .w64 b .w32).as .none with bq := true }
  let own (tm : Team) (sl : Slice) : Except Stop Unit := do
    queueDst f tm sl true
    queueSrc f tm sl
    heldByLabel s true tm l
    stopIf (Form.pending s (tm.name none) f) (.wait .depend)
    let base := (Src.readyValue sl .w64 a).getD 0
    stopIf (base.toNat % 4 != 0) (.trap (misalignedAt f sl.pc base (tm.label l)))
  runOwn f s own fun tm sl v =>
    let q := Src.queueNo b
    if !tm.backComplete q 0 then stopAt s s.cur f (.backq [q])
    else if tm.forwardFull (Dst.queueNo d) then waitRoom s tm (Dst.queueNo d)
    else
      let cs := tm.contributions q 0
      let elem (i : Nat) : Elem :=
        match present cs i with
        | none => ⟨.performed, 0, tm.label l, 0, []⟩
        | some x => pendingElem (tm.label l) (v.a + 4 * x.signExtend 64)
      allocate s f sl v ((List.range tm.decl.strands).map elem) fun s => popLane s q

/-! ### The scatter (R231) -/

/-- The stores of a scatter: offset and value of each element present, ascending. -/
def scatterList (tm : Team) (q : Nat) (base step : DWord) : List (DWord × Word) :=
  (List.range tm.decl.strands).filterMap fun i =>
    (present (tm.contributions q 0) i).map fun x => (base + BitVec.ofNat 64 i * step, x)

/-- An element's store. -/
def scatterOp (x : Word) : MemOp :=
  { kind := .store, size := 4, need := permW, align := 4, bytes := bytesOfNat 4 x.toNat }

/-- An element walked through the stations, its stack line filled (R223, R231). -/
def scatterWalk (s : State) (off : DWord) (x : Word) (lw : DWord) : Except AccessStop (State × Scattered) := do
  match sliceAt s s.cur with
  | none => .error .misaligned
  | some (tm, sl) =>
    let p ← accessPath s s.cur tm sl lw off (scatterOp x)
    match p.dest with
    | .stack o =>
      match openStack s s.cur o true with
      | .error pf => .error (.fault pf)
      | .ok (s, _) => .ok (s, ⟨off, x, p, false⟩)
    | _ => .ok (s, ⟨off, x, p, false⟩)

/-- Every element walked in ascending order, or the lowest that meets a trap (R231). -/
def walkScatter (lw : DWord) : List (DWord × Word) → State → Except (DWord × AccessStop) (State × List Scattered)
  | [], s => .ok (s, [])
  | (off, x) :: rest, s =>
    match scatterWalk s off x lw with
    | .error st => .error (off, st)
    | .ok (s, y) => (walkScatter lw rest s).map fun r => (r.1, y :: r.2)

/-- The pending registers that elements through the slice's register window meet (R209, R224). -/
def scatterPending (s : State) (w : SliceName) (ys : List Scattered) : List Nat :=
  ys.flatMap fun y =>
    match y.path.dest with
    | .regs o => (regsTouched o 4).filter (regPending s w)
    | _ => []

/-- An element through one of the slice's own windows. -/
def Scattered.own (y : Scattered) : Bool :=
  match y.path.dest with
  | .regs _ | .stack _ => true
  | .scratch _ _ | .weight _ _ | .main _ _ _ _ | .host _ | .fabric _ _ | .window _ _ _ _ => false

/-- The elements through the slice's own windows written, or the lowest whose stack line cannot be had. -/
def scatterOwn : List Scattered → State → Except (DWord × PathFault) State
  | [], s => .ok s
  | y :: rest, s =>
    let bs := bytesOfNat 4 y.value.toNat
    match y.path.dest with
    | .regs o => scatterOwn rest (modSlice s s.cur fun sl => writeRegs sl o bs)
    | .stack o =>
      match storeStack s s.cur o bs with
      | .error pf => .error (y.off, pf)
      | .ok s => scatterOwn rest s
    | _ => scatterOwn rest s

/-- How the elements of a scatter stand after a try: the state, those that are left, and what the first of these waits for. -/
structure ScatterTry where
  s : State
  left : List Scattered
  charge : Bool
  deriving DecidableEq, Repr

/-- Elements accepted by the stations in order, each that leaves the package charged as it does (R231, R404), until one waits. -/
def scatterOut (next : Word) (lw : DWord) : List Scattered → State → ScatterTry
  | [], s => ⟨s, [], false⟩
  | y :: rest, s =>
    match sliceAt s s.cur with
    | none => ⟨s, [], false⟩
    | some (tm, sl) =>
      if fabricWaits s (tm.name none) y.path y.off then ⟨s, y :: rest, false⟩
      else match chargeFor s s.cur tm.world y.path with
        | (none, s) => ⟨s, y :: rest, true⟩
        | (some (s, al), _) =>
          scatterOut next lw rest
            (accept s (tm.name none) tm.world s.cur.core sl.pc next (scatterOp y.value) y.path lw y.off [] al).1

/-- An element of a scatter that a LINV has made stale since its gang or its team was stopped walks afresh (R405; log 35). -/
def scatterFresh (lw : DWord) : List Scattered → State → Except (DWord × AccessStop) (State × List Scattered)
  | [], s => .ok (s, [])
  | y :: rest, s =>
    if !y.fresh then (scatterFresh lw rest s).map fun r => (r.1, y :: r.2)
    else match scatterWalk s y.off y.value lw with
      | .error st => .error (y.off, st)
      | .ok (s, z) => (scatterFresh lw rest s).map fun r => (r.1, z :: r.2)

/-- The scatter's instruction after a try: complete, or waiting with what is left, of which at least one element has been accepted. -/
def scatterEnd (s : State) (next : Word) (q : Nat) (v : Vals) (r : ScatterTry) : State :=
  if r.left = [] then finishNone v next (popLane r.s q)
  else
    let s' := modSlice r.s s.cur fun sl => { sl with scatter := r.left }
    if r.charge then parkSlice s' s.cur .allowance else waitSlice s' s.cur .memory

/-- QSTS's elements walked all before any is accepted (R231); those of the slice's own windows are written with the first that is. -/
def scatterFirst (s : State) (q : Nat) (lw : DWord) (next : Word) (v : Vals) (ys : List Scattered) : State :=
  let out := ys.filter fun y => !y.own
  match scatterOwn ys s with
  | .error (off, pf) => faultSlice s s.cur pf lw off 4 next
  | .ok s' =>
    let r := scatterOut next lw out s'
    if r.left = out ∧ out ≠ [] then
      let r := scatterOut next lw out s
      if r.charge then parkSlice r.s s.cur .allowance else waitSlice r.s s.cur .memory
    else scatterEnd s next q v r

/-- QSTS goes on with the elements that its earlier tries have left (log 35). -/
def scatterRest (s : State) (q : Nat) (lw : DWord) (next : Word) (v : Vals) (ys : List Scattered) : State :=
  match scatterFresh lw ys s with
  | .error (off, st) => stopAccess s s.cur st lw off 4 next
  | .ok (s', ys) => scatterEnd s next q v (scatterOut next lw ys s')

/-- QSTS (R231). -/
def execQsts (d : Dst) (a b : Src) (l : Fin 8) (s : State) : Host.Outcome State Fault Refusal :=
  let f := { (form3 true d .w32 a .w64 b .w32).as .read with bq := true }
  let own (tm : Team) (sl : Slice) : Except Stop Unit := do
    queueSrc f tm sl
    heldByLoads true tm
    heldByLabel s true tm l
    stopIf (Form.pending s (tm.name none) f) (.wait .depend)
    let base := (Src.readyValue sl .w64 a).getD 0
    stopIf (base.toNat % 4 != 0 || (Dst.value sl .w32 d).toNat % 4 != 0) (.trap (misalignedAt f sl.pc base (tm.label l)))
  runOwn f s own fun tm sl v =>
    let q := Src.queueNo b
    let lw := tm.label l
    let w := tm.name none
    let next := nextPc sl.pc f.len
    if !tm.backComplete q 0 then stopAt s s.cur f (.backq [q])
    else if sl.scatter != [] then scatterRest s q lw next v sl.scatter
    else match walkScatter lw (scatterList tm q v.a ((lowWord v.d).signExtend 64)) s with
      | .error (off, st) => stopAccess s s.cur st lw off 4 next
      | .ok (s, ys) =>
        if scatterPending s w ys ≠ [] then waitPending s s.cur w (scatterPending s w ys)
        else scatterFirst s q lw next v ys

/-! ### Label registers (R233 to R235) -/

/-- SETL (R233). -/
def execSetl (a : Src) (l : Fin 8) (s : State) : Host.Outcome State Fault Refusal :=
  let f : Form := { team := true, len := 1 + Src.lits a, role := .none, a := a, aw := .w64 }
  runOwn f s (fun tm _ => heldByLabel s true tm l) fun _ sl v =>
    finishNone v (nextPc sl.pc f.len) (modTeam s (teamIdOf s.cur) fun tm => { tm with labels := tm.labels.set l.val v.a })

/-- GETL (R233). -/
def execGetl (d : Dst) (l : Fin 8) (s : State) : Host.Outcome State Fault Refusal :=
  let f : Form := { team := true, len := 1, d := d, dw := .w64 }
  runOwn f s (fun tm _ => heldByLabel s true tm l) fun tm sl v => finish f sl v (tm.label l) 0 s

/-- The label word with a position replaced (R234). -/
def mklOp (m : Pos) (x : Word) (d : DWord) : DWord :=
  setLabel d (match m with
    | .p1 => 0
    | .p2 => 1
    | .p3 => 2
    | .p4 => 3) x.toNat

/-- MKL (R234). -/
def execMkl (d : Dst) (a : Src) (m : Pos) (s : State) : Host.Outcome State Fault Refusal :=
  alu ((form2 true d .w64 a .w32).as .both) s fun v => (mklOp m (lowWord v.a) v.d, 0)

/-- LDL (R235): A2 the offset, B2 the label word of the access. -/
def execLdl (a b : Src) (l : Fin 8) (s : State) : Host.Outcome State Fault Refusal :=
  let f := formAB true a .w64 b .w64
  runOwn f s (fun tm _ => do heldByLoads true tm; heldByLabel s true tm l) fun tm sl v =>
    issueAccess s f tm sl v { kind := .load, size := 8, need := permR, align := 8, sink := .label l.val } v.b v.a

/-! ### QOCC (R232) -/

/-- The queue that QOCC's IMM17 names: whether a back queue, and its number. -/
def qoccQueue (imm : BitVec 17) : Bool × Nat := if imm.toNat < 8 then (false, imm.toNat) else (true, imm.toNat - 8)

/-- An encoding trap that QOCC's IMM17 decides (R232, R453). -/
def qoccTrap (pc : Word) (c : Cause) (imm : BitVec 17) : Stop :=
  .trap { cause := c, field := 5, next := nextPc pc 1, info0 := imm.setWidth 64 }

/-- QOCC (R232). -/
def execQocc (d : Dst) (imm : BitVec 17) (s : State) : Host.Outcome State Fault Refusal :=
  let f := formJd true d .w32
  let q := qoccQueue imm
  let own (tm : Team) (sl : Slice) : Except Stop Unit := do
    stopIf (decide (10 ≤ imm.toNat)) (qoccTrap sl.pc .badOperand imm)
    stopIf (queueUndeclared tm q.1 q.2) (qoccTrap sl.pc .queueUndeclared imm)
  runOwn f s own fun tm sl v =>
    let dec := tm.queueDecl q.1 q.2
    let n := if q.1 then tm.backReady q.2 else (tm.fqueue q.2).entries.length
    finish f sl v (BitVec.ofNat 64 (bitAt (dec.kind == .lane) 31 + dec.depth % 128 * 256 + n % 128)) 0 s

end Sys2Proof.Machine
end

