-- ==== Sys2Proof/Machine/Dispatch.lean ====
section
/-! DEFINITION. Which meaning each constructor of `Instr` has, one arm each. -/

namespace Sys2Proof.Machine

/-- The meaning of an instruction or step at a state. -/
def exec (i : Instr) (s : State) : Host.Outcome State Fault Refusal :=
  match i with
  | .iadd d a b m => Sys2Proof.Machine.execIadd d a b m s
  | .isub d a b m => Sys2Proof.Machine.execIsub d a b m s
  | .imul d a b => Sys2Proof.Machine.execImul d a b s
  | .imulh d a b m => Sys2Proof.Machine.execImulh d a b m s
  | .imad d a b => Sys2Proof.Machine.execImad d a b s
  | .idiv d a b m => Sys2Proof.Machine.execIdiv d a b m s
  | .irem d a b m => Sys2Proof.Machine.execIrem d a b m s
  | .imin d a b m => Sys2Proof.Machine.execImin d a b m s
  | .imax d a b m => Sys2Proof.Machine.execImax d a b m s
  | .iabs d a => Sys2Proof.Machine.execIabs d a s
  | .dadd d a b => Sys2Proof.Machine.execDadd d a b s
  | .dsub d a b => Sys2Proof.Machine.execDsub d a b s
  | .dmul d a b => Sys2Proof.Machine.execDmul d a b s
  | .dneg d a => Sys2Proof.Machine.execDneg d a s
  | .and d a b => Sys2Proof.Machine.execAnd d a b s
  | .or d a b => Sys2Proof.Machine.execOr d a b s
  | .xor d a b => Sys2Proof.Machine.execXor d a b s
  | .andn d a b => Sys2Proof.Machine.execAndn d a b s
  | .not d a => Sys2Proof.Machine.execNot d a s
  | .shl d a b => Sys2Proof.Machine.execShl d a b s
  | .shr d a b => Sys2Proof.Machine.execShr d a b s
  | .sar d a b => Sys2Proof.Machine.execSar d a b s
  | .rol d a b => Sys2Proof.Machine.execRol d a b s
  | .ror d a b => Sys2Proof.Machine.execRor d a b s
  | .bfx d a b m => Sys2Proof.Machine.execBfx d a b m s
  | .bfi d a b => Sys2Proof.Machine.execBfi d a b s
  | .popc d a => Sys2Proof.Machine.execPopc d a s
  | .clz d a => Sys2Proof.Machine.execClz d a s
  | .ctz d a => Sys2Proof.Machine.execCtz d a s
  | .brev d a => Sys2Proof.Machine.execBrev d a s
  | .dshl d a b => Sys2Proof.Machine.execDshl d a b s
  | .dshr d a b m => Sys2Proof.Machine.execDshr d a b m s
  | .icmp d a b m => Sys2Proof.Machine.execIcmp d a b m s
  | .dcmp d a b m => Sys2Proof.Machine.execDcmp d a b m s
  | .sel d a b => Sys2Proof.Machine.execSel d a b s
  | .mov d a => Sys2Proof.Machine.execMov d a s
  | .dmov d a => Sys2Proof.Machine.execDmov d a s
  | .sread d imm => Sys2Proof.Machine.execSread d imm s
  | .swrite a imm => Sys2Proof.Machine.execSwrite a imm s
  | .cvtif d a m => Sys2Proof.Machine.execCvtif d a m s
  | .cvtfi d a m => Sys2Proof.Machine.execCvtfi d a m s
  | .cvtdf d a m => Sys2Proof.Machine.execCvtdf d a m s
  | .cvtfd d a m => Sys2Proof.Machine.execCvtfd d a m s
  | .ext d a m => Sys2Proof.Machine.execExt d a m s
  | .dext d a m => Sys2Proof.Machine.execDext d a m s
  | .ldi d imm => Sys2Proof.Machine.execLdi d imm s
  | .alwr d a => Sys2Proof.Machine.execAlwr d a s
  | .bra imm => Sys2Proof.Machine.execBra imm s
  | .bnz a imm => Sys2Proof.Machine.execBnz a imm s
  | .bz a imm => Sys2Proof.Machine.execBz a imm s
  | .call imm => Sys2Proof.Machine.execCall imm s
  | .callr a => Sys2Proof.Machine.execCallr a s
  | .jmpr a => Sys2Proof.Machine.execJmpr a s
  | .ret => Sys2Proof.Machine.execRet s
  | .exit => Sys2Proof.Machine.execExit s
  | .trap imm => Sys2Proof.Machine.execTrap imm s
  | .bkpt imm => Sys2Proof.Machine.execBkpt imm s
  | .yield => Sys2Proof.Machine.execYield s
  | .nop => Sys2Proof.Machine.execNop s
  | .balw a imm => Sys2Proof.Machine.execBalw a imm s
  | .fadd d a b m => Sys2Proof.Machine.execFadd d a b m s
  | .fsub d a b m => Sys2Proof.Machine.execFsub d a b m s
  | .fmul d a b m => Sys2Proof.Machine.execFmul d a b m s
  | .fmin d a b => Sys2Proof.Machine.execFmin d a b s
  | .fmax d a b => Sys2Proof.Machine.execFmax d a b s
  | .fabs d a => Sys2Proof.Machine.execFabs d a s
  | .fmac d a b m => Sys2Proof.Machine.execFmac d a b m s
  | .fnmac d a b m => Sys2Proof.Machine.execFnmac d a b m s
  | .fdiv d a b m => Sys2Proof.Machine.execFdiv d a b m s
  | .fsqrt d a m => Sys2Proof.Machine.execFsqrt d a m s
  | .frcp d a => Sys2Proof.Machine.execFrcp d a s
  | .frsq d a => Sys2Proof.Machine.execFrsq d a s
  | .fexp2 d a => Sys2Proof.Machine.execFexp2 d a s
  | .flog2 d a => Sys2Proof.Machine.execFlog2 d a s
  | .fneg d a => Sys2Proof.Machine.execFneg d a s
  | .fcmp d a b m => Sys2Proof.Machine.execFcmp d a b m s
  | .fclass d a => Sys2Proof.Machine.execFclass d a s
  | .frnd d a m => Sys2Proof.Machine.execFrnd d a m s
  | .cvtbf d a m => Sys2Proof.Machine.execCvtbf d a m s
  | .cvtfb d a => Sys2Proof.Machine.execCvtfb d a s
  | .cvte4 d a m => Sys2Proof.Machine.execCvte4 d a m s
  | .cvte5 d a m => Sys2Proof.Machine.execCvte5 d a m s
  | .cvt4f d a => Sys2Proof.Machine.execCvt4f d a s
  | .cvt5f d a => Sys2Proof.Machine.execCvt5f d a s
  | .qnt8 d a b m => Sys2Proof.Machine.execQnt8 d a b m s
  | .dq8 d a b => Sys2Proof.Machine.execDq8 d a b s
  | .qnt4 d a b m => Sys2Proof.Machine.execQnt4 d a b m s
  | .dq4 d a b => Sys2Proof.Machine.execDq4 d a b s
  | .bpack d a m => Sys2Proof.Machine.execBpack d a m s
  | .bunpk d a m => Sys2Proof.Machine.execBunpk d a m s
  | .fscl d a b m => Sys2Proof.Machine.execFscl d a b m s
  | .setc a => Sys2Proof.Machine.execSetc a s
  | .join => Sys2Proof.Machine.execJoin s
  | .shfl d a b m => Sys2Proof.Machine.execShfl d a b m s
  | .vote d a m => Sys2Proof.Machine.execVote d a m s
  | .sift d a => Sys2Proof.Machine.execSift d a s
  | .credf d a m => Sys2Proof.Machine.execCredf d a m s
  | .credi d a m => Sys2Proof.Machine.execCredi d a m s
  | .ldw d a b l => Sys2Proof.Machine.execLdw d a b l s
  | .ldd d a b l => Sys2Proof.Machine.execLdd d a b l s
  | .ldh d a b l => Sys2Proof.Machine.execLdh d a b l s
  | .ldb d a b l => Sys2Proof.Machine.execLdb d a b l s
  | .stw d a b l => Sys2Proof.Machine.execStw d a b l s
  | .std d a b l => Sys2Proof.Machine.execStd d a b l s
  | .sth d a b l => Sys2Proof.Machine.execSth d a b l s
  | .stb d a b l => Sys2Proof.Machine.execStb d a b l s
  | .lde d a b l => Sys2Proof.Machine.execLde d a b l s
  | .ldx d a b => Sys2Proof.Machine.execLdx d a b s
  | .stx d a b => Sys2Proof.Machine.execStx d a b s
  | .aadd d a b l => Sys2Proof.Machine.execAadd d a b l s
  | .amax d a b l => Sys2Proof.Machine.execAmax d a b l s
  | .aor d a b l => Sys2Proof.Machine.execAor d a b l s
  | .axch d a b l => Sys2Proof.Machine.execAxch d a b l s
  | .acas d a b l => Sys2Proof.Machine.execAcas d a b l s
  | .aaddd d a b l => Sys2Proof.Machine.execAaddd d a b l s
  | .acasd d a b l => Sys2Proof.Machine.execAcasd d a b l s
  | .fence m => Sys2Proof.Machine.execFence m s
  | .fencef d a b l => Sys2Proof.Machine.execFencef d a b l s
  | .waita d a b l => Sys2Proof.Machine.execWaita d a b l s
  | .barv d a b => Sys2Proof.Machine.execBarv d a b s
  | .barw a b => Sys2Proof.Machine.execBarw a b s
  | .amsg d a b => Sys2Proof.Machine.execAmsg d a b s
  | .teamIadd d a b m => Sys2Proof.Machine.execTeamIadd d a b m s
  | .teamIsub d a b m => Sys2Proof.Machine.execTeamIsub d a b m s
  | .teamImul d a b => Sys2Proof.Machine.execTeamImul d a b s
  | .teamImulh d a b m => Sys2Proof.Machine.execTeamImulh d a b m s
  | .teamImad d a b => Sys2Proof.Machine.execTeamImad d a b s
  | .teamIdiv d a b m => Sys2Proof.Machine.execTeamIdiv d a b m s
  | .teamIrem d a b m => Sys2Proof.Machine.execTeamIrem d a b m s
  | .teamImin d a b m => Sys2Proof.Machine.execTeamImin d a b m s
  | .teamImax d a b m => Sys2Proof.Machine.execTeamImax d a b m s
  | .teamIabs d a => Sys2Proof.Machine.execTeamIabs d a s
  | .teamDadd d a b => Sys2Proof.Machine.execTeamDadd d a b s
  | .teamDsub d a b => Sys2Proof.Machine.execTeamDsub d a b s
  | .teamDmul d a b => Sys2Proof.Machine.execTeamDmul d a b s
  | .teamDneg d a => Sys2Proof.Machine.execTeamDneg d a s
  | .teamAnd d a b => Sys2Proof.Machine.execTeamAnd d a b s
  | .teamOr d a b => Sys2Proof.Machine.execTeamOr d a b s
  | .teamXor d a b => Sys2Proof.Machine.execTeamXor d a b s
  | .teamAndn d a b => Sys2Proof.Machine.execTeamAndn d a b s
  | .teamNot d a => Sys2Proof.Machine.execTeamNot d a s
  | .teamShl d a b => Sys2Proof.Machine.execTeamShl d a b s
  | .teamShr d a b => Sys2Proof.Machine.execTeamShr d a b s
  | .teamSar d a b => Sys2Proof.Machine.execTeamSar d a b s
  | .teamRol d a b => Sys2Proof.Machine.execTeamRol d a b s
  | .teamRor d a b => Sys2Proof.Machine.execTeamRor d a b s
  | .teamBfx d a b m => Sys2Proof.Machine.execTeamBfx d a b m s
  | .teamBfi d a b => Sys2Proof.Machine.execTeamBfi d a b s
  | .teamPopc d a => Sys2Proof.Machine.execTeamPopc d a s
  | .teamClz d a => Sys2Proof.Machine.execTeamClz d a s
  | .teamCtz d a => Sys2Proof.Machine.execTeamCtz d a s
  | .teamBrev d a => Sys2Proof.Machine.execTeamBrev d a s
  | .teamDshl d a b => Sys2Proof.Machine.execTeamDshl d a b s
  | .teamDshr d a b m => Sys2Proof.Machine.execTeamDshr d a b m s
  | .teamIcmp d a b m => Sys2Proof.Machine.execTeamIcmp d a b m s
  | .teamDcmp d a b m => Sys2Proof.Machine.execTeamDcmp d a b m s
  | .teamSel d a b => Sys2Proof.Machine.execTeamSel d a b s
  | .teamMov d a => Sys2Proof.Machine.execTeamMov d a s
  | .teamDmov d a => Sys2Proof.Machine.execTeamDmov d a s
  | .teamSread d imm => Sys2Proof.Machine.execTeamSread d imm s
  | .teamSwrite a imm => Sys2Proof.Machine.execTeamSwrite a imm s
  | .teamCvtif d a m => Sys2Proof.Machine.execTeamCvtif d a m s
  | .teamCvtfi d a m => Sys2Proof.Machine.execTeamCvtfi d a m s
  | .teamCvtdf d a m => Sys2Proof.Machine.execTeamCvtdf d a m s
  | .teamCvtfd d a m => Sys2Proof.Machine.execTeamCvtfd d a m s
  | .teamExt d a m => Sys2Proof.Machine.execTeamExt d a m s
  | .teamDext d a m => Sys2Proof.Machine.execTeamDext d a m s
  | .teamLdi d imm => Sys2Proof.Machine.execTeamLdi d imm s
  | .teamAlwr d a => Sys2Proof.Machine.execTeamAlwr d a s
  | .teamBra imm => Sys2Proof.Machine.execTeamBra imm s
  | .teamBnz a imm => Sys2Proof.Machine.execTeamBnz a imm s
  | .teamBz a imm => Sys2Proof.Machine.execTeamBz a imm s
  | .teamCall imm => Sys2Proof.Machine.execTeamCall imm s
  | .teamCallr a => Sys2Proof.Machine.execTeamCallr a s
  | .teamJmpr a => Sys2Proof.Machine.execTeamJmpr a s
  | .teamRet => Sys2Proof.Machine.execTeamRet s
  | .teamExit => Sys2Proof.Machine.execTeamExit s
  | .teamTrap imm => Sys2Proof.Machine.execTeamTrap imm s
  | .teamBkpt imm => Sys2Proof.Machine.execTeamBkpt imm s
  | .teamYield => Sys2Proof.Machine.execTeamYield s
  | .teamNop => Sys2Proof.Machine.execTeamNop s
  | .teamBalw a imm => Sys2Proof.Machine.execTeamBalw a imm s
  | .qld d a b l => Sys2Proof.Machine.execQld d a b l s
  | .qldu d a b l => Sys2Proof.Machine.execQldu d a b l s
  | .qldg d a b l => Sys2Proof.Machine.execQldg d a b l s
  | .qsts d a b l => Sys2Proof.Machine.execQsts d a b l s
  | .setl a l => Sys2Proof.Machine.execSetl a l s
  | .getl d l => Sys2Proof.Machine.execGetl d l s
  | .mkl d a m => Sys2Proof.Machine.execMkl d a m s
  | .ldl a b l => Sys2Proof.Machine.execLdl a b l s
  | .qocc d imm => Sys2Proof.Machine.execQocc d imm s
  | .cpy d a b l => Sys2Proof.Machine.execCpy d a b l s
  | .cpym d a b l => Sys2Proof.Machine.execCpym d a b l s
  | .cpys d a b l => Sys2Proof.Machine.execCpys d a b l s
  | .twait a b m => Sys2Proof.Machine.execTwait a b m s
  | .tempty a => Sys2Proof.Machine.execTempty a s
  | .tstat d a => Sys2Proof.Machine.execTstat d a s
  | .wld d a b l => Sys2Proof.Machine.execWld d a b l s
  | .wst d a b l => Sys2Proof.Machine.execWst d a b l s
  | .mmat d a b => Sys2Proof.Machine.execMmat d a b s
  | .mmad d a b => Sys2Proof.Machine.execMmad d a b s
  | .mmaz d a => Sys2Proof.Machine.execMmaz d a s
  | .accst d a b m => Sys2Proof.Machine.execAccst d a b m s
  | .accv d a => Sys2Proof.Machine.execAccv d a s
  | .cpyf d a b l => Sys2Proof.Machine.execCpyf d a b l s
  | .teamBarv d a b => Sys2Proof.Machine.execTeamBarv d a b s
  | .teamBarw a b => Sys2Proof.Machine.execTeamBarw a b s
  | .teamWaita d a b l => Sys2Proof.Machine.execTeamWaita d a b l s
  | .launch d a b l => Sys2Proof.Machine.execLaunch d a b l s
  | .cnta a b => Sys2Proof.Machine.execCnta a b s
  | .cntw a b => Sys2Proof.Machine.execCntw a b s
  | .cancel a m => Sys2Proof.Machine.execCancel a m s
  | .wref d a => Sys2Proof.Machine.execWref d a s
  | .linv a m => Sys2Proof.Machine.execLinv a m s
  | .flushr a b l => Sys2Proof.Machine.execFlushr a b l s
  | .teamAmsg d a b => Sys2Proof.Machine.execTeamAmsg d a b s
  | .teamLdw d a b l => Sys2Proof.Machine.execTeamLdw d a b l s
  | .teamLdd d a b l => Sys2Proof.Machine.execTeamLdd d a b l s
  | .teamStw d a b l => Sys2Proof.Machine.execTeamStw d a b l s
  | .teamStd d a b l => Sys2Proof.Machine.execTeamStd d a b l s
  | .teamLdx d a b => Sys2Proof.Machine.execTeamLdx d a b s
  | .teamStx d a b => Sys2Proof.Machine.execTeamStx d a b s
  | .teamAadd d a b l => Sys2Proof.Machine.execTeamAadd d a b l s
  | .teamAmax d a b l => Sys2Proof.Machine.execTeamAmax d a b l s
  | .teamAxch d a b l => Sys2Proof.Machine.execTeamAxch d a b l s
  | .teamAcas d a b l => Sys2Proof.Machine.execTeamAcas d a b l s
  | .teamAaddd d a b l => Sys2Proof.Machine.execTeamAaddd d a b l s
  | .teamAcasd d a b l => Sys2Proof.Machine.execTeamAcasd d a b l s
  | .teamFence m => Sys2Proof.Machine.execTeamFence m s
  | .teamFencef d a b l => Sys2Proof.Machine.execTeamFencef d a b l s
  | .illegalOp w => Sys2Proof.Machine.execIllegalOp w s
  | .wrongSlice w => Sys2Proof.Machine.execWrongSlice w s
  | .fetchRange off => Sys2Proof.Machine.execFetchRange off s
  | .wake id => Sys2Proof.Machine.execWake id s
  | .loadComplete n reply => Sys2Proof.Machine.execLoadComplete n reply s
  | .queueElementPerform t fetch => Sys2Proof.Machine.execQueueElementPerform t fetch s
  | .homeStore n => Sys2Proof.Machine.execHomeStore n s
  | .homeAtomic n => Sys2Proof.Machine.execHomeAtomic n s
  | .leaseRenewal n => Sys2Proof.Machine.execLeaseRenewal n s
  | .lineFill line victim => Sys2Proof.Machine.execLineFill line victim s
  | .mscFill line owner world => Sys2Proof.Machine.execMscFill line owner world s
  | .waitaWake id => Sys2Proof.Machine.execWaitaWake id s
  | .ctTick core => Sys2Proof.Machine.execCtTick core s
  | .drowsy core seg => Sys2Proof.Machine.execDrowsy core seg s
  | .copyStart core chan => Sys2Proof.Machine.execCopyStart core chan s
  | .chunkLand core chan chunk remote => Sys2Proof.Machine.execChunkLand core chan chunk remote s
  | .copyComplete core chan => Sys2Proof.Machine.execCopyComplete core chan s
  | .arrayStart core entry => Sys2Proof.Machine.execArrayStart core entry s
  | .arrayResult core => Sys2Proof.Machine.execArrayResult core s
  | .temptyEffect core n => Sys2Proof.Machine.execTemptyEffect core n s
  | .barrierContribution n => Sys2Proof.Machine.execBarrierContribution n s
  | .teamEnd t => Sys2Proof.Machine.execTeamEnd t s
  | .trapRecordWrite launch => Sys2Proof.Machine.execTrapRecordWrite launch s
  | .faultRecordWrite q => Sys2Proof.Machine.execFaultRecordWrite q s
  | .recordRetry q => Sys2Proof.Machine.execRecordRetry q s
  | .faultAckResume fn q slot => Sys2Proof.Machine.execFaultAckResume fn q slot s
  | .faultAckRefuse fn q slot => Sys2Proof.Machine.execFaultAckRefuse fn q slot s
  | .faultqDescriptorWrite fn q dword v => Sys2Proof.Machine.execFaultqDescriptorWrite fn q dword v s
  | .lqtail fn q v => Sys2Proof.Machine.execLqtail fn q v s
  | .recordCurrent q => Sys2Proof.Machine.execRecordCurrent q s
  | .placeGang => Sys2Proof.Machine.execPlaceGang s
  | .priorityAging launch => Sys2Proof.Machine.execPriorityAging launch s
  | .loaderWaitExpiry launch => Sys2Proof.Machine.execLoaderWaitExpiry launch s
  | .preempt => Sys2Proof.Machine.execPreempt s
  | .preload core => Sys2Proof.Machine.execPreload core s
  | .bankSwap core => Sys2Proof.Machine.execBankSwap core s
  | .spill core => Sys2Proof.Machine.execSpill core s
  | .extract launch gang => Sys2Proof.Machine.execExtract launch gang s
  | .launchComplete launch => Sys2Proof.Machine.execLaunchComplete launch s
  | .combinerDrain n => Sys2Proof.Machine.execCombinerDrain n s
  | .handlerCreate => Sys2Proof.Machine.execHandlerCreate s
  | .rcmdResume fn world rcmd rarg => Sys2Proof.Machine.execRcmdResume fn world rcmd rarg s
  | .rcmdRetire fn world rcmd rarg => Sys2Proof.Machine.execRcmdRetire fn world rcmd rarg s
  | .counterWrite fn index v => Sys2Proof.Machine.execCounterWrite fn index v s
  | .lcpcmd fn v => Sys2Proof.Machine.execLcpcmd fn v s
  | .lcpInvalidationComplete => Sys2Proof.Machine.execLcpInvalidationComplete s
  | .partitionWrite fn part v => Sys2Proof.Machine.execPartitionWrite fn part v s
  | .quotaUpdate anew => Sys2Proof.Machine.execQuotaUpdate anew s
  | .debugSlotWrite fn slot off v => Sys2Proof.Machine.execDebugSlotWrite fn slot off v s
  | .registerWrite fn off v => Sys2Proof.Machine.execRegisterWrite fn off v s
  | .hostAccess fn write off size data => Sys2Proof.Machine.execHostAccess fn write off size data s
  | .refresh bank => Sys2Proof.Machine.execRefresh bank s
  | .uncorrectableError e => Sys2Proof.Machine.execUncorrectableError e s
  | .meshCrcFailure die hop unreached => Sys2Proof.Machine.execMeshCrcFailure die hop unreached s
  | .packetArrival p => Sys2Proof.Machine.execPacketArrival p s
  | .refusal n r => Sys2Proof.Machine.execRefusal n r s
  | .acknowledgement p => Sys2Proof.Machine.execAcknowledgement p s
  | .grant core entry n => Sys2Proof.Machine.execGrant core entry n s
  | .flitAuthFailure plane retrain => Sys2Proof.Machine.execFlitAuthFailure plane retrain s
  | .linkKeyExhausted plane recv => Sys2Proof.Machine.execLinkKeyExhausted plane recv s
  | .scaleOutResend p => Sys2Proof.Machine.execScaleOutResend p s
  | .holdExpiry n => Sys2Proof.Machine.execHoldExpiry n s
  | .keyload fn => Sys2Proof.Machine.execKeyload fn s
  | .keyfree fn => Sys2Proof.Machine.execKeyfree fn s
  | .scrub fn => Sys2Proof.Machine.execScrub fn s
  | .scrubComplete => Sys2Proof.Machine.execScrubComplete s
  | .readback fn => Sys2Proof.Machine.execReadback fn s
  | .svnadvance fn => Sys2Proof.Machine.execSvnadvance fn s
  | .fmenrol fn => Sys2Proof.Machine.execFmenrol fn s
  | .phasemap fn => Sys2Proof.Machine.execPhasemap fn s
  | .incarnation fn => Sys2Proof.Machine.execIncarnation fn s
  | .inctab fn => Sys2Proof.Machine.execInctab fn s
  | .icred fn => Sys2Proof.Machine.execIcred fn s
  | .linkkey fn => Sys2Proof.Machine.execLinkkey fn s
  | .linkstat fn => Sys2Proof.Machine.execLinkstat fn s
  | .dcmdResume fn slot dcmd darg => Sys2Proof.Machine.execDcmdResume fn slot dcmd darg s
  | .stepteam fn slot dcmd darg => Sys2Proof.Machine.execStepteam fn slot dcmd darg s
  | .regwrite fn slot dcmd darg => Sys2Proof.Machine.execRegwrite fn slot dcmd darg s
  | .dcmdRetire fn slot dcmd darg => Sys2Proof.Machine.execDcmdRetire fn slot dcmd darg s
  | .stepon fn slot dcmd darg => Sys2Proof.Machine.execStepon fn slot dcmd darg s
  | .stepoff fn slot dcmd darg => Sys2Proof.Machine.execStepoff fn slot dcmd darg s
  | .flagwrite fn slot dcmd darg => Sys2Proof.Machine.execFlagwrite fn slot dcmd darg s
  | .sample slot core => Sys2Proof.Machine.execSample slot core s
  | .recover fn pin => Sys2Proof.Machine.execRecover fn pin s
  | .go fn v => Sys2Proof.Machine.execGo fn v s
  | .recoveryImageVerify dmaError => Sys2Proof.Machine.execRecoveryImageVerify dmaError s
  | .scanModeEntry memoryTest => Sys2Proof.Machine.execScanModeEntry memoryTest s
  | .reset => Sys2Proof.Machine.execReset s
  | .rom => Sys2Proof.Machine.execRom s
  | .train clusters links planes => Sys2Proof.Machine.execTrain clusters links planes s
  | .clear => Sys2Proof.Machine.execClear s
  | .link => Sys2Proof.Machine.execLink s
  | .clockHalve droop => Sys2Proof.Machine.execClockHalve droop s
  | .clockRestore => Sys2Proof.Machine.execClockRestore s
  | .drain fn v => Sys2Proof.Machine.execDrain fn v s
  | .drainComplete => Sys2Proof.Machine.execDrainComplete s
  | .linkDrainTimeout trains => Sys2Proof.Machine.execLinkDrainTimeout trains s
  | .test fn v => Sys2Proof.Machine.execTest fn v s
  | .repair fn v spares => Sys2Proof.Machine.execRepair fn v spares s
  | .returnService fn v trains => Sys2Proof.Machine.execReturnService fn v trains s
  | .fwupdate fn v => Sys2Proof.Machine.execFwupdate fn v s
  | .dieReset die => Sys2Proof.Machine.execDieReset die s
  | .powerLoss => Sys2Proof.Machine.execPowerLoss s
  | .lifetimeRecordUpdate hours temps corrected => Sys2Proof.Machine.execLifetimeRecordUpdate hours temps corrected s
  | .testComplete passed => Sys2Proof.Machine.execTestComplete passed s

end Sys2Proof.Machine
end

