-- ==== Sys2Proof/Machine/Window.lean ====
section
/-! DEFINITION. What a host read of the register window returns (spec/20 R335, R455, spec/19 R311, spec/26 R433, R434, spec/28 R449): the
doubleword at a multiple of 8; a narrower read takes its part. Offsets that nothing names read 0. -/

namespace Sys2Proof.Machine

/-- Two 32-bit registers that stand side by side as a doubleword. -/
def pairWord (low high : Word) : DWord := high ++ low

/-- The package registers (R455). -/
def packageReg (s : State) (off : Nat) : DWord :=
  let r := s.regs
  match off with
  | 0x000 => r.qtBase
  | 0x008 => r.cttBase
  | 0x010 => r.ptBase
  | 0x018 => r.ptCount
  | 0x040 => r.spBase
  | 0x048 => r.spSize
  | _ =>
    if 0x020 ≤ off ∧ off < 0x040 then (die s ((off - 0x020) / 8)).wdtBase
    else if 0x100 ≤ off ∧ off < 0x900 then Table.getD r.fworld ((off - 0x100) / 8) 0
    else if 0x900 ≤ off ∧ off < 0x1100 then Table.getD r.hlabel ((off - 0x900) / 8) 0
    else 0

/-- A completion counter as a function reads it (R311): 0 for a counter that a virtual function does not reach. -/
def counterSeen (s : State) (fn i : Nat) : Word :=
  if reachesWorld s fn (counterWorld s i) then Table.getD s.counters i 0 else 0

/-- The owner fault queue, NOTICE_LOST and the label-control port (R346 to R348). -/
def faultReg (s : State) (off : Nat) : DWord :=
  let r := s.regs
  match off with
  | 0x000 => r.ownerQ.d0
  | 0x008 => r.ownerQ.d1
  | 0x020 => r.noticeLost
  | 0x100 => r.lcpCmd
  | 0x108 => BitVec.ofNat 64 (bitAt r.lcpBusy 0 + bitAt r.lcpErr 1)
  | _ => 0

/-- The fabric block (R379, R393, R402). -/
def fabricReg (s : State) (off : Nat) : DWord :=
  let r := s.regs
  match off with
  | 0x0000 => r.ftBase
  | 0x0008 => r.ftCount
  | 0x0010 => r.phaseMap.extractLsb' 0 64
  | 0x0018 => r.phaseMap.extractLsb' 64 64
  | 0x0020 => BitVec.ofNat 64 (r.incarnation.toNat + r.number % 8192 * 2 ^ 16)
  | 0x0028 => r.fabOut.setWidth 64
  | 0x0030 => BitVec.ofNat 64 (r.icred % 256)
  | 0x3000 => listGetD r.sowBase 0 0 ||| listGetD r.sowCount 0 0 <<< 48
  | 0x3008 => listGetD r.sowBase 1 0 ||| listGetD r.sowCount 1 0 <<< 48
  | _ =>
    if 0x0100 ≤ off ∧ off < 0x0200 then listGetD (linkBlock s ((off - 0x0100) / 16)) (off % 16 / 8) 0
    else if 0x1000 ≤ off ∧ off < 0x2200 then
      dwordOfBytes ((List.range 8).map fun i => Table.getD r.incTab (off - 0x1000 + i) 0)
    else 0

/-- A partition's register (R354). -/
def Partition.word (x : Partition) : DWord :=
  BitVec.ofNat 64 (bitAt x.fixed 24 + x.quota % 32 * 2 ^ 16 + x.max % 32 * 2 ^ 8 + x.min % 32)

/-- A partition's counters (R355). -/
def Partition.counters (x : Partition) : List DWord :=
  [x.occ, x.hits, x.misses, x.evict, BitVec.ofNat 64 (x.cause.toNat * 2 ^ 56 + x.quotaEvict.toNat)]

/-- The memory-side cache's registers and counters (R354, R355). -/
def partitionReg (s : State) (off : Nat) : DWord :=
  if off < 0x400 then (if off % 16 = 0 then (partition s (off / 16)).word else 0)
  else if 0x4000 ≤ off ∧ off < 0x5000 then listGetD (partition s ((off - 0x4000) / 64)).counters (off % 64 / 8) 0
  else 0

/-- A function's own mailbox (R428). -/
def mailReg (s : State) (fn off : Nat) : DWord :=
  if off = 0 then (mailbox s fn).scmd
  else if off = 8 then (mailbox s fn).sstat
  else if 0x1000 ≤ off ∧ off < 0x2000 then dwordOfBytes (mailBytes s fn (off - 0x1000) 8)
  else 0

/-- A debug slot's doublewords (R438). -/
def debugReg (b : DebugSlot) (i : Nat) : DWord := if i < 16 then listGetD b.d i 0 else Table.getD b.points (i - 16) 0

/-- BOOTSTAT (R449). -/
def bootStat (s : State) : DWord :=
  let v := s.service
  BitVec.ofNat 64 (v.stage % 16 * 2 ^ 60 + bitAt v.fail 59 + v.drainPlane.toNat * 2 ^ 16 + v.drainLink.toNat)

/-- Service and boot registers (R449, R450). -/
def serviceReg (s : State) (off : Nat) : DWord :=
  match off with
  | 0x00 => s.regs.svcCmd
  | 0x08 => svcStatWord s
  | 0x10 => bootStat s
  | 0x18 => s.service.bootClus
  | _ => 0

/-- The recovery capability of the physical function (R433), by its offset. -/
def recoveryReg (s : State) (off : Nat) : DWord :=
  let x := s.saltin
  match off with
  | 0x00 =>
    BitVec.ofNat 64 (0x0023 + 2 ^ 16 + Config.nextCapability.toNat * 2 ^ 20 +
      (Config.vendorId.toNat + 2 ^ 16 + 0x20 * 2 ^ 20) * 2 ^ 32)
  | 0x08 => BitVec.ofNat 64 (1 + bitAt x.rctl 16 + x.rstat.toNat * 2 ^ 32)
  | 0x10 => x.imgAddr
  | 0x18 => x.imgLen.setWidth 64
  | _ => 0

/-- The registers of a world at a block's offset, which a function of another world reads as 0 (log 119). -/
def worldReg (s : State) (fn w : Nat) (v : DWord) : DWord := if reachesWorld s fn w then v else 0

/-- A register of the window as it stands for a function. -/
def windowReg (s : State) (fn off : Nat) : DWord :=
  let r := s.regs
  if off < 0x10000 then (if fn = 0 then packageReg s off else 0)
  else if off < 0x20000 then 0
  else if off < 0x24000 then let i := (off - 0x20000) / 4; pairWord (counterSeen s fn i) (counterSeen s fn (i + 1))
  else if 0x30000 ≤ off ∧ off < 0x40000 then
    let w := (off - 0x30000) / 16
    let h := Table.getD r.handlers w (0, 0)
    worldReg s fn w (if off % 16 = 0 then h.1 else h.2)
  else if 0x40000 ≤ off ∧ off < 0x50000 then faultReg s (off - 0x40000)
  else if 0x50000 ≤ off ∧ off < 0x54000 then let w := (off - 0x50000) / 4; pairWord (wkey s w) (wkey s (w + 1))
  else if 0x60000 ≤ off ∧ off < 0x70000 then fabricReg s (off - 0x60000)
  else if 0x70000 ≤ off ∧ off < 0x80000 then partitionReg s (off - 0x70000)
  else if 0x80000 ≤ off ∧ off < 0x90000 then mailReg s fn (off - 0x80000)
  else if 0x90000 ≤ off ∧ off < 0x98000 then
    let b := debugSlot s ((off - 0x90000) / 512)
    worldReg s fn (field (listGetD b.d 0 0) 47 32) (debugReg b (off % 512 / 8))
  else if 0xA0000 ≤ off ∧ off < 0xB0000 then serviceReg s (off - 0xA0000)
  else if 0xB0000 ≤ off ∧ off < 0xC0000 then
    let w := (off - 0xB0000) / 16
    worldReg s fn w (if off % 16 = 0 then (runControl s w).rcmd else (runControl s w).rarg)
  else if 0x100000 ≤ off ∧ off < 0x120000 then
    let w := (off - 0x100000) / 32
    let d := guestDesc s w
    worldReg s fn w (match off % 32 with
      | 0 => d.d0
      | 8 => d.d1
      | _ => 0)
  else 0

/-- A HOST READ of the doubleword at an offset (R335): of configuration space at every stage (R433); of the window nothing but BOOTSTAT
and BOOTCLUS before READY (R449), and nothing but SSTAT while a scrub runs (R434). -/
def readWindow (s : State) (fn off : Nat) : DWord :=
  if configSpace + 0x400 ≤ off then (if fn = 0 then recoveryReg s (off - configSpace - 0x400) else 0)
  else if off % 8 ≠ 0 then 0
  else if s.saltin.scrubbing.isSome then (if off = 0x80008 then (mailbox s fn).sstat else 0)
  else if s.service.stage < 5 then (if off = 0xA0010 then bootStat s else if off = 0xA0018 then s.service.bootClus else 0)
  else windowReg s fn off

end Sys2Proof.Machine
end

