-- ==== Sys2Proof/Machine/Trace.lean ====
section
/-! DEFINITION. What follows a turn in the debug slots (spec/27 R441 to R443): its records, and the commands that it lets finish. -/

namespace Sys2Proof.Machine

/-- What the debug slots record of a turn, and the commands that it lets finish. -/
def observe (actor : Actor) (before after : State) : State := settleDebug (observeSlots (some actor) before after after)

end Sys2Proof.Machine
end

