-- ==== Sys2Proof/Machine/Fetch.lean ====
section
/-! DEFINITION. Fetching an instruction (spec/02 R32 to R34, spec/27 R439, spec/28 R453), a slice's turn, and what moves when the
schedule is empty (log 1). -/

namespace Sys2Proof.Machine

/-- What a fetch finds: the words of an instruction, or its first word beyond the segment (R32, R34). -/
inductive Fetched where
  | beyond (off : Word)
  | words (ws : List Word)
  deriving DecidableEq, Repr

/-- The code segment of a team's launch (R33). -/
def codeOf (s : State) (launch : Nat) : List Word :=
  match launchOf s launch with
  | none => []
  | some l => l.code

/-- Fetching at a PC for a slice of the set `team` (R32). -/
def fetchAt (code : List Word) (team : Bool) (pc : Word) : Fetched :=
  let i := pc.toNat / 4
  match code.drop i with
  | [] => .beyond pc
  | w :: ws =>
    let n := lengthOf team w
    if ws.length + 1 < n then .beyond (BitVec.ofNat 32 (4 * code.length)) else .words ((w :: ws).take n)

/-- Words that are no instruction trap (R34 rows 3 to 8, R453), NEXTPC past them. -/
def rejectTrap (s : State) (len : Nat) (r : Reject) : Host.Outcome State Fault Refusal :=
  match r with
  | .wrongSlice w => exec (.wrongSlice w) s
  | .illegalOp w => exec (.illegalOp w) s
  | .badModifier m =>
    fetchTrap s fun pc => { cause := .badModifier, field := 4, next := nextPc pc len, info0 := m.setWidth 64 }
  | .badOperand f c =>
    fetchTrap s fun pc => { cause := .badOperand, field := f, next := nextPc pc len, info0 := c.setWidth 64 }
  | .literalDest c =>
    fetchTrap s fun pc => { cause := .literalDest, field := 1, next := nextPc pc len, info0 := c.setWidth 64 }
  | .oddPair f c =>
    fetchTrap s fun pc => { cause := .oddPair, field := f, next := nextPc pc len, info0 := c.setWidth 64 }
  | .truncated => fetchTrap s fun pc => { cause := .fetchRange, next := 0, info0 := (nextPc pc len).setWidth 64 }

/-- The words of an instruction executed by the current slice: a breakpoint stops it first (R439), but for a QSTS of which stores have been
accepted, which has passed it. -/
def runWords (s : State) (launch : Nat) (sl : Slice) (ws : List Word) : Host.Outcome State Fault Refusal :=
  match breakpointAt s launch (sl.skip || sl.scatter != []) sl.pc with
  | some n =>
    fetchTrap s fun pc => { cause := .breakpoint, next := nextPc pc ws.length, info0 := BitVec.ofNat 64 (0x20000 + n) }
  | none =>
    match decode s.cur.strand.isNone ws with
    | .ok i => exec i s
    | .error r => rejectTrap s ws.length r

/-- A slice waits at its instruction. -/
def Slice.waiting (sl : Slice) : Bool :=
  sl.stall.isSome ||
  match sl.run with
  | .parked _ => true
  | .runnable | .trapped | .exited => false

/-- The entry of its launch's C table that an instruction's walk needs is read over the fabric: the slice is charged for it, and waits for
the reply (R337, R403). -/
def sendFetch (s : State) (id : SliceId) : State :=
  match sliceAt s id with
  | none => s
  | some (tm, sl) =>
    match sl.fetch.bind (fetchAway s tm.launch) with
    | none => s
    | some y =>
      let w := tm.name id.strand
      let s := modSlice s id fun sl => { sl with fetch := none }
      if fabricWaits s w y.path y.off then s
      else match chargeFor s id tm.world y.path with
        | (none, s) => parkSlice s id .allowance
        | (some (s, al), _) =>
          let r := accept s w tm.world id.core sl.pc sl.pc y.op y.path y.lw y.off [] al
          awaitData r.1 id r.2

/-- A slice's instruction has been accepted, has completed or has stopped: what it has read of its C table for its walk is given up. -/
def walkOver (s : State) (sl : Slice) : Bool :=
  !sl.waiting &&
  match sl.await.bind (accessOf s) with
  | some a => !a.kind.isEntry
  | none => true

/-- After a slice has issued: the entry that its walk needs is read (R337); its places in allowance entries go back once it waits no
longer (R405); what it has touched is noted (R213; log 102). -/
def settleIssue (s : State) : State :=
  let s := sendFetch s s.cur
  let s := match sliceAt s s.cur with
    | none => s
    | some (tm, sl) =>
      let s := if sl.waiting then s else quitEntries s s.cur
      if walkOver s sl then dropReads s (tm.name s.cur.strand) .instr else s
  touchIssue s s.cur

/-- The current slice's turn: one that may issue fetches and executes an instruction; one that may not lets the turn pass. -/
def issue (s : State) : Host.Outcome State Fault Refusal :=
  match sliceAt s s.cur with
  | none => .fault .noSlice
  | some (tm, sl) =>
    if !canIssue s s.cur then .next s
    else
      let o := match fetchAt (codeOf s tm.launch) s.cur.strand.isNone sl.pc with
        | .beyond off => exec (.fetchRange off) s
        | .words ws => runWords s tm.launch sl ws
      match o with
      | .next s' => .next (settleIssue s')
      | .fault r => .fault r
      | .refused r => .refused r

/-- A turn: the actor moves, and the debug slots record it. -/
def turn (a : Actor) (s : State) : Host.Outcome State Fault Refusal :=
  let r := match a with
    | .slice id => (issue { s with cur := id }, { s with cur := id })
    | .event e => (exec e s, s)
  match r.1 with
  | .next s' => .next (observe a r.2 s')
  | .fault x => .fault x
  | .refused x => .refused x

/-- Cycles pass, with the logical times raised (R363) often enough in a long turn that none lags by half their range. -/
def passTime (s : State) (cycles : Nat) : State :=
  passCycles ((List.range (cycles / 2 ^ 36)).foldl (fun s _ => raiseTimes (passCycles s (2 ^ 36))) s) (cycles % 2 ^ 36)

/-- The cycles of a turn pass, a request for recovery being taken, and a restart ended, first (R97, R433, R452). -/
def beginTurn (s : State) (cycles : Nat) : State := passTime (endRestart (takeRecover s)) cycles

/-- What follows every turn, by whatever moved: the owners' answers in the records' slots act (R348), as the debug slots record (R443), the packets that have left have
taken their planes (R380, R390), and where the greatest ct has risen no logical time lags too far behind it (R363). -/
def settleTurn (before s : State) : State :=
  let s' := settleAcks s
  let s := sprayFrom before.outbox.length (observeSlots none s s' s')
  if greatestCt s = greatestCt before then s else raiseTimes s

/-- A turn's outcome with what follows it. -/
def settled (before : State) (o : Host.Outcome State Fault Refusal) : Host.Outcome State Fault Refusal :=
  match o with
  | .next s => .next (settleTurn before s)
  | .fault f => .fault f
  | .refused r => .refused r

/-- The next boot stage's end (R449), while the sequence runs: every unit trains. -/
def bootStep (s : State) : Option State :=
  if s.service.fail ∨ s.saltin.inRecovery then none
  else match s.service.stage with
    | 1 => some (bootRom s)
    | 2 => some (bootTrain 0 0 0 s)
    | 3 => some (bootClear s)
    | 4 => some (bootLink s)
    | _ => none

/-- What moves when the schedule is empty (log 1): the boot sequence, then the slice whose turn it is, if it may issue. -/
def idleTurn (s : State) : Host.Outcome State Fault Refusal :=
  match bootStep s with
  | some s' => .next s'
  | none => if canIssue s s.cur then turn (.slice s.cur) s else .next s

/-! ### A program placed by hand (log 10) -/

/-- What a hand-placed team declares: one strand, every register, no queue. -/
def fetchDecl : TeamDecl :=
  { strands := 1, wregs := 116, kregs := 116, accs := 0, index := 0, queues := List.replicate 10 ⟨.undeclared, .first, false, 0⟩
    aentry := 0, centry := 0, tiles := List.replicate 64 0, lstack := List.replicate 8 0, bars := List.replicate 16 (0, 0) }

/-- A hand-placed launch over code words. -/
def fetchLaunch (code : List Word) : Launch :=
  { id := 1, queue := none, number := 0, recordPa := 0, world := 0, level := 0, words := List.replicate 32 0, code := code
    decls := [fetchDecl], prio := 0, placed := 1, eligibleSince := none, eligibleFor := 0, aged := false, passes := 0
    loaderWait := none, loaderOver := false, cancelled := false, done := false, ts := none, seen := none }

/-- Its gang: one member, on core 0 in team slot 0. -/
def fetchGang : Gang :=
  { launch := 1, number := 0, frame := 0, prio := 0, place := [⟨0, 0⟩], state := .resident, saved := [], ended := [], misses := 0
    acked := none, ready := none }

/-- The state with a program placed: the package READY, world 0 runnable (R343), one team on core 0, and its strand or address slice to issue next. -/
def placeProgram (s : State) (team : Bool) (code : List Word) : State :=
  let l := fetchLaunch code
  let s : State := { s with
    cur := ⟨0, 0, if team then none else some 0⟩, agenda := []
    service := { s.service with stage := 5, fail := false }
    regs := { s.regs with wkey := Table.put s.regs.wkey 0 (wkey s 0 ||| 0x80000000) }, saltin := { s.saltin with inRecovery := false }
    launches := l :: s.launches.filter fun x => x.id != 1
    gangs := fetchGang :: s.gangs.filter fun x => !(x.launch == 1 && x.number == 0)
    dies := listModify (fun d => { d with stopped := false }) s.dies 0 }
  putTeam s ⟨0, 0⟩ (newTeam s l 0 0 fetchDecl)

/-- The code segment of a hand-placed instruction: its words in memory order (R4), zeros after it. -/
def fetchCode (w : Nat) : List Word := wordsOfBytes (bytesOfNat maxInstrBytes w) ++ List.replicate 59 0

end Sys2Proof.Machine
end

