-- ==== Sys2Proof/Machine/Step.lean ====
section
/-! DEFINITION. One step of the package: the head of the schedule moves, or what moves when the schedule is empty (log 1). -/

namespace Sys2Proof.Machine

/-- ONE STEP: the cycles of a turn pass, its actor moves, and what follows every turn does. -/
def step (s : State) : Host.Outcome State Fault Refusal :=
  settled s <| match s.agenda with
    | t :: rest => turn t.actor (beginTurn { s with agenda := rest } t.cycles)
    | [] => idleTurn (beginTurn s 1)

/-- The state in which `step` fetches and runs the instruction that a table row's bits give (log 10). -/
def State.withFetchWord (s : State) (_nbits w : Nat) : State :=
  placeProgram s (BitVec.ofNat 32 w |>.getLsbD 31) (fetchCode w)

end Sys2Proof.Machine
end

