-- ==== Sys2Proof/Safety.lean ====
section
/-! DEFINITION. The terms that claims use: safe states and runs, the values that the rules give the instructions of each shape written apart
from the meanings, and what a state keeps. -/

namespace Sys2Proof.Machine

/-! ### Safe states and runs -/

/-- Every memory of a package outside its cores stands in the canonical form: main and host memory and the weight stores. -/
def State.memoriesOk (s : State) : Bool :=
  s.mem.wf && s.hostMem.wf && s.dies.all fun d => d.weights.wf

/-- The accesses in flight stand in the strictly rising order of their numbers, each below the number that the next access takes (R176). -/
def State.accessesOrdered (s : State) : Prop :=
  (s.inflight.map Access.n).Pairwise (· < ·) ∧ ∀ a ∈ s.inflight, a.n < s.nextAccess

/-- An outcome goes on. -/
def goesOn (o : Host.Outcome State Fault Refusal) : Bool :=
  match o with
  | .next _ => true
  | .fault _ | .refused _ => false

/-- `n` steps from a state, none of which stops the machine. -/
def runsSafely : Nat → State → Bool
  | 0, _ => true
  | n + 1, s =>
    match step s with
    | .next s' => runsSafely n s'
    | .fault _ | .refused _ => false

/-! ### An instruction that takes effect -/

/-- The current slice stands in an active bank and gathers its operands for a form: its checks, those that the instruction makes itself
(`own`), its pending registers, its pops and the room for its push let it go on (R34, R209, R29). -/
def Gathers (s : State) (f : Form) (own : Except Stop Unit) (tm : Team) (sl : Slice) (v : Vals) : Prop :=
  sliceAt s s.cur = some (tm, sl) ∧ gather s s.cur.strand tm sl f own = .ok v

/-- Three operands of 32 bits. -/
def w3 (i : Instr) (d : Dst) (a b : Src) : Form := form3 i.isTeam d .w32 a .w32 b .w32
/-- Two operands of 32 bits. -/
def w2 (i : Instr) (d : Dst) (a : Src) : Form := form2 i.isTeam d .w32 a .w32
/-- Three operands of 64 bits. -/
def d3 (i : Instr) (d : Dst) (a b : Src) : Form := form3 i.isTeam d .w64 a .w64 b .w64
/-- Two operands of 64 bits. -/
def d2 (i : Instr) (d : Dst) (a : Src) : Form := form2 i.isTeam d .w64 a .w64

/-- A 32-bit operand as an unsigned number. -/
def u32 (x : DWord) : Int := (x.toNat % 2 ^ 32 : Nat)
/-- A 32-bit operand as a signed number. -/
def s32 (x : DWord) : Int := if u32 x < 2 ^ 31 then u32 x else u32 x - 2 ^ 32
/-- A 64-bit operand as an unsigned number. -/
def u64 (x : DWord) : Int := x.toNat
/-- A 64-bit operand as a signed number. -/
def s64 (x : DWord) : Int := if u64 x < 2 ^ 63 then u64 x else u64 x - 2 ^ 64

/-- A number read as signed or unsigned (R8). -/
def pick32 (m : Sgn) (x : DWord) : Int :=
  match m with
  | .s => s32 x
  | .u => u32 x

/-- A number as the value that a destination of a width receives. -/
def received (w : Width) (n : Int) : DWord :=
  match w with
  | .w64 => BitVec.ofInt 64 n
  | .no | .w32 => (BitVec.ofInt 32 n).setWidth 64

/-- A number brought into a range (R113). -/
def saturate (n lo hi : Int) : Int := if n < lo then lo else if hi < n then hi else n

/-- The quotient rounded toward zero (R115), -1 for a division by zero. -/
def quotientOf (a b : Int) : Int := if b = 0 then -1 else a.sign * b.sign * (a.natAbs / b.natAbs : Nat)

/-- THE INTEGER ARITHMETIC OF R113 TO R117 in both sets (R112): an instruction's opcode, its operand form, and the
number that D receives. -/
def arithmeticRule (i : Instr) : Option (Nat × Form × (Vals → Int)) :=
  match i with
  | .iadd d a b .wrap | .teamIadd d a b .wrap => some (0x00, w3 i d a b, fun v => u32 v.a + u32 v.b)
  | .iadd d a b .ss | .teamIadd d a b .ss => some (0x00, w3 i d a b, fun v => saturate (s32 v.a + s32 v.b) (-2 ^ 31) (2 ^ 31 - 1))
  | .iadd d a b .us | .teamIadd d a b .us => some (0x00, w3 i d a b, fun v => saturate (u32 v.a + u32 v.b) 0 (2 ^ 32 - 1))
  | .isub d a b .wrap | .teamIsub d a b .wrap => some (0x01, w3 i d a b, fun v => u32 v.a - u32 v.b)
  | .isub d a b .ss | .teamIsub d a b .ss => some (0x01, w3 i d a b, fun v => saturate (s32 v.a - s32 v.b) (-2 ^ 31) (2 ^ 31 - 1))
  | .isub d a b .us | .teamIsub d a b .us => some (0x01, w3 i d a b, fun v => saturate (u32 v.a - u32 v.b) 0 (2 ^ 32 - 1))
  | .imul d a b | .teamImul d a b => some (0x02, w3 i d a b, fun v => u32 v.a * u32 v.b)
  | .imulh d a b m | .teamImulh d a b m => some (0x03, w3 i d a b, fun v => (pick32 m v.a * pick32 m v.b) / 2 ^ 32)
  | .imad d a b | .teamImad d a b => some (0x04, (w3 i d a b).as .both, fun v => u32 v.a * u32 v.b + u32 v.d)
  | .idiv d a b m | .teamIdiv d a b m => some (0x05, w3 i d a b, fun v => quotientOf (pick32 m v.a) (pick32 m v.b))
  | .irem d a b m | .teamIrem d a b m =>
    some (0x06, w3 i d a b, fun v =>
      if pick32 m v.b = 0 then pick32 m v.a else pick32 m v.a - quotientOf (pick32 m v.a) (pick32 m v.b) * pick32 m v.b)
  | .imin d a b m | .teamImin d a b m => some (0x07, w3 i d a b, fun v => min (pick32 m v.a) (pick32 m v.b))
  | .imax d a b m | .teamImax d a b m => some (0x08, w3 i d a b, fun v => max (pick32 m v.a) (pick32 m v.b))
  | .iabs d a | .teamIabs d a => some (0x09, w2 i d a, fun v => (s32 v.a).natAbs)
  | .dadd d a b | .teamDadd d a b => some (0x0A, d3 i d a b, fun v => u64 v.a + u64 v.b)
  | .dsub d a b | .teamDsub d a b => some (0x0B, d3 i d a b, fun v => u64 v.a - u64 v.b)
  | .dmul d a b | .teamDmul d a b => some (0x0C, d3 i d a b, fun v => u64 v.a * u64 v.b)
  | .dneg d a | .teamDneg d a => some (0x0D, d2 i d a, fun v => 0 - u64 v.a)
  | _ => none

/-- The number whose bit k is given for each k below `n`. -/
def ofBits (n : Nat) (f : Nat → Bool) : Int := ((List.range n).map fun k => if f k then (2 : Int) ^ k else 0).sum

/-- The place and the width of a bit field that B describes (R121). -/
def fieldOf (b : DWord) : Nat × Nat := ((u32 b).toNat % 32, min ((u32 b).toNat / 256 % 64) (32 - (u32 b).toNat % 32))

/-- LOGIC, SHIFTS, BIT FIELDS AND COUNTS OF R118 TO R122 in both sets: the number that D receives, by its bits where the rule gives bits. -/
def bitRule (i : Instr) : Option (Nat × Form × (Vals → Int)) :=
  match i with
  | .and d a b | .teamAnd d a b => some (0x0E, w3 i d a b, fun v => ofBits 32 fun k => v.a.getLsbD k && v.b.getLsbD k)
  | .or d a b | .teamOr d a b => some (0x0F, w3 i d a b, fun v => ofBits 32 fun k => v.a.getLsbD k || v.b.getLsbD k)
  | .xor d a b | .teamXor d a b => some (0x10, w3 i d a b, fun v => ofBits 32 fun k => v.a.getLsbD k != v.b.getLsbD k)
  | .andn d a b | .teamAndn d a b => some (0x11, w3 i d a b, fun v => ofBits 32 fun k => v.a.getLsbD k && !v.b.getLsbD k)
  | .not d a | .teamNot d a => some (0x12, w2 i d a, fun v => ofBits 32 fun k => !v.a.getLsbD k)
  | .shl d a b | .teamShl d a b => some (0x13, w3 i d a b, fun v => if 32 ≤ u32 v.b then 0 else u32 v.a * 2 ^ (u32 v.b).toNat)
  | .shr d a b | .teamShr d a b => some (0x14, w3 i d a b, fun v => if 32 ≤ u32 v.b then 0 else u32 v.a / 2 ^ (u32 v.b).toNat)
  | .sar d a b | .teamSar d a b => some (0x15, w3 i d a b, fun v => s32 v.a / 2 ^ (min (u32 v.b) 31).toNat)
  | .rol d a b | .teamRol d a b =>
    some (0x16, w3 i d a b, fun v => ofBits 32 fun k => v.a.getLsbD ((k + 32 - (u32 v.b).toNat % 32) % 32))
  | .ror d a b | .teamRor d a b =>
    some (0x17, w3 i d a b, fun v => ofBits 32 fun k => v.a.getLsbD ((k + (u32 v.b).toNat % 32) % 32))
  | .bfx d a b .u | .teamBfx d a b .u =>
    some (0x18, w3 i d a b, fun v => u32 v.a / 2 ^ (fieldOf v.b).1 % 2 ^ (fieldOf v.b).2)
  | .bfx d a b .s | .teamBfx d a b .s =>
    some (0x18, w3 i d a b, fun v =>
      let f := u32 v.a / 2 ^ (fieldOf v.b).1 % 2 ^ (fieldOf v.b).2
      if (fieldOf v.b).2 ≠ 0 ∧ 2 ^ ((fieldOf v.b).2 - 1) ≤ f then f - 2 ^ (fieldOf v.b).2 else f)
  | .bfi d a b | .teamBfi d a b =>
    some (0x19, (w3 i d a b).as .both, fun v => ofBits 32 fun k =>
      if (fieldOf v.b).1 ≤ k ∧ k < (fieldOf v.b).1 + (fieldOf v.b).2 then v.a.getLsbD (k - (fieldOf v.b).1) else v.d.getLsbD k)
  | .popc d a | .teamPopc d a => some (0x1A, w2 i d a, fun v => ((List.range 32).countP fun k => v.a.getLsbD k : Nat))
  | .clz d a | .teamClz d a => some (0x1B, w2 i d a, fun v => ((List.range 32).takeWhile fun k => !v.a.getLsbD (31 - k)).length)
  | .ctz d a | .teamCtz d a => some (0x1C, w2 i d a, fun v => ((List.range 32).takeWhile fun k => !v.a.getLsbD k).length)
  | .brev d a | .teamBrev d a => some (0x1D, w2 i d a, fun v => ofBits 32 fun k => v.a.getLsbD (31 - k))
  | .dshl d a b | .teamDshl d a b =>
    some (0x1E, form3 i.isTeam d .w64 a .w64 b .w32, fun v => if 64 ≤ u32 v.b then 0 else u64 v.a * 2 ^ (u32 v.b).toNat)
  | .dshr d a b .u | .teamDshr d a b .u =>
    some (0x1F, form3 i.isTeam d .w64 a .w64 b .w32, fun v => if 64 ≤ u32 v.b then 0 else u64 v.a / 2 ^ (u32 v.b).toNat)
  | .dshr d a b .s | .teamDshr d a b .s =>
    some (0x1F, form3 i.isTeam d .w64 a .w64 b .w32, fun v => s64 v.a / 2 ^ (min (u32 v.b) 63).toNat)
  | _ => none

/-- 1 when a condition holds, else 0. -/
def oneIf (p : Prop) [Decidable p] : Int := if p then 1 else 0

/-- A comparison of R123 on numbers read signed and unsigned. -/
def compares (c : Icc) (sx sy ux uy : Int) : Int :=
  match c with
  | .eq => oneIf (ux = uy)
  | .ne => oneIf (ux ≠ uy)
  | .lt => oneIf (sx < sy)
  | .ge => oneIf (sy ≤ sx)
  | .ltu => oneIf (ux < uy)
  | .geu => oneIf (uy ≤ ux)

/-- The low `n` bits of a number read as signed. -/
def lowSigned (n : Nat) (x : Int) : Int := if 2 ^ (n - 1) ≤ x % 2 ^ n then x % 2 ^ n - 2 ^ n else x % 2 ^ n

/-- COMPARISONS, SELECTION, MOVES AND EXTENSIONS OF R123 TO R127 in both sets. -/
def moveRule (i : Instr) : Option (Nat × Form × (Vals → Int)) :=
  match i with
  | .icmp d a b c | .teamIcmp d a b c => some (0x20, w3 i d a b, fun v => compares c (s32 v.a) (s32 v.b) (u32 v.a) (u32 v.b))
  | .dcmp d a b c | .teamDcmp d a b c =>
    some (0x21, form3 i.isTeam d .w32 a .w64 b .w64, fun v => compares c (s64 v.a) (s64 v.b) (u64 v.a) (u64 v.b))
  | .sel d a b | .teamSel d a b =>
    some (0x22, ((w3 i d a b).pushing .untyped).as .both, fun v => if u32 v.d ≠ 0 then u32 v.a else u32 v.b)
  | .mov d a | .teamMov d a => some (0x23, (w2 i d a).pushing .untyped, fun v => u32 v.a)
  | .dmov d a | .teamDmov d a => some (0x24, d2 i d a, fun v => u64 v.a)
  | .ext d a .sb | .teamExt d a .sb => some (0x2B, w2 i d a, fun v => lowSigned 8 (u32 v.a))
  | .ext d a .sh | .teamExt d a .sh => some (0x2B, w2 i d a, fun v => lowSigned 16 (u32 v.a))
  | .ext d a .zb | .teamExt d a .zb => some (0x2B, w2 i d a, fun v => u32 v.a % 2 ^ 8)
  | .ext d a .zh | .teamExt d a .zh => some (0x2B, w2 i d a, fun v => u32 v.a % 2 ^ 16)
  | .dext d a m | .teamDext d a m => some (0x2C, form2 i.isTeam d .w64 a .w32, fun v => pick32 m v.a)
  | .ldi d imm | .teamLdi d imm => some (0x2D, (formJd i.isTeam d .w32).pushing .untyped, fun _ => lowSigned 17 (imm.toNat : Int))
  | _ => none

/-! ### Floating point -/

/-- THE FLOATING-POINT AND NARROW-FORMAT INSTRUCTIONS (R129, R130, R145 to R158): an instruction's operand form, and the result with its flags
from A, B and D. -/
def floatRule (i : Instr) : Option (Form × (Word → Word → Word → FRes)) :=
  let f3 (d : Dst) (a b : Src) : Form := (w3 i d a b).pushing .f32
  let f2 (d : Dst) (a : Src) : Form := (w2 i d a).pushing .f32
  match i with
  | .fadd d a b m => some (f3 d a b, fun x y _ => faddOp m x y)
  | .fsub d a b m => some (f3 d a b, fun x y _ => fsubOp m x y)
  | .fmul d a b m => some (f3 d a b, fun x y _ => fmulOp m x y)
  | .fdiv d a b m => some (f3 d a b, fun x y _ => fdivOp m x y)
  | .fmac d a b m => some ((f3 d a b).as .both, fun x y z => fmacOp false m x y z)
  | .fnmac d a b m => some ((f3 d a b).as .both, fun x y z => fmacOp true m x y z)
  | .fmin d a b => some (f3 d a b, fun x y _ => fminmaxOp false x y)
  | .fmax d a b => some (f3 d a b, fun x y _ => fminmaxOp true x y)
  | .fsqrt d a m => some (f2 d a, fun x _ _ => fsqrtOp m x)
  | .frcp d a => some (f2 d a, fun x _ _ => fdivOp .rne 0x3F800000 x)
  | .frsq d a => some (f2 d a, fun x _ _ => frsqOp x)
  | .fexp2 d a => some (f2 d a, fun x _ _ => fexp2Op x)
  | .flog2 d a => some (f2 d a, fun x _ _ => flog2Op x)
  | .fabs d a => some (f2 d a, fun x _ _ => fabsOp x)
  | .fneg d a => some (f2 d a, fun x _ _ => fnegOp x)
  | .frnd d a m => some (f2 d a, fun x _ _ => frndOp m x)
  | .fscl d a b m => some (f3 d a b, fun x y _ => fsclOp m x y)
  | .fcmp d a b m => some (w3 i d a b, fun x y _ => fcmpOp m x y)
  | .fclass d a => some (w2 i d a, fun x _ _ => ⟨fclassOp x, 0⟩)
  | .cvtbf d a m => some (w2 i d a, fun x _ _ => narrow bf16 m x)
  | .cvte4 d a m => some (w2 i d a, fun x _ _ => narrow e4m3 m x)
  | .cvte5 d a m => some (w2 i d a, fun x _ _ => narrow e5m2 m x)
  | .cvtfb d a => some (f2 d a, fun x _ _ => ⟨widen bf16 (x.toNat % 2 ^ 16), 0⟩)
  | .cvt4f d a => some (f2 d a, fun x _ _ => ⟨widen e4m3 (x.toNat % 2 ^ 8), 0⟩)
  | .cvt5f d a => some (f2 d a, fun x _ _ => ⟨widen e5m2 (x.toNat % 2 ^ 8), 0⟩)
  | .qnt8 d a b m => some (w3 i d a b, fun x y _ => quantise 8 m x (y.toNat % 2 ^ 8))
  | .qnt4 d a b m => some (w3 i d a b, fun x y _ => quantise 4 m x (y.toNat % 2 ^ 8))
  | .dq8 d a b => some (f3 d a b, fun x y _ => dequantise (lowSigned 8 x.toNat) (y.toNat % 2 ^ 8))
  | .dq4 d a b => some (f3 d a b, fun x y _ => dequantise (lowSigned 4 x.toNat) (y.toNat % 2 ^ 8))
  | .bpack d a m =>
    some ((w2 i d a).as .both, fun x _ z => ⟨BitVec.ofInt 32 (ofBits 32 fun k =>
      if 8 * byiIndex m ≤ k ∧ k < 8 * byiIndex m + 8 then x.getLsbD (k - 8 * byiIndex m) else z.getLsbD k), 0⟩)
  | .bunpk d a m =>
    some (w2 i d a, fun x _ _ =>
      let b : Int := (x.toNat : Int) / 2 ^ (8 * (byxIndex m).1)
      ⟨BitVec.ofInt 32 (if (byxIndex m).2 then b % 2 ^ 8 else lowSigned 8 b), 0⟩)
  | .cvtif d a m | .teamCvtif d a m =>
    some (f2 d a, fun x _ _ => intToF m (if rmuUnsigned m then (x.toNat : Int) else x.toInt))
  | .cvtfi d a m | .teamCvtfi d a m =>
    some (w2 i d a, fun x _ _ =>
      let r := if rmuUnsigned m then fToInt m 0 (2 ^ 32 - 1) x else fToInt m (-2 ^ 31) (2 ^ 31 - 1) x
      ⟨BitVec.ofInt 32 r.1, r.2⟩)
  | _ => none

/-! ### Operands that are there to be read -/

/-- The value of a source that is no pop: a register or pair below the declared count, a literal, or code 126 (R25 to R28). -/
def plainSrc (sl : Slice) (w : Width) (a : Src) : Option DWord :=
  match a, w with
  | .zero, _ => some 0
  | .queue _, _ => none
  | _, .no => none
  | .reg n, .w32 => (sl.regs[n.val]?).map fun x => x.setWidth 64
  | .reg n, .w64 =>
    match sl.regs[n.val]?, sl.regs[n.val + 1]? with
    | some lo, some hi => some (BitVec.ofNat 64 (lo.toNat + 2 ^ 32 * hi.toNat))
    | _, _ => none
  | .lit x, .w32 => some (x.setWidth 64)
  | .lit x, .w64 => some (x.signExtend 64)
  | .lit64 _, .w32 => none
  | .lit64 x, .w64 => some x

/-- What a destination that is no push held before. -/
def plainDst (sl : Slice) (w : Width) (d : Dst) : Option DWord :=
  match d with
  | .zero => some 0
  | .queue _ => none
  | .reg n => plainSrc sl w (.reg n)

/-- No register that a form names has a write pending (R209). -/
def nonePending (s : State) (w : SliceName) (f : Form) : Prop := ∀ n ∈ f.regs, regPending s w n = false

/-- The registers after a result has been written to a destination of a width; a push or code 126 writes none (R25, R27). -/
def writtenRegs (d : Dst) (w : Width) (r : DWord) (regs : List Word) : List Word :=
  match d, w with
  | .reg n, .w64 => (regs.set n.val (r.setWidth 32)).set (n.val + 1) (BitVec.ofNat 32 (r.toNat / 2 ^ 32))
  | .reg n, _ => regs.set n.val (r.setWidth 32)
  | .queue _, _ | .zero, _ => regs

/-! ### What a step of one slice leaves alone -/

/-- A state differs from another in one slice of an active bank alone: its team is as before but for the slice, the other teams of its core
and the other cores are as before, and so is everything of the package outside the cores, every byte of memory among it. -/
def OnlySlice (s t : State) (id : SliceId) (sl' : Slice) : Prop :=
  t = { s with cores := t.cores } ∧
  (∀ c, c ≠ id.core → core t c = core s c) ∧
  core t id.core = { core s id.core with
    active := { (core s id.core).active with teams := (core t id.core).active.teams } } ∧
  (∀ n, n ≠ id.slot → teamAt t ⟨id.core, n⟩ = teamAt s ⟨id.core, n⟩) ∧
  (∀ tm, teamAt s (teamIdOf id) = some tm → teamAt t (teamIdOf id) = some (tm.putSlice id.strand sl')) ∧
  (sliceAt t id).map (·.2) = some sl'

/-! ### Rounding, on exact rationals -/

/-- The value of a finite FP32 encoding (R75), none for an infinity or a NaN. -/
def ratOf (w : Word) : Option Rat :=
  let e : Nat := w.toNat / 2 ^ 23 % 2 ^ 8
  let m : Nat := w.toNat % 2 ^ 23
  let sgn : Rat := if w.getLsbD 31 then -1 else 1
  if e = 255 then none
  else if e = 0 then some (sgn * (m : Rat) * (1 / 2 ^ 149))
  else some (sgn * ((2 ^ 23 + m : Nat) : Rat) * 2 ^ e / 2 ^ 150)

/-- `r`, the value of the finite encoding `w`, is `x` rounded to FP32 in a mode (R77). -/
def RoundedTo (rm : Rm) (x r : Rat) (w : Word) : Prop :=
  match rm with
  | .rne => ∀ w' y, ratOf w' = some y → |x - r| ≤ |x - y| ∧ (|x - r| = |x - y| → y ≠ r → w.toNat % 2 = 0)
  | .rtz => |r| ≤ |x| ∧ 0 ≤ r * x ∧ ∀ w' y, ratOf w' = some y → |y| ≤ |x| → |y| ≤ |r|
  | .rup => x ≤ r ∧ ∀ w' y, ratOf w' = some y → x ≤ y → r ≤ y
  | .rdn => r ≤ x ∧ ∀ w' y, ratOf w' = some y → y ≤ x → y ≤ r

/-- A result is the exact value `x` rounded in a mode, NX telling whether it differs from it; it is an infinity, with OF and NX, only
where `x` lies beyond the largest finite value. -/
def Delivers (rm : Rm) (x : Rat) (r : FRes) : Prop :=
  match ratOf r.bits with
  | some q => RoundedTo rm x q r.bits ∧ (r.flags.getLsbD 0 = true ↔ q ≠ x)
  | none => (r.bits = 0x7F800000 ∨ r.bits = 0xFF800000) ∧ r.flags = 0b00101 ∧ (2 ^ 24 - 1) * 2 ^ 104 < |x|

/-- A rational rounded to an integer in a mode. -/
def roundRat (rm : Rm) (x : Rat) : Int :=
  match rm with
  | .rne => if x - x.floor < 1 / 2 then x.floor else if 1 / 2 < x - x.floor then x.floor + 1
      else if x.floor % 2 = 0 then x.floor else x.floor + 1
  | .rtz => if 0 ≤ x then x.floor else x.ceil
  | .rup => x.ceil
  | .rdn => x.floor

/-- CVTFI and CVTFD of a value (R130): the integer and the flags. -/
def convertRat (rm : Rm) (lo hi : Int) (x : Rat) : Int × Word :=
  let v := roundRat rm x
  if hi < v then (hi, 0b10000) else if v < lo then (lo, 0b10000) else (v, if (v : Rat) = x then 0 else 1)

/-! ### Special registers (R97) -/

/-- The value of a special register by its index, for a slice of a team; none where the set has none. -/
def specialOf (s : State) (id : SliceId) (tm : Team) (sl : Slice) : List (Option Nat) :=
  [ some (id.strand.getD 0xFFFFFFFF), some tm.decl.strands, some id.slot, some (widthOf s tm.launch), some tm.gang, some tm.gteam,
    some tm.launch, some (id.core % 96), some (id.core % 96 / 8), some (id.core / 96), some s.regs.number,
    some (s.clock.toNat % 2 ^ 32), some (sl.clockSample.toNat / 2 ^ 32), some (core s id.core).ct.toNat, some tm.world,
    some tm.level.toNat, some sl.sp.toNat, some sl.fflags.toNat, if id.strand.isSome then some sl.circle.toNat else none ]

/-! ### Control transfer -/

/-- The target of a format-J transfer (R24). -/
def targetOfJ (pc : Word) (imm : BitVec 17) : Word := BitVec.ofInt 32 ((pc.toNat : Int) + 4 * lowSigned 17 imm.toNat)

/-! ### Collectives -/

/-- The strands that a circle mask names for a strand (R159), ascending. -/
def circleOf (mask : DWord) (k : Nat) : List Nat := ((List.range 64).filter fun j => mask.getLsbD j).map fun j => 64 * (k / 64) + j

/-- The source rank of SHFL (R165): none where the member receives its own A. -/
def shflRank (m : Shf) (cnt r n : Nat) : Option Nat :=
  match m with
  | .pick => if n < cnt then some n else none
  | .rot => some ((r + n) % cnt)
  | .mirr => some (((n : Int) - r) % cnt).toNat
  | .pair => if r ^^^ n < cnt then some (r ^^^ n) else none

/-- THE COLLECTIVES OF R164 TO R168: the operand form, whether it waits for its members' stores, and what the member of a rank receives with its
flags, from all members in rank order. -/
def collectiveRule (i : Instr) : Option (Form × Bool × (List Member → Nat → Member → DWord × Word)) :=
  let w (n : Int) : DWord × Word := (received .w32 n, 0)
  match i with
  | .join => some (form0 false, true, fun _ _ _ => (0, 0))
  | .shfl d a b m =>
    some ((w3 i d a b).pushing .untyped, false, fun xs r x =>
      w (match (shflRank m xs.length r x.b.toNat).bind fun k => xs[k]? with
        | some y => y.a.toNat
        | none => x.a.toNat))
  | .vote d a .count => some (w2 i d a, false, fun xs _ _ => w (xs.countP fun x => x.a != 0))
  | .vote d a .first => some (w2 i d a, false, fun xs _ _ => w ((xs.findIdx? fun x => x.a != 0).getD 0xFFFFFFFF))
  | .vote d a .same => some (w2 i d a, false, fun xs _ _ => w (oneIf (∀ x ∈ xs, ∀ y ∈ xs, x.a = y.a)))
  | .vote d a .maj => some (w2 i d a, false, fun xs _ _ => w (oneIf (xs.length < 2 * xs.countP fun x => x.a != 0)))
  | .sift d a =>
    some (form2 i.isTeam d .w64 a .w32, false, fun xs _ _ =>
      (received .w64 (ofBits 64 fun j => xs.any fun x => x.strand % 64 == j && x.a != 0), 0))
  | .credf d a m =>
    some ((w2 i d a).pushing .f32, false, fun xs _ _ =>
      let r := match m with
        | .sum => sumF (xs.map Member.a)
        | .max => extremeF true 0 (xs.map Member.a)
        | .min => extremeF false 0 (xs.map Member.a)
      (r.bits.setWidth 64, r.flags))
  | .credi d a m =>
    some (w2 i d a, false, fun xs _ _ => w (match m with
      | .sum => (xs.map fun x => (x.a.toNat : Int)).sum
      | .max => ((xs.map fun x => x.a.toInt).max?).getD 0
      | .min => ((xs.map fun x => x.a.toInt).min?).getD 0
      | .maxu => ((xs.map fun x => x.a.toNat).max?).getD 0
      | .minu => ((xs.map fun x => x.a.toNat).min?).getD 0
      | .and => ofBits 32 fun k => xs.all fun x => x.a.getLsbD k
      | .or => ofBits 32 fun k => xs.any fun x => x.a.getLsbD k
      | .xor => ofBits 32 fun k => xs.countP (fun x => x.a.getLsbD k) % 2 == 1))
  | _ => none

/-! ### Memory instructions -/

/-- The low bytes of a value, the first at the lowest address (R4). -/
def lowBytes (n : Nat) (x : DWord) : List Byte := (List.range n).map fun k => BitVec.ofNat 8 (x.toNat / 256 ^ k)

/-- A load of a size. -/
def loadOp (n : Nat) (d : Dst) : MemOp := { kind := .load, size := n, need := permR, align := n, sink := sinkOf d (n == 8) }

/-- A store of a size. -/
def storeOp (n : Nat) (v : Vals) : MemOp := { kind := .store, size := n, need := permW, align := n, bytes := lowBytes n v.d }

/-- An atomic of a size, with A2 the offset and B the operand. -/
def atomicOpOf (op : AtomicOp) (n : Nat) (d : Dst) (v : Vals) : MemOp :=
  { kind := .atomic op v.b v.d, size := n, need := permR ||| permW ||| permA, req := .atomic op, align := n,
    bytes := lowBytes n v.b, sink := sinkOf d (n == 8) }

/-- THE MEMORY INSTRUCTIONS (R170 to R174, R235, R237, R284, R399): the operand form, the label register that names the path (none where it is
B2), the offset and the access. -/
def memRule (i : Instr) : Option (Form × Option (Fin 8) × (Vals → DWord) × (Vals → MemOp)) :=
  let t := i.isTeam
  let disp (v : Vals) : DWord := BitVec.ofInt 64 (u64 v.a + s32 v.b)
  let load (n : Nat) (d : Dst) (a b : Src) (l : Fin 8) : Form × Option (Fin 8) × (Vals → DWord) × (Vals → MemOp) :=
    ((form3 t d (if n = 8 then .w64 else .w32) a .w64 b .w32).pushing .untyped, some l, disp, fun _ => loadOp n d)
  let store (n : Nat) (d : Dst) (a b : Src) (l : Fin 8) : Form × Option (Fin 8) × (Vals → DWord) × (Vals → MemOp) :=
    ((form3 t d (if n = 8 then .w64 else .w32) a .w64 b .w32).as .read, some l, disp, fun v => storeOp n v)
  let atomic (op : AtomicOp) (n : Nat) (d : Dst) (a b : Src) (l : Fin 8) : Form × Option (Fin 8) × (Vals → DWord) × (Vals → MemOp) :=
    let w : Width := if n = 8 then .w64 else .w32
    ((form3 t d w a .w64 b w).as (if op = .cas then .both else .write), some l, Vals.a, fun v => atomicOpOf op n d v)
  match i with
  | .ldw d a b l | .teamLdw d a b l => some (load 4 d a b l)
  | .ldd d a b l | .teamLdd d a b l => some (load 8 d a b l)
  | .ldh d a b l => some (load 2 d a b l)
  | .ldb d a b l => some (load 1 d a b l)
  | .stw d a b l | .teamStw d a b l => some (store 4 d a b l)
  | .std d a b l | .teamStd d a b l => some (store 8 d a b l)
  | .sth d a b l => some (store 2 d a b l)
  | .stb d a b l => some (store 1 d a b l)
  | .ldx d a b | .teamLdx d a b => some ((form3 t d .w32 a .w64 b .w64).pushing .untyped, none, Vals.a, fun _ => loadOp 4 d)
  | .stx d a b | .teamStx d a b => some ((form3 t d .w32 a .w64 b .w64).as .read, none, Vals.a, fun v => storeOp 4 v)
  | .lde d a b l =>
    some ((form3 t d .w32 a .w64 b .w32).pushing .f32, some l, Vals.a, fun v =>
      { kind := .element (lowWord v.b), size := 64, need := permR, align := 64, sink := sinkOf d false })
  | .aadd d a b l | .teamAadd d a b l => some (atomic .add 4 d a b l)
  | .amax d a b l | .teamAmax d a b l => some (atomic .max 4 d a b l)
  | .aor d a b l => some (atomic .or 4 d a b l)
  | .axch d a b l | .teamAxch d a b l => some (atomic .xch 4 d a b l)
  | .acas d a b l | .teamAcas d a b l => some (atomic .cas 4 d a b l)
  | .aaddd d a b l | .teamAaddd d a b l => some (atomic .add 8 d a b l)
  | .acasd d a b l | .teamAcasd d a b l => some (atomic .cas 8 d a b l)
  | .ldl a b l =>
    some (formAB true a .w64 b .w64, none, Vals.a, fun _ =>
      { kind := .load, size := 8, need := permR, align := 8, sink := .label l.val })
  | .waita d a b l | .teamWaita d a b l =>
    some ((form3 t d .w32 a .w64 b .w32).as .read, some l, disp, fun v =>
      { kind := .wait (lowWord v.d), size := 4, need := permR, req := .waita, align := 4 })
  | .fencef d a b l | .teamFencef d a b l =>
    some ((form3 t d .w32 a .w64 b .w32).as .read, some l, disp, fun v =>
      { kind := .flag 0, size := 4, need := permW, req := .flag, align := 4, bytes := lowBytes 4 v.d })
  | _ => none

/-- The label word of a memory instruction: a label register, or B2. -/
def pathWord (tm : Team) (l : Option (Fin 8)) (v : Vals) : DWord :=
  match l with
  | some l => listGetD tm.labels l.val 0
  | none => v.b

/-- Nothing holds an instruction that touches memory: for an address slice, no queue load of its team is unperformed (R198), and no LDL has yet
to write a label register (R235). A compute strand is never held so. -/
def MemoryFree (s : State) (i : Instr) (tm : Team) : Prop :=
  i.isTeam = true → loadsPending tm = false ∧ ∀ l, labelPending s (tm.name none) l = false

/-- A slice's instruction waits for the data of its access: LDE, WAITA, and a load or atomic that pushes its result. -/
def holdsForData (op : MemOp) : Bool :=
  match op.kind, op.sink with
  | .element _, _ | .wait _, _ => true
  | .load, .push _ | .atomic _ _ _, .push _ => true
  | _, _ => false

/-- A slice's team stands where its gang says. -/
def InPlace (s : State) (id : SliceId) (tm : Team) : Prop :=
  findTeam s tm.launch tm.gang tm.gteam = some (.active (teamIdOf id), tm)

end Sys2Proof.Machine
end

