-- ==== Sys2Proof/Certificates/Slice0/Obligations.lean ====
section
/-! DEFINITION. The statements for the provers: each formalises rules of spec/ that its docstring and OBLIGATIONS.json name. -/

open Sys2Proof Sys2Proof.Machine

/-- In both sets, words written bit by bit (SET, OP, D, A, B, M; or SET, OP, A/D, IMM17), with their literal words, decode to the instruction
that the opcode map gives them. (R22, R23, R25, R28) -/
def Obligations.DecodeWords : Prop :=
  decode false [0b0_0000000_0000001_0000010_0000011_001] = .ok (.iadd (.reg 1) (.reg 2) (.reg 3) .ss) ∧
  decode false [0b0_0001010_0000100_0000100_1111100_000, 0xFFFFFFFF] = .ok (.dadd (.reg 4) (.reg 4) (.lit 0xFFFFFFFF)) ∧
  decode false [0b0_0100101_0000000_00000000000001011] = .ok (.sread (.reg 0) 11) ∧
  decode false [0b0_0110001_1110100_11111111111111110] = .ok (.bnz (.queue 0) 0x1FFFE) ∧
  decode false [0b0_1000110_0000100_0000001_0000010_000] = .ok (.fmac (.reg 4) (.reg 1) (.reg 2) .rne) ∧
  decode false [0b0_1100000_1111110_0001010_1111110_000] = .ok (.setc (.reg 10)) ∧
  decode false [0b0_1100010_0000011_0000001_1111100_000, 0] = .ok (.shfl (.reg 3) (.reg 1) (.lit 0) .pick) ∧
  decode false [0b0_1101000_0000101_0000110_1111110_010] = .ok (.ldw (.reg 5) (.reg 6) .zero 2) ∧
  decode true [0b1_0000000_0000001_0000010_0000011_000] = .ok (.teamIadd (.reg 1) (.reg 2) (.reg 3) .wrap) ∧
  decode true [0b1_1000000_1110101_0000100_1111100_011, 4] = .ok (.qld (.queue 1) (.reg 4) (.lit 4) 3) ∧
  decode true [0b1_1010000_0000010_0000100_0000110_001] = .ok (.cpy (.reg 2) (.reg 4) (.reg 6) 1) ∧
  decode true [0b1_1011000_0000001_0000010_0000100_000] = .ok (.mmat (.reg 1) (.reg 2) (.reg 4)) ∧
  decode true [0b1_1100011_0000000_0000010_0000100_000] = .ok (.launch (.reg 0) (.reg 2) (.reg 4) 0) ∧
  decode true [0b1_1110000_1111110_1111101_1111100_111, 0x89ABCDEF, 0x01234567, 0xFFFFFFFC] =
    .ok (.teamLdw .zero (.lit64 0x0123456789ABCDEF) (.lit 0xFFFFFFFC) 7)

/-- For every instruction that has words and is well formed, whatever words follow, the decoder of its set reads the instruction back from its
words; the fetch unit takes exactly those words, and they are one to five. (R22, R23, R25, R28, R32) -/
def Obligations.DecodeEncode : Prop :=
  ∀ (i : Instr) (rest : List Word), i.hasWord = true → i.wellFormed = true →
    decode i.isTeam (encode i ++ rest) = .ok i ∧
    (encode i).head?.map (lengthOf i.isTeam) = some i.length ∧ 1 ≤ i.length ∧ i.length ≤ 5

/-- Whenever the decoder of a set reads an instruction from words, the instruction is well formed, belongs to that set, and its encoding is
exactly the words that it takes. (R21, R22, R23, R25, R28, R31) -/
def Obligations.EncodeDecode : Prop :=
  ∀ (team : Bool) (ws : List Word) (i : Instr), decode team ws = .ok i →
    i.wellFormed = true ∧ i.isTeam = team ∧ encode i = ws.take i.length ∧ i.length ≤ ws.length

/-- For each opcode that R55 leaves unassigned, whatever the other fields and the words after it: the fetch unit takes one word, the decoder
rejects it as illegal, and a slice that executes it is TRAPPED with cause 0x01, its PC on the word and NEXTPC the PC plus 4. (R55) -/
def Obligations.UnassignedOpcodes : Prop :=
  ∀ (team : Bool) (w : Word) (rest : List Word), (Raw.ofWord w).team = team →
    (Raw.ofWord w).op.toNat ∈ (if team then
      [0x2F, 0x3D, 0x3E, 0x3F, 0x49, 0x4A, 0x4B, 0x4C, 0x4D, 0x4E, 0x4F, 0x5E, 0x5F, 0x6B, 0x6C, 0x6D, 0x6E, 0x6F, 0x7E, 0x7F]
      else [0x2F, 0x3D, 0x3E, 0x3F, 0x5F, 0x67]) →
    lengthOf team w = 1 ∧ decode team (w :: rest) = .error (.illegalOp w) ∧
    ∀ (s : State) (tm : Team) (sl : Slice) (launch : Nat), sliceAt s s.cur = some (tm, sl) → s.cur.strand.isNone = team →
      breakpointAt s launch sl.skip sl.pc = none →
      ∃ t sl' r, runWords s launch sl [w] = .next t ∧ (sliceAt t s.cur).map (·.2) = some sl' ∧ sl'.run = .trapped ∧
        sl'.pc = sl.pc ∧ sl'.regs = sl.regs ∧ sl'.record = some r ∧ r.cause = 0x01 ∧ r.cls = 0 ∧ r.pc = sl.pc ∧
        r.nextPc = sl.pc + 4 ∧ r.info0 = w.setWidth 64

/-- For a lane-set opcode with three 32-bit operands, and for one with three 64-bit operands, the decoder gives exactly the first of rows 5 to
8 of R34 that applies, and otherwise the instruction; a word of the other set is WRONG_SLICE whatever it holds. (R34, R25, R27, R31) -/
def Obligations.RejectOrder : Prop :=
  (∀ (team : Bool) (w : Word) (rest : List Word), (Raw.ofWord w).team ≠ team → decode team (w :: rest) = .error (.wrongSlice w)) ∧
  (∀ (op d a b : BitVec 7) (m : BitVec 3) (ms : Nat) (l1 l2 : Word), laneShape op.toNat = some ⟨.a, .w32, .w32, .w32, true, ms⟩ →
    let w := (Raw.mk false op d a b m).word
    let r := decode false [w, l1, l2]
    if ms ≤ m.toNat then r = .error (.badModifier m)
    else if d.toNat = 127 ∨ (118 ≤ d.toNat ∧ d.toNat ≤ 123) then r = .error (.badOperand 1 d)
    else if a.toNat = 125 ∨ a.toNat = 127 then r = .error (.badOperand 2 a)
    else if b.toNat = 125 ∨ b.toNat = 127 then r = .error (.badOperand 3 b)
    else if d.toNat = 124 ∨ d.toNat = 125 then r = .error (.literalDest d)
    else ∃ i, r = .ok i ∧ i.isTeam = false ∧ encode i = [w, l1, l2].take i.length) ∧
  (∀ (op d a b : BitVec 7) (m : BitVec 3) (ms : Nat) (l1 l2 l3 l4 : Word), laneShape op.toNat = some ⟨.a, .w64, .w64, .w64, true, ms⟩ →
    let w := (Raw.mk false op d a b m).word
    let r := decode false [w, l1, l2, l3, l4]
    let queueOrNone (c : BitVec 7) : Prop := c.toNat = 127 ∨ (116 ≤ c.toNat ∧ c.toNat ≤ 123)
    let oddReg (c : BitVec 7) : Prop := c.toNat < 116 ∧ c.toNat % 2 = 1
    (ms ≤ m.toNat → r = .error (.badModifier m)) ∧
    (m.toNat < ms → queueOrNone d → r = .error (.badOperand 1 d)) ∧
    (m.toNat < ms → ¬ queueOrNone d → queueOrNone a → r = .error (.badOperand 2 a)) ∧
    (m.toNat < ms → ¬ queueOrNone d → ¬ queueOrNone a → queueOrNone b → r = .error (.badOperand 3 b)) ∧
    (m.toNat < ms → ¬ queueOrNone d → ¬ queueOrNone a → ¬ queueOrNone b →
      ((d.toNat = 124 ∨ d.toNat = 125) → r = .error (.literalDest d)) ∧
      (d.toNat ≠ 124 → d.toNat ≠ 125 → oddReg d → r = .error (.oddPair 1 d)) ∧
      (d.toNat ≠ 124 → d.toNat ≠ 125 → ¬ oddReg d → oddReg a → r = .error (.oddPair 2 a)) ∧
      (d.toNat ≠ 124 → d.toNat ≠ 125 → ¬ oddReg d → ¬ oddReg a → oddReg b → r = .error (.oddPair 3 b)) ∧
      (d.toNat ≠ 124 → d.toNat ≠ 125 → ¬ oddReg d → ¬ oddReg a → ¬ oddReg b →
        ∃ i, r = .ok i ∧ i.isTeam = false ∧ encode i = [w, l1, l2, l3, l4].take i.length)))

/-- When a slice has its turn, may issue, meets no breakpoint and the words at its PC decode to an instruction, the step is exec of that
instruction at the state after the cycles of the turn, with that slice current; around it the step settles what the slice no longer waits
for, lets the debug slots record the turn, and does what follows every turn. With an empty schedule the same holds of the current slice
once the boot sequence stands. The schedule, what runs where it is empty and the cycles of a turn are log 1 and log 2, the model's choice:
R98 fixes no order of turns. A fetch takes as many words of the code as the first word at the PC implies, or names the first word beyond
the segment. (R32, R33, R34, R98, R439) -/
def Obligations.StepRunsDecoded : Prop :=
  ((∀ (s s1 : State) (n : Nat) (id : SliceId) (rest : List Turn) (tm : Team) (sl : Slice) (ws : List Word) (i : Instr),
    s.agenda = ⟨n, .slice id⟩ :: rest → s1 = { beginTurn { s with agenda := rest } n with cur := id } →
    sliceAt s1 id = some (tm, sl) → canIssue s1 id = true → fetchAt (codeOf s1 tm.launch) id.strand.isNone sl.pc = .words ws →
    breakpointAt s1 tm.launch sl.skip sl.pc = none → decode id.strand.isNone ws = .ok i →
    step s = match exec i s1 with
      | .next t => .next (settleTurn s (observe (.slice id) s1 (settleIssue t)))
      | .fault r => .fault r
      | .refused r => .refused r) ∧
  (∀ (s s1 : State) (tm : Team) (sl : Slice) (ws : List Word) (i : Instr),
    s.agenda = [] → s1 = beginTurn s 1 → bootStep s1 = none →
    sliceAt s1 s1.cur = some (tm, sl) → canIssue s1 s1.cur = true →
    fetchAt (codeOf s1 tm.launch) s1.cur.strand.isNone sl.pc = .words ws →
    breakpointAt s1 tm.launch sl.skip sl.pc = none → decode s1.cur.strand.isNone ws = .ok i →
    step s = match exec i s1 with
      | .next t => .next (settleTurn s (observe (.slice s1.cur) s1 (settleIssue t)))
      | .fault r => .fault r
      | .refused r => .refused r)) ∧
  (∀ (code : List Word) (team : Bool) (pc : Word),
    match code[pc.toNat / 4]? with
    | none => fetchAt code team pc = .beyond pc
    | some w =>
      if pc.toNat / 4 + lengthOf team w ≤ code.length then
        fetchAt code team pc = .words ((code.drop (pc.toNat / 4)).take (lengthOf team w))
      else fetchAt code team pc = .beyond (BitVec.ofNat 32 (4 * code.length)))

/-- When the head of the schedule is an event, the step is exec of it at the state after the cycles of the turn, recorded by the debug slots,
with what follows every turn; when it is a slice that stands in an active bank and may not issue, only the cycles of the turn pass, the
debug slots record it, and what follows every turn is done, which may move slices. The schedule and its cycles are log 1 and log 2, the
model's choice. (R98) -/
def Obligations.StepRunsEvents : Prop :=
  ∀ (s s1 : State) (n : Nat) (rest : List Turn), s1 = beginTurn { s with agenda := rest } n →
    (∀ e, s.agenda = ⟨n, .event e⟩ :: rest →
      step s = match exec e s1 with
        | .next t => .next (settleTurn s (observe (.event e) s1 t))
        | .fault r => .fault r
        | .refused r => .refused r) ∧
    (∀ id x, s.agenda = ⟨n, .slice id⟩ :: rest → sliceAt s1 id = some x → canIssue s1 id = false →
      step s = .next (settleTurn s (observe (.slice id) { s1 with cur := id } { s1 with cur := id })))

/-- For every instruction of either set and every state whose current slice stands in an active bank, exec answers a next state. Every event
but the three fetch traps, which are the current slice's, answers one in every state, whether or not a slice stands. Where none stands, an
instruction either goes on or is the fault noSlice; no arm refuses. (R100) -/
def Obligations.NeverStops : Prop :=
  (∀ (i : Instr) (s : State), (sliceAt s s.cur).isSome = true → goesOn (exec i s) = true) ∧
  (∀ (i : Instr) (s : State), sliceAt s s.cur = none → goesOn (exec i s) = true ∨ exec i s = .fault .noSlice) ∧
  (∀ (i : Instr) (s : State), i.hasWord = false → (∀ w, i ≠ .illegalOp w ∧ i ≠ .wrongSlice w ∧ i ≠ .fetchRange w) →
    goesOn (exec i s) = true)

/-- State.reset lists no byte of main memory, places no team, launch or gang, holds no key, has its count of ac cycles and its wall clock at
0, stands in boot stage 1 with no failure, has phase map 1, LAUNCHCOUNT 1, ICRED 32, incarnation 0 and every debug slot with SINT 15, and
its memories stand in the canonical form. R382, R402, R438 and R449 give the phase map, ICRED, SINT, LAUNCHCOUNT and the boot stage; the
package number and incarnation 0 are log 6, empty memory is log 3 and the other zeros log 5, the model's choice. (R382, R402, R438, R449) -/
def Obligations.ResetState : Prop :=
  State.reset.mem = [] ∧ State.reset.cores = [] ∧ State.reset.launches = [] ∧ State.reset.gangs = [] ∧ State.reset.keys = [] ∧
  State.reset.clock = 0 ∧ State.reset.wall = 0 ∧ State.reset.service.stage = 1 ∧ State.reset.service.fail = false ∧
  State.reset.regs.phaseMap = 1 ∧ State.reset.launchCount = 1 ∧ State.reset.regs.icred = 32 ∧ State.reset.regs.incarnation = 0 ∧
  (∀ n, field (listGetD (debugSlot State.reset n).d 1 0) 31 28 = 15) ∧ State.reset.memoriesOk = true

/-- If main memory, host memory and the weight stores stand in the canonical form (addresses strictly rising, no byte listed that an unlisted
address reads as), and a step answers a next state, they stand in it there too. (R177, R293, R300) -/
def Obligations.MemoriesOkKept : Prop :=
  ∀ s t : State, s.memoriesOk = true → step s = .next t → t.memoriesOk = true

/-- If the accesses in flight stand in the strictly rising order of their numbers, each below the number that the next access will take, and a
step answers a next state, they stand so there too: no two accesses in flight are ever confused, and the order in which a slice's accesses
were accepted is never lost. At reset none is in flight. (R176, R361) -/
def Obligations.AccessNumbersKept : Prop :=
  State.reset.accessesOrdered ∧ ∀ s t : State, s.accessesOrdered → step s = .next t → t.accessesOrdered

/-- For a record whose slice identity lies in the ranges of the package, each field of R103 stands at its bits, and the reserved bits are 0.
(R103) -/
def Obligations.TrapRecordLayout : Prop :=
  ∀ r : TrapRecord, r.id.core < 384 → r.id.slot < 16 → (∀ i, r.id.strand = some i → i < 1024) →
    ∃ d0 d1 d2, r.words = [d0, d1, d2, r.clock, r.info0, r.info1, r.detail0, r.detail1] ∧
      field d0 63 56 = r.cause.toNat ∧ field d0 55 52 = r.cls.toNat ∧ field d0 51 48 = 0 ∧ field d0 47 35 = r.pkg.toNat ∧
      field d0 34 33 = r.id.core / 96 ∧ field d0 32 26 = r.id.core % 96 ∧ field d0 25 22 = r.id.slot ∧
      field d0 21 21 = (if r.id.strand = none then 1 else 0) ∧ field d0 20 11 = r.id.strand.getD 0 ∧ field d0 10 0 = 0 ∧
      field d1 63 32 = r.nextPc.toNat ∧ field d1 31 0 = r.pc.toNat ∧
      field d2 63 32 = r.launch.toNat ∧ field d2 31 16 = r.world.toNat ∧ field d2 15 13 = r.field.toNat ∧ field d2 12 0 = 0

/-- A slice that takes a trap of class ENCODING, PROGRAM, DATA or DEBUG enters TRAPPED with a record of the cause, its class, its PC, the
NEXTPC, FIELD, INFO0 and INFO1 of the trap, its launch and world and the cycle count. Its PC, registers, %sp, flags, circle, step bit,
queues and held stores are kept; no other slice, team, core, register of the package or byte of memory changes; one record waits to be
written for the slice, and it goes to the trap queue of the launch, or for class DEBUG to the debug slot attached to that launch, where
there is one; that it is the first such slot is log 112, the model's choice. Each trap code has the value and the class of R102. (R100,
R101, R102, R103) -/
def Obligations.TakingATrap : Prop :=
  (∀ (s : State) (id : SliceId) (tm : Team) (sl : Slice) (i : TrapInfo), sliceAt s id = some (tm, sl) →
    ∃ t sl' r, trapSlice s id i = t ∧ OnlySlice s { t with waiting := s.waiting } id sl' ∧
      sl' = { sl with run := .trapped, record := some r, stall := none, await := none, skip := false, arrived := none, waits := none,
                      scatter := [], linv := 0 } ∧
      r = { cause := i.cause.value, cls := i.cause.cls.value, pkg := BitVec.ofNat 13 s.regs.number, id := id, nextPc := i.next, pc := sl.pc,
            launch := BitVec.ofNat 32 tm.launch, world := BitVec.ofNat 16 tm.world, field := i.field, clock := s.clock,
            info0 := i.info0, info1 := i.info1, detail0 := i.detail0, detail1 := i.detail1 } ∧
      t.waiting = s.waiting ++ [⟨(match i.cause.cls, debugSlotOf s tm.launch with
        | .debug, some n => .debug n
        | _, _ => .trap tm.launch), r.words, .slice (tm.name id.strand), false⟩] ∧
      (∀ n, debugSlotOf s tm.launch = some n → (∃ p ∈ s.debugSlots, p.1 = n ∧ (listGetD p.2.d 0 0).getLsbD 63 = true ∧
        (listGetD p.2.d 0 0).getLsbD 62 = true ∧ field (listGetD p.2.d 1 0) 63 32 = tm.launch ∧ field (listGetD p.2.d 3 0) 63 48 ≠ 0))) ∧
  (∀ c : Cause, (c.value.toNat, c.cls.value.toNat) = (match c with
    | .illegalOp => (0x01, 0) | .wrongSlice => (0x02, 0) | .badModifier => (0x03, 0) | .badOperand => (0x04, 0)
    | .literalDest => (0x05, 0) | .oddPair => (0x06, 0) | .regRange => (0x07, 0) | .queueUndeclared => (0x08, 0)
    | .queueKind => (0x09, 0) | .fetchRange => (0x0A, 0) | .misalignedPc => (0x0B, 0) | .badSpecial => (0x0C, 0)
    | .stackOverflow => (0x0D, 1) | .stackUnderflow => (0x0E, 1) | .circleMask => (0x0F, 1) | .trap => (0x10, 1)
    | .breakpoint => (0x11, 2) | .step => (0x12, 2) | .watch => (0x13, 2) | .labelMiss => (0x20, 4) | .labelDenied => (0x21, 5)
    | .offsetRange => (0x22, 5) | .wrongWorld => (0x23, 5) | .poisonPop => (0x24, 3) | .badHallmark => (0x25, 3)
    | .misalignedAccess => (0x26, 3) | .peerReset => (0x27, 3) | .notInPhase => (0x28, 3) | .linkKeyExhausted => (0x29, 6)))

/-- For any form of operands, in a slice whose named registers lie below its count and have no write pending: the gathering succeeds with no
pops, and D, A and B are the register, the pair with the even register low, the literal (sign-extended in a 64-bit position), the 64-bit
literal, or zero. (R25, R26, R27, R28, R209) -/
def Obligations.OperandsThatAreThere : Prop :=
  ∀ (s : State) (w : Option Nat) (tm : Team) (sl : Slice) (f : Form) (vd va vb : DWord), f.bq = false →
    plainDst sl f.dw f.d = some vd → plainSrc sl f.aw f.a = some va → plainSrc sl f.bw f.b = some vb →
    nonePending s (tm.name w) f → gather s w tm sl f (.ok ()) = .ok ⟨vd, va, vb, []⟩

/-- The checks that the declarations decide come in the order of R34 rows 9 to 11 and, within a row, in the order D, A, B: REG_RANGE for a
register or pair member at or above the count, QUEUE_UNDECLARED, QUEUE_KIND. The trap carries the field, its code in INFO0 and NEXTPC past
the instruction, and nothing is gathered; a field that the instruction reads without writing traps BAD_OPERAND on a queue code after them.
(R26, R27, R30, R34, R41, R453) -/
def Obligations.OperandTraps : Prop :=
  ∀ (s : State) (w : Option Nat) (tm : Team) (sl : Slice) (f : Form),
    let stops (c : Cause) (fld : BitVec 3) (code : BitVec 7) : Prop :=
      gather s w tm sl f (.ok ()) = .error (.trap { cause := c, field := fld, next := sl.pc + BitVec.ofNat 32 (4 * f.len), info0 := code.setWidth 64 })
    let far (wd : Width) (n : Nat) : Prop := (wd = .w32 ∧ sl.regs.length ≤ n) ∨ (wd = .w64 ∧ sl.regs.length ≤ n + 1)
    let farD : Prop := ∃ n, f.d = .reg n ∧ far f.dw n.val
    let farA : Prop := ∃ n, f.a = .reg n ∧ far f.aw n.val
    let farB : Prop := ∃ n, f.b = .reg n ∧ far f.bw n.val
    let undeclared (back : Bool) (n : Nat) : Prop := (tm.queueDecl back n).kind = .undeclared
    let noD : Prop := ∃ n, f.d = .queue n ∧ undeclared (!f.team) n.val
    let noA : Prop := ∃ n, f.a = .queue n ∧ undeclared f.team n.val
    let noB : Prop := ∃ n, f.b = .queue n ∧ undeclared f.team n.val
    (farD → stops .regRange 1 f.d.code) ∧
    (¬ farD → farA → stops .regRange f.afield f.a.code) ∧
    (¬ farD → ¬ farA → farB → stops .regRange 3 f.b.code) ∧
    (¬ farD → ¬ farA → ¬ farB →
      (noD → stops .queueUndeclared 1 f.d.code) ∧
      (¬ noD → noA → stops .queueUndeclared f.afield f.a.code) ∧
      (¬ noD → ¬ noA → noB → stops .queueUndeclared 3 f.b.code) ∧
      (¬ noD → ¬ noA → ¬ noB →
        (∀ n, f.d = .queue n → f.role ≠ .none → f.role ≠ .read → f.team = true → (tm.queueDecl false n.val).kind = .lane → stops .queueKind 1 f.d.code) ∧
        (∀ n, f.d = .queue n → f.role ≠ .none → f.role ≠ .read → f.team = false → (tm.queueDecl true n.val).kind = .uniform →
          (tm.queueDecl true n.val).rule ≠ .first →
          ((f.push = .i32 ∧ (tm.queueDecl true n.val).float = true) ∨ (f.push = .f32 ∧ (tm.queueDecl true n.val).float = false)) →
          stops .queueKind 1 f.d.code) ∧
        (∀ n, (∀ m, f.d ≠ .queue m) → f.a = .queue n → f.team = true → (tm.queueDecl true n.val).kind = .lane →
          stops .queueKind f.afield f.a.code) ∧
        (∀ n, (∀ m, f.d ≠ .queue m) → (∀ m, f.a ≠ .queue m) → f.b = .queue n → f.bq = false → f.team = true →
          (tm.queueDecl true n.val).kind = .lane → stops .queueKind 3 f.b.code) ∧
        (∀ n, f.d = .queue n → (∀ m, f.a ≠ .queue m) → (∀ m, f.b ≠ .queue m) →
          (f.role = .read ∨ (f.role = .both ∧ f.team = true ∧ (tm.queueDecl false n.val).kind ≠ .lane) ∨
            (f.role = .both ∧ f.team = false ∧ ((tm.queueDecl true n.val).kind = .lane ∨ (tm.queueDecl true n.val).rule = .first ∨
              f.push = .untyped))) → stops .badOperand 1 f.d.code)))

/-- When the gathering of an instruction of the integer or floating-point tables gives a trap, the step takes that trap; when it gives a wait,
the slice stalls with the class; when it gives a condition to park on, a compute strand parks on it and an address slice stalls with its
class. The PC stays on the instruction. When an access in flight has yet to write a register, or a pair member, that an instruction reads
or writes, the gathering makes the slice wait with class DEPEND: its run state, PC and registers are kept, no queue is popped and no other
slice changes. (R34, R98, R100, R209) -/
def Obligations.StoppedInstruction : Prop :=
  (∀ (i : Instr) (f : Form) (s : State) (tm : Team) (sl : Slice) (st : Stop),
    ((∃ n g, arithmeticRule i = some (n, f, g)) ∨ (∃ n g, bitRule i = some (n, f, g)) ∨ (∃ n g, moveRule i = some (n, f, g)) ∨
      (∃ g, floatRule i = some (f, g))) →
    sliceAt s s.cur = some (tm, sl) → gather s s.cur.strand tm sl f (.ok ()) = .error st →
    exec i s = .next (stopAt s s.cur f st) ∧
    (∀ t, st = .trap t → exec i s = .next (trapSlice s s.cur t)) ∧
    (∀ w, st = .park w → ∃ t sl', exec i s = .next t ∧ OnlySlice s t s.cur sl' ∧ sl'.pc = sl.pc ∧ sl'.regs = sl.regs ∧
      (s.cur.strand.isSome = true → sl'.run = .parked w) ∧ (s.cur.strand = none → sl'.run = sl.run ∧ sl'.stall = some w.cls))) ∧
  (∀ (s : State) (tm : Team) (sl : Slice) (f : Form) (vd va vb : DWord) (n : Nat), sliceAt s s.cur = some (tm, sl) → f.bq = false →
    plainDst sl f.dw f.d = some vd → plainSrc sl f.aw f.a = some va → plainSrc sl f.bw f.b = some vb →
    n ∈ f.regs → regPending s (tm.name s.cur.strand) n = true →
    gather s s.cur.strand tm sl f (.ok ()) = .error (.wait .depend) ∧
    ∃ b, OnlySlice s (stopAt s s.cur f (.wait .depend)) s.cur { sl with stall := some .depend, blame := b })

/-- For a slice whose step bit is 0, completing with a result for a register, a pair or code 126 and no pops changes one slice only: its PC
goes past the instruction, the destination register or pair takes the result, the flags are ORed in, and its marks of waiting, skipping,
arrival and blocked progress are cleared; its %sp, circle mask, queue positions, stack window, held stores and fabric counts are kept.
Every other slice, team, core and register of the package and every byte of memory is unchanged. Completing without a result does the same
and writes no register. Completing an instruction in a slice whose step bit is 1 leaves it TRAPPED at the next instruction: the result is
written, the record carries cause 0x12, class DEBUG, and PC and NEXTPC both the address of the next instruction; it waits for the attached
debugger's queue (log 112). (R25, R27, R29, R78, R105) -/
def Obligations.CompletionFrame : Prop :=
  (∀ (s : State) (tm : Team) (sl : Slice) (f : Form) (v : Vals) (r : DWord) (fl next : Word), sliceAt s s.cur = some (tm, sl) →
    sl.stepBit = false → v.pops = [] → (∀ q, f.d ≠ .queue q) →
    OnlySlice s (finish f sl v r fl s) s.cur
      { sl with pc := sl.pc + BitVec.ofNat 32 (4 * f.len), regs := writtenRegs f.d f.dw r sl.regs, fflags := sl.fflags ||| fl,
                stall := none, await := none, skip := false, arrived := none, waits := none, scatter := [], linv := 0 } ∧
    OnlySlice s (finishNone v next s) s.cur
      { sl with pc := next, stall := none, await := none, skip := false, arrived := none, waits := none, scatter := [], linv := 0 } ∧
    (∀ a, Memory.read (finish f sl v r fl s).mem a = Memory.read s.mem a ∧
      Memory.read (finish f sl v r fl s).hostMem a = Memory.read s.hostMem a)) ∧
  (∀ (s : State) (tm : Team) (sl : Slice) (f : Form) (v : Vals) (r : DWord) (fl : Word), sliceAt s s.cur = some (tm, sl) →
    sl.stepBit = true → v.pops = [] → (∀ q, f.d ≠ .queue q) →
    ∃ sl' rc, OnlySlice s { finish f sl v r fl s with waiting := s.waiting } s.cur sl' ∧ sl'.run = .trapped ∧
      sl'.pc = sl.pc + BitVec.ofNat 32 (4 * f.len) ∧ sl'.regs = writtenRegs f.d f.dw r sl.regs ∧ sl'.fflags = sl.fflags ||| fl ∧
      sl'.stepBit = true ∧ sl'.record = some rc ∧ rc.cause = 0x12 ∧ rc.cls = 2 ∧ rc.pc = sl'.pc ∧ rc.nextPc = sl'.pc ∧
      (finish f sl v r fl s).waiting = s.waiting ++ [⟨recordQueue s tm.launch .debug, rc.words, .slice (tm.name s.cur.strand), false⟩])

/-- A compute strand whose A and B pop the same declared forward queue gathers the element that belongs to it (its own in a LANE entry, the
one element of a UNIFORM entry) of the entry at its position into A, and that of the next entry into B; while an element that it pops, the
first or behind a performed first one the second, is missing or neither performed nor poisoned, it parks with class QUEUE_EMPTY on that
element. (R29, R187, R189) -/
def Obligations.ForwardPops : Prop :=
  ∀ (s : State) (tm : Team) (sl : Slice) (i : Nat) (d : Dst) (vd : DWord) (q : Fin 8),
    let f := form3 false d .w32 (.queue q) .w32 (.queue q) .w32
    let at_ (k : Nat) : Option FEntry := (tm.fqueue q.val).entries[listGetD sl.popped q.val 0 + k - (tm.fqueue q.val).base]?
    let mine : Nat := if (tm.queueDecl false q.val).kind = .lane then i else 0
    let waits (k : Nat) : Prop := ∀ e x, at_ k = some e → e.elems[mine]? = some x → x.unperformed = true
    plainDst sl .w32 d = some vd → nonePending s (tm.name (some i)) f → (tm.queueDecl false q.val).kind ≠ .undeclared →
    (∀ e0 e1 x0 x1, at_ 0 = some e0 → at_ 1 = some e1 → e0.elems[mine]? = some x0 → e1.elems[mine]? = some x1 →
      x0.state = .performed → x1.state = .performed →
      gather s (some i) tm sl f (.ok ()) = .ok ⟨vd, x0.value.setWidth 64, x1.value.setWidth 64, [q.val, q.val]⟩) ∧
    (waits 0 → gather s (some i) tm sl f (.ok ()) = .error (.park (.elem q.val (listGetD sl.popped q.val 0) mine))) ∧
    (∀ e0 x0, at_ 0 = some e0 → e0.elems[mine]? = some x0 → x0.state = .performed → waits 1 →
      gather s (some i) tm sl f (.ok ()) = .error (.park (.elem q.val (listGetD sl.popped q.val 0 + 1) mine))) ∧
    (WaitFor.elem q.val (listGetD sl.popped q.val 0) mine).cls = .queueEmpty

/-- For an address slice that pops a UNIFORM back queue: when every live strand has pushed more entries than have been popped, the value
gathered is the combined value of the contributions to the oldest entry; otherwise the pop finds the entry incomplete and the slice waits.
The counter of losses of decoupling of b0, and that of b1, rises once for a wait that names its queue, up to 0xFFFF_FFFF where it stays; a
wait on another queue changes neither. (R191, R192, R194, R195) -/
def Obligations.BackPops : Prop :=
  ∀ (s : State) (tm : Team) (sl : Slice) (d : Dst) (vd : DWord) (b : Fin 8),
    let f := form2 true d .w32 (.queue b) .w32
    let ready : Prop := ∀ p ∈ tm.indexed, p.2.run ≠ .exited → (tm.bqueue b.val).popped < listGetD p.2.pushed b.val 0
    sliceAt s s.cur = some (tm, sl) → s.cur.strand = none → plainDst sl .w32 d = some vd → nonePending s (tm.name none) f →
    (tm.queueDecl true b.val).kind = .uniform →
    (ready → gather s none tm sl f (.ok ()) = .ok ⟨vd, (combine (tm.queueDecl true b.val)
      (((tm.bqueue b.val).entries[0]?.map BEntry.contribs).getD [])).setWidth 64, 0, [b.val]⟩) ∧
    (¬ ready → gather s none tm sl f (.ok ()) = .error (.backq [b.val]) ∧
      ∃ t tm' sl', stopAt s s.cur f (.backq [b.val]) = t ∧ sliceAt t s.cur = some (tm', sl') ∧ sl'.stall = some .backq ∧
        sl'.pc = sl.pc ∧ sl'.run = sl.run ∧ tm'.bqueues = tm.bqueues ∧
        (sl.stall ≠ some .backq →
          tm'.bqWait0.toNat = (if b.val = 0 then min (tm.bqWait0.toNat + 1) (2 ^ 32 - 1) else tm.bqWait0.toNat) ∧
          tm'.bqWait1.toNat = (if b.val = 1 then min (tm.bqWait1.toNat + 1) (2 ^ 32 - 1) else tm.bqWait1.toNat)) ∧
        (sl.stall = some .backq → tm'.bqWait0 = tm.bqWait0 ∧ tm'.bqWait1 = tm.bqWait1))

/-- Writing the result of a compute strand to a back queue raises its count of pushes by one and appends its value, with the PC of the
instruction, to the entry of that number; writing the result of an address slice to a forward queue with a live strand makes one more
entry of one performed element. Registers, the other queues, and memory stay as they were. A compute strand whose push to a back queue
would go to entry n while entry n - d has not been popped parks on that room with class QUEUE_FULL; an address slice whose push to a
forward queue would make an entry while d entries are unretired stalls with it. Nothing is written. (R29, R188, R191) -/
def Obligations.Pushes : Prop :=
  ((∀ (s : State) (id : SliceId) (i : Nat) (tm : Team) (sl : Slice) (b : Fin 8) (r : DWord), id.strand = some i → sliceAt s id = some (tm, sl) →
    b.val < tm.bqueues.length → b.val < sl.pushed.length →
    ∃ tm' sl', sliceAt (writeDst s id (.queue b) .w32 r) id = some (tm', sl') ∧
      listGetD sl'.pushed b.val 0 = listGetD sl.pushed b.val 0 + 1 ∧ sl'.regs = sl.regs ∧ sl'.pc = sl.pc ∧
      (∃ e, (tm'.bqueue b.val).entries[listGetD sl.pushed b.val 0 - (tm.bqueue b.val).popped]? = some e ∧
        ⟨i, r.setWidth 32, sl.pc⟩ ∈ e.contribs) ∧
      (∀ c, c ≠ b.val → tm'.bqueue c = tm.bqueue c) ∧ tm'.fqueues = tm.fqueues ∧
      writeDst s id (.queue b) .w32 r = { s with cores := (writeDst s id (.queue b) .w32 r).cores }) ∧
  (∀ (s : State) (id : SliceId) (tm : Team) (sl : Slice) (q : Fin 8) (r : DWord), id.strand = none → sliceAt s id = some (tm, sl) →
    q.val < tm.fqueues.length →
    ∃ tm' sl', sliceAt (writeDst s id (.queue q) .w32 r) id = some (tm', sl') ∧ sl' = sl ∧
      (tm'.fqueue q.val).made = (tm.fqueue q.val).made + 1 ∧
      ((∃ n, tm.slowest q.val = some n ∧ n ≤ (tm.fqueue q.val).made) → (tm.fqueue q.val).entries.length ≤ (tm.fqueue q.val).made →
        ∃ e x, (tm'.fqueue q.val).entries.getLast? = some e ∧ e.elems = [x] ∧ x.state = .performed ∧ x.value = r.setWidth 32) ∧
      (∀ c, c ≠ q.val → tm'.fqueue c = tm.fqueue c) ∧ tm'.bqueues = tm.bqueues ∧
      writeDst s id (.queue q) .w32 r = { s with cores := (writeDst s id (.queue q) .w32 r).cores })) ∧
  ((∀ (s : State) (i : Nat) (tm : Team) (sl : Slice) (b : Fin 8) (a : Src) (va : DWord),
    let f := (form2 false (.queue b) .w32 a .w32).pushing .untyped
    plainSrc sl .w32 a = some va → nonePending s (tm.name (some i)) f → (tm.queueDecl true b.val).kind ≠ .undeclared →
    (tm.bqueue b.val).popped + (tm.queueDecl true b.val).depth ≤ listGetD sl.pushed b.val 0 →
    gather s (some i) tm sl f (.ok ()) = .error (.park (.room b.val (listGetD sl.pushed b.val 0))) ∧
    (WaitFor.room b.val (listGetD sl.pushed b.val 0)).cls = .queueFull) ∧
  (∀ (s : State) (tm : Team) (sl : Slice) (q : Fin 8) (a : Src) (va : DWord),
    let f := (form2 true (.queue q) .w32 a .w32).pushing .untyped
    sliceAt s s.cur = some (tm, sl) → s.cur.strand = none →
    plainSrc sl .w32 a = some va → nonePending s (tm.name none) f → (tm.queueDecl false q.val).kind = .uniform →
    (tm.queueDecl false q.val).depth ≤ (tm.fqueue q.val).entries.length →
    exec (.teamMov (.queue q) a) s = .next (parkSlice s s.cur (.room q.val (listGetD sl.pushed q.val 0))) ∧
    ∃ t sl', parkSlice s s.cur (.room q.val (listGetD sl.pushed q.val 0)) = t ∧ OnlySlice s t s.cur sl' ∧ sl'.stall = some .queueFull ∧
      sl'.pc = sl.pc ∧ sl'.regs = sl.regs ∧ sl'.run = sl.run))

/-- Two lists of contributions that are permutations of each other, each strand contributing once, combine to the same value under every
declared rule and type; and the reductions of CREDF and CREDI give the same result and flags for every order of the members' values.
(R167, R168, R192) -/
def Obligations.CombineIgnoresOrder : Prop :=
  (∀ (d : QueueDecl) (xs ys : List Contribution), xs.Perm ys → (xs.map Contribution.strand).Nodup → combine d xs = combine d ys) ∧
  (∀ (xs ys : List Word), xs.Perm ys → sumF xs = sumF ys ∧ ∀ most none, extremeF most none xs = extremeF most none ys) ∧
  (∀ (m : Rdi) (xs ys : List Member), xs.Perm ys → crediOp m xs = crediOp m ys)

/-- A compute strand whose pop finds its element poisoned, not having trapped at it before, is TRAPPED with cause 0x24 and class DATA, the
queue code in INFO0 and the PC of the queue load in INFO1; its pop position, PC and registers are kept. When the cause of the poison is a
violation whose record has not been posted, its team is frozen. (R29, R100, R200) -/
def Obligations.PoisonedPop : Prop :=
  ∀ (s : State) (tm : Team) (sl : Slice) (i : Nat) (d : Dst) (vd : DWord) (q : Fin 8) (e : FEntry) (x : Elem) (p : Poison),
    let f := (form2 false d .w32 (.queue q) .w32).pushing .untyped
    let mine : Nat := if (tm.queueDecl false q.val).kind = .lane then i else 0
    sliceAt s s.cur = some (tm, sl) → s.cur.strand = some i → plainDst sl .w32 d = some vd → nonePending s (tm.name (some i)) f →
    (tm.queueDecl false q.val).kind ≠ .undeclared →
    (tm.fqueue q.val).entries[listGetD sl.popped q.val 0 - (tm.fqueue q.val).base]? = some e → e.elems[mine]? = some x →
    x.state = .poisoned p → sl.poisonSeen = none →
    ∃ t tm' sl' r, exec (.mov d (.queue q)) s = .next t ∧ sliceAt t s.cur = some (tm', sl') ∧ sl'.run = .trapped ∧
      sl'.pc = sl.pc ∧ sl'.regs = sl.regs ∧ sl'.popped = sl.popped ∧ sl'.record = some r ∧ r.cause = 0x24 ∧ r.cls = 3 ∧
      r.info0 = BitVec.ofNat 64 (116 + q.val) ∧ r.info1 = e.pc.setWidth 64 ∧
      ((p.cause = 0x21 ∨ p.cause = 0x22 ∨ p.cause = 0x23) → p.posted = false → tm'.frozen = true)

/-- In both sets, IADD and ISUB (wrapping, signed-saturating, unsigned-saturating), IMUL, IMULH, IMAD, IDIV, IREM, IMIN, IMAX, IABS, DADD,
DSUB, DMUL and DNEG have the opcodes 0x00 to 0x0D, and whenever the operands are gathered the instruction completes: D receives the number
that the rule gives on the signed or unsigned readings of the operands, modulo 2^32 or 2^64, a division by zero giving -1 and the
dividend, and no flag is set. (R113, R114, R115, R116) -/
def Obligations.ArithmeticResults : Prop :=
  ∀ (i : Instr) (code : Nat) (f : Form) (g : Vals → Int), arithmeticRule i = some (code, f, g) →
    (i.raw.map fun x => x.1.op.toNat) = some code ∧
    ∀ (s : State) (tm : Team) (sl : Slice) (v : Vals), Gathers s f (.ok ()) tm sl v →
      exec i s = .next (finish f sl v (received f.dw (g v)) 0 s)

/-- In both sets, AND, OR, XOR, ANDN, NOT, SHL, SHR, SAR, ROL, ROR, BFX, BFI, POPC, CLZ, CTZ, BREV, DSHL and DSHR have the opcodes 0x0E to
0x1F, and whenever the operands are gathered the instruction completes: D receives the value that the rule gives bit by bit or as a
quotient or product by a power of two, amounts at or beyond the width included, and no flag is set. (R118, R119, R120, R121, R122) -/
def Obligations.BitResults : Prop :=
  ∀ (i : Instr) (code : Nat) (f : Form) (g : Vals → Int), bitRule i = some (code, f, g) →
    (i.raw.map fun x => x.1.op.toNat) = some code ∧
    ∀ (s : State) (tm : Team) (sl : Slice) (v : Vals), Gathers s f (.ok ()) tm sl v →
      exec i s = .next (finish f sl v (received f.dw (g v)) 0 s)

/-- In both sets, ICMP, DCMP, SEL, MOV, DMOV, EXT, DEXT and LDI have their opcodes of the map, and whenever the operands are gathered the
instruction completes: 1 or 0 for the comparison on signed or unsigned readings, A or B by the old value of D, the operand itself, its low
byte or half extended, or the sign-extended immediate; no flag is set. (R123, R124, R127) -/
def Obligations.MoveResults : Prop :=
  ∀ (i : Instr) (code : Nat) (f : Form) (g : Vals → Int), moveRule i = some (code, f, g) →
    (i.raw.map fun x => x.1.op.toNat) = some code ∧
    ∀ (s : State) (tm : Team) (sl : Slice) (v : Vals), Gathers s f (.ok ()) tm sl v →
      exec i s = .next (finish f sl v (received f.dw (g v)) 0 s)

/-- Whenever its operands are gathered, each of FADD, FSUB, FMUL, FDIV, FMAC, FNMAC, FMIN, FMAX, FSQRT, FRCP, FRSQ, FEXP2, FLOG2, FABS, FNEG,
FRND, FSCL, FCMP, FCLASS, the narrow conversions, QNT8, QNT4, DQ8, DQ4, BPACK, BUNPK and, in both sets, CVTIF and CVTFI completes with the
result of its operation in D and its flags ORed into %fflags; so do CVTDF and CVTFD. What the operations compute is the subject of the
statements on rounding, NaNs and special cases. (R129, R130, R143, R145, R146, R155, R156, R157, R158) -/
def Obligations.FloatResults : Prop :=
  (∀ (i : Instr) (f : Form) (g : Word → Word → Word → FRes), floatRule i = some (f, g) →
    ∀ (s : State) (tm : Team) (sl : Slice) (v : Vals), Gathers s f (.ok ()) tm sl v →
      exec i s = .next (finish f sl v ((g (lowWord v.a) (lowWord v.b) (lowWord v.d)).bits.setWidth 64)
        (g (lowWord v.a) (lowWord v.b) (lowWord v.d)).flags s)) ∧
  (∀ (i : Instr) (d : Dst) (a : Src) (m : Rmu) (s : State) (tm : Team) (sl : Slice) (v : Vals),
    let f := (form2 i.isTeam d .w32 a .w64).pushing .f32
    (i = .cvtdf d a m ∨ i = .teamCvtdf d a m) → Gathers s f (.ok ()) tm sl v →
      exec i s = .next (finish f sl v ((intToF m (if rmuUnsigned m then (v.a.toNat : Int) else v.a.toInt)).bits.setWidth 64)
        (intToF m (if rmuUnsigned m then (v.a.toNat : Int) else v.a.toInt)).flags s)) ∧
  (∀ (i : Instr) (d : Dst) (a : Src) (m : Rmu) (s : State) (tm : Team) (sl : Slice) (v : Vals),
    let f := form2 i.isTeam d .w64 a .w32
    let r := if rmuUnsigned m then fToInt m 0 (2 ^ 64 - 1) (lowWord v.a) else fToInt m (-2 ^ 63) (2 ^ 63 - 1) (lowWord v.a)
    (i = .cvtfd d a m ∨ i = .teamCvtfd d a m) → Gathers s f (.ok ()) tm sl v →
      exec i s = .next (finish f sl v (BitVec.ofInt 64 r.1) r.2 s))

/-- For finite FP32 operands and every mode, the result of each operation is the exact rational result rounded to FP32: nearest with ties to
even, toward zero, up or down among all finite FP32 values; NX is set exactly when the delivered value differs; an infinity, with OF and
NX, comes only where the exact result lies beyond the largest finite value. (R77, R78, R145, R146) -/
def Obligations.FloatRounds : Prop :=
  ∀ (rm : Rm) (x y z : Word) (a b c : Rat), ratOf x = some a → ratOf y = some b → ratOf z = some c →
    Delivers rm (a + b) (faddOp rm x y) ∧ Delivers rm (a - b) (fsubOp rm x y) ∧ Delivers rm (a * b) (fmulOp rm x y) ∧
    Delivers rm (a * b + c) (fmacOp false rm x y z) ∧ Delivers rm (c - a * b) (fmacOp true rm x y z)

/-- An integer converts to FP32 as its exact value rounded in the mode; a finite FP32 value converts to the integer that it rounds to, or to
the bound of the range with NV where it lies outside, NX being set exactly when an in-range result differs; a NaN gives 0 with NV and an
infinity the bound with NV. (R129, R130) -/
def Obligations.IntegerConversions : Prop :=
  (∀ (m : Rmu) (n : Int), n.natAbs < 2 ^ 64 → Delivers (rmuMode m) n (intToF m n)) ∧
  (∀ (m : Rmu) (lo hi : Int) (x : Word) (a : Rat), lo ≤ 0 → 0 ≤ hi → ratOf x = some a →
    fToInt m lo hi x = convertRat (rmuMode m) lo hi a) ∧
  (∀ (m : Rmu) (lo hi : Int) (x : Word), lo ≤ 0 → 0 ≤ hi → ratOf x = none →
    fToInt m lo hi x = (if x.toNat % 2 ^ 23 ≠ 0 then 0 else if x.getLsbD 31 then lo else hi, 0b10000))

/-- Whatever the operands, a result of an FP32-producing instruction that reads as a NaN is 0x7FC0_0000; FADD, FSUB, FMUL, FDIV, FMIN, FMAX
and FCMP set NV whenever an operand is a signalling NaN, and FMIN and FMAX with exactly one NaN return the other operand, bit for bit.
(R76, R143, R149, R151) -/
def Obligations.NaNsAreCanonical : Prop :=
  (∀ (i : Instr) (f : Form) (g : Word → Word → Word → FRes), floatRule i = some (f, g) → f.push = .f32 →
    ∀ x y z, (g x y z).bits.toNat % 2 ^ 31 ≤ 0x7F800000 ∨ (g x y z).bits = 0x7FC00000) ∧
  (∀ (i : Instr) (f : Form) (g : Word → Word → Word → FRes) (d : Dst) (a b : Src) (m : Rm) (c : Fcc), floatRule i = some (f, g) →
    (i = .fadd d a b m ∨ i = .fsub d a b m ∨ i = .fmul d a b m ∨ i = .fdiv d a b m ∨ i = .fmin d a b ∨ i = .fmax d a b ∨
      i = .fcmp d a b c) →
    ∀ x y z, (0x7F800000 < x.toNat % 2 ^ 31 ∧ x.getLsbD 22 = false) ∨ (0x7F800000 < y.toNat % 2 ^ 31 ∧ y.getLsbD 22 = false) →
      (g x y z).flags.getLsbD 4 = true) ∧
  (∀ (most : Bool) (x y : Word), 0x7F800000 < x.toNat % 2 ^ 31 → y.toNat % 2 ^ 31 ≤ 0x7F800000 →
    (fminmaxOp most x y).bits = y ∧ (fminmaxOp most y x).bits = y)

/-- In both sets, SREAD of an index that R97 gives the set completes with the value of that register in D, a pair for %circle; SREAD of %clock
also samples the count that %clockh then reads, and changes nothing else. An index of 19 or above, and that of %circle in the team set,
traps BAD_SPECIAL with FIELD 5 and the index in INFO0. In both sets, SWRITE of %sp with a value that is a multiple of 4 and at most 16,384
completes and replaces the slice's %sp; another value traps BAD_SPECIAL with FIELD 1 and the value; another index traps BAD_SPECIAL with
FIELD 5 and the index. (R97, R128, R453) -/
def Obligations.SpecialRegisters : Prop :=
  (∀ (i : Instr) (d : Dst) (imm : BitVec 17) (s : State) (tm : Team) (sl : Slice),
    let f := formJd i.isTeam d (if imm = 18 ∧ i.isTeam = false then .w64 else .w32)
    (i = .sread d imm ∨ i = .teamSread d imm) → sliceAt s s.cur = some (tm, sl) → s.cur.strand.isNone = i.isTeam →
    (∀ n v, (specialOf s s.cur tm sl)[imm.toNat]? = some (some n) → gather s s.cur.strand tm sl f (.ok ()) = .ok v →
      exec i s = .next (finishTo (if imm = 11 then modSlice s s.cur fun x => { x with clockSample := s.clock } else s) s.cur f v
        (sl.pc + 4) (if imm = 18 then BitVec.ofNat 64 n else BitVec.ofNat 64 (n % 2 ^ 32)) 0)) ∧
    ((specialOf s s.cur tm sl)[imm.toNat]?.join = none → declChecks f tm sl = .ok () →
      exec i s = .next (trapSlice s s.cur
        { cause := .badSpecial, field := 5, next := sl.pc + 4, info0 := BitVec.ofNat 64 imm.toNat }))) ∧
  (∀ (i : Instr) (a : Src) (imm : BitVec 17) (s : State) (tm : Team) (sl : Slice) (v : Vals),
    let f := formJs i.isTeam a
    (i = .swrite a imm ∨ i = .teamSwrite a imm) → Gathers s f (.ok ()) tm sl v →
    (imm = 16 → v.a.toNat % 2 ^ 32 ≤ 16384 → v.a.toNat % 4 = 0 →
      exec i s = .next (finishNone v (sl.pc + 4) (modSlice s s.cur fun x => { x with sp := lowWord v.a }))) ∧
    (imm = 16 → (16384 < v.a.toNat % 2 ^ 32 ∨ v.a.toNat % 4 ≠ 0) →
      exec i s = .next (trapSlice s s.cur { cause := .badSpecial, field := 1, next := sl.pc + 4, info0 := v.a })) ∧
    (imm ≠ 16 → exec i s = .next (trapSlice s s.cur
        { cause := .badSpecial, field := 5, next := sl.pc + 4, info0 := BitVec.ofNat 64 imm.toNat })))

/-- In both sets: BRA completes at PC + 4 x sext(IMM17); BNZ and BZ complete there exactly when A is not 0, or is 0, and at PC + 4 otherwise;
BALW completes there exactly when a one-unit charge to the package that A names would succeed, that is, when the package is in phase and
its entry has a unit and no waiters; NOP and YIELD complete at PC + 4, YIELD counting the slice as ready from the current cycle, and so
behind those ready before (R205), while R226 has an address slice passed over: for both sets the ready time is log 37, the model's choice.
Pops are made either way. In both sets, ALWR of a package below 4,608 whose group is in phase writes WAIT (at most 255), SHARED and ALW of
the entry that a charge from the slice's world would use; of any other package it writes 0x8000_0000. It sets no flag and changes no
entry. (R24, R132, R139, R226, R408, R409) -/
def Obligations.Branches : Prop :=
  (∀ (i : Instr) (a : Src) (imm : BitVec 17) (s : State) (tm : Team) (sl : Slice) (v : Vals),
    let f := formJs i.isTeam a
    let at_ (p : Prop) [Decidable p] : Word := if p then targetOfJ sl.pc imm else sl.pc + 4
    ((i = .bra imm ∨ i = .teamBra imm) → Gathers s (form0 i.isTeam) (.ok ()) tm sl v →
      exec i s = .next (finishNone v (targetOfJ sl.pc imm) s)) ∧
    ((i = .bnz a imm ∨ i = .teamBnz a imm) → Gathers s f (.ok ()) tm sl v →
      exec i s = .next (finishNone v (at_ (v.a.toNat % 2 ^ 32 ≠ 0)) s)) ∧
    ((i = .bz a imm ∨ i = .teamBz a imm) → Gathers s f (.ok ()) tm sl v →
      exec i s = .next (finishNone v (at_ (v.a.toNat % 2 ^ 32 = 0)) s)) ∧
    ((i = .balw a imm ∨ i = .teamBalw a imm) → Gathers s f (.ok ()) tm sl v →
      let p := v.a.toNat % 2 ^ 32
      let x := allowAt (core s s.cur.core) (allowIndex (core s s.cur.core) tm.world p)
      x.alw < 256 →
      exec i s = .next (finishNone v (at_ (p < 4608 ∧ inPhase s p = true ∧ x.waiters = [] ∧ 1 ≤ x.alw)) s)) ∧
    ((i = .nop ∨ i = .teamNop) → Gathers s (form0 i.isTeam) (.ok ()) tm sl v → exec i s = .next (finishNone v (sl.pc + 4) s)) ∧
    ((i = .yield ∨ i = .teamYield) → Gathers s (form0 i.isTeam) (.ok ()) tm sl v →
      exec i s = .next (finishNone v (sl.pc + 4) (modSlice s s.cur fun x => { x with ready := s.clock })))) ∧
  (∀ (i : Instr) (d : Dst) (a : Src) (s : State) (tm : Team) (sl : Slice) (v : Vals),
    let f := w2 i d a
    let p := v.a.toNat % 2 ^ 32
    let e := allowIndex (core s s.cur.core) tm.world p
    let x := allowAt (core s s.cur.core) e
    (i = .alwr d a ∨ i = .teamAlwr d a) → Gathers s f (.ok ()) tm sl v → x.alw < 256 →
    ∃ n : Nat, exec i s = .next (finish f sl v (BitVec.ofNat 64 n) 0 s) ∧
      (p < 4608 → inPhase s p = true →
        n / 2 ^ 31 = 0 ∧ n / 2 ^ 16 % 2 ^ 8 = min 255 x.waiters.length ∧ n / 2 ^ 8 % 2 ^ 8 = (if e = 31 then 1 else 0) ∧ n % 2 ^ 8 = x.alw) ∧
      ((4608 ≤ p ∨ inPhase s p = false) → n = 2 ^ 31))

/-- In both sets, for a slice with its step bit 0 whose %sp is a multiple of 4 from 4 to 16,384 and whose stack line below %sp is present with
its 128 bytes: CALL and, for an aligned target, CALLR complete at the target with the return PC stored at %sp - 4 and %sp less by 4; RET
executed in the state that they leave completes at that return PC with %sp as before the call. Registers and flags are kept by both, and
no byte of memory changes; beside the slice, only the mark that the segment of the line has been accessed changes. (R95, R133, R134, R135) -/
def Obligations.CallThenReturn : Prop :=
  ∀ (i : Instr) (a : Src) (imm : BitVec 17) (s : State) (tm : Team) (sl : Slice) (v : Vals) (line : List Byte),
    let call : Prop := i = .call imm ∨ i = .teamCall imm
    let callr : Prop := i = .callr a ∨ i = .teamCallr a
    let f := if i = .call imm ∨ i = .teamCall imm then form0 i.isTeam else formA i.isTeam a
    let tgt := if i = .call imm ∨ i = .teamCall imm then targetOfJ sl.pc imm else lowWord v.a
    let ret := sl.pc + BitVec.ofNat 32 (4 * f.len)
    (call ∨ callr) → Gathers s f (.ok ()) tm sl v → v.pops = [] → sl.stepBit = false → sl.pc.toNat % 4 = 0 →
    4 ≤ sl.sp.toNat → sl.sp.toNat ≤ 16384 → sl.sp.toNat % 4 = 0 →
    Table.get sl.stack ((sl.sp.toNat - 4) / 128) = some line → line.length = 128 → (callr → tgt.toNat % 4 = 0) →
    ∃ t u sl1 sl2, exec i s = .next t ∧ OnlySlice (touchWay s s.cur.core ((sl.sp.toNat - 4) / 128)) t s.cur sl1 ∧ sl1.pc = tgt ∧ sl1.sp = sl.sp - 4 ∧ sl1.regs = sl.regs ∧
      sl1.fflags = sl.fflags ∧ readStack sl1 (sl.sp.toNat - 4) 4 = bytesOfNat 4 ret.toNat ∧
      exec (if i.isTeam then .teamRet else .ret) t = .next u ∧
      OnlySlice (touchWay t s.cur.core ((sl.sp.toNat - 4) / 128)) u s.cur sl2 ∧ sl2.pc = ret ∧ sl2.sp = sl.sp ∧
      sl2.regs = sl.regs ∧ sl2.fflags = sl.fflags

/-- In both sets: JMPR completes at A when A is a multiple of 4, and traps MISALIGNED_PC with A in INFO0 and NEXTPC 0 otherwise, as CALLR does
before it looks at %sp; CALL and CALLR with %sp below 4 trap STACK_OVERFLOW, and RET with %sp above 16,380 traps STACK_UNDERFLOW, with %sp
in INFO0. In both sets, TRAP takes a trap of class PROGRAM with cause 0x10 and BKPT one of class DEBUG with cause 0x11, both with IMM17 in
INFO0 and NEXTPC past the instruction. The current slice that fetches an illegal word or a word of the other set takes ILLEGAL_OP or
WRONG_SLICE with the word in INFO0 and NEXTPC the PC plus 4; one whose fetch goes beyond the segment takes FETCH_RANGE with the offset in
INFO0 and NEXTPC 0. (R32, R55, R95, R133, R134, R138, R238, R453) -/
def Obligations.ControlTraps : Prop :=
  (∀ (i : Instr) (a : Src) (imm : BitVec 17) (s : State) (tm : Team) (sl : Slice) (v : Vals),
    let f := formA i.isTeam a
    let bad : TrapInfo := { cause := .misalignedPc, info0 := (lowWord v.a).setWidth 64 }
    ((i = .jmpr a ∨ i = .teamJmpr a) → Gathers s f (.ok ()) tm sl v →
      ((lowWord v.a).toNat % 4 = 0 → exec i s = .next (finishNone v (lowWord v.a) s)) ∧
      ((lowWord v.a).toNat % 4 ≠ 0 → exec i s = .next (trapSlice s s.cur bad))) ∧
    ((i = .callr a ∨ i = .teamCallr a) → Gathers s f (.ok ()) tm sl v →
      ((lowWord v.a).toNat % 4 ≠ 0 → exec i s = .next (trapSlice s s.cur bad)) ∧
      ((lowWord v.a).toNat % 4 = 0 → sl.sp.toNat < 4 → exec i s = .next (trapSlice s s.cur
        { cause := .stackOverflow, next := sl.pc + BitVec.ofNat 32 (4 * f.len), info0 := sl.sp.setWidth 64 }))) ∧
    ((i = .call imm ∨ i = .teamCall imm) → Gathers s (form0 i.isTeam) (.ok ()) tm sl v → sl.pc.toNat % 4 = 0 → sl.sp.toNat < 4 →
      exec i s = .next (trapSlice s s.cur { cause := .stackOverflow, next := sl.pc + 4, info0 := sl.sp.setWidth 64 })) ∧
    ((i = .ret ∨ i = .teamRet) → Gathers s (form0 i.isTeam) (.ok ()) tm sl v → 16380 < sl.sp.toNat →
      exec i s = .next (trapSlice s s.cur { cause := .stackUnderflow, next := sl.pc + 4, info0 := sl.sp.setWidth 64 }))) ∧
  (∀ (i : Instr) (imm : BitVec 17) (s : State) (tm : Team) (sl : Slice) (v : Vals) (w : Word),
    ((i = .trap imm ∨ i = .teamTrap imm) → Gathers s (form0 i.isTeam) (.ok ()) tm sl v →
      exec i s = .next (trapSlice s s.cur { cause := .trap, next := sl.pc + 4, info0 := imm.setWidth 64 })) ∧
    ((i = .bkpt imm ∨ i = .teamBkpt imm) → Gathers s (form0 i.isTeam) (.ok ()) tm sl v →
      exec i s = .next (trapSlice s s.cur { cause := .breakpoint, next := sl.pc + 4, info0 := imm.setWidth 64 })) ∧
    (sliceAt s s.cur = some (tm, sl) →
      exec (.illegalOp w) s = .next (trapSlice s s.cur { cause := .illegalOp, next := sl.pc + 4, info0 := w.setWidth 64 }) ∧
      exec (.wrongSlice w) s = .next (trapSlice s s.cur { cause := .wrongSlice, next := sl.pc + 4, info0 := w.setWidth 64 }) ∧
      exec (.fetchRange w) s = .next (trapSlice s s.cur { cause := .fetchRange, next := 0, info0 := w.setWidth 64 })))

/-- In both sets, EXIT of a slice none of whose accesses has yet to write a destination or make its push completes: the slice is EXITED with
its PC kept, and no forward queue, whose entries are no more than it has made, keeps an entry that every live strand has popped; the back
queues keep their entries, except that an entry of a LANE queue to which some live strand has not pushed yet loses the element of the
strand that left, so that it is absent. While a destination is pending it waits with class DEPEND, for the oldest such access by its PC.
(R99, R137, R187, R193, R194) -/
def Obligations.ExitEndsTheSlice : Prop :=
  ∀ (i : Instr) (s : State) (tm : Team) (sl : Slice) (v : Vals), (i = .exit ∨ i = .teamExit) →
    Gathers s (form0 i.isTeam) (.ok ()) tm sl v →
    ((∃ a ∈ s.inflight, a.who = tm.name s.cur.strand ∧ a.sink ≠ .none) →
      ∃ as a bs, s.inflight = as ++ a :: bs ∧ a.who = tm.name s.cur.strand ∧ a.sink ≠ .none ∧
        (∀ b ∈ as, ¬ (b.who = tm.name s.cur.strand ∧ b.sink ≠ .none)) ∧
        exec i s = .next (modSlice (waitSlice s s.cur .depend) s.cur fun x => { x with blame := some a.pc })) ∧
    ((∀ a ∈ s.inflight, a.who = tm.name s.cur.strand → a.sink = .none) →
      ∃ t tm' sl', exec i s = .next t ∧ sliceAt t s.cur = some (tm', sl') ∧ sl'.run = .exited ∧ sl'.pc = sl.pc ∧ sl'.regs = sl.regs ∧
        tm'.fqueues.length = tm.fqueues.length ∧
        (∀ b, (s.cur.strand = none ∨ (tm.queueDecl true b).kind ≠ .lane) → tm'.bqueue b = tm.bqueue b) ∧
        (∀ b k j e, s.cur.strand = some j → b < tm.bqueues.length → (tm.queueDecl true b).kind = .lane →
          (tm.bqueue b).entries[k]? = some e →
          let pushedAll : Prop := ∀ p ∈ tm.indexed, p.2.run ≠ .exited → (tm.bqueue b).popped + k < listGetD p.2.pushed b 0
          ∃ e', (tm'.bqueue b).entries[k]? = some e' ∧ e'.ts = e.ts ∧ (pushedAll → e' = e) ∧
            (¬ pushedAll → ∀ c, c ∈ e'.contribs ↔ (c ∈ e.contribs ∧ c.strand ≠ j))) ∧
        (∀ q n, (tm.fqueue q).entries.length ≤ (tm.fqueue q).made → tm'.slowest q = some n → ∀ e, (tm'.fqueue q).entries[0]? = some e → n ≤ (tm'.fqueue q).base))

/-- A compute strand whose SETC gathers a mask with the strand's own bit set and no bit of a strand at or beyond the team's count completes
with that mask installed; any other mask traps CIRCLE_MASK, the installed mask kept. (R96, R159, R160) -/
def Obligations.SetCircle : Prop :=
  ∀ (a : Src) (s : State) (tm : Team) (sl : Slice) (v : Vals) (k : Nat),
    let f : Form := { team := false, len := 1 + Src.lits a, role := .none, a := a, aw := .w64 }
    s.cur.strand = some k → Gathers s f (.ok ()) tm sl v →
    ((v.a.getLsbD (k % 64) = true ∧ ∀ j ∈ circleOf v.a k, j < tm.decl.strands) →
      exec (.setc a) s = .next (finishNone v (sl.pc + BitVec.ofNat 32 (4 * f.len)) (modSlice s s.cur fun x => { x with circle := v.a }))) ∧
    (¬ (v.a.getLsbD (k % 64) = true ∧ ∀ j ∈ circleOf v.a k, j < tm.decl.strands) →
      exec (.setc a) s = .next (trapSlice s s.cur { cause := .circleMask, next := sl.pc + BitVec.ofNat 32 (4 * f.len) }))

/-- For JOIN, SHFL, VOTE, SIFT, CREDF and CREDI: a strand whose circle names itself arrives, every other strand that its mask names being live
and having arrived at the same PC with the same mask, none with its step bit set, and no arrived strand outside the circle naming the
arriving strand or a strand that breaks its own circle; for JOIN the stores and atomics of all members have been performed. Then, in one
step, each member is RUNNABLE at the next instruction with the result of its rank in its own D and the flags ORed in, its arrival gone;
the strands outside the circle, the rest of the team, the other teams of the core, the other cores and everything outside the cores are as
before. (R159, R161, R162, R164, R165, R166, R168) -/
def Obligations.CollectivesComplete : Prop :=
  ∀ (i : Instr) (f : Form) (stored : Bool) (res : List Member → Nat → Member → DWord × Word) (s : State) (tm : Team) (sl : Slice) (v : Vals)
    (k : Nat) (arr : Nat → Arrival), collectiveRule i = some (f, stored, res) → s.cur.strand = some k → Gathers s f (.ok ()) tm sl v →
    v.pops = [] → (∀ q, f.d ≠ .queue q) → k ∈ circleOf sl.circle k →
    (∀ j ∈ circleOf sl.circle k, ∃ x, tm.strands[j]? = some x ∧ x.stepBit = false ∧
      (j ≠ k → x.run ≠ .exited ∧ x.arrived = some (arr j) ∧ (arr j).pc = sl.pc ∧ (arr j).mask = sl.circle)) →
    (∀ j x y, j ∉ circleOf sl.circle k → tm.strands[j]? = some x → x.arrived = some y → ∀ m ∈ circleOf y.mask j,
      m ≠ k ∧ ∃ z, tm.strands[m]? = some z ∧ z.run ≠ .exited ∧ (∀ w, z.arrived = some w → w.pc = y.pc ∧ w.mask = y.mask)) →
    (stored = true → ∀ j ∈ circleOf sl.circle k, storesPending s (tm.name (some j)) = false) →
    let xs := (circleOf sl.circle k).map fun j =>
      if j = k then (⟨k, lowWord v.a, lowWord v.b⟩ : Member) else ⟨j, (arr j).a, (arr j).b⟩
    ∃ t, exec i s = .next t ∧ t = { s with cores := t.cores } ∧
      (∀ (r j : Nat) (m : Member) (x : Slice), (circleOf sl.circle k)[r]? = some j → xs[r]? = some m → tm.strands[j]? = some x →
        ∃ tm' x', sliceAt t ⟨s.cur.core, s.cur.slot, some j⟩ = some (tm', x') ∧ x'.run = .runnable ∧
          x'.pc = sl.pc + BitVec.ofNat 32 (4 * f.len) ∧ x'.arrived = none ∧ x'.regs = writtenRegs f.d f.dw (res xs r m).1 x.regs ∧
          x'.fflags = x.fflags ||| (res xs r m).2 ∧ x'.circle = x.circle) ∧
      (∀ j, j ∉ circleOf sl.circle k → (sliceAt t ⟨s.cur.core, s.cur.slot, some j⟩).map (·.2) = tm.strands[j]?) ∧
      (∀ c, c ≠ s.cur.core → core t c = core s c) ∧
      core t s.cur.core = { core s s.cur.core with
        active := { (core s s.cur.core).active with teams := (core t s.cur.core).active.teams } } ∧
      (∀ n, n ≠ s.cur.slot → teamAt t ⟨s.cur.core, n⟩ = teamAt s ⟨s.cur.core, n⟩) ∧
      (∃ xs, teamAt t (teamIdOf s.cur) = some { tm with strands := xs })

/-- For the same instructions, a strand that arrives while a strand that its mask names has not arrived anywhere and none has ended parks with
class JOIN: its PC and registers are kept, its arrival is recorded, and no other slice changes. When a strand that its mask names has
ended, it traps CIRCLE_MASK with INFO0 0 and its arrival undone. (R98, R161, R162) -/
def Obligations.ArrivalsWaitOrBreak : Prop :=
  ∀ (i : Instr) (f : Form) (stored : Bool) (res : List Member → Nat → Member → DWord × Word) (s : State) (tm : Team) (sl : Slice) (v : Vals)
    (k : Nat), collectiveRule i = some (f, stored, res) → s.cur.strand = some k → Gathers s f (.ok ()) tm sl v →
    (∀ j, j ≠ k → ∀ x, tm.strands[j]? = some x → x.arrived = none) →
    ((∃ j ∈ circleOf sl.circle k, j ≠ k) → (∀ j ∈ circleOf sl.circle k, ∃ x, tm.strands[j]? = some x ∧ x.run ≠ .exited) →
      ∃ t, exec i s = .next t ∧ OnlySlice s t s.cur { sl with
        run := .parked .join, stall := none,
        arrived := some ⟨sl.pc, sl.pc + BitVec.ofNat 32 (4 * f.len), sl.circle, lowWord v.a, lowWord v.b⟩ }) ∧
    ((∃ j ∈ circleOf sl.circle k, j ≠ k ∧ ∀ x, tm.strands[j]? = some x → x.run = .exited) →
      ∃ t sl' r, exec i s = .next t ∧ OnlySlice s { t with waiting := s.waiting } s.cur sl' ∧ sl'.run = .trapped ∧ sl'.pc = sl.pc ∧
        sl'.regs = sl.regs ∧ sl'.arrived = none ∧ sl'.record = some r ∧ r.cause = 0x0F ∧ r.cls = 1 ∧ r.info0 = 0)

/-- A strand whose circle is itself alone, with its step bit 0, whose collective gathers its operands without a pop and names no queue,
completes at once: it is RUNNABLE at the next instruction with its arrival gone and the result of rank 0 of 1 in D: A for SHFL and CREDI,
whether A is not 0 for VOTE.CNT and VOTE.MAJ, the rank or 0xFFFF_FFFF for VOTE.FIRST, 1 for VOTE.SAME, its bit of the mask for SIFT, and
the reduction of A alone, with its flags, for CREDF. JOIN, whose stores and atomics have been performed, writes nothing. FENCE of every
scope, in both sets, with no earlier access of the slice of its scope left and, in an address slice, no load of a queue group pending,
completes at PC + 4 with registers and flags kept; no byte of main memory changes. (R159, R161, R164, R165, R166, R167, R168, R286, R373) -/
def Obligations.CollectivesAndFencesComplete : Prop :=
  ∀ (s : State) (tm : Team) (sl : Slice) (v : Vals) (d : Dst) (a b : Src), v.pops = [] → (∀ q, d ≠ .queue q) → sl.stepBit = false →
    let done (i : Instr) (f : Form) (r : DWord) (fl : Word) : Prop :=
      ∃ t tm' sl', exec i s = .next t ∧ sliceAt t s.cur = some (tm', sl') ∧ sl'.pc = sl.pc + BitVec.ofNat 32 (4 * f.len) ∧
        sl'.regs = writtenRegs f.d f.dw r sl.regs ∧ sl'.fflags = sl.fflags ||| fl ∧ sl'.arrived = none ∧ sl'.stall = none ∧
        (s.cur.strand.isSome = true → sl'.run = .runnable) ∧ t.mem = s.mem ∧ t.inflight = s.inflight
    let av := lowWord v.a
    let two (i : Instr) : Form := w2 i d a
    let bit (p : Bool) : DWord := if p then 1 else 0
    (∀ k, s.cur.strand = some k → circleOf sl.circle k = [k] →
      (Gathers s (form0 false) (.ok ()) tm sl v → storesPending s (tm.name (some k)) = false → done .join (form0 false) 0 0) ∧
      (∀ m, let f := (w3 (.shfl d a b m) d a b).pushing .untyped
        Gathers s f (.ok ()) tm sl v → done (.shfl d a b m) f (av.setWidth 64) 0) ∧
      (∀ m, Gathers s (two (.vote d a m)) (.ok ()) tm sl v →
        done (.vote d a m) (two (.vote d a m)) (match m with
          | .count | .maj => bit (av != 0)
          | .first => if av = 0 then 0xFFFFFFFF else 0
          | .same => 1) 0) ∧
      (let f := form2 false d .w64 a .w32
       Gathers s f (.ok ()) tm sl v → done (.sift d a) f (if av = 0 then 0 else BitVec.ofNat 64 (2 ^ (k % 64))) 0) ∧
      (∀ m, let f := (two (.credf d a m)).pushing .f32
        let r := match m with
          | .sum => sumF [av]
          | .max => extremeF true 0 [av]
          | .min => extremeF false 0 [av]
        Gathers s f (.ok ()) tm sl v → done (.credf d a m) f (r.bits.setWidth 64) r.flags) ∧
      (∀ m, Gathers s (two (.credi d a m)) (.ok ()) tm sl v → done (.credi d a m) (two (.credi d a m)) (av.setWidth 64) 0)) ∧
    (∀ m, let mine (x : Access) : Prop := x.who = tm.name s.cur.strand ∧ x.ofChannel = false ∧
        match m, x.place with
        | .p, .main _ _ _ | .l, .scratch _ _ | .s, .host _ => x.performed = false
        | .f, .fabric _ _ _ _ | .f, .window _ _ _ => True
        | _, _ => False
      (∀ x ∈ s.inflight, ¬ mine x) → (s.cur.strand.isSome = true → sl.run = .runnable) →
      (Gathers s (form0 false) (.ok ()) tm sl v → done (.fence m) (form0 false) 0 0) ∧
      (Gathers s (form0 true) (.ok ()) tm sl v → loadsPending tm = false → done (.teamFence m) (form0 true) 0 0))

/-- Whenever the walk from station C grants an access of at least one byte, the permissions it asks for are within what it has at the end; in
package memory every byte lies in populated memory under a key slot in use; in a tile region, register window or stack window every byte
lies inside it, and the gang team exists; in the weight store every byte lies below its end; in host memory every byte lies in the host
window and H is granted; a target package is in phase. (R171, R222, R299, R334, R340, R382) -/
def Obligations.WalkStaysInside : Prop :=
  ∀ (s : State) (a : Ask) (lw off : DWord) (regs : Nat) (p : Path), 1 ≤ a.size → walkC s a lw off regs = .ok p →
    a.need &&& p.have6 = a.need ∧ field off 63 48 = 0 ∧
    match p.dest with
    | .main pa key _ _ => pa + a.size ≤ s.memSize ∧ (Table.get s.keys key).isSome = true
    | .scratch n o => o + a.size ≤ tileRegionSize s a.launch n ∧ gangTeamExists s a.launch a.gang n = true
    | .regs o => o + a.size ≤ regs
    | .stack o => o + a.size ≤ 16384
    | .weight _ wa => wa + a.size ≤ 65536 * 6144
    | .host pa => pa + a.size ≤ 2 ^ 47 ∧ p.have6.getLsbD 0 = true
    | .fabric t _ => inPhase s t = true
    | .window _ _ _ _ => True

/-- For every load, store, atomic, LDE, LDL, WAITA and FENCEF of both sets whose operands are gathered: an offset with bits [63:48] not 0 is a
violation of station C with REASON 3; then an offset that is no multiple of the size traps MISALIGNED_ACCESS with the offset in INFO0, the
label word in INFO1 and no station trace; then a matching watchpoint traps WATCH; then a fault of the walk is taken. None of them makes an
access. (R103, R170, R171, R440) -/
def Obligations.AccessTraps : Prop :=
  ∀ (i : Instr) (f : Form) (l : Option (Fin 8)) (off : Vals → DWord) (op : Vals → MemOp) (s : State) (tm : Team) (sl : Slice) (v : Vals),
    memRule i = some (f, l, off, op) → Gathers s f (.ok ()) tm sl v → MemoryFree s i tm →
    let lw := pathWord tm l v
    let next := sl.pc + BitVec.ofNat 32 (4 * f.len)
    let trap (c : Cause) : TrapInfo := { cause := c, next := next, info0 := off v, info1 := lw }
    let seen := watched s tm.launch sl.skip (op v).watchKind lw (off v) (op v).size
    (field (off v) 63 48 ≠ 0 → ∃ pf, exec i s = .next (faultSlice s s.cur pf lw (off v) (op v).size next) ∧
      pf.cause = .offsetRange ∧ pf.level = 0 ∧ pf.reason = 3) ∧
    (field (off v) 63 48 = 0 → (off v).toNat % (op v).size ≠ 0 → exec i s = .next (trapSlice s s.cur
      { trap .misalignedAccess with detail0 := pairOf redacted 0, detail1 := pairOf redacted redacted })) ∧
    (field (off v) 63 48 = 0 → (off v).toNat % (op v).size = 0 → seen = true → exec i s = .next (trapSlice s s.cur (trap .watch))) ∧
    (∀ pf, field (off v) 63 48 = 0 → (off v).toNat % (op v).size = 0 → seen = false →
      walkC s (askOf tm s.cur (off v) (op v).size (op v).need (op v).req) lw (off v) (4 * sl.regs.length) = .error pf →
      exec i s = .next (faultSlice s s.cur pf lw (off v) (op v).size next))

/-- A slice that meets a fault of the label path keeps its PC, registers and run state. For a MISS its gang stops issuing, for a VIOLATION its
team is frozen and its gang is as before. The fault record waits for the queue of the owner of the failing level (the launch's trap queue
for C, the guest queue for D but for a missing world descriptor, the owner queue otherwise), and for a level above C the slice's trap
record waits for the trap queue. A DATA code is a plain trap. (R101, R298, R319, R347) -/
def Obligations.FaultOutcomes : Prop :=
  ∀ (s : State) (id : SliceId) (tm : Team) (sl : Slice) (pf : PathFault) (lw off : DWord) (size : Nat) (next : Word) (g : Gang),
    sliceAt s id = some (tm, sl) → gangOf s tm.launch tm.gang = some g → g.state = .resident →
    pf.hold = none → pf.barrier = false →
    (pf.cause.cls = .miss ∨ pf.cause.cls = .violation →
      ∃ t tm' sl' r g', faultSlice s id pf lw off size next = t ∧ sliceAt t id = some (tm', sl') ∧ sl'.pc = sl.pc ∧ sl'.regs = sl.regs ∧
        sl'.run = sl.run ∧ sl'.record = some r ∧ r.pc = sl.pc ∧ r.info0 = off ∧ r.info1 = lw ∧
        tm'.frozen = (tm.frozen || decide (pf.cause.cls = .violation)) ∧ gangOf t tm.launch tm.gang = some g' ∧
        (pf.cause.cls = .miss → g'.state = .stopping ∧ g'.misses = g.misses + 1) ∧ (pf.cause.cls = .violation → g' = g) ∧
        t.mem = s.mem ∧ t.inflight = s.inflight ∧
        (∃ ws w, t.waiting = s.waiting ++ w :: ws ∧ w.master = .slice (tm.name id.strand) ∧
          w.q = (if pf.level = 0 then .trap tm.launch else if pf.level = 1 ∧ pf.reason ≠ 18 then .guest tm.world else .owner) ∧
          (pf.level ≠ 0 → ∃ x ∈ ws, x.q = .trap tm.launch ∧ x.words = r.words))) ∧
    (pf.cause.cls = .data → faultSlice s id pf lw off size next = trapSlice s id
      { cause := pf.cause, next := next, info0 := off, info1 := lw,
        detail0 := pairOf redacted pf.trace.c, detail1 := pairOf redacted redacted })

/-- For every load, store, atomic, LDE, LDX, STX, LDL and WAITA of both sets whose path delivers in package memory, a tile region or the
weight store: one access is added at the end of those in flight, with its slice, kind, place, size, label word, offset, bytes, destination
and PC, and nothing is performed yet: every byte of main memory, host memory and the weight stores, every tile region, every register, and
all else of the team, of the other teams and of the package but the entry copies that the stations keep are as before. The instruction
then completes, or, for LDE, WAITA and a pushing load or atomic, the slice waits on its PC for that access; that its run state is kept
meanwhile is log 65, the model's choice. (R170, R172, R173, R174, R176, R284) -/
def Obligations.AccessesAreAccepted : Prop :=
  ∀ (i : Instr) (f : Form) (l : Option (Fin 8)) (off : Vals → DWord) (op : Vals → MemOp) (s : State) (tm : Team) (sl : Slice) (v : Vals) (p : Path),
    memRule i = some (f, l, off, op) → Gathers s f (.ok ()) tm sl v → MemoryFree s i tm → v.pops = [] → sl.stepBit = false →
    accessPath s s.cur tm sl (pathWord tm l v) (off v) (op v) = .ok p →
    (match p.dest with
      | .main _ _ _ _ | .scratch _ _ | .weight _ _ => True
      | _ => False) →
    ∃ t a tm' sl', exec i s = .next t ∧ t.inflight = s.inflight ++ [a] ∧ t.nextAccess = s.nextAccess + 1 ∧
      a.n = s.nextAccess ∧ a.who = tm.name s.cur.strand ∧ a.kind = (op v).kind ∧ a.size = (op v).size ∧ a.lw = pathWord tm l v ∧
      a.off = off v ∧ a.bytes = (op v).bytes ∧ a.sink = (op v).sink ∧ a.pc = sl.pc ∧ a.performed = false ∧
      (match p.dest with
        | .main pa key c _ => a.place = .main pa key c
        | .scratch g o => a.place = .scratch g o
        | .weight d wa => a.place = .weight d wa
        | _ => False) ∧
      sliceAt t s.cur = some (tm', sl') ∧ sl'.regs = sl.regs ∧ sl'.run = sl.run ∧ tm' = tm.putSlice s.cur.strand sl' ∧
      (if holdsForData (op v) then sl'.pc = sl.pc ∧ sl'.await = some a.n
        else sl'.pc = sl.pc + BitVec.ofNat 32 (4 * f.len) ∧ sl'.await = none) ∧
      t = { s with inflight := s.inflight ++ [a], nextAccess := s.nextAccess + 1, cores := t.cores, dies := t.dies, pCopies := t.pCopies,
                   fCopies := t.fCopies } ∧
      t.dies.map (fun d => { d with copies := [] }) = s.dies.map (fun d => { d with copies := [] }) ∧
      (∀ c, c ≠ s.cur.core → core t c = core s c) ∧
      core t s.cur.core = { core s s.cur.core with
        cCopies := (core t s.cur.core).cCopies
        active := { (core s s.cur.core).active with teams := (core t s.cur.core).active.teams } } ∧
      (∀ n, n ≠ s.cur.slot → teamAt t ⟨s.cur.core, n⟩ = teamAt s ⟨s.cur.core, n⟩)

/-- For every load, store, LDE and LDL of both sets whose path delivers in the slice's register window, with no write pending there, or in its
stack window with the line present: a load completes with the little-endian bytes at the offset in its destination, LDE with the element
of the block, LDL with the doubleword in the label register; a store completes with its bytes written at the offset. No access is made; an
access to the stack line also marks the segment of the core store that holds it as accessed (log 102). (R4, R172, R173, R222, R223, R224,
R235) -/
def Obligations.OwnWindows : Prop :=
  ∀ (i : Instr) (f : Form) (l : Option (Fin 8)) (off : Vals → DWord) (op : Vals → MemOp) (s : State) (tm : Team) (sl : Slice) (v : Vals) (p : Path),
    memRule i = some (f, l, off, op) → Gathers s f (.ok ()) tm sl v → MemoryFree s i tm → v.pops = [] →
    accessPath s s.cur tm sl (pathWord tm l v) (off v) (op v) = .ok p → (∀ g, (op v).kind ≠ .flag g) → (∀ w, (op v).kind ≠ .wait w) →
    let reads (s' : State) (bs : List Byte) : State → Prop := fun t =>
      (∀ x, (op v).kind = .element x → ∀ r, ldeResult bs x.toNat = some r → t = finish f sl v (r.bits.setWidth 64) r.flags s') ∧
      (∀ n, (op v).kind = .load → (op v).sink = .label n →
        t = finishNone v (sl.pc + BitVec.ofNat 32 (4 * f.len))
          (modTeam s' (teamIdOf s.cur) fun x => { x with labels := x.labels.set n (dwordOfBytes bs) })) ∧
      ((op v).kind = .load → (∀ n, (op v).sink ≠ .label n) → t = finish f sl v (dwordOfBytes bs) 0 s')
    (∀ o, p.dest = .regs o → windowPending s (tm.name s.cur.strand) o (op v).size = false →
      ∃ t, exec i s = .next t ∧ reads s ((sl.regBytes.drop o).take (op v).size) t ∧
        ((op v).kind = .store → t = finishNone v (sl.pc + BitVec.ofNat 32 (4 * f.len)) (modSlice s s.cur fun x => writeRegs x o (op v).bytes))) ∧
    (∀ o line, p.dest = .stack o → Table.get sl.stack (o / 128) = some line →
      ∃ t, exec i s = .next t ∧ reads (touchWay s s.cur.core (o / 128)) ((line.drop (o % 128)).take (op v).size) t ∧
        ((op v).kind = .store → t = finishNone v (sl.pc + BitVec.ofNat 32 (4 * f.len)) (modSlice (touchWay s s.cur.core (o / 128)) s.cur fun x => writeStack x o (op v).bytes)))

/-- For every load, store, atomic and FENCEF of both sets whose path SWAPs to a package with a unit in its entry and nobody waiting there,
from a slice that waits on no entry and stands where its gang says, with no earlier load of an address slice of it unperformed before a
load, the accesses in flight being numbered in order: the entry has one unit less and one more sent, one packet for the target with the
fabric label, the offset and the bytes leaves at the end of those that have left, FABOUT and the core's outstanding count rise by one, and
the access is in flight; a store or flag completes, a load or atomic waits for it on its PC. (R380, R381, R388, R399, R404) -/
def Obligations.FabricAccesses : Prop :=
  ∀ (i : Instr) (f : Form) (l : Option (Fin 8)) (off : Vals → DWord) (op : Vals → MemOp) (s : State) (tm : Team) (sl : Slice) (v : Vals) (p : Path)
    (target lab : Nat),
    memRule i = some (f, l, off, op) → Gathers s f (.ok ()) tm sl v → MemoryFree s i tm → v.pops = [] → sl.stepBit = false →
    accessPath s s.cur tm sl (pathWord tm l v) (off v) (op v) = .ok p → p.dest = .fabric target lab →
    fabricWaits s (tm.name s.cur.strand) p (off v) = false → InPlace s s.cur tm → target < 8192 →
    loadsBefore s s.cur (tm.name s.cur.strand) (op v) p = false → s.accessesOrdered →
    let e := allowIndex (core s s.cur.core) tm.world target
    let x := allowAt (core s s.cur.core) e
    1 ≤ x.alw → x.waiters = [] → (∀ y ∈ (core s s.cur.core).allow, y.2.waiters.any (Waiter.isSlice s.cur) = false) →
    ∃ t a pk tm' sl', exec i s = .next t ∧ t.inflight = s.inflight ++ [a] ∧ a.n = s.nextAccess ∧ a.sent = true ∧ a.off = off v ∧
      t.outbox = s.outbox ++ [pk] ∧ pk.target = target ∧ pk.label = BitVec.ofNat 16 lab ∧ pk.off = off v ∧ pk.size = (op v).size ∧
      pk.payload = (op v).bytes.take 256 ∧ pk.access = a.n ∧ t.regs.fabOut = s.regs.fabOut + 1 ∧
      (core t s.cur.core).outstanding = (core s s.cur.core).outstanding + 1 ∧
      allowAt (core t s.cur.core) e = { x with alw := x.alw - 1, sent := x.sent + 1 } ∧
      sliceAt t s.cur = some (tm', sl') ∧ sl'.regs = sl.regs ∧ t.mem = s.mem ∧
      (((op v).kind = .store ∨ (∃ g, (op v).kind = .flag g)) → sl'.pc = sl.pc + BitVec.ofNat 32 (4 * f.len) ∧ sl'.await = none) ∧
      (((op v).kind = .load ∨ (∃ o y z, (op v).kind = .atomic o y z)) → sl'.pc = sl.pc ∧ sl'.await = some a.n)

/-- In both sets, FENCE completes when no earlier access of the slice in its scope is left: unperformed in package memory for .P, unperformed
in a tile region for .L, toward another package or a scale-out window for .F, unperformed in host memory for .S. Otherwise the slice waits
with class MEMORY. FENCE.S has then written to host memory every write of the slice that the combiner held, oldest first, each at its
address, and kept those of other slices. (R286, R369, R373) -/
def Obligations.Fences : Prop :=
  ∀ (i : Instr) (m : Scp) (s : State) (tm : Team) (sl : Slice) (v : Vals), (i = .fence m ∨ i = .teamFence m) →
    Gathers s (form0 i.isTeam) (.ok ()) tm sl v → (i.isTeam = true → loadsPending tm = false) →
    let mine (a : Access) : Prop := a.who = tm.name s.cur.strand ∧ a.ofChannel = false ∧
      match m, a.place with
      | .p, .main _ _ _ | .l, .scratch _ _ | .s, .host _ => a.performed = false
      | .f, .fabric _ _ _ _ | .f, .window _ _ _ => True
      | _, _ => False
    let held := s.combiner.filter fun c => decide (c.who = tm.name s.cur.strand)
    let u : State := if m = .s then
        { s with combiner := s.combiner.filter fun c => !decide (c.who = tm.name s.cur.strand)
                 hostMem := held.foldl (fun h c => Memory.writeBytes h c.pa c.bytes) s.hostMem }
      else s;
    ((∀ a ∈ s.inflight, ¬ mine a) → exec i s = .next (finishNone v (sl.pc + 4) u)) ∧
      ((∃ a ∈ s.inflight, mine a) → exec i s = .next (waitSlice u s.cur .memory))

/-- For a barrier that declares at least one arrival, a contribution of arrivals and bytes leaves the phase n higher, each count lowered by
the contribution and raised by n times its declared value, at least one of them above 0, and n is the least number for which that holds.
(R277, R278) -/
def Obligations.BarrierCounts : Prop :=
  ∀ (b : Barrier) (a y arrivals bytes : Nat) (ts : Word), 1 ≤ a →
    ∃ n : Nat, (b.contribute a y arrivals bytes ts).phase = b.phase + BitVec.ofNat 32 n ∧
      (b.contribute a y arrivals bytes ts).arem = b.arem - arrivals + n * a ∧
      (b.contribute a y arrivals bytes ts).brem = b.brem - bytes + n * y ∧
      (0 < (b.contribute a y arrivals bytes ts).arem ∨ 0 < (b.contribute a y arrivals bytes ts).brem) ∧
      ∀ k : Nat, k < n → b.arem - arrivals + k * a ≤ 0 ∧ b.brem - bytes + k * y ≤ 0

/-- In both sets, for a barrier word that passes R280 and a team that has not ended: BARV, once the slice's stores and atomics in package and
local scope have been performed, completes with the phase before its contribution of one arrival and zext(B) bytes, and waits with class
MEMORY before; BARW completes when the phase number B has completed, also for a waiter that the end of the barrier's team let go on, and
otherwise a strand parks with class BARRIER and an address slice stalls. A word that R280 refuses traps BAD_OPERAND with FIELD 2 and the
word. (R280, R282, R283) -/
def Obligations.BarrierInstructions : Prop :=
  ∀ (i : Instr) (d : Dst) (a b : Src) (s : State) (tm : Team) (sl : Slice) (v : Vals) (bar : Barrier),
    let f := if i = .barv d a b ∨ i = .teamBarv d a b then w3 i d a b else formAB i.isTeam a .w32 b .w32
    let w := lowWord v.a
    let n := w.toNat / 16 % 8
    let k := w.toNat % 16
    let next := sl.pc + BitVec.ofNat 32 (4 * f.len)
    let ok : Prop := w.toNat / 128 = 0 ∧ n < widthOf s tm.launch ∧ 1 ≤ (barrierDecl s tm.launch n k).1
    Gathers s f (.ok ()) tm sl v → barrierAt s tm.launch tm.gang n k = some bar →
    ((i = .barv d a b ∨ i = .teamBarv d a b) → (i.isTeam = true → loadsPending tm = false) →
      (¬ ok → exec i s = .next (trapSlice s s.cur { cause := .badOperand, field := 2, next := next, info0 := w.setWidth 64 })) ∧
      (ok → teamEnded s tm.launch tm.gang n = false →
        (storesPending s (tm.name s.cur.strand) = true → exec i s = .next (waitSlice s s.cur .memory)) ∧
        (storesPending s (tm.name s.cur.strand) = false →
          exec i s = .next (finish f sl v (bar.phase.setWidth 64) 0
            (contributeTo s tm.launch tm.gang n k 1 (lowWord v.b).toNat (core s s.cur.core).ct))))) ∧
    ((i = .barw a b ∨ i = .teamBarw a b) → ∀ ts, sl.waits = some (.passed ts) →
      exec i s = .next (finishNone v next (mergeStamp s s.cur.core ts))) ∧
    ((i = .barw a b ∨ i = .teamBarw a b) → (∀ ts, sl.waits ≠ some (.passed ts)) →
      (¬ ok → exec i s = .next (trapSlice s s.cur { cause := .badOperand, field := 2, next := next, info0 := w.setWidth 64 })) ∧
      (ok → teamEnded s tm.launch tm.gang n = false →
        let done : Prop := 1 ≤ (bar.phase - lowWord v.b).toNat ∧ (bar.phase - lowWord v.b).toNat ≤ 2 ^ 31
        (done → exec i s = .next (finishNone v next (mergeStamp s s.cur.core bar.tsDone))) ∧
        (¬ done → exec i s = .next (parkSlice s s.cur (.barrier w (lowWord v.b) next)) ∧
          (WaitFor.barrier w (lowWord v.b) next).cls = .barrier)))

/-- In both sets, for a message word of R410 and a payload range inside the slice's registers that no pending register touches: a malformed
word traps BAD_OPERAND with FIELD 1, a range that is not aligned or runs past the registers traps it with FIELD 2; a slice with
unperformed stores waits with class MEMORY; otherwise, on a path that SWAPs to a package whose entry has a unit and no waiters, the
accesses in flight being numbered in order, the message leaves with the bytes and the handler number, the unit is charged, and the
instruction completes. (R410, R411) -/
def Obligations.MessagesAreSent : Prop :=
  ∀ (i : Instr) (d : Dst) (a b : Src) (s : State) (tm : Team) (sl : Slice) (v : Vals),
    let f := (form3 i.isTeam d .w32 a .w32 b .w64).as .read
    let w := lowWord v.d
    let n := w.toNat / 2 ^ 14 % 2 ^ 9
    let o := (lowWord v.a).toNat
    let next := sl.pc + BitVec.ofNat 32 (4 * f.len)
    let wordOk : Prop := w.getLsbD 23 = false ∧ w.toNat % 2 ^ 14 = 0 ∧ n ≤ 256
    let rangeOk : Prop := o % 4 = 0 ∧ o + n ≤ 4 * sl.regs.length
    (i = .amsg d a b ∨ i = .teamAmsg d a b) → Gathers s f (.ok ()) tm sl v → (i.isTeam = true → loadsPending tm = false) →
    (¬ wordOk → exec i s = .next (trapSlice s s.cur { cause := .badOperand, field := 1, next := next, info0 := v.d })) ∧
    (wordOk → ¬ rangeOk → exec i s = .next (trapSlice s s.cur { cause := .badOperand, field := 2, next := next, info0 := v.a })) ∧
    (∀ p, wordOk → rangeOk → walkC s (askOf tm s.cur 0 n permW .amsg) v.b 0 (4 * sl.regs.length) = .ok p →
      (storesPending s (tm.name s.cur.strand) = true → exec i s = .next (waitSlice s s.cur .memory)) ∧
      (∀ target lab, storesPending s (tm.name s.cur.strand) = false → windowPending s (tm.name s.cur.strand) o n = false →
        p.dest = .fabric target lab → target < 8192 → fabricWaits s (tm.name s.cur.strand) p 0 = false → InPlace s s.cur tm →
        v.pops = [] → sl.stepBit = false → s.accessesOrdered →
        let e := allowIndex (core s s.cur.core) tm.world target
        let x := allowAt (core s s.cur.core) e
        1 ≤ x.alw → x.waiters = [] → (∀ y ∈ (core s s.cur.core).allow, y.2.waiters.any (Waiter.isSlice s.cur) = false) →
        ∃ t pk tm' sl' m, exec i s = .next t ∧ t.outbox = s.outbox ++ [pk] ∧ pk.target = target ∧ pk.kind = .message (w.toNat / 2 ^ 24) m ∧
          pk.payload = (sl.regBytes.drop o).take n ∧ allowAt (core t s.cur.core) e = { x with alw := x.alw - 1, sent := x.sent + 1 } ∧
          sliceAt t s.cur = some (tm', sl') ∧ sl'.pc = next ∧ sl'.regs = sl.regs))

/-- QLD and QLDU add one entry of elements to be loaded, at A2 + i x sext(B) for each strand i or at A2 + sext(B), each with the label word of
the label register; through the slice's own register or stack window with the bytes that stand there at the issue (log 44, the model's
choice). QLDG pops a LANE back queue and adds an entry with an element at A2 + 4 x sext(value) for each contribution, a performed 0 for a
strand without one; QSTS has its elements accepted as stores in ascending order, then pops (log 35); all stall with QUEUE_FULL on a full
queue, or with BACKQ on an incomplete entry. A misaligned A2 or stride traps MISALIGNED_ACCESS; the offset that INFO0 shows is log 32, the
model's choice. SETL, GETL and MKL write and read label registers and positions of label words; QOCC gives kind, depth and occupancy of a
queue, a back queue counting with no live strand as log 99, the model's choice, says. (R228, R229, R230, R231, R232, R233, R234, R236) -/
def Obligations.QueueLoadsAndLabels : Prop :=
  (∀ (i : Instr) (lane : Bool) (q : Fin 8) (a b : Src) (l : Fin 8) (s : State) (tm : Team) (sl : Slice) (v : Vals),
    let f := (form3 true (.queue q) .w32 a .w64 b .w32).as (if lane then .none else .queue)
    let lw := listGetD tm.labels l.val 0
    let off := BitVec.ofInt 64 (u64 v.a + s32 v.b)
    (i = .qld (.queue q) a b l ∧ lane = true ∨ i = .qldu (.queue q) a b l ∧ lane = false) → Gathers s f (.ok ()) tm sl v →
    (tm.queueDecl false q.val).kind = (if lane then .lane else .uniform) → labelPending s (tm.name none) l.val = false →
    let offs := if lane then (List.range tm.decl.strands).map fun (k : Nat) => BitVec.ofInt 64 (u64 v.a + k * s32 v.b) else [off]
    let popsB : Bool := match b with
      | .queue _ => true
      | _ => false
    ((∀ k, a ≠ .queue k) → (v.a.toNat % 4 ≠ 0 ∨ v.b.toNat % 4 ≠ 0) → exec i s = .next (trapSlice s s.cur
      { cause := .misalignedAccess, next := sl.pc + BitVec.ofNat 32 (4 * f.len), info1 := lw,
        info0 := if lane then v.a else if v.a.toNat % 4 ≠ 0 ∧ popsB = true then v.a else off,
        detail0 := pairOf redacted 0, detail1 := pairOf redacted redacted })) ∧
    (v.a.toNat % 4 = 0 → v.b.toNat % 4 = 0 →
    ((tm.fqueue q.val).entries.length < (tm.queueDecl false q.val).depth → labelAt lw 0 = 0xFF10 →
      (∀ x ∈ offs, ∃ p o, walkC s (askOf tm s.cur x 4 permR .plain) lw x (4 * sl.regs.length) = .ok p ∧ p.dest = .regs o ∧
        windowPending s (tm.name none) o 4 = false) →
      ∃ e, exec i s = .next (finishNone v (sl.pc + BitVec.ofNat 32 (4 * f.len)) (modTeam s (teamIdOf s.cur) fun y =>
          { y.addForward q.val e with loads := y.loads + 1 })) ∧ e.elems.map Elem.off = offs ∧
        ∀ x ∈ e.elems, x.state = .arrived none ∧
          ∀ p o, walkC s (askOf tm s.cur x.off 4 permR .plain) lw x.off (4 * sl.regs.length) = .ok p → p.dest = .regs o →
            x.value = BitVec.ofNat 32 (natOfBytes ((sl.regBytes.drop o).take 4))) ∧
    (∀ p o line, lane = false → (tm.fqueue q.val).entries.length < (tm.queueDecl false q.val).depth → labelAt lw 0 = 0xFF11 →
      walkC s (askOf tm s.cur off 4 permR .plain) lw off (4 * sl.regs.length) = .ok p → p.dest = .stack o →
      Table.get sl.stack (o / 128) = some line →
      ∃ e x, exec i s = .next (finishNone v (sl.pc + BitVec.ofNat 32 (4 * f.len))
          (modTeam (touchWay s s.cur.core (o / 128)) (teamIdOf s.cur) fun y => { y.addForward q.val e with loads := y.loads + 1 })) ∧
        e.elems = [x] ∧ x.off = off ∧ x.state = .arrived none ∧
        x.value = BitVec.ofNat 32 (natOfBytes ((line.drop (o % 128)).take 4))) ∧
    ((tm.fqueue q.val).entries.length < (tm.queueDecl false q.val).depth → labelAt lw 0 ≠ 0xFF10 → labelAt lw 0 ≠ 0xFF11 →
      ∃ e, exec i s = .next (finishNone v (sl.pc + BitVec.ofNat 32 (4 * f.len)) (modTeam s (teamIdOf s.cur) fun x =>
          { x.addForward q.val e with loads := x.loads + 1 })) ∧ e.order = some tm.loads ∧ e.pc = sl.pc ∧
        e.elems.map Elem.off = offs ∧
        ∀ x ∈ e.elems, x.state = .pending ∧ x.lw = lw) ∧
    ((tm.queueDecl false q.val).depth ≤ (tm.fqueue q.val).entries.length →
      exec i s = .next (parkSlice s s.cur (.room q.val (tm.fqueue q.val).made)) ∧
      (WaitFor.room q.val (tm.fqueue q.val).made).cls = .queueFull))) ∧
  (∀ (q qb : Fin 8) (a : Src) (l : Fin 8) (s : State) (tm : Team) (sl : Slice) (v : Vals),
    let f := { (form3 true (.queue q) .w32 a .w64 (.queue qb) .w32).as .none with bq := true }
    let ready : Prop := ∀ p ∈ tm.indexed, p.2.run ≠ .exited → (tm.bqueue qb.val).popped < listGetD p.2.pushed qb.val 0
    Gathers s f (.ok ()) tm sl v → (tm.queueDecl false q.val).kind = .lane → (tm.queueDecl true qb.val).kind = .lane →
    labelPending s (tm.name none) l.val = false →
    ((∀ k, a ≠ .queue k) → v.a.toNat % 4 ≠ 0 → exec (.qldg (.queue q) a (.queue qb) l) s = .next (trapSlice s s.cur
      { cause := .misalignedAccess, next := sl.pc + BitVec.ofNat 32 (4 * f.len), info0 := v.a, info1 := listGetD tm.labels l.val 0,
        detail0 := pairOf redacted 0, detail1 := pairOf redacted redacted })) ∧
    (v.a.toNat % 4 = 0 → ¬ ready → exec (.qldg (.queue q) a (.queue qb) l) s = .next (stopAt s s.cur f (.backq [qb.val]))) ∧
    (v.a.toNat % 4 = 0 → ready → (tm.queueDecl false q.val).depth ≤ (tm.fqueue q.val).entries.length →
      exec (.qldg (.queue q) a (.queue qb) l) s = .next (parkSlice s s.cur (.room q.val (tm.fqueue q.val).made))) ∧
    (v.a.toNat % 4 = 0 → ready → (tm.fqueue q.val).entries.length < (tm.queueDecl false q.val).depth →
      labelAt (listGetD tm.labels l.val 0) 0 ≠ 0xFF10 → labelAt (listGetD tm.labels l.val 0) 0 ≠ 0xFF11 →
      ∃ e, exec (.qldg (.queue q) a (.queue qb) l) s = .next (finishNone v (sl.pc + BitVec.ofNat 32 (4 * f.len))
          (modTeam (popLane s qb.val) (teamIdOf s.cur) fun x => { x.addForward q.val e with loads := x.loads + 1 })) ∧
        e.order = some tm.loads ∧ e.elems.length = tm.decl.strands ∧
        ∀ k x, e.elems[k]? = some x →
          match (tm.contributions qb.val 0).find? fun c => c.strand == k with
          | none => x.state = .performed ∧ x.value = 0
          | some c => x.state = .pending ∧ x.lw = listGetD tm.labels l.val 0 ∧
              x.off = BitVec.ofInt 64 (u64 v.a + 4 * s32 (c.value.setWidth 64)))) ∧
  (∀ (d : Dst) (qb : Fin 8) (a : Src) (l : Fin 8) (s : State) (tm : Team) (sl : Slice) (v : Vals),
    let f := { (form3 true d .w32 a .w64 (.queue qb) .w32).as .read with bq := true }
    let ready : Prop := ∀ p ∈ tm.indexed, p.2.run ≠ .exited → (tm.bqueue qb.val).popped < listGetD p.2.pushed qb.val 0
    let lw := listGetD tm.labels l.val 0
    let xs := ((List.range tm.decl.strands).filterMap fun (k : Nat) => ((tm.contributions qb.val 0).find? fun c => c.strand == k).map fun c =>
      (BitVec.ofInt 64 (u64 v.a + k * s32 v.d), c.value))
    Gathers s f (.ok ()) tm sl v → (tm.queueDecl true qb.val).kind = .lane → loadsPending tm = false →
    labelPending s (tm.name none) l.val = false →
    ((∀ k, a ≠ .queue k) → (v.a.toNat % 4 ≠ 0 ∨ v.d.toNat % 4 ≠ 0) → exec (.qsts d a (.queue qb) l) s = .next (trapSlice s s.cur
      { cause := .misalignedAccess, next := sl.pc + BitVec.ofNat 32 (4 * f.len), info0 := v.a, info1 := lw,
        detail0 := pairOf redacted 0, detail1 := pairOf redacted redacted })) ∧
    (v.a.toNat % 4 = 0 → v.d.toNat % 4 = 0 → ¬ ready →
      exec (.qsts d a (.queue qb) l) s = .next (stopAt s s.cur f (.backq [qb.val]))) ∧
    (v.a.toNat % 4 = 0 → v.d.toNat % 4 = 0 → ready → sl.scatter = [] →
      (∀ x ∈ xs, ∃ p, accessPath s s.cur tm sl lw x.1 (scatterOp x.2) = .ok p ∧
        match p.dest with
        | .main _ _ _ _ | .scratch _ _ | .weight _ _ => True
        | _ => False) →
      ∃ u ys, exec (.qsts d a (.queue qb) l) s = .next (finishNone v (sl.pc + BitVec.ofNat 32 (4 * f.len)) (popLane u qb.val)) ∧
        u.inflight = s.inflight ++ ys ∧ u.mem = s.mem ∧ ys.length = xs.length ∧
        ∀ (k : Nat) (y : Access) (x : DWord × Word), ys[k]? = some y → xs[k]? = some x → y.kind = .store ∧ y.off = x.1 ∧ y.lw = lw ∧
          y.bytes = lowBytes 4 (x.2.setWidth 64) ∧ y.who = tm.name none ∧ y.performed = false)) ∧
  (∀ (d : Dst) (a : Src) (l : Fin 8) (m : Pos) (s : State) (tm : Team) (sl : Slice) (v : Vals),
    let fs : Form := { team := true, len := 1 + Src.lits a, role := .none, a := a, aw := .w64 }
    let fg : Form := { team := true, len := 1, d := d, dw := .w64 }
    let fm := (form2 true d .w64 a .w32).as .both
    let j : Nat := match m with
      | .p1 => 48
      | .p2 => 32
      | .p3 => 16
      | .p4 => 0
    (Gathers s fs (.ok ()) tm sl v → labelPending s (tm.name none) l.val = false →
      exec (.setl a l) s = .next (finishNone v (sl.pc + BitVec.ofNat 32 (4 * fs.len))
        (modTeam s (teamIdOf s.cur) fun x => { x with labels := x.labels.set l.val v.a }))) ∧
    (Gathers s fg (.ok ()) tm sl v → labelPending s (tm.name none) l.val = false →
      exec (.getl d l) s = .next (finish fg sl v (listGetD tm.labels l.val 0) 0 s)) ∧
    (Gathers s fm (.ok ()) tm sl v →
      exec (.mkl d a m) s = .next (finish fm sl v (BitVec.ofInt 64 (ofBits 64 fun k =>
        if j ≤ k ∧ k < j + 16 then v.a.getLsbD (k - j) else v.d.getLsbD k)) 0 s))) ∧
  (∀ (d : Dst) (imm : BitVec 17) (s : State) (tm : Team) (sl : Slice) (v : Vals),
    let f := formJd true d .w32
    let back : Bool := decide (8 ≤ imm.toNat)
    let k := if back then imm.toNat - 8 else imm.toNat
    let dc := tm.queueDecl back k
    let count := if back then (List.range (tm.bqueue k).entries.length).countP fun j =>
        tm.indexed.all fun p => p.2.run == .exited || decide ((tm.bqueue k).popped + j < listGetD p.2.pushed k 0)
      else (tm.fqueue k).entries.length
    Gathers s f (.ok ()) tm sl v → imm.toNat < 10 → dc.kind ≠ .undeclared →
    exec (.qocc d imm) s = .next (finish f sl v
      (BitVec.ofNat 64 ((if dc.kind = .lane then 2 ^ 31 else 0) + 256 * (dc.depth % 128) + count % 128)) 0 s))

/-- A copy or weight load whose words, offset and flag pass R248 takes the lowest free channel with its command word, label word, offset and
PC, and a CPYM the lowest free array entry with it; MMAT, MMAD, MMAZ and ACCST take the lowest free array entry with their ACW, tile, mask
or first chunk. Nothing is moved and no result is written yet. A refused word traps BAD_OPERAND with its field and value, a misaligned
offset MISALIGNED_ACCESS; a full window stalls the slice with class TILE. (R244, R245, R246, R248, R249, R250, R253, R255, R256, R259) -/
def Obligations.EngineCommands : Prop :=
  (∀ (i : Instr) (kind : CopyKind) (d : Dst) (a b : Src) (l : Fin 8) (s : State) (tm : Team) (sl : Slice) (v : Vals),
    let wide : Bool := kind == .cpym || kind == .cpyf
    let f := (form3 true d (if wide then .w64 else .w32) a .w64 b .w32).as .read
    let off := if kind = .cpyf then v.a else BitVec.ofInt 64 (u64 v.a + s32 v.b)
    let n := if kind = .wld then 3968 else 512 * (v.d.toNat / 2 ^ 16 % 64 + 1)
    let lw := listGetD tm.labels l.val 0
    let next := sl.pc + BitVec.ofNat 32 (4 * f.len)
    let bank := (core s s.cur.core).active
    let flag : Word := if kind = .cpym then 0 else lowWord v.b
    (i = .cpy d a b l ∧ kind = .cpy ∨ i = .cpym d a b l ∧ kind = .cpym ∨ i = .cpys d a b l ∧ kind = .cpys ∨
      i = .cpyf d a b l ∧ kind = .cpyf ∨ i = .wld d a b l ∧ kind = .wld ∨ i = .wst d a b l ∧ kind = .wst) →
    Gathers s f (.ok ()) tm sl v → loadsPending tm = false → labelPending s (tm.name none) l.val = false →
    (∀ fld x, copyWordBad tm kind v = some (fld, x) →
      exec i s = .next (trapSlice s s.cur { cause := .badOperand, field := fld, next := next, info0 := x })) ∧
    (copyWordBad tm kind v = none → off.toNat + n ≤ 2 ^ 48 →
      (off.toNat % 64 ≠ 0 → exec i s = .next (trapSlice s s.cur
        { cause := .misalignedAccess, next := next, info0 := off, info1 := lw,
          detail0 := pairOf redacted 0, detail1 := pairOf redacted redacted })) ∧
      (off.toNat % 64 = 0 → flagFault s tm kind (lowWord v.b) = none →
        ((bank.freeChannel = none ∨ (kind = .cpym ∧ bank.freeEntry = none)) →
          ∃ b, exec i s = .next (modSlice (waitSlice s s.cur .tile) s.cur fun x => { x with blame := b })) ∧
        (∀ chan, bank.freeChannel = some chan → kind ≠ .cpym →
          exec i s = .next (finishNone v next (enterCopy s kind sl (lowWord v.d) (highWord v.d) flag lw off chan none))) ∧
        (∀ chan e, bank.freeChannel = some chan → kind = .cpym → bank.freeEntry = some e →
          exec i s = .next (finishNone v next (enterCopy s kind sl (lowWord v.d) (highWord v.d) flag lw off chan (some e))))))) ∧
  (∀ (s : State) (kind : CopyKind) (sl : Slice) (cw odd flag : Word) (lw off : DWord) (chan : Nat) (entry : Option Nat),
    let bank := (core s s.cur.core).active
    let t := enterCopy s kind sl cw odd flag lw off chan entry
    bank.reissue = [] → bank.copies = [] →
    t = { s with cores := t.cores } ∧
    (∃ ch, Table.get (core t s.cur.core).active.sluice chan = some ch ∧ ch.kind = kind ∧ ch.slot = s.cur.slot ∧ ch.cw = cw ∧ ch.odd = odd ∧
      ch.flag = flag ∧ ch.lw = lw ∧ ch.off = off ∧ ch.pc = sl.pc ∧ ch.order = bank.nextOrder ∧ ch.started = false ∧ ch.landed = []) ∧
    (∀ e, entry = some e → ∃ y, Table.get (core t s.cur.core).active.array e = some y ∧ y.acw = odd ∧ y.tile = wfield cw 5 0 ∧
      y.waits = true ∧ y.started = false ∧ y.order = bank.nextOrder) ∧
    (core t s.cur.core).active.teams = bank.teams ∧ (core t s.cur.core).active.wslots = bank.wslots) ∧
  (∀ (i : Instr) (kind : ArrayKind) (d : Dst) (a b : Src) (m : Afm) (s : State) (tm : Team) (sl : Slice) (v : Vals)
    (check : Option (BitVec 3 × DWord)) (tile : Nat) (arg : Word),
    let f := if kind = .mmaz then (form2 true d .w32 a .w32).as .read else (form3 true d .w32 a .w32 b .w32).as .read
    let next := sl.pc + BitVec.ofNat 32 (4 * f.len)
    (i = .mmat d a b ∧ kind = .mmat ∧ check = multiplyCheck false tm v ∧ tile = v.a.toNat ∧ arg = lowWord v.b ∨
      i = .mmad d a b ∧ kind = .mmad ∧ check = multiplyCheck true tm v ∧ tile = v.a.toNat ∧ arg = lowWord v.b ∨
      i = .mmaz d a ∧ kind = .mmaz ∧ check = (if acwPlainOk tm (lowWord v.d) then none else some (1, v.d)) ∧ tile = 0 ∧ arg = lowWord v.a ∨
      i = .accst d a b m ∧ kind = .accst m ∧ check = accstCheck m tm v ∧ tile = v.a.toNat ∧ arg = lowWord v.b) →
    Gathers s f (.ok ()) tm sl v →
    (∀ fld x, check = some (fld, x) →
      exec i s = .next (trapSlice s s.cur { cause := .badOperand, field := fld, next := next, info0 := x })) ∧
    (check = none → (core s s.cur.core).active.freeEntry = none →
      ∃ b, exec i s = .next (modSlice (waitSlice s s.cur .tile) s.cur fun x => { x with blame := b })) ∧
    (∀ e, check = none → (core s s.cur.core).active.freeEntry = some e →
      exec i s = .next (finishNone v next (enterArray s sl kind (lowWord v.d) tile arg e)) ∧
      ((core s s.cur.core).active.reissue = [] → (core s s.cur.core).active.copies = [] →
        ∃ y, Table.get (core (enterArray s sl kind (lowWord v.d) tile arg e) s.cur.core).active.array e = some y ∧ y.kind = kind ∧
          y.slot = s.cur.slot ∧ y.acw = lowWord v.d ∧ y.tile = tile ∧ y.arg = arg ∧ y.started = false ∧ y.waits = false)))

/-- TWAIT completes when the tile or slot that its object word names is FULL, EMPTY or has the chunks of its mask, and stalls with class TILE
until then; TEMPTY adds a command that empties its object in its turn; TSTAT gives MAP, or ERROFF, STATUS, PEND, CLAIM, EMPTY and FULL;
ACCV gives version and STATUS of an accumulator; WREF says whether a bank refreshes and for how long, or when it will next. A value that a
rule refuses traps BAD_OPERAND with FIELD 2 and the value, and before BAD_MODIFIER for TWAIT.MASK of a slot or an accumulator: that order
is log 34, the model's choice. (R247, R260, R262, R263, R264, R302) -/
def Obligations.TileInstructions : Prop :=
  ∀ (i : Instr) (d : Dst) (a b : Src) (m : Twc) (s : State) (tm : Team) (sl : Slice) (v : Vals),
    let w := lowWord v.a
    let n := w.toNat % 64
    let bank := (core s s.cur.core).active
    let slotBit := w.getLsbD 6
    let subBit := w.getLsbD 7
    let fw := formAB true a .w32 b .w64
    let fe := formA true a
    let f64 := form2 true d .w64 a .w32
    let f32 := form2 true d .w32 a .w32
    let known : Prop := w.toNat / 256 = 0 ∧ (if slotBit then n < 8 else 0 < tm.tileChunks n)
    let full : Prop := if slotBit then (bank.slot n).full = true
      else ∀ k, k < tm.tileChunks n → (tm.tile n).map.getLsbD k = true
    let empty : Prop := if slotBit then (bank.slot n).full = false ∧ (bank.slot n).claim = false
      else (tm.tile n).map = 0 ∧ (tm.tile n).claim = 0
    let chunks (ks : List Nat) : Option Word := foldTimes none (ks.map (Table.get (tm.tile n).ts))
    let shown (k : DWord) : List Nat := (List.range 64).filter fun j => k.getLsbD j
    let ts := if slotBit then (bank.slot n).ts else if subBit then Table.get (tm.tile n).ts 64 else chunks (List.range (tm.tileChunks n))
    let waits : Prop := ∃ b, exec i s = .next (modSlice (waitSlice s s.cur .tile) s.cur fun x => { x with blame := b })
    let refuse (f : Form) : Prop := exec i s = .next (trapSlice s s.cur
      { cause := .badOperand, field := 2, next := sl.pc + BitVec.ofNat 32 (4 * f.len), info0 := v.a })
    (i = .twait a b m → Gathers s fw (.ok ()) tm sl v →
      (¬ known → refuse fw) ∧
      (known → m = .full → (slotBit = false → tm.tileChunks n ≤ 64) →
        ((if subBit then empty else full) →
          exec i s = .next (finishNone v (sl.pc + BitVec.ofNat 32 (4 * fw.len)) (mergeStamp s s.cur.core ts))) ∧
        (¬ (if subBit then empty else full) → waits)) ∧
      (known → m = .mask → (slotBit = true ∨ subBit = true) → exec i s = .next (trapSlice s s.cur
        { cause := .badModifier, field := 4, next := sl.pc + BitVec.ofNat 32 (4 * fw.len), info0 := 1 })) ∧
      (known → m = .mask → slotBit = false → subBit = false →
        ((∀ k, v.b.getLsbD k = true → (tm.tile n).map.getLsbD k = true) →
          exec i s = .next (finishNone v (sl.pc + BitVec.ofNat 32 (4 * fw.len)) (mergeStamp s s.cur.core (chunks (shown v.b))))) ∧
        (¬ (∀ k, v.b.getLsbD k = true → (tm.tile n).map.getLsbD k = true) → waits))) ∧
    (i = .tempty a → Gathers s fe (.ok ()) tm sl v →
      ((¬ known ∨ subBit = true) → refuse fe) ∧
      (known → subBit = false → exec i s = .next (finishNone v (sl.pc + BitVec.ofNat 32 (4 * fe.len)) (modBank s s.cur.core fun x =>
        { x with tempties := x.tempties ++ [⟨s.cur.slot, w, x.nextOrder, sl.pc⟩], nextOrder := x.nextOrder + 1 })))) ∧
    (i = .tstat d a → Gathers s f64 (.ok ()) tm sl v →
      ((¬ known ∨ (subBit = true ∧ slotBit = true)) → refuse f64) ∧
      (known → (subBit = false ∨ slotBit = false) → ∃ (x : DWord) (y : Option Word),
        exec i s = .next (finish f64 sl v x 0 (mergeStamp s s.cur.core y)) ∧
        (subBit = true → x = (tm.tile n).map ∧ y = chunks (shown x)) ∧
        (subBit = false → (slotBit = false → tm.tileChunks n ≤ 64) →
          x.toNat / 2 ^ 32 = (if slotBit then (bank.slot n).errOff else (tm.tile n).errOff).toNat ∧
          x.toNat / 2 ^ 24 % 2 ^ 8 = (if slotBit then (bank.slot n).status else (tm.tile n).status).toNat ∧
          x.toNat / 2 ^ 8 % 2 ^ 8 = min 255 (bank.pend s.cur.slot w) ∧
          (x.getLsbD 2 = true ↔ (if slotBit then (bank.slot n).claim = true else (tm.tile n).claim ≠ 0)) ∧
          (x.getLsbD 1 = true ↔ empty) ∧ (x.getLsbD 0 = true ↔ full)))) ∧
    (i = .accv d a → Gathers s f32 (.ok ()) tm sl v →
      (tm.decl.accs ≤ v.a.toNat → refuse f32) ∧
      (v.a.toNat < tm.decl.accs → exec i s = .next (finish f32 sl v
        (BitVec.ofNat 64 ((tm.acc v.a.toNat).status.toNat * 2 ^ 16 + (tm.acc v.a.toNat).version.toNat)) 0 s))) ∧
    (i = .wref d a → Gathers s f32 (.ok ()) tm sl v →
      (32 ≤ v.a.toNat → refuse f32) ∧
      (v.a.toNat < 32 → s.service.halved = false →
        let p := s.wall % 67200
        let start := 2100 * v.a.toNat
        ∃ x : Nat, exec i s = .next (finish f32 sl v (BitVec.ofNat 64 x) 0 s) ∧
          (start ≤ p ∧ p < start + 2100 → x = 2 ^ 31 + (start + 2100 - p)) ∧
          (p < start → x = start - p) ∧ (start + 2100 ≤ p → x = start + 67200 - p)))

/-- LAUNCH of a queue that serves the team's world submits the 256 bytes of the record that it reads; CNTA adds to a counter of its world and
CNTW completes once the counter has reached a value and waits otherwise; CANCEL makes its selections; LINV completes with no copy of the
label left at its level once nothing uses it; FLUSHR of a range of main memory flushes its lines, and of length 0 does nothing. A queue,
counter or level that the slice may not use is a violation with LABEL_DENIED or WRONG_WORLD; a value out of range traps BAD_OPERAND. The
order of LAUNCH's checks is log 42, level 0 of those violations log 18 and which records CANCEL takes log 47, the model's choices. Each is
said where the tables in main memory that it names are served. (R328, R329, R330, R331, R332, R344, R345) -/
def Obligations.WorkInstructions : Prop :=
  ∀ (i : Instr) (d : Dst) (a b : Src) (l : Fin 8) (m : Wrk) (lv : Lvl) (s : State) (tm : Team) (sl : Slice) (v : Vals),
    loadsPending tm = false → labelPending s (tm.name none) l.val = false →
    let w := tm.name none
    let lw := listGetD tm.labels l.val 0
    let fl := (form3 true d .w32 a .w64 b .w32).as .read
    let fc := formAB true a .w32 b .w32
    let fr := formAB true a .w64 b .w64
    let fa := formA true a
    let off := BitVec.ofInt 64 (u64 v.a + s32 v.b)
    let after (f : Form) : Word := sl.pc + BitVec.ofNat 32 (4 * f.len)
    let ownCounter : Prop := v.a.toNat < 4096 ∧ counterHold s v.a.toNat = none ∧ counterValid s v.a.toNat = true ∧ counterWorld s v.a.toNat = tm.world
    (i = .launch d a b l → Gathers s fl (.ok ()) tm sl v →
      (256 ≤ v.d.toNat → exec i s = .next (trapSlice s s.cur { cause := .badOperand, field := 1, next := after fl, info0 := v.d })) ∧
      (∀ p u bs, v.d.toNat < 256 → (queueView s v.d.toNat).valid = true → (queueView s v.d.toNat).src = true →
        (queueView s v.d.toNat).world = tm.world → queueHold s v.d.toNat = none →
        slotHold s v.d.toNat (queueView s v.d.toNat).tail.toNat true = none →
        accessPath s s.cur tm sl lw off { kind := .record v.d.toNat, size := 256, need := permR, align := 64 } = .ok p →
        targetOf p.dest = none → storesPending s w = false → earlierPending s w (placeOf p off).scope = false →
        slotFree s v.d.toNat w = true → readRecord (keepCopies s s.cur.core p.copies) tm sl p lw off (after fl) = .bytes u bs →
        exec i s = .next (finishNone v (after fl) (submitRecord u v.d.toNat w bs (core u s.cur.core).ct)))) ∧
    (i = .cnta a b → Gathers s fc (.ok ()) tm sl v → ownCounter →
      (storesPending s w = true → exec i s = .next (waitSlice s s.cur .memory)) ∧
      (storesPending s w = false → ∃ u, exec i s = .next (finishNone v (after fc) u) ∧
        counterValue u v.a.toNat = counterValue s v.a.toNat + lowWord v.b ∧
        (∀ k, k ≠ v.a.toNat → counterValue u k = counterValue s k) ∧ u.cores = s.cores ∧ u.mem = s.mem)) ∧
    (i = .cntw a b → Gathers s fc (.ok ()) tm sl v → ownCounter →
      ((counterValue s v.a.toNat - lowWord v.b).toNat < 2 ^ 31 →
        exec i s = .next (finishNone v (after fc) (mergeStamp s s.cur.core (Table.get s.counterTs v.a.toNat)))) ∧
      (2 ^ 31 ≤ (counterValue s v.a.toNat - lowWord v.b).toNat → exec i s = .next (waitSlice s s.cur .barrier))) ∧
    (i = .cancel a m → Gathers s fa (.ok ()) tm sl v → ownCounter → cancelHold s tm.world = none →
      exec i s = .next (cancelWork (finishNone v (after fa) s) tm.world m v.a.toNat)) ∧
    ((i = .cnta a b ∨ i = .cntw a b ∨ i = .cancel a m) → ∀ f, f = (if i = .cancel a m then fa else fc) → Gathers s f (.ok ()) tm sl v →
      (4096 ≤ v.a.toNat → exec i s = .next (trapSlice s s.cur { cause := .badOperand, field := 2, next := after f, info0 := v.a })) ∧
      (v.a.toNat < 4096 → counterHold s v.a.toNat = none → counterValid s v.a.toNat = false →
        ∃ pf : PathFault, pf.cause = .labelDenied ∧ pf.level = 0 ∧ exec i s = .next (faultWith s s.cur pf v.a 0 0 0 (after f))) ∧
      (v.a.toNat < 4096 → counterHold s v.a.toNat = none → counterValid s v.a.toNat = true → counterWorld s v.a.toNat ≠ tm.world →
        ∃ pf : PathFault, pf.cause = .wrongWorld ∧ pf.level = 0 ∧ exec i s = .next (faultWith s s.cur pf v.a 0 0 0 (after f)))) ∧
    (i = .linv a lv → Gathers s fa (.ok ()) tm sl v →
      let x := lowWord v.a
      let lab : BitVec 16 := x.setWidth 16
      let level : Nat := match lv with
        | .c => 0
        | .d => 1
        | .p | .f => 2
      let ok : Prop := x.toNat / 2 ^ 16 = 0 ∧ x ≠ 0 ∧ (lv = .c → x.toNat < 0xFF00)
      (¬ ok → exec i s = .next (trapSlice s s.cur { cause := .badOperand, field := 2, next := after fa, info0 := v.a })) ∧
      (ok → tm.level.toNat < level →
        ∃ pf : PathFault, pf.cause = .labelDenied ∧ pf.level = 0 ∧ exec i s = .next (faultWith s s.cur pf v.a 0 0 0 (after fa))) ∧
      (ok → level ≤ tm.level.toNat → sl.linv = 0 → anyStorePending s w = false →
        (∀ y ∈ s.combiner, y.who ≠ w → ((Lvl.num lv).toNat, lab) ∉ y.used) →
        (∀ y ∈ s.inflight, ((Lvl.num lv).toNat, lab) ∉ y.used) → (∀ p ∈ s.messages, p.label ≠ lab) →
        (∀ p ∈ activeTeams s, ∀ y ∈ p.2.addr.scatter, ((Lvl.num lv).toNat, lab) ∉ y.path.used) →
        (∀ p ∈ s.cores, ∀ x ∈ p.2.active.sluice, ∀ y ∈ x.2.walked, ((Lvl.num lv).toNat, lab) ∉ y.used) →
        ∃ u, exec i s = .next (finishNone v (after fa) u) ∧ u.mem = s.mem ∧
          match lv with
          | .c => ∀ k ∈ u.cores, ∀ y ∈ k.2.cCopies, y.label = lab → worldOfLaunch s y.scope ≠ tm.world
          | .d => ∀ k ∈ u.dies, ∀ y ∈ k.copies, y.label = lab → y.scope ≠ tm.world
          | .p => ∀ y ∈ u.pCopies, y.label ≠ lab
          | .f => ∀ y ∈ u.fCopies, y.label ≠ lab)) ∧
    (i = .flushr a b l → Gathers s fr (.ok ()) tm sl v →
      (v.b = 0 → exec i s = .next (finishNone v (after fr) s)) ∧
      (v.b ≠ 0 → v.a.toNat + v.b.toNat ≤ 2 ^ 48 → (v.a.toNat % 128 ≠ 0 ∨ v.b.toNat % 128 ≠ 0) →
        exec i s = .next (trapSlice s s.cur
          { cause := .misalignedAccess, next := after fr, info0 := v.a, info1 := lw,
            detail0 := pairOf redacted 0, detail1 := pairOf redacted redacted })) ∧
      (∀ p pa key cache rem, v.b ≠ 0 → v.a.toNat + v.b.toNat ≤ 2 ^ 48 → v.a.toNat % 128 = 0 → v.b.toNat % 128 = 0 →
        walkC s (askOf tm s.cur v.a v.b.toNat permW .flushr) lw v.a (4 * sl.regs.length) = .ok p → p.dest = .main pa key cache rem →
        let u := keepCopies s s.cur.core p.copies
        (∀ x ∈ linesHeld u pa v.b.toNat, lineHold u x false = none) →
        exec i s = .next (finishNone v (after fr) (flushRange u pa v.b.toNat))))

/-- HOME_STORE of the next store of a slice and scope writes its bytes at a line that serves, timestamps it, and the access ends; HOME_ATOMIC
writes the atomic's result and keeps the old value as the access's result; LEASE_RENEWAL and LOAD_COMPLETE perform a load with the bytes
of its place, and LOAD_COMPLETE hands a performed access over: it leaves, and a plain load writes its destination register. WAKE makes a
parked strand runnable once its wait is over; WAITA_WAKE re-reads a word whose line has been written, reused or restored since, completes
the wait when the word differs and parks it again otherwise; QUEUE_ELEMENT_PERFORM performs the next queue load, once none of its elements
has a packet to send; LINE_FILL lists an absent line under mts; MSC_FILL counts a hit or a miss of the partition of the world that fills,
both for a line of populated main memory. The model's choices here: when a load's elements are read (log 44), WAITA_WAKE's fresh read at
the place walked before (log 45), a load with more poisoned elements than the area holds (log 105), the set of a line in the cache (log
106), and an access performed and answered in one step (log 120). (R98, R174, R176, R189, R197, R285, R293, R294, R354, R355, R359, R361) -/
def Obligations.MemoryEvents : Prop :=
  (∀ (s : State) (n : Nat) (a : Access) (pa key : Nat) (cache : Bool), accessOf s n = some a → a.place = .main pa key cache →
    mayPerform s a = true → lineStatus s (pa / 128) false = .serves →
    let l := lineAt s (pa / 128)
    let ts := laterOf (core s a.core).ct (l.rts + 1)
    (a.kind = .store → ((Table.get s.lines (pa / 128)).isSome = true ∨
        (s.lines.filter fun p => homeSlice p.1 == homeSlice (pa / 128)).length < 2048) → ∃ t, exec (.homeStore n) s = .next t ∧ t.mem = (writeKeyed s key pa a.bytes).mem ∧ accessOf t n = none ∧
      Table.get t.lines (pa / 128) = some ⟨ts, ts, true, l.poisoned⟩ ∧ (∀ w ∈ t.waiters, w.1 ≠ pa / 128) ∧ t.hostMem = s.hostMem) ∧
    (∀ op x c, a.kind = .atomic op x c → a.size ≤ 8 →
      let old := readKeyed s key pa a.size
      ∃ t a', exec (.homeAtomic n) s = .next t ∧ accessOf t n = some a' ∧ a'.performed = true ∧ a'.result = old ∧ a'.sink = a.sink ∧
        t.mem = (writeKeyed s key pa (lowBytes a.size (atomicValue op a.size (dwordOfBytes old) x c))).mem ∧ t.hostMem = s.hostMem) ∧
    ((a.kind = .load ∧ cache = false) → ∃ t a', exec (.leaseRenewal n) s = .next t ∧ accessOf t n = some a' ∧ a'.performed = true ∧
      a'.result = readKeyed s key pa a.size ∧ t.mem = s.mem ∧ t.hostMem = s.hostMem)) ∧
  (∀ (s : State) (n : Nat) (a : Access) (reply : List Byte) (tm : Team) (sl : Slice) (r : Nat), accessOf s n = some a → a.kind = .load →
    a.performed = true → a.place.scope ≠ .fabric → a.sink = .reg r → namedSlice s a.who = some (tm, sl) → sl.await ≠ some n →
    exec (.loadComplete n reply) s = .next (modNamedSlice (dropAccess s n) a.who fun x =>
      { x with regs := x.regs.set r (lowWord (dwordOfBytes a.result)) })) ∧
  (∀ (s : State) (id : SliceId) (tm : Team) (sl : Slice) (w : WaitFor), sliceAt s id = some (tm, sl) → mayMove s id = true →
    sl.run = .parked w → w ≠ .join →
    (waitOver s id tm sl w = true → ∃ sl', exec (.wake id) s = .next (putSlice s id tm sl') ∧ sl'.run = .runnable ∧ sl'.stall = none ∧
      sl'.pc = sl.pc ∧ sl'.regs = sl.regs ∧ sl'.ready = s.clock) ∧
    (waitOver s id tm sl w = false → exec (.wake id) s = .next s)) ∧
  (∀ (s : State) (id : SliceId) (tm : Team) (sl : Slice) (x : Watched) (pa key : Nat) (cache : Bool), sliceAt s id = some (tm, sl) →
    sl.watched = some x → mayMove s id = true → x.stale = false → x.place = .main pa key cache →
    let word : Word := BitVec.ofNat 32 (natOfBytes (readKeyed s key pa 4))
    (x.woken = false → recorded s (pa / 128) id.core = true → exec (.waitaWake id) s = .next s) ∧
    ((x.woken = true ∨ recorded s (pa / 128) id.core = false) → lineStatus s (pa / 128) false = .serves →
      let r := readMain s id.core pa key 4 cache true
      let u := noteTime r.2 tm.launch (core r.2 id.core).ct
      u.mem = s.mem ∧ u.hostMem = s.hostMem ∧
      (word = x.old → exec (.waitaWake id) s = .next (parkAddress u (tm.name id.strand) x)) ∧
      (word ≠ x.old → exec (.waitaWake id) s = .next (completeNamed (commitPops
        (modSlice u id fun y =>
          { y with run := if y.run = .parked .address then .runnable else y.run, stall := none, waits := none, watched := none,
                   ready := u.clock }) (tm.name id.strand) x.pops) (tm.name id.strand) x.next)))) ∧
  (∀ (s : State) (t : TeamId) (tm : Team) (q i : Nat) (e : FEntry) (g : Group), teamAt s t = some tm →
    nextLoad tm = some (q, i, e) → nextAway s t tm = none → enginesMove s t.core t.slot = true → tm.frozen = false → tm.killed = false →
    loadsHeld s (tm.name none) = false → e.elems.foldl (performElem t) ⟨s, [], none⟩ = g → g.hold = none →
    (∀ u, u = (fun x : Team => { x with fqueues := listModify (fun f =>
        { f with entries := listModify (fun y => { y with elems := g.elems }) f.entries i }) x.fqueues q }) → (u tm).poisons ≤ 64 →
      exec (.queueElementPerform t none) s = .next (dropReads (touchQueues (modTeam g.s t u) t.core t.slot) (tm.name none) .elems))) ∧
  (∀ (s : State) (line : Nat), populated s (128 * line) 128 = true → Table.get s.lines line = none → lineStatus s line true = .serves →
    (s.lines.filter fun p => homeSlice p.1 == homeSlice line).length < 2048 →
    let m := Table.getD s.mts (homeSlice line) 0
    exec (.lineFill line none) s = .next { s with lines := Table.put s.lines line ⟨m, m, false, []⟩ }) ∧
  (∀ (s : State) (line : Nat) (owner : Bool) (world : Nat), populated s (128 * line) 128 = true → lineStatus s line true = .serves →
    let set := cacheSetOf line
    let part := partOf s owner world
    ∃ t, exec (.mscFill line owner world) s = .next t ∧ t.mem = s.mem ∧
      ((∃ c ∈ Table.getD s.cacheSets set [], c.line = line) → (partition s part).hits ≠ BitVec.allOnes 64 →
        (partition t part).hits = (partition s part).hits + 1 ∧ (partition t part).misses = (partition s part).misses) ∧
      ((∀ c ∈ Table.getD s.cacheSets set [], c.line ≠ line) → (partition s part).misses ≠ BitVec.allOnes 64 →
        (partition t part).misses = (partition s part).misses + 1 ∧ (partition t part).hits = (partition s part).hits))

/-- CT_TICK raises a ct that has stood 128 cycles, and raises what lags; DROWSY marks a segment not accessed for 256 cycles; REFRESH passes
the time to the next edge of a bank's window; COMBINER_DRAIN delivers a held write behind the older ones of its slice that touch it or one
so delivered, in their order. COPY_START starts an eligible channel that no earlier one precedes, CHUNK_LAND lands a unit, COPY_COMPLETE
ends a copy whose units have landed; ARRAY_START gives the array to an eligible command, and ARRAY_RESULT writes its results 16 cycles
after its occupancy; TEMPTY_EFFECT empties its object; BARRIER_CONTRIBUTION applies a contribution in flight; TEAM_END releases a team
that may end. The model's choices here: which error a killed copy reports (log 39), TEMPTY clearing the object's time too (log 40), a
command started while results of another are on their way (log 41), and what DROWSY counts as an access (logs 49 and 102). (R213, R240,
R242, R250, R251, R256, R261, R263, R278, R301, R362, R369) -/
def Obligations.TimeAndEngineEvents : Prop :=
  (∀ (s : State) (c : Nat),
    (128 ≤ (s.clock - (core s c).ctSince).toNat → exec (.ctTick c) s = .next (raiseTimes (modCore s c fun k =>
      { k with ct := k.ct + 1, ctSince := s.clock }))) ∧
    ((s.clock - (core s c).ctSince).toNat < 128 → exec (.ctTick c) s = .next s)) ∧
  (∀ (s : State) (c seg : Nat), seg < 192 → seg ∉ (core s c).drowsy →
    256 ≤ (s.clock - Table.getD (core s c).touched seg 0).toNat →
    exec (.drowsy c seg) s = .next (modCore s c fun k => { k with drowsy := k.drowsy ++ [seg] })) ∧
  (∀ (s : State) (bank : Nat), bank < 32 → s.service.halved = false →
    ∃ t, exec (.refresh bank) s = .next t ∧ (∃ n, t = passCycles s n) ∧ s.wall < t.wall ∧ t.wall ≤ s.wall + 67200 ∧
      (t.wall % 67200 = 2100 * bank ∨ t.wall % 67200 = 2100 * (bank + 1) % 67200)) ∧
  (∀ (s : State) (n : Nat) (w : Combined), s.combiner[n]? = some w →
    let now := withOlder w.who (fun x => x == w) s.combiner
    exec (.combinerDrain n) s = .next { s with
      combiner := s.combiner.filter fun x => !now.contains x
      hostMem := now.foldl (fun m c => Memory.writeBytes m c.pa c.bytes) s.hostMem } ∧
    now.Sublist s.combiner ∧ w ∈ now ∧ (∀ x ∈ now, x.who = w.who) ∧
    (∀ (i : Nat) (x y : Combined) (xs : List Combined), s.combiner.drop i = x :: xs → x.who = w.who → y ∈ withOlder w.who (fun x => x == w) xs →
      x.touches y.pa y.bytes.length = true → x ∈ now) ∧
    ((∀ x ∈ s.combiner, x.who = w.who → x ≠ w → x.touches w.pa w.bytes.length = false) → ∀ x ∈ now, x = w)) ∧
  (∀ (s : State) (c chan : Nat) (ch : Channel), Table.get (core s c).active.sluice chan = some ch →
    copyEligible s c (core s c).active ch = true →
    (∀ p ∈ (core s c).active.sluice, copyEligible s c (core s c).active p.2 = true → ch.order ≤ p.2.order) →
    exec (.copyStart c chan) s = .next (startCopy s c chan ch)) ∧
  (∀ (s : State) (c chan u : Nat) (remote : List Byte) (ch : Channel) (tm : Team), Table.get (core s c).active.sluice chan = some ch →
    teamAt s ⟨c, ch.slot⟩ = some tm → ch.started = true → ch.fault = .none → u < ch.units' → u ∉ ch.landed →
    enginesMove s c ch.slot = true →
    (unitAccess s (tm.name none) chan u = none → halfSent s c chan = none →
      ((∀ y ∈ ch.walked, y.unit ≠ u) → exec (.chunkLand c chan u remote) s = .next (walkUnit s c chan ch tm u)) ∧
      (∀ y, (ch.walked.find? fun y => y.unit == u) = some y →
        exec (.chunkLand c chan u remote) s = .next (moveBlocks s c chan ch tm u y.die y.wa (ch.writes tm u)))) ∧
    (∀ a, unitAccess s (tm.name none) chan u = some a → 2 ≤ a.parts →
      exec (.chunkLand c chan u remote) s = .next (landUnit (endFabric s a) c chan ch u
        (if a.bytes = [] then (remote ++ List.replicate (ch.unitBytes u) 0).take (ch.unitBytes u) else a.bytes)))) ∧
  (∀ (s : State) (c chan : Nat) (ch : Channel) (tm : Team), Table.get (core s c).active.sluice chan = some ch →
    teamAt s ⟨c, ch.slot⟩ = some tm →
    (ch.fault = .none → ch.started = true → ch.landed.length = ch.units' → enginesMove s c ch.slot = true →
      exec (.copyComplete c chan) s = .next (endCopy s c chan ch tm)) ∧
    (∀ cause off, ch.fault = .killed cause off → exec (.copyComplete c chan) s = .next (endKilled s c chan ch tm cause off))) ∧
  (∀ (s : State) (c e : Nat) (a : ArrayCmd), Table.get (core s c).active.array e = some a →
    arrayFree s c (core s c).active = true → arrayEligible s c (core s c).active a = true →
    (∀ p ∈ (core s c).active.array, arrayEligible s c (core s c).active p.2 = true → a.order ≤ p.2.order) →
    (core s c).active.reissue = [] → (core s c).active.copies = [] →
    ∃ t y, exec (.arrayStart c e) s = .next t ∧ Table.get (core t c).active.array e = some y ∧ y.started = true ∧ y.since = s.clock ∧
      (core t c).active.running = some e ∧ t.mem = s.mem) ∧
  (∀ (s : State) (c e : Nat) (a : ArrayCmd) (tm : Team), (core s c).active.oldest = some (e, a) → teamAt s ⟨c, a.slot⟩ = some tm →
    (occupancy tm a + 16 ≤ (s.clock - a.since).toNat →
      exec (.arrayResult c) s = .next (modBank (touchArray (modTeam s ⟨c, a.slot⟩ fun x => arrayResult x a) c a) c fun b => b.endArray e a)) ∧
    ((s.clock - a.since).toNat < occupancy tm a + 16 → exec (.arrayResult c) s = .next s)) ∧
  (∀ (s : State) (c n : Nat) (e : EmptyCmd), ((core s c).active.tempties.find? fun x => x.order == n) = some e →
    emptyEligible s c (core s c).active e = true →
    let u := modBank s c fun b => { b with tempties := b.tempties.filter fun x => x.order != n }
    (objSlot e.object = true → exec (.temptyEffect c n) s = .next (modBank u c fun b => b.modSlot (objIndex e.object) fun _ =>
      ⟨false, false, [], 0, 0, none⟩)) ∧
    (objSlot e.object = false → exec (.temptyEffect c n) s = .next (modTeam u ⟨c, e.slot⟩ fun x => x.modTile (objIndex e.object) fun _ =>
      ⟨0, 0, 0, 0, []⟩))) ∧
  (∀ (s : State) (n : Nat) (p : Pledge), s.pledges[n]? = some p →
    exec (.barrierContribution n) s = .next (contributeTo { s with pledges := s.pledges.eraseIdx n } p.launch p.gang p.gteam p.bar
      p.arrivals p.bytes p.ts)) ∧
  (∀ (s : State) (t : TeamId) (tm : Team), teamAt s t = some tm → teamMayEnd s t tm = true →
    exec (.teamEnd t) s = .next (endTeam s t tm))

/-- LQTAIL accepts a tail that leaves no more than the free slots or sets ERR; RECORD_CURRENT gives a queue's next record the next %launch
value and begins or refuses it; PLACE_GANG places the first candidate that fits, whole; PREEMPT, PRELOAD and BANK_SWAP bring a gang in
over lower ones where its cluster is in service, and SPILL and EXTRACT save those that leave, or end those that were killed;
PRIORITY_AGING and LOADER_WAIT_EXPIRY mark what has waited 1 ms or 10 ms; LAUNCH_COMPLETE completes a launch whose gangs and accesses are
over; HANDLER_CREATE takes the oldest message, refusing it with the reason of R413 or creating its team. What an event reads or writes in
main memory is taken to answer. The order of placing and what counts as passing are log 52, the first candidate of PREEMPT log 53, the
start of the loader's wait log 58 and the order of a handler's checks log 79, the model's choices. (R218, R219, R307, R308, R310, R313,
R314, R316, R318, R319, R325, R412) -/
def Obligations.DistributorEvents : Prop :=
  (∀ (s : State) (fn q : Nat) (x : Word), s.service.stage = 5 → s.saltin.scrubbing = none → q < 256 → queueHold s q = none →
    (fn = 0 ∨ functionWorld s fn = (queueView s q).world) →
    ((queueView s q).valid = true → (queueView s q).src = false →
      (x - (queueView s q).tail).toNat + (queueView s q).used ≤ (queueView s q).slots →
      exec (.lqtail fn q x) s = .next (putTail (stampRecords s q ((List.range (x - (queueView s q).tail).toNat).map fun k =>
        ((queueView s q).tail.toNat + k) % 2 ^ 32) s.hl) q x)) ∧
    (((queueView s q).valid = false ∨ (queueView s q).src = true ∨
        (queueView s q).slots < (x - (queueView s q).tail).toNat + (queueView s q).used) →
      exec (.lqtail fn q x) s = .next (setQueueErr s q))) ∧
  (∀ (s : State) (q n : Nat) (ns : List Nat), queueHold s q = none → (queueView s q).valid = true → (∀ l ∈ s.launches, l.queue = some q → l.current = false) →
    waitingRecords s q = n :: ns →
    let id := nextLaunch s
    let ws := queueRecord s q n
    slotHold s q n false = none → recordWaits s id.toNat (queueView s q).world ws = false →
    ∃ u, u.launchCount = id + 1 ∧ u.launches = s.launches ∧
      (∀ r, checkRecord u id.toNat (queueView s q).world ws false = .error r →
        exec (.recordCurrent q) s = .next (refuseRecord u q n id.toNat r ws)) ∧
      (∀ ds code, checkRecord u id.toNat (queueView s q).world ws false = .ok (ds, code) → ∃ t l,
        exec (.recordCurrent q) s = .next t ∧ t.launches.map Launch.id = s.launches.map Launch.id ++ [id.toNat] ∧ l ∈ t.launches ∧ l.id = id.toNat ∧
          l.queue = some q ∧ l.number = n ∧ l.words = ws ∧ l.decls = ds ∧ l.code = code ∧ l.placed = 0 ∧ l.done = false ∧
          l.world = (queueView u q).world)) ∧
  (∀ (s : State),
    (∀ p c ts, firstPlaced s (candidates s) = some (p, c, ts) → exec .placeGang s = .next (countPasses s (placeAt s p c ts) c.placed)) ∧
    (firstPlaced s (candidates s) = none → exec .placeGang s = .next s) ∧
    (∀ p c cs, firstDisplacing s (candidates s) = some (p, c, cs) → ∃ g,
      exec .preempt s = .next (countPasses s (enrol s p c (cs.map fun c => ⟨c, 0⟩) .preloaded).1 c.placed) ∧
      (enrol s p c (cs.map fun c => ⟨c, 0⟩) .preloaded).2 = g ∧ g.state = .preloaded)) ∧
  (∀ (s : State) (c : Nat) (g : Gang) (n : Nat), preloading s c = some (g, n) → preloadBarred s c g = false →
    ((core s c).shadow = none → (core s c).outgoing = none → memberLoaded s g n = false →
      exec (.preload c) s = .next (preloadMember s c g n)) ∧
    (∀ b l, (core s c).shadow = some b → (core s c).outgoing = none → launchOf s g.launch = some l →
      (∀ k ∈ g.live (widthOf s g.launch), memberLoaded s g k = true) → exec (.bankSwap c) s = .next (swapBank s c g l b))) ∧
  (∀ (s : State) (c slot : Nat) (b : Bank) (tm : Team), (core s c).outgoing = some b →
    (b.teams.find? fun p => leaving s p.2 != .stays) = some (slot, tm) →
    (∀ block, leaving s tm = .saved block → exec (.spill c) s = .next (spillTeam s c slot b tm block)) ∧
    (leaving s tm = .ends → exec (.spill c) s = .next (endOutgoing s c slot b tm))) ∧
  (∀ (s : State) (launch gang : Nat) (g : Gang), gangOf s launch gang = some g → (g.state = .stopping ∨ g.state = .outgoing) →
    exec (.extract launch gang) s = .next (settleGang ((g.live (widthOf s launch)).foldl (fun u n => extractMember u launch gang n) s) launch gang)) ∧
  (∀ (s : State) (launch : Nat) (l : Launch) (t0 : Nat), launchOf s launch = some l → l.current = true →
    (l.eligibleSince = some t0 → eligible s l = true → 1050000 ≤ l.eligibleFor + (s.wall - t0) →
      ∃ t, exec (.priorityAging launch) s = .next t ∧ launchOf t launch = some { l with aged := true } ∧ t.cores = s.cores) ∧
    (l.loaderWait = some t0 → l.placed = 0 → 10500000 ≤ s.wall - t0 →
      ∃ t, exec (.loaderWaitExpiry launch) s = .next t ∧ launchOf t launch = some { l with loaderOver := true } ∧ t.cores = s.cores)) ∧
  (∀ (s : State) (launch : Nat) (l : Launch), launchOf s launch = some l → l.done = false →
    (gangsOver s l = true → accessesOver s l = true → completeHeld s l = false →
      exec (.launchComplete launch) s = .next (completeLaunch s l)) ∧
    ((gangsOver s l = false ∨ accessesOver s l = false ∨ completeHeld s l = true) → exec (.launchComplete launch) s = .next s)) ∧
  (∀ (s : State) (p : Packet) (ps : List Packet) (h marks : Nat), s.messages = p :: ps → p.kind = .message h marks →
    (∀ r, handlerLaunch s p h = .error (.refused r) → exec .handlerCreate s = .next (refusePacket (popMessage s) p (.noHandler r h))) ∧
    (handlerLaunch s p h = .error .waits → exec .handlerCreate s = .next s) ∧
    (∀ l frame t, handlerLaunch s p h = .ok l → worldRuns s l.world = true → eligible s l = true → passedOver s l.prio l.id false = false →
      loaderWaits s l = false → frameFor s l = some frame → bestFit { s with loaderHandler := none } l true l.decls = some [t] →
      exec .handlerCreate s = .next (countPasses s (createHandler s p l t frame) l.id)))

/-- TRAP_RECORD_WRITE, FAULT_RECORD_WRITE and RECORD_RETRY write a queue's oldest waiting record into its next slot when that is free, and
move to the next slot; an acknowledgement writes the slot's first doubleword and acts on what it holds; the writes of descriptors,
counters, partitions, debug slots, registers and the label-control port take effect for those who may make them on a READY package; RCMD
resumes or retires the TRAPPED slice of its trap record; QUOTA_UPDATE, 1 ms after the last, gives out 16 ways in all; a host access is
performed, a read returning its bytes, or leaves its fault record, a read returning zeros marked poisoned. The model's choices here: what
an acknowledgement releases (log 61), MAX and FIXED of a partition (log 66), commands that end in the step that writes them (log 68), RCMD
behind a pending REGWRITE (log 125), and a host access that its place does not answer changing nothing (log 117). (R307, R311, R323, R324,
R335, R346, R347, R348, R354, R438, R455) -/
def Obligations.RecordAndHostEvents : Prop :=
  (∀ (s : State) (q : FaultQ) (x : Waiting) (d : Dest), (s.waiting.find? fun y => y.q == q) = some x → (ringOf s q).len ≠ 0 →
    ringSlot s q (ringPos s q) = .ok d → slotWord s d = some 0 → postedAt s q d = none →
    ∃ t, t = placeRecord s q x d ∧ exec (.faultRecordWrite q) s = .next t ∧ exec (.recordRetry q) s = .next t ∧
      (∀ launch, q = .trap launch → exec (.trapRecordWrite launch) s = .next t) ∧
      (∃ y ∈ t.posted, y.q = q ∧ y.slot = ringPos s q ∧ y.dest = d ∧ y.master = x.master) ∧ t.waiting.length + 1 = s.waiting.length) ∧
  (∀ (s : State) (fn : Nat) (q : FaultQ) (slot : Nat) (d : Dest), mayAck s fn q = true → slot < (ringOf s q).len →
    ringSlot s q slot = .ok d →
    let u (b : DWord) : State := writeDest s d (bytesOfDWords [b])
    (postedAt s q d = none → exec (.faultAckResume fn q slot) s = .next (writeRecord (u 0) q) ∧
      exec (.faultAckRefuse fn q slot) s = .next (writeRecord (u 1) q)) ∧
    (∀ x, postedAt s q d = some x →
      (x.answer (u 0) = some false →
        exec (.faultAckResume fn q slot) s = .next (writeRecord (acknowledge (u 0) x false) x.q)) ∧
      (x.answer (u 1) = some true → exec (.faultAckRefuse fn q slot) s =
        .next (writeRecord (acknowledge (writeDest (u 1) x.dest (List.replicate 8 0)) x true) x.q)) ∧
      (x.answer (u 1) = none → exec (.faultAckRefuse fn q slot) s = .next (u 1)))) ∧
  (∀ (s : State) (fn : Nat), s.service.stage = 5 → s.saltin.scrubbing = none →
    (∀ (k : Nat) (v : DWord), fn = 0 → exec (.faultqDescriptorWrite fn .owner k v) s =
      .next (writeRecord { s with regs := { s.regs with ownerQ := s.regs.ownerQ.put k v } } .owner)) ∧
    (∀ (k : Nat) (x : Word), k < 4096 → counterHold s k = none → (fn = 0 ∨ functionWorld s fn = counterWorld s k) →
      ∃ t, exec (.counterWrite fn k x) s = .next t ∧ counterValue t k = x ∧ (∀ j, j ≠ k → counterValue t j = counterValue s j) ∧
        t.mem = s.mem ∧ t.cores = s.cores) ∧
    (∀ (world slot : Nat) (w : SliceName) (v : Option DWord), (fn = 0 ∨ functionWorld s fn = world) → slot < 65536 →
      let u := setRarg s world v
      let rarg := v.getD (runControl s world).rarg
      let cmd (code : Nat) : DWord := BitVec.ofNat 64 (code * 2 ^ 60 + slot)
      rarg.toNat % 4 = 0 →
      (∀ p ∈ s.debugSlots, ∀ x, p.2.regwrite = some x → x.1 ≠ w) →
      (commandSlice u world (cmd 1) rarg = some w →
        exec (.rcmdResume fn world (cmd 1) v) s = .next (resumeSlice (setRunControl u world (cmd 1) false) w (lowWord rarg))) ∧
      (commandSlice u world (cmd 2) rarg = some w →
        exec (.rcmdRetire fn world (cmd 2) v) s = .next (retireSlice (setRunControl u world (cmd 2) false) w))) ∧
    (∀ v : DWord, fn = 0 → s.regs.lcpBusy = false → v.toNat % 2 ^ 16 ≠ 0 →
      ∃ t, exec (.lcpcmd fn v) s = .next t ∧ t.regs.lcpBusy = true ∧ t.regs.lcpErr = false ∧ t.regs.lcpMark = s.nextAccess ∧
        (v.toNat / 2 ^ 62 = 2 → ∀ y ∈ t.pCopies, y.label.toNat ≠ v.toNat % 2 ^ 16)) ∧
    (∀ (part : Nat) (v : DWord), fn = 0 → part < 64 → field v 4 0 ≤ field v 12 8 → field v 12 8 ≤ 16 →
      minSum s - (partition s part).min + field v 4 0 ≤ 16 →
      ∃ t, exec (.partitionWrite fn part v) s = .next t ∧ (partition t part).min = field v 4 0 ∧ (partition t part).max = field v 12 8 ∧
        (partition t part).fixed = v.getLsbD 24 ∧ ∀ j, j ≠ part → partition t j = partition s j) ∧
    (∀ (slot off : Nat) (v : DWord), slot < 64 → off % 8 = 0 →
      (fn = 0 ∨ functionWorld s fn = field (listGetD (debugSlot s slot).d 0 0) 47 32) →
      let t : State := { s with debugSlots := Table.put s.debugSlots slot ((debugSlot s slot).write s.clock (off / 8) v) }
      exec (.debugSlotWrite fn slot off v) s = .next (if off = 0 ∨ off = 16 ∨ off = 24 then setRingPos t (.debug slot) 0 else t)) ∧
    (∀ (off : Nat) (v : DWord), off < 0x800000 → exec (.registerWrite fn off v) s = .next (writeRegister s fn off v)) ∧
    (∀ v : DWord, exec (.registerWrite 0 0 v) s = .next { s with regs := { s.regs with qtBase := v &&& 0x0000FFFFFFFFFFE0 } })) ∧
  (∀ s : State, s.regs.lcpBusy = true → s.inflight = [] → s.messages = [] → s.combiner = [] →
    (∀ p ∈ activeTeams s, p.2.addr.scatter = []) → (∀ p ∈ s.cores, ∀ x ∈ p.2.active.sluice, x.2.walked = []) →
    ∃ t, exec .lcpInvalidationComplete s = .next t ∧ t.regs = { s.regs with lcpBusy := false } ∧ t.mem = s.mem ∧ t.lines = s.lines) ∧
  (∀ s : State, s.wall < s.quotaAt + 1050000 → ∀ anew, exec (.quotaUpdate anew) s = .next s) ∧
  (∀ (s : State) (anew : Bool), s.quotaAt + 1050000 ≤ s.wall → ∃ t, exec (.quotaUpdate anew) s = .next t ∧ t.mem = s.mem ∧ t.cacheSets = s.cacheSets ∧
    (((List.range 64).map fun p => (partition s p).min).sum ≤ 16 →
      ((List.range 64).map fun p => (partition t p).quota).sum = 16 ∧ ∀ p, p < 64 → (partition s p).min ≤ (partition t p).quota)) ∧
  (∀ (s : State) (fn : Nat) (write : Bool) (off size : Nat) (data : List Byte),
    let sent := (data ++ List.replicate size 0).take size
    (∀ f, hostPath s fn write off size = .error f → f.hold.isSome = true → exec (.hostAccess fn write off size data) s = .next s) ∧
    (∀ f, hostPath s fn write off size = .error f → f.hold = none → exec (.hostAccess fn write off size data) s =
      .next (if write then hostFault s fn off size f
        else hostReturn (hostFault s fn off size f) fn off (List.replicate size 0) true)) ∧
    (∀ p pa, hostPath s fn write off size = .ok p → p.dest = .host pa → ∃ t, exec (.hostAccess fn write off size data) s = .next t ∧
      t.mem = s.mem ∧ t.hostMem = (if write then Memory.writeBytes s.hostMem pa sent else s.hostMem) ∧
      (write = false → t.hostReads = s.hostReads ++ [⟨fn, off, Memory.readBytes s.hostMem pa size, false⟩])) ∧
    (∀ p pa key cache rem, hostPath s fn write off size = .ok p → p.dest = .main pa key cache rem →
      let u := keepCopies s 0 p.copies
      ((linesOf pa size).findSome? fun l => lineHold u l write) = none → ∃ t, exec (.hostAccess fn write off size data) s = .next t ∧
        t.hostMem = s.hostMem ∧ t.mem = (if write then (writeKeyed s key pa sent).mem else s.mem) ∧
        (write = false → t.hostReads = s.hostReads ++ [⟨fn, off, readKeyed s key pa size, false⟩])))

/-- PACKET_ARRIVAL of a packet for another package does nothing; of a request whose incarnations do not match it answers PEER_RESET; of a
request of this package's it holds it, releases the packets in sequence and takes those that may be taken; taking a store that passes F
writes it and acknowledges it, and a load is answered with its bytes, and each returns with it the grant of the unit it took.
ACKNOWLEDGEMENT ends a store or message (here, with nobody waiting and no store held), REFUSAL of a fault that a target can give acts by
kind, GRANT raises an entry; SCALE_OUT_RESEND, once RESENDNS has passed, sends an unacknowledged packet again, alone and under its number,
while resends are left, and then ends the access; HOLD_EXPIRY, once HOLDMS has passed, ends a held access with LABEL_MISS;
FLIT_AUTH_FAILURE counts; LINK_KEY_EXHAUSTED at the last counter value switches to the next key, or stops the link and posts its record.
The model's choices here: the grant leaves as a packet behind the answer (log 82), a window's end is LABEL_MISS or PEER_RESET (log 83),
the links and their counters (log 22). (R381, R385, R386, R387, R388, R389, R390, R391, R396, R397, R406) -/
def Obligations.FabricEvents : Prop :=
  (∀ (s : State) (p : Packet),
    (p.target ≠ s.regs.number → exec (.packetArrival p) s = .next s) ∧
    (p.target = s.regs.number → (p.kind = .load ∨ p.kind = .store ∨ p.kind = .copyRead ∨ p.kind = .copyWrite) → p ∉ s.standing →
      (incarnate s p = false → exec (.packetArrival p) s = .next (refusePacket s p (.fault 0x27 0 3 ⟨0, 0, 3, 0, 0, 0⟩))) ∧
      (incarnate s p = true → exec (.packetArrival p) s = .next
        (let u := releaseHeld (s.heldPackets.length + 1) { s with heldPackets := s.heldPackets ++ [p] }
         settleStanding (u.standing.length + 1) u)))) ∧
  (∀ (s : State) (p : Packet) (path : Path) (pa key : Nat) (cache rem : Bool), isBlocked s p = false → walkF s p = .ok path →
    path.dest = .main pa key cache rem → p.part = 0 → p.size ≤ 256 →
    ((linesOf pa p.size).findSome? fun l => lineHold (keepCopies s 0 path.copies) l false) = none →
    (p.kind = .store → ∃ t k g, takePacket s p = (t, true) ∧
      t.mem = (writeKeyed s key pa ((p.payload ++ List.replicate p.size 0).take p.size)).mem ∧ t.outbox = s.outbox ++ [k, g] ∧
      k.kind = .ack ∧ k.target = p.source ∧ k.access = p.access ∧
      g.kind = .grant ∧ g.target = p.source ∧ g.payCore = p.payCore ∧ g.payEntry = p.payEntry) ∧
    (p.kind = .load → ∃ t k g, takePacket s p = (t, true) ∧ t.mem = s.mem ∧ t.outbox = s.outbox ++ [k, g] ∧ k.kind = .reply ∧
      k.target = p.source ∧ k.access = p.access ∧ k.payload = readKeyed s key pa p.size ∧
      g.kind = .grant ∧ g.target = p.source ∧ g.payCore = p.payCore ∧ g.payEntry = p.payEntry)) ∧
  (∀ (s : State) (n : Nat) (a : Access), accessOf s n = some a → a.sent = true →
    ((a.kind = .store ∨ ∃ h m, a.kind = .message h m) → (∃ tg lab h b, a.place = .fabric tg lab h b) →
      (∀ p ∈ s.cores, ∀ e ∈ p.2.allow, e.2.waiters = []) → s.late = [] →
      (∀ q tm, findTeam s a.who.launch a.who.gang a.who.gteam = some (q, tm) → ∀ x ∈ tm.members, x.2.held = []) → ∀ part x, a.send part = some x →
      ∃ t, exec (.acknowledgement ⟨n, part⟩) s = .next t ∧ accessOf t n = none ∧ t.regs.fabOut = s.regs.fabOut - 1 ∧
        (teamSaved s a.who = false → (core t a.core).outstanding = (core s a.core).outstanding - 1) ∧ t.mem = s.mem ∧
        t.hostMem = s.hostMem) ∧
    (∀ cause reason level seen, exec (.refusal n (.fault cause reason level seen)) s =
      .next (if faultSeen a cause reason level then refuseAccess s a (a.faultAtF cause reason level seen) else s)) ∧
    (a.kind = .store → ∀ tm sl, namedSlice s a.who = some (tm, sl) → exec (.refusal n .blocked) s =
      .next (retryHeld (modNamedSlice s a.who (Slice.hold a.heldStore)) a.who)) ∧
    (exec (.refusal n .resend) s = .next { s with inflight := s.inflight.map fun x => if x.n = n then { x with asked := true } else x }) ∧
    (∀ ds part x, windowOf s a = some ds → a.send part = some x → x.acked = false →
      let ns := field (listGetD ds 2 0) 31 0
      let tries := field (listGetD ds 2 0) 63 48
      (20 * (s.wall - x.sentAt) < 21 * ns → exec (.scaleOutResend ⟨n, part⟩) s = .next s) ∧
      (21 * ns ≤ 20 * (s.wall - x.sentAt) → x.resends < tries → ∃ t a' y pk, exec (.scaleOutResend ⟨n, part⟩) s = .next t ∧
        accessOf t n = some a' ∧ a'.send part = some y ∧ y.resends = x.resends + 1 ∧ y.sentAt = s.wall ∧ y.seq = x.seq ∧
        t.outbox = s.outbox ++ [pk] ∧ pk.part = part ∧ pk.seq = x.seq ∧ pk.access = n ∧ t.mem = s.mem) ∧
      (21 * ns ≤ 20 * (s.wall - x.sentAt) → tries ≤ x.resends → a.asked = true →
        exec (.scaleOutResend ⟨n, part⟩) s = .next (refuseAccess s a (a.fault 0x20 13 3))) ∧
      (21 * ns ≤ 20 * (s.wall - x.sentAt) → tries ≤ x.resends → a.asked = false →
        exec (.scaleOutResend ⟨n, part⟩) s = .next (peerReset s a)) ∧
      ((listGetD ds 0 0).getLsbD 62 = true → (listGetD ds 0 0).getLsbD 61 = true →
        21 * (1000000 * field (listGetD ds 2 0) 47 32) ≤ 20 * (s.wall - x.first) →
        exec (.holdExpiry n) s = .next (refuseAccess s a (a.fault 0x20 13 3))))) ∧
  (∀ (s : State) (c entry n : Nat), (allowAt (core s c) entry).waiters = [] → accessOf s n = none → (∀ m ∈ s.markers, m.access ≠ n) →
    (allowAt (core s c) entry).alw < s.regs.icred → (allowAt (core s c) entry).cap = s.regs.icred → 1 < (allowAt (core s c) entry).sent →
    ∃ t, exec (.grant c entry n) s = .next t ∧ (allowAt (core t c) entry).alw = (allowAt (core s c) entry).alw + 1 ∧
      (allowAt (core t c) entry).sent = (allowAt (core s c) entry).sent - 1) ∧
  (∀ (s : State) (plane : Nat) (recv : Bool), plane < 16 →
    let k := plane + (if recv then 16 else 0)
    ((linkAt s (plane + 16)).authFail ≠ 0xFFFFFFFF → ∃ t, exec (.flitAuthFailure plane false) s = .next t ∧
      linkAt t (plane + 16) = { linkAt s (plane + 16) with authFail := (linkAt s (plane + 16)).authFail + 1 } ∧ t.saltin = s.saltin) ∧
    ((linkAt s k).exh = false → (recv = true ∨ 2 ^ 64 - 2 ≤ (linkAt s k).ctr.toNat) → (linkAt s k).nextKey = true → ∃ t, exec (.linkKeyExhausted plane recv) s = .next t ∧
      linkAt t k = { linkAt s k with nextKey := false, epoch := (linkAt s k).epoch + 1, ctr := 0, exh := false } ∧ t.waiting = s.waiting) ∧
    ((linkAt s k).exh = false → (recv = true ∨ 2 ^ 64 - 2 ≤ (linkAt s k).ctr.toNat) → (linkAt s k).nextKey = false → ∃ t w, exec (.linkKeyExhausted plane recv) s = .next t ∧
      linkAt t k = { linkAt s k with exh := true, ctr := 0xFFFFFFFFFFFFFFFE } ∧ t.waiting = s.waiting ++ [w] ∧ w.q = .owner ∧
      (listGetD w.words 0 0).toNat / 2 ^ 52 = 0x296 ∧ (listGetD w.words 3 0).toNat = k))

/-- For the function whose command is first in line, while no scrub runs and Saltin does not restart: KEYLOAD puts an unwrapped pair into the
lowest FREE slot and returns its number, KEYFREE frees a slot that no world uses, SVNADVANCE raises MINSVN within its bounds, FMENROL
enrols the hash of a key, READBACK answers more than 4,096 bytes with BAD_REQUEST, SCRUB wipes the package and SCRUB_COMPLETE ends it with
DONE; another function is DENIED. A verified fabric-manager request whose Zero bytes are 0 carries out PHASEMAP, INCARNATION, INCTAB,
ICRED, LINKKEY or LINKSTAT and takes its SEQ; one that does not verify is DENIED. The model's choices: SCRUB acts at once, its record
comes with its completion (log 85); the order of mailbox and checks (log 84); which Zero bytes are looked at (log 109). (R394, R402, R428,
R429, R431, R434, R435, R437, R445) -/
def Obligations.SaltinCommands : Prop :=
  (∀ (s : State) (fn : Nat),
    let ended (t : State) (st : Nat) (result : Nat) : Prop :=
      (mailbox t fn).sstat.toNat = st * 2 ^ 48 + result ∧ t.saltin.pending = s.saltin.pending.drop 1
    let runs (code : Nat) : Prop := s.saltin.pending.head? = some fn ∧ field (mailbox s fn).scmd 63 56 = code ∧
      s.saltin.scrubbing = none ∧ s.service.busy ≠ some firmwareUnit
    (∀ i code, (i = .keyload fn ∧ code = 1 ∨ i = .keyfree fn ∧ code = 2 ∨ i = .scrub fn ∧ code = 3 ∨ i = .svnadvance fn ∧ code = 5 ∨
        i = .fmenrol fn ∧ code = 6) → runs code → fn ≠ 0 → ∃ t, exec i s = .next t ∧ ended t 1 0 ∧ t.keys = s.keys ∧ t.regs = s.regs) ∧
    (runs 1 → fn = 0 → ∀ pair slot, unwrapBlob (mailBytes s 0 0 528) 1 64 = some pair → Table.freeFrom s.keys 1023 1 = some slot →
      ∃ t, exec (.keyload fn) s = .next t ∧ ended t 0 slot ∧ t.keys = Table.put s.keys slot (loadedKey pair)) ∧
    (runs 2 → fn = 0 → 1 ≤ mailNat s 0 0 2 → mailNat s 0 0 2 < 1024 → (∀ p ∈ s.regs.wkey, p.2.toNat % 1024 ≠ mailNat s 0 0 2) →
      ∃ t, exec (.keyfree fn) s = .next t ∧ ended t 0 0 ∧ Table.get t.keys (mailNat s 0 0 2) = none) ∧
    (runs 3 → fn = 0 → ∃ t x, exec (.scrub fn) s = .next t ∧ t.saltin.scrubbing = some x ∧ x.fn = fn ∧ t.launches = [] ∧ t.gangs = [] ∧
      t.inflight = [] ∧ t.counters = [] ∧ t.keys.map Prod.fst = [0] ∧ t.saltin.fmKey = none ∧ t.saltin.numbered = false ∧
      (∀ d ∈ t.dies, d.weights = []) ∧ ((Table.getD (mailbox s fn).buffer 32 0).getLsbD 0 = true → t.mem = [])) ∧
    (runs 4 → 4096 < mailNat s fn 8 4 → ∃ t, exec (.readback fn) s = .next t ∧ ended t 3 0) ∧
    (runs 4 → fn = 0 → ∀ cs, mailNat s fn 8 4 ≤ 4096 →
      allSome ((List.range (mailNat s fn 8 4)).map fun i => readCell s (mailNat s fn 0 8 + i)) = some cs →
      ∃ t, exec (.readback fn) s = .next t ∧ ended t 0 0 ∧
        ∀ k c x, k < 4096 → cs[k]? = some c → c.value = some x → Table.getD (mailbox t fn).buffer k 0 = x) ∧
    (runs 5 → fn = 0 → s.saltin.minSvn ≤ mailNat s 0 0 2 → mailNat s 0 0 2 ≤ 64 → mailNat s 0 0 2 ≤ s.saltin.svn →
      ∃ t, exec (.svnadvance fn) s = .next t ∧ ended t 0 0 ∧ t.saltin.minSvn = mailNat s 0 0 2) ∧
    (runs 6 → fn = 0 → ∃ t, exec (.fmenrol fn) s = .next t ∧ ended t 0 0 ∧ t.saltin.seq = 0 ∧
      t.saltin.fmKey = some (Config.sha512 (mailBytes s 0 0 1024)))) ∧
  (∀ (s : State) (x : Scrub), s.saltin.scrubbing = some x → ∃ t, exec .scrubComplete s = .next t ∧ t.saltin.scrubbing = none ∧
    (mailbox t x.fn).sstat = 0 ∧ (s.saltin.scrubs < 2 ^ 64 - 1 → t.saltin.scrubs = s.saltin.scrubs + 1)) ∧
  (∀ (i : Instr) (op : Nat) (s : State) (f : State → Nat → FmResult),
    (i = .phasemap 0 ∧ op = 1 ∧ f = setPhase ∨ i = .incarnation 0 ∧ op = 2 ∧ f = setIncarnation ∨ i = .inctab 0 ∧ op = 3 ∧ f = setPeers ∨
      i = .icred 0 ∧ op = 4 ∧ f = setIcred ∨ i = .linkkey 0 ∧ op = 5 ∧ f = loadLinkKey ∨ i = .linkstat 0 ∧ op = 6 ∧ f = linkStatus) →
    s.saltin.pending.head? = some 0 → field (mailbox s 0).scmd 63 56 = 7 → s.saltin.scrubbing = none → s.service.busy ≠ some firmwareUnit →
    mailBytes s 0 0 4 = [0x4F, 0x5A, 0x39, 0x46] → mailNat s 0 4 2 = op →
    (requestOk s 0 op = false → ∃ t, exec i s = .next t ∧ (mailbox t 0).sstat.toNat = 2 ^ 48 ∧ t.regs = s.regs ∧ t.saltin.seq = s.saltin.seq) ∧
    (requestOk s 0 op = true → zerosOk s 0 op = false →
      ∃ t, exec i s = .next t ∧ (mailbox t 0).sstat.toNat = 3 * 2 ^ 48 ∧ t.regs = s.regs ∧ t.saltin.seq = s.saltin.seq) ∧
    (∀ u, requestOk s 0 op = true → zerosOk s 0 op = true → f s 0 = .did u → ∃ t, exec i s = .next t ∧ t.saltin.seq = mailNat s 0 8 8 ∧
      (mailbox t 0).sstat = 0 ∧ t.regs = u.regs ∧ t.links = u.links ∧ t.cores = u.cores) ∧
    (requestOk s 0 op = true → zerosOk s 0 op = true → f s 0 = .bad → ∃ t, exec i s = .next t ∧ (mailbox t 0).sstat.toNat = 3 * 2 ^ 48 ∧ t.regs = s.regs)) ∧
  (∀ (s : State),
    (mailNat s 0 24 16 < 2 ^ 72 → mailNat s 0 40 2 = 0xFFFF → ∃ u, setPhase s 0 = .did u ∧
      u.regs.phaseMap.toNat = mailNat s 0 24 16 ||| 2 ^ (s.regs.number / 64) % 2 ^ 128) ∧
    (mailNat s 0 26 2 < 4608 → ∃ u, setIncarnation s 0 = .did u ∧ u.regs.incarnation.toNat = mailNat s 0 24 1 ∧ u.regs.number = mailNat s 0 26 2 ∧
      u.saltin.numbered = true ∧
      u.regs.phaseMap = s.regs.phaseMap ||| BitVec.ofNat 128 (2 ^ (mailNat s 0 26 2 / 64)) ∧ u.sent.all (fun x => 8192 ≤ x.1 / 1024) = true) ∧
    (mailNat s 0 24 1 ≠ 0 → ∃ u, setIcred s 0 = .did u ∧ u.regs.icred = mailNat s 0 24 1 ∧ u.mem = s.mem) ∧
    (mailNat s 0 24 1 = 0 → setIcred s 0 = .bad) ∧ (4608 ≤ mailNat s 0 26 2 → setIncarnation s 0 = .bad) ∧
    (16 ≤ mailNat s 0 24 1 → loadLinkKey s 0 = .bad) ∧ (mailNat s 0 26 2 = 0 → setPeers s 0 = .bad))

/-- For a command that a READY package takes, well formed, with its slot free and attached, naming a slice of the attached launch in an active
bank, no REGWRITE of another slot waiting: STEPON and STEPOFF write the step bit; of a TRAPPED slice of a team that is not frozen,
DCMD_RESUME resumes it at an aligned PC, DCMD_RETIRE retires it, FLAGWRITE writes its flags and REGWRITE a register with no write pending;
STEPTEAM sets every step bit of the team and resumes. A command takes its argument from DARG as it stands, after the host's write of it
where it makes one. One whose reserved bits are not 0 sets ERR alone, and a word with the code of another command is no write of this one.
SAMPLE with no slice of the launch on the core, before its interval has passed, or with SINT 15, records nothing. The model's choices:
commands finish in the step that writes them, BUSY 0 (log 68); a command waits for a REGWRITE of another slot (log 125); samples and their
place in a turn (log 87, log 97). (R104, R106, R438, R441, R442, R443) -/
def Obligations.DebuggerEvents : Prop :=
  (∀ (s : State) (fn slot : Nat) (dcmd : DWord) (v : Option DWord) (launch : Nat) (id : SliceId) (tm : Team) (sl : Slice),
    s.service.stage = 5 → s.saltin.scrubbing = none → slot < 64 →
    (fn = 0 ∨ functionWorld s fn = field (listGetD (debugSlot s slot).d 0 0) 47 32) →
    (listGetD (debugSlot s slot).d 7 0).getLsbD 58 = false → (debugSlot s slot).launch = some launch →
    (∀ p ∈ s.debugSlots, p.1 ≠ slot → p.2.regwrite = none) →
    (dcmdOk dcmd = true → commandId s.regs.number dcmd = some id → sliceAt s id = some (tm, sl) → tm.launch = launch →
      let darg := v.getD (listGetD (debugSlot s slot).d 8 0)
      let u := setDcmd (setDarg s slot v) slot dcmd false false
      let refused := setDcmd (setDarg s slot v) slot dcmd false true
      let code := field dcmd 63 60
      let trapped : Prop := sl.run = .trapped ∧ tm.frozen = false
      (code = 5 → exec (.stepon fn slot dcmd v) s = .next (modSlice u id fun x => { x with stepBit := true })) ∧
      (code = 6 → exec (.stepoff fn slot dcmd v) s = .next (modSlice u id fun x => { x with stepBit := false })) ∧
      (code = 1 → trapped → darg.toNat % 4 = 0 →
        exec (.dcmdResume fn slot dcmd v) s = .next (resumeSlice u (tm.name id.strand) (lowWord darg))) ∧
      (code = 4 → trapped → exec (.dcmdRetire fn slot dcmd v) s = .next (retireSlice u (tm.name id.strand))) ∧
      (code = 7 → trapped → darg.toNat / 2 ^ 5 % 2 ^ 27 = 0 → exec (.flagwrite fn slot dcmd v) s =
        .next (modSlice u id fun x => { x with fflags := BitVec.ofNat 32 (darg.toNat % 32) })) ∧
      (code = 3 → trapped → field dcmd 54 48 < sl.regs.length → dcmd.getLsbD 59 = false →
        regPending s (tm.name id.strand) (field dcmd 54 48) = false → exec (.regwrite fn slot dcmd v) s =
          .next (modSlice u id fun x => { x with regs := x.regs.set (field dcmd 54 48) (lowWord darg) })) ∧
      (code = 3 → trapped → field dcmd 54 48 < sl.regs.length → dcmd.getLsbD 59 = true → exec (.regwrite fn slot dcmd v) s =
          .next (forceWrite u slot id tm (field dcmd 54 48) (lowWord darg))) ∧
      (code ≠ 1 → exec (.dcmdResume fn slot dcmd v) s = .next s) ∧
      (¬ trapped → ∀ p ∈ [(1, Instr.dcmdResume fn slot dcmd v), (4, .dcmdRetire fn slot dcmd v), (7, .flagwrite fn slot dcmd v),
          (3, .regwrite fn slot dcmd v)], code = p.1 → exec p.2 s = .next refused)) ∧
    (dcmdOk dcmd = false → ∀ p ∈ [(1, Instr.dcmdResume fn slot dcmd v), (4, .dcmdRetire fn slot dcmd v), (5, .stepon fn slot dcmd v),
        (6, .stepoff fn slot dcmd v), (7, .flagwrite fn slot dcmd v), (3, .regwrite fn slot dcmd v)],
      field dcmd 63 60 = p.1 ∨ field dcmd 63 60 = 0 ∨ 7 < field dcmd 63 60 →
        exec p.2 s = .next (setDcmd (setDarg s slot v) slot dcmd false true)) ∧
    (∀ tm' x, let cmd := BitVec.ofNat 64 (2 * 2 ^ 60 + identityBits s.regs.number ⟨id.core, id.slot, none⟩)
      s.regs.number < 8192 → id.core < 384 → id.slot < 16 → teamAt s (teamIdOf id) = some tm' → tm'.launch = launch → tm'.addr = x →
      ∃ t y, exec (.stepteam fn slot cmd v) s = .next t ∧ (t = y ∨ ∃ b, t = modDebug y slot b) ∧
        y = stepTeam (setDcmd (setDarg s slot v) slot cmd false false) (teamIdOf id) tm')) ∧
  (∀ (s : State) (slot c launch : Nat), (debugSlot s slot).launch = some launch →
    ((debugSlot s slot).sint = 15 → exec (.sample slot c) s = .next s) ∧ (sampled s launch c = [] → exec (.sample slot c) s = .next s) ∧
    (∀ n id tm sl xs, (debugSlot s slot).sint ≠ 15 → sampled s launch c = (n, id, tm, sl) :: xs → Table.get (debugSlot s slot).lastSample c = none →
      ∃ t, exec (.sample slot c) s = .next t ∧ Table.get (debugSlot t slot).lastSample c = some (n, s.clock) ∧
        t = modDebug (emit s slot (sampleWords s id tm sl (sampleClass s tm sl)) 1) slot fun b =>
          { b with lastSample := Table.put b.lastSample c (n, s.clock) }) ∧
    (∀ x, Table.get (debugSlot s slot).lastSample c = some x → (s.clock - x.2).toNat < 2 ^ (6 + (debugSlot s slot).sint) →
      exec (.sample slot c) s = .next s))

/-- From stage 1 ROM runs a stored image that verifies or enters recovery with the reason; TRAIN isolates the units that failed, CLEAR wipes
and keys slot 0, LINK makes the package READY, or each sets FAIL and stops; RESET and POWER_LOSS begin again. RECOVER and GO ask for an
image, and RECOVERY_IMAGE_VERIFY fetches it from host memory, verifies it, stores it and runs it. DRAIN, TEST, REPAIR and RETURN report
their result, a drained unit with nothing left is ISOLATED, and FWUPDATE stores an image and is busy until the restart into it is over.
The clock halves, and is restored when it has cooled; an uncorrectable error poisons a dirty line and posts its record, stops a die or
marks a block; scan mode wipes; lifetime counts rise. The model's choices: RSTAT's steps and the DMA error's reason 5 (log 86), unit
numbers and BUSY (log 91), TRAIN's argument and power loss (log 94), reset keeping memory (log 85), and what the world decides of
temperature, training and a restart (log 126). (R304, R431, R432, R433, R436, R446, R448, R449, R450, R451, R452) -/
def Obligations.ServiceEvents : Prop :=
  (∀ (s : State), s.service.stage = 1 → s.saltin.inRecovery = false →
    (imageReason s.saltin s.saltin.stored = 0 → ∃ t, exec .rom s = .next t ∧ t.service.stage = 2 ∧ t.service.fail = false ∧
      t.saltin.svn = Config.imageSvn s.saltin.stored ∧ t.mem = s.mem) ∧
    (imageReason s.saltin s.saltin.stored ≠ 0 → ∃ t, exec .rom s = .next t ∧ t.service.stage = 1 ∧ t.service.fail = true ∧
      t.saltin.inRecovery = true ∧ t.saltin.rstat = rstatWord 1 (imageReason s.saltin s.saltin.stored) true)) ∧
  (∀ (s : State) (cl : BitVec 48) (links planes : BitVec 16), s.service.stage = 2 →
    s.service.fail = false → Config.stageFails 2 s.clock.toNat = false → ∃ t, exec (.train cl links planes) s = .next t ∧ t.service.stage = 3 ∧ t.service.bootClus = cl.setWidth 64 ∧
      t.service.drainLink = links ∧ t.service.drainPlane = planes ∧
      (∀ n, n < 48 → cl.getLsbD n = true → unitState t n = .isolated) ∧
      (∀ n, n < 16 → planes.getLsbD n = false → (linkAt t n).up = true ∧ (linkAt t (n + 16)).up = true)) ∧
  (∀ (s : State) (i : Instr) (stage : Nat),
    (stage = 2 ∧ (∃ cl links planes, i = .train cl links planes) ∨ stage = 3 ∧ i = .clear ∨ stage = 4 ∧ i = .link) →
    (s.service.stage ≠ stage ∨ s.service.fail = true → exec i s = .next s) ∧
    (s.service.stage = stage → s.service.fail = false → Config.stageFails stage s.clock.toNat = true →
      exec i s = .next { s with service := { s.service with fail := true } })) ∧
  (∀ (s : State), s.service.fail = false → Config.stageFails s.service.stage s.clock.toNat = false →
    (s.service.stage = 3 → ∃ t, exec .clear s = .next t ∧ t.service.stage = 4 ∧ t.keys.map Prod.fst = [0] ∧ t.launches = [] ∧
      t.counters = [] ∧ (∀ d ∈ t.dies, d.weights = [])) ∧
    (s.service.stage = 4 → exec .link s = .next { s with service := { s.service with stage := 5 } })) ∧
  (∀ (s : State), (∃ t, exec .reset s = .next t ∧ t.service = State.reset.service ∧ t.regs = State.reset.regs ∧ t.cores = State.reset.cores ∧
      t.clock = 0 ∧ t.keys = [] ∧ t.mem = s.mem ∧ t.saltin.stored = s.saltin.stored ∧ t.saltin.powerCycles = s.saltin.powerCycles) ∧
    (∃ t, exec .powerLoss s = .next t ∧ t.service = State.reset.service ∧ t.mem = [] ∧
      (s.saltin.powerCycles < 2 ^ 64 - 1 → t.saltin.powerCycles = s.saltin.powerCycles + 1)) ∧
    (∀ fn pin, (pin = true ∨ fn = 0) → ∃ t, exec (.recover fn pin) s = .next t ∧ t.saltin.inRecovery = true ∧ t.saltin.rstat = 0 ∧
      t.saltin.rctl = true ∧ t.service.stage = 1 ∧ t.cores = []) ∧
    (s.saltin.inRecovery = true → wfield s.saltin.rstat 3 0 = 1 → 4096 ≤ s.saltin.imgLen.toNat → s.saltin.imgLen.toNat ≤ 2 ^ 26 →
      s.saltin.imgAddr.toNat % 4096 = 0 → exec (.go 0 1) s = .next { s with saltin := { s.saltin with rstat := 2 } }) ∧
    (s.saltin.inRecovery = true → ∀ dmaError,
      let x := s.saltin
      ∃ t, exec (.recoveryImageVerify dmaError) s = .next t ∧ t.mem = s.mem ∧
        (wfield x.rstat 3 0 = 2 → dmaError = false → t.saltin.rstat = 3 ∧ t.saltin.stored = x.stored ∧
          t.saltin.fetched = Memory.readBytes s.hostMem x.imgAddr.toNat x.imgLen.toNat) ∧
        (wfield x.rstat 3 0 = 2 → dmaError = true → t.saltin.rstat = rstatWord 1 5 true ∧ t.saltin.stored = x.stored) ∧
        (wfield x.rstat 3 0 = 3 → t.saltin.stored = x.stored ∧ t.saltin.inRecovery = true ∧
          t.saltin.rstat = (if imageReason x x.fetched = 0 then 4 else rstatWord 1 (imageReason x x.fetched) true)) ∧
        (wfield x.rstat 3 0 = 4 → t.service.stage = 2 ∧ t.saltin.stored = x.fetched ∧ t.saltin.inRecovery = false ∧
          t.saltin.rstat = 5))) ∧
  (∀ (s : State) (v : DWord) (u : Nat) (flag : Bool), s.service.stage = 5 → s.saltin.scrubbing = none → s.service.busy = none →
    commandUnit v = some u →
    let done (t : State) (busy : Option Nat) (x : UnitState) (result : Nat) : Prop := t.service.busy = busy ∧ unitState t u = x ∧
      t.regs.svcCmd = keepBits v 63 48 ∧ field t.regs.svcStat 59 56 = result ∧ t.mem = s.mem
    (field v 63 60 = 1 → unitState s u = .inService → (u < 48 ∨ 64 ≤ u) → ∃ t, exec (.drain 0 v) s = .next t ∧ done t (some u) .draining 0) ∧
    (field v 63 60 = 2 → unitState s u = .isolated → ∃ t, exec (.test 0 v) s = .next t ∧ done t (some u) .testing 0) ∧
    (field v 63 60 = 3 → unitState s u = .isolated → ∃ t, exec (.repair 0 v flag) s = .next t ∧
      done t none .isolated (if flag = true ∨ 64 ≤ u then 0 else 4)) ∧
    (field v 63 60 = 4 → unitState s u = .isolated → (u < 48 ∨ 64 ≤ u ∨ flag = true) → ∃ t, exec (.returnService 0 v flag) s = .next t ∧
      done t none .inService 0) ∧
    (field v 63 60 = 2 → unitState s u ≠ .isolated → ∃ t, exec (.test 0 v) s = .next t ∧ done t none (unitState s u) 2)) ∧
  (∀ (s : State) (v : DWord), s.service.stage = 5 → s.saltin.scrubbing = none → s.service.busy = none → field v 63 60 = 5 →
    ∃ t, exec (.fwupdate 0 v) s = .next t ∧ t.cores = s.cores ∧ t.saltin.svn = s.saltin.svn ∧
    (imageReason s.saltin (mailBytes s 0 0 4096) = 0 → t.saltin.stored = mailBytes s 0 0 4096 ∧ t.service.busy = some firmwareUnit ∧
      field t.regs.svcStat 63 63 = 1 ∧ field t.regs.svcStat 59 56 = 0) ∧
    (imageReason s.saltin (mailBytes s 0 0 4096) ≠ 0 → t.saltin.stored = s.saltin.stored ∧ t.service.busy = none ∧
      field t.regs.svcStat 59 56 = 5)) ∧
  (∀ (s : State), s.service.busy = some firmwareUnit →
    (Config.restartOver s.clock.toNat = true → (endRestart s).saltin.svn = Config.imageSvn s.saltin.stored ∧
      (endRestart s).service.busy = none ∧ (endRestart s).cores = s.cores ∧ (endRestart s).mem = s.mem) ∧
    (Config.restartOver s.clock.toNat = false → endRestart s = s)) ∧
  (∀ (s : State) (u : Nat), s.service.busy = some u → u < 80 →
    (unitState s u = .testing → ∀ passed, ∃ t, exec (.testComplete passed) s = .next t ∧ unitState t u = .isolated ∧ t.service.busy = none ∧
      field t.regs.svcStat 59 56 = (if passed then 0 else 3)) ∧
    (s.service.units = [(u, .draining)] → drained s u = true → ∃ t, exec .drainComplete s = .next t ∧ unitState t u = .isolated ∧
      t.service.busy = none) ∧
    (s.service.units = [(u, .isolated)] → 48 ≤ u → u < 64 → (∃ t, s.service.linkSince = some t ∧ t + 52500000 ≤ s.wall) → ∀ trains,
      ∃ t, exec (.linkDrainTimeout trains) s = .next t ∧ unitState t u = (if trains then .inService else .failed))) ∧
  (∀ (s : State), (s.service.hotSince + 10500000 ≤ s.wall → Config.cooled s.wall = true →
      exec .clockRestore s = .next { s with service := { s.service with halved := false } }) ∧
    (s.wall < s.service.hotSince + 10500000 ∨ Config.cooled s.wall = false → exec .clockRestore s = .next s) ∧
    (∀ droop, ∃ t, exec (.clockHalve droop) s = .next t ∧ t.service = { s.service with halved := true, hotSince := s.wall } ∧
      (droop = true → s.saltin.droops < 2 ^ 64 - 1 → t.saltin.droops = s.saltin.droops + 1) ∧ (droop = false → t.saltin = s.saltin)) ∧
    (∀ line l, Table.get s.lines line = some l → l.dirty = true → ∃ t w, exec (.uncorrectableError (.dirtyLine line)) s = .next t ∧
      Table.get t.lines line = some { l with poisoned := [0, 1, 2, 3] } ∧ t.waiting = s.waiting ++ [w] ∧ w.q = .owner ∧
      (listGetD w.words 0 0).toNat / 2 ^ 56 = 1 ∧ t.mem = s.mem) ∧
    (∀ h, h < 1536 → (die s (h / 384)).stopped = false → exec (.uncorrectableError (.sliceTag h)) s = .next (stopDie s h)) ∧
    (∀ d wa, d < 4 → wa < 402653184 → wa / 64 ∉ (die s d).badBlocks → exec (.uncorrectableError (.weightBlock d wa)) s =
      .next (modDie s d fun k => { k with badBlocks := k.badBlocks ++ [wa / 64] })) ∧
    (∀ d, exec (.dieReset d) s = .next (modDie s d fun k => { k with stopped := false })) ∧
    (∀ d hop, d < 4 → hop ∉ (die s d).hops → exec (.meshCrcFailure d hop []) s = .next (modDie s d fun k => { k with hops := k.hops ++ [hop] })) ∧
    (∀ m, s.saltin.scanMode = false → ∃ t, exec (.scanModeEntry m) s = .next t ∧ t.keys = [] ∧ t.launches = [] ∧ t.inflight = [] ∧
      t.saltin.scanMode = true ∧ (s.saltin.lockouts < 2 ^ 64 - 1 → t.saltin.lockouts = s.saltin.lockouts + 1)) ∧
    (∀ hours temps corrected, ∃ t, exec (.lifetimeRecordUpdate hours temps corrected) s = .next t ∧
      t.saltin.hours = min (2 ^ 64 - 1) (s.saltin.hours + hours) ∧ t.mem = s.mem ∧ t.cores = s.cores))
end

