-- ==== Sys2Proof/Laws/Codec.lean ====
section
/-! SUPPORT. The words of an instruction: fields read back from the word that holds them, operands from their codes, and the checks of
R34 that a fitting operand passes. -/

namespace Sys2Proof

/-- A bit of a first word, from the fields up (R22). -/
theorem Raw.word_getLsbD (r : Raw) (i : Nat) : r.word.getLsbD i =
    if i < 3 then r.m.getLsbD i else if i - 3 < 7 then r.b.getLsbD (i - 3) else if i - 3 - 7 < 7 then r.a.getLsbD (i - 3 - 7)
    else if i - 3 - 7 - 7 < 7 then r.d.getLsbD (i - 3 - 7 - 7) else if i - 3 - 7 - 7 - 7 < 7 then r.op.getLsbD (i - 3 - 7 - 7 - 7)
    else (BitVec.ofBool r.team).getLsbD (i - 3 - 7 - 7 - 7 - 7) := by
  unfold Raw.word
  erw [BitVec.getLsbD_append, BitVec.getLsbD_append, BitVec.getLsbD_append, BitVec.getLsbD_append, BitVec.getLsbD_append]

/-- The fields of a first word are those it was made of. -/
@[simp] theorem Raw.ofWord_word (r : Raw) : Raw.ofWord r.word = r := by
  obtain ⟨t, op, d, a, b, m⟩ := r
  simp only [Raw.ofWord, Raw.mk.injEq]
  refine ⟨?_, ?_, ?_, ?_, ?_, ?_⟩
  · rw [Raw.word_getLsbD]
    simp
  all_goals
    apply BitVec.eq_of_getLsbD_eq
    intro i hi
    rw [BitVec.getLsbD_extractLsb', Raw.word_getLsbD]
    simp only [hi, decide_true, Bool.true_and]
  · rw [if_neg (by omega), if_neg (by omega), if_neg (by omega), if_neg (by omega), if_pos (by omega)]; congr 1; omega
  · rw [if_neg (by omega), if_neg (by omega), if_neg (by omega), if_pos (by omega)]; congr 1; omega
  · rw [if_neg (by omega), if_neg (by omega), if_pos (by omega)]; congr 1; omega
  · rw [if_neg (by omega), if_pos (by omega)]; congr 1; omega
  · rw [if_pos (by omega)]; congr 1; omega

/-- IMM17 of a format J word is the one it was made of (R23). -/
@[simp] theorem Raw.imm_rawJ (t : Bool) (op d : BitVec 7) (x : BitVec 17) : (rawJ t op d x).imm = x := by
  apply BitVec.eq_of_getLsbD_eq
  intro i hi
  unfold rawJ Raw.imm
  erw [BitVec.getLsbD_append, BitVec.getLsbD_append]
  simp only [BitVec.getLsbD_extractLsb']
  by_cases h : i < 3
  · simp [h]
  · by_cases h2 : i - 3 < 7
    · simp [h, h2]; congr 1; omega
    · have h3 : i - 3 - 7 < 7 := by omega
      simp [h, h2, h3]; congr 1; omega

/-- A label register's code names it (R31). -/
@[simp] theorem lblOf_lblCode (l : Fin 8) : lblOf (lblCode l) = l := by revert l; decide

/-- A D code passes row 6 of R34 for a fitting destination. -/
theorem Dst.not_bad (team : Bool) (k : Width) (d : Dst) (h : d.fits team k = true) : dBad team k d.code = false := by
  cases d with
  | reg n => cases k <;> revert team n <;> decide
  | queue n => cases k <;> revert team n <;> decide
  | zero => cases k <;> revert team <;> decide

/-- A D code passes row 7 of R34. -/
theorem Dst.not_literal (d : Dst) : isLiteralCode d.code = false := by
  cases d with
  | reg n => revert n; decide
  | queue n => revert n; decide
  | zero => decide

/-- A D code passes row 8 of R34 for a fitting destination. -/
theorem Dst.not_odd (team : Bool) (k : Width) (d : Dst) (h : d.fits team k = true) : oddCode k d.code = false := by
  cases d with
  | reg n => cases k <;> revert team n <;> decide
  | queue n => cases k <;> revert team n <;> decide
  | zero => cases k <;> revert team <;> decide

/-- The D code of a destination stands for it. -/
@[simp] theorem dstOf_code (d : Dst) : dstOf d.code = d := by
  cases d with
  | reg n => revert n; decide
  | queue n => revert n; decide
  | zero => decide

/-- An A or B code passes row 6 of R34 for a fitting source. -/
theorem Src.not_bad (team : Bool) (k : Width) (a : Src) (h : a.fits team k = true) : srcBad team k a.code = false := by
  cases a with
  | reg n => cases k <;> revert team n <;> decide
  | queue n => cases k <;> revert team n <;> decide
  | lit w => cases k <;> cases team <;> first | rfl | cases h
  | lit64 v => cases k <;> cases team <;> first | rfl | cases h
  | zero => cases k <;> revert team <;> decide

/-- An A or B code passes row 8 of R34 for a fitting source. -/
theorem Src.not_odd (team : Bool) (k : Width) (a : Src) (h : a.fits team k = true) : oddCode k a.code = false := by
  cases a with
  | reg n => cases k <;> revert team n <;> decide
  | queue n => cases k <;> revert team n <;> decide
  | lit w => cases k <;> cases team <;> rfl
  | lit64 v => cases k <;> cases team <;> rfl
  | zero => cases k <;> revert team <;> decide

/-- The two words of a 64-bit literal make it (R28). -/
theorem lit64_words (v : BitVec 64) : (v.extractLsb' 32 32 ++ v.extractLsb' 0 32 : BitVec 64) = v := by
  apply BitVec.eq_of_getLsbD_eq
  intro i hi
  erw [BitVec.getLsbD_append]
  simp only [BitVec.getLsbD_extractLsb']
  by_cases h : i < 32
  · simp [h]
  · have h2 : i - 32 < 32 := by omega
    simp [h, h2]; congr 1; omega

/-- The code of a source and its literal words stand for it (R28). -/
@[simp] theorem srcOf_code (a : Src) (rest : List Word) : srcOf a.code (a.words ++ rest) = some (a, rest) := by
  cases a with
  | reg n =>
    have h : (BitVec.ofNat 7 n.val).toNat = n.val := by rw [BitVec.toNat_ofNat]; omega
    simp only [Src.code, srcOf, h, n.isLt, dif_pos]
    rfl
  | queue n =>
    have h : (BitVec.ofNat 7 (116 + n.val)).toNat = 116 + n.val := by rw [BitVec.toNat_ofNat]; omega
    have h1 : ¬ 116 + n.val < 116 := by omega
    have h2 : 116 + n.val - 116 < 8 := by omega
    simp only [Src.code, srcOf, h, h1, h2, dif_pos, dif_neg, not_false_eq_true]
    simp [Src.words]
  | lit w => rfl
  | lit64 v =>
    simp only [Src.code, Src.words, srcOf, List.cons_append, List.nil_append]
    simp [lit64_words]
  | zero => rfl

/-- The code of a source with no words after its own. -/
@[simp] theorem srcOf_code_nil (a : Src) : srcOf a.code a.words = some (a, []) := by
  have h := srcOf_code a []
  rwa [List.append_nil] at h

/-- A code takes as many literal words as its source has (R28). -/
theorem Src.words_length (a : Src) : a.words.length = litWords a.code := by
  cases a with
  | reg n => revert n; decide
  | queue n => revert n; decide
  | lit w => rfl
  | lit64 v => rfl
  | zero => rfl

/-- Words of a format A shape with fitting operands pass rows 5 to 8 of R34. -/
theorem Shape.accepts_a (r : Raw) (sh : Shape) (d : Dst) (a b : Src) (hf : sh.format = .a) (h1 : r.d = d.code) (h2 : r.a = a.code)
    (h3 : r.b = b.code) (hm : r.m.toNat < sh.ms) (hd : d.fits r.team sh.d = true) (ha : a.fits r.team sh.a = true)
    (hb : b.fits r.team sh.b = true) : sh.reject r = none := by
  simp [Shape.reject, hf, hm, h1, h2, h3, Dst.not_bad _ _ _ hd, Src.not_bad _ _ _ ha, Src.not_bad _ _ _ hb, Dst.not_literal,
    Dst.not_odd _ _ _ hd, Src.not_odd _ _ _ ha, Src.not_odd _ _ _ hb]

/-- A format J word that writes its field. -/
theorem Shape.accepts_jd (r : Raw) (sh : Shape) (d : Dst) (hf : sh.format = .j) (hw : sh.dst = true) (h1 : r.d = d.code)
    (hd : d.fits r.team sh.d = true) : sh.reject r = none := by
  simp [Shape.reject, hf, hw, h1, Dst.not_bad _ _ _ hd, Dst.not_literal, Dst.not_odd _ _ _ hd]

/-- A format J word that reads its field. -/
theorem Shape.accepts_ja (r : Raw) (sh : Shape) (a : Src) (hf : sh.format = .j) (hw : sh.dst = false)
    (hk : sh.d = .w32) (h1 : r.d = a.code) (hl : isLiteralCode a.code = false) (ha : a.fits r.team .w32 = true) : sh.reject r = none := by
  simp [Shape.reject, hf, hw, hk, h1, Src.not_bad _ _ _ ha, hl, Src.not_odd _ _ _ ha]

/-- The set of a format J word. -/
theorem rawJ_team (t : Bool) (op d : BitVec 7) (x : BitVec 17) : (rawJ t op d x).team = t := rfl

/-- The opcode of a format J word. -/
theorem rawJ_op (t : Bool) (op d : BitVec 7) (x : BitVec 17) : (rawJ t op d x).op = op := rfl

/-- The shape of a format J word other than SREAD is that of its opcode. -/
theorem shapeOf_rawJ (t : Bool) (op d : BitVec 7) (x : BitVec 17) (h : t = true ∨ op.toNat ≠ 0x25) {sh : Shape}
    (hs : (if t then teamShape op.toNat else laneShape op.toNat) = some sh) : shapeOf (rawJ t op d x) = some sh := by
  cases t with
  | true => exact hs
  | false =>
    have h' : op.toNat ≠ 0x25 := h.resolve_left (by decide)
    simp only [shapeOf, rawJ_team, rawJ_op, h', false_and]
    exact hs

/-- The shape of a word other than SREAD is that of its opcode. -/
theorem shapeOf_a (t : Bool) (op d a b : BitVec 7) (m : BitVec 3) (h : t = true ∨ op.toNat ≠ 0x25) {sh : Shape}
    (hs : (if t then teamShape op.toNat else laneShape op.toNat) = some sh) : shapeOf ⟨t, op, d, a, b, m⟩ = some sh := by
  cases t with
  | true => exact hs
  | false =>
    have h' : op.toNat ≠ 0x25 := h.resolve_left (by decide)
    simp only [shapeOf, h', false_and]
    exact hs

/-- A format J source is no literal (R25). -/
theorem Src.fitsJ_not_literal (team : Bool) (a : Src) (h : a.fitsJ team = true) : isLiteralCode a.code = false := by
  cases a with
  | reg n => revert team n; decide
  | queue n => revert team n; decide
  | lit w => cases h
  | lit64 v => cases h
  | zero => decide

/-- A format J source fits a 32-bit position. -/
theorem Src.fitsJ_fits (team : Bool) (a : Src) (h : a.fitsJ team = true) : a.fits team .w32 = true := by
  cases a with
  | reg n => rfl
  | queue n => exact h
  | lit w => cases h
  | lit64 v => cases h
  | zero => rfl

/-- A format J word whose field is not used. -/
theorem Shape.accepts_jn (r : Raw) (sh : Shape) (hf : sh.format = .j) (hk : sh.d = .no) (h1 : r.d = 126) : sh.reject r = none := by
  cases ht : sh.dst <;> simp [Shape.reject, hf, hk, h1, ht, isLiteralCode, dBad, srcBad, oddCode]

end Sys2Proof
end

