-- ==== Sys2Proof/Laws/Memory.lean ====
section
/-! SUPPORT. Memories and tables: every operation keeps the canonical form, a read after a write, and what a write leaves alone. -/

namespace Sys2Proof.Machine

/-! ### The canonical form -/

/-- A form from a higher start is a form from a lower one. -/
theorem Memory.wfFrom_mono {lo lo' : Nat} (h : lo' ≤ lo) : ∀ {m : Memory}, Memory.wfFrom lo m = true → Memory.wfFrom lo' m = true
  | [], _ => rfl
  | (a, b) :: rest, hm => by
    simp only [Memory.wfFrom, Bool.and_eq_true, decide_eq_true_eq] at hm ⊢
    exact ⟨⟨by omega, hm.1.2⟩, hm.2⟩

/-- A write at or above the start keeps the form. -/
theorem Memory.wfFrom_write {n : Nat} {b : Byte} : ∀ {m : Memory} {lo : Nat}, lo ≤ n → Memory.wfFrom lo m = true →
    Memory.wfFrom lo (Memory.write m n b) = true
  | [], lo, h, _ => by
    unfold Memory.write
    split
    · rfl
    · rename_i hb; simpa [Memory.wfFrom, h] using hb
  | (a, c) :: rest, lo, h, hm => by
    simp only [Memory.wfFrom, Bool.and_eq_true, decide_eq_true_eq] at hm
    obtain ⟨⟨h1, h2⟩, h3⟩ := hm
    unfold Memory.write
    split
    · split
      · simpa [Memory.wfFrom, h1, h3] using h2
      · rename_i hn hb
        simp only [Memory.wfFrom, Bool.and_eq_true, decide_eq_true_eq, bne_iff_ne, ne_eq]
        exact ⟨⟨h, hb⟩, ⟨by omega, by simpa using h2⟩, h3⟩
    · split
      · split
        · exact Memory.wfFrom_mono (by omega) h3
        · rename_i e hb; subst e; simpa [Memory.wfFrom, h, h3] using hb
      · simp only [Memory.wfFrom, Bool.and_eq_true, decide_eq_true_eq]
        exact ⟨⟨h1, h2⟩, Memory.wfFrom_write (by omega) h3⟩

/-- A write keeps the canonical form. -/
@[simp] theorem Memory.wf_write {m : Memory} {n : Nat} {b : Byte} (h : Memory.wf m = true) : Memory.wf (Memory.write m n b) = true :=
  Memory.wfFrom_write (Nat.zero_le n) h

/-- Bytes stored keep the canonical form. -/
@[simp] theorem Memory.wf_writeBytes : ∀ {bs : List Byte} {m : Memory} {a : Nat}, Memory.wf m = true →
    Memory.wf (Memory.writeBytes m a bs) = true
  | [], _, _, h => h
  | _ :: bs, _, _, h => Memory.wf_writeBytes (bs := bs) (Memory.wf_write h)

/-- An empty memory stands in the canonical form. -/
@[simp] theorem Memory.wf_nil : Memory.wf [] = true := rfl

/-! ### Reading and writing -/

/-- Below its start a memory in the form lists nothing. -/
theorem Memory.read_below {n : Nat} : ∀ {m : Memory} {lo : Nat}, Memory.wfFrom lo m = true → n < lo → Memory.read m n = 0
  | [], _, _, _ => rfl
  | (a, b) :: rest, lo, hm, h => by
    simp only [Memory.wfFrom, Bool.and_eq_true, decide_eq_true_eq] at hm
    unfold Memory.read
    rw [if_neg (by omega)]
    exact Memory.read_below hm.2 (by omega)

/-- Reading after a write, anywhere. -/
theorem Memory.read_write_from {n k : Nat} {b : Byte} : ∀ {m : Memory} {lo : Nat}, Memory.wfFrom lo m = true →
    Memory.read (Memory.write m n b) k = if k = n then b else Memory.read m k
  | [], _, _ => by
    unfold Memory.write
    by_cases hb : b = 0
    · simp [hb, Memory.read]
    · rw [if_neg hb]
      by_cases hk : k = n
      · simp [hk, Memory.read]
      · simp [hk, Memory.read, Ne.symm hk]
  | (a, c) :: rest, lo, hm => by
    simp only [Memory.wfFrom, Bool.and_eq_true, decide_eq_true_eq] at hm
    obtain ⟨⟨h1, h2⟩, h3⟩ := hm
    unfold Memory.write
    split
    · rename_i hn
      by_cases hb : b = 0
      · rw [if_pos hb]
        by_cases hk : k = n
        · subst hk
          rw [if_pos rfl, hb]
          unfold Memory.read
          rw [if_neg (by omega)]
          exact Memory.read_below h3 (by omega)
        · rw [if_neg hk]
      · rw [if_neg hb]
        by_cases hk : k = n
        · subst hk; simp [Memory.read]
        · rw [if_neg hk]
          conv_lhs => unfold Memory.read
          rw [if_neg (Ne.symm hk)]
    · split
      · rename_i hn ha
        subst ha
        by_cases hb : b = 0
        · rw [if_pos hb]
          by_cases hk : k = a
          · subst hk
            rw [if_pos rfl, hb]
            exact Memory.read_below h3 (by omega)
          · rw [if_neg hk]
            conv_rhs => unfold Memory.read
            rw [if_neg (Ne.symm hk)]
        · rw [if_neg hb]
          by_cases hk : k = a
          · subst hk; simp [Memory.read]
          · simp [Memory.read, Ne.symm hk, hk]
      · rename_i hn ha
        have ih := Memory.read_write_from (n := n) (k := k) (b := b) h3
        unfold Memory.read
        by_cases hk : a = k
        · subst hk
          rw [if_pos rfl, if_neg ha, if_pos rfl]
        · rw [if_neg hk, if_neg hk, ih]

/-- READ AFTER WRITE: the byte written at its address, every other byte as before. -/
theorem Memory.read_write {m : Memory} (h : Memory.wf m = true) (n k : Nat) (b : Byte) :
    Memory.read (Memory.write m n b) k = if k = n then b else Memory.read m k := Memory.read_write_from h

/-- Bytes stored leave every byte outside them alone. -/
theorem Memory.read_writeBytes_of_outside : ∀ {bs : List Byte} {m : Memory} {a k : Nat}, Memory.wf m = true →
    (k < a ∨ a + bs.length ≤ k) → Memory.read (Memory.writeBytes m a bs) k = Memory.read m k
  | [], _, _, _, _, _ => rfl
  | b :: bs, m, a, k, h, hk => by
    simp only [List.length_cons] at hk
    unfold Memory.writeBytes
    rw [Memory.read_writeBytes_of_outside (Memory.wf_write h) (by omega), Memory.read_write h, if_neg (by omega)]

/-- Bytes stored read back. -/
theorem Memory.read_writeBytes_of_inside : ∀ {bs : List Byte} {m : Memory} {a i : Nat}, Memory.wf m = true → (hi : i < bs.length) →
    Memory.read (Memory.writeBytes m a bs) (a + i) = bs[i]
  | b :: bs, m, a, 0, h, _ => by
    unfold Memory.writeBytes
    rw [Memory.read_writeBytes_of_outside (Memory.wf_write h) (by omega), Memory.read_write h, if_pos (by omega)]
    rfl
  | b :: bs, m, a, i + 1, h, hi => by
    simp only [List.length_cons, Nat.add_lt_add_iff_right] at hi
    unfold Memory.writeBytes
    have e : a + (i + 1) = a + 1 + i := by omega
    rw [e, Memory.read_writeBytes_of_inside (Memory.wf_write h) hi]
    rfl

/-! ### Tables -/

/-- A value put is found at its key, and other keys are as before. -/
theorem Table.get_put {α : Type} (n k : Nat) (v : α) : ∀ (t : Table α), Table.get (Table.put t n v) k = if k = n then some v else Table.get t k
  | [] => by
    by_cases hk : k = n
    · simp [Table.put, Table.get, hk]
    · simp [Table.put, Table.get, hk, Ne.symm hk]
  | (a, w) :: rest => by
    have ih := Table.get_put n k v rest
    unfold Table.put
    split
    · by_cases hk : k = n
      · simp [Table.get, hk]
      · simp [Table.get, hk, Ne.symm hk]
    · split
      · rename_i h1 h2
        subst h2
        by_cases hk : k = a
        · simp [Table.get, hk]
        · simp [Table.get, hk, Ne.symm hk]
      · rename_i h1 h2
        unfold Table.get
        by_cases hk : a = k
        · subst hk; simp [h2]
        · simp only [hk, if_false]; exact ih

/-- A value put is found at its key. -/
@[simp] theorem Table.get_put_self {α : Type} (t : Table α) (n : Nat) (v : α) : Table.get (Table.put t n v) n = some v := by
  rw [Table.get_put, if_pos rfl]

/-- A value put is found at its key. -/
@[simp] theorem Table.getD_put_self {α : Type} (t : Table α) (n : Nat) (v d : α) : Table.getD (Table.put t n v) n d = v := by
  simp [Table.getD]

/-- Other keys are as before. -/
theorem Table.get_put_ne {α : Type} (t : Table α) {n k : Nat} (v : α) (h : k ≠ n) : Table.get (Table.put t n v) k = Table.get t k := by
  rw [Table.get_put, if_neg h]

/-- Other keys are as before. -/
theorem Table.getD_put_ne {α : Type} (t : Table α) {n k : Nat} (v d : α) (h : k ≠ n) :
    Table.getD (Table.put t n v) k d = Table.getD t k d := by
  rw [Table.getD, Table.get_put_ne t v h, Table.getD]

/-- A table put twice at one key keeps the later value. -/
@[simp] theorem Table.put_put_self {α : Type} (n : Nat) (v w : α) : ∀ (t : Table α), Table.put (Table.put t n v) n w = Table.put t n w
  | [] => by simp [Table.put]
  | (a, x) :: rest => by
    by_cases h1 : n < a
    · simp [Table.put, h1]
    · by_cases h2 : a = n
      · simp [Table.put, h2]
      · simp [Table.put, h1, h2, Table.put_put_self n v w rest]

/-- A key deleted is gone, and other keys are as before. -/
theorem Table.get_del {α : Type} (n k : Nat) : ∀ (t : Table α), Table.get (Table.del t n) k = if k = n then none else Table.get t k
  | [] => by simp [Table.del, Table.get]
  | (a, w) :: rest => by
    have ih := Table.get_del n k rest
    unfold Table.del
    by_cases h : a = n
    · subst h
      rw [if_pos rfl, ih]
      by_cases hk : k = a
      · simp [hk]
      · simp [Table.get, hk, Ne.symm hk]
    · rw [if_neg h]
      by_cases hk : a = k
      · subst hk; simp [Table.get, h]
      · simp only [Table.get, hk, if_false]; exact ih

/-- A key deleted is gone. -/
@[simp] theorem Table.get_del_self {α : Type} (t : Table α) (n : Nat) : Table.get (Table.del t n) n = none := by
  rw [Table.get_del, if_pos rfl]

/-! ### Words and bytes -/

/-- A pair is its two words. -/
@[simp] theorem lowWord_pairOf (x y : Word) : lowWord (pairOf x y) = x := by
  unfold lowWord pairOf
  apply BitVec.eq_of_getLsbD_eq
  intro i hi
  rw [BitVec.getLsbD_setWidth]
  erw [BitVec.getLsbD_append]
  simp [hi]

/-- A pair is its two words. -/
@[simp] theorem highWord_pairOf (x y : Word) : highWord (pairOf x y) = y := by
  unfold highWord pairOf
  apply BitVec.eq_of_getLsbD_eq
  intro i hi
  rw [BitVec.getLsbD_extractLsb']
  erw [BitVec.getLsbD_append]
  simp [hi]

/-- A 32-bit value carried in 64 bits is its low word. -/
@[simp] theorem lowWord_setWidth (x : Word) : lowWord (x.setWidth 64) = x := by
  unfold lowWord
  exact BitVec.setWidth_setWidth_of_le x (by omega) |>.trans (by simp)

end Sys2Proof.Machine
end

