-- ==== Sys2Proof/Laws/Kept.lean ====
section
/-! SUPPORT. Which shared operations leave the memories and the accesses in flight as they were, and what the operations that write
memory do to it: one lemma per operation. -/

namespace Sys2Proof.Machine

/-- The memories, the accesses in flight and the clock are the same in two states. -/
structure Kept (s t : State) : Prop where
  mem : t.mem = s.mem
  hostMem : t.hostMem = s.hostMem
  weights : t.dies.map Die.weights = s.dies.map Die.weights
  inflight : t.inflight = s.inflight
  nextAccess : t.nextAccess = s.nextAccess
  clock : t.clock = s.clock

theorem Kept.refl (s : State) : Kept s s := ⟨rfl, rfl, rfl, rfl, rfl, rfl⟩

theorem Kept.trans {s t u : State} (h : Kept s t) (k : Kept t u) : Kept s u :=
  ⟨k.mem.trans h.mem, k.hostMem.trans h.hostMem, k.weights.trans h.weights, k.inflight.trans h.inflight, k.nextAccess.trans h.nextAccess,
   k.clock.trans h.clock⟩

/-- A fold of operations that keep, keeps. -/
theorem Kept.foldl {α : Type} {f : State → α → State} (h : ∀ s a, Kept s (f s a)) : ∀ (l : List α) (s : State), Kept s (l.foldl f s)
  | [], s => Kept.refl s
  | a :: l, s => (h s a).trans (Kept.foldl h l (f s a))

/-- States that keep the memories are well-formed together. -/
theorem Kept.memoriesOk {s t : State} (h : Kept s t) : t.memoriesOk = s.memoriesOk := by
  have hd : (t.dies.all fun d => d.weights.wf) = s.dies.all fun d => d.weights.wf := by
    have (ds : List Die) : (ds.all fun d => d.weights.wf) = (ds.map Die.weights).all Memory.wf := by simp [List.all_map, Function.comp_def]
    rw [this, this, h.weights]
  simp only [State.memoriesOk, h.mem, h.hostMem, hd]

/-- States that keep the accesses in flight order them alike. -/
theorem Kept.accessesOrdered {s t : State} (h : Kept s t) : t.accessesOrdered ↔ s.accessesOrdered := by
  simp only [State.accessesOrdered, h.inflight, h.nextAccess]

/-! ### Cores, teams, slices, gangs -/

theorem Kept.putCore (s : State) (c : Nat) (k : Core) : Kept s (putCore s c k) := ⟨rfl, rfl, rfl, rfl, rfl, rfl⟩

theorem Kept.modCore (s : State) (c : Nat) (f : Core → Core) : Kept s (modCore s c f) := ⟨rfl, rfl, rfl, rfl, rfl, rfl⟩

theorem Kept.putTeam (s : State) (t : TeamId) (tm : Team) : Kept s (putTeam s t tm) := ⟨rfl, rfl, rfl, rfl, rfl, rfl⟩

theorem Kept.modTeam (s : State) (t : TeamId) (f : Team → Team) : Kept s (modTeam s t f) := by
  unfold Machine.modTeam; split
  · exact Kept.refl s
  · exact Kept.putTeam s t _

theorem Kept.putSlice (s : State) (id : SliceId) (tm : Team) (sl : Slice) : Kept s (putSlice s id tm sl) := ⟨rfl, rfl, rfl, rfl, rfl, rfl⟩

theorem Kept.modSlice (s : State) (id : SliceId) (f : Slice → Slice) : Kept s (modSlice s id f) := by
  unfold Machine.modSlice; split
  · exact Kept.refl s
  · exact Kept.putSlice s id _ _

theorem Kept.modGang (s : State) (l n : Nat) (f : Gang → Gang) : Kept s (modGang s l n f) := ⟨rfl, rfl, rfl, rfl, rfl, rfl⟩

theorem Kept.modLaunch (s : State) (l : Nat) (f : Launch → Launch) : Kept s (modLaunch s l f) := ⟨rfl, rfl, rfl, rfl, rfl, rfl⟩

theorem Kept.putTeamAt (s : State) (p : TeamPlace) (tm : Team) : Kept s (putTeamAt s p tm) := by
  cases p <;> exact ⟨rfl, rfl, rfl, rfl, rfl, rfl⟩

theorem Kept.modNamed (s : State) (l g n : Nat) (f : Team → Team) : Kept s (modNamed s l g n f) := by
  unfold Machine.modNamed; split
  · exact Kept.refl s
  · exact Kept.putTeamAt s _ _

theorem Kept.modNamedSlice (s : State) (w : SliceName) (f : Slice → Slice) : Kept s (modNamedSlice s w f) := Kept.modNamed s _ _ _ _

/-! ### Times and station copies -/

theorem Kept.setCt (s : State) (c : Nat) (t : Word) : Kept s (setCt s c t) := Kept.modCore s c _

theorem Kept.mergeCt (s : State) (c : Nat) (t : Word) : Kept s (mergeCt s c t) := Kept.setCt s c _

theorem Kept.mergeStamp (s : State) (c : Nat) (t : Option Word) : Kept s (mergeStamp s c t) := by
  unfold Machine.mergeStamp; split
  · exact Kept.refl s
  · exact Kept.mergeCt s c _

theorem Kept.setParty (s : State) (p : Party) (t : Word) : Kept s (setParty s p t) := by
  cases p
  · exact Kept.setCt s _ t
  · exact ⟨rfl, rfl, rfl, rfl, rfl, rfl⟩
  · exact ⟨rfl, rfl, rfl, rfl, rfl, rfl⟩
  · exact ⟨rfl, rfl, rfl, rfl, rfl, rfl⟩

theorem Kept.putLine (s : State) (n : Nat) (l : Line) : Kept s (putLine s n l) := ⟨rfl, rfl, rfl, rfl, rfl, rfl⟩

theorem Kept.evictLine (s : State) (n : Nat) : Kept s (evictLine s n) := by
  unfold Machine.evictLine; split
  · exact Kept.refl s
  · exact ⟨rfl, rfl, rfl, rfl, rfl, rfl⟩

theorem Kept.makeRoom (s : State) (n : Nat) : Kept s (makeRoom s n) := by
  unfold Machine.makeRoom; split
  · exact Kept.refl s
  · dsimp only; split
    · exact Kept.refl s
    · split
      · exact Kept.evictLine s _
      · exact Kept.refl s

theorem Kept.renewLine (s : State) (p : Party) (n : Nat) : Kept s (renewLine s p n).1 :=
  ((Kept.makeRoom s n).trans (Kept.putLine _ n _)).trans (Kept.setParty _ p _)

theorem Kept.stampStore (s : State) (p : Party) (n : Nat) (ws : List Nat) : Kept s (stampStore s p n ws) := by
  unfold Machine.stampStore
  refine Kept.trans ((Kept.makeRoom s n).trans ?_) (Kept.setParty _ p _)
  exact ⟨rfl, rfl, rfl, rfl, rfl, rfl⟩

/-- A die changed but for its weight store. -/
theorem Kept.modDie (s : State) (d : Nat) (f : Die → Die) (h : ∀ k, (f k).weights = k.weights) : Kept s (modDie s d f) := by
  refine ⟨rfl, rfl, ?_, rfl, rfl, rfl⟩
  simp only [Machine.modDie]
  exact map_weights_listModify h s.dies d
where
  map_weights_listModify {f : Die → Die} (h : ∀ k, (f k).weights = k.weights) : ∀ (l : List Die) (n : Nat),
      (listModify f l n).map Die.weights = l.map Die.weights
    | [], n => by cases n <;> rfl
    | k :: l, 0 => by simp [listModify, h]
    | k :: l, n + 1 => by simp [listModify, map_weights_listModify h l n]

theorem Kept.keepCopies (s : State) (c : Nat) (cs : List (Lvl × EntryCopy)) : Kept s (keepCopies s c cs) := by
  refine Kept.foldl (fun s x => ?_) cs s
  rcases x with ⟨l, y⟩
  cases l
  · exact Kept.modCore s c _
  · exact Kept.modDie s _ _ fun _ => rfl
  · exact ⟨rfl, rfl, rfl, rfl, rfl, rfl⟩
  · exact ⟨rfl, rfl, rfl, rfl, rfl, rfl⟩

/-! ### Traps, faults, waits, completion -/

theorem Kept.trapSlice (s : State) (id : SliceId) (t : TrapInfo) : Kept s (trapSlice s id t) := by
  unfold Machine.trapSlice; split
  · exact Kept.refl s
  · exact ⟨rfl, rfl, rfl, rfl, rfl, rfl⟩

theorem Kept.complete (s : State) (id : SliceId) (next : Word) : Kept s (complete s id next) := by
  unfold Machine.complete; split
  · exact Kept.refl s
  · dsimp only; split
    · exact (Kept.putSlice s id _ _).trans (Kept.trapSlice _ id _)
    · exact Kept.putSlice s id _ _

theorem Kept.waitSlice (s : State) (id : SliceId) (c : ParkClass) : Kept s (waitSlice s id c) := Kept.modSlice s id _

theorem Kept.parkSlice (s : State) (id : SliceId) (w : WaitFor) : Kept s (parkSlice s id w) := by
  unfold Machine.parkSlice; exact Kept.modSlice s id _

theorem Kept.freezeMaster (s : State) (w : SliceName) (k u a : Nat) : Kept s (freezeMaster s w k u a) := by
  unfold Machine.freezeMaster; split
  · exact Kept.refl s
  · split
    · exact Kept.refl s
    · have h := Kept.modNamed s w.launch w.gang w.gteam fun tm => { tm with frozen := true }
      exact ⟨h.mem, h.hostMem, h.weights, h.inflight, h.nextAccess, h.clock⟩

theorem Kept.postNotice (s : State) (q : Requester) (f : PathFault) : Kept s (postNotice s q f) := by
  unfold Machine.postNotice; split <;> exact ⟨rfl, rfl, rfl, rfl, rfl, rfl⟩

theorem Kept.postFault (s : State) (l : Nat) (q : Requester) (f : PathFault) (m : Master) : Kept s (postFault s l q f m) := by
  unfold Machine.postFault; dsimp only; split
  · refine Kept.trans ?_ (Kept.postNotice _ q f)
    exact ⟨rfl, rfl, rfl, rfl, rfl, rfl⟩
  · exact ⟨rfl, rfl, rfl, rfl, rfl, rfl⟩

theorem Kept.stopGang (s : State) (l g : Nat) : Kept s (stopGang s l g) := Kept.modGang s l g _

theorem Kept.ite {s a b : State} {c : Prop} [Decidable c] (ha : Kept s a) (hb : Kept s b) : Kept s (if c then a else b) := by
  split
  · exact ha
  · exact hb

theorem Kept.faultWith (s : State) (id : SliceId) (f : PathFault) (i0 i1 off : DWord) (size : Nat) (next : Word) :
    Kept s (faultWith s id f i0 i1 off size next) := by
  unfold Machine.faultWith; split
  · exact Kept.refl s
  · rename_i tm sl _
    have stop (w : SliceName) (q : Requester) (tm' : Team) (sl' : Slice) (ws : List Waiting) :
        let a := Machine.postFault (Machine.putSlice s id tm' sl') tm.launch q f (.slice w)
        let b := if f.level = 0 then a else { a with waiting := ws }
        Kept s (if f.cause.cls == .miss then Machine.stopGang b tm.launch tm.gang else b) := by
      intro a b
      have ha : Kept s a := (Kept.putSlice s id tm' sl').trans (Kept.postFault _ _ q f _)
      have hb : Kept s b := Kept.ite ha ⟨ha.mem, ha.hostMem, ha.weights, ha.inflight, ha.nextAccess, ha.clock⟩
      exact Kept.ite (hb.trans (Kept.stopGang _ _ _)) hb
    split
    · exact Kept.waitSlice s id _
    · exact (Kept.waitSlice s id _).trans (Kept.modSlice _ _ _)
    · exact (Kept.waitSlice s id _).trans (Kept.freezeMaster _ _ _ _ _)
    · dsimp only
      split
      · exact stop _ _ _ _ _
      · exact stop _ _ _ _ _
      · exact Kept.trapSlice s id _

theorem Kept.faultSlice (s : State) (id : SliceId) (f : PathFault) (lw off : DWord) (size : Nat) (next : Word) :
    Kept s (faultSlice s id f lw off size next) := Kept.faultWith s id f off lw off size next

/-! ### Pops, destinations, flags -/

theorem Kept.commitPops (s : State) (w : SliceName) (qs : List Nat) : Kept s (commitPops s w qs) := by
  unfold Machine.commitPops
  split
  · exact Kept.refl s
  · split
    · exact Kept.refl s
    · split
      · exact (Kept.modNamed s _ _ _ _).trans (Kept.foldl (fun s t => Kept.mergeStamp s _ t) _ _)
      · exact Kept.foldl (fun s b => (Kept.modNamed s _ _ _ _).trans (Kept.mergeStamp _ _ _)) _ _

theorem Kept.commitAt (s : State) (id : SliceId) (qs : List Nat) : Kept s (commitAt s id qs) := by
  unfold Machine.commitAt; split
  · exact Kept.refl s
  · exact Kept.commitPops s _ _

theorem Kept.writeDst (s : State) (id : SliceId) (d : Dst) (w : Width) (v : DWord) : Kept s (writeDst s id d w v) := by
  cases d with
  | zero => exact Kept.refl s
  | reg n => cases w <;> exact Kept.modSlice s id _
  | queue q =>
    simp only [Machine.writeDst]; split
    · exact Kept.refl s
    · exact Kept.modTeam s _ _

theorem Kept.setFlags (s : State) (id : SliceId) (fl : Word) : Kept s (setFlags s id fl) := by
  unfold Machine.setFlags; split
  · exact Kept.refl s
  · exact Kept.modSlice s id _

theorem Kept.finishTo (s : State) (id : SliceId) (f : Form) (v : Vals) (next : Word) (r : DWord) (fl : Word) :
    Kept s (finishTo s id f v next r fl) :=
  (((Kept.commitAt s id _).trans (Kept.writeDst _ id _ _ _)).trans (Kept.setFlags _ id _)).trans (Kept.complete _ id _)

theorem Kept.finish (f : Form) (sl : Slice) (v : Vals) (r : DWord) (fl : Word) (s : State) : Kept s (finish f sl v r fl s) :=
  Kept.finishTo s _ f v _ r fl

theorem Kept.finishNone (v : Vals) (next : Word) (s : State) : Kept s (finishNone v next s) :=
  (Kept.commitAt s _ _).trans (Kept.complete _ _ _)

/-! ### Operations that write main memory -/

/-- What a keyed write leaves alone, and the canonical form. -/
theorem writeKeyed_hostMem (s : State) (k pa : Nat) (bs : List Byte) : (writeKeyed s k pa bs).hostMem = s.hostMem := by
  unfold writeKeyed
  exact foldl_keeps State.hostMem (fun s i => by unfold rekeySector; split <;> [rfl; (split <;> rfl)]) _ s
where
  foldl_keeps {α β : Type} (g : State → β) {f : State → α → State} (h : ∀ s a, g (f s a) = g s) : ∀ (l : List α) (s : State),
      g (l.foldl f s) = g s
    | [], _ => rfl
    | a :: l, s => (foldl_keeps g h l (f s a)).trans (h s a)

theorem writeKeyed_dies (s : State) (k pa : Nat) (bs : List Byte) : (writeKeyed s k pa bs).dies = s.dies := by
  unfold writeKeyed
  exact writeKeyed_hostMem.foldl_keeps State.dies (fun s i => by unfold rekeySector; split <;> [rfl; (split <;> rfl)]) _ s

theorem writeKeyed_inflight (s : State) (k pa : Nat) (bs : List Byte) : (writeKeyed s k pa bs).inflight = s.inflight := by
  unfold writeKeyed
  exact writeKeyed_hostMem.foldl_keeps State.inflight (fun s i => by unfold rekeySector; split <;> [rfl; (split <;> rfl)]) _ s

theorem writeKeyed_nextAccess (s : State) (k pa : Nat) (bs : List Byte) : (writeKeyed s k pa bs).nextAccess = s.nextAccess := by
  unfold writeKeyed
  exact writeKeyed_hostMem.foldl_keeps State.nextAccess (fun s i => by unfold rekeySector; split <;> [rfl; (split <;> rfl)]) _ s

/-- A sector taken over by another key keeps the canonical form. -/
theorem rekeySector_wf (s : State) (id sec : Nat) (h : s.mem.wf = true) : (rekeySector s id sec).mem.wf = true := by
  unfold rekeySector; split
  · exact h
  · split
    · exact h
    · dsimp only
      generalize List.map _ _ = bs
      exact Memory.wf_writeBytes h

/-- A keyed write keeps the canonical form. -/
theorem writeKeyed_wf (s : State) (k pa : Nat) (bs : List Byte) (h : s.mem.wf = true) : (writeKeyed s k pa bs).mem.wf = true := by
  unfold writeKeyed
  refine Memory.wf_writeBytes ?_
  generalize List.range _ = l
  induction l generalizing s with
  | nil => exact h
  | cons a l ih => exact ih _ (rekeySector_wf s _ _ h)

/-- A keyed write keeps every memory's canonical form. -/
theorem writeKeyed_memoriesOk (s : State) (k pa : Nat) (bs : List Byte) (h : s.memoriesOk = true) : (writeKeyed s k pa bs).memoriesOk = true := by
  simp only [State.memoriesOk, Bool.and_eq_true, writeKeyed_hostMem, writeKeyed_dies] at h ⊢
  exact ⟨⟨writeKeyed_wf s k pa bs h.1.1, h.1.2⟩, h.2⟩

/-! ### Instructions over gathered operands -/

/-- An instruction over gathered operands keeps what its stop and its effect keep. -/
theorem runOwn_keeps (P : State → Prop) {f : Form} {s : State} {own : Team → Slice → Except Stop Unit} {k : Team → Slice → Vals → State}
    (hstop : ∀ st, P (stopAt s s.cur f st)) (hk : ∀ tm sl v, P (k tm sl v)) {t : State} (h : runOwn f s own k = .next t) : P t := by
  unfold runOwn at h
  split at h
  · cases h
  · split at h
    · cases h; exact hstop _
    · cases h; exact hk _ _ _

end Sys2Proof.Machine
end

