-- ==== Sys2Proof/Laws/PerInstr.lean ====
section
/-! SUPPORT. One lemma per instruction: the words of a well-formed instruction pass rows 4 to 8 of R34. -/

namespace Sys2Proof.Laws.Accepts

set_option Elab.async false

/-- The opcode of a well-formed instruction is assigned, and its fields pass the static rows of R34. -/
def Statement (i : Instr) : Prop :=
  i.wellFormed = true →
    match i.raw with
    | none => True
    | some x => ∃ sh, shapeOf x.1 = some sh ∧ sh.reject x.1 = none

theorem iadd : ∀ d a b m, Statement (.iadd d a b m) := by
  intro d a b m h
  simp only [Instr.wellFormed, Bool.and_eq_true] at h
  exact ⟨⟨.a, .w32, .w32, .w32, true, 3⟩, shapeOf_a false 0x00 _ _ _ _ (by decide) rfl, Sys2Proof.Shape.accepts_a _ _ d a b rfl rfl rfl rfl (show m.code.toNat < 3 from by cases m <;> decide) h.1.1 h.1.2 h.2⟩

theorem isub : ∀ d a b m, Statement (.isub d a b m) := by
  intro d a b m h
  simp only [Instr.wellFormed, Bool.and_eq_true] at h
  exact ⟨⟨.a, .w32, .w32, .w32, true, 3⟩, shapeOf_a false 0x01 _ _ _ _ (by decide) rfl, Sys2Proof.Shape.accepts_a _ _ d a b rfl rfl rfl rfl (show m.code.toNat < 3 from by cases m <;> decide) h.1.1 h.1.2 h.2⟩

theorem imul : ∀ d a b, Statement (.imul d a b) := by
  intro d a b h
  simp only [Instr.wellFormed, Bool.and_eq_true] at h
  exact ⟨⟨.a, .w32, .w32, .w32, true, 1⟩, shapeOf_a false 0x02 _ _ _ _ (by decide) rfl, Sys2Proof.Shape.accepts_a _ _ d a b rfl rfl rfl rfl (show (0 : BitVec 3).toNat < 1 from by decide) h.1.1 h.1.2 h.2⟩

theorem imulh : ∀ d a b m, Statement (.imulh d a b m) := by
  intro d a b m h
  simp only [Instr.wellFormed, Bool.and_eq_true] at h
  exact ⟨⟨.a, .w32, .w32, .w32, true, 2⟩, shapeOf_a false 0x03 _ _ _ _ (by decide) rfl, Sys2Proof.Shape.accepts_a _ _ d a b rfl rfl rfl rfl (show m.code.toNat < 2 from by cases m <;> decide) h.1.1 h.1.2 h.2⟩

theorem imad : ∀ d a b, Statement (.imad d a b) := by
  intro d a b h
  simp only [Instr.wellFormed, Bool.and_eq_true] at h
  exact ⟨⟨.a, .w32, .w32, .w32, true, 1⟩, shapeOf_a false 0x04 _ _ _ _ (by decide) rfl, Sys2Proof.Shape.accepts_a _ _ d a b rfl rfl rfl rfl (show (0 : BitVec 3).toNat < 1 from by decide) h.1.1 h.1.2 h.2⟩

theorem idiv : ∀ d a b m, Statement (.idiv d a b m) := by
  intro d a b m h
  simp only [Instr.wellFormed, Bool.and_eq_true] at h
  exact ⟨⟨.a, .w32, .w32, .w32, true, 2⟩, shapeOf_a false 0x05 _ _ _ _ (by decide) rfl, Sys2Proof.Shape.accepts_a _ _ d a b rfl rfl rfl rfl (show m.code.toNat < 2 from by cases m <;> decide) h.1.1 h.1.2 h.2⟩

theorem irem : ∀ d a b m, Statement (.irem d a b m) := by
  intro d a b m h
  simp only [Instr.wellFormed, Bool.and_eq_true] at h
  exact ⟨⟨.a, .w32, .w32, .w32, true, 2⟩, shapeOf_a false 0x06 _ _ _ _ (by decide) rfl, Sys2Proof.Shape.accepts_a _ _ d a b rfl rfl rfl rfl (show m.code.toNat < 2 from by cases m <;> decide) h.1.1 h.1.2 h.2⟩

theorem imin : ∀ d a b m, Statement (.imin d a b m) := by
  intro d a b m h
  simp only [Instr.wellFormed, Bool.and_eq_true] at h
  exact ⟨⟨.a, .w32, .w32, .w32, true, 2⟩, shapeOf_a false 0x07 _ _ _ _ (by decide) rfl, Sys2Proof.Shape.accepts_a _ _ d a b rfl rfl rfl rfl (show m.code.toNat < 2 from by cases m <;> decide) h.1.1 h.1.2 h.2⟩

theorem imax : ∀ d a b m, Statement (.imax d a b m) := by
  intro d a b m h
  simp only [Instr.wellFormed, Bool.and_eq_true] at h
  exact ⟨⟨.a, .w32, .w32, .w32, true, 2⟩, shapeOf_a false 0x08 _ _ _ _ (by decide) rfl, Sys2Proof.Shape.accepts_a _ _ d a b rfl rfl rfl rfl (show m.code.toNat < 2 from by cases m <;> decide) h.1.1 h.1.2 h.2⟩

theorem iabs : ∀ d a, Statement (.iabs d a) := by
  intro d a h
  simp only [Instr.wellFormed, Bool.and_eq_true] at h
  exact ⟨⟨.a, .w32, .w32, .no, true, 1⟩, shapeOf_a false 0x09 _ _ _ _ (by decide) rfl, Sys2Proof.Shape.accepts_a _ _ d a .zero rfl rfl rfl rfl (show (0 : BitVec 3).toNat < 1 from by decide) h.1 h.2 rfl⟩

theorem dadd : ∀ d a b, Statement (.dadd d a b) := by
  intro d a b h
  simp only [Instr.wellFormed, Bool.and_eq_true] at h
  exact ⟨⟨.a, .w64, .w64, .w64, true, 1⟩, shapeOf_a false 0x0A _ _ _ _ (by decide) rfl, Sys2Proof.Shape.accepts_a _ _ d a b rfl rfl rfl rfl (show (0 : BitVec 3).toNat < 1 from by decide) h.1.1 h.1.2 h.2⟩

theorem dsub : ∀ d a b, Statement (.dsub d a b) := by
  intro d a b h
  simp only [Instr.wellFormed, Bool.and_eq_true] at h
  exact ⟨⟨.a, .w64, .w64, .w64, true, 1⟩, shapeOf_a false 0x0B _ _ _ _ (by decide) rfl, Sys2Proof.Shape.accepts_a _ _ d a b rfl rfl rfl rfl (show (0 : BitVec 3).toNat < 1 from by decide) h.1.1 h.1.2 h.2⟩

theorem dmul : ∀ d a b, Statement (.dmul d a b) := by
  intro d a b h
  simp only [Instr.wellFormed, Bool.and_eq_true] at h
  exact ⟨⟨.a, .w64, .w64, .w64, true, 1⟩, shapeOf_a false 0x0C _ _ _ _ (by decide) rfl, Sys2Proof.Shape.accepts_a _ _ d a b rfl rfl rfl rfl (show (0 : BitVec 3).toNat < 1 from by decide) h.1.1 h.1.2 h.2⟩

theorem dneg : ∀ d a, Statement (.dneg d a) := by
  intro d a h
  simp only [Instr.wellFormed, Bool.and_eq_true] at h
  exact ⟨⟨.a, .w64, .w64, .no, true, 1⟩, shapeOf_a false 0x0D _ _ _ _ (by decide) rfl, Sys2Proof.Shape.accepts_a _ _ d a .zero rfl rfl rfl rfl (show (0 : BitVec 3).toNat < 1 from by decide) h.1 h.2 rfl⟩

theorem and : ∀ d a b, Statement (.and d a b) := by
  intro d a b h
  simp only [Instr.wellFormed, Bool.and_eq_true] at h
  exact ⟨⟨.a, .w32, .w32, .w32, true, 1⟩, shapeOf_a false 0x0E _ _ _ _ (by decide) rfl, Sys2Proof.Shape.accepts_a _ _ d a b rfl rfl rfl rfl (show (0 : BitVec 3).toNat < 1 from by decide) h.1.1 h.1.2 h.2⟩

theorem or : ∀ d a b, Statement (.or d a b) := by
  intro d a b h
  simp only [Instr.wellFormed, Bool.and_eq_true] at h
  exact ⟨⟨.a, .w32, .w32, .w32, true, 1⟩, shapeOf_a false 0x0F _ _ _ _ (by decide) rfl, Sys2Proof.Shape.accepts_a _ _ d a b rfl rfl rfl rfl (show (0 : BitVec 3).toNat < 1 from by decide) h.1.1 h.1.2 h.2⟩

theorem xor : ∀ d a b, Statement (.xor d a b) := by
  intro d a b h
  simp only [Instr.wellFormed, Bool.and_eq_true] at h
  exact ⟨⟨.a, .w32, .w32, .w32, true, 1⟩, shapeOf_a false 0x10 _ _ _ _ (by decide) rfl, Sys2Proof.Shape.accepts_a _ _ d a b rfl rfl rfl rfl (show (0 : BitVec 3).toNat < 1 from by decide) h.1.1 h.1.2 h.2⟩

theorem andn : ∀ d a b, Statement (.andn d a b) := by
  intro d a b h
  simp only [Instr.wellFormed, Bool.and_eq_true] at h
  exact ⟨⟨.a, .w32, .w32, .w32, true, 1⟩, shapeOf_a false 0x11 _ _ _ _ (by decide) rfl, Sys2Proof.Shape.accepts_a _ _ d a b rfl rfl rfl rfl (show (0 : BitVec 3).toNat < 1 from by decide) h.1.1 h.1.2 h.2⟩

theorem not : ∀ d a, Statement (.not d a) := by
  intro d a h
  simp only [Instr.wellFormed, Bool.and_eq_true] at h
  exact ⟨⟨.a, .w32, .w32, .no, true, 1⟩, shapeOf_a false 0x12 _ _ _ _ (by decide) rfl, Sys2Proof.Shape.accepts_a _ _ d a .zero rfl rfl rfl rfl (show (0 : BitVec 3).toNat < 1 from by decide) h.1 h.2 rfl⟩

theorem shl : ∀ d a b, Statement (.shl d a b) := by
  intro d a b h
  simp only [Instr.wellFormed, Bool.and_eq_true] at h
  exact ⟨⟨.a, .w32, .w32, .w32, true, 1⟩, shapeOf_a false 0x13 _ _ _ _ (by decide) rfl, Sys2Proof.Shape.accepts_a _ _ d a b rfl rfl rfl rfl (show (0 : BitVec 3).toNat < 1 from by decide) h.1.1 h.1.2 h.2⟩

theorem shr : ∀ d a b, Statement (.shr d a b) := by
  intro d a b h
  simp only [Instr.wellFormed, Bool.and_eq_true] at h
  exact ⟨⟨.a, .w32, .w32, .w32, true, 1⟩, shapeOf_a false 0x14 _ _ _ _ (by decide) rfl, Sys2Proof.Shape.accepts_a _ _ d a b rfl rfl rfl rfl (show (0 : BitVec 3).toNat < 1 from by decide) h.1.1 h.1.2 h.2⟩

theorem sar : ∀ d a b, Statement (.sar d a b) := by
  intro d a b h
  simp only [Instr.wellFormed, Bool.and_eq_true] at h
  exact ⟨⟨.a, .w32, .w32, .w32, true, 1⟩, shapeOf_a false 0x15 _ _ _ _ (by decide) rfl, Sys2Proof.Shape.accepts_a _ _ d a b rfl rfl rfl rfl (show (0 : BitVec 3).toNat < 1 from by decide) h.1.1 h.1.2 h.2⟩

theorem rol : ∀ d a b, Statement (.rol d a b) := by
  intro d a b h
  simp only [Instr.wellFormed, Bool.and_eq_true] at h
  exact ⟨⟨.a, .w32, .w32, .w32, true, 1⟩, shapeOf_a false 0x16 _ _ _ _ (by decide) rfl, Sys2Proof.Shape.accepts_a _ _ d a b rfl rfl rfl rfl (show (0 : BitVec 3).toNat < 1 from by decide) h.1.1 h.1.2 h.2⟩

theorem ror : ∀ d a b, Statement (.ror d a b) := by
  intro d a b h
  simp only [Instr.wellFormed, Bool.and_eq_true] at h
  exact ⟨⟨.a, .w32, .w32, .w32, true, 1⟩, shapeOf_a false 0x17 _ _ _ _ (by decide) rfl, Sys2Proof.Shape.accepts_a _ _ d a b rfl rfl rfl rfl (show (0 : BitVec 3).toNat < 1 from by decide) h.1.1 h.1.2 h.2⟩

theorem bfx : ∀ d a b m, Statement (.bfx d a b m) := by
  intro d a b m h
  simp only [Instr.wellFormed, Bool.and_eq_true] at h
  exact ⟨⟨.a, .w32, .w32, .w32, true, 2⟩, shapeOf_a false 0x18 _ _ _ _ (by decide) rfl, Sys2Proof.Shape.accepts_a _ _ d a b rfl rfl rfl rfl (show m.code.toNat < 2 from by cases m <;> decide) h.1.1 h.1.2 h.2⟩

theorem bfi : ∀ d a b, Statement (.bfi d a b) := by
  intro d a b h
  simp only [Instr.wellFormed, Bool.and_eq_true] at h
  exact ⟨⟨.a, .w32, .w32, .w32, true, 1⟩, shapeOf_a false 0x19 _ _ _ _ (by decide) rfl, Sys2Proof.Shape.accepts_a _ _ d a b rfl rfl rfl rfl (show (0 : BitVec 3).toNat < 1 from by decide) h.1.1 h.1.2 h.2⟩

theorem popc : ∀ d a, Statement (.popc d a) := by
  intro d a h
  simp only [Instr.wellFormed, Bool.and_eq_true] at h
  exact ⟨⟨.a, .w32, .w32, .no, true, 1⟩, shapeOf_a false 0x1A _ _ _ _ (by decide) rfl, Sys2Proof.Shape.accepts_a _ _ d a .zero rfl rfl rfl rfl (show (0 : BitVec 3).toNat < 1 from by decide) h.1 h.2 rfl⟩

theorem clz : ∀ d a, Statement (.clz d a) := by
  intro d a h
  simp only [Instr.wellFormed, Bool.and_eq_true] at h
  exact ⟨⟨.a, .w32, .w32, .no, true, 1⟩, shapeOf_a false 0x1B _ _ _ _ (by decide) rfl, Sys2Proof.Shape.accepts_a _ _ d a .zero rfl rfl rfl rfl (show (0 : BitVec 3).toNat < 1 from by decide) h.1 h.2 rfl⟩

theorem ctz : ∀ d a, Statement (.ctz d a) := by
  intro d a h
  simp only [Instr.wellFormed, Bool.and_eq_true] at h
  exact ⟨⟨.a, .w32, .w32, .no, true, 1⟩, shapeOf_a false 0x1C _ _ _ _ (by decide) rfl, Sys2Proof.Shape.accepts_a _ _ d a .zero rfl rfl rfl rfl (show (0 : BitVec 3).toNat < 1 from by decide) h.1 h.2 rfl⟩

theorem brev : ∀ d a, Statement (.brev d a) := by
  intro d a h
  simp only [Instr.wellFormed, Bool.and_eq_true] at h
  exact ⟨⟨.a, .w32, .w32, .no, true, 1⟩, shapeOf_a false 0x1D _ _ _ _ (by decide) rfl, Sys2Proof.Shape.accepts_a _ _ d a .zero rfl rfl rfl rfl (show (0 : BitVec 3).toNat < 1 from by decide) h.1 h.2 rfl⟩

theorem dshl : ∀ d a b, Statement (.dshl d a b) := by
  intro d a b h
  simp only [Instr.wellFormed, Bool.and_eq_true] at h
  exact ⟨⟨.a, .w64, .w64, .w32, true, 1⟩, shapeOf_a false 0x1E _ _ _ _ (by decide) rfl, Sys2Proof.Shape.accepts_a _ _ d a b rfl rfl rfl rfl (show (0 : BitVec 3).toNat < 1 from by decide) h.1.1 h.1.2 h.2⟩

theorem dshr : ∀ d a b m, Statement (.dshr d a b m) := by
  intro d a b m h
  simp only [Instr.wellFormed, Bool.and_eq_true] at h
  exact ⟨⟨.a, .w64, .w64, .w32, true, 2⟩, shapeOf_a false 0x1F _ _ _ _ (by decide) rfl, Sys2Proof.Shape.accepts_a _ _ d a b rfl rfl rfl rfl (show m.code.toNat < 2 from by cases m <;> decide) h.1.1 h.1.2 h.2⟩

theorem icmp : ∀ d a b m, Statement (.icmp d a b m) := by
  intro d a b m h
  simp only [Instr.wellFormed, Bool.and_eq_true] at h
  exact ⟨⟨.a, .w32, .w32, .w32, true, 6⟩, shapeOf_a false 0x20 _ _ _ _ (by decide) rfl, Sys2Proof.Shape.accepts_a _ _ d a b rfl rfl rfl rfl (show m.code.toNat < 6 from by cases m <;> decide) h.1.1 h.1.2 h.2⟩

theorem dcmp : ∀ d a b m, Statement (.dcmp d a b m) := by
  intro d a b m h
  simp only [Instr.wellFormed, Bool.and_eq_true] at h
  exact ⟨⟨.a, .w32, .w64, .w64, true, 6⟩, shapeOf_a false 0x21 _ _ _ _ (by decide) rfl, Sys2Proof.Shape.accepts_a _ _ d a b rfl rfl rfl rfl (show m.code.toNat < 6 from by cases m <;> decide) h.1.1 h.1.2 h.2⟩

theorem sel : ∀ d a b, Statement (.sel d a b) := by
  intro d a b h
  simp only [Instr.wellFormed, Bool.and_eq_true] at h
  exact ⟨⟨.a, .w32, .w32, .w32, true, 1⟩, shapeOf_a false 0x22 _ _ _ _ (by decide) rfl, Sys2Proof.Shape.accepts_a _ _ d a b rfl rfl rfl rfl (show (0 : BitVec 3).toNat < 1 from by decide) h.1.1 h.1.2 h.2⟩

theorem mov : ∀ d a, Statement (.mov d a) := by
  intro d a h
  simp only [Instr.wellFormed, Bool.and_eq_true] at h
  exact ⟨⟨.a, .w32, .w32, .no, true, 1⟩, shapeOf_a false 0x23 _ _ _ _ (by decide) rfl, Sys2Proof.Shape.accepts_a _ _ d a .zero rfl rfl rfl rfl (show (0 : BitVec 3).toNat < 1 from by decide) h.1 h.2 rfl⟩

theorem dmov : ∀ d a, Statement (.dmov d a) := by
  intro d a h
  simp only [Instr.wellFormed, Bool.and_eq_true] at h
  exact ⟨⟨.a, .w64, .w64, .no, true, 1⟩, shapeOf_a false 0x24 _ _ _ _ (by decide) rfl, Sys2Proof.Shape.accepts_a _ _ d a .zero rfl rfl rfl rfl (show (0 : BitVec 3).toNat < 1 from by decide) h.1 h.2 rfl⟩

theorem sread : ∀ d imm, Statement (.sread d imm) := by
  intro d imm h
  simp only [Instr.wellFormed] at h
  by_cases hi : imm = 18
  · subst hi
    exact ⟨⟨.j, .w64, .no, .no, true, 8⟩, by simp [shapeOf, rawJ_team, rawJ_op], Sys2Proof.Shape.accepts_jd _ _ d rfl rfl rfl h⟩
  · rw [if_neg hi] at h
    exact ⟨⟨.j, .w32, .no, .no, true, 8⟩, by
      have hi' : ¬ imm = 18#17 := hi
      simp [shapeOf, rawJ_team, rawJ_op, hi', laneShape, laneShape2], Sys2Proof.Shape.accepts_jd _ _ d rfl rfl rfl h⟩

theorem swrite : ∀ a imm, Statement (.swrite a imm) := by
  intro a imm h
  simp only [Instr.wellFormed] at h
  exact ⟨⟨.j, .w32, .no, .no, false, 8⟩, shapeOf_rawJ false 0x26 _ _ (by decide) rfl, Sys2Proof.Shape.accepts_ja _ _ a rfl rfl rfl rfl (Sys2Proof.Src.fitsJ_not_literal _ _ h) (Sys2Proof.Src.fitsJ_fits _ _ h)⟩

theorem cvtif : ∀ d a m, Statement (.cvtif d a m) := by
  intro d a m h
  simp only [Instr.wellFormed, Bool.and_eq_true] at h
  exact ⟨⟨.a, .w32, .w32, .no, true, 8⟩, shapeOf_a false 0x27 _ _ _ _ (by decide) rfl, Sys2Proof.Shape.accepts_a _ _ d a .zero rfl rfl rfl rfl (show m.code.toNat < 8 from by cases m <;> decide) h.1 h.2 rfl⟩

theorem cvtfi : ∀ d a m, Statement (.cvtfi d a m) := by
  intro d a m h
  simp only [Instr.wellFormed, Bool.and_eq_true] at h
  exact ⟨⟨.a, .w32, .w32, .no, true, 8⟩, shapeOf_a false 0x28 _ _ _ _ (by decide) rfl, Sys2Proof.Shape.accepts_a _ _ d a .zero rfl rfl rfl rfl (show m.code.toNat < 8 from by cases m <;> decide) h.1 h.2 rfl⟩

theorem cvtdf : ∀ d a m, Statement (.cvtdf d a m) := by
  intro d a m h
  simp only [Instr.wellFormed, Bool.and_eq_true] at h
  exact ⟨⟨.a, .w32, .w64, .no, true, 8⟩, shapeOf_a false 0x29 _ _ _ _ (by decide) rfl, Sys2Proof.Shape.accepts_a _ _ d a .zero rfl rfl rfl rfl (show m.code.toNat < 8 from by cases m <;> decide) h.1 h.2 rfl⟩

theorem cvtfd : ∀ d a m, Statement (.cvtfd d a m) := by
  intro d a m h
  simp only [Instr.wellFormed, Bool.and_eq_true] at h
  exact ⟨⟨.a, .w64, .w32, .no, true, 8⟩, shapeOf_a false 0x2A _ _ _ _ (by decide) rfl, Sys2Proof.Shape.accepts_a _ _ d a .zero rfl rfl rfl rfl (show m.code.toNat < 8 from by cases m <;> decide) h.1 h.2 rfl⟩

theorem ext : ∀ d a m, Statement (.ext d a m) := by
  intro d a m h
  simp only [Instr.wellFormed, Bool.and_eq_true] at h
  exact ⟨⟨.a, .w32, .w32, .no, true, 4⟩, shapeOf_a false 0x2B _ _ _ _ (by decide) rfl, Sys2Proof.Shape.accepts_a _ _ d a .zero rfl rfl rfl rfl (show m.code.toNat < 4 from by cases m <;> decide) h.1 h.2 rfl⟩

theorem dext : ∀ d a m, Statement (.dext d a m) := by
  intro d a m h
  simp only [Instr.wellFormed, Bool.and_eq_true] at h
  exact ⟨⟨.a, .w64, .w32, .no, true, 2⟩, shapeOf_a false 0x2C _ _ _ _ (by decide) rfl, Sys2Proof.Shape.accepts_a _ _ d a .zero rfl rfl rfl rfl (show m.code.toNat < 2 from by cases m <;> decide) h.1 h.2 rfl⟩

theorem ldi : ∀ d imm, Statement (.ldi d imm) := by
  intro d imm h
  simp only [Instr.wellFormed] at h
  exact ⟨⟨.j, .w32, .no, .no, true, 8⟩, shapeOf_rawJ false 0x2D _ _ (by decide) rfl, Sys2Proof.Shape.accepts_jd _ _ d rfl rfl rfl h⟩

theorem alwr : ∀ d a, Statement (.alwr d a) := by
  intro d a h
  simp only [Instr.wellFormed, Bool.and_eq_true] at h
  exact ⟨⟨.a, .w32, .w32, .no, true, 1⟩, shapeOf_a false 0x2E _ _ _ _ (by decide) rfl, Sys2Proof.Shape.accepts_a _ _ d a .zero rfl rfl rfl rfl (show (0 : BitVec 3).toNat < 1 from by decide) h.1 h.2 rfl⟩

theorem bra : ∀ imm, Statement (.bra imm) := by
  intro imm h
  exact ⟨⟨.j, .no, .no, .no, false, 8⟩, shapeOf_rawJ false 0x30 _ _ (by decide) rfl, Sys2Proof.Shape.accepts_jn _ _ rfl rfl rfl⟩

theorem bnz : ∀ a imm, Statement (.bnz a imm) := by
  intro a imm h
  simp only [Instr.wellFormed] at h
  exact ⟨⟨.j, .w32, .no, .no, false, 8⟩, shapeOf_rawJ false 0x31 _ _ (by decide) rfl, Sys2Proof.Shape.accepts_ja _ _ a rfl rfl rfl rfl (Sys2Proof.Src.fitsJ_not_literal _ _ h) (Sys2Proof.Src.fitsJ_fits _ _ h)⟩

theorem bz : ∀ a imm, Statement (.bz a imm) := by
  intro a imm h
  simp only [Instr.wellFormed] at h
  exact ⟨⟨.j, .w32, .no, .no, false, 8⟩, shapeOf_rawJ false 0x32 _ _ (by decide) rfl, Sys2Proof.Shape.accepts_ja _ _ a rfl rfl rfl rfl (Sys2Proof.Src.fitsJ_not_literal _ _ h) (Sys2Proof.Src.fitsJ_fits _ _ h)⟩

theorem call : ∀ imm, Statement (.call imm) := by
  intro imm h
  exact ⟨⟨.j, .no, .no, .no, false, 8⟩, shapeOf_rawJ false 0x33 _ _ (by decide) rfl, Sys2Proof.Shape.accepts_jn _ _ rfl rfl rfl⟩

theorem callr : ∀ a, Statement (.callr a) := by
  intro a h
  simp only [Instr.wellFormed] at h
  exact ⟨⟨.a, .no, .w32, .no, true, 1⟩, shapeOf_a false 0x34 _ _ _ _ (by decide) rfl, Sys2Proof.Shape.accepts_a _ _ .zero a .zero rfl rfl rfl rfl (show (0 : BitVec 3).toNat < 1 from by decide) rfl h rfl⟩

theorem jmpr : ∀ a, Statement (.jmpr a) := by
  intro a h
  simp only [Instr.wellFormed] at h
  exact ⟨⟨.a, .no, .w32, .no, true, 1⟩, shapeOf_a false 0x35 _ _ _ _ (by decide) rfl, Sys2Proof.Shape.accepts_a _ _ .zero a .zero rfl rfl rfl rfl (show (0 : BitVec 3).toNat < 1 from by decide) rfl h rfl⟩

theorem ret : Statement .ret := by
  intro h
  exact ⟨⟨.a, .no, .no, .no, true, 1⟩, shapeOf_a false 0x36 _ _ _ _ (by decide) rfl, Sys2Proof.Shape.accepts_a _ _ .zero .zero .zero rfl rfl rfl rfl (show (0 : BitVec 3).toNat < 1 from by decide) rfl rfl rfl⟩

theorem exit : Statement .exit := by
  intro h
  exact ⟨⟨.a, .no, .no, .no, true, 1⟩, shapeOf_a false 0x37 _ _ _ _ (by decide) rfl, Sys2Proof.Shape.accepts_a _ _ .zero .zero .zero rfl rfl rfl rfl (show (0 : BitVec 3).toNat < 1 from by decide) rfl rfl rfl⟩

theorem trap : ∀ imm, Statement (.trap imm) := by
  intro imm h
  exact ⟨⟨.j, .no, .no, .no, false, 8⟩, shapeOf_rawJ false 0x38 _ _ (by decide) rfl, Sys2Proof.Shape.accepts_jn _ _ rfl rfl rfl⟩

theorem bkpt : ∀ imm, Statement (.bkpt imm) := by
  intro imm h
  exact ⟨⟨.j, .no, .no, .no, false, 8⟩, shapeOf_rawJ false 0x39 _ _ (by decide) rfl, Sys2Proof.Shape.accepts_jn _ _ rfl rfl rfl⟩

theorem yield : Statement .yield := by
  intro h
  exact ⟨⟨.a, .no, .no, .no, true, 1⟩, shapeOf_a false 0x3A _ _ _ _ (by decide) rfl, Sys2Proof.Shape.accepts_a _ _ .zero .zero .zero rfl rfl rfl rfl (show (0 : BitVec 3).toNat < 1 from by decide) rfl rfl rfl⟩

theorem nop : Statement .nop := by
  intro h
  exact ⟨⟨.a, .no, .no, .no, true, 1⟩, shapeOf_a false 0x3B _ _ _ _ (by decide) rfl, Sys2Proof.Shape.accepts_a _ _ .zero .zero .zero rfl rfl rfl rfl (show (0 : BitVec 3).toNat < 1 from by decide) rfl rfl rfl⟩

theorem balw : ∀ a imm, Statement (.balw a imm) := by
  intro a imm h
  simp only [Instr.wellFormed] at h
  exact ⟨⟨.j, .w32, .no, .no, false, 8⟩, shapeOf_rawJ false 0x3C _ _ (by decide) rfl, Sys2Proof.Shape.accepts_ja _ _ a rfl rfl rfl rfl (Sys2Proof.Src.fitsJ_not_literal _ _ h) (Sys2Proof.Src.fitsJ_fits _ _ h)⟩

theorem fadd : ∀ d a b m, Statement (.fadd d a b m) := by
  intro d a b m h
  simp only [Instr.wellFormed, Bool.and_eq_true] at h
  exact ⟨⟨.a, .w32, .w32, .w32, true, 4⟩, shapeOf_a false 0x40 _ _ _ _ (by decide) rfl, Sys2Proof.Shape.accepts_a _ _ d a b rfl rfl rfl rfl (show m.code.toNat < 4 from by cases m <;> decide) h.1.1 h.1.2 h.2⟩

theorem fsub : ∀ d a b m, Statement (.fsub d a b m) := by
  intro d a b m h
  simp only [Instr.wellFormed, Bool.and_eq_true] at h
  exact ⟨⟨.a, .w32, .w32, .w32, true, 4⟩, shapeOf_a false 0x41 _ _ _ _ (by decide) rfl, Sys2Proof.Shape.accepts_a _ _ d a b rfl rfl rfl rfl (show m.code.toNat < 4 from by cases m <;> decide) h.1.1 h.1.2 h.2⟩

theorem fmul : ∀ d a b m, Statement (.fmul d a b m) := by
  intro d a b m h
  simp only [Instr.wellFormed, Bool.and_eq_true] at h
  exact ⟨⟨.a, .w32, .w32, .w32, true, 4⟩, shapeOf_a false 0x42 _ _ _ _ (by decide) rfl, Sys2Proof.Shape.accepts_a _ _ d a b rfl rfl rfl rfl (show m.code.toNat < 4 from by cases m <;> decide) h.1.1 h.1.2 h.2⟩

theorem fmin : ∀ d a b, Statement (.fmin d a b) := by
  intro d a b h
  simp only [Instr.wellFormed, Bool.and_eq_true] at h
  exact ⟨⟨.a, .w32, .w32, .w32, true, 1⟩, shapeOf_a false 0x43 _ _ _ _ (by decide) rfl, Sys2Proof.Shape.accepts_a _ _ d a b rfl rfl rfl rfl (show (0 : BitVec 3).toNat < 1 from by decide) h.1.1 h.1.2 h.2⟩

theorem fmax : ∀ d a b, Statement (.fmax d a b) := by
  intro d a b h
  simp only [Instr.wellFormed, Bool.and_eq_true] at h
  exact ⟨⟨.a, .w32, .w32, .w32, true, 1⟩, shapeOf_a false 0x44 _ _ _ _ (by decide) rfl, Sys2Proof.Shape.accepts_a _ _ d a b rfl rfl rfl rfl (show (0 : BitVec 3).toNat < 1 from by decide) h.1.1 h.1.2 h.2⟩

theorem fabs : ∀ d a, Statement (.fabs d a) := by
  intro d a h
  simp only [Instr.wellFormed, Bool.and_eq_true] at h
  exact ⟨⟨.a, .w32, .w32, .no, true, 1⟩, shapeOf_a false 0x45 _ _ _ _ (by decide) rfl, Sys2Proof.Shape.accepts_a _ _ d a .zero rfl rfl rfl rfl (show (0 : BitVec 3).toNat < 1 from by decide) h.1 h.2 rfl⟩

theorem fmac : ∀ d a b m, Statement (.fmac d a b m) := by
  intro d a b m h
  simp only [Instr.wellFormed, Bool.and_eq_true] at h
  exact ⟨⟨.a, .w32, .w32, .w32, true, 4⟩, shapeOf_a false 0x46 _ _ _ _ (by decide) rfl, Sys2Proof.Shape.accepts_a _ _ d a b rfl rfl rfl rfl (show m.code.toNat < 4 from by cases m <;> decide) h.1.1 h.1.2 h.2⟩

theorem fnmac : ∀ d a b m, Statement (.fnmac d a b m) := by
  intro d a b m h
  simp only [Instr.wellFormed, Bool.and_eq_true] at h
  exact ⟨⟨.a, .w32, .w32, .w32, true, 4⟩, shapeOf_a false 0x47 _ _ _ _ (by decide) rfl, Sys2Proof.Shape.accepts_a _ _ d a b rfl rfl rfl rfl (show m.code.toNat < 4 from by cases m <;> decide) h.1.1 h.1.2 h.2⟩

theorem fdiv : ∀ d a b m, Statement (.fdiv d a b m) := by
  intro d a b m h
  simp only [Instr.wellFormed, Bool.and_eq_true] at h
  exact ⟨⟨.a, .w32, .w32, .w32, true, 4⟩, shapeOf_a false 0x48 _ _ _ _ (by decide) rfl, Sys2Proof.Shape.accepts_a _ _ d a b rfl rfl rfl rfl (show m.code.toNat < 4 from by cases m <;> decide) h.1.1 h.1.2 h.2⟩

theorem fsqrt : ∀ d a m, Statement (.fsqrt d a m) := by
  intro d a m h
  simp only [Instr.wellFormed, Bool.and_eq_true] at h
  exact ⟨⟨.a, .w32, .w32, .no, true, 4⟩, shapeOf_a false 0x49 _ _ _ _ (by decide) rfl, Sys2Proof.Shape.accepts_a _ _ d a .zero rfl rfl rfl rfl (show m.code.toNat < 4 from by cases m <;> decide) h.1 h.2 rfl⟩

theorem frcp : ∀ d a, Statement (.frcp d a) := by
  intro d a h
  simp only [Instr.wellFormed, Bool.and_eq_true] at h
  exact ⟨⟨.a, .w32, .w32, .no, true, 1⟩, shapeOf_a false 0x4A _ _ _ _ (by decide) rfl, Sys2Proof.Shape.accepts_a _ _ d a .zero rfl rfl rfl rfl (show (0 : BitVec 3).toNat < 1 from by decide) h.1 h.2 rfl⟩

theorem frsq : ∀ d a, Statement (.frsq d a) := by
  intro d a h
  simp only [Instr.wellFormed, Bool.and_eq_true] at h
  exact ⟨⟨.a, .w32, .w32, .no, true, 1⟩, shapeOf_a false 0x4B _ _ _ _ (by decide) rfl, Sys2Proof.Shape.accepts_a _ _ d a .zero rfl rfl rfl rfl (show (0 : BitVec 3).toNat < 1 from by decide) h.1 h.2 rfl⟩

theorem fexp2 : ∀ d a, Statement (.fexp2 d a) := by
  intro d a h
  simp only [Instr.wellFormed, Bool.and_eq_true] at h
  exact ⟨⟨.a, .w32, .w32, .no, true, 1⟩, shapeOf_a false 0x4C _ _ _ _ (by decide) rfl, Sys2Proof.Shape.accepts_a _ _ d a .zero rfl rfl rfl rfl (show (0 : BitVec 3).toNat < 1 from by decide) h.1 h.2 rfl⟩

theorem flog2 : ∀ d a, Statement (.flog2 d a) := by
  intro d a h
  simp only [Instr.wellFormed, Bool.and_eq_true] at h
  exact ⟨⟨.a, .w32, .w32, .no, true, 1⟩, shapeOf_a false 0x4D _ _ _ _ (by decide) rfl, Sys2Proof.Shape.accepts_a _ _ d a .zero rfl rfl rfl rfl (show (0 : BitVec 3).toNat < 1 from by decide) h.1 h.2 rfl⟩

theorem fneg : ∀ d a, Statement (.fneg d a) := by
  intro d a h
  simp only [Instr.wellFormed, Bool.and_eq_true] at h
  exact ⟨⟨.a, .w32, .w32, .no, true, 1⟩, shapeOf_a false 0x4E _ _ _ _ (by decide) rfl, Sys2Proof.Shape.accepts_a _ _ d a .zero rfl rfl rfl rfl (show (0 : BitVec 3).toNat < 1 from by decide) h.1 h.2 rfl⟩

theorem fcmp : ∀ d a b m, Statement (.fcmp d a b m) := by
  intro d a b m h
  simp only [Instr.wellFormed, Bool.and_eq_true] at h
  exact ⟨⟨.a, .w32, .w32, .w32, true, 8⟩, shapeOf_a false 0x4F _ _ _ _ (by decide) rfl, Sys2Proof.Shape.accepts_a _ _ d a b rfl rfl rfl rfl (show m.code.toNat < 8 from by cases m <;> decide) h.1.1 h.1.2 h.2⟩

theorem fclass : ∀ d a, Statement (.fclass d a) := by
  intro d a h
  simp only [Instr.wellFormed, Bool.and_eq_true] at h
  exact ⟨⟨.a, .w32, .w32, .no, true, 1⟩, shapeOf_a false 0x50 _ _ _ _ (by decide) rfl, Sys2Proof.Shape.accepts_a _ _ d a .zero rfl rfl rfl rfl (show (0 : BitVec 3).toNat < 1 from by decide) h.1 h.2 rfl⟩

theorem frnd : ∀ d a m, Statement (.frnd d a m) := by
  intro d a m h
  simp only [Instr.wellFormed, Bool.and_eq_true] at h
  exact ⟨⟨.a, .w32, .w32, .no, true, 4⟩, shapeOf_a false 0x51 _ _ _ _ (by decide) rfl, Sys2Proof.Shape.accepts_a _ _ d a .zero rfl rfl rfl rfl (show m.code.toNat < 4 from by cases m <;> decide) h.1 h.2 rfl⟩

theorem cvtbf : ∀ d a m, Statement (.cvtbf d a m) := by
  intro d a m h
  simp only [Instr.wellFormed, Bool.and_eq_true] at h
  exact ⟨⟨.a, .w32, .w32, .no, true, 2⟩, shapeOf_a false 0x52 _ _ _ _ (by decide) rfl, Sys2Proof.Shape.accepts_a _ _ d a .zero rfl rfl rfl rfl (show m.code.toNat < 2 from by cases m <;> decide) h.1 h.2 rfl⟩

theorem cvtfb : ∀ d a, Statement (.cvtfb d a) := by
  intro d a h
  simp only [Instr.wellFormed, Bool.and_eq_true] at h
  exact ⟨⟨.a, .w32, .w32, .no, true, 1⟩, shapeOf_a false 0x53 _ _ _ _ (by decide) rfl, Sys2Proof.Shape.accepts_a _ _ d a .zero rfl rfl rfl rfl (show (0 : BitVec 3).toNat < 1 from by decide) h.1 h.2 rfl⟩

theorem cvte4 : ∀ d a m, Statement (.cvte4 d a m) := by
  intro d a m h
  simp only [Instr.wellFormed, Bool.and_eq_true] at h
  exact ⟨⟨.a, .w32, .w32, .no, true, 2⟩, shapeOf_a false 0x54 _ _ _ _ (by decide) rfl, Sys2Proof.Shape.accepts_a _ _ d a .zero rfl rfl rfl rfl (show m.code.toNat < 2 from by cases m <;> decide) h.1 h.2 rfl⟩

theorem cvte5 : ∀ d a m, Statement (.cvte5 d a m) := by
  intro d a m h
  simp only [Instr.wellFormed, Bool.and_eq_true] at h
  exact ⟨⟨.a, .w32, .w32, .no, true, 2⟩, shapeOf_a false 0x55 _ _ _ _ (by decide) rfl, Sys2Proof.Shape.accepts_a _ _ d a .zero rfl rfl rfl rfl (show m.code.toNat < 2 from by cases m <;> decide) h.1 h.2 rfl⟩

theorem cvt4f : ∀ d a, Statement (.cvt4f d a) := by
  intro d a h
  simp only [Instr.wellFormed, Bool.and_eq_true] at h
  exact ⟨⟨.a, .w32, .w32, .no, true, 1⟩, shapeOf_a false 0x56 _ _ _ _ (by decide) rfl, Sys2Proof.Shape.accepts_a _ _ d a .zero rfl rfl rfl rfl (show (0 : BitVec 3).toNat < 1 from by decide) h.1 h.2 rfl⟩

theorem cvt5f : ∀ d a, Statement (.cvt5f d a) := by
  intro d a h
  simp only [Instr.wellFormed, Bool.and_eq_true] at h
  exact ⟨⟨.a, .w32, .w32, .no, true, 1⟩, shapeOf_a false 0x57 _ _ _ _ (by decide) rfl, Sys2Proof.Shape.accepts_a _ _ d a .zero rfl rfl rfl rfl (show (0 : BitVec 3).toNat < 1 from by decide) h.1 h.2 rfl⟩

theorem qnt8 : ∀ d a b m, Statement (.qnt8 d a b m) := by
  intro d a b m h
  simp only [Instr.wellFormed, Bool.and_eq_true] at h
  exact ⟨⟨.a, .w32, .w32, .w32, true, 2⟩, shapeOf_a false 0x58 _ _ _ _ (by decide) rfl, Sys2Proof.Shape.accepts_a _ _ d a b rfl rfl rfl rfl (show m.code.toNat < 2 from by cases m <;> decide) h.1.1 h.1.2 h.2⟩

theorem dq8 : ∀ d a b, Statement (.dq8 d a b) := by
  intro d a b h
  simp only [Instr.wellFormed, Bool.and_eq_true] at h
  exact ⟨⟨.a, .w32, .w32, .w32, true, 1⟩, shapeOf_a false 0x59 _ _ _ _ (by decide) rfl, Sys2Proof.Shape.accepts_a _ _ d a b rfl rfl rfl rfl (show (0 : BitVec 3).toNat < 1 from by decide) h.1.1 h.1.2 h.2⟩

theorem qnt4 : ∀ d a b m, Statement (.qnt4 d a b m) := by
  intro d a b m h
  simp only [Instr.wellFormed, Bool.and_eq_true] at h
  exact ⟨⟨.a, .w32, .w32, .w32, true, 2⟩, shapeOf_a false 0x5A _ _ _ _ (by decide) rfl, Sys2Proof.Shape.accepts_a _ _ d a b rfl rfl rfl rfl (show m.code.toNat < 2 from by cases m <;> decide) h.1.1 h.1.2 h.2⟩

theorem dq4 : ∀ d a b, Statement (.dq4 d a b) := by
  intro d a b h
  simp only [Instr.wellFormed, Bool.and_eq_true] at h
  exact ⟨⟨.a, .w32, .w32, .w32, true, 1⟩, shapeOf_a false 0x5B _ _ _ _ (by decide) rfl, Sys2Proof.Shape.accepts_a _ _ d a b rfl rfl rfl rfl (show (0 : BitVec 3).toNat < 1 from by decide) h.1.1 h.1.2 h.2⟩

theorem bpack : ∀ d a m, Statement (.bpack d a m) := by
  intro d a m h
  simp only [Instr.wellFormed, Bool.and_eq_true] at h
  exact ⟨⟨.a, .w32, .w32, .no, true, 4⟩, shapeOf_a false 0x5C _ _ _ _ (by decide) rfl, Sys2Proof.Shape.accepts_a _ _ d a .zero rfl rfl rfl rfl (show m.code.toNat < 4 from by cases m <;> decide) h.1 h.2 rfl⟩

theorem bunpk : ∀ d a m, Statement (.bunpk d a m) := by
  intro d a m h
  simp only [Instr.wellFormed, Bool.and_eq_true] at h
  exact ⟨⟨.a, .w32, .w32, .no, true, 8⟩, shapeOf_a false 0x5D _ _ _ _ (by decide) rfl, Sys2Proof.Shape.accepts_a _ _ d a .zero rfl rfl rfl rfl (show m.code.toNat < 8 from by cases m <;> decide) h.1 h.2 rfl⟩

theorem fscl : ∀ d a b m, Statement (.fscl d a b m) := by
  intro d a b m h
  simp only [Instr.wellFormed, Bool.and_eq_true] at h
  exact ⟨⟨.a, .w32, .w32, .w32, true, 4⟩, shapeOf_a false 0x5E _ _ _ _ (by decide) rfl, Sys2Proof.Shape.accepts_a _ _ d a b rfl rfl rfl rfl (show m.code.toNat < 4 from by cases m <;> decide) h.1.1 h.1.2 h.2⟩

theorem setc : ∀ a, Statement (.setc a) := by
  intro a h
  simp only [Instr.wellFormed] at h
  exact ⟨⟨.a, .no, .w64, .no, true, 1⟩, shapeOf_a false 0x60 _ _ _ _ (by decide) rfl, Sys2Proof.Shape.accepts_a _ _ .zero a .zero rfl rfl rfl rfl (show (0 : BitVec 3).toNat < 1 from by decide) rfl h rfl⟩

theorem join : Statement .join := by
  intro h
  exact ⟨⟨.a, .no, .no, .no, true, 1⟩, shapeOf_a false 0x61 _ _ _ _ (by decide) rfl, Sys2Proof.Shape.accepts_a _ _ .zero .zero .zero rfl rfl rfl rfl (show (0 : BitVec 3).toNat < 1 from by decide) rfl rfl rfl⟩

theorem shfl : ∀ d a b m, Statement (.shfl d a b m) := by
  intro d a b m h
  simp only [Instr.wellFormed, Bool.and_eq_true] at h
  exact ⟨⟨.a, .w32, .w32, .w32, true, 4⟩, shapeOf_a false 0x62 _ _ _ _ (by decide) rfl, Sys2Proof.Shape.accepts_a _ _ d a b rfl rfl rfl rfl (show m.code.toNat < 4 from by cases m <;> decide) h.1.1 h.1.2 h.2⟩

theorem vote : ∀ d a m, Statement (.vote d a m) := by
  intro d a m h
  simp only [Instr.wellFormed, Bool.and_eq_true] at h
  exact ⟨⟨.a, .w32, .w32, .no, true, 4⟩, shapeOf_a false 0x63 _ _ _ _ (by decide) rfl, Sys2Proof.Shape.accepts_a _ _ d a .zero rfl rfl rfl rfl (show m.code.toNat < 4 from by cases m <;> decide) h.1 h.2 rfl⟩

theorem sift : ∀ d a, Statement (.sift d a) := by
  intro d a h
  simp only [Instr.wellFormed, Bool.and_eq_true] at h
  exact ⟨⟨.a, .w64, .w32, .no, true, 1⟩, shapeOf_a false 0x64 _ _ _ _ (by decide) rfl, Sys2Proof.Shape.accepts_a _ _ d a .zero rfl rfl rfl rfl (show (0 : BitVec 3).toNat < 1 from by decide) h.1 h.2 rfl⟩

theorem credf : ∀ d a m, Statement (.credf d a m) := by
  intro d a m h
  simp only [Instr.wellFormed, Bool.and_eq_true] at h
  exact ⟨⟨.a, .w32, .w32, .no, true, 3⟩, shapeOf_a false 0x65 _ _ _ _ (by decide) rfl, Sys2Proof.Shape.accepts_a _ _ d a .zero rfl rfl rfl rfl (show m.code.toNat < 3 from by cases m <;> decide) h.1 h.2 rfl⟩

theorem credi : ∀ d a m, Statement (.credi d a m) := by
  intro d a m h
  simp only [Instr.wellFormed, Bool.and_eq_true] at h
  exact ⟨⟨.a, .w32, .w32, .no, true, 8⟩, shapeOf_a false 0x66 _ _ _ _ (by decide) rfl, Sys2Proof.Shape.accepts_a _ _ d a .zero rfl rfl rfl rfl (show m.code.toNat < 8 from by cases m <;> decide) h.1 h.2 rfl⟩

theorem ldw : ∀ d a b l, Statement (.ldw d a b l) := by
  intro d a b l h
  simp only [Instr.wellFormed, Bool.and_eq_true] at h
  exact ⟨⟨.a, .w32, .w64, .w32, true, 8⟩, shapeOf_a false 0x68 _ _ _ _ (by decide) rfl, Sys2Proof.Shape.accepts_a _ _ d a b rfl rfl rfl rfl (show (lblCode l).toNat < 8 from by revert l; decide) h.1.1 h.1.2 h.2⟩

theorem ldd : ∀ d a b l, Statement (.ldd d a b l) := by
  intro d a b l h
  simp only [Instr.wellFormed, Bool.and_eq_true] at h
  exact ⟨⟨.a, .w64, .w64, .w32, true, 8⟩, shapeOf_a false 0x69 _ _ _ _ (by decide) rfl, Sys2Proof.Shape.accepts_a _ _ d a b rfl rfl rfl rfl (show (lblCode l).toNat < 8 from by revert l; decide) h.1.1 h.1.2 h.2⟩

theorem ldh : ∀ d a b l, Statement (.ldh d a b l) := by
  intro d a b l h
  simp only [Instr.wellFormed, Bool.and_eq_true] at h
  exact ⟨⟨.a, .w32, .w64, .w32, true, 8⟩, shapeOf_a false 0x6A _ _ _ _ (by decide) rfl, Sys2Proof.Shape.accepts_a _ _ d a b rfl rfl rfl rfl (show (lblCode l).toNat < 8 from by revert l; decide) h.1.1 h.1.2 h.2⟩

theorem ldb : ∀ d a b l, Statement (.ldb d a b l) := by
  intro d a b l h
  simp only [Instr.wellFormed, Bool.and_eq_true] at h
  exact ⟨⟨.a, .w32, .w64, .w32, true, 8⟩, shapeOf_a false 0x6B _ _ _ _ (by decide) rfl, Sys2Proof.Shape.accepts_a _ _ d a b rfl rfl rfl rfl (show (lblCode l).toNat < 8 from by revert l; decide) h.1.1 h.1.2 h.2⟩

theorem stw : ∀ d a b l, Statement (.stw d a b l) := by
  intro d a b l h
  simp only [Instr.wellFormed, Bool.and_eq_true] at h
  exact ⟨⟨.a, .w32, .w64, .w32, true, 8⟩, shapeOf_a false 0x6C _ _ _ _ (by decide) rfl, Sys2Proof.Shape.accepts_a _ _ d a b rfl rfl rfl rfl (show (lblCode l).toNat < 8 from by revert l; decide) h.1.1 h.1.2 h.2⟩

theorem std : ∀ d a b l, Statement (.std d a b l) := by
  intro d a b l h
  simp only [Instr.wellFormed, Bool.and_eq_true] at h
  exact ⟨⟨.a, .w64, .w64, .w32, true, 8⟩, shapeOf_a false 0x6D _ _ _ _ (by decide) rfl, Sys2Proof.Shape.accepts_a _ _ d a b rfl rfl rfl rfl (show (lblCode l).toNat < 8 from by revert l; decide) h.1.1 h.1.2 h.2⟩

theorem sth : ∀ d a b l, Statement (.sth d a b l) := by
  intro d a b l h
  simp only [Instr.wellFormed, Bool.and_eq_true] at h
  exact ⟨⟨.a, .w32, .w64, .w32, true, 8⟩, shapeOf_a false 0x6E _ _ _ _ (by decide) rfl, Sys2Proof.Shape.accepts_a _ _ d a b rfl rfl rfl rfl (show (lblCode l).toNat < 8 from by revert l; decide) h.1.1 h.1.2 h.2⟩

theorem stb : ∀ d a b l, Statement (.stb d a b l) := by
  intro d a b l h
  simp only [Instr.wellFormed, Bool.and_eq_true] at h
  exact ⟨⟨.a, .w32, .w64, .w32, true, 8⟩, shapeOf_a false 0x6F _ _ _ _ (by decide) rfl, Sys2Proof.Shape.accepts_a _ _ d a b rfl rfl rfl rfl (show (lblCode l).toNat < 8 from by revert l; decide) h.1.1 h.1.2 h.2⟩

theorem lde : ∀ d a b l, Statement (.lde d a b l) := by
  intro d a b l h
  simp only [Instr.wellFormed, Bool.and_eq_true] at h
  exact ⟨⟨.a, .w32, .w64, .w32, true, 8⟩, shapeOf_a false 0x70 _ _ _ _ (by decide) rfl, Sys2Proof.Shape.accepts_a _ _ d a b rfl rfl rfl rfl (show (lblCode l).toNat < 8 from by revert l; decide) h.1.1 h.1.2 h.2⟩

theorem ldx : ∀ d a b, Statement (.ldx d a b) := by
  intro d a b h
  simp only [Instr.wellFormed, Bool.and_eq_true] at h
  exact ⟨⟨.a, .w32, .w64, .w64, true, 1⟩, shapeOf_a false 0x71 _ _ _ _ (by decide) rfl, Sys2Proof.Shape.accepts_a _ _ d a b rfl rfl rfl rfl (show (0 : BitVec 3).toNat < 1 from by decide) h.1.1 h.1.2 h.2⟩

theorem stx : ∀ d a b, Statement (.stx d a b) := by
  intro d a b h
  simp only [Instr.wellFormed, Bool.and_eq_true] at h
  exact ⟨⟨.a, .w32, .w64, .w64, true, 1⟩, shapeOf_a false 0x72 _ _ _ _ (by decide) rfl, Sys2Proof.Shape.accepts_a _ _ d a b rfl rfl rfl rfl (show (0 : BitVec 3).toNat < 1 from by decide) h.1.1 h.1.2 h.2⟩

theorem aadd : ∀ d a b l, Statement (.aadd d a b l) := by
  intro d a b l h
  simp only [Instr.wellFormed, Bool.and_eq_true] at h
  exact ⟨⟨.a, .w32, .w64, .w32, true, 8⟩, shapeOf_a false 0x73 _ _ _ _ (by decide) rfl, Sys2Proof.Shape.accepts_a _ _ d a b rfl rfl rfl rfl (show (lblCode l).toNat < 8 from by revert l; decide) h.1.1 h.1.2 h.2⟩

theorem amax : ∀ d a b l, Statement (.amax d a b l) := by
  intro d a b l h
  simp only [Instr.wellFormed, Bool.and_eq_true] at h
  exact ⟨⟨.a, .w32, .w64, .w32, true, 8⟩, shapeOf_a false 0x74 _ _ _ _ (by decide) rfl, Sys2Proof.Shape.accepts_a _ _ d a b rfl rfl rfl rfl (show (lblCode l).toNat < 8 from by revert l; decide) h.1.1 h.1.2 h.2⟩

theorem aor : ∀ d a b l, Statement (.aor d a b l) := by
  intro d a b l h
  simp only [Instr.wellFormed, Bool.and_eq_true] at h
  exact ⟨⟨.a, .w32, .w64, .w32, true, 8⟩, shapeOf_a false 0x75 _ _ _ _ (by decide) rfl, Sys2Proof.Shape.accepts_a _ _ d a b rfl rfl rfl rfl (show (lblCode l).toNat < 8 from by revert l; decide) h.1.1 h.1.2 h.2⟩

theorem axch : ∀ d a b l, Statement (.axch d a b l) := by
  intro d a b l h
  simp only [Instr.wellFormed, Bool.and_eq_true] at h
  exact ⟨⟨.a, .w32, .w64, .w32, true, 8⟩, shapeOf_a false 0x76 _ _ _ _ (by decide) rfl, Sys2Proof.Shape.accepts_a _ _ d a b rfl rfl rfl rfl (show (lblCode l).toNat < 8 from by revert l; decide) h.1.1 h.1.2 h.2⟩

theorem acas : ∀ d a b l, Statement (.acas d a b l) := by
  intro d a b l h
  simp only [Instr.wellFormed, Bool.and_eq_true] at h
  exact ⟨⟨.a, .w32, .w64, .w32, true, 8⟩, shapeOf_a false 0x77 _ _ _ _ (by decide) rfl, Sys2Proof.Shape.accepts_a _ _ d a b rfl rfl rfl rfl (show (lblCode l).toNat < 8 from by revert l; decide) h.1.1 h.1.2 h.2⟩

theorem aaddd : ∀ d a b l, Statement (.aaddd d a b l) := by
  intro d a b l h
  simp only [Instr.wellFormed, Bool.and_eq_true] at h
  exact ⟨⟨.a, .w64, .w64, .w64, true, 8⟩, shapeOf_a false 0x78 _ _ _ _ (by decide) rfl, Sys2Proof.Shape.accepts_a _ _ d a b rfl rfl rfl rfl (show (lblCode l).toNat < 8 from by revert l; decide) h.1.1 h.1.2 h.2⟩

theorem acasd : ∀ d a b l, Statement (.acasd d a b l) := by
  intro d a b l h
  simp only [Instr.wellFormed, Bool.and_eq_true] at h
  exact ⟨⟨.a, .w64, .w64, .w64, true, 8⟩, shapeOf_a false 0x79 _ _ _ _ (by decide) rfl, Sys2Proof.Shape.accepts_a _ _ d a b rfl rfl rfl rfl (show (lblCode l).toNat < 8 from by revert l; decide) h.1.1 h.1.2 h.2⟩

theorem fence : ∀ m, Statement (.fence m) := by
  intro m h
  exact ⟨⟨.a, .no, .no, .no, true, 4⟩, shapeOf_a false 0x7A _ _ _ _ (by decide) rfl, Sys2Proof.Shape.accepts_a _ _ .zero .zero .zero rfl rfl rfl rfl (show m.code.toNat < 4 from by cases m <;> decide) rfl rfl rfl⟩

theorem fencef : ∀ d a b l, Statement (.fencef d a b l) := by
  intro d a b l h
  simp only [Instr.wellFormed, Bool.and_eq_true] at h
  exact ⟨⟨.a, .w32, .w64, .w32, true, 8⟩, shapeOf_a false 0x7B _ _ _ _ (by decide) rfl, Sys2Proof.Shape.accepts_a _ _ d a b rfl rfl rfl rfl (show (lblCode l).toNat < 8 from by revert l; decide) h.1.1 h.1.2 h.2⟩

theorem waita : ∀ d a b l, Statement (.waita d a b l) := by
  intro d a b l h
  simp only [Instr.wellFormed, Bool.and_eq_true] at h
  exact ⟨⟨.a, .w32, .w64, .w32, true, 8⟩, shapeOf_a false 0x7C _ _ _ _ (by decide) rfl, Sys2Proof.Shape.accepts_a _ _ d a b rfl rfl rfl rfl (show (lblCode l).toNat < 8 from by revert l; decide) h.1.1 h.1.2 h.2⟩

theorem barv : ∀ d a b, Statement (.barv d a b) := by
  intro d a b h
  simp only [Instr.wellFormed, Bool.and_eq_true] at h
  exact ⟨⟨.a, .w32, .w32, .w32, true, 1⟩, shapeOf_a false 0x7D _ _ _ _ (by decide) rfl, Sys2Proof.Shape.accepts_a _ _ d a b rfl rfl rfl rfl (show (0 : BitVec 3).toNat < 1 from by decide) h.1.1 h.1.2 h.2⟩

theorem barw : ∀ a b, Statement (.barw a b) := by
  intro a b h
  simp only [Instr.wellFormed, Bool.and_eq_true] at h
  exact ⟨⟨.a, .no, .w32, .w32, true, 1⟩, shapeOf_a false 0x7E _ _ _ _ (by decide) rfl, Sys2Proof.Shape.accepts_a _ _ .zero a b rfl rfl rfl rfl (show (0 : BitVec 3).toNat < 1 from by decide) rfl h.1 h.2⟩

theorem amsg : ∀ d a b, Statement (.amsg d a b) := by
  intro d a b h
  simp only [Instr.wellFormed, Bool.and_eq_true] at h
  exact ⟨⟨.a, .w32, .w32, .w64, true, 1⟩, shapeOf_a false 0x7F _ _ _ _ (by decide) rfl, Sys2Proof.Shape.accepts_a _ _ d a b rfl rfl rfl rfl (show (0 : BitVec 3).toNat < 1 from by decide) h.1.1 h.1.2 h.2⟩

theorem teamIadd : ∀ d a b m, Statement (.teamIadd d a b m) := by
  intro d a b m h
  simp only [Instr.wellFormed, Bool.and_eq_true] at h
  exact ⟨⟨.a, .w32, .w32, .w32, true, 3⟩, shapeOf_a true 0x00 _ _ _ _ (by decide) rfl, Sys2Proof.Shape.accepts_a _ _ d a b rfl rfl rfl rfl (show m.code.toNat < 3 from by cases m <;> decide) h.1.1 h.1.2 h.2⟩

theorem teamIsub : ∀ d a b m, Statement (.teamIsub d a b m) := by
  intro d a b m h
  simp only [Instr.wellFormed, Bool.and_eq_true] at h
  exact ⟨⟨.a, .w32, .w32, .w32, true, 3⟩, shapeOf_a true 0x01 _ _ _ _ (by decide) rfl, Sys2Proof.Shape.accepts_a _ _ d a b rfl rfl rfl rfl (show m.code.toNat < 3 from by cases m <;> decide) h.1.1 h.1.2 h.2⟩

theorem teamImul : ∀ d a b, Statement (.teamImul d a b) := by
  intro d a b h
  simp only [Instr.wellFormed, Bool.and_eq_true] at h
  exact ⟨⟨.a, .w32, .w32, .w32, true, 1⟩, shapeOf_a true 0x02 _ _ _ _ (by decide) rfl, Sys2Proof.Shape.accepts_a _ _ d a b rfl rfl rfl rfl (show (0 : BitVec 3).toNat < 1 from by decide) h.1.1 h.1.2 h.2⟩

theorem teamImulh : ∀ d a b m, Statement (.teamImulh d a b m) := by
  intro d a b m h
  simp only [Instr.wellFormed, Bool.and_eq_true] at h
  exact ⟨⟨.a, .w32, .w32, .w32, true, 2⟩, shapeOf_a true 0x03 _ _ _ _ (by decide) rfl, Sys2Proof.Shape.accepts_a _ _ d a b rfl rfl rfl rfl (show m.code.toNat < 2 from by cases m <;> decide) h.1.1 h.1.2 h.2⟩

theorem teamImad : ∀ d a b, Statement (.teamImad d a b) := by
  intro d a b h
  simp only [Instr.wellFormed, Bool.and_eq_true] at h
  exact ⟨⟨.a, .w32, .w32, .w32, true, 1⟩, shapeOf_a true 0x04 _ _ _ _ (by decide) rfl, Sys2Proof.Shape.accepts_a _ _ d a b rfl rfl rfl rfl (show (0 : BitVec 3).toNat < 1 from by decide) h.1.1 h.1.2 h.2⟩

theorem teamIdiv : ∀ d a b m, Statement (.teamIdiv d a b m) := by
  intro d a b m h
  simp only [Instr.wellFormed, Bool.and_eq_true] at h
  exact ⟨⟨.a, .w32, .w32, .w32, true, 2⟩, shapeOf_a true 0x05 _ _ _ _ (by decide) rfl, Sys2Proof.Shape.accepts_a _ _ d a b rfl rfl rfl rfl (show m.code.toNat < 2 from by cases m <;> decide) h.1.1 h.1.2 h.2⟩

theorem teamIrem : ∀ d a b m, Statement (.teamIrem d a b m) := by
  intro d a b m h
  simp only [Instr.wellFormed, Bool.and_eq_true] at h
  exact ⟨⟨.a, .w32, .w32, .w32, true, 2⟩, shapeOf_a true 0x06 _ _ _ _ (by decide) rfl, Sys2Proof.Shape.accepts_a _ _ d a b rfl rfl rfl rfl (show m.code.toNat < 2 from by cases m <;> decide) h.1.1 h.1.2 h.2⟩

theorem teamImin : ∀ d a b m, Statement (.teamImin d a b m) := by
  intro d a b m h
  simp only [Instr.wellFormed, Bool.and_eq_true] at h
  exact ⟨⟨.a, .w32, .w32, .w32, true, 2⟩, shapeOf_a true 0x07 _ _ _ _ (by decide) rfl, Sys2Proof.Shape.accepts_a _ _ d a b rfl rfl rfl rfl (show m.code.toNat < 2 from by cases m <;> decide) h.1.1 h.1.2 h.2⟩

theorem teamImax : ∀ d a b m, Statement (.teamImax d a b m) := by
  intro d a b m h
  simp only [Instr.wellFormed, Bool.and_eq_true] at h
  exact ⟨⟨.a, .w32, .w32, .w32, true, 2⟩, shapeOf_a true 0x08 _ _ _ _ (by decide) rfl, Sys2Proof.Shape.accepts_a _ _ d a b rfl rfl rfl rfl (show m.code.toNat < 2 from by cases m <;> decide) h.1.1 h.1.2 h.2⟩

theorem teamIabs : ∀ d a, Statement (.teamIabs d a) := by
  intro d a h
  simp only [Instr.wellFormed, Bool.and_eq_true] at h
  exact ⟨⟨.a, .w32, .w32, .no, true, 1⟩, shapeOf_a true 0x09 _ _ _ _ (by decide) rfl, Sys2Proof.Shape.accepts_a _ _ d a .zero rfl rfl rfl rfl (show (0 : BitVec 3).toNat < 1 from by decide) h.1 h.2 rfl⟩

theorem teamDadd : ∀ d a b, Statement (.teamDadd d a b) := by
  intro d a b h
  simp only [Instr.wellFormed, Bool.and_eq_true] at h
  exact ⟨⟨.a, .w64, .w64, .w64, true, 1⟩, shapeOf_a true 0x0A _ _ _ _ (by decide) rfl, Sys2Proof.Shape.accepts_a _ _ d a b rfl rfl rfl rfl (show (0 : BitVec 3).toNat < 1 from by decide) h.1.1 h.1.2 h.2⟩

theorem teamDsub : ∀ d a b, Statement (.teamDsub d a b) := by
  intro d a b h
  simp only [Instr.wellFormed, Bool.and_eq_true] at h
  exact ⟨⟨.a, .w64, .w64, .w64, true, 1⟩, shapeOf_a true 0x0B _ _ _ _ (by decide) rfl, Sys2Proof.Shape.accepts_a _ _ d a b rfl rfl rfl rfl (show (0 : BitVec 3).toNat < 1 from by decide) h.1.1 h.1.2 h.2⟩

theorem teamDmul : ∀ d a b, Statement (.teamDmul d a b) := by
  intro d a b h
  simp only [Instr.wellFormed, Bool.and_eq_true] at h
  exact ⟨⟨.a, .w64, .w64, .w64, true, 1⟩, shapeOf_a true 0x0C _ _ _ _ (by decide) rfl, Sys2Proof.Shape.accepts_a _ _ d a b rfl rfl rfl rfl (show (0 : BitVec 3).toNat < 1 from by decide) h.1.1 h.1.2 h.2⟩

theorem teamDneg : ∀ d a, Statement (.teamDneg d a) := by
  intro d a h
  simp only [Instr.wellFormed, Bool.and_eq_true] at h
  exact ⟨⟨.a, .w64, .w64, .no, true, 1⟩, shapeOf_a true 0x0D _ _ _ _ (by decide) rfl, Sys2Proof.Shape.accepts_a _ _ d a .zero rfl rfl rfl rfl (show (0 : BitVec 3).toNat < 1 from by decide) h.1 h.2 rfl⟩

theorem teamAnd : ∀ d a b, Statement (.teamAnd d a b) := by
  intro d a b h
  simp only [Instr.wellFormed, Bool.and_eq_true] at h
  exact ⟨⟨.a, .w32, .w32, .w32, true, 1⟩, shapeOf_a true 0x0E _ _ _ _ (by decide) rfl, Sys2Proof.Shape.accepts_a _ _ d a b rfl rfl rfl rfl (show (0 : BitVec 3).toNat < 1 from by decide) h.1.1 h.1.2 h.2⟩

theorem teamOr : ∀ d a b, Statement (.teamOr d a b) := by
  intro d a b h
  simp only [Instr.wellFormed, Bool.and_eq_true] at h
  exact ⟨⟨.a, .w32, .w32, .w32, true, 1⟩, shapeOf_a true 0x0F _ _ _ _ (by decide) rfl, Sys2Proof.Shape.accepts_a _ _ d a b rfl rfl rfl rfl (show (0 : BitVec 3).toNat < 1 from by decide) h.1.1 h.1.2 h.2⟩

theorem teamXor : ∀ d a b, Statement (.teamXor d a b) := by
  intro d a b h
  simp only [Instr.wellFormed, Bool.and_eq_true] at h
  exact ⟨⟨.a, .w32, .w32, .w32, true, 1⟩, shapeOf_a true 0x10 _ _ _ _ (by decide) rfl, Sys2Proof.Shape.accepts_a _ _ d a b rfl rfl rfl rfl (show (0 : BitVec 3).toNat < 1 from by decide) h.1.1 h.1.2 h.2⟩

theorem teamAndn : ∀ d a b, Statement (.teamAndn d a b) := by
  intro d a b h
  simp only [Instr.wellFormed, Bool.and_eq_true] at h
  exact ⟨⟨.a, .w32, .w32, .w32, true, 1⟩, shapeOf_a true 0x11 _ _ _ _ (by decide) rfl, Sys2Proof.Shape.accepts_a _ _ d a b rfl rfl rfl rfl (show (0 : BitVec 3).toNat < 1 from by decide) h.1.1 h.1.2 h.2⟩

theorem teamNot : ∀ d a, Statement (.teamNot d a) := by
  intro d a h
  simp only [Instr.wellFormed, Bool.and_eq_true] at h
  exact ⟨⟨.a, .w32, .w32, .no, true, 1⟩, shapeOf_a true 0x12 _ _ _ _ (by decide) rfl, Sys2Proof.Shape.accepts_a _ _ d a .zero rfl rfl rfl rfl (show (0 : BitVec 3).toNat < 1 from by decide) h.1 h.2 rfl⟩

theorem teamShl : ∀ d a b, Statement (.teamShl d a b) := by
  intro d a b h
  simp only [Instr.wellFormed, Bool.and_eq_true] at h
  exact ⟨⟨.a, .w32, .w32, .w32, true, 1⟩, shapeOf_a true 0x13 _ _ _ _ (by decide) rfl, Sys2Proof.Shape.accepts_a _ _ d a b rfl rfl rfl rfl (show (0 : BitVec 3).toNat < 1 from by decide) h.1.1 h.1.2 h.2⟩

theorem teamShr : ∀ d a b, Statement (.teamShr d a b) := by
  intro d a b h
  simp only [Instr.wellFormed, Bool.and_eq_true] at h
  exact ⟨⟨.a, .w32, .w32, .w32, true, 1⟩, shapeOf_a true 0x14 _ _ _ _ (by decide) rfl, Sys2Proof.Shape.accepts_a _ _ d a b rfl rfl rfl rfl (show (0 : BitVec 3).toNat < 1 from by decide) h.1.1 h.1.2 h.2⟩

theorem teamSar : ∀ d a b, Statement (.teamSar d a b) := by
  intro d a b h
  simp only [Instr.wellFormed, Bool.and_eq_true] at h
  exact ⟨⟨.a, .w32, .w32, .w32, true, 1⟩, shapeOf_a true 0x15 _ _ _ _ (by decide) rfl, Sys2Proof.Shape.accepts_a _ _ d a b rfl rfl rfl rfl (show (0 : BitVec 3).toNat < 1 from by decide) h.1.1 h.1.2 h.2⟩

theorem teamRol : ∀ d a b, Statement (.teamRol d a b) := by
  intro d a b h
  simp only [Instr.wellFormed, Bool.and_eq_true] at h
  exact ⟨⟨.a, .w32, .w32, .w32, true, 1⟩, shapeOf_a true 0x16 _ _ _ _ (by decide) rfl, Sys2Proof.Shape.accepts_a _ _ d a b rfl rfl rfl rfl (show (0 : BitVec 3).toNat < 1 from by decide) h.1.1 h.1.2 h.2⟩

theorem teamRor : ∀ d a b, Statement (.teamRor d a b) := by
  intro d a b h
  simp only [Instr.wellFormed, Bool.and_eq_true] at h
  exact ⟨⟨.a, .w32, .w32, .w32, true, 1⟩, shapeOf_a true 0x17 _ _ _ _ (by decide) rfl, Sys2Proof.Shape.accepts_a _ _ d a b rfl rfl rfl rfl (show (0 : BitVec 3).toNat < 1 from by decide) h.1.1 h.1.2 h.2⟩

theorem teamBfx : ∀ d a b m, Statement (.teamBfx d a b m) := by
  intro d a b m h
  simp only [Instr.wellFormed, Bool.and_eq_true] at h
  exact ⟨⟨.a, .w32, .w32, .w32, true, 2⟩, shapeOf_a true 0x18 _ _ _ _ (by decide) rfl, Sys2Proof.Shape.accepts_a _ _ d a b rfl rfl rfl rfl (show m.code.toNat < 2 from by cases m <;> decide) h.1.1 h.1.2 h.2⟩

theorem teamBfi : ∀ d a b, Statement (.teamBfi d a b) := by
  intro d a b h
  simp only [Instr.wellFormed, Bool.and_eq_true] at h
  exact ⟨⟨.a, .w32, .w32, .w32, true, 1⟩, shapeOf_a true 0x19 _ _ _ _ (by decide) rfl, Sys2Proof.Shape.accepts_a _ _ d a b rfl rfl rfl rfl (show (0 : BitVec 3).toNat < 1 from by decide) h.1.1 h.1.2 h.2⟩

theorem teamPopc : ∀ d a, Statement (.teamPopc d a) := by
  intro d a h
  simp only [Instr.wellFormed, Bool.and_eq_true] at h
  exact ⟨⟨.a, .w32, .w32, .no, true, 1⟩, shapeOf_a true 0x1A _ _ _ _ (by decide) rfl, Sys2Proof.Shape.accepts_a _ _ d a .zero rfl rfl rfl rfl (show (0 : BitVec 3).toNat < 1 from by decide) h.1 h.2 rfl⟩

theorem teamClz : ∀ d a, Statement (.teamClz d a) := by
  intro d a h
  simp only [Instr.wellFormed, Bool.and_eq_true] at h
  exact ⟨⟨.a, .w32, .w32, .no, true, 1⟩, shapeOf_a true 0x1B _ _ _ _ (by decide) rfl, Sys2Proof.Shape.accepts_a _ _ d a .zero rfl rfl rfl rfl (show (0 : BitVec 3).toNat < 1 from by decide) h.1 h.2 rfl⟩

theorem teamCtz : ∀ d a, Statement (.teamCtz d a) := by
  intro d a h
  simp only [Instr.wellFormed, Bool.and_eq_true] at h
  exact ⟨⟨.a, .w32, .w32, .no, true, 1⟩, shapeOf_a true 0x1C _ _ _ _ (by decide) rfl, Sys2Proof.Shape.accepts_a _ _ d a .zero rfl rfl rfl rfl (show (0 : BitVec 3).toNat < 1 from by decide) h.1 h.2 rfl⟩

theorem teamBrev : ∀ d a, Statement (.teamBrev d a) := by
  intro d a h
  simp only [Instr.wellFormed, Bool.and_eq_true] at h
  exact ⟨⟨.a, .w32, .w32, .no, true, 1⟩, shapeOf_a true 0x1D _ _ _ _ (by decide) rfl, Sys2Proof.Shape.accepts_a _ _ d a .zero rfl rfl rfl rfl (show (0 : BitVec 3).toNat < 1 from by decide) h.1 h.2 rfl⟩

theorem teamDshl : ∀ d a b, Statement (.teamDshl d a b) := by
  intro d a b h
  simp only [Instr.wellFormed, Bool.and_eq_true] at h
  exact ⟨⟨.a, .w64, .w64, .w32, true, 1⟩, shapeOf_a true 0x1E _ _ _ _ (by decide) rfl, Sys2Proof.Shape.accepts_a _ _ d a b rfl rfl rfl rfl (show (0 : BitVec 3).toNat < 1 from by decide) h.1.1 h.1.2 h.2⟩

theorem teamDshr : ∀ d a b m, Statement (.teamDshr d a b m) := by
  intro d a b m h
  simp only [Instr.wellFormed, Bool.and_eq_true] at h
  exact ⟨⟨.a, .w64, .w64, .w32, true, 2⟩, shapeOf_a true 0x1F _ _ _ _ (by decide) rfl, Sys2Proof.Shape.accepts_a _ _ d a b rfl rfl rfl rfl (show m.code.toNat < 2 from by cases m <;> decide) h.1.1 h.1.2 h.2⟩

theorem teamIcmp : ∀ d a b m, Statement (.teamIcmp d a b m) := by
  intro d a b m h
  simp only [Instr.wellFormed, Bool.and_eq_true] at h
  exact ⟨⟨.a, .w32, .w32, .w32, true, 6⟩, shapeOf_a true 0x20 _ _ _ _ (by decide) rfl, Sys2Proof.Shape.accepts_a _ _ d a b rfl rfl rfl rfl (show m.code.toNat < 6 from by cases m <;> decide) h.1.1 h.1.2 h.2⟩

theorem teamDcmp : ∀ d a b m, Statement (.teamDcmp d a b m) := by
  intro d a b m h
  simp only [Instr.wellFormed, Bool.and_eq_true] at h
  exact ⟨⟨.a, .w32, .w64, .w64, true, 6⟩, shapeOf_a true 0x21 _ _ _ _ (by decide) rfl, Sys2Proof.Shape.accepts_a _ _ d a b rfl rfl rfl rfl (show m.code.toNat < 6 from by cases m <;> decide) h.1.1 h.1.2 h.2⟩

theorem teamSel : ∀ d a b, Statement (.teamSel d a b) := by
  intro d a b h
  simp only [Instr.wellFormed, Bool.and_eq_true] at h
  exact ⟨⟨.a, .w32, .w32, .w32, true, 1⟩, shapeOf_a true 0x22 _ _ _ _ (by decide) rfl, Sys2Proof.Shape.accepts_a _ _ d a b rfl rfl rfl rfl (show (0 : BitVec 3).toNat < 1 from by decide) h.1.1 h.1.2 h.2⟩

theorem teamMov : ∀ d a, Statement (.teamMov d a) := by
  intro d a h
  simp only [Instr.wellFormed, Bool.and_eq_true] at h
  exact ⟨⟨.a, .w32, .w32, .no, true, 1⟩, shapeOf_a true 0x23 _ _ _ _ (by decide) rfl, Sys2Proof.Shape.accepts_a _ _ d a .zero rfl rfl rfl rfl (show (0 : BitVec 3).toNat < 1 from by decide) h.1 h.2 rfl⟩

theorem teamDmov : ∀ d a, Statement (.teamDmov d a) := by
  intro d a h
  simp only [Instr.wellFormed, Bool.and_eq_true] at h
  exact ⟨⟨.a, .w64, .w64, .no, true, 1⟩, shapeOf_a true 0x24 _ _ _ _ (by decide) rfl, Sys2Proof.Shape.accepts_a _ _ d a .zero rfl rfl rfl rfl (show (0 : BitVec 3).toNat < 1 from by decide) h.1 h.2 rfl⟩

theorem teamSread : ∀ d imm, Statement (.teamSread d imm) := by
  intro d imm h
  simp only [Instr.wellFormed] at h
  exact ⟨⟨.j, .w32, .no, .no, true, 8⟩, shapeOf_rawJ true 0x25 _ _ (by decide) rfl, Sys2Proof.Shape.accepts_jd _ _ d rfl rfl rfl h⟩

theorem teamSwrite : ∀ a imm, Statement (.teamSwrite a imm) := by
  intro a imm h
  simp only [Instr.wellFormed] at h
  exact ⟨⟨.j, .w32, .no, .no, false, 8⟩, shapeOf_rawJ true 0x26 _ _ (by decide) rfl, Sys2Proof.Shape.accepts_ja _ _ a rfl rfl rfl rfl (Sys2Proof.Src.fitsJ_not_literal _ _ h) (Sys2Proof.Src.fitsJ_fits _ _ h)⟩

theorem teamCvtif : ∀ d a m, Statement (.teamCvtif d a m) := by
  intro d a m h
  simp only [Instr.wellFormed, Bool.and_eq_true] at h
  exact ⟨⟨.a, .w32, .w32, .no, true, 8⟩, shapeOf_a true 0x27 _ _ _ _ (by decide) rfl, Sys2Proof.Shape.accepts_a _ _ d a .zero rfl rfl rfl rfl (show m.code.toNat < 8 from by cases m <;> decide) h.1 h.2 rfl⟩

theorem teamCvtfi : ∀ d a m, Statement (.teamCvtfi d a m) := by
  intro d a m h
  simp only [Instr.wellFormed, Bool.and_eq_true] at h
  exact ⟨⟨.a, .w32, .w32, .no, true, 8⟩, shapeOf_a true 0x28 _ _ _ _ (by decide) rfl, Sys2Proof.Shape.accepts_a _ _ d a .zero rfl rfl rfl rfl (show m.code.toNat < 8 from by cases m <;> decide) h.1 h.2 rfl⟩

theorem teamCvtdf : ∀ d a m, Statement (.teamCvtdf d a m) := by
  intro d a m h
  simp only [Instr.wellFormed, Bool.and_eq_true] at h
  exact ⟨⟨.a, .w32, .w64, .no, true, 8⟩, shapeOf_a true 0x29 _ _ _ _ (by decide) rfl, Sys2Proof.Shape.accepts_a _ _ d a .zero rfl rfl rfl rfl (show m.code.toNat < 8 from by cases m <;> decide) h.1 h.2 rfl⟩

theorem teamCvtfd : ∀ d a m, Statement (.teamCvtfd d a m) := by
  intro d a m h
  simp only [Instr.wellFormed, Bool.and_eq_true] at h
  exact ⟨⟨.a, .w64, .w32, .no, true, 8⟩, shapeOf_a true 0x2A _ _ _ _ (by decide) rfl, Sys2Proof.Shape.accepts_a _ _ d a .zero rfl rfl rfl rfl (show m.code.toNat < 8 from by cases m <;> decide) h.1 h.2 rfl⟩

theorem teamExt : ∀ d a m, Statement (.teamExt d a m) := by
  intro d a m h
  simp only [Instr.wellFormed, Bool.and_eq_true] at h
  exact ⟨⟨.a, .w32, .w32, .no, true, 4⟩, shapeOf_a true 0x2B _ _ _ _ (by decide) rfl, Sys2Proof.Shape.accepts_a _ _ d a .zero rfl rfl rfl rfl (show m.code.toNat < 4 from by cases m <;> decide) h.1 h.2 rfl⟩

theorem teamDext : ∀ d a m, Statement (.teamDext d a m) := by
  intro d a m h
  simp only [Instr.wellFormed, Bool.and_eq_true] at h
  exact ⟨⟨.a, .w64, .w32, .no, true, 2⟩, shapeOf_a true 0x2C _ _ _ _ (by decide) rfl, Sys2Proof.Shape.accepts_a _ _ d a .zero rfl rfl rfl rfl (show m.code.toNat < 2 from by cases m <;> decide) h.1 h.2 rfl⟩

theorem teamLdi : ∀ d imm, Statement (.teamLdi d imm) := by
  intro d imm h
  simp only [Instr.wellFormed] at h
  exact ⟨⟨.j, .w32, .no, .no, true, 8⟩, shapeOf_rawJ true 0x2D _ _ (by decide) rfl, Sys2Proof.Shape.accepts_jd _ _ d rfl rfl rfl h⟩

theorem teamAlwr : ∀ d a, Statement (.teamAlwr d a) := by
  intro d a h
  simp only [Instr.wellFormed, Bool.and_eq_true] at h
  exact ⟨⟨.a, .w32, .w32, .no, true, 1⟩, shapeOf_a true 0x2E _ _ _ _ (by decide) rfl, Sys2Proof.Shape.accepts_a _ _ d a .zero rfl rfl rfl rfl (show (0 : BitVec 3).toNat < 1 from by decide) h.1 h.2 rfl⟩

theorem teamBra : ∀ imm, Statement (.teamBra imm) := by
  intro imm h
  exact ⟨⟨.j, .no, .no, .no, false, 8⟩, shapeOf_rawJ true 0x30 _ _ (by decide) rfl, Sys2Proof.Shape.accepts_jn _ _ rfl rfl rfl⟩

theorem teamBnz : ∀ a imm, Statement (.teamBnz a imm) := by
  intro a imm h
  simp only [Instr.wellFormed] at h
  exact ⟨⟨.j, .w32, .no, .no, false, 8⟩, shapeOf_rawJ true 0x31 _ _ (by decide) rfl, Sys2Proof.Shape.accepts_ja _ _ a rfl rfl rfl rfl (Sys2Proof.Src.fitsJ_not_literal _ _ h) (Sys2Proof.Src.fitsJ_fits _ _ h)⟩

theorem teamBz : ∀ a imm, Statement (.teamBz a imm) := by
  intro a imm h
  simp only [Instr.wellFormed] at h
  exact ⟨⟨.j, .w32, .no, .no, false, 8⟩, shapeOf_rawJ true 0x32 _ _ (by decide) rfl, Sys2Proof.Shape.accepts_ja _ _ a rfl rfl rfl rfl (Sys2Proof.Src.fitsJ_not_literal _ _ h) (Sys2Proof.Src.fitsJ_fits _ _ h)⟩

theorem teamCall : ∀ imm, Statement (.teamCall imm) := by
  intro imm h
  exact ⟨⟨.j, .no, .no, .no, false, 8⟩, shapeOf_rawJ true 0x33 _ _ (by decide) rfl, Sys2Proof.Shape.accepts_jn _ _ rfl rfl rfl⟩

theorem teamCallr : ∀ a, Statement (.teamCallr a) := by
  intro a h
  simp only [Instr.wellFormed] at h
  exact ⟨⟨.a, .no, .w32, .no, true, 1⟩, shapeOf_a true 0x34 _ _ _ _ (by decide) rfl, Sys2Proof.Shape.accepts_a _ _ .zero a .zero rfl rfl rfl rfl (show (0 : BitVec 3).toNat < 1 from by decide) rfl h rfl⟩

theorem teamJmpr : ∀ a, Statement (.teamJmpr a) := by
  intro a h
  simp only [Instr.wellFormed] at h
  exact ⟨⟨.a, .no, .w32, .no, true, 1⟩, shapeOf_a true 0x35 _ _ _ _ (by decide) rfl, Sys2Proof.Shape.accepts_a _ _ .zero a .zero rfl rfl rfl rfl (show (0 : BitVec 3).toNat < 1 from by decide) rfl h rfl⟩

theorem teamRet : Statement .teamRet := by
  intro h
  exact ⟨⟨.a, .no, .no, .no, true, 1⟩, shapeOf_a true 0x36 _ _ _ _ (by decide) rfl, Sys2Proof.Shape.accepts_a _ _ .zero .zero .zero rfl rfl rfl rfl (show (0 : BitVec 3).toNat < 1 from by decide) rfl rfl rfl⟩

theorem teamExit : Statement .teamExit := by
  intro h
  exact ⟨⟨.a, .no, .no, .no, true, 1⟩, shapeOf_a true 0x37 _ _ _ _ (by decide) rfl, Sys2Proof.Shape.accepts_a _ _ .zero .zero .zero rfl rfl rfl rfl (show (0 : BitVec 3).toNat < 1 from by decide) rfl rfl rfl⟩

theorem teamTrap : ∀ imm, Statement (.teamTrap imm) := by
  intro imm h
  exact ⟨⟨.j, .no, .no, .no, false, 8⟩, shapeOf_rawJ true 0x38 _ _ (by decide) rfl, Sys2Proof.Shape.accepts_jn _ _ rfl rfl rfl⟩

theorem teamBkpt : ∀ imm, Statement (.teamBkpt imm) := by
  intro imm h
  exact ⟨⟨.j, .no, .no, .no, false, 8⟩, shapeOf_rawJ true 0x39 _ _ (by decide) rfl, Sys2Proof.Shape.accepts_jn _ _ rfl rfl rfl⟩

theorem teamYield : Statement .teamYield := by
  intro h
  exact ⟨⟨.a, .no, .no, .no, true, 1⟩, shapeOf_a true 0x3A _ _ _ _ (by decide) rfl, Sys2Proof.Shape.accepts_a _ _ .zero .zero .zero rfl rfl rfl rfl (show (0 : BitVec 3).toNat < 1 from by decide) rfl rfl rfl⟩

theorem teamNop : Statement .teamNop := by
  intro h
  exact ⟨⟨.a, .no, .no, .no, true, 1⟩, shapeOf_a true 0x3B _ _ _ _ (by decide) rfl, Sys2Proof.Shape.accepts_a _ _ .zero .zero .zero rfl rfl rfl rfl (show (0 : BitVec 3).toNat < 1 from by decide) rfl rfl rfl⟩

theorem teamBalw : ∀ a imm, Statement (.teamBalw a imm) := by
  intro a imm h
  simp only [Instr.wellFormed] at h
  exact ⟨⟨.j, .w32, .no, .no, false, 8⟩, shapeOf_rawJ true 0x3C _ _ (by decide) rfl, Sys2Proof.Shape.accepts_ja _ _ a rfl rfl rfl rfl (Sys2Proof.Src.fitsJ_not_literal _ _ h) (Sys2Proof.Src.fitsJ_fits _ _ h)⟩

theorem qld : ∀ d a b l, Statement (.qld d a b l) := by
  intro d a b l h
  simp only [Instr.wellFormed, Bool.and_eq_true] at h
  exact ⟨⟨.a, .w32, .w64, .w32, true, 8⟩, shapeOf_a true 0x40 _ _ _ _ (by decide) rfl, Sys2Proof.Shape.accepts_a _ _ d a b rfl rfl rfl rfl (show (lblCode l).toNat < 8 from by revert l; decide) h.1.1 h.1.2 h.2⟩

theorem qldu : ∀ d a b l, Statement (.qldu d a b l) := by
  intro d a b l h
  simp only [Instr.wellFormed, Bool.and_eq_true] at h
  exact ⟨⟨.a, .w32, .w64, .w32, true, 8⟩, shapeOf_a true 0x41 _ _ _ _ (by decide) rfl, Sys2Proof.Shape.accepts_a _ _ d a b rfl rfl rfl rfl (show (lblCode l).toNat < 8 from by revert l; decide) h.1.1 h.1.2 h.2⟩

theorem qldg : ∀ d a b l, Statement (.qldg d a b l) := by
  intro d a b l h
  simp only [Instr.wellFormed, Bool.and_eq_true] at h
  exact ⟨⟨.a, .w32, .w64, .w32, true, 8⟩, shapeOf_a true 0x42 _ _ _ _ (by decide) rfl, Sys2Proof.Shape.accepts_a _ _ d a b rfl rfl rfl rfl (show (lblCode l).toNat < 8 from by revert l; decide) h.1.1 h.1.2 h.2⟩

theorem qsts : ∀ d a b l, Statement (.qsts d a b l) := by
  intro d a b l h
  simp only [Instr.wellFormed, Bool.and_eq_true] at h
  exact ⟨⟨.a, .w32, .w64, .w32, true, 8⟩, shapeOf_a true 0x43 _ _ _ _ (by decide) rfl, Sys2Proof.Shape.accepts_a _ _ d a b rfl rfl rfl rfl (show (lblCode l).toNat < 8 from by revert l; decide) h.1.1 h.1.2 h.2⟩

theorem setl : ∀ a l, Statement (.setl a l) := by
  intro a l h
  simp only [Instr.wellFormed] at h
  exact ⟨⟨.a, .no, .w64, .no, true, 8⟩, shapeOf_a true 0x44 _ _ _ _ (by decide) rfl, Sys2Proof.Shape.accepts_a _ _ .zero a .zero rfl rfl rfl rfl (show (lblCode l).toNat < 8 from by revert l; decide) rfl h rfl⟩

theorem getl : ∀ d l, Statement (.getl d l) := by
  intro d l h
  simp only [Instr.wellFormed] at h
  exact ⟨⟨.a, .w64, .no, .no, true, 8⟩, shapeOf_a true 0x45 _ _ _ _ (by decide) rfl, Sys2Proof.Shape.accepts_a _ _ d .zero .zero rfl rfl rfl rfl (show (lblCode l).toNat < 8 from by revert l; decide) h rfl rfl⟩

theorem mkl : ∀ d a m, Statement (.mkl d a m) := by
  intro d a m h
  simp only [Instr.wellFormed, Bool.and_eq_true] at h
  exact ⟨⟨.a, .w64, .w32, .no, true, 4⟩, shapeOf_a true 0x46 _ _ _ _ (by decide) rfl, Sys2Proof.Shape.accepts_a _ _ d a .zero rfl rfl rfl rfl (show m.code.toNat < 4 from by cases m <;> decide) h.1 h.2 rfl⟩

theorem ldl : ∀ a b l, Statement (.ldl a b l) := by
  intro a b l h
  simp only [Instr.wellFormed, Bool.and_eq_true] at h
  exact ⟨⟨.a, .no, .w64, .w64, true, 8⟩, shapeOf_a true 0x47 _ _ _ _ (by decide) rfl, Sys2Proof.Shape.accepts_a _ _ .zero a b rfl rfl rfl rfl (show (lblCode l).toNat < 8 from by revert l; decide) rfl h.1 h.2⟩

theorem qocc : ∀ d imm, Statement (.qocc d imm) := by
  intro d imm h
  simp only [Instr.wellFormed] at h
  exact ⟨⟨.j, .w32, .no, .no, true, 8⟩, shapeOf_rawJ true 0x48 _ _ (by decide) rfl, Sys2Proof.Shape.accepts_jd _ _ d rfl rfl rfl h⟩

theorem cpy : ∀ d a b l, Statement (.cpy d a b l) := by
  intro d a b l h
  simp only [Instr.wellFormed, Bool.and_eq_true] at h
  exact ⟨⟨.a, .w32, .w64, .w32, true, 8⟩, shapeOf_a true 0x50 _ _ _ _ (by decide) rfl, Sys2Proof.Shape.accepts_a _ _ d a b rfl rfl rfl rfl (show (lblCode l).toNat < 8 from by revert l; decide) h.1.1 h.1.2 h.2⟩

theorem cpym : ∀ d a b l, Statement (.cpym d a b l) := by
  intro d a b l h
  simp only [Instr.wellFormed, Bool.and_eq_true] at h
  exact ⟨⟨.a, .w64, .w64, .w32, true, 8⟩, shapeOf_a true 0x51 _ _ _ _ (by decide) rfl, Sys2Proof.Shape.accepts_a _ _ d a b rfl rfl rfl rfl (show (lblCode l).toNat < 8 from by revert l; decide) h.1.1 h.1.2 h.2⟩

theorem cpys : ∀ d a b l, Statement (.cpys d a b l) := by
  intro d a b l h
  simp only [Instr.wellFormed, Bool.and_eq_true] at h
  exact ⟨⟨.a, .w32, .w64, .w32, true, 8⟩, shapeOf_a true 0x52 _ _ _ _ (by decide) rfl, Sys2Proof.Shape.accepts_a _ _ d a b rfl rfl rfl rfl (show (lblCode l).toNat < 8 from by revert l; decide) h.1.1 h.1.2 h.2⟩

theorem twait : ∀ a b m, Statement (.twait a b m) := by
  intro a b m h
  simp only [Instr.wellFormed, Bool.and_eq_true] at h
  exact ⟨⟨.a, .no, .w32, .w64, true, 2⟩, shapeOf_a true 0x53 _ _ _ _ (by decide) rfl, Sys2Proof.Shape.accepts_a _ _ .zero a b rfl rfl rfl rfl (show m.code.toNat < 2 from by cases m <;> decide) rfl h.1 h.2⟩

theorem tempty : ∀ a, Statement (.tempty a) := by
  intro a h
  simp only [Instr.wellFormed] at h
  exact ⟨⟨.a, .no, .w32, .no, true, 1⟩, shapeOf_a true 0x54 _ _ _ _ (by decide) rfl, Sys2Proof.Shape.accepts_a _ _ .zero a .zero rfl rfl rfl rfl (show (0 : BitVec 3).toNat < 1 from by decide) rfl h rfl⟩

theorem tstat : ∀ d a, Statement (.tstat d a) := by
  intro d a h
  simp only [Instr.wellFormed, Bool.and_eq_true] at h
  exact ⟨⟨.a, .w64, .w32, .no, true, 1⟩, shapeOf_a true 0x55 _ _ _ _ (by decide) rfl, Sys2Proof.Shape.accepts_a _ _ d a .zero rfl rfl rfl rfl (show (0 : BitVec 3).toNat < 1 from by decide) h.1 h.2 rfl⟩

theorem wld : ∀ d a b l, Statement (.wld d a b l) := by
  intro d a b l h
  simp only [Instr.wellFormed, Bool.and_eq_true] at h
  exact ⟨⟨.a, .w32, .w64, .w32, true, 8⟩, shapeOf_a true 0x56 _ _ _ _ (by decide) rfl, Sys2Proof.Shape.accepts_a _ _ d a b rfl rfl rfl rfl (show (lblCode l).toNat < 8 from by revert l; decide) h.1.1 h.1.2 h.2⟩

theorem wst : ∀ d a b l, Statement (.wst d a b l) := by
  intro d a b l h
  simp only [Instr.wellFormed, Bool.and_eq_true] at h
  exact ⟨⟨.a, .w32, .w64, .w32, true, 8⟩, shapeOf_a true 0x57 _ _ _ _ (by decide) rfl, Sys2Proof.Shape.accepts_a _ _ d a b rfl rfl rfl rfl (show (lblCode l).toNat < 8 from by revert l; decide) h.1.1 h.1.2 h.2⟩

theorem mmat : ∀ d a b, Statement (.mmat d a b) := by
  intro d a b h
  simp only [Instr.wellFormed, Bool.and_eq_true] at h
  exact ⟨⟨.a, .w32, .w32, .w32, true, 1⟩, shapeOf_a true 0x58 _ _ _ _ (by decide) rfl, Sys2Proof.Shape.accepts_a _ _ d a b rfl rfl rfl rfl (show (0 : BitVec 3).toNat < 1 from by decide) h.1.1 h.1.2 h.2⟩

theorem mmad : ∀ d a b, Statement (.mmad d a b) := by
  intro d a b h
  simp only [Instr.wellFormed, Bool.and_eq_true] at h
  exact ⟨⟨.a, .w32, .w32, .w32, true, 1⟩, shapeOf_a true 0x59 _ _ _ _ (by decide) rfl, Sys2Proof.Shape.accepts_a _ _ d a b rfl rfl rfl rfl (show (0 : BitVec 3).toNat < 1 from by decide) h.1.1 h.1.2 h.2⟩

theorem mmaz : ∀ d a, Statement (.mmaz d a) := by
  intro d a h
  simp only [Instr.wellFormed, Bool.and_eq_true] at h
  exact ⟨⟨.a, .w32, .w32, .no, true, 1⟩, shapeOf_a true 0x5A _ _ _ _ (by decide) rfl, Sys2Proof.Shape.accepts_a _ _ d a .zero rfl rfl rfl rfl (show (0 : BitVec 3).toNat < 1 from by decide) h.1 h.2 rfl⟩

theorem accst : ∀ d a b m, Statement (.accst d a b m) := by
  intro d a b m h
  simp only [Instr.wellFormed, Bool.and_eq_true] at h
  exact ⟨⟨.a, .w32, .w32, .w32, true, 3⟩, shapeOf_a true 0x5B _ _ _ _ (by decide) rfl, Sys2Proof.Shape.accepts_a _ _ d a b rfl rfl rfl rfl (show m.code.toNat < 3 from by cases m <;> decide) h.1.1 h.1.2 h.2⟩

theorem accv : ∀ d a, Statement (.accv d a) := by
  intro d a h
  simp only [Instr.wellFormed, Bool.and_eq_true] at h
  exact ⟨⟨.a, .w32, .w32, .no, true, 1⟩, shapeOf_a true 0x5C _ _ _ _ (by decide) rfl, Sys2Proof.Shape.accepts_a _ _ d a .zero rfl rfl rfl rfl (show (0 : BitVec 3).toNat < 1 from by decide) h.1 h.2 rfl⟩

theorem cpyf : ∀ d a b l, Statement (.cpyf d a b l) := by
  intro d a b l h
  simp only [Instr.wellFormed, Bool.and_eq_true] at h
  exact ⟨⟨.a, .w64, .w64, .w32, true, 8⟩, shapeOf_a true 0x5D _ _ _ _ (by decide) rfl, Sys2Proof.Shape.accepts_a _ _ d a b rfl rfl rfl rfl (show (lblCode l).toNat < 8 from by revert l; decide) h.1.1 h.1.2 h.2⟩

theorem teamBarv : ∀ d a b, Statement (.teamBarv d a b) := by
  intro d a b h
  simp only [Instr.wellFormed, Bool.and_eq_true] at h
  exact ⟨⟨.a, .w32, .w32, .w32, true, 1⟩, shapeOf_a true 0x60 _ _ _ _ (by decide) rfl, Sys2Proof.Shape.accepts_a _ _ d a b rfl rfl rfl rfl (show (0 : BitVec 3).toNat < 1 from by decide) h.1.1 h.1.2 h.2⟩

theorem teamBarw : ∀ a b, Statement (.teamBarw a b) := by
  intro a b h
  simp only [Instr.wellFormed, Bool.and_eq_true] at h
  exact ⟨⟨.a, .no, .w32, .w32, true, 1⟩, shapeOf_a true 0x61 _ _ _ _ (by decide) rfl, Sys2Proof.Shape.accepts_a _ _ .zero a b rfl rfl rfl rfl (show (0 : BitVec 3).toNat < 1 from by decide) rfl h.1 h.2⟩

theorem teamWaita : ∀ d a b l, Statement (.teamWaita d a b l) := by
  intro d a b l h
  simp only [Instr.wellFormed, Bool.and_eq_true] at h
  exact ⟨⟨.a, .w32, .w64, .w32, true, 8⟩, shapeOf_a true 0x62 _ _ _ _ (by decide) rfl, Sys2Proof.Shape.accepts_a _ _ d a b rfl rfl rfl rfl (show (lblCode l).toNat < 8 from by revert l; decide) h.1.1 h.1.2 h.2⟩

theorem launch : ∀ d a b l, Statement (.launch d a b l) := by
  intro d a b l h
  simp only [Instr.wellFormed, Bool.and_eq_true] at h
  exact ⟨⟨.a, .w32, .w64, .w32, true, 8⟩, shapeOf_a true 0x63 _ _ _ _ (by decide) rfl, Sys2Proof.Shape.accepts_a _ _ d a b rfl rfl rfl rfl (show (lblCode l).toNat < 8 from by revert l; decide) h.1.1 h.1.2 h.2⟩

theorem cnta : ∀ a b, Statement (.cnta a b) := by
  intro a b h
  simp only [Instr.wellFormed, Bool.and_eq_true] at h
  exact ⟨⟨.a, .no, .w32, .w32, true, 1⟩, shapeOf_a true 0x64 _ _ _ _ (by decide) rfl, Sys2Proof.Shape.accepts_a _ _ .zero a b rfl rfl rfl rfl (show (0 : BitVec 3).toNat < 1 from by decide) rfl h.1 h.2⟩

theorem cntw : ∀ a b, Statement (.cntw a b) := by
  intro a b h
  simp only [Instr.wellFormed, Bool.and_eq_true] at h
  exact ⟨⟨.a, .no, .w32, .w32, true, 1⟩, shapeOf_a true 0x65 _ _ _ _ (by decide) rfl, Sys2Proof.Shape.accepts_a _ _ .zero a b rfl rfl rfl rfl (show (0 : BitVec 3).toNat < 1 from by decide) rfl h.1 h.2⟩

theorem cancel : ∀ a m, Statement (.cancel a m) := by
  intro a m h
  simp only [Instr.wellFormed] at h
  exact ⟨⟨.a, .no, .w32, .no, true, 4⟩, shapeOf_a true 0x66 _ _ _ _ (by decide) rfl, Sys2Proof.Shape.accepts_a _ _ .zero a .zero rfl rfl rfl rfl (show m.code.toNat < 4 from by cases m <;> decide) rfl h rfl⟩

theorem wref : ∀ d a, Statement (.wref d a) := by
  intro d a h
  simp only [Instr.wellFormed, Bool.and_eq_true] at h
  exact ⟨⟨.a, .w32, .w32, .no, true, 1⟩, shapeOf_a true 0x67 _ _ _ _ (by decide) rfl, Sys2Proof.Shape.accepts_a _ _ d a .zero rfl rfl rfl rfl (show (0 : BitVec 3).toNat < 1 from by decide) h.1 h.2 rfl⟩

theorem linv : ∀ a m, Statement (.linv a m) := by
  intro a m h
  simp only [Instr.wellFormed] at h
  exact ⟨⟨.a, .no, .w32, .no, true, 4⟩, shapeOf_a true 0x68 _ _ _ _ (by decide) rfl, Sys2Proof.Shape.accepts_a _ _ .zero a .zero rfl rfl rfl rfl (show m.code.toNat < 4 from by cases m <;> decide) rfl h rfl⟩

theorem flushr : ∀ a b l, Statement (.flushr a b l) := by
  intro a b l h
  simp only [Instr.wellFormed, Bool.and_eq_true] at h
  exact ⟨⟨.a, .no, .w64, .w64, true, 8⟩, shapeOf_a true 0x69 _ _ _ _ (by decide) rfl, Sys2Proof.Shape.accepts_a _ _ .zero a b rfl rfl rfl rfl (show (lblCode l).toNat < 8 from by revert l; decide) rfl h.1 h.2⟩

theorem teamAmsg : ∀ d a b, Statement (.teamAmsg d a b) := by
  intro d a b h
  simp only [Instr.wellFormed, Bool.and_eq_true] at h
  exact ⟨⟨.a, .w32, .w32, .w64, true, 1⟩, shapeOf_a true 0x6A _ _ _ _ (by decide) rfl, Sys2Proof.Shape.accepts_a _ _ d a b rfl rfl rfl rfl (show (0 : BitVec 3).toNat < 1 from by decide) h.1.1 h.1.2 h.2⟩

theorem teamLdw : ∀ d a b l, Statement (.teamLdw d a b l) := by
  intro d a b l h
  simp only [Instr.wellFormed, Bool.and_eq_true] at h
  exact ⟨⟨.a, .w32, .w64, .w32, true, 8⟩, shapeOf_a true 0x70 _ _ _ _ (by decide) rfl, Sys2Proof.Shape.accepts_a _ _ d a b rfl rfl rfl rfl (show (lblCode l).toNat < 8 from by revert l; decide) h.1.1 h.1.2 h.2⟩

theorem teamLdd : ∀ d a b l, Statement (.teamLdd d a b l) := by
  intro d a b l h
  simp only [Instr.wellFormed, Bool.and_eq_true] at h
  exact ⟨⟨.a, .w64, .w64, .w32, true, 8⟩, shapeOf_a true 0x71 _ _ _ _ (by decide) rfl, Sys2Proof.Shape.accepts_a _ _ d a b rfl rfl rfl rfl (show (lblCode l).toNat < 8 from by revert l; decide) h.1.1 h.1.2 h.2⟩

theorem teamStw : ∀ d a b l, Statement (.teamStw d a b l) := by
  intro d a b l h
  simp only [Instr.wellFormed, Bool.and_eq_true] at h
  exact ⟨⟨.a, .w32, .w64, .w32, true, 8⟩, shapeOf_a true 0x72 _ _ _ _ (by decide) rfl, Sys2Proof.Shape.accepts_a _ _ d a b rfl rfl rfl rfl (show (lblCode l).toNat < 8 from by revert l; decide) h.1.1 h.1.2 h.2⟩

theorem teamStd : ∀ d a b l, Statement (.teamStd d a b l) := by
  intro d a b l h
  simp only [Instr.wellFormed, Bool.and_eq_true] at h
  exact ⟨⟨.a, .w64, .w64, .w32, true, 8⟩, shapeOf_a true 0x73 _ _ _ _ (by decide) rfl, Sys2Proof.Shape.accepts_a _ _ d a b rfl rfl rfl rfl (show (lblCode l).toNat < 8 from by revert l; decide) h.1.1 h.1.2 h.2⟩

theorem teamLdx : ∀ d a b, Statement (.teamLdx d a b) := by
  intro d a b h
  simp only [Instr.wellFormed, Bool.and_eq_true] at h
  exact ⟨⟨.a, .w32, .w64, .w64, true, 1⟩, shapeOf_a true 0x74 _ _ _ _ (by decide) rfl, Sys2Proof.Shape.accepts_a _ _ d a b rfl rfl rfl rfl (show (0 : BitVec 3).toNat < 1 from by decide) h.1.1 h.1.2 h.2⟩

theorem teamStx : ∀ d a b, Statement (.teamStx d a b) := by
  intro d a b h
  simp only [Instr.wellFormed, Bool.and_eq_true] at h
  exact ⟨⟨.a, .w32, .w64, .w64, true, 1⟩, shapeOf_a true 0x75 _ _ _ _ (by decide) rfl, Sys2Proof.Shape.accepts_a _ _ d a b rfl rfl rfl rfl (show (0 : BitVec 3).toNat < 1 from by decide) h.1.1 h.1.2 h.2⟩

theorem teamAadd : ∀ d a b l, Statement (.teamAadd d a b l) := by
  intro d a b l h
  simp only [Instr.wellFormed, Bool.and_eq_true] at h
  exact ⟨⟨.a, .w32, .w64, .w32, true, 8⟩, shapeOf_a true 0x76 _ _ _ _ (by decide) rfl, Sys2Proof.Shape.accepts_a _ _ d a b rfl rfl rfl rfl (show (lblCode l).toNat < 8 from by revert l; decide) h.1.1 h.1.2 h.2⟩

theorem teamAmax : ∀ d a b l, Statement (.teamAmax d a b l) := by
  intro d a b l h
  simp only [Instr.wellFormed, Bool.and_eq_true] at h
  exact ⟨⟨.a, .w32, .w64, .w32, true, 8⟩, shapeOf_a true 0x77 _ _ _ _ (by decide) rfl, Sys2Proof.Shape.accepts_a _ _ d a b rfl rfl rfl rfl (show (lblCode l).toNat < 8 from by revert l; decide) h.1.1 h.1.2 h.2⟩

theorem teamAxch : ∀ d a b l, Statement (.teamAxch d a b l) := by
  intro d a b l h
  simp only [Instr.wellFormed, Bool.and_eq_true] at h
  exact ⟨⟨.a, .w32, .w64, .w32, true, 8⟩, shapeOf_a true 0x78 _ _ _ _ (by decide) rfl, Sys2Proof.Shape.accepts_a _ _ d a b rfl rfl rfl rfl (show (lblCode l).toNat < 8 from by revert l; decide) h.1.1 h.1.2 h.2⟩

theorem teamAcas : ∀ d a b l, Statement (.teamAcas d a b l) := by
  intro d a b l h
  simp only [Instr.wellFormed, Bool.and_eq_true] at h
  exact ⟨⟨.a, .w32, .w64, .w32, true, 8⟩, shapeOf_a true 0x79 _ _ _ _ (by decide) rfl, Sys2Proof.Shape.accepts_a _ _ d a b rfl rfl rfl rfl (show (lblCode l).toNat < 8 from by revert l; decide) h.1.1 h.1.2 h.2⟩

theorem teamAaddd : ∀ d a b l, Statement (.teamAaddd d a b l) := by
  intro d a b l h
  simp only [Instr.wellFormed, Bool.and_eq_true] at h
  exact ⟨⟨.a, .w64, .w64, .w64, true, 8⟩, shapeOf_a true 0x7A _ _ _ _ (by decide) rfl, Sys2Proof.Shape.accepts_a _ _ d a b rfl rfl rfl rfl (show (lblCode l).toNat < 8 from by revert l; decide) h.1.1 h.1.2 h.2⟩

theorem teamAcasd : ∀ d a b l, Statement (.teamAcasd d a b l) := by
  intro d a b l h
  simp only [Instr.wellFormed, Bool.and_eq_true] at h
  exact ⟨⟨.a, .w64, .w64, .w64, true, 8⟩, shapeOf_a true 0x7B _ _ _ _ (by decide) rfl, Sys2Proof.Shape.accepts_a _ _ d a b rfl rfl rfl rfl (show (lblCode l).toNat < 8 from by revert l; decide) h.1.1 h.1.2 h.2⟩

theorem teamFence : ∀ m, Statement (.teamFence m) := by
  intro m h
  exact ⟨⟨.a, .no, .no, .no, true, 4⟩, shapeOf_a true 0x7C _ _ _ _ (by decide) rfl, Sys2Proof.Shape.accepts_a _ _ .zero .zero .zero rfl rfl rfl rfl (show m.code.toNat < 4 from by cases m <;> decide) rfl rfl rfl⟩

theorem teamFencef : ∀ d a b l, Statement (.teamFencef d a b l) := by
  intro d a b l h
  simp only [Instr.wellFormed, Bool.and_eq_true] at h
  exact ⟨⟨.a, .w32, .w64, .w32, true, 8⟩, shapeOf_a true 0x7D _ _ _ _ (by decide) rfl, Sys2Proof.Shape.accepts_a _ _ d a b rfl rfl rfl rfl (show (lblCode l).toNat < 8 from by revert l; decide) h.1.1 h.1.2 h.2⟩

theorem illegalOp : ∀ x0, Statement (.illegalOp x0) := by intros; intro h; trivial

theorem wrongSlice : ∀ x0, Statement (.wrongSlice x0) := by intros; intro h; trivial

theorem fetchRange : ∀ x0, Statement (.fetchRange x0) := by intros; intro h; trivial

theorem wake : ∀ x0, Statement (.wake x0) := by intros; intro h; trivial

theorem loadComplete : ∀ x0 x1, Statement (.loadComplete x0 x1) := by intros; intro h; trivial

theorem queueElementPerform : ∀ x0 x1, Statement (.queueElementPerform x0 x1) := by intros; intro h; trivial

theorem homeStore : ∀ x0, Statement (.homeStore x0) := by intros; intro h; trivial

theorem homeAtomic : ∀ x0, Statement (.homeAtomic x0) := by intros; intro h; trivial

theorem leaseRenewal : ∀ x0, Statement (.leaseRenewal x0) := by intros; intro h; trivial

theorem lineFill : ∀ x0 x1, Statement (.lineFill x0 x1) := by intros; intro h; trivial

theorem mscFill : ∀ x0 x1 x2, Statement (.mscFill x0 x1 x2) := by intros; intro h; trivial

theorem waitaWake : ∀ x0, Statement (.waitaWake x0) := by intros; intro h; trivial

theorem ctTick : ∀ x0, Statement (.ctTick x0) := by intros; intro h; trivial

theorem drowsy : ∀ x0 x1, Statement (.drowsy x0 x1) := by intros; intro h; trivial

theorem copyStart : ∀ x0 x1, Statement (.copyStart x0 x1) := by intros; intro h; trivial

theorem chunkLand : ∀ x0 x1 x2 x3, Statement (.chunkLand x0 x1 x2 x3) := by intros; intro h; trivial

theorem copyComplete : ∀ x0 x1, Statement (.copyComplete x0 x1) := by intros; intro h; trivial

theorem arrayStart : ∀ x0 x1, Statement (.arrayStart x0 x1) := by intros; intro h; trivial

theorem arrayResult : ∀ x0, Statement (.arrayResult x0) := by intros; intro h; trivial

theorem temptyEffect : ∀ x0 x1, Statement (.temptyEffect x0 x1) := by intros; intro h; trivial

theorem barrierContribution : ∀ x0, Statement (.barrierContribution x0) := by intros; intro h; trivial

theorem teamEnd : ∀ x0, Statement (.teamEnd x0) := by intros; intro h; trivial

theorem trapRecordWrite : ∀ x0, Statement (.trapRecordWrite x0) := by intros; intro h; trivial

theorem faultRecordWrite : ∀ x0, Statement (.faultRecordWrite x0) := by intros; intro h; trivial

theorem recordRetry : ∀ x0, Statement (.recordRetry x0) := by intros; intro h; trivial

theorem faultAckResume : ∀ x0 x1 x2, Statement (.faultAckResume x0 x1 x2) := by intros; intro h; trivial

theorem faultAckRefuse : ∀ x0 x1 x2, Statement (.faultAckRefuse x0 x1 x2) := by intros; intro h; trivial

theorem faultqDescriptorWrite : ∀ x0 x1 x2 x3, Statement (.faultqDescriptorWrite x0 x1 x2 x3) := by intros; intro h; trivial

theorem lqtail : ∀ x0 x1 x2, Statement (.lqtail x0 x1 x2) := by intros; intro h; trivial

theorem recordCurrent : ∀ x0, Statement (.recordCurrent x0) := by intros; intro h; trivial

theorem placeGang : Statement .placeGang := by intro h; trivial

theorem priorityAging : ∀ x0, Statement (.priorityAging x0) := by intros; intro h; trivial

theorem loaderWaitExpiry : ∀ x0, Statement (.loaderWaitExpiry x0) := by intros; intro h; trivial

theorem preempt : Statement .preempt := by intro h; trivial

theorem preload : ∀ x0, Statement (.preload x0) := by intros; intro h; trivial

theorem bankSwap : ∀ x0, Statement (.bankSwap x0) := by intros; intro h; trivial

theorem spill : ∀ x0, Statement (.spill x0) := by intros; intro h; trivial

theorem extract : ∀ x0 x1, Statement (.extract x0 x1) := by intros; intro h; trivial

theorem launchComplete : ∀ x0, Statement (.launchComplete x0) := by intros; intro h; trivial

theorem combinerDrain : ∀ x0, Statement (.combinerDrain x0) := by intros; intro h; trivial

theorem handlerCreate : Statement .handlerCreate := by intro h; trivial

theorem rcmdResume : ∀ x0 x1 x2 x3, Statement (.rcmdResume x0 x1 x2 x3) := by intros; intro h; trivial

theorem rcmdRetire : ∀ x0 x1 x2 x3, Statement (.rcmdRetire x0 x1 x2 x3) := by intros; intro h; trivial

theorem counterWrite : ∀ x0 x1 x2, Statement (.counterWrite x0 x1 x2) := by intros; intro h; trivial

theorem lcpcmd : ∀ x0 x1, Statement (.lcpcmd x0 x1) := by intros; intro h; trivial

theorem lcpInvalidationComplete : Statement .lcpInvalidationComplete := by intro h; trivial

theorem partitionWrite : ∀ x0 x1 x2, Statement (.partitionWrite x0 x1 x2) := by intros; intro h; trivial

theorem quotaUpdate : ∀ x0, Statement (.quotaUpdate x0) := by intros; intro h; trivial

theorem debugSlotWrite : ∀ x0 x1 x2 x3, Statement (.debugSlotWrite x0 x1 x2 x3) := by intros; intro h; trivial

theorem registerWrite : ∀ x0 x1 x2, Statement (.registerWrite x0 x1 x2) := by intros; intro h; trivial

theorem hostAccess : ∀ x0 x1 x2 x3 x4, Statement (.hostAccess x0 x1 x2 x3 x4) := by intros; intro h; trivial

theorem refresh : ∀ x0, Statement (.refresh x0) := by intros; intro h; trivial

theorem uncorrectableError : ∀ x0, Statement (.uncorrectableError x0) := by intros; intro h; trivial

theorem meshCrcFailure : ∀ x0 x1 x2, Statement (.meshCrcFailure x0 x1 x2) := by intros; intro h; trivial

theorem packetArrival : ∀ x0, Statement (.packetArrival x0) := by intros; intro h; trivial

theorem refusal : ∀ x0 x1, Statement (.refusal x0 x1) := by intros; intro h; trivial

theorem acknowledgement : ∀ x0, Statement (.acknowledgement x0) := by intros; intro h; trivial

theorem grant : ∀ x0 x1 x2, Statement (.grant x0 x1 x2) := by intros; intro h; trivial

theorem flitAuthFailure : ∀ x0 x1, Statement (.flitAuthFailure x0 x1) := by intros; intro h; trivial

theorem linkKeyExhausted : ∀ x0 x1, Statement (.linkKeyExhausted x0 x1) := by intros; intro h; trivial

theorem scaleOutResend : ∀ x0, Statement (.scaleOutResend x0) := by intros; intro h; trivial

theorem holdExpiry : ∀ x0, Statement (.holdExpiry x0) := by intros; intro h; trivial

theorem keyload : ∀ x0, Statement (.keyload x0) := by intros; intro h; trivial

theorem keyfree : ∀ x0, Statement (.keyfree x0) := by intros; intro h; trivial

theorem scrub : ∀ x0, Statement (.scrub x0) := by intros; intro h; trivial

theorem scrubComplete : Statement .scrubComplete := by intro h; trivial

theorem readback : ∀ x0, Statement (.readback x0) := by intros; intro h; trivial

theorem svnadvance : ∀ x0, Statement (.svnadvance x0) := by intros; intro h; trivial

theorem fmenrol : ∀ x0, Statement (.fmenrol x0) := by intros; intro h; trivial

theorem phasemap : ∀ x0, Statement (.phasemap x0) := by intros; intro h; trivial

theorem incarnation : ∀ x0, Statement (.incarnation x0) := by intros; intro h; trivial

theorem inctab : ∀ x0, Statement (.inctab x0) := by intros; intro h; trivial

theorem icred : ∀ x0, Statement (.icred x0) := by intros; intro h; trivial

theorem linkkey : ∀ x0, Statement (.linkkey x0) := by intros; intro h; trivial

theorem linkstat : ∀ x0, Statement (.linkstat x0) := by intros; intro h; trivial

theorem dcmdResume : ∀ x0 x1 x2 x3, Statement (.dcmdResume x0 x1 x2 x3) := by intros; intro h; trivial

theorem stepteam : ∀ x0 x1 x2 x3, Statement (.stepteam x0 x1 x2 x3) := by intros; intro h; trivial

theorem regwrite : ∀ x0 x1 x2 x3, Statement (.regwrite x0 x1 x2 x3) := by intros; intro h; trivial

theorem dcmdRetire : ∀ x0 x1 x2 x3, Statement (.dcmdRetire x0 x1 x2 x3) := by intros; intro h; trivial

theorem stepon : ∀ x0 x1 x2 x3, Statement (.stepon x0 x1 x2 x3) := by intros; intro h; trivial

theorem stepoff : ∀ x0 x1 x2 x3, Statement (.stepoff x0 x1 x2 x3) := by intros; intro h; trivial

theorem flagwrite : ∀ x0 x1 x2 x3, Statement (.flagwrite x0 x1 x2 x3) := by intros; intro h; trivial

theorem sample : ∀ x0 x1, Statement (.sample x0 x1) := by intros; intro h; trivial

theorem recover : ∀ x0 x1, Statement (.recover x0 x1) := by intros; intro h; trivial

theorem go : ∀ x0 x1, Statement (.go x0 x1) := by intros; intro h; trivial

theorem recoveryImageVerify : ∀ x0, Statement (.recoveryImageVerify x0) := by intros; intro h; trivial

theorem scanModeEntry : ∀ x0, Statement (.scanModeEntry x0) := by intros; intro h; trivial

theorem reset : Statement .reset := by intro h; trivial

theorem rom : Statement .rom := by intro h; trivial

theorem train : ∀ x0 x1 x2, Statement (.train x0 x1 x2) := by intros; intro h; trivial

theorem clear : Statement .clear := by intro h; trivial

theorem link : Statement .link := by intro h; trivial

theorem clockHalve : ∀ x0, Statement (.clockHalve x0) := by intros; intro h; trivial

theorem clockRestore : Statement .clockRestore := by intro h; trivial

theorem drain : ∀ x0 x1, Statement (.drain x0 x1) := by intros; intro h; trivial

theorem drainComplete : Statement .drainComplete := by intro h; trivial

theorem linkDrainTimeout : ∀ x0, Statement (.linkDrainTimeout x0) := by intros; intro h; trivial

theorem test : ∀ x0 x1, Statement (.test x0 x1) := by intros; intro h; trivial

theorem repair : ∀ x0 x1 x2, Statement (.repair x0 x1 x2) := by intros; intro h; trivial

theorem returnService : ∀ x0 x1 x2, Statement (.returnService x0 x1 x2) := by intros; intro h; trivial

theorem fwupdate : ∀ x0 x1, Statement (.fwupdate x0 x1) := by intros; intro h; trivial

theorem dieReset : ∀ x0, Statement (.dieReset x0) := by intros; intro h; trivial

theorem powerLoss : Statement .powerLoss := by intro h; trivial

theorem lifetimeRecordUpdate : ∀ x0 x1 x2, Statement (.lifetimeRecordUpdate x0 x1 x2) := by intros; intro h; trivial

theorem testComplete : ∀ x0, Statement (.testComplete x0) := by intros; intro h; trivial

end Sys2Proof.Laws.Accepts
end

