-- ==== Sys2Proof/Laws/State.lean ====
section
/-! SUPPORT. What each named update of State, Team and Slice leaves: one lemma per field. -/

namespace Sys2Proof.Machine

/-! ### putCore -/

@[simp] theorem putCore_cur (s : State) (c : Nat) (k : Core) : (putCore s c k).cur = s.cur := rfl
@[simp] theorem putCore_agenda (s : State) (c : Nat) (k : Core) : (putCore s c k).agenda = s.agenda := rfl
@[simp] theorem putCore_clock (s : State) (c : Nat) (k : Core) : (putCore s c k).clock = s.clock := rfl
@[simp] theorem putCore_wall (s : State) (c : Nat) (k : Core) : (putCore s c k).wall = s.wall := rfl
@[simp] theorem putCore_memSize (s : State) (c : Nat) (k : Core) : (putCore s c k).memSize = s.memSize := rfl
@[simp] theorem putCore_mem (s : State) (c : Nat) (k : Core) : (putCore s c k).mem = s.mem := rfl
@[simp] theorem putCore_sectorKeys (s : State) (c : Nat) (k : Core) : (putCore s c k).sectorKeys = s.sectorKeys := rfl
@[simp] theorem putCore_hostMem (s : State) (c : Nat) (k : Core) : (putCore s c k).hostMem = s.hostMem := rfl
@[simp] theorem putCore_combiner (s : State) (c : Nat) (k : Core) : (putCore s c k).combiner = s.combiner := rfl
@[simp] theorem putCore_keys (s : State) (c : Nat) (k : Core) : (putCore s c k).keys = s.keys := rfl
@[simp] theorem putCore_regs (s : State) (c : Nat) (k : Core) : (putCore s c k).regs = s.regs := rfl
@[simp] theorem putCore_counters (s : State) (c : Nat) (k : Core) : (putCore s c k).counters = s.counters := rfl
@[simp] theorem putCore_counterTs (s : State) (c : Nat) (k : Core) : (putCore s c k).counterTs = s.counterTs := rfl
@[simp] theorem putCore_dies (s : State) (c : Nat) (k : Core) : (putCore s c k).dies = s.dies := rfl
@[simp] theorem putCore_lines (s : State) (c : Nat) (k : Core) : (putCore s c k).lines = s.lines := rfl
@[simp] theorem putCore_mts (s : State) (c : Nat) (k : Core) : (putCore s c k).mts = s.mts := rfl
@[simp] theorem putCore_waiters (s : State) (c : Nat) (k : Core) : (putCore s c k).waiters = s.waiters := rfl
@[simp] theorem putCore_atomicWorlds (s : State) (c : Nat) (k : Core) : (putCore s c k).atomicWorlds = s.atomicWorlds := rfl
@[simp] theorem putCore_hl (s : State) (c : Nat) (k : Core) : (putCore s c k).hl = s.hl := rfl
@[simp] theorem putCore_fl (s : State) (c : Nat) (k : Core) : (putCore s c k).fl = s.fl := rfl
@[simp] theorem putCore_pCopies (s : State) (c : Nat) (k : Core) : (putCore s c k).pCopies = s.pCopies := rfl
@[simp] theorem putCore_fCopies (s : State) (c : Nat) (k : Core) : (putCore s c k).fCopies = s.fCopies := rfl
@[simp] theorem putCore_inflight (s : State) (c : Nat) (k : Core) : (putCore s c k).inflight = s.inflight := rfl
@[simp] theorem putCore_nextAccess (s : State) (c : Nat) (k : Core) : (putCore s c k).nextAccess = s.nextAccess := rfl
@[simp] theorem putCore_sent (s : State) (c : Nat) (k : Core) : (putCore s c k).sent = s.sent := rfl
@[simp] theorem putCore_expected (s : State) (c : Nat) (k : Core) : (putCore s c k).expected = s.expected := rfl
@[simp] theorem putCore_heldPackets (s : State) (c : Nat) (k : Core) : (putCore s c k).heldPackets = s.heldPackets := rfl
@[simp] theorem putCore_outbox (s : State) (c : Nat) (k : Core) : (putCore s c k).outbox = s.outbox := rfl
@[simp] theorem putCore_unsprayed (s : State) (c : Nat) (k : Core) : (putCore s c k).unsprayed = s.unsprayed := rfl
@[simp] theorem putCore_markers (s : State) (c : Nat) (k : Core) : (putCore s c k).markers = s.markers := rfl
@[simp] theorem putCore_late (s : State) (c : Nat) (k : Core) : (putCore s c k).late = s.late := rfl
@[simp] theorem putCore_tableReads (s : State) (c : Nat) (k : Core) : (putCore s c k).tableReads = s.tableReads := rfl
@[simp] theorem putCore_messages (s : State) (c : Nat) (k : Core) : (putCore s c k).messages = s.messages := rfl
@[simp] theorem putCore_blocked (s : State) (c : Nat) (k : Core) : (putCore s c k).blocked = s.blocked := rfl
@[simp] theorem putCore_standing (s : State) (c : Nat) (k : Core) : (putCore s c k).standing = s.standing := rfl
@[simp] theorem putCore_ended (s : State) (c : Nat) (k : Core) : (putCore s c k).ended = s.ended := rfl
@[simp] theorem putCore_remoteFaults (s : State) (c : Nat) (k : Core) : (putCore s c k).remoteFaults = s.remoteFaults := rfl
@[simp] theorem putCore_links (s : State) (c : Nat) (k : Core) : (putCore s c k).links = s.links := rfl
@[simp] theorem putCore_launchCount (s : State) (c : Nat) (k : Core) : (putCore s c k).launchCount = s.launchCount := rfl
@[simp] theorem putCore_queues (s : State) (c : Nat) (k : Core) : (putCore s c k).queues = s.queues := rfl
@[simp] theorem putCore_launches (s : State) (c : Nat) (k : Core) : (putCore s c k).launches = s.launches := rfl
@[simp] theorem putCore_gangs (s : State) (c : Nat) (k : Core) : (putCore s c k).gangs = s.gangs := rfl
@[simp] theorem putCore_visits (s : State) (c : Nat) (k : Core) : (putCore s c k).visits = s.visits := rfl
@[simp] theorem putCore_ackOrder (s : State) (c : Nat) (k : Core) : (putCore s c k).ackOrder = s.ackOrder := rfl
@[simp] theorem putCore_loaderHandler (s : State) (c : Nat) (k : Core) : (putCore s c k).loaderHandler = s.loaderHandler := rfl
@[simp] theorem putCore_launchWaits (s : State) (c : Nat) (k : Core) : (putCore s c k).launchWaits = s.launchWaits := rfl
@[simp] theorem putCore_waiting (s : State) (c : Nat) (k : Core) : (putCore s c k).waiting = s.waiting := rfl
@[simp] theorem putCore_rings (s : State) (c : Nat) (k : Core) : (putCore s c k).rings = s.rings := rfl
@[simp] theorem putCore_posted (s : State) (c : Nat) (k : Core) : (putCore s c k).posted = s.posted := rfl
@[simp] theorem putCore_pledges (s : State) (c : Nat) (k : Core) : (putCore s c k).pledges = s.pledges := rfl
@[simp] theorem putCore_partitions (s : State) (c : Nat) (k : Core) : (putCore s c k).partitions = s.partitions := rfl
@[simp] theorem putCore_cacheSets (s : State) (c : Nat) (k : Core) : (putCore s c k).cacheSets = s.cacheSets := rfl
@[simp] theorem putCore_monitors (s : State) (c : Nat) (k : Core) : (putCore s c k).monitors = s.monitors := rfl
@[simp] theorem putCore_quotaAt (s : State) (c : Nat) (k : Core) : (putCore s c k).quotaAt = s.quotaAt := rfl
@[simp] theorem putCore_hostReads (s : State) (c : Nat) (k : Core) : (putCore s c k).hostReads = s.hostReads := rfl
@[simp] theorem putCore_mailboxes (s : State) (c : Nat) (k : Core) : (putCore s c k).mailboxes = s.mailboxes := rfl
@[simp] theorem putCore_debugSlots (s : State) (c : Nat) (k : Core) : (putCore s c k).debugSlots = s.debugSlots := rfl
@[simp] theorem putCore_saltin (s : State) (c : Nat) (k : Core) : (putCore s c k).saltin = s.saltin := rfl
@[simp] theorem putCore_service (s : State) (c : Nat) (k : Core) : (putCore s c k).service = s.service := rfl

/-! ### modCore -/

@[simp] theorem modCore_cur (s : State) (c : Nat) (f : Core → Core) : (modCore s c f).cur = s.cur := rfl
@[simp] theorem modCore_agenda (s : State) (c : Nat) (f : Core → Core) : (modCore s c f).agenda = s.agenda := rfl
@[simp] theorem modCore_clock (s : State) (c : Nat) (f : Core → Core) : (modCore s c f).clock = s.clock := rfl
@[simp] theorem modCore_wall (s : State) (c : Nat) (f : Core → Core) : (modCore s c f).wall = s.wall := rfl
@[simp] theorem modCore_memSize (s : State) (c : Nat) (f : Core → Core) : (modCore s c f).memSize = s.memSize := rfl
@[simp] theorem modCore_mem (s : State) (c : Nat) (f : Core → Core) : (modCore s c f).mem = s.mem := rfl
@[simp] theorem modCore_sectorKeys (s : State) (c : Nat) (f : Core → Core) : (modCore s c f).sectorKeys = s.sectorKeys := rfl
@[simp] theorem modCore_hostMem (s : State) (c : Nat) (f : Core → Core) : (modCore s c f).hostMem = s.hostMem := rfl
@[simp] theorem modCore_combiner (s : State) (c : Nat) (f : Core → Core) : (modCore s c f).combiner = s.combiner := rfl
@[simp] theorem modCore_keys (s : State) (c : Nat) (f : Core → Core) : (modCore s c f).keys = s.keys := rfl
@[simp] theorem modCore_regs (s : State) (c : Nat) (f : Core → Core) : (modCore s c f).regs = s.regs := rfl
@[simp] theorem modCore_counters (s : State) (c : Nat) (f : Core → Core) : (modCore s c f).counters = s.counters := rfl
@[simp] theorem modCore_counterTs (s : State) (c : Nat) (f : Core → Core) : (modCore s c f).counterTs = s.counterTs := rfl
@[simp] theorem modCore_dies (s : State) (c : Nat) (f : Core → Core) : (modCore s c f).dies = s.dies := rfl
@[simp] theorem modCore_lines (s : State) (c : Nat) (f : Core → Core) : (modCore s c f).lines = s.lines := rfl
@[simp] theorem modCore_mts (s : State) (c : Nat) (f : Core → Core) : (modCore s c f).mts = s.mts := rfl
@[simp] theorem modCore_waiters (s : State) (c : Nat) (f : Core → Core) : (modCore s c f).waiters = s.waiters := rfl
@[simp] theorem modCore_atomicWorlds (s : State) (c : Nat) (f : Core → Core) : (modCore s c f).atomicWorlds = s.atomicWorlds := rfl
@[simp] theorem modCore_hl (s : State) (c : Nat) (f : Core → Core) : (modCore s c f).hl = s.hl := rfl
@[simp] theorem modCore_fl (s : State) (c : Nat) (f : Core → Core) : (modCore s c f).fl = s.fl := rfl
@[simp] theorem modCore_pCopies (s : State) (c : Nat) (f : Core → Core) : (modCore s c f).pCopies = s.pCopies := rfl
@[simp] theorem modCore_fCopies (s : State) (c : Nat) (f : Core → Core) : (modCore s c f).fCopies = s.fCopies := rfl
@[simp] theorem modCore_inflight (s : State) (c : Nat) (f : Core → Core) : (modCore s c f).inflight = s.inflight := rfl
@[simp] theorem modCore_nextAccess (s : State) (c : Nat) (f : Core → Core) : (modCore s c f).nextAccess = s.nextAccess := rfl
@[simp] theorem modCore_sent (s : State) (c : Nat) (f : Core → Core) : (modCore s c f).sent = s.sent := rfl
@[simp] theorem modCore_expected (s : State) (c : Nat) (f : Core → Core) : (modCore s c f).expected = s.expected := rfl
@[simp] theorem modCore_heldPackets (s : State) (c : Nat) (f : Core → Core) : (modCore s c f).heldPackets = s.heldPackets := rfl
@[simp] theorem modCore_outbox (s : State) (c : Nat) (f : Core → Core) : (modCore s c f).outbox = s.outbox := rfl
@[simp] theorem modCore_unsprayed (s : State) (c : Nat) (f : Core → Core) : (modCore s c f).unsprayed = s.unsprayed := rfl
@[simp] theorem modCore_markers (s : State) (c : Nat) (f : Core → Core) : (modCore s c f).markers = s.markers := rfl
@[simp] theorem modCore_late (s : State) (c : Nat) (f : Core → Core) : (modCore s c f).late = s.late := rfl
@[simp] theorem modCore_tableReads (s : State) (c : Nat) (f : Core → Core) : (modCore s c f).tableReads = s.tableReads := rfl
@[simp] theorem modCore_messages (s : State) (c : Nat) (f : Core → Core) : (modCore s c f).messages = s.messages := rfl
@[simp] theorem modCore_blocked (s : State) (c : Nat) (f : Core → Core) : (modCore s c f).blocked = s.blocked := rfl
@[simp] theorem modCore_standing (s : State) (c : Nat) (f : Core → Core) : (modCore s c f).standing = s.standing := rfl
@[simp] theorem modCore_ended (s : State) (c : Nat) (f : Core → Core) : (modCore s c f).ended = s.ended := rfl
@[simp] theorem modCore_remoteFaults (s : State) (c : Nat) (f : Core → Core) : (modCore s c f).remoteFaults = s.remoteFaults := rfl
@[simp] theorem modCore_links (s : State) (c : Nat) (f : Core → Core) : (modCore s c f).links = s.links := rfl
@[simp] theorem modCore_launchCount (s : State) (c : Nat) (f : Core → Core) : (modCore s c f).launchCount = s.launchCount := rfl
@[simp] theorem modCore_queues (s : State) (c : Nat) (f : Core → Core) : (modCore s c f).queues = s.queues := rfl
@[simp] theorem modCore_launches (s : State) (c : Nat) (f : Core → Core) : (modCore s c f).launches = s.launches := rfl
@[simp] theorem modCore_gangs (s : State) (c : Nat) (f : Core → Core) : (modCore s c f).gangs = s.gangs := rfl
@[simp] theorem modCore_visits (s : State) (c : Nat) (f : Core → Core) : (modCore s c f).visits = s.visits := rfl
@[simp] theorem modCore_ackOrder (s : State) (c : Nat) (f : Core → Core) : (modCore s c f).ackOrder = s.ackOrder := rfl
@[simp] theorem modCore_loaderHandler (s : State) (c : Nat) (f : Core → Core) : (modCore s c f).loaderHandler = s.loaderHandler := rfl
@[simp] theorem modCore_launchWaits (s : State) (c : Nat) (f : Core → Core) : (modCore s c f).launchWaits = s.launchWaits := rfl
@[simp] theorem modCore_waiting (s : State) (c : Nat) (f : Core → Core) : (modCore s c f).waiting = s.waiting := rfl
@[simp] theorem modCore_rings (s : State) (c : Nat) (f : Core → Core) : (modCore s c f).rings = s.rings := rfl
@[simp] theorem modCore_posted (s : State) (c : Nat) (f : Core → Core) : (modCore s c f).posted = s.posted := rfl
@[simp] theorem modCore_pledges (s : State) (c : Nat) (f : Core → Core) : (modCore s c f).pledges = s.pledges := rfl
@[simp] theorem modCore_partitions (s : State) (c : Nat) (f : Core → Core) : (modCore s c f).partitions = s.partitions := rfl
@[simp] theorem modCore_cacheSets (s : State) (c : Nat) (f : Core → Core) : (modCore s c f).cacheSets = s.cacheSets := rfl
@[simp] theorem modCore_monitors (s : State) (c : Nat) (f : Core → Core) : (modCore s c f).monitors = s.monitors := rfl
@[simp] theorem modCore_quotaAt (s : State) (c : Nat) (f : Core → Core) : (modCore s c f).quotaAt = s.quotaAt := rfl
@[simp] theorem modCore_hostReads (s : State) (c : Nat) (f : Core → Core) : (modCore s c f).hostReads = s.hostReads := rfl
@[simp] theorem modCore_mailboxes (s : State) (c : Nat) (f : Core → Core) : (modCore s c f).mailboxes = s.mailboxes := rfl
@[simp] theorem modCore_debugSlots (s : State) (c : Nat) (f : Core → Core) : (modCore s c f).debugSlots = s.debugSlots := rfl
@[simp] theorem modCore_saltin (s : State) (c : Nat) (f : Core → Core) : (modCore s c f).saltin = s.saltin := rfl
@[simp] theorem modCore_service (s : State) (c : Nat) (f : Core → Core) : (modCore s c f).service = s.service := rfl

/-! ### putTeam -/

@[simp] theorem putTeam_cur (s : State) (t : TeamId) (tm : Team) : (putTeam s t tm).cur = s.cur := rfl
@[simp] theorem putTeam_agenda (s : State) (t : TeamId) (tm : Team) : (putTeam s t tm).agenda = s.agenda := rfl
@[simp] theorem putTeam_clock (s : State) (t : TeamId) (tm : Team) : (putTeam s t tm).clock = s.clock := rfl
@[simp] theorem putTeam_wall (s : State) (t : TeamId) (tm : Team) : (putTeam s t tm).wall = s.wall := rfl
@[simp] theorem putTeam_memSize (s : State) (t : TeamId) (tm : Team) : (putTeam s t tm).memSize = s.memSize := rfl
@[simp] theorem putTeam_mem (s : State) (t : TeamId) (tm : Team) : (putTeam s t tm).mem = s.mem := rfl
@[simp] theorem putTeam_sectorKeys (s : State) (t : TeamId) (tm : Team) : (putTeam s t tm).sectorKeys = s.sectorKeys := rfl
@[simp] theorem putTeam_hostMem (s : State) (t : TeamId) (tm : Team) : (putTeam s t tm).hostMem = s.hostMem := rfl
@[simp] theorem putTeam_combiner (s : State) (t : TeamId) (tm : Team) : (putTeam s t tm).combiner = s.combiner := rfl
@[simp] theorem putTeam_keys (s : State) (t : TeamId) (tm : Team) : (putTeam s t tm).keys = s.keys := rfl
@[simp] theorem putTeam_regs (s : State) (t : TeamId) (tm : Team) : (putTeam s t tm).regs = s.regs := rfl
@[simp] theorem putTeam_counters (s : State) (t : TeamId) (tm : Team) : (putTeam s t tm).counters = s.counters := rfl
@[simp] theorem putTeam_counterTs (s : State) (t : TeamId) (tm : Team) : (putTeam s t tm).counterTs = s.counterTs := rfl
@[simp] theorem putTeam_dies (s : State) (t : TeamId) (tm : Team) : (putTeam s t tm).dies = s.dies := rfl
@[simp] theorem putTeam_lines (s : State) (t : TeamId) (tm : Team) : (putTeam s t tm).lines = s.lines := rfl
@[simp] theorem putTeam_mts (s : State) (t : TeamId) (tm : Team) : (putTeam s t tm).mts = s.mts := rfl
@[simp] theorem putTeam_waiters (s : State) (t : TeamId) (tm : Team) : (putTeam s t tm).waiters = s.waiters := rfl
@[simp] theorem putTeam_atomicWorlds (s : State) (t : TeamId) (tm : Team) : (putTeam s t tm).atomicWorlds = s.atomicWorlds := rfl
@[simp] theorem putTeam_hl (s : State) (t : TeamId) (tm : Team) : (putTeam s t tm).hl = s.hl := rfl
@[simp] theorem putTeam_fl (s : State) (t : TeamId) (tm : Team) : (putTeam s t tm).fl = s.fl := rfl
@[simp] theorem putTeam_pCopies (s : State) (t : TeamId) (tm : Team) : (putTeam s t tm).pCopies = s.pCopies := rfl
@[simp] theorem putTeam_fCopies (s : State) (t : TeamId) (tm : Team) : (putTeam s t tm).fCopies = s.fCopies := rfl
@[simp] theorem putTeam_inflight (s : State) (t : TeamId) (tm : Team) : (putTeam s t tm).inflight = s.inflight := rfl
@[simp] theorem putTeam_nextAccess (s : State) (t : TeamId) (tm : Team) : (putTeam s t tm).nextAccess = s.nextAccess := rfl
@[simp] theorem putTeam_sent (s : State) (t : TeamId) (tm : Team) : (putTeam s t tm).sent = s.sent := rfl
@[simp] theorem putTeam_expected (s : State) (t : TeamId) (tm : Team) : (putTeam s t tm).expected = s.expected := rfl
@[simp] theorem putTeam_heldPackets (s : State) (t : TeamId) (tm : Team) : (putTeam s t tm).heldPackets = s.heldPackets := rfl
@[simp] theorem putTeam_outbox (s : State) (t : TeamId) (tm : Team) : (putTeam s t tm).outbox = s.outbox := rfl
@[simp] theorem putTeam_unsprayed (s : State) (t : TeamId) (tm : Team) : (putTeam s t tm).unsprayed = s.unsprayed := rfl
@[simp] theorem putTeam_markers (s : State) (t : TeamId) (tm : Team) : (putTeam s t tm).markers = s.markers := rfl
@[simp] theorem putTeam_late (s : State) (t : TeamId) (tm : Team) : (putTeam s t tm).late = s.late := rfl
@[simp] theorem putTeam_tableReads (s : State) (t : TeamId) (tm : Team) : (putTeam s t tm).tableReads = s.tableReads := rfl
@[simp] theorem putTeam_messages (s : State) (t : TeamId) (tm : Team) : (putTeam s t tm).messages = s.messages := rfl
@[simp] theorem putTeam_blocked (s : State) (t : TeamId) (tm : Team) : (putTeam s t tm).blocked = s.blocked := rfl
@[simp] theorem putTeam_standing (s : State) (t : TeamId) (tm : Team) : (putTeam s t tm).standing = s.standing := rfl
@[simp] theorem putTeam_ended (s : State) (t : TeamId) (tm : Team) : (putTeam s t tm).ended = s.ended := rfl
@[simp] theorem putTeam_remoteFaults (s : State) (t : TeamId) (tm : Team) : (putTeam s t tm).remoteFaults = s.remoteFaults := rfl
@[simp] theorem putTeam_links (s : State) (t : TeamId) (tm : Team) : (putTeam s t tm).links = s.links := rfl
@[simp] theorem putTeam_launchCount (s : State) (t : TeamId) (tm : Team) : (putTeam s t tm).launchCount = s.launchCount := rfl
@[simp] theorem putTeam_queues (s : State) (t : TeamId) (tm : Team) : (putTeam s t tm).queues = s.queues := rfl
@[simp] theorem putTeam_launches (s : State) (t : TeamId) (tm : Team) : (putTeam s t tm).launches = s.launches := rfl
@[simp] theorem putTeam_gangs (s : State) (t : TeamId) (tm : Team) : (putTeam s t tm).gangs = s.gangs := rfl
@[simp] theorem putTeam_visits (s : State) (t : TeamId) (tm : Team) : (putTeam s t tm).visits = s.visits := rfl
@[simp] theorem putTeam_ackOrder (s : State) (t : TeamId) (tm : Team) : (putTeam s t tm).ackOrder = s.ackOrder := rfl
@[simp] theorem putTeam_loaderHandler (s : State) (t : TeamId) (tm : Team) : (putTeam s t tm).loaderHandler = s.loaderHandler := rfl
@[simp] theorem putTeam_launchWaits (s : State) (t : TeamId) (tm : Team) : (putTeam s t tm).launchWaits = s.launchWaits := rfl
@[simp] theorem putTeam_waiting (s : State) (t : TeamId) (tm : Team) : (putTeam s t tm).waiting = s.waiting := rfl
@[simp] theorem putTeam_rings (s : State) (t : TeamId) (tm : Team) : (putTeam s t tm).rings = s.rings := rfl
@[simp] theorem putTeam_posted (s : State) (t : TeamId) (tm : Team) : (putTeam s t tm).posted = s.posted := rfl
@[simp] theorem putTeam_pledges (s : State) (t : TeamId) (tm : Team) : (putTeam s t tm).pledges = s.pledges := rfl
@[simp] theorem putTeam_partitions (s : State) (t : TeamId) (tm : Team) : (putTeam s t tm).partitions = s.partitions := rfl
@[simp] theorem putTeam_cacheSets (s : State) (t : TeamId) (tm : Team) : (putTeam s t tm).cacheSets = s.cacheSets := rfl
@[simp] theorem putTeam_monitors (s : State) (t : TeamId) (tm : Team) : (putTeam s t tm).monitors = s.monitors := rfl
@[simp] theorem putTeam_quotaAt (s : State) (t : TeamId) (tm : Team) : (putTeam s t tm).quotaAt = s.quotaAt := rfl
@[simp] theorem putTeam_hostReads (s : State) (t : TeamId) (tm : Team) : (putTeam s t tm).hostReads = s.hostReads := rfl
@[simp] theorem putTeam_mailboxes (s : State) (t : TeamId) (tm : Team) : (putTeam s t tm).mailboxes = s.mailboxes := rfl
@[simp] theorem putTeam_debugSlots (s : State) (t : TeamId) (tm : Team) : (putTeam s t tm).debugSlots = s.debugSlots := rfl
@[simp] theorem putTeam_saltin (s : State) (t : TeamId) (tm : Team) : (putTeam s t tm).saltin = s.saltin := rfl
@[simp] theorem putTeam_service (s : State) (t : TeamId) (tm : Team) : (putTeam s t tm).service = s.service := rfl

/-! ### putSlice -/

@[simp] theorem putSlice_cur (s : State) (id : SliceId) (tm : Team) (sl : Slice) : (putSlice s id tm sl).cur = s.cur := rfl
@[simp] theorem putSlice_agenda (s : State) (id : SliceId) (tm : Team) (sl : Slice) : (putSlice s id tm sl).agenda = s.agenda := rfl
@[simp] theorem putSlice_clock (s : State) (id : SliceId) (tm : Team) (sl : Slice) : (putSlice s id tm sl).clock = s.clock := rfl
@[simp] theorem putSlice_wall (s : State) (id : SliceId) (tm : Team) (sl : Slice) : (putSlice s id tm sl).wall = s.wall := rfl
@[simp] theorem putSlice_memSize (s : State) (id : SliceId) (tm : Team) (sl : Slice) : (putSlice s id tm sl).memSize = s.memSize := rfl
@[simp] theorem putSlice_mem (s : State) (id : SliceId) (tm : Team) (sl : Slice) : (putSlice s id tm sl).mem = s.mem := rfl
@[simp] theorem putSlice_sectorKeys (s : State) (id : SliceId) (tm : Team) (sl : Slice) : (putSlice s id tm sl).sectorKeys = s.sectorKeys := rfl
@[simp] theorem putSlice_hostMem (s : State) (id : SliceId) (tm : Team) (sl : Slice) : (putSlice s id tm sl).hostMem = s.hostMem := rfl
@[simp] theorem putSlice_combiner (s : State) (id : SliceId) (tm : Team) (sl : Slice) : (putSlice s id tm sl).combiner = s.combiner := rfl
@[simp] theorem putSlice_keys (s : State) (id : SliceId) (tm : Team) (sl : Slice) : (putSlice s id tm sl).keys = s.keys := rfl
@[simp] theorem putSlice_regs (s : State) (id : SliceId) (tm : Team) (sl : Slice) : (putSlice s id tm sl).regs = s.regs := rfl
@[simp] theorem putSlice_counters (s : State) (id : SliceId) (tm : Team) (sl : Slice) : (putSlice s id tm sl).counters = s.counters := rfl
@[simp] theorem putSlice_counterTs (s : State) (id : SliceId) (tm : Team) (sl : Slice) : (putSlice s id tm sl).counterTs = s.counterTs := rfl
@[simp] theorem putSlice_dies (s : State) (id : SliceId) (tm : Team) (sl : Slice) : (putSlice s id tm sl).dies = s.dies := rfl
@[simp] theorem putSlice_lines (s : State) (id : SliceId) (tm : Team) (sl : Slice) : (putSlice s id tm sl).lines = s.lines := rfl
@[simp] theorem putSlice_mts (s : State) (id : SliceId) (tm : Team) (sl : Slice) : (putSlice s id tm sl).mts = s.mts := rfl
@[simp] theorem putSlice_waiters (s : State) (id : SliceId) (tm : Team) (sl : Slice) : (putSlice s id tm sl).waiters = s.waiters := rfl
@[simp] theorem putSlice_atomicWorlds (s : State) (id : SliceId) (tm : Team) (sl : Slice) : (putSlice s id tm sl).atomicWorlds = s.atomicWorlds := rfl
@[simp] theorem putSlice_hl (s : State) (id : SliceId) (tm : Team) (sl : Slice) : (putSlice s id tm sl).hl = s.hl := rfl
@[simp] theorem putSlice_fl (s : State) (id : SliceId) (tm : Team) (sl : Slice) : (putSlice s id tm sl).fl = s.fl := rfl
@[simp] theorem putSlice_pCopies (s : State) (id : SliceId) (tm : Team) (sl : Slice) : (putSlice s id tm sl).pCopies = s.pCopies := rfl
@[simp] theorem putSlice_fCopies (s : State) (id : SliceId) (tm : Team) (sl : Slice) : (putSlice s id tm sl).fCopies = s.fCopies := rfl
@[simp] theorem putSlice_inflight (s : State) (id : SliceId) (tm : Team) (sl : Slice) : (putSlice s id tm sl).inflight = s.inflight := rfl
@[simp] theorem putSlice_nextAccess (s : State) (id : SliceId) (tm : Team) (sl : Slice) : (putSlice s id tm sl).nextAccess = s.nextAccess := rfl
@[simp] theorem putSlice_sent (s : State) (id : SliceId) (tm : Team) (sl : Slice) : (putSlice s id tm sl).sent = s.sent := rfl
@[simp] theorem putSlice_expected (s : State) (id : SliceId) (tm : Team) (sl : Slice) : (putSlice s id tm sl).expected = s.expected := rfl
@[simp] theorem putSlice_heldPackets (s : State) (id : SliceId) (tm : Team) (sl : Slice) : (putSlice s id tm sl).heldPackets = s.heldPackets := rfl
@[simp] theorem putSlice_outbox (s : State) (id : SliceId) (tm : Team) (sl : Slice) : (putSlice s id tm sl).outbox = s.outbox := rfl
@[simp] theorem putSlice_unsprayed (s : State) (id : SliceId) (tm : Team) (sl : Slice) : (putSlice s id tm sl).unsprayed = s.unsprayed := rfl
@[simp] theorem putSlice_markers (s : State) (id : SliceId) (tm : Team) (sl : Slice) : (putSlice s id tm sl).markers = s.markers := rfl
@[simp] theorem putSlice_late (s : State) (id : SliceId) (tm : Team) (sl : Slice) : (putSlice s id tm sl).late = s.late := rfl
@[simp] theorem putSlice_tableReads (s : State) (id : SliceId) (tm : Team) (sl : Slice) : (putSlice s id tm sl).tableReads = s.tableReads := rfl
@[simp] theorem putSlice_messages (s : State) (id : SliceId) (tm : Team) (sl : Slice) : (putSlice s id tm sl).messages = s.messages := rfl
@[simp] theorem putSlice_blocked (s : State) (id : SliceId) (tm : Team) (sl : Slice) : (putSlice s id tm sl).blocked = s.blocked := rfl
@[simp] theorem putSlice_standing (s : State) (id : SliceId) (tm : Team) (sl : Slice) : (putSlice s id tm sl).standing = s.standing := rfl
@[simp] theorem putSlice_ended (s : State) (id : SliceId) (tm : Team) (sl : Slice) : (putSlice s id tm sl).ended = s.ended := rfl
@[simp] theorem putSlice_remoteFaults (s : State) (id : SliceId) (tm : Team) (sl : Slice) : (putSlice s id tm sl).remoteFaults = s.remoteFaults := rfl
@[simp] theorem putSlice_links (s : State) (id : SliceId) (tm : Team) (sl : Slice) : (putSlice s id tm sl).links = s.links := rfl
@[simp] theorem putSlice_launchCount (s : State) (id : SliceId) (tm : Team) (sl : Slice) : (putSlice s id tm sl).launchCount = s.launchCount := rfl
@[simp] theorem putSlice_queues (s : State) (id : SliceId) (tm : Team) (sl : Slice) : (putSlice s id tm sl).queues = s.queues := rfl
@[simp] theorem putSlice_launches (s : State) (id : SliceId) (tm : Team) (sl : Slice) : (putSlice s id tm sl).launches = s.launches := rfl
@[simp] theorem putSlice_gangs (s : State) (id : SliceId) (tm : Team) (sl : Slice) : (putSlice s id tm sl).gangs = s.gangs := rfl
@[simp] theorem putSlice_visits (s : State) (id : SliceId) (tm : Team) (sl : Slice) : (putSlice s id tm sl).visits = s.visits := rfl
@[simp] theorem putSlice_ackOrder (s : State) (id : SliceId) (tm : Team) (sl : Slice) : (putSlice s id tm sl).ackOrder = s.ackOrder := rfl
@[simp] theorem putSlice_loaderHandler (s : State) (id : SliceId) (tm : Team) (sl : Slice) : (putSlice s id tm sl).loaderHandler = s.loaderHandler := rfl
@[simp] theorem putSlice_launchWaits (s : State) (id : SliceId) (tm : Team) (sl : Slice) : (putSlice s id tm sl).launchWaits = s.launchWaits := rfl
@[simp] theorem putSlice_waiting (s : State) (id : SliceId) (tm : Team) (sl : Slice) : (putSlice s id tm sl).waiting = s.waiting := rfl
@[simp] theorem putSlice_rings (s : State) (id : SliceId) (tm : Team) (sl : Slice) : (putSlice s id tm sl).rings = s.rings := rfl
@[simp] theorem putSlice_posted (s : State) (id : SliceId) (tm : Team) (sl : Slice) : (putSlice s id tm sl).posted = s.posted := rfl
@[simp] theorem putSlice_pledges (s : State) (id : SliceId) (tm : Team) (sl : Slice) : (putSlice s id tm sl).pledges = s.pledges := rfl
@[simp] theorem putSlice_partitions (s : State) (id : SliceId) (tm : Team) (sl : Slice) : (putSlice s id tm sl).partitions = s.partitions := rfl
@[simp] theorem putSlice_cacheSets (s : State) (id : SliceId) (tm : Team) (sl : Slice) : (putSlice s id tm sl).cacheSets = s.cacheSets := rfl
@[simp] theorem putSlice_monitors (s : State) (id : SliceId) (tm : Team) (sl : Slice) : (putSlice s id tm sl).monitors = s.monitors := rfl
@[simp] theorem putSlice_quotaAt (s : State) (id : SliceId) (tm : Team) (sl : Slice) : (putSlice s id tm sl).quotaAt = s.quotaAt := rfl
@[simp] theorem putSlice_hostReads (s : State) (id : SliceId) (tm : Team) (sl : Slice) : (putSlice s id tm sl).hostReads = s.hostReads := rfl
@[simp] theorem putSlice_mailboxes (s : State) (id : SliceId) (tm : Team) (sl : Slice) : (putSlice s id tm sl).mailboxes = s.mailboxes := rfl
@[simp] theorem putSlice_debugSlots (s : State) (id : SliceId) (tm : Team) (sl : Slice) : (putSlice s id tm sl).debugSlots = s.debugSlots := rfl
@[simp] theorem putSlice_saltin (s : State) (id : SliceId) (tm : Team) (sl : Slice) : (putSlice s id tm sl).saltin = s.saltin := rfl
@[simp] theorem putSlice_service (s : State) (id : SliceId) (tm : Team) (sl : Slice) : (putSlice s id tm sl).service = s.service := rfl

/-! ### modSlice -/

@[simp] theorem modSlice_cur (s : State) (id : SliceId) (f : Slice → Slice) : (modSlice s id f).cur = s.cur := by unfold modSlice; split <;> rfl
@[simp] theorem modSlice_agenda (s : State) (id : SliceId) (f : Slice → Slice) : (modSlice s id f).agenda = s.agenda := by unfold modSlice; split <;> rfl
@[simp] theorem modSlice_clock (s : State) (id : SliceId) (f : Slice → Slice) : (modSlice s id f).clock = s.clock := by unfold modSlice; split <;> rfl
@[simp] theorem modSlice_wall (s : State) (id : SliceId) (f : Slice → Slice) : (modSlice s id f).wall = s.wall := by unfold modSlice; split <;> rfl
@[simp] theorem modSlice_memSize (s : State) (id : SliceId) (f : Slice → Slice) : (modSlice s id f).memSize = s.memSize := by unfold modSlice; split <;> rfl
@[simp] theorem modSlice_mem (s : State) (id : SliceId) (f : Slice → Slice) : (modSlice s id f).mem = s.mem := by unfold modSlice; split <;> rfl
@[simp] theorem modSlice_sectorKeys (s : State) (id : SliceId) (f : Slice → Slice) : (modSlice s id f).sectorKeys = s.sectorKeys := by unfold modSlice; split <;> rfl
@[simp] theorem modSlice_hostMem (s : State) (id : SliceId) (f : Slice → Slice) : (modSlice s id f).hostMem = s.hostMem := by unfold modSlice; split <;> rfl
@[simp] theorem modSlice_combiner (s : State) (id : SliceId) (f : Slice → Slice) : (modSlice s id f).combiner = s.combiner := by unfold modSlice; split <;> rfl
@[simp] theorem modSlice_keys (s : State) (id : SliceId) (f : Slice → Slice) : (modSlice s id f).keys = s.keys := by unfold modSlice; split <;> rfl
@[simp] theorem modSlice_regs (s : State) (id : SliceId) (f : Slice → Slice) : (modSlice s id f).regs = s.regs := by unfold modSlice; split <;> rfl
@[simp] theorem modSlice_counters (s : State) (id : SliceId) (f : Slice → Slice) : (modSlice s id f).counters = s.counters := by unfold modSlice; split <;> rfl
@[simp] theorem modSlice_counterTs (s : State) (id : SliceId) (f : Slice → Slice) : (modSlice s id f).counterTs = s.counterTs := by unfold modSlice; split <;> rfl
@[simp] theorem modSlice_dies (s : State) (id : SliceId) (f : Slice → Slice) : (modSlice s id f).dies = s.dies := by unfold modSlice; split <;> rfl
@[simp] theorem modSlice_lines (s : State) (id : SliceId) (f : Slice → Slice) : (modSlice s id f).lines = s.lines := by unfold modSlice; split <;> rfl
@[simp] theorem modSlice_mts (s : State) (id : SliceId) (f : Slice → Slice) : (modSlice s id f).mts = s.mts := by unfold modSlice; split <;> rfl
@[simp] theorem modSlice_waiters (s : State) (id : SliceId) (f : Slice → Slice) : (modSlice s id f).waiters = s.waiters := by unfold modSlice; split <;> rfl
@[simp] theorem modSlice_atomicWorlds (s : State) (id : SliceId) (f : Slice → Slice) : (modSlice s id f).atomicWorlds = s.atomicWorlds := by unfold modSlice; split <;> rfl
@[simp] theorem modSlice_hl (s : State) (id : SliceId) (f : Slice → Slice) : (modSlice s id f).hl = s.hl := by unfold modSlice; split <;> rfl
@[simp] theorem modSlice_fl (s : State) (id : SliceId) (f : Slice → Slice) : (modSlice s id f).fl = s.fl := by unfold modSlice; split <;> rfl
@[simp] theorem modSlice_pCopies (s : State) (id : SliceId) (f : Slice → Slice) : (modSlice s id f).pCopies = s.pCopies := by unfold modSlice; split <;> rfl
@[simp] theorem modSlice_fCopies (s : State) (id : SliceId) (f : Slice → Slice) : (modSlice s id f).fCopies = s.fCopies := by unfold modSlice; split <;> rfl
@[simp] theorem modSlice_inflight (s : State) (id : SliceId) (f : Slice → Slice) : (modSlice s id f).inflight = s.inflight := by unfold modSlice; split <;> rfl
@[simp] theorem modSlice_nextAccess (s : State) (id : SliceId) (f : Slice → Slice) : (modSlice s id f).nextAccess = s.nextAccess := by unfold modSlice; split <;> rfl
@[simp] theorem modSlice_sent (s : State) (id : SliceId) (f : Slice → Slice) : (modSlice s id f).sent = s.sent := by unfold modSlice; split <;> rfl
@[simp] theorem modSlice_expected (s : State) (id : SliceId) (f : Slice → Slice) : (modSlice s id f).expected = s.expected := by unfold modSlice; split <;> rfl
@[simp] theorem modSlice_heldPackets (s : State) (id : SliceId) (f : Slice → Slice) : (modSlice s id f).heldPackets = s.heldPackets := by unfold modSlice; split <;> rfl
@[simp] theorem modSlice_outbox (s : State) (id : SliceId) (f : Slice → Slice) : (modSlice s id f).outbox = s.outbox := by unfold modSlice; split <;> rfl
@[simp] theorem modSlice_unsprayed (s : State) (id : SliceId) (f : Slice → Slice) : (modSlice s id f).unsprayed = s.unsprayed := by unfold modSlice; split <;> rfl
@[simp] theorem modSlice_markers (s : State) (id : SliceId) (f : Slice → Slice) : (modSlice s id f).markers = s.markers := by unfold modSlice; split <;> rfl
@[simp] theorem modSlice_late (s : State) (id : SliceId) (f : Slice → Slice) : (modSlice s id f).late = s.late := by unfold modSlice; split <;> rfl
@[simp] theorem modSlice_tableReads (s : State) (id : SliceId) (f : Slice → Slice) : (modSlice s id f).tableReads = s.tableReads := by unfold modSlice; split <;> rfl
@[simp] theorem modSlice_messages (s : State) (id : SliceId) (f : Slice → Slice) : (modSlice s id f).messages = s.messages := by unfold modSlice; split <;> rfl
@[simp] theorem modSlice_blocked (s : State) (id : SliceId) (f : Slice → Slice) : (modSlice s id f).blocked = s.blocked := by unfold modSlice; split <;> rfl
@[simp] theorem modSlice_standing (s : State) (id : SliceId) (f : Slice → Slice) : (modSlice s id f).standing = s.standing := by unfold modSlice; split <;> rfl
@[simp] theorem modSlice_ended (s : State) (id : SliceId) (f : Slice → Slice) : (modSlice s id f).ended = s.ended := by unfold modSlice; split <;> rfl
@[simp] theorem modSlice_remoteFaults (s : State) (id : SliceId) (f : Slice → Slice) : (modSlice s id f).remoteFaults = s.remoteFaults := by unfold modSlice; split <;> rfl
@[simp] theorem modSlice_links (s : State) (id : SliceId) (f : Slice → Slice) : (modSlice s id f).links = s.links := by unfold modSlice; split <;> rfl
@[simp] theorem modSlice_launchCount (s : State) (id : SliceId) (f : Slice → Slice) : (modSlice s id f).launchCount = s.launchCount := by unfold modSlice; split <;> rfl
@[simp] theorem modSlice_queues (s : State) (id : SliceId) (f : Slice → Slice) : (modSlice s id f).queues = s.queues := by unfold modSlice; split <;> rfl
@[simp] theorem modSlice_launches (s : State) (id : SliceId) (f : Slice → Slice) : (modSlice s id f).launches = s.launches := by unfold modSlice; split <;> rfl
@[simp] theorem modSlice_gangs (s : State) (id : SliceId) (f : Slice → Slice) : (modSlice s id f).gangs = s.gangs := by unfold modSlice; split <;> rfl
@[simp] theorem modSlice_visits (s : State) (id : SliceId) (f : Slice → Slice) : (modSlice s id f).visits = s.visits := by unfold modSlice; split <;> rfl
@[simp] theorem modSlice_ackOrder (s : State) (id : SliceId) (f : Slice → Slice) : (modSlice s id f).ackOrder = s.ackOrder := by unfold modSlice; split <;> rfl
@[simp] theorem modSlice_loaderHandler (s : State) (id : SliceId) (f : Slice → Slice) : (modSlice s id f).loaderHandler = s.loaderHandler := by unfold modSlice; split <;> rfl
@[simp] theorem modSlice_launchWaits (s : State) (id : SliceId) (f : Slice → Slice) : (modSlice s id f).launchWaits = s.launchWaits := by unfold modSlice; split <;> rfl
@[simp] theorem modSlice_waiting (s : State) (id : SliceId) (f : Slice → Slice) : (modSlice s id f).waiting = s.waiting := by unfold modSlice; split <;> rfl
@[simp] theorem modSlice_rings (s : State) (id : SliceId) (f : Slice → Slice) : (modSlice s id f).rings = s.rings := by unfold modSlice; split <;> rfl
@[simp] theorem modSlice_posted (s : State) (id : SliceId) (f : Slice → Slice) : (modSlice s id f).posted = s.posted := by unfold modSlice; split <;> rfl
@[simp] theorem modSlice_pledges (s : State) (id : SliceId) (f : Slice → Slice) : (modSlice s id f).pledges = s.pledges := by unfold modSlice; split <;> rfl
@[simp] theorem modSlice_partitions (s : State) (id : SliceId) (f : Slice → Slice) : (modSlice s id f).partitions = s.partitions := by unfold modSlice; split <;> rfl
@[simp] theorem modSlice_cacheSets (s : State) (id : SliceId) (f : Slice → Slice) : (modSlice s id f).cacheSets = s.cacheSets := by unfold modSlice; split <;> rfl
@[simp] theorem modSlice_monitors (s : State) (id : SliceId) (f : Slice → Slice) : (modSlice s id f).monitors = s.monitors := by unfold modSlice; split <;> rfl
@[simp] theorem modSlice_quotaAt (s : State) (id : SliceId) (f : Slice → Slice) : (modSlice s id f).quotaAt = s.quotaAt := by unfold modSlice; split <;> rfl
@[simp] theorem modSlice_hostReads (s : State) (id : SliceId) (f : Slice → Slice) : (modSlice s id f).hostReads = s.hostReads := by unfold modSlice; split <;> rfl
@[simp] theorem modSlice_mailboxes (s : State) (id : SliceId) (f : Slice → Slice) : (modSlice s id f).mailboxes = s.mailboxes := by unfold modSlice; split <;> rfl
@[simp] theorem modSlice_debugSlots (s : State) (id : SliceId) (f : Slice → Slice) : (modSlice s id f).debugSlots = s.debugSlots := by unfold modSlice; split <;> rfl
@[simp] theorem modSlice_saltin (s : State) (id : SliceId) (f : Slice → Slice) : (modSlice s id f).saltin = s.saltin := by unfold modSlice; split <;> rfl
@[simp] theorem modSlice_service (s : State) (id : SliceId) (f : Slice → Slice) : (modSlice s id f).service = s.service := by unfold modSlice; split <;> rfl

/-! ### modTeam -/

@[simp] theorem modTeam_cur (s : State) (t : TeamId) (f : Team → Team) : (modTeam s t f).cur = s.cur := by unfold modTeam; split <;> rfl
@[simp] theorem modTeam_agenda (s : State) (t : TeamId) (f : Team → Team) : (modTeam s t f).agenda = s.agenda := by unfold modTeam; split <;> rfl
@[simp] theorem modTeam_clock (s : State) (t : TeamId) (f : Team → Team) : (modTeam s t f).clock = s.clock := by unfold modTeam; split <;> rfl
@[simp] theorem modTeam_wall (s : State) (t : TeamId) (f : Team → Team) : (modTeam s t f).wall = s.wall := by unfold modTeam; split <;> rfl
@[simp] theorem modTeam_memSize (s : State) (t : TeamId) (f : Team → Team) : (modTeam s t f).memSize = s.memSize := by unfold modTeam; split <;> rfl
@[simp] theorem modTeam_mem (s : State) (t : TeamId) (f : Team → Team) : (modTeam s t f).mem = s.mem := by unfold modTeam; split <;> rfl
@[simp] theorem modTeam_sectorKeys (s : State) (t : TeamId) (f : Team → Team) : (modTeam s t f).sectorKeys = s.sectorKeys := by unfold modTeam; split <;> rfl
@[simp] theorem modTeam_hostMem (s : State) (t : TeamId) (f : Team → Team) : (modTeam s t f).hostMem = s.hostMem := by unfold modTeam; split <;> rfl
@[simp] theorem modTeam_combiner (s : State) (t : TeamId) (f : Team → Team) : (modTeam s t f).combiner = s.combiner := by unfold modTeam; split <;> rfl
@[simp] theorem modTeam_keys (s : State) (t : TeamId) (f : Team → Team) : (modTeam s t f).keys = s.keys := by unfold modTeam; split <;> rfl
@[simp] theorem modTeam_regs (s : State) (t : TeamId) (f : Team → Team) : (modTeam s t f).regs = s.regs := by unfold modTeam; split <;> rfl
@[simp] theorem modTeam_counters (s : State) (t : TeamId) (f : Team → Team) : (modTeam s t f).counters = s.counters := by unfold modTeam; split <;> rfl
@[simp] theorem modTeam_counterTs (s : State) (t : TeamId) (f : Team → Team) : (modTeam s t f).counterTs = s.counterTs := by unfold modTeam; split <;> rfl
@[simp] theorem modTeam_dies (s : State) (t : TeamId) (f : Team → Team) : (modTeam s t f).dies = s.dies := by unfold modTeam; split <;> rfl
@[simp] theorem modTeam_lines (s : State) (t : TeamId) (f : Team → Team) : (modTeam s t f).lines = s.lines := by unfold modTeam; split <;> rfl
@[simp] theorem modTeam_mts (s : State) (t : TeamId) (f : Team → Team) : (modTeam s t f).mts = s.mts := by unfold modTeam; split <;> rfl
@[simp] theorem modTeam_waiters (s : State) (t : TeamId) (f : Team → Team) : (modTeam s t f).waiters = s.waiters := by unfold modTeam; split <;> rfl
@[simp] theorem modTeam_atomicWorlds (s : State) (t : TeamId) (f : Team → Team) : (modTeam s t f).atomicWorlds = s.atomicWorlds := by unfold modTeam; split <;> rfl
@[simp] theorem modTeam_hl (s : State) (t : TeamId) (f : Team → Team) : (modTeam s t f).hl = s.hl := by unfold modTeam; split <;> rfl
@[simp] theorem modTeam_fl (s : State) (t : TeamId) (f : Team → Team) : (modTeam s t f).fl = s.fl := by unfold modTeam; split <;> rfl
@[simp] theorem modTeam_pCopies (s : State) (t : TeamId) (f : Team → Team) : (modTeam s t f).pCopies = s.pCopies := by unfold modTeam; split <;> rfl
@[simp] theorem modTeam_fCopies (s : State) (t : TeamId) (f : Team → Team) : (modTeam s t f).fCopies = s.fCopies := by unfold modTeam; split <;> rfl
@[simp] theorem modTeam_inflight (s : State) (t : TeamId) (f : Team → Team) : (modTeam s t f).inflight = s.inflight := by unfold modTeam; split <;> rfl
@[simp] theorem modTeam_nextAccess (s : State) (t : TeamId) (f : Team → Team) : (modTeam s t f).nextAccess = s.nextAccess := by unfold modTeam; split <;> rfl
@[simp] theorem modTeam_sent (s : State) (t : TeamId) (f : Team → Team) : (modTeam s t f).sent = s.sent := by unfold modTeam; split <;> rfl
@[simp] theorem modTeam_expected (s : State) (t : TeamId) (f : Team → Team) : (modTeam s t f).expected = s.expected := by unfold modTeam; split <;> rfl
@[simp] theorem modTeam_heldPackets (s : State) (t : TeamId) (f : Team → Team) : (modTeam s t f).heldPackets = s.heldPackets := by unfold modTeam; split <;> rfl
@[simp] theorem modTeam_outbox (s : State) (t : TeamId) (f : Team → Team) : (modTeam s t f).outbox = s.outbox := by unfold modTeam; split <;> rfl
@[simp] theorem modTeam_unsprayed (s : State) (t : TeamId) (f : Team → Team) : (modTeam s t f).unsprayed = s.unsprayed := by unfold modTeam; split <;> rfl
@[simp] theorem modTeam_markers (s : State) (t : TeamId) (f : Team → Team) : (modTeam s t f).markers = s.markers := by unfold modTeam; split <;> rfl
@[simp] theorem modTeam_late (s : State) (t : TeamId) (f : Team → Team) : (modTeam s t f).late = s.late := by unfold modTeam; split <;> rfl
@[simp] theorem modTeam_tableReads (s : State) (t : TeamId) (f : Team → Team) : (modTeam s t f).tableReads = s.tableReads := by unfold modTeam; split <;> rfl
@[simp] theorem modTeam_messages (s : State) (t : TeamId) (f : Team → Team) : (modTeam s t f).messages = s.messages := by unfold modTeam; split <;> rfl
@[simp] theorem modTeam_blocked (s : State) (t : TeamId) (f : Team → Team) : (modTeam s t f).blocked = s.blocked := by unfold modTeam; split <;> rfl
@[simp] theorem modTeam_standing (s : State) (t : TeamId) (f : Team → Team) : (modTeam s t f).standing = s.standing := by unfold modTeam; split <;> rfl
@[simp] theorem modTeam_ended (s : State) (t : TeamId) (f : Team → Team) : (modTeam s t f).ended = s.ended := by unfold modTeam; split <;> rfl
@[simp] theorem modTeam_remoteFaults (s : State) (t : TeamId) (f : Team → Team) : (modTeam s t f).remoteFaults = s.remoteFaults := by unfold modTeam; split <;> rfl
@[simp] theorem modTeam_links (s : State) (t : TeamId) (f : Team → Team) : (modTeam s t f).links = s.links := by unfold modTeam; split <;> rfl
@[simp] theorem modTeam_launchCount (s : State) (t : TeamId) (f : Team → Team) : (modTeam s t f).launchCount = s.launchCount := by unfold modTeam; split <;> rfl
@[simp] theorem modTeam_queues (s : State) (t : TeamId) (f : Team → Team) : (modTeam s t f).queues = s.queues := by unfold modTeam; split <;> rfl
@[simp] theorem modTeam_launches (s : State) (t : TeamId) (f : Team → Team) : (modTeam s t f).launches = s.launches := by unfold modTeam; split <;> rfl
@[simp] theorem modTeam_gangs (s : State) (t : TeamId) (f : Team → Team) : (modTeam s t f).gangs = s.gangs := by unfold modTeam; split <;> rfl
@[simp] theorem modTeam_visits (s : State) (t : TeamId) (f : Team → Team) : (modTeam s t f).visits = s.visits := by unfold modTeam; split <;> rfl
@[simp] theorem modTeam_ackOrder (s : State) (t : TeamId) (f : Team → Team) : (modTeam s t f).ackOrder = s.ackOrder := by unfold modTeam; split <;> rfl
@[simp] theorem modTeam_loaderHandler (s : State) (t : TeamId) (f : Team → Team) : (modTeam s t f).loaderHandler = s.loaderHandler := by unfold modTeam; split <;> rfl
@[simp] theorem modTeam_launchWaits (s : State) (t : TeamId) (f : Team → Team) : (modTeam s t f).launchWaits = s.launchWaits := by unfold modTeam; split <;> rfl
@[simp] theorem modTeam_waiting (s : State) (t : TeamId) (f : Team → Team) : (modTeam s t f).waiting = s.waiting := by unfold modTeam; split <;> rfl
@[simp] theorem modTeam_rings (s : State) (t : TeamId) (f : Team → Team) : (modTeam s t f).rings = s.rings := by unfold modTeam; split <;> rfl
@[simp] theorem modTeam_posted (s : State) (t : TeamId) (f : Team → Team) : (modTeam s t f).posted = s.posted := by unfold modTeam; split <;> rfl
@[simp] theorem modTeam_pledges (s : State) (t : TeamId) (f : Team → Team) : (modTeam s t f).pledges = s.pledges := by unfold modTeam; split <;> rfl
@[simp] theorem modTeam_partitions (s : State) (t : TeamId) (f : Team → Team) : (modTeam s t f).partitions = s.partitions := by unfold modTeam; split <;> rfl
@[simp] theorem modTeam_cacheSets (s : State) (t : TeamId) (f : Team → Team) : (modTeam s t f).cacheSets = s.cacheSets := by unfold modTeam; split <;> rfl
@[simp] theorem modTeam_monitors (s : State) (t : TeamId) (f : Team → Team) : (modTeam s t f).monitors = s.monitors := by unfold modTeam; split <;> rfl
@[simp] theorem modTeam_quotaAt (s : State) (t : TeamId) (f : Team → Team) : (modTeam s t f).quotaAt = s.quotaAt := by unfold modTeam; split <;> rfl
@[simp] theorem modTeam_hostReads (s : State) (t : TeamId) (f : Team → Team) : (modTeam s t f).hostReads = s.hostReads := by unfold modTeam; split <;> rfl
@[simp] theorem modTeam_mailboxes (s : State) (t : TeamId) (f : Team → Team) : (modTeam s t f).mailboxes = s.mailboxes := by unfold modTeam; split <;> rfl
@[simp] theorem modTeam_debugSlots (s : State) (t : TeamId) (f : Team → Team) : (modTeam s t f).debugSlots = s.debugSlots := by unfold modTeam; split <;> rfl
@[simp] theorem modTeam_saltin (s : State) (t : TeamId) (f : Team → Team) : (modTeam s t f).saltin = s.saltin := by unfold modTeam; split <;> rfl
@[simp] theorem modTeam_service (s : State) (t : TeamId) (f : Team → Team) : (modTeam s t f).service = s.service := by unfold modTeam; split <;> rfl

/-! ### modDie -/

@[simp] theorem modDie_cur (s : State) (d : Nat) (f : Die → Die) : (modDie s d f).cur = s.cur := rfl
@[simp] theorem modDie_agenda (s : State) (d : Nat) (f : Die → Die) : (modDie s d f).agenda = s.agenda := rfl
@[simp] theorem modDie_clock (s : State) (d : Nat) (f : Die → Die) : (modDie s d f).clock = s.clock := rfl
@[simp] theorem modDie_wall (s : State) (d : Nat) (f : Die → Die) : (modDie s d f).wall = s.wall := rfl
@[simp] theorem modDie_memSize (s : State) (d : Nat) (f : Die → Die) : (modDie s d f).memSize = s.memSize := rfl
@[simp] theorem modDie_mem (s : State) (d : Nat) (f : Die → Die) : (modDie s d f).mem = s.mem := rfl
@[simp] theorem modDie_sectorKeys (s : State) (d : Nat) (f : Die → Die) : (modDie s d f).sectorKeys = s.sectorKeys := rfl
@[simp] theorem modDie_hostMem (s : State) (d : Nat) (f : Die → Die) : (modDie s d f).hostMem = s.hostMem := rfl
@[simp] theorem modDie_combiner (s : State) (d : Nat) (f : Die → Die) : (modDie s d f).combiner = s.combiner := rfl
@[simp] theorem modDie_keys (s : State) (d : Nat) (f : Die → Die) : (modDie s d f).keys = s.keys := rfl
@[simp] theorem modDie_regs (s : State) (d : Nat) (f : Die → Die) : (modDie s d f).regs = s.regs := rfl
@[simp] theorem modDie_counters (s : State) (d : Nat) (f : Die → Die) : (modDie s d f).counters = s.counters := rfl
@[simp] theorem modDie_counterTs (s : State) (d : Nat) (f : Die → Die) : (modDie s d f).counterTs = s.counterTs := rfl
@[simp] theorem modDie_cores (s : State) (d : Nat) (f : Die → Die) : (modDie s d f).cores = s.cores := rfl
@[simp] theorem modDie_lines (s : State) (d : Nat) (f : Die → Die) : (modDie s d f).lines = s.lines := rfl
@[simp] theorem modDie_mts (s : State) (d : Nat) (f : Die → Die) : (modDie s d f).mts = s.mts := rfl
@[simp] theorem modDie_waiters (s : State) (d : Nat) (f : Die → Die) : (modDie s d f).waiters = s.waiters := rfl
@[simp] theorem modDie_atomicWorlds (s : State) (d : Nat) (f : Die → Die) : (modDie s d f).atomicWorlds = s.atomicWorlds := rfl
@[simp] theorem modDie_hl (s : State) (d : Nat) (f : Die → Die) : (modDie s d f).hl = s.hl := rfl
@[simp] theorem modDie_fl (s : State) (d : Nat) (f : Die → Die) : (modDie s d f).fl = s.fl := rfl
@[simp] theorem modDie_pCopies (s : State) (d : Nat) (f : Die → Die) : (modDie s d f).pCopies = s.pCopies := rfl
@[simp] theorem modDie_fCopies (s : State) (d : Nat) (f : Die → Die) : (modDie s d f).fCopies = s.fCopies := rfl
@[simp] theorem modDie_inflight (s : State) (d : Nat) (f : Die → Die) : (modDie s d f).inflight = s.inflight := rfl
@[simp] theorem modDie_nextAccess (s : State) (d : Nat) (f : Die → Die) : (modDie s d f).nextAccess = s.nextAccess := rfl
@[simp] theorem modDie_sent (s : State) (d : Nat) (f : Die → Die) : (modDie s d f).sent = s.sent := rfl
@[simp] theorem modDie_expected (s : State) (d : Nat) (f : Die → Die) : (modDie s d f).expected = s.expected := rfl
@[simp] theorem modDie_heldPackets (s : State) (d : Nat) (f : Die → Die) : (modDie s d f).heldPackets = s.heldPackets := rfl
@[simp] theorem modDie_outbox (s : State) (d : Nat) (f : Die → Die) : (modDie s d f).outbox = s.outbox := rfl
@[simp] theorem modDie_unsprayed (s : State) (d : Nat) (f : Die → Die) : (modDie s d f).unsprayed = s.unsprayed := rfl
@[simp] theorem modDie_markers (s : State) (d : Nat) (f : Die → Die) : (modDie s d f).markers = s.markers := rfl
@[simp] theorem modDie_late (s : State) (d : Nat) (f : Die → Die) : (modDie s d f).late = s.late := rfl
@[simp] theorem modDie_tableReads (s : State) (d : Nat) (f : Die → Die) : (modDie s d f).tableReads = s.tableReads := rfl
@[simp] theorem modDie_messages (s : State) (d : Nat) (f : Die → Die) : (modDie s d f).messages = s.messages := rfl
@[simp] theorem modDie_blocked (s : State) (d : Nat) (f : Die → Die) : (modDie s d f).blocked = s.blocked := rfl
@[simp] theorem modDie_standing (s : State) (d : Nat) (f : Die → Die) : (modDie s d f).standing = s.standing := rfl
@[simp] theorem modDie_ended (s : State) (d : Nat) (f : Die → Die) : (modDie s d f).ended = s.ended := rfl
@[simp] theorem modDie_remoteFaults (s : State) (d : Nat) (f : Die → Die) : (modDie s d f).remoteFaults = s.remoteFaults := rfl
@[simp] theorem modDie_links (s : State) (d : Nat) (f : Die → Die) : (modDie s d f).links = s.links := rfl
@[simp] theorem modDie_launchCount (s : State) (d : Nat) (f : Die → Die) : (modDie s d f).launchCount = s.launchCount := rfl
@[simp] theorem modDie_queues (s : State) (d : Nat) (f : Die → Die) : (modDie s d f).queues = s.queues := rfl
@[simp] theorem modDie_launches (s : State) (d : Nat) (f : Die → Die) : (modDie s d f).launches = s.launches := rfl
@[simp] theorem modDie_gangs (s : State) (d : Nat) (f : Die → Die) : (modDie s d f).gangs = s.gangs := rfl
@[simp] theorem modDie_visits (s : State) (d : Nat) (f : Die → Die) : (modDie s d f).visits = s.visits := rfl
@[simp] theorem modDie_ackOrder (s : State) (d : Nat) (f : Die → Die) : (modDie s d f).ackOrder = s.ackOrder := rfl
@[simp] theorem modDie_loaderHandler (s : State) (d : Nat) (f : Die → Die) : (modDie s d f).loaderHandler = s.loaderHandler := rfl
@[simp] theorem modDie_launchWaits (s : State) (d : Nat) (f : Die → Die) : (modDie s d f).launchWaits = s.launchWaits := rfl
@[simp] theorem modDie_waiting (s : State) (d : Nat) (f : Die → Die) : (modDie s d f).waiting = s.waiting := rfl
@[simp] theorem modDie_rings (s : State) (d : Nat) (f : Die → Die) : (modDie s d f).rings = s.rings := rfl
@[simp] theorem modDie_posted (s : State) (d : Nat) (f : Die → Die) : (modDie s d f).posted = s.posted := rfl
@[simp] theorem modDie_pledges (s : State) (d : Nat) (f : Die → Die) : (modDie s d f).pledges = s.pledges := rfl
@[simp] theorem modDie_partitions (s : State) (d : Nat) (f : Die → Die) : (modDie s d f).partitions = s.partitions := rfl
@[simp] theorem modDie_cacheSets (s : State) (d : Nat) (f : Die → Die) : (modDie s d f).cacheSets = s.cacheSets := rfl
@[simp] theorem modDie_monitors (s : State) (d : Nat) (f : Die → Die) : (modDie s d f).monitors = s.monitors := rfl
@[simp] theorem modDie_quotaAt (s : State) (d : Nat) (f : Die → Die) : (modDie s d f).quotaAt = s.quotaAt := rfl
@[simp] theorem modDie_hostReads (s : State) (d : Nat) (f : Die → Die) : (modDie s d f).hostReads = s.hostReads := rfl
@[simp] theorem modDie_mailboxes (s : State) (d : Nat) (f : Die → Die) : (modDie s d f).mailboxes = s.mailboxes := rfl
@[simp] theorem modDie_debugSlots (s : State) (d : Nat) (f : Die → Die) : (modDie s d f).debugSlots = s.debugSlots := rfl
@[simp] theorem modDie_saltin (s : State) (d : Nat) (f : Die → Die) : (modDie s d f).saltin = s.saltin := rfl
@[simp] theorem modDie_service (s : State) (d : Nat) (f : Die → Die) : (modDie s d f).service = s.service := rfl

/-! ### modGang -/

@[simp] theorem modGang_cur (s : State) (l n : Nat) (f : Gang → Gang) : (modGang s l n f).cur = s.cur := rfl
@[simp] theorem modGang_agenda (s : State) (l n : Nat) (f : Gang → Gang) : (modGang s l n f).agenda = s.agenda := rfl
@[simp] theorem modGang_clock (s : State) (l n : Nat) (f : Gang → Gang) : (modGang s l n f).clock = s.clock := rfl
@[simp] theorem modGang_wall (s : State) (l n : Nat) (f : Gang → Gang) : (modGang s l n f).wall = s.wall := rfl
@[simp] theorem modGang_memSize (s : State) (l n : Nat) (f : Gang → Gang) : (modGang s l n f).memSize = s.memSize := rfl
@[simp] theorem modGang_mem (s : State) (l n : Nat) (f : Gang → Gang) : (modGang s l n f).mem = s.mem := rfl
@[simp] theorem modGang_sectorKeys (s : State) (l n : Nat) (f : Gang → Gang) : (modGang s l n f).sectorKeys = s.sectorKeys := rfl
@[simp] theorem modGang_hostMem (s : State) (l n : Nat) (f : Gang → Gang) : (modGang s l n f).hostMem = s.hostMem := rfl
@[simp] theorem modGang_combiner (s : State) (l n : Nat) (f : Gang → Gang) : (modGang s l n f).combiner = s.combiner := rfl
@[simp] theorem modGang_keys (s : State) (l n : Nat) (f : Gang → Gang) : (modGang s l n f).keys = s.keys := rfl
@[simp] theorem modGang_regs (s : State) (l n : Nat) (f : Gang → Gang) : (modGang s l n f).regs = s.regs := rfl
@[simp] theorem modGang_counters (s : State) (l n : Nat) (f : Gang → Gang) : (modGang s l n f).counters = s.counters := rfl
@[simp] theorem modGang_counterTs (s : State) (l n : Nat) (f : Gang → Gang) : (modGang s l n f).counterTs = s.counterTs := rfl
@[simp] theorem modGang_cores (s : State) (l n : Nat) (f : Gang → Gang) : (modGang s l n f).cores = s.cores := rfl
@[simp] theorem modGang_dies (s : State) (l n : Nat) (f : Gang → Gang) : (modGang s l n f).dies = s.dies := rfl
@[simp] theorem modGang_lines (s : State) (l n : Nat) (f : Gang → Gang) : (modGang s l n f).lines = s.lines := rfl
@[simp] theorem modGang_mts (s : State) (l n : Nat) (f : Gang → Gang) : (modGang s l n f).mts = s.mts := rfl
@[simp] theorem modGang_waiters (s : State) (l n : Nat) (f : Gang → Gang) : (modGang s l n f).waiters = s.waiters := rfl
@[simp] theorem modGang_atomicWorlds (s : State) (l n : Nat) (f : Gang → Gang) : (modGang s l n f).atomicWorlds = s.atomicWorlds := rfl
@[simp] theorem modGang_hl (s : State) (l n : Nat) (f : Gang → Gang) : (modGang s l n f).hl = s.hl := rfl
@[simp] theorem modGang_fl (s : State) (l n : Nat) (f : Gang → Gang) : (modGang s l n f).fl = s.fl := rfl
@[simp] theorem modGang_pCopies (s : State) (l n : Nat) (f : Gang → Gang) : (modGang s l n f).pCopies = s.pCopies := rfl
@[simp] theorem modGang_fCopies (s : State) (l n : Nat) (f : Gang → Gang) : (modGang s l n f).fCopies = s.fCopies := rfl
@[simp] theorem modGang_inflight (s : State) (l n : Nat) (f : Gang → Gang) : (modGang s l n f).inflight = s.inflight := rfl
@[simp] theorem modGang_nextAccess (s : State) (l n : Nat) (f : Gang → Gang) : (modGang s l n f).nextAccess = s.nextAccess := rfl
@[simp] theorem modGang_sent (s : State) (l n : Nat) (f : Gang → Gang) : (modGang s l n f).sent = s.sent := rfl
@[simp] theorem modGang_expected (s : State) (l n : Nat) (f : Gang → Gang) : (modGang s l n f).expected = s.expected := rfl
@[simp] theorem modGang_heldPackets (s : State) (l n : Nat) (f : Gang → Gang) : (modGang s l n f).heldPackets = s.heldPackets := rfl
@[simp] theorem modGang_outbox (s : State) (l n : Nat) (f : Gang → Gang) : (modGang s l n f).outbox = s.outbox := rfl
@[simp] theorem modGang_unsprayed (s : State) (l n : Nat) (f : Gang → Gang) : (modGang s l n f).unsprayed = s.unsprayed := rfl
@[simp] theorem modGang_markers (s : State) (l n : Nat) (f : Gang → Gang) : (modGang s l n f).markers = s.markers := rfl
@[simp] theorem modGang_late (s : State) (l n : Nat) (f : Gang → Gang) : (modGang s l n f).late = s.late := rfl
@[simp] theorem modGang_tableReads (s : State) (l n : Nat) (f : Gang → Gang) : (modGang s l n f).tableReads = s.tableReads := rfl
@[simp] theorem modGang_messages (s : State) (l n : Nat) (f : Gang → Gang) : (modGang s l n f).messages = s.messages := rfl
@[simp] theorem modGang_blocked (s : State) (l n : Nat) (f : Gang → Gang) : (modGang s l n f).blocked = s.blocked := rfl
@[simp] theorem modGang_standing (s : State) (l n : Nat) (f : Gang → Gang) : (modGang s l n f).standing = s.standing := rfl
@[simp] theorem modGang_ended (s : State) (l n : Nat) (f : Gang → Gang) : (modGang s l n f).ended = s.ended := rfl
@[simp] theorem modGang_remoteFaults (s : State) (l n : Nat) (f : Gang → Gang) : (modGang s l n f).remoteFaults = s.remoteFaults := rfl
@[simp] theorem modGang_links (s : State) (l n : Nat) (f : Gang → Gang) : (modGang s l n f).links = s.links := rfl
@[simp] theorem modGang_launchCount (s : State) (l n : Nat) (f : Gang → Gang) : (modGang s l n f).launchCount = s.launchCount := rfl
@[simp] theorem modGang_queues (s : State) (l n : Nat) (f : Gang → Gang) : (modGang s l n f).queues = s.queues := rfl
@[simp] theorem modGang_launches (s : State) (l n : Nat) (f : Gang → Gang) : (modGang s l n f).launches = s.launches := rfl
@[simp] theorem modGang_visits (s : State) (l n : Nat) (f : Gang → Gang) : (modGang s l n f).visits = s.visits := rfl
@[simp] theorem modGang_ackOrder (s : State) (l n : Nat) (f : Gang → Gang) : (modGang s l n f).ackOrder = s.ackOrder := rfl
@[simp] theorem modGang_loaderHandler (s : State) (l n : Nat) (f : Gang → Gang) : (modGang s l n f).loaderHandler = s.loaderHandler := rfl
@[simp] theorem modGang_launchWaits (s : State) (l n : Nat) (f : Gang → Gang) : (modGang s l n f).launchWaits = s.launchWaits := rfl
@[simp] theorem modGang_waiting (s : State) (l n : Nat) (f : Gang → Gang) : (modGang s l n f).waiting = s.waiting := rfl
@[simp] theorem modGang_rings (s : State) (l n : Nat) (f : Gang → Gang) : (modGang s l n f).rings = s.rings := rfl
@[simp] theorem modGang_posted (s : State) (l n : Nat) (f : Gang → Gang) : (modGang s l n f).posted = s.posted := rfl
@[simp] theorem modGang_pledges (s : State) (l n : Nat) (f : Gang → Gang) : (modGang s l n f).pledges = s.pledges := rfl
@[simp] theorem modGang_partitions (s : State) (l n : Nat) (f : Gang → Gang) : (modGang s l n f).partitions = s.partitions := rfl
@[simp] theorem modGang_cacheSets (s : State) (l n : Nat) (f : Gang → Gang) : (modGang s l n f).cacheSets = s.cacheSets := rfl
@[simp] theorem modGang_monitors (s : State) (l n : Nat) (f : Gang → Gang) : (modGang s l n f).monitors = s.monitors := rfl
@[simp] theorem modGang_quotaAt (s : State) (l n : Nat) (f : Gang → Gang) : (modGang s l n f).quotaAt = s.quotaAt := rfl
@[simp] theorem modGang_hostReads (s : State) (l n : Nat) (f : Gang → Gang) : (modGang s l n f).hostReads = s.hostReads := rfl
@[simp] theorem modGang_mailboxes (s : State) (l n : Nat) (f : Gang → Gang) : (modGang s l n f).mailboxes = s.mailboxes := rfl
@[simp] theorem modGang_debugSlots (s : State) (l n : Nat) (f : Gang → Gang) : (modGang s l n f).debugSlots = s.debugSlots := rfl
@[simp] theorem modGang_saltin (s : State) (l n : Nat) (f : Gang → Gang) : (modGang s l n f).saltin = s.saltin := rfl
@[simp] theorem modGang_service (s : State) (l n : Nat) (f : Gang → Gang) : (modGang s l n f).service = s.service := rfl

/-! ### modLaunch -/

@[simp] theorem modLaunch_cur (s : State) (l : Nat) (f : Launch → Launch) : (modLaunch s l f).cur = s.cur := rfl
@[simp] theorem modLaunch_agenda (s : State) (l : Nat) (f : Launch → Launch) : (modLaunch s l f).agenda = s.agenda := rfl
@[simp] theorem modLaunch_clock (s : State) (l : Nat) (f : Launch → Launch) : (modLaunch s l f).clock = s.clock := rfl
@[simp] theorem modLaunch_wall (s : State) (l : Nat) (f : Launch → Launch) : (modLaunch s l f).wall = s.wall := rfl
@[simp] theorem modLaunch_memSize (s : State) (l : Nat) (f : Launch → Launch) : (modLaunch s l f).memSize = s.memSize := rfl
@[simp] theorem modLaunch_mem (s : State) (l : Nat) (f : Launch → Launch) : (modLaunch s l f).mem = s.mem := rfl
@[simp] theorem modLaunch_sectorKeys (s : State) (l : Nat) (f : Launch → Launch) : (modLaunch s l f).sectorKeys = s.sectorKeys := rfl
@[simp] theorem modLaunch_hostMem (s : State) (l : Nat) (f : Launch → Launch) : (modLaunch s l f).hostMem = s.hostMem := rfl
@[simp] theorem modLaunch_combiner (s : State) (l : Nat) (f : Launch → Launch) : (modLaunch s l f).combiner = s.combiner := rfl
@[simp] theorem modLaunch_keys (s : State) (l : Nat) (f : Launch → Launch) : (modLaunch s l f).keys = s.keys := rfl
@[simp] theorem modLaunch_regs (s : State) (l : Nat) (f : Launch → Launch) : (modLaunch s l f).regs = s.regs := rfl
@[simp] theorem modLaunch_counters (s : State) (l : Nat) (f : Launch → Launch) : (modLaunch s l f).counters = s.counters := rfl
@[simp] theorem modLaunch_counterTs (s : State) (l : Nat) (f : Launch → Launch) : (modLaunch s l f).counterTs = s.counterTs := rfl
@[simp] theorem modLaunch_cores (s : State) (l : Nat) (f : Launch → Launch) : (modLaunch s l f).cores = s.cores := rfl
@[simp] theorem modLaunch_dies (s : State) (l : Nat) (f : Launch → Launch) : (modLaunch s l f).dies = s.dies := rfl
@[simp] theorem modLaunch_lines (s : State) (l : Nat) (f : Launch → Launch) : (modLaunch s l f).lines = s.lines := rfl
@[simp] theorem modLaunch_mts (s : State) (l : Nat) (f : Launch → Launch) : (modLaunch s l f).mts = s.mts := rfl
@[simp] theorem modLaunch_waiters (s : State) (l : Nat) (f : Launch → Launch) : (modLaunch s l f).waiters = s.waiters := rfl
@[simp] theorem modLaunch_atomicWorlds (s : State) (l : Nat) (f : Launch → Launch) : (modLaunch s l f).atomicWorlds = s.atomicWorlds := rfl
@[simp] theorem modLaunch_hl (s : State) (l : Nat) (f : Launch → Launch) : (modLaunch s l f).hl = s.hl := rfl
@[simp] theorem modLaunch_fl (s : State) (l : Nat) (f : Launch → Launch) : (modLaunch s l f).fl = s.fl := rfl
@[simp] theorem modLaunch_pCopies (s : State) (l : Nat) (f : Launch → Launch) : (modLaunch s l f).pCopies = s.pCopies := rfl
@[simp] theorem modLaunch_fCopies (s : State) (l : Nat) (f : Launch → Launch) : (modLaunch s l f).fCopies = s.fCopies := rfl
@[simp] theorem modLaunch_inflight (s : State) (l : Nat) (f : Launch → Launch) : (modLaunch s l f).inflight = s.inflight := rfl
@[simp] theorem modLaunch_nextAccess (s : State) (l : Nat) (f : Launch → Launch) : (modLaunch s l f).nextAccess = s.nextAccess := rfl
@[simp] theorem modLaunch_sent (s : State) (l : Nat) (f : Launch → Launch) : (modLaunch s l f).sent = s.sent := rfl
@[simp] theorem modLaunch_expected (s : State) (l : Nat) (f : Launch → Launch) : (modLaunch s l f).expected = s.expected := rfl
@[simp] theorem modLaunch_heldPackets (s : State) (l : Nat) (f : Launch → Launch) : (modLaunch s l f).heldPackets = s.heldPackets := rfl
@[simp] theorem modLaunch_outbox (s : State) (l : Nat) (f : Launch → Launch) : (modLaunch s l f).outbox = s.outbox := rfl
@[simp] theorem modLaunch_unsprayed (s : State) (l : Nat) (f : Launch → Launch) : (modLaunch s l f).unsprayed = s.unsprayed := rfl
@[simp] theorem modLaunch_markers (s : State) (l : Nat) (f : Launch → Launch) : (modLaunch s l f).markers = s.markers := rfl
@[simp] theorem modLaunch_late (s : State) (l : Nat) (f : Launch → Launch) : (modLaunch s l f).late = s.late := rfl
@[simp] theorem modLaunch_tableReads (s : State) (l : Nat) (f : Launch → Launch) : (modLaunch s l f).tableReads = s.tableReads := rfl
@[simp] theorem modLaunch_messages (s : State) (l : Nat) (f : Launch → Launch) : (modLaunch s l f).messages = s.messages := rfl
@[simp] theorem modLaunch_blocked (s : State) (l : Nat) (f : Launch → Launch) : (modLaunch s l f).blocked = s.blocked := rfl
@[simp] theorem modLaunch_standing (s : State) (l : Nat) (f : Launch → Launch) : (modLaunch s l f).standing = s.standing := rfl
@[simp] theorem modLaunch_ended (s : State) (l : Nat) (f : Launch → Launch) : (modLaunch s l f).ended = s.ended := rfl
@[simp] theorem modLaunch_remoteFaults (s : State) (l : Nat) (f : Launch → Launch) : (modLaunch s l f).remoteFaults = s.remoteFaults := rfl
@[simp] theorem modLaunch_links (s : State) (l : Nat) (f : Launch → Launch) : (modLaunch s l f).links = s.links := rfl
@[simp] theorem modLaunch_launchCount (s : State) (l : Nat) (f : Launch → Launch) : (modLaunch s l f).launchCount = s.launchCount := rfl
@[simp] theorem modLaunch_queues (s : State) (l : Nat) (f : Launch → Launch) : (modLaunch s l f).queues = s.queues := rfl
@[simp] theorem modLaunch_gangs (s : State) (l : Nat) (f : Launch → Launch) : (modLaunch s l f).gangs = s.gangs := rfl
@[simp] theorem modLaunch_visits (s : State) (l : Nat) (f : Launch → Launch) : (modLaunch s l f).visits = s.visits := rfl
@[simp] theorem modLaunch_ackOrder (s : State) (l : Nat) (f : Launch → Launch) : (modLaunch s l f).ackOrder = s.ackOrder := rfl
@[simp] theorem modLaunch_loaderHandler (s : State) (l : Nat) (f : Launch → Launch) : (modLaunch s l f).loaderHandler = s.loaderHandler := rfl
@[simp] theorem modLaunch_launchWaits (s : State) (l : Nat) (f : Launch → Launch) : (modLaunch s l f).launchWaits = s.launchWaits := rfl
@[simp] theorem modLaunch_waiting (s : State) (l : Nat) (f : Launch → Launch) : (modLaunch s l f).waiting = s.waiting := rfl
@[simp] theorem modLaunch_rings (s : State) (l : Nat) (f : Launch → Launch) : (modLaunch s l f).rings = s.rings := rfl
@[simp] theorem modLaunch_posted (s : State) (l : Nat) (f : Launch → Launch) : (modLaunch s l f).posted = s.posted := rfl
@[simp] theorem modLaunch_pledges (s : State) (l : Nat) (f : Launch → Launch) : (modLaunch s l f).pledges = s.pledges := rfl
@[simp] theorem modLaunch_partitions (s : State) (l : Nat) (f : Launch → Launch) : (modLaunch s l f).partitions = s.partitions := rfl
@[simp] theorem modLaunch_cacheSets (s : State) (l : Nat) (f : Launch → Launch) : (modLaunch s l f).cacheSets = s.cacheSets := rfl
@[simp] theorem modLaunch_monitors (s : State) (l : Nat) (f : Launch → Launch) : (modLaunch s l f).monitors = s.monitors := rfl
@[simp] theorem modLaunch_quotaAt (s : State) (l : Nat) (f : Launch → Launch) : (modLaunch s l f).quotaAt = s.quotaAt := rfl
@[simp] theorem modLaunch_hostReads (s : State) (l : Nat) (f : Launch → Launch) : (modLaunch s l f).hostReads = s.hostReads := rfl
@[simp] theorem modLaunch_mailboxes (s : State) (l : Nat) (f : Launch → Launch) : (modLaunch s l f).mailboxes = s.mailboxes := rfl
@[simp] theorem modLaunch_debugSlots (s : State) (l : Nat) (f : Launch → Launch) : (modLaunch s l f).debugSlots = s.debugSlots := rfl
@[simp] theorem modLaunch_saltin (s : State) (l : Nat) (f : Launch → Launch) : (modLaunch s l f).saltin = s.saltin := rfl
@[simp] theorem modLaunch_service (s : State) (l : Nat) (f : Launch → Launch) : (modLaunch s l f).service = s.service := rfl

/-! ### modAccess -/

@[simp] theorem modAccess_cur (s : State) (n : Nat) (f : Access → Access) : (modAccess s n f).cur = s.cur := rfl
@[simp] theorem modAccess_agenda (s : State) (n : Nat) (f : Access → Access) : (modAccess s n f).agenda = s.agenda := rfl
@[simp] theorem modAccess_clock (s : State) (n : Nat) (f : Access → Access) : (modAccess s n f).clock = s.clock := rfl
@[simp] theorem modAccess_wall (s : State) (n : Nat) (f : Access → Access) : (modAccess s n f).wall = s.wall := rfl
@[simp] theorem modAccess_memSize (s : State) (n : Nat) (f : Access → Access) : (modAccess s n f).memSize = s.memSize := rfl
@[simp] theorem modAccess_mem (s : State) (n : Nat) (f : Access → Access) : (modAccess s n f).mem = s.mem := rfl
@[simp] theorem modAccess_sectorKeys (s : State) (n : Nat) (f : Access → Access) : (modAccess s n f).sectorKeys = s.sectorKeys := rfl
@[simp] theorem modAccess_hostMem (s : State) (n : Nat) (f : Access → Access) : (modAccess s n f).hostMem = s.hostMem := rfl
@[simp] theorem modAccess_combiner (s : State) (n : Nat) (f : Access → Access) : (modAccess s n f).combiner = s.combiner := rfl
@[simp] theorem modAccess_keys (s : State) (n : Nat) (f : Access → Access) : (modAccess s n f).keys = s.keys := rfl
@[simp] theorem modAccess_regs (s : State) (n : Nat) (f : Access → Access) : (modAccess s n f).regs = s.regs := rfl
@[simp] theorem modAccess_counters (s : State) (n : Nat) (f : Access → Access) : (modAccess s n f).counters = s.counters := rfl
@[simp] theorem modAccess_counterTs (s : State) (n : Nat) (f : Access → Access) : (modAccess s n f).counterTs = s.counterTs := rfl
@[simp] theorem modAccess_cores (s : State) (n : Nat) (f : Access → Access) : (modAccess s n f).cores = s.cores := rfl
@[simp] theorem modAccess_dies (s : State) (n : Nat) (f : Access → Access) : (modAccess s n f).dies = s.dies := rfl
@[simp] theorem modAccess_lines (s : State) (n : Nat) (f : Access → Access) : (modAccess s n f).lines = s.lines := rfl
@[simp] theorem modAccess_mts (s : State) (n : Nat) (f : Access → Access) : (modAccess s n f).mts = s.mts := rfl
@[simp] theorem modAccess_waiters (s : State) (n : Nat) (f : Access → Access) : (modAccess s n f).waiters = s.waiters := rfl
@[simp] theorem modAccess_atomicWorlds (s : State) (n : Nat) (f : Access → Access) : (modAccess s n f).atomicWorlds = s.atomicWorlds := rfl
@[simp] theorem modAccess_hl (s : State) (n : Nat) (f : Access → Access) : (modAccess s n f).hl = s.hl := rfl
@[simp] theorem modAccess_fl (s : State) (n : Nat) (f : Access → Access) : (modAccess s n f).fl = s.fl := rfl
@[simp] theorem modAccess_pCopies (s : State) (n : Nat) (f : Access → Access) : (modAccess s n f).pCopies = s.pCopies := rfl
@[simp] theorem modAccess_fCopies (s : State) (n : Nat) (f : Access → Access) : (modAccess s n f).fCopies = s.fCopies := rfl
@[simp] theorem modAccess_nextAccess (s : State) (n : Nat) (f : Access → Access) : (modAccess s n f).nextAccess = s.nextAccess := rfl
@[simp] theorem modAccess_sent (s : State) (n : Nat) (f : Access → Access) : (modAccess s n f).sent = s.sent := rfl
@[simp] theorem modAccess_expected (s : State) (n : Nat) (f : Access → Access) : (modAccess s n f).expected = s.expected := rfl
@[simp] theorem modAccess_heldPackets (s : State) (n : Nat) (f : Access → Access) : (modAccess s n f).heldPackets = s.heldPackets := rfl
@[simp] theorem modAccess_outbox (s : State) (n : Nat) (f : Access → Access) : (modAccess s n f).outbox = s.outbox := rfl
@[simp] theorem modAccess_unsprayed (s : State) (n : Nat) (f : Access → Access) : (modAccess s n f).unsprayed = s.unsprayed := rfl
@[simp] theorem modAccess_markers (s : State) (n : Nat) (f : Access → Access) : (modAccess s n f).markers = s.markers := rfl
@[simp] theorem modAccess_late (s : State) (n : Nat) (f : Access → Access) : (modAccess s n f).late = s.late := rfl
@[simp] theorem modAccess_tableReads (s : State) (n : Nat) (f : Access → Access) : (modAccess s n f).tableReads = s.tableReads := rfl
@[simp] theorem modAccess_messages (s : State) (n : Nat) (f : Access → Access) : (modAccess s n f).messages = s.messages := rfl
@[simp] theorem modAccess_blocked (s : State) (n : Nat) (f : Access → Access) : (modAccess s n f).blocked = s.blocked := rfl
@[simp] theorem modAccess_standing (s : State) (n : Nat) (f : Access → Access) : (modAccess s n f).standing = s.standing := rfl
@[simp] theorem modAccess_ended (s : State) (n : Nat) (f : Access → Access) : (modAccess s n f).ended = s.ended := rfl
@[simp] theorem modAccess_remoteFaults (s : State) (n : Nat) (f : Access → Access) : (modAccess s n f).remoteFaults = s.remoteFaults := rfl
@[simp] theorem modAccess_links (s : State) (n : Nat) (f : Access → Access) : (modAccess s n f).links = s.links := rfl
@[simp] theorem modAccess_launchCount (s : State) (n : Nat) (f : Access → Access) : (modAccess s n f).launchCount = s.launchCount := rfl
@[simp] theorem modAccess_queues (s : State) (n : Nat) (f : Access → Access) : (modAccess s n f).queues = s.queues := rfl
@[simp] theorem modAccess_launches (s : State) (n : Nat) (f : Access → Access) : (modAccess s n f).launches = s.launches := rfl
@[simp] theorem modAccess_gangs (s : State) (n : Nat) (f : Access → Access) : (modAccess s n f).gangs = s.gangs := rfl
@[simp] theorem modAccess_visits (s : State) (n : Nat) (f : Access → Access) : (modAccess s n f).visits = s.visits := rfl
@[simp] theorem modAccess_ackOrder (s : State) (n : Nat) (f : Access → Access) : (modAccess s n f).ackOrder = s.ackOrder := rfl
@[simp] theorem modAccess_loaderHandler (s : State) (n : Nat) (f : Access → Access) : (modAccess s n f).loaderHandler = s.loaderHandler := rfl
@[simp] theorem modAccess_launchWaits (s : State) (n : Nat) (f : Access → Access) : (modAccess s n f).launchWaits = s.launchWaits := rfl
@[simp] theorem modAccess_waiting (s : State) (n : Nat) (f : Access → Access) : (modAccess s n f).waiting = s.waiting := rfl
@[simp] theorem modAccess_rings (s : State) (n : Nat) (f : Access → Access) : (modAccess s n f).rings = s.rings := rfl
@[simp] theorem modAccess_posted (s : State) (n : Nat) (f : Access → Access) : (modAccess s n f).posted = s.posted := rfl
@[simp] theorem modAccess_pledges (s : State) (n : Nat) (f : Access → Access) : (modAccess s n f).pledges = s.pledges := rfl
@[simp] theorem modAccess_partitions (s : State) (n : Nat) (f : Access → Access) : (modAccess s n f).partitions = s.partitions := rfl
@[simp] theorem modAccess_cacheSets (s : State) (n : Nat) (f : Access → Access) : (modAccess s n f).cacheSets = s.cacheSets := rfl
@[simp] theorem modAccess_monitors (s : State) (n : Nat) (f : Access → Access) : (modAccess s n f).monitors = s.monitors := rfl
@[simp] theorem modAccess_quotaAt (s : State) (n : Nat) (f : Access → Access) : (modAccess s n f).quotaAt = s.quotaAt := rfl
@[simp] theorem modAccess_hostReads (s : State) (n : Nat) (f : Access → Access) : (modAccess s n f).hostReads = s.hostReads := rfl
@[simp] theorem modAccess_mailboxes (s : State) (n : Nat) (f : Access → Access) : (modAccess s n f).mailboxes = s.mailboxes := rfl
@[simp] theorem modAccess_debugSlots (s : State) (n : Nat) (f : Access → Access) : (modAccess s n f).debugSlots = s.debugSlots := rfl
@[simp] theorem modAccess_saltin (s : State) (n : Nat) (f : Access → Access) : (modAccess s n f).saltin = s.saltin := rfl
@[simp] theorem modAccess_service (s : State) (n : Nat) (f : Access → Access) : (modAccess s n f).service = s.service := rfl

/-! ### dropAccess -/

@[simp] theorem dropAccess_cur (s : State) (n : Nat) : (dropAccess s n).cur = s.cur := rfl
@[simp] theorem dropAccess_agenda (s : State) (n : Nat) : (dropAccess s n).agenda = s.agenda := rfl
@[simp] theorem dropAccess_clock (s : State) (n : Nat) : (dropAccess s n).clock = s.clock := rfl
@[simp] theorem dropAccess_wall (s : State) (n : Nat) : (dropAccess s n).wall = s.wall := rfl
@[simp] theorem dropAccess_memSize (s : State) (n : Nat) : (dropAccess s n).memSize = s.memSize := rfl
@[simp] theorem dropAccess_mem (s : State) (n : Nat) : (dropAccess s n).mem = s.mem := rfl
@[simp] theorem dropAccess_sectorKeys (s : State) (n : Nat) : (dropAccess s n).sectorKeys = s.sectorKeys := rfl
@[simp] theorem dropAccess_hostMem (s : State) (n : Nat) : (dropAccess s n).hostMem = s.hostMem := rfl
@[simp] theorem dropAccess_combiner (s : State) (n : Nat) : (dropAccess s n).combiner = s.combiner := rfl
@[simp] theorem dropAccess_keys (s : State) (n : Nat) : (dropAccess s n).keys = s.keys := rfl
@[simp] theorem dropAccess_regs (s : State) (n : Nat) : (dropAccess s n).regs = s.regs := rfl
@[simp] theorem dropAccess_counters (s : State) (n : Nat) : (dropAccess s n).counters = s.counters := rfl
@[simp] theorem dropAccess_counterTs (s : State) (n : Nat) : (dropAccess s n).counterTs = s.counterTs := rfl
@[simp] theorem dropAccess_cores (s : State) (n : Nat) : (dropAccess s n).cores = s.cores := rfl
@[simp] theorem dropAccess_dies (s : State) (n : Nat) : (dropAccess s n).dies = s.dies := rfl
@[simp] theorem dropAccess_lines (s : State) (n : Nat) : (dropAccess s n).lines = s.lines := rfl
@[simp] theorem dropAccess_mts (s : State) (n : Nat) : (dropAccess s n).mts = s.mts := rfl
@[simp] theorem dropAccess_waiters (s : State) (n : Nat) : (dropAccess s n).waiters = s.waiters := rfl
@[simp] theorem dropAccess_atomicWorlds (s : State) (n : Nat) : (dropAccess s n).atomicWorlds = s.atomicWorlds := rfl
@[simp] theorem dropAccess_hl (s : State) (n : Nat) : (dropAccess s n).hl = s.hl := rfl
@[simp] theorem dropAccess_fl (s : State) (n : Nat) : (dropAccess s n).fl = s.fl := rfl
@[simp] theorem dropAccess_pCopies (s : State) (n : Nat) : (dropAccess s n).pCopies = s.pCopies := rfl
@[simp] theorem dropAccess_fCopies (s : State) (n : Nat) : (dropAccess s n).fCopies = s.fCopies := rfl
@[simp] theorem dropAccess_nextAccess (s : State) (n : Nat) : (dropAccess s n).nextAccess = s.nextAccess := rfl
@[simp] theorem dropAccess_sent (s : State) (n : Nat) : (dropAccess s n).sent = s.sent := rfl
@[simp] theorem dropAccess_expected (s : State) (n : Nat) : (dropAccess s n).expected = s.expected := rfl
@[simp] theorem dropAccess_heldPackets (s : State) (n : Nat) : (dropAccess s n).heldPackets = s.heldPackets := rfl
@[simp] theorem dropAccess_outbox (s : State) (n : Nat) : (dropAccess s n).outbox = s.outbox := rfl
@[simp] theorem dropAccess_unsprayed (s : State) (n : Nat) : (dropAccess s n).unsprayed = s.unsprayed := rfl
@[simp] theorem dropAccess_markers (s : State) (n : Nat) : (dropAccess s n).markers = s.markers := rfl
@[simp] theorem dropAccess_late (s : State) (n : Nat) : (dropAccess s n).late = s.late := rfl
@[simp] theorem dropAccess_tableReads (s : State) (n : Nat) : (dropAccess s n).tableReads = s.tableReads := rfl
@[simp] theorem dropAccess_messages (s : State) (n : Nat) : (dropAccess s n).messages = s.messages := rfl
@[simp] theorem dropAccess_blocked (s : State) (n : Nat) : (dropAccess s n).blocked = s.blocked := rfl
@[simp] theorem dropAccess_standing (s : State) (n : Nat) : (dropAccess s n).standing = s.standing := rfl
@[simp] theorem dropAccess_ended (s : State) (n : Nat) : (dropAccess s n).ended = s.ended := rfl
@[simp] theorem dropAccess_remoteFaults (s : State) (n : Nat) : (dropAccess s n).remoteFaults = s.remoteFaults := rfl
@[simp] theorem dropAccess_links (s : State) (n : Nat) : (dropAccess s n).links = s.links := rfl
@[simp] theorem dropAccess_launchCount (s : State) (n : Nat) : (dropAccess s n).launchCount = s.launchCount := rfl
@[simp] theorem dropAccess_queues (s : State) (n : Nat) : (dropAccess s n).queues = s.queues := rfl
@[simp] theorem dropAccess_launches (s : State) (n : Nat) : (dropAccess s n).launches = s.launches := rfl
@[simp] theorem dropAccess_gangs (s : State) (n : Nat) : (dropAccess s n).gangs = s.gangs := rfl
@[simp] theorem dropAccess_visits (s : State) (n : Nat) : (dropAccess s n).visits = s.visits := rfl
@[simp] theorem dropAccess_ackOrder (s : State) (n : Nat) : (dropAccess s n).ackOrder = s.ackOrder := rfl
@[simp] theorem dropAccess_loaderHandler (s : State) (n : Nat) : (dropAccess s n).loaderHandler = s.loaderHandler := rfl
@[simp] theorem dropAccess_launchWaits (s : State) (n : Nat) : (dropAccess s n).launchWaits = s.launchWaits := rfl
@[simp] theorem dropAccess_waiting (s : State) (n : Nat) : (dropAccess s n).waiting = s.waiting := rfl
@[simp] theorem dropAccess_rings (s : State) (n : Nat) : (dropAccess s n).rings = s.rings := rfl
@[simp] theorem dropAccess_posted (s : State) (n : Nat) : (dropAccess s n).posted = s.posted := rfl
@[simp] theorem dropAccess_pledges (s : State) (n : Nat) : (dropAccess s n).pledges = s.pledges := rfl
@[simp] theorem dropAccess_partitions (s : State) (n : Nat) : (dropAccess s n).partitions = s.partitions := rfl
@[simp] theorem dropAccess_cacheSets (s : State) (n : Nat) : (dropAccess s n).cacheSets = s.cacheSets := rfl
@[simp] theorem dropAccess_monitors (s : State) (n : Nat) : (dropAccess s n).monitors = s.monitors := rfl
@[simp] theorem dropAccess_quotaAt (s : State) (n : Nat) : (dropAccess s n).quotaAt = s.quotaAt := rfl
@[simp] theorem dropAccess_hostReads (s : State) (n : Nat) : (dropAccess s n).hostReads = s.hostReads := rfl
@[simp] theorem dropAccess_mailboxes (s : State) (n : Nat) : (dropAccess s n).mailboxes = s.mailboxes := rfl
@[simp] theorem dropAccess_debugSlots (s : State) (n : Nat) : (dropAccess s n).debugSlots = s.debugSlots := rfl
@[simp] theorem dropAccess_saltin (s : State) (n : Nat) : (dropAccess s n).saltin = s.saltin := rfl
@[simp] theorem dropAccess_service (s : State) (n : Nat) : (dropAccess s n).service = s.service := rfl

/-! ### passCycles -/

@[simp] theorem passCycles_cur (s : State) (n : Nat) : (passCycles s n).cur = s.cur := rfl
@[simp] theorem passCycles_agenda (s : State) (n : Nat) : (passCycles s n).agenda = s.agenda := rfl
@[simp] theorem passCycles_memSize (s : State) (n : Nat) : (passCycles s n).memSize = s.memSize := rfl
@[simp] theorem passCycles_mem (s : State) (n : Nat) : (passCycles s n).mem = s.mem := rfl
@[simp] theorem passCycles_sectorKeys (s : State) (n : Nat) : (passCycles s n).sectorKeys = s.sectorKeys := rfl
@[simp] theorem passCycles_hostMem (s : State) (n : Nat) : (passCycles s n).hostMem = s.hostMem := rfl
@[simp] theorem passCycles_combiner (s : State) (n : Nat) : (passCycles s n).combiner = s.combiner := rfl
@[simp] theorem passCycles_keys (s : State) (n : Nat) : (passCycles s n).keys = s.keys := rfl
@[simp] theorem passCycles_regs (s : State) (n : Nat) : (passCycles s n).regs = s.regs := rfl
@[simp] theorem passCycles_counters (s : State) (n : Nat) : (passCycles s n).counters = s.counters := rfl
@[simp] theorem passCycles_counterTs (s : State) (n : Nat) : (passCycles s n).counterTs = s.counterTs := rfl
@[simp] theorem passCycles_dies (s : State) (n : Nat) : (passCycles s n).dies = s.dies := rfl
@[simp] theorem passCycles_lines (s : State) (n : Nat) : (passCycles s n).lines = s.lines := rfl
@[simp] theorem passCycles_mts (s : State) (n : Nat) : (passCycles s n).mts = s.mts := rfl
@[simp] theorem passCycles_waiters (s : State) (n : Nat) : (passCycles s n).waiters = s.waiters := rfl
@[simp] theorem passCycles_atomicWorlds (s : State) (n : Nat) : (passCycles s n).atomicWorlds = s.atomicWorlds := rfl
@[simp] theorem passCycles_hl (s : State) (n : Nat) : (passCycles s n).hl = s.hl := rfl
@[simp] theorem passCycles_fl (s : State) (n : Nat) : (passCycles s n).fl = s.fl := rfl
@[simp] theorem passCycles_pCopies (s : State) (n : Nat) : (passCycles s n).pCopies = s.pCopies := rfl
@[simp] theorem passCycles_fCopies (s : State) (n : Nat) : (passCycles s n).fCopies = s.fCopies := rfl
@[simp] theorem passCycles_inflight (s : State) (n : Nat) : (passCycles s n).inflight = s.inflight := rfl
@[simp] theorem passCycles_nextAccess (s : State) (n : Nat) : (passCycles s n).nextAccess = s.nextAccess := rfl
@[simp] theorem passCycles_sent (s : State) (n : Nat) : (passCycles s n).sent = s.sent := rfl
@[simp] theorem passCycles_expected (s : State) (n : Nat) : (passCycles s n).expected = s.expected := rfl
@[simp] theorem passCycles_heldPackets (s : State) (n : Nat) : (passCycles s n).heldPackets = s.heldPackets := rfl
@[simp] theorem passCycles_outbox (s : State) (n : Nat) : (passCycles s n).outbox = s.outbox := rfl
@[simp] theorem passCycles_unsprayed (s : State) (n : Nat) : (passCycles s n).unsprayed = s.unsprayed := rfl
@[simp] theorem passCycles_markers (s : State) (n : Nat) : (passCycles s n).markers = s.markers := rfl
@[simp] theorem passCycles_late (s : State) (n : Nat) : (passCycles s n).late = s.late := rfl
@[simp] theorem passCycles_tableReads (s : State) (n : Nat) : (passCycles s n).tableReads = s.tableReads := rfl
@[simp] theorem passCycles_messages (s : State) (n : Nat) : (passCycles s n).messages = s.messages := rfl
@[simp] theorem passCycles_blocked (s : State) (n : Nat) : (passCycles s n).blocked = s.blocked := rfl
@[simp] theorem passCycles_standing (s : State) (n : Nat) : (passCycles s n).standing = s.standing := rfl
@[simp] theorem passCycles_ended (s : State) (n : Nat) : (passCycles s n).ended = s.ended := rfl
@[simp] theorem passCycles_remoteFaults (s : State) (n : Nat) : (passCycles s n).remoteFaults = s.remoteFaults := rfl
@[simp] theorem passCycles_links (s : State) (n : Nat) : (passCycles s n).links = s.links := rfl
@[simp] theorem passCycles_launchCount (s : State) (n : Nat) : (passCycles s n).launchCount = s.launchCount := rfl
@[simp] theorem passCycles_queues (s : State) (n : Nat) : (passCycles s n).queues = s.queues := rfl
@[simp] theorem passCycles_launches (s : State) (n : Nat) : (passCycles s n).launches = s.launches := rfl
@[simp] theorem passCycles_gangs (s : State) (n : Nat) : (passCycles s n).gangs = s.gangs := rfl
@[simp] theorem passCycles_visits (s : State) (n : Nat) : (passCycles s n).visits = s.visits := rfl
@[simp] theorem passCycles_ackOrder (s : State) (n : Nat) : (passCycles s n).ackOrder = s.ackOrder := rfl
@[simp] theorem passCycles_loaderHandler (s : State) (n : Nat) : (passCycles s n).loaderHandler = s.loaderHandler := rfl
@[simp] theorem passCycles_launchWaits (s : State) (n : Nat) : (passCycles s n).launchWaits = s.launchWaits := rfl
@[simp] theorem passCycles_waiting (s : State) (n : Nat) : (passCycles s n).waiting = s.waiting := rfl
@[simp] theorem passCycles_rings (s : State) (n : Nat) : (passCycles s n).rings = s.rings := rfl
@[simp] theorem passCycles_posted (s : State) (n : Nat) : (passCycles s n).posted = s.posted := rfl
@[simp] theorem passCycles_pledges (s : State) (n : Nat) : (passCycles s n).pledges = s.pledges := rfl
@[simp] theorem passCycles_partitions (s : State) (n : Nat) : (passCycles s n).partitions = s.partitions := rfl
@[simp] theorem passCycles_cacheSets (s : State) (n : Nat) : (passCycles s n).cacheSets = s.cacheSets := rfl
@[simp] theorem passCycles_monitors (s : State) (n : Nat) : (passCycles s n).monitors = s.monitors := rfl
@[simp] theorem passCycles_quotaAt (s : State) (n : Nat) : (passCycles s n).quotaAt = s.quotaAt := rfl
@[simp] theorem passCycles_hostReads (s : State) (n : Nat) : (passCycles s n).hostReads = s.hostReads := rfl
@[simp] theorem passCycles_mailboxes (s : State) (n : Nat) : (passCycles s n).mailboxes = s.mailboxes := rfl
@[simp] theorem passCycles_debugSlots (s : State) (n : Nat) : (passCycles s n).debugSlots = s.debugSlots := rfl
@[simp] theorem passCycles_saltin (s : State) (n : Nat) : (passCycles s n).saltin = s.saltin := rfl
@[simp] theorem passCycles_service (s : State) (n : Nat) : (passCycles s n).service = s.service := rfl

/-! ### setCt -/

@[simp] theorem setCt_cur (s : State) (c : Nat) (t : Word) : (setCt s c t).cur = s.cur := rfl
@[simp] theorem setCt_agenda (s : State) (c : Nat) (t : Word) : (setCt s c t).agenda = s.agenda := rfl
@[simp] theorem setCt_clock (s : State) (c : Nat) (t : Word) : (setCt s c t).clock = s.clock := rfl
@[simp] theorem setCt_wall (s : State) (c : Nat) (t : Word) : (setCt s c t).wall = s.wall := rfl
@[simp] theorem setCt_memSize (s : State) (c : Nat) (t : Word) : (setCt s c t).memSize = s.memSize := rfl
@[simp] theorem setCt_mem (s : State) (c : Nat) (t : Word) : (setCt s c t).mem = s.mem := rfl
@[simp] theorem setCt_sectorKeys (s : State) (c : Nat) (t : Word) : (setCt s c t).sectorKeys = s.sectorKeys := rfl
@[simp] theorem setCt_hostMem (s : State) (c : Nat) (t : Word) : (setCt s c t).hostMem = s.hostMem := rfl
@[simp] theorem setCt_combiner (s : State) (c : Nat) (t : Word) : (setCt s c t).combiner = s.combiner := rfl
@[simp] theorem setCt_keys (s : State) (c : Nat) (t : Word) : (setCt s c t).keys = s.keys := rfl
@[simp] theorem setCt_regs (s : State) (c : Nat) (t : Word) : (setCt s c t).regs = s.regs := rfl
@[simp] theorem setCt_counters (s : State) (c : Nat) (t : Word) : (setCt s c t).counters = s.counters := rfl
@[simp] theorem setCt_counterTs (s : State) (c : Nat) (t : Word) : (setCt s c t).counterTs = s.counterTs := rfl
@[simp] theorem setCt_dies (s : State) (c : Nat) (t : Word) : (setCt s c t).dies = s.dies := rfl
@[simp] theorem setCt_lines (s : State) (c : Nat) (t : Word) : (setCt s c t).lines = s.lines := rfl
@[simp] theorem setCt_mts (s : State) (c : Nat) (t : Word) : (setCt s c t).mts = s.mts := rfl
@[simp] theorem setCt_waiters (s : State) (c : Nat) (t : Word) : (setCt s c t).waiters = s.waiters := rfl
@[simp] theorem setCt_atomicWorlds (s : State) (c : Nat) (t : Word) : (setCt s c t).atomicWorlds = s.atomicWorlds := rfl
@[simp] theorem setCt_hl (s : State) (c : Nat) (t : Word) : (setCt s c t).hl = s.hl := rfl
@[simp] theorem setCt_fl (s : State) (c : Nat) (t : Word) : (setCt s c t).fl = s.fl := rfl
@[simp] theorem setCt_pCopies (s : State) (c : Nat) (t : Word) : (setCt s c t).pCopies = s.pCopies := rfl
@[simp] theorem setCt_fCopies (s : State) (c : Nat) (t : Word) : (setCt s c t).fCopies = s.fCopies := rfl
@[simp] theorem setCt_inflight (s : State) (c : Nat) (t : Word) : (setCt s c t).inflight = s.inflight := rfl
@[simp] theorem setCt_nextAccess (s : State) (c : Nat) (t : Word) : (setCt s c t).nextAccess = s.nextAccess := rfl
@[simp] theorem setCt_sent (s : State) (c : Nat) (t : Word) : (setCt s c t).sent = s.sent := rfl
@[simp] theorem setCt_expected (s : State) (c : Nat) (t : Word) : (setCt s c t).expected = s.expected := rfl
@[simp] theorem setCt_heldPackets (s : State) (c : Nat) (t : Word) : (setCt s c t).heldPackets = s.heldPackets := rfl
@[simp] theorem setCt_outbox (s : State) (c : Nat) (t : Word) : (setCt s c t).outbox = s.outbox := rfl
@[simp] theorem setCt_unsprayed (s : State) (c : Nat) (t : Word) : (setCt s c t).unsprayed = s.unsprayed := rfl
@[simp] theorem setCt_markers (s : State) (c : Nat) (t : Word) : (setCt s c t).markers = s.markers := rfl
@[simp] theorem setCt_late (s : State) (c : Nat) (t : Word) : (setCt s c t).late = s.late := rfl
@[simp] theorem setCt_tableReads (s : State) (c : Nat) (t : Word) : (setCt s c t).tableReads = s.tableReads := rfl
@[simp] theorem setCt_messages (s : State) (c : Nat) (t : Word) : (setCt s c t).messages = s.messages := rfl
@[simp] theorem setCt_blocked (s : State) (c : Nat) (t : Word) : (setCt s c t).blocked = s.blocked := rfl
@[simp] theorem setCt_standing (s : State) (c : Nat) (t : Word) : (setCt s c t).standing = s.standing := rfl
@[simp] theorem setCt_ended (s : State) (c : Nat) (t : Word) : (setCt s c t).ended = s.ended := rfl
@[simp] theorem setCt_remoteFaults (s : State) (c : Nat) (t : Word) : (setCt s c t).remoteFaults = s.remoteFaults := rfl
@[simp] theorem setCt_links (s : State) (c : Nat) (t : Word) : (setCt s c t).links = s.links := rfl
@[simp] theorem setCt_launchCount (s : State) (c : Nat) (t : Word) : (setCt s c t).launchCount = s.launchCount := rfl
@[simp] theorem setCt_queues (s : State) (c : Nat) (t : Word) : (setCt s c t).queues = s.queues := rfl
@[simp] theorem setCt_launches (s : State) (c : Nat) (t : Word) : (setCt s c t).launches = s.launches := rfl
@[simp] theorem setCt_gangs (s : State) (c : Nat) (t : Word) : (setCt s c t).gangs = s.gangs := rfl
@[simp] theorem setCt_visits (s : State) (c : Nat) (t : Word) : (setCt s c t).visits = s.visits := rfl
@[simp] theorem setCt_ackOrder (s : State) (c : Nat) (t : Word) : (setCt s c t).ackOrder = s.ackOrder := rfl
@[simp] theorem setCt_loaderHandler (s : State) (c : Nat) (t : Word) : (setCt s c t).loaderHandler = s.loaderHandler := rfl
@[simp] theorem setCt_launchWaits (s : State) (c : Nat) (t : Word) : (setCt s c t).launchWaits = s.launchWaits := rfl
@[simp] theorem setCt_waiting (s : State) (c : Nat) (t : Word) : (setCt s c t).waiting = s.waiting := rfl
@[simp] theorem setCt_rings (s : State) (c : Nat) (t : Word) : (setCt s c t).rings = s.rings := rfl
@[simp] theorem setCt_posted (s : State) (c : Nat) (t : Word) : (setCt s c t).posted = s.posted := rfl
@[simp] theorem setCt_pledges (s : State) (c : Nat) (t : Word) : (setCt s c t).pledges = s.pledges := rfl
@[simp] theorem setCt_partitions (s : State) (c : Nat) (t : Word) : (setCt s c t).partitions = s.partitions := rfl
@[simp] theorem setCt_cacheSets (s : State) (c : Nat) (t : Word) : (setCt s c t).cacheSets = s.cacheSets := rfl
@[simp] theorem setCt_monitors (s : State) (c : Nat) (t : Word) : (setCt s c t).monitors = s.monitors := rfl
@[simp] theorem setCt_quotaAt (s : State) (c : Nat) (t : Word) : (setCt s c t).quotaAt = s.quotaAt := rfl
@[simp] theorem setCt_hostReads (s : State) (c : Nat) (t : Word) : (setCt s c t).hostReads = s.hostReads := rfl
@[simp] theorem setCt_mailboxes (s : State) (c : Nat) (t : Word) : (setCt s c t).mailboxes = s.mailboxes := rfl
@[simp] theorem setCt_debugSlots (s : State) (c : Nat) (t : Word) : (setCt s c t).debugSlots = s.debugSlots := rfl
@[simp] theorem setCt_saltin (s : State) (c : Nat) (t : Word) : (setCt s c t).saltin = s.saltin := rfl
@[simp] theorem setCt_service (s : State) (c : Nat) (t : Word) : (setCt s c t).service = s.service := rfl

/-! ### putLine -/

@[simp] theorem putLine_cur (s : State) (line : Nat) (l : Line) : (putLine s line l).cur = s.cur := rfl
@[simp] theorem putLine_agenda (s : State) (line : Nat) (l : Line) : (putLine s line l).agenda = s.agenda := rfl
@[simp] theorem putLine_clock (s : State) (line : Nat) (l : Line) : (putLine s line l).clock = s.clock := rfl
@[simp] theorem putLine_wall (s : State) (line : Nat) (l : Line) : (putLine s line l).wall = s.wall := rfl
@[simp] theorem putLine_memSize (s : State) (line : Nat) (l : Line) : (putLine s line l).memSize = s.memSize := rfl
@[simp] theorem putLine_mem (s : State) (line : Nat) (l : Line) : (putLine s line l).mem = s.mem := rfl
@[simp] theorem putLine_sectorKeys (s : State) (line : Nat) (l : Line) : (putLine s line l).sectorKeys = s.sectorKeys := rfl
@[simp] theorem putLine_hostMem (s : State) (line : Nat) (l : Line) : (putLine s line l).hostMem = s.hostMem := rfl
@[simp] theorem putLine_combiner (s : State) (line : Nat) (l : Line) : (putLine s line l).combiner = s.combiner := rfl
@[simp] theorem putLine_keys (s : State) (line : Nat) (l : Line) : (putLine s line l).keys = s.keys := rfl
@[simp] theorem putLine_regs (s : State) (line : Nat) (l : Line) : (putLine s line l).regs = s.regs := rfl
@[simp] theorem putLine_counters (s : State) (line : Nat) (l : Line) : (putLine s line l).counters = s.counters := rfl
@[simp] theorem putLine_counterTs (s : State) (line : Nat) (l : Line) : (putLine s line l).counterTs = s.counterTs := rfl
@[simp] theorem putLine_cores (s : State) (line : Nat) (l : Line) : (putLine s line l).cores = s.cores := rfl
@[simp] theorem putLine_dies (s : State) (line : Nat) (l : Line) : (putLine s line l).dies = s.dies := rfl
@[simp] theorem putLine_mts (s : State) (line : Nat) (l : Line) : (putLine s line l).mts = s.mts := rfl
@[simp] theorem putLine_waiters (s : State) (line : Nat) (l : Line) : (putLine s line l).waiters = s.waiters := rfl
@[simp] theorem putLine_atomicWorlds (s : State) (line : Nat) (l : Line) : (putLine s line l).atomicWorlds = s.atomicWorlds := rfl
@[simp] theorem putLine_hl (s : State) (line : Nat) (l : Line) : (putLine s line l).hl = s.hl := rfl
@[simp] theorem putLine_fl (s : State) (line : Nat) (l : Line) : (putLine s line l).fl = s.fl := rfl
@[simp] theorem putLine_pCopies (s : State) (line : Nat) (l : Line) : (putLine s line l).pCopies = s.pCopies := rfl
@[simp] theorem putLine_fCopies (s : State) (line : Nat) (l : Line) : (putLine s line l).fCopies = s.fCopies := rfl
@[simp] theorem putLine_inflight (s : State) (line : Nat) (l : Line) : (putLine s line l).inflight = s.inflight := rfl
@[simp] theorem putLine_nextAccess (s : State) (line : Nat) (l : Line) : (putLine s line l).nextAccess = s.nextAccess := rfl
@[simp] theorem putLine_sent (s : State) (line : Nat) (l : Line) : (putLine s line l).sent = s.sent := rfl
@[simp] theorem putLine_expected (s : State) (line : Nat) (l : Line) : (putLine s line l).expected = s.expected := rfl
@[simp] theorem putLine_heldPackets (s : State) (line : Nat) (l : Line) : (putLine s line l).heldPackets = s.heldPackets := rfl
@[simp] theorem putLine_outbox (s : State) (line : Nat) (l : Line) : (putLine s line l).outbox = s.outbox := rfl
@[simp] theorem putLine_unsprayed (s : State) (line : Nat) (l : Line) : (putLine s line l).unsprayed = s.unsprayed := rfl
@[simp] theorem putLine_markers (s : State) (line : Nat) (l : Line) : (putLine s line l).markers = s.markers := rfl
@[simp] theorem putLine_late (s : State) (line : Nat) (l : Line) : (putLine s line l).late = s.late := rfl
@[simp] theorem putLine_tableReads (s : State) (line : Nat) (l : Line) : (putLine s line l).tableReads = s.tableReads := rfl
@[simp] theorem putLine_messages (s : State) (line : Nat) (l : Line) : (putLine s line l).messages = s.messages := rfl
@[simp] theorem putLine_blocked (s : State) (line : Nat) (l : Line) : (putLine s line l).blocked = s.blocked := rfl
@[simp] theorem putLine_standing (s : State) (line : Nat) (l : Line) : (putLine s line l).standing = s.standing := rfl
@[simp] theorem putLine_ended (s : State) (line : Nat) (l : Line) : (putLine s line l).ended = s.ended := rfl
@[simp] theorem putLine_remoteFaults (s : State) (line : Nat) (l : Line) : (putLine s line l).remoteFaults = s.remoteFaults := rfl
@[simp] theorem putLine_links (s : State) (line : Nat) (l : Line) : (putLine s line l).links = s.links := rfl
@[simp] theorem putLine_launchCount (s : State) (line : Nat) (l : Line) : (putLine s line l).launchCount = s.launchCount := rfl
@[simp] theorem putLine_queues (s : State) (line : Nat) (l : Line) : (putLine s line l).queues = s.queues := rfl
@[simp] theorem putLine_launches (s : State) (line : Nat) (l : Line) : (putLine s line l).launches = s.launches := rfl
@[simp] theorem putLine_gangs (s : State) (line : Nat) (l : Line) : (putLine s line l).gangs = s.gangs := rfl
@[simp] theorem putLine_visits (s : State) (line : Nat) (l : Line) : (putLine s line l).visits = s.visits := rfl
@[simp] theorem putLine_ackOrder (s : State) (line : Nat) (l : Line) : (putLine s line l).ackOrder = s.ackOrder := rfl
@[simp] theorem putLine_loaderHandler (s : State) (line : Nat) (l : Line) : (putLine s line l).loaderHandler = s.loaderHandler := rfl
@[simp] theorem putLine_launchWaits (s : State) (line : Nat) (l : Line) : (putLine s line l).launchWaits = s.launchWaits := rfl
@[simp] theorem putLine_waiting (s : State) (line : Nat) (l : Line) : (putLine s line l).waiting = s.waiting := rfl
@[simp] theorem putLine_rings (s : State) (line : Nat) (l : Line) : (putLine s line l).rings = s.rings := rfl
@[simp] theorem putLine_posted (s : State) (line : Nat) (l : Line) : (putLine s line l).posted = s.posted := rfl
@[simp] theorem putLine_pledges (s : State) (line : Nat) (l : Line) : (putLine s line l).pledges = s.pledges := rfl
@[simp] theorem putLine_partitions (s : State) (line : Nat) (l : Line) : (putLine s line l).partitions = s.partitions := rfl
@[simp] theorem putLine_cacheSets (s : State) (line : Nat) (l : Line) : (putLine s line l).cacheSets = s.cacheSets := rfl
@[simp] theorem putLine_monitors (s : State) (line : Nat) (l : Line) : (putLine s line l).monitors = s.monitors := rfl
@[simp] theorem putLine_quotaAt (s : State) (line : Nat) (l : Line) : (putLine s line l).quotaAt = s.quotaAt := rfl
@[simp] theorem putLine_hostReads (s : State) (line : Nat) (l : Line) : (putLine s line l).hostReads = s.hostReads := rfl
@[simp] theorem putLine_mailboxes (s : State) (line : Nat) (l : Line) : (putLine s line l).mailboxes = s.mailboxes := rfl
@[simp] theorem putLine_debugSlots (s : State) (line : Nat) (l : Line) : (putLine s line l).debugSlots = s.debugSlots := rfl
@[simp] theorem putLine_saltin (s : State) (line : Nat) (l : Line) : (putLine s line l).saltin = s.saltin := rfl
@[simp] theorem putLine_service (s : State) (line : Nat) (l : Line) : (putLine s line l).service = s.service := rfl

/-! ### waitSlice -/

@[simp] theorem waitSlice_cur (s : State) (id : SliceId) (c : ParkClass) : (waitSlice s id c).cur = s.cur := by simp [waitSlice]
@[simp] theorem waitSlice_agenda (s : State) (id : SliceId) (c : ParkClass) : (waitSlice s id c).agenda = s.agenda := by simp [waitSlice]
@[simp] theorem waitSlice_clock (s : State) (id : SliceId) (c : ParkClass) : (waitSlice s id c).clock = s.clock := by simp [waitSlice]
@[simp] theorem waitSlice_wall (s : State) (id : SliceId) (c : ParkClass) : (waitSlice s id c).wall = s.wall := by simp [waitSlice]
@[simp] theorem waitSlice_memSize (s : State) (id : SliceId) (c : ParkClass) : (waitSlice s id c).memSize = s.memSize := by simp [waitSlice]
@[simp] theorem waitSlice_mem (s : State) (id : SliceId) (c : ParkClass) : (waitSlice s id c).mem = s.mem := by simp [waitSlice]
@[simp] theorem waitSlice_sectorKeys (s : State) (id : SliceId) (c : ParkClass) : (waitSlice s id c).sectorKeys = s.sectorKeys := by simp [waitSlice]
@[simp] theorem waitSlice_hostMem (s : State) (id : SliceId) (c : ParkClass) : (waitSlice s id c).hostMem = s.hostMem := by simp [waitSlice]
@[simp] theorem waitSlice_combiner (s : State) (id : SliceId) (c : ParkClass) : (waitSlice s id c).combiner = s.combiner := by simp [waitSlice]
@[simp] theorem waitSlice_keys (s : State) (id : SliceId) (c : ParkClass) : (waitSlice s id c).keys = s.keys := by simp [waitSlice]
@[simp] theorem waitSlice_regs (s : State) (id : SliceId) (c : ParkClass) : (waitSlice s id c).regs = s.regs := by simp [waitSlice]
@[simp] theorem waitSlice_counters (s : State) (id : SliceId) (c : ParkClass) : (waitSlice s id c).counters = s.counters := by simp [waitSlice]
@[simp] theorem waitSlice_counterTs (s : State) (id : SliceId) (c : ParkClass) : (waitSlice s id c).counterTs = s.counterTs := by simp [waitSlice]
@[simp] theorem waitSlice_dies (s : State) (id : SliceId) (c : ParkClass) : (waitSlice s id c).dies = s.dies := by simp [waitSlice]
@[simp] theorem waitSlice_lines (s : State) (id : SliceId) (c : ParkClass) : (waitSlice s id c).lines = s.lines := by simp [waitSlice]
@[simp] theorem waitSlice_mts (s : State) (id : SliceId) (c : ParkClass) : (waitSlice s id c).mts = s.mts := by simp [waitSlice]
@[simp] theorem waitSlice_waiters (s : State) (id : SliceId) (c : ParkClass) : (waitSlice s id c).waiters = s.waiters := by simp [waitSlice]
@[simp] theorem waitSlice_atomicWorlds (s : State) (id : SliceId) (c : ParkClass) : (waitSlice s id c).atomicWorlds = s.atomicWorlds := by simp [waitSlice]
@[simp] theorem waitSlice_hl (s : State) (id : SliceId) (c : ParkClass) : (waitSlice s id c).hl = s.hl := by simp [waitSlice]
@[simp] theorem waitSlice_fl (s : State) (id : SliceId) (c : ParkClass) : (waitSlice s id c).fl = s.fl := by simp [waitSlice]
@[simp] theorem waitSlice_pCopies (s : State) (id : SliceId) (c : ParkClass) : (waitSlice s id c).pCopies = s.pCopies := by simp [waitSlice]
@[simp] theorem waitSlice_fCopies (s : State) (id : SliceId) (c : ParkClass) : (waitSlice s id c).fCopies = s.fCopies := by simp [waitSlice]
@[simp] theorem waitSlice_inflight (s : State) (id : SliceId) (c : ParkClass) : (waitSlice s id c).inflight = s.inflight := by simp [waitSlice]
@[simp] theorem waitSlice_nextAccess (s : State) (id : SliceId) (c : ParkClass) : (waitSlice s id c).nextAccess = s.nextAccess := by simp [waitSlice]
@[simp] theorem waitSlice_sent (s : State) (id : SliceId) (c : ParkClass) : (waitSlice s id c).sent = s.sent := by simp [waitSlice]
@[simp] theorem waitSlice_expected (s : State) (id : SliceId) (c : ParkClass) : (waitSlice s id c).expected = s.expected := by simp [waitSlice]
@[simp] theorem waitSlice_heldPackets (s : State) (id : SliceId) (c : ParkClass) : (waitSlice s id c).heldPackets = s.heldPackets := by simp [waitSlice]
@[simp] theorem waitSlice_outbox (s : State) (id : SliceId) (c : ParkClass) : (waitSlice s id c).outbox = s.outbox := by simp [waitSlice]
@[simp] theorem waitSlice_unsprayed (s : State) (id : SliceId) (c : ParkClass) : (waitSlice s id c).unsprayed = s.unsprayed := by simp [waitSlice]
@[simp] theorem waitSlice_markers (s : State) (id : SliceId) (c : ParkClass) : (waitSlice s id c).markers = s.markers := by simp [waitSlice]
@[simp] theorem waitSlice_late (s : State) (id : SliceId) (c : ParkClass) : (waitSlice s id c).late = s.late := by simp [waitSlice]
@[simp] theorem waitSlice_tableReads (s : State) (id : SliceId) (c : ParkClass) : (waitSlice s id c).tableReads = s.tableReads := by simp [waitSlice]
@[simp] theorem waitSlice_messages (s : State) (id : SliceId) (c : ParkClass) : (waitSlice s id c).messages = s.messages := by simp [waitSlice]
@[simp] theorem waitSlice_blocked (s : State) (id : SliceId) (c : ParkClass) : (waitSlice s id c).blocked = s.blocked := by simp [waitSlice]
@[simp] theorem waitSlice_standing (s : State) (id : SliceId) (c : ParkClass) : (waitSlice s id c).standing = s.standing := by simp [waitSlice]
@[simp] theorem waitSlice_ended (s : State) (id : SliceId) (c : ParkClass) : (waitSlice s id c).ended = s.ended := by simp [waitSlice]
@[simp] theorem waitSlice_remoteFaults (s : State) (id : SliceId) (c : ParkClass) : (waitSlice s id c).remoteFaults = s.remoteFaults := by simp [waitSlice]
@[simp] theorem waitSlice_links (s : State) (id : SliceId) (c : ParkClass) : (waitSlice s id c).links = s.links := by simp [waitSlice]
@[simp] theorem waitSlice_launchCount (s : State) (id : SliceId) (c : ParkClass) : (waitSlice s id c).launchCount = s.launchCount := by simp [waitSlice]
@[simp] theorem waitSlice_queues (s : State) (id : SliceId) (c : ParkClass) : (waitSlice s id c).queues = s.queues := by simp [waitSlice]
@[simp] theorem waitSlice_launches (s : State) (id : SliceId) (c : ParkClass) : (waitSlice s id c).launches = s.launches := by simp [waitSlice]
@[simp] theorem waitSlice_gangs (s : State) (id : SliceId) (c : ParkClass) : (waitSlice s id c).gangs = s.gangs := by simp [waitSlice]
@[simp] theorem waitSlice_visits (s : State) (id : SliceId) (c : ParkClass) : (waitSlice s id c).visits = s.visits := by simp [waitSlice]
@[simp] theorem waitSlice_ackOrder (s : State) (id : SliceId) (c : ParkClass) : (waitSlice s id c).ackOrder = s.ackOrder := by simp [waitSlice]
@[simp] theorem waitSlice_loaderHandler (s : State) (id : SliceId) (c : ParkClass) : (waitSlice s id c).loaderHandler = s.loaderHandler := by simp [waitSlice]
@[simp] theorem waitSlice_launchWaits (s : State) (id : SliceId) (c : ParkClass) : (waitSlice s id c).launchWaits = s.launchWaits := by simp [waitSlice]
@[simp] theorem waitSlice_waiting (s : State) (id : SliceId) (c : ParkClass) : (waitSlice s id c).waiting = s.waiting := by simp [waitSlice]
@[simp] theorem waitSlice_rings (s : State) (id : SliceId) (c : ParkClass) : (waitSlice s id c).rings = s.rings := by simp [waitSlice]
@[simp] theorem waitSlice_posted (s : State) (id : SliceId) (c : ParkClass) : (waitSlice s id c).posted = s.posted := by simp [waitSlice]
@[simp] theorem waitSlice_pledges (s : State) (id : SliceId) (c : ParkClass) : (waitSlice s id c).pledges = s.pledges := by simp [waitSlice]
@[simp] theorem waitSlice_partitions (s : State) (id : SliceId) (c : ParkClass) : (waitSlice s id c).partitions = s.partitions := by simp [waitSlice]
@[simp] theorem waitSlice_cacheSets (s : State) (id : SliceId) (c : ParkClass) : (waitSlice s id c).cacheSets = s.cacheSets := by simp [waitSlice]
@[simp] theorem waitSlice_monitors (s : State) (id : SliceId) (c : ParkClass) : (waitSlice s id c).monitors = s.monitors := by simp [waitSlice]
@[simp] theorem waitSlice_quotaAt (s : State) (id : SliceId) (c : ParkClass) : (waitSlice s id c).quotaAt = s.quotaAt := by simp [waitSlice]
@[simp] theorem waitSlice_hostReads (s : State) (id : SliceId) (c : ParkClass) : (waitSlice s id c).hostReads = s.hostReads := by simp [waitSlice]
@[simp] theorem waitSlice_mailboxes (s : State) (id : SliceId) (c : ParkClass) : (waitSlice s id c).mailboxes = s.mailboxes := by simp [waitSlice]
@[simp] theorem waitSlice_debugSlots (s : State) (id : SliceId) (c : ParkClass) : (waitSlice s id c).debugSlots = s.debugSlots := by simp [waitSlice]
@[simp] theorem waitSlice_saltin (s : State) (id : SliceId) (c : ParkClass) : (waitSlice s id c).saltin = s.saltin := by simp [waitSlice]
@[simp] theorem waitSlice_service (s : State) (id : SliceId) (c : ParkClass) : (waitSlice s id c).service = s.service := by simp [waitSlice]

/-! ### parkSlice -/

@[simp] theorem parkSlice_cur (s : State) (id : SliceId) (w : WaitFor) : (parkSlice s id w).cur = s.cur := by unfold parkSlice; split <;> simp
@[simp] theorem parkSlice_agenda (s : State) (id : SliceId) (w : WaitFor) : (parkSlice s id w).agenda = s.agenda := by unfold parkSlice; split <;> simp
@[simp] theorem parkSlice_clock (s : State) (id : SliceId) (w : WaitFor) : (parkSlice s id w).clock = s.clock := by unfold parkSlice; split <;> simp
@[simp] theorem parkSlice_wall (s : State) (id : SliceId) (w : WaitFor) : (parkSlice s id w).wall = s.wall := by unfold parkSlice; split <;> simp
@[simp] theorem parkSlice_memSize (s : State) (id : SliceId) (w : WaitFor) : (parkSlice s id w).memSize = s.memSize := by unfold parkSlice; split <;> simp
@[simp] theorem parkSlice_mem (s : State) (id : SliceId) (w : WaitFor) : (parkSlice s id w).mem = s.mem := by unfold parkSlice; split <;> simp
@[simp] theorem parkSlice_sectorKeys (s : State) (id : SliceId) (w : WaitFor) : (parkSlice s id w).sectorKeys = s.sectorKeys := by unfold parkSlice; split <;> simp
@[simp] theorem parkSlice_hostMem (s : State) (id : SliceId) (w : WaitFor) : (parkSlice s id w).hostMem = s.hostMem := by unfold parkSlice; split <;> simp
@[simp] theorem parkSlice_combiner (s : State) (id : SliceId) (w : WaitFor) : (parkSlice s id w).combiner = s.combiner := by unfold parkSlice; split <;> simp
@[simp] theorem parkSlice_keys (s : State) (id : SliceId) (w : WaitFor) : (parkSlice s id w).keys = s.keys := by unfold parkSlice; split <;> simp
@[simp] theorem parkSlice_regs (s : State) (id : SliceId) (w : WaitFor) : (parkSlice s id w).regs = s.regs := by unfold parkSlice; split <;> simp
@[simp] theorem parkSlice_counters (s : State) (id : SliceId) (w : WaitFor) : (parkSlice s id w).counters = s.counters := by unfold parkSlice; split <;> simp
@[simp] theorem parkSlice_counterTs (s : State) (id : SliceId) (w : WaitFor) : (parkSlice s id w).counterTs = s.counterTs := by unfold parkSlice; split <;> simp
@[simp] theorem parkSlice_dies (s : State) (id : SliceId) (w : WaitFor) : (parkSlice s id w).dies = s.dies := by unfold parkSlice; split <;> simp
@[simp] theorem parkSlice_lines (s : State) (id : SliceId) (w : WaitFor) : (parkSlice s id w).lines = s.lines := by unfold parkSlice; split <;> simp
@[simp] theorem parkSlice_mts (s : State) (id : SliceId) (w : WaitFor) : (parkSlice s id w).mts = s.mts := by unfold parkSlice; split <;> simp
@[simp] theorem parkSlice_waiters (s : State) (id : SliceId) (w : WaitFor) : (parkSlice s id w).waiters = s.waiters := by unfold parkSlice; split <;> simp
@[simp] theorem parkSlice_atomicWorlds (s : State) (id : SliceId) (w : WaitFor) : (parkSlice s id w).atomicWorlds = s.atomicWorlds := by unfold parkSlice; split <;> simp
@[simp] theorem parkSlice_hl (s : State) (id : SliceId) (w : WaitFor) : (parkSlice s id w).hl = s.hl := by unfold parkSlice; split <;> simp
@[simp] theorem parkSlice_fl (s : State) (id : SliceId) (w : WaitFor) : (parkSlice s id w).fl = s.fl := by unfold parkSlice; split <;> simp
@[simp] theorem parkSlice_pCopies (s : State) (id : SliceId) (w : WaitFor) : (parkSlice s id w).pCopies = s.pCopies := by unfold parkSlice; split <;> simp
@[simp] theorem parkSlice_fCopies (s : State) (id : SliceId) (w : WaitFor) : (parkSlice s id w).fCopies = s.fCopies := by unfold parkSlice; split <;> simp
@[simp] theorem parkSlice_inflight (s : State) (id : SliceId) (w : WaitFor) : (parkSlice s id w).inflight = s.inflight := by unfold parkSlice; split <;> simp
@[simp] theorem parkSlice_nextAccess (s : State) (id : SliceId) (w : WaitFor) : (parkSlice s id w).nextAccess = s.nextAccess := by unfold parkSlice; split <;> simp
@[simp] theorem parkSlice_sent (s : State) (id : SliceId) (w : WaitFor) : (parkSlice s id w).sent = s.sent := by unfold parkSlice; split <;> simp
@[simp] theorem parkSlice_expected (s : State) (id : SliceId) (w : WaitFor) : (parkSlice s id w).expected = s.expected := by unfold parkSlice; split <;> simp
@[simp] theorem parkSlice_heldPackets (s : State) (id : SliceId) (w : WaitFor) : (parkSlice s id w).heldPackets = s.heldPackets := by unfold parkSlice; split <;> simp
@[simp] theorem parkSlice_outbox (s : State) (id : SliceId) (w : WaitFor) : (parkSlice s id w).outbox = s.outbox := by unfold parkSlice; split <;> simp
@[simp] theorem parkSlice_unsprayed (s : State) (id : SliceId) (w : WaitFor) : (parkSlice s id w).unsprayed = s.unsprayed := by unfold parkSlice; split <;> simp
@[simp] theorem parkSlice_markers (s : State) (id : SliceId) (w : WaitFor) : (parkSlice s id w).markers = s.markers := by unfold parkSlice; split <;> simp
@[simp] theorem parkSlice_late (s : State) (id : SliceId) (w : WaitFor) : (parkSlice s id w).late = s.late := by unfold parkSlice; split <;> simp
@[simp] theorem parkSlice_tableReads (s : State) (id : SliceId) (w : WaitFor) : (parkSlice s id w).tableReads = s.tableReads := by unfold parkSlice; split <;> simp
@[simp] theorem parkSlice_messages (s : State) (id : SliceId) (w : WaitFor) : (parkSlice s id w).messages = s.messages := by unfold parkSlice; split <;> simp
@[simp] theorem parkSlice_blocked (s : State) (id : SliceId) (w : WaitFor) : (parkSlice s id w).blocked = s.blocked := by unfold parkSlice; split <;> simp
@[simp] theorem parkSlice_standing (s : State) (id : SliceId) (w : WaitFor) : (parkSlice s id w).standing = s.standing := by unfold parkSlice; split <;> simp
@[simp] theorem parkSlice_ended (s : State) (id : SliceId) (w : WaitFor) : (parkSlice s id w).ended = s.ended := by unfold parkSlice; split <;> simp
@[simp] theorem parkSlice_remoteFaults (s : State) (id : SliceId) (w : WaitFor) : (parkSlice s id w).remoteFaults = s.remoteFaults := by unfold parkSlice; split <;> simp
@[simp] theorem parkSlice_links (s : State) (id : SliceId) (w : WaitFor) : (parkSlice s id w).links = s.links := by unfold parkSlice; split <;> simp
@[simp] theorem parkSlice_launchCount (s : State) (id : SliceId) (w : WaitFor) : (parkSlice s id w).launchCount = s.launchCount := by unfold parkSlice; split <;> simp
@[simp] theorem parkSlice_queues (s : State) (id : SliceId) (w : WaitFor) : (parkSlice s id w).queues = s.queues := by unfold parkSlice; split <;> simp
@[simp] theorem parkSlice_launches (s : State) (id : SliceId) (w : WaitFor) : (parkSlice s id w).launches = s.launches := by unfold parkSlice; split <;> simp
@[simp] theorem parkSlice_gangs (s : State) (id : SliceId) (w : WaitFor) : (parkSlice s id w).gangs = s.gangs := by unfold parkSlice; split <;> simp
@[simp] theorem parkSlice_visits (s : State) (id : SliceId) (w : WaitFor) : (parkSlice s id w).visits = s.visits := by unfold parkSlice; split <;> simp
@[simp] theorem parkSlice_ackOrder (s : State) (id : SliceId) (w : WaitFor) : (parkSlice s id w).ackOrder = s.ackOrder := by unfold parkSlice; split <;> simp
@[simp] theorem parkSlice_loaderHandler (s : State) (id : SliceId) (w : WaitFor) : (parkSlice s id w).loaderHandler = s.loaderHandler := by unfold parkSlice; split <;> simp
@[simp] theorem parkSlice_launchWaits (s : State) (id : SliceId) (w : WaitFor) : (parkSlice s id w).launchWaits = s.launchWaits := by unfold parkSlice; split <;> simp
@[simp] theorem parkSlice_waiting (s : State) (id : SliceId) (w : WaitFor) : (parkSlice s id w).waiting = s.waiting := by unfold parkSlice; split <;> simp
@[simp] theorem parkSlice_rings (s : State) (id : SliceId) (w : WaitFor) : (parkSlice s id w).rings = s.rings := by unfold parkSlice; split <;> simp
@[simp] theorem parkSlice_posted (s : State) (id : SliceId) (w : WaitFor) : (parkSlice s id w).posted = s.posted := by unfold parkSlice; split <;> simp
@[simp] theorem parkSlice_pledges (s : State) (id : SliceId) (w : WaitFor) : (parkSlice s id w).pledges = s.pledges := by unfold parkSlice; split <;> simp
@[simp] theorem parkSlice_partitions (s : State) (id : SliceId) (w : WaitFor) : (parkSlice s id w).partitions = s.partitions := by unfold parkSlice; split <;> simp
@[simp] theorem parkSlice_cacheSets (s : State) (id : SliceId) (w : WaitFor) : (parkSlice s id w).cacheSets = s.cacheSets := by unfold parkSlice; split <;> simp
@[simp] theorem parkSlice_monitors (s : State) (id : SliceId) (w : WaitFor) : (parkSlice s id w).monitors = s.monitors := by unfold parkSlice; split <;> simp
@[simp] theorem parkSlice_quotaAt (s : State) (id : SliceId) (w : WaitFor) : (parkSlice s id w).quotaAt = s.quotaAt := by unfold parkSlice; split <;> simp
@[simp] theorem parkSlice_hostReads (s : State) (id : SliceId) (w : WaitFor) : (parkSlice s id w).hostReads = s.hostReads := by unfold parkSlice; split <;> simp
@[simp] theorem parkSlice_mailboxes (s : State) (id : SliceId) (w : WaitFor) : (parkSlice s id w).mailboxes = s.mailboxes := by unfold parkSlice; split <;> simp
@[simp] theorem parkSlice_debugSlots (s : State) (id : SliceId) (w : WaitFor) : (parkSlice s id w).debugSlots = s.debugSlots := by unfold parkSlice; split <;> simp
@[simp] theorem parkSlice_saltin (s : State) (id : SliceId) (w : WaitFor) : (parkSlice s id w).saltin = s.saltin := by unfold parkSlice; split <;> simp
@[simp] theorem parkSlice_service (s : State) (id : SliceId) (w : WaitFor) : (parkSlice s id w).service = s.service := by unfold parkSlice; split <;> simp

/-! ### trapSlice -/

@[simp] theorem trapSlice_cur (s : State) (id : SliceId) (t : TrapInfo) : (trapSlice s id t).cur = s.cur := by unfold trapSlice; split <;> rfl
@[simp] theorem trapSlice_agenda (s : State) (id : SliceId) (t : TrapInfo) : (trapSlice s id t).agenda = s.agenda := by unfold trapSlice; split <;> rfl
@[simp] theorem trapSlice_clock (s : State) (id : SliceId) (t : TrapInfo) : (trapSlice s id t).clock = s.clock := by unfold trapSlice; split <;> rfl
@[simp] theorem trapSlice_wall (s : State) (id : SliceId) (t : TrapInfo) : (trapSlice s id t).wall = s.wall := by unfold trapSlice; split <;> rfl
@[simp] theorem trapSlice_memSize (s : State) (id : SliceId) (t : TrapInfo) : (trapSlice s id t).memSize = s.memSize := by unfold trapSlice; split <;> rfl
@[simp] theorem trapSlice_mem (s : State) (id : SliceId) (t : TrapInfo) : (trapSlice s id t).mem = s.mem := by unfold trapSlice; split <;> rfl
@[simp] theorem trapSlice_sectorKeys (s : State) (id : SliceId) (t : TrapInfo) : (trapSlice s id t).sectorKeys = s.sectorKeys := by unfold trapSlice; split <;> rfl
@[simp] theorem trapSlice_hostMem (s : State) (id : SliceId) (t : TrapInfo) : (trapSlice s id t).hostMem = s.hostMem := by unfold trapSlice; split <;> rfl
@[simp] theorem trapSlice_combiner (s : State) (id : SliceId) (t : TrapInfo) : (trapSlice s id t).combiner = s.combiner := by unfold trapSlice; split <;> rfl
@[simp] theorem trapSlice_keys (s : State) (id : SliceId) (t : TrapInfo) : (trapSlice s id t).keys = s.keys := by unfold trapSlice; split <;> rfl
@[simp] theorem trapSlice_regs (s : State) (id : SliceId) (t : TrapInfo) : (trapSlice s id t).regs = s.regs := by unfold trapSlice; split <;> rfl
@[simp] theorem trapSlice_counters (s : State) (id : SliceId) (t : TrapInfo) : (trapSlice s id t).counters = s.counters := by unfold trapSlice; split <;> rfl
@[simp] theorem trapSlice_counterTs (s : State) (id : SliceId) (t : TrapInfo) : (trapSlice s id t).counterTs = s.counterTs := by unfold trapSlice; split <;> rfl
@[simp] theorem trapSlice_dies (s : State) (id : SliceId) (t : TrapInfo) : (trapSlice s id t).dies = s.dies := by unfold trapSlice; split <;> rfl
@[simp] theorem trapSlice_lines (s : State) (id : SliceId) (t : TrapInfo) : (trapSlice s id t).lines = s.lines := by unfold trapSlice; split <;> rfl
@[simp] theorem trapSlice_mts (s : State) (id : SliceId) (t : TrapInfo) : (trapSlice s id t).mts = s.mts := by unfold trapSlice; split <;> rfl
@[simp] theorem trapSlice_waiters (s : State) (id : SliceId) (t : TrapInfo) : (trapSlice s id t).waiters = s.waiters := by unfold trapSlice; split <;> rfl
@[simp] theorem trapSlice_atomicWorlds (s : State) (id : SliceId) (t : TrapInfo) : (trapSlice s id t).atomicWorlds = s.atomicWorlds := by unfold trapSlice; split <;> rfl
@[simp] theorem trapSlice_hl (s : State) (id : SliceId) (t : TrapInfo) : (trapSlice s id t).hl = s.hl := by unfold trapSlice; split <;> rfl
@[simp] theorem trapSlice_fl (s : State) (id : SliceId) (t : TrapInfo) : (trapSlice s id t).fl = s.fl := by unfold trapSlice; split <;> rfl
@[simp] theorem trapSlice_pCopies (s : State) (id : SliceId) (t : TrapInfo) : (trapSlice s id t).pCopies = s.pCopies := by unfold trapSlice; split <;> rfl
@[simp] theorem trapSlice_fCopies (s : State) (id : SliceId) (t : TrapInfo) : (trapSlice s id t).fCopies = s.fCopies := by unfold trapSlice; split <;> rfl
@[simp] theorem trapSlice_inflight (s : State) (id : SliceId) (t : TrapInfo) : (trapSlice s id t).inflight = s.inflight := by unfold trapSlice; split <;> rfl
@[simp] theorem trapSlice_nextAccess (s : State) (id : SliceId) (t : TrapInfo) : (trapSlice s id t).nextAccess = s.nextAccess := by unfold trapSlice; split <;> rfl
@[simp] theorem trapSlice_sent (s : State) (id : SliceId) (t : TrapInfo) : (trapSlice s id t).sent = s.sent := by unfold trapSlice; split <;> rfl
@[simp] theorem trapSlice_expected (s : State) (id : SliceId) (t : TrapInfo) : (trapSlice s id t).expected = s.expected := by unfold trapSlice; split <;> rfl
@[simp] theorem trapSlice_heldPackets (s : State) (id : SliceId) (t : TrapInfo) : (trapSlice s id t).heldPackets = s.heldPackets := by unfold trapSlice; split <;> rfl
@[simp] theorem trapSlice_outbox (s : State) (id : SliceId) (t : TrapInfo) : (trapSlice s id t).outbox = s.outbox := by unfold trapSlice; split <;> rfl
@[simp] theorem trapSlice_unsprayed (s : State) (id : SliceId) (t : TrapInfo) : (trapSlice s id t).unsprayed = s.unsprayed := by unfold trapSlice; split <;> rfl
@[simp] theorem trapSlice_markers (s : State) (id : SliceId) (t : TrapInfo) : (trapSlice s id t).markers = s.markers := by unfold trapSlice; split <;> rfl
@[simp] theorem trapSlice_late (s : State) (id : SliceId) (t : TrapInfo) : (trapSlice s id t).late = s.late := by unfold trapSlice; split <;> rfl
@[simp] theorem trapSlice_tableReads (s : State) (id : SliceId) (t : TrapInfo) : (trapSlice s id t).tableReads = s.tableReads := by unfold trapSlice; split <;> rfl
@[simp] theorem trapSlice_messages (s : State) (id : SliceId) (t : TrapInfo) : (trapSlice s id t).messages = s.messages := by unfold trapSlice; split <;> rfl
@[simp] theorem trapSlice_blocked (s : State) (id : SliceId) (t : TrapInfo) : (trapSlice s id t).blocked = s.blocked := by unfold trapSlice; split <;> rfl
@[simp] theorem trapSlice_standing (s : State) (id : SliceId) (t : TrapInfo) : (trapSlice s id t).standing = s.standing := by unfold trapSlice; split <;> rfl
@[simp] theorem trapSlice_ended (s : State) (id : SliceId) (t : TrapInfo) : (trapSlice s id t).ended = s.ended := by unfold trapSlice; split <;> rfl
@[simp] theorem trapSlice_remoteFaults (s : State) (id : SliceId) (t : TrapInfo) : (trapSlice s id t).remoteFaults = s.remoteFaults := by unfold trapSlice; split <;> rfl
@[simp] theorem trapSlice_links (s : State) (id : SliceId) (t : TrapInfo) : (trapSlice s id t).links = s.links := by unfold trapSlice; split <;> rfl
@[simp] theorem trapSlice_launchCount (s : State) (id : SliceId) (t : TrapInfo) : (trapSlice s id t).launchCount = s.launchCount := by unfold trapSlice; split <;> rfl
@[simp] theorem trapSlice_queues (s : State) (id : SliceId) (t : TrapInfo) : (trapSlice s id t).queues = s.queues := by unfold trapSlice; split <;> rfl
@[simp] theorem trapSlice_launches (s : State) (id : SliceId) (t : TrapInfo) : (trapSlice s id t).launches = s.launches := by unfold trapSlice; split <;> rfl
@[simp] theorem trapSlice_gangs (s : State) (id : SliceId) (t : TrapInfo) : (trapSlice s id t).gangs = s.gangs := by unfold trapSlice; split <;> rfl
@[simp] theorem trapSlice_visits (s : State) (id : SliceId) (t : TrapInfo) : (trapSlice s id t).visits = s.visits := by unfold trapSlice; split <;> rfl
@[simp] theorem trapSlice_ackOrder (s : State) (id : SliceId) (t : TrapInfo) : (trapSlice s id t).ackOrder = s.ackOrder := by unfold trapSlice; split <;> rfl
@[simp] theorem trapSlice_loaderHandler (s : State) (id : SliceId) (t : TrapInfo) : (trapSlice s id t).loaderHandler = s.loaderHandler := by unfold trapSlice; split <;> rfl
@[simp] theorem trapSlice_launchWaits (s : State) (id : SliceId) (t : TrapInfo) : (trapSlice s id t).launchWaits = s.launchWaits := by unfold trapSlice; split <;> rfl
@[simp] theorem trapSlice_rings (s : State) (id : SliceId) (t : TrapInfo) : (trapSlice s id t).rings = s.rings := by unfold trapSlice; split <;> rfl
@[simp] theorem trapSlice_posted (s : State) (id : SliceId) (t : TrapInfo) : (trapSlice s id t).posted = s.posted := by unfold trapSlice; split <;> rfl
@[simp] theorem trapSlice_pledges (s : State) (id : SliceId) (t : TrapInfo) : (trapSlice s id t).pledges = s.pledges := by unfold trapSlice; split <;> rfl
@[simp] theorem trapSlice_partitions (s : State) (id : SliceId) (t : TrapInfo) : (trapSlice s id t).partitions = s.partitions := by unfold trapSlice; split <;> rfl
@[simp] theorem trapSlice_cacheSets (s : State) (id : SliceId) (t : TrapInfo) : (trapSlice s id t).cacheSets = s.cacheSets := by unfold trapSlice; split <;> rfl
@[simp] theorem trapSlice_monitors (s : State) (id : SliceId) (t : TrapInfo) : (trapSlice s id t).monitors = s.monitors := by unfold trapSlice; split <;> rfl
@[simp] theorem trapSlice_quotaAt (s : State) (id : SliceId) (t : TrapInfo) : (trapSlice s id t).quotaAt = s.quotaAt := by unfold trapSlice; split <;> rfl
@[simp] theorem trapSlice_hostReads (s : State) (id : SliceId) (t : TrapInfo) : (trapSlice s id t).hostReads = s.hostReads := by unfold trapSlice; split <;> rfl
@[simp] theorem trapSlice_mailboxes (s : State) (id : SliceId) (t : TrapInfo) : (trapSlice s id t).mailboxes = s.mailboxes := by unfold trapSlice; split <;> rfl
@[simp] theorem trapSlice_debugSlots (s : State) (id : SliceId) (t : TrapInfo) : (trapSlice s id t).debugSlots = s.debugSlots := by unfold trapSlice; split <;> rfl
@[simp] theorem trapSlice_saltin (s : State) (id : SliceId) (t : TrapInfo) : (trapSlice s id t).saltin = s.saltin := by unfold trapSlice; split <;> rfl
@[simp] theorem trapSlice_service (s : State) (id : SliceId) (t : TrapInfo) : (trapSlice s id t).service = s.service := by unfold trapSlice; split <;> rfl

/-! ### complete -/

@[simp] theorem complete_cur (s : State) (id : SliceId) (next : Word) : (complete s id next).cur = s.cur := by unfold complete; split <;> [rfl; (dsimp only; split <;> simp)]
@[simp] theorem complete_agenda (s : State) (id : SliceId) (next : Word) : (complete s id next).agenda = s.agenda := by unfold complete; split <;> [rfl; (dsimp only; split <;> simp)]
@[simp] theorem complete_clock (s : State) (id : SliceId) (next : Word) : (complete s id next).clock = s.clock := by unfold complete; split <;> [rfl; (dsimp only; split <;> simp)]
@[simp] theorem complete_wall (s : State) (id : SliceId) (next : Word) : (complete s id next).wall = s.wall := by unfold complete; split <;> [rfl; (dsimp only; split <;> simp)]
@[simp] theorem complete_memSize (s : State) (id : SliceId) (next : Word) : (complete s id next).memSize = s.memSize := by unfold complete; split <;> [rfl; (dsimp only; split <;> simp)]
@[simp] theorem complete_mem (s : State) (id : SliceId) (next : Word) : (complete s id next).mem = s.mem := by unfold complete; split <;> [rfl; (dsimp only; split <;> simp)]
@[simp] theorem complete_sectorKeys (s : State) (id : SliceId) (next : Word) : (complete s id next).sectorKeys = s.sectorKeys := by unfold complete; split <;> [rfl; (dsimp only; split <;> simp)]
@[simp] theorem complete_hostMem (s : State) (id : SliceId) (next : Word) : (complete s id next).hostMem = s.hostMem := by unfold complete; split <;> [rfl; (dsimp only; split <;> simp)]
@[simp] theorem complete_combiner (s : State) (id : SliceId) (next : Word) : (complete s id next).combiner = s.combiner := by unfold complete; split <;> [rfl; (dsimp only; split <;> simp)]
@[simp] theorem complete_keys (s : State) (id : SliceId) (next : Word) : (complete s id next).keys = s.keys := by unfold complete; split <;> [rfl; (dsimp only; split <;> simp)]
@[simp] theorem complete_regs (s : State) (id : SliceId) (next : Word) : (complete s id next).regs = s.regs := by unfold complete; split <;> [rfl; (dsimp only; split <;> simp)]
@[simp] theorem complete_counters (s : State) (id : SliceId) (next : Word) : (complete s id next).counters = s.counters := by unfold complete; split <;> [rfl; (dsimp only; split <;> simp)]
@[simp] theorem complete_counterTs (s : State) (id : SliceId) (next : Word) : (complete s id next).counterTs = s.counterTs := by unfold complete; split <;> [rfl; (dsimp only; split <;> simp)]
@[simp] theorem complete_dies (s : State) (id : SliceId) (next : Word) : (complete s id next).dies = s.dies := by unfold complete; split <;> [rfl; (dsimp only; split <;> simp)]
@[simp] theorem complete_lines (s : State) (id : SliceId) (next : Word) : (complete s id next).lines = s.lines := by unfold complete; split <;> [rfl; (dsimp only; split <;> simp)]
@[simp] theorem complete_mts (s : State) (id : SliceId) (next : Word) : (complete s id next).mts = s.mts := by unfold complete; split <;> [rfl; (dsimp only; split <;> simp)]
@[simp] theorem complete_waiters (s : State) (id : SliceId) (next : Word) : (complete s id next).waiters = s.waiters := by unfold complete; split <;> [rfl; (dsimp only; split <;> simp)]
@[simp] theorem complete_atomicWorlds (s : State) (id : SliceId) (next : Word) : (complete s id next).atomicWorlds = s.atomicWorlds := by unfold complete; split <;> [rfl; (dsimp only; split <;> simp)]
@[simp] theorem complete_hl (s : State) (id : SliceId) (next : Word) : (complete s id next).hl = s.hl := by unfold complete; split <;> [rfl; (dsimp only; split <;> simp)]
@[simp] theorem complete_fl (s : State) (id : SliceId) (next : Word) : (complete s id next).fl = s.fl := by unfold complete; split <;> [rfl; (dsimp only; split <;> simp)]
@[simp] theorem complete_pCopies (s : State) (id : SliceId) (next : Word) : (complete s id next).pCopies = s.pCopies := by unfold complete; split <;> [rfl; (dsimp only; split <;> simp)]
@[simp] theorem complete_fCopies (s : State) (id : SliceId) (next : Word) : (complete s id next).fCopies = s.fCopies := by unfold complete; split <;> [rfl; (dsimp only; split <;> simp)]
@[simp] theorem complete_inflight (s : State) (id : SliceId) (next : Word) : (complete s id next).inflight = s.inflight := by unfold complete; split <;> [rfl; (dsimp only; split <;> simp)]
@[simp] theorem complete_nextAccess (s : State) (id : SliceId) (next : Word) : (complete s id next).nextAccess = s.nextAccess := by unfold complete; split <;> [rfl; (dsimp only; split <;> simp)]
@[simp] theorem complete_sent (s : State) (id : SliceId) (next : Word) : (complete s id next).sent = s.sent := by unfold complete; split <;> [rfl; (dsimp only; split <;> simp)]
@[simp] theorem complete_expected (s : State) (id : SliceId) (next : Word) : (complete s id next).expected = s.expected := by unfold complete; split <;> [rfl; (dsimp only; split <;> simp)]
@[simp] theorem complete_heldPackets (s : State) (id : SliceId) (next : Word) : (complete s id next).heldPackets = s.heldPackets := by unfold complete; split <;> [rfl; (dsimp only; split <;> simp)]
@[simp] theorem complete_outbox (s : State) (id : SliceId) (next : Word) : (complete s id next).outbox = s.outbox := by unfold complete; split <;> [rfl; (dsimp only; split <;> simp)]
@[simp] theorem complete_unsprayed (s : State) (id : SliceId) (next : Word) : (complete s id next).unsprayed = s.unsprayed := by unfold complete; split <;> [rfl; (dsimp only; split <;> simp)]
@[simp] theorem complete_markers (s : State) (id : SliceId) (next : Word) : (complete s id next).markers = s.markers := by unfold complete; split <;> [rfl; (dsimp only; split <;> simp)]
@[simp] theorem complete_late (s : State) (id : SliceId) (next : Word) : (complete s id next).late = s.late := by unfold complete; split <;> [rfl; (dsimp only; split <;> simp)]
@[simp] theorem complete_tableReads (s : State) (id : SliceId) (next : Word) : (complete s id next).tableReads = s.tableReads := by unfold complete; split <;> [rfl; (dsimp only; split <;> simp)]
@[simp] theorem complete_messages (s : State) (id : SliceId) (next : Word) : (complete s id next).messages = s.messages := by unfold complete; split <;> [rfl; (dsimp only; split <;> simp)]
@[simp] theorem complete_blocked (s : State) (id : SliceId) (next : Word) : (complete s id next).blocked = s.blocked := by unfold complete; split <;> [rfl; (dsimp only; split <;> simp)]
@[simp] theorem complete_standing (s : State) (id : SliceId) (next : Word) : (complete s id next).standing = s.standing := by unfold complete; split <;> [rfl; (dsimp only; split <;> simp)]
@[simp] theorem complete_ended (s : State) (id : SliceId) (next : Word) : (complete s id next).ended = s.ended := by unfold complete; split <;> [rfl; (dsimp only; split <;> simp)]
@[simp] theorem complete_remoteFaults (s : State) (id : SliceId) (next : Word) : (complete s id next).remoteFaults = s.remoteFaults := by unfold complete; split <;> [rfl; (dsimp only; split <;> simp)]
@[simp] theorem complete_links (s : State) (id : SliceId) (next : Word) : (complete s id next).links = s.links := by unfold complete; split <;> [rfl; (dsimp only; split <;> simp)]
@[simp] theorem complete_launchCount (s : State) (id : SliceId) (next : Word) : (complete s id next).launchCount = s.launchCount := by unfold complete; split <;> [rfl; (dsimp only; split <;> simp)]
@[simp] theorem complete_queues (s : State) (id : SliceId) (next : Word) : (complete s id next).queues = s.queues := by unfold complete; split <;> [rfl; (dsimp only; split <;> simp)]
@[simp] theorem complete_launches (s : State) (id : SliceId) (next : Word) : (complete s id next).launches = s.launches := by unfold complete; split <;> [rfl; (dsimp only; split <;> simp)]
@[simp] theorem complete_gangs (s : State) (id : SliceId) (next : Word) : (complete s id next).gangs = s.gangs := by unfold complete; split <;> [rfl; (dsimp only; split <;> simp)]
@[simp] theorem complete_visits (s : State) (id : SliceId) (next : Word) : (complete s id next).visits = s.visits := by unfold complete; split <;> [rfl; (dsimp only; split <;> simp)]
@[simp] theorem complete_ackOrder (s : State) (id : SliceId) (next : Word) : (complete s id next).ackOrder = s.ackOrder := by unfold complete; split <;> [rfl; (dsimp only; split <;> simp)]
@[simp] theorem complete_loaderHandler (s : State) (id : SliceId) (next : Word) : (complete s id next).loaderHandler = s.loaderHandler := by unfold complete; split <;> [rfl; (dsimp only; split <;> simp)]
@[simp] theorem complete_launchWaits (s : State) (id : SliceId) (next : Word) : (complete s id next).launchWaits = s.launchWaits := by unfold complete; split <;> [rfl; (dsimp only; split <;> simp)]
@[simp] theorem complete_rings (s : State) (id : SliceId) (next : Word) : (complete s id next).rings = s.rings := by unfold complete; split <;> [rfl; (dsimp only; split <;> simp)]
@[simp] theorem complete_posted (s : State) (id : SliceId) (next : Word) : (complete s id next).posted = s.posted := by unfold complete; split <;> [rfl; (dsimp only; split <;> simp)]
@[simp] theorem complete_pledges (s : State) (id : SliceId) (next : Word) : (complete s id next).pledges = s.pledges := by unfold complete; split <;> [rfl; (dsimp only; split <;> simp)]
@[simp] theorem complete_partitions (s : State) (id : SliceId) (next : Word) : (complete s id next).partitions = s.partitions := by unfold complete; split <;> [rfl; (dsimp only; split <;> simp)]
@[simp] theorem complete_cacheSets (s : State) (id : SliceId) (next : Word) : (complete s id next).cacheSets = s.cacheSets := by unfold complete; split <;> [rfl; (dsimp only; split <;> simp)]
@[simp] theorem complete_monitors (s : State) (id : SliceId) (next : Word) : (complete s id next).monitors = s.monitors := by unfold complete; split <;> [rfl; (dsimp only; split <;> simp)]
@[simp] theorem complete_quotaAt (s : State) (id : SliceId) (next : Word) : (complete s id next).quotaAt = s.quotaAt := by unfold complete; split <;> [rfl; (dsimp only; split <;> simp)]
@[simp] theorem complete_hostReads (s : State) (id : SliceId) (next : Word) : (complete s id next).hostReads = s.hostReads := by unfold complete; split <;> [rfl; (dsimp only; split <;> simp)]
@[simp] theorem complete_mailboxes (s : State) (id : SliceId) (next : Word) : (complete s id next).mailboxes = s.mailboxes := by unfold complete; split <;> [rfl; (dsimp only; split <;> simp)]
@[simp] theorem complete_debugSlots (s : State) (id : SliceId) (next : Word) : (complete s id next).debugSlots = s.debugSlots := by unfold complete; split <;> [rfl; (dsimp only; split <;> simp)]
@[simp] theorem complete_saltin (s : State) (id : SliceId) (next : Word) : (complete s id next).saltin = s.saltin := by unfold complete; split <;> [rfl; (dsimp only; split <;> simp)]
@[simp] theorem complete_service (s : State) (id : SliceId) (next : Word) : (complete s id next).service = s.service := by unfold complete; split <;> [rfl; (dsimp only; split <;> simp)]

/-! ### Slice.setReg -/

@[simp] theorem Slice.setReg_pc (sl : Slice) (n : Nat) (v : Word) : (sl.setReg n v).pc = sl.pc := rfl
@[simp] theorem Slice.setReg_sp (sl : Slice) (n : Nat) (v : Word) : (sl.setReg n v).sp = sl.sp := rfl
@[simp] theorem Slice.setReg_fflags (sl : Slice) (n : Nat) (v : Word) : (sl.setReg n v).fflags = sl.fflags := rfl
@[simp] theorem Slice.setReg_circle (sl : Slice) (n : Nat) (v : Word) : (sl.setReg n v).circle = sl.circle := rfl
@[simp] theorem Slice.setReg_stepBit (sl : Slice) (n : Nat) (v : Word) : (sl.setReg n v).stepBit = sl.stepBit := rfl
@[simp] theorem Slice.setReg_run (sl : Slice) (n : Nat) (v : Word) : (sl.setReg n v).run = sl.run := rfl
@[simp] theorem Slice.setReg_stall (sl : Slice) (n : Nat) (v : Word) : (sl.setReg n v).stall = sl.stall := rfl
@[simp] theorem Slice.setReg_waits (sl : Slice) (n : Nat) (v : Word) : (sl.setReg n v).waits = sl.waits := rfl
@[simp] theorem Slice.setReg_blame (sl : Slice) (n : Nat) (v : Word) : (sl.setReg n v).blame = sl.blame := rfl
@[simp] theorem Slice.setReg_await (sl : Slice) (n : Nat) (v : Word) : (sl.setReg n v).await = sl.await := rfl
@[simp] theorem Slice.setReg_fetch (sl : Slice) (n : Nat) (v : Word) : (sl.setReg n v).fetch = sl.fetch := rfl
@[simp] theorem Slice.setReg_record (sl : Slice) (n : Nat) (v : Word) : (sl.setReg n v).record = sl.record := rfl
@[simp] theorem Slice.setReg_clockSample (sl : Slice) (n : Nat) (v : Word) : (sl.setReg n v).clockSample = sl.clockSample := rfl
@[simp] theorem Slice.setReg_skip (sl : Slice) (n : Nat) (v : Word) : (sl.setReg n v).skip = sl.skip := rfl
@[simp] theorem Slice.setReg_stack (sl : Slice) (n : Nat) (v : Word) : (sl.setReg n v).stack = sl.stack := rfl
@[simp] theorem Slice.setReg_arrived (sl : Slice) (n : Nat) (v : Word) : (sl.setReg n v).arrived = sl.arrived := rfl
@[simp] theorem Slice.setReg_popped (sl : Slice) (n : Nat) (v : Word) : (sl.setReg n v).popped = sl.popped := rfl
@[simp] theorem Slice.setReg_pushed (sl : Slice) (n : Nat) (v : Word) : (sl.setReg n v).pushed = sl.pushed := rfl
@[simp] theorem Slice.setReg_poisonSeen (sl : Slice) (n : Nat) (v : Word) : (sl.setReg n v).poisonSeen = sl.poisonSeen := rfl
@[simp] theorem Slice.setReg_watched (sl : Slice) (n : Nat) (v : Word) : (sl.setReg n v).watched = sl.watched := rfl
@[simp] theorem Slice.setReg_held (sl : Slice) (n : Nat) (v : Word) : (sl.setReg n v).held = sl.held := rfl
@[simp] theorem Slice.setReg_scatter (sl : Slice) (n : Nat) (v : Word) : (sl.setReg n v).scatter = sl.scatter := rfl
@[simp] theorem Slice.setReg_linv (sl : Slice) (n : Nat) (v : Word) : (sl.setReg n v).linv = sl.linv := rfl
@[simp] theorem Slice.setReg_backq (sl : Slice) (n : Nat) (v : Word) : (sl.setReg n v).backq = sl.backq := rfl
@[simp] theorem Slice.setReg_fabric (sl : Slice) (n : Nat) (v : Word) : (sl.setReg n v).fabric = sl.fabric := rfl
@[simp] theorem Slice.setReg_ready (sl : Slice) (n : Nat) (v : Word) : (sl.setReg n v).ready = sl.ready := rfl

/-! ### Slice.setPair -/

@[simp] theorem Slice.setPair_pc (sl : Slice) (n : Nat) (v : DWord) : (sl.setPair n v).pc = sl.pc := rfl
@[simp] theorem Slice.setPair_sp (sl : Slice) (n : Nat) (v : DWord) : (sl.setPair n v).sp = sl.sp := rfl
@[simp] theorem Slice.setPair_fflags (sl : Slice) (n : Nat) (v : DWord) : (sl.setPair n v).fflags = sl.fflags := rfl
@[simp] theorem Slice.setPair_circle (sl : Slice) (n : Nat) (v : DWord) : (sl.setPair n v).circle = sl.circle := rfl
@[simp] theorem Slice.setPair_stepBit (sl : Slice) (n : Nat) (v : DWord) : (sl.setPair n v).stepBit = sl.stepBit := rfl
@[simp] theorem Slice.setPair_run (sl : Slice) (n : Nat) (v : DWord) : (sl.setPair n v).run = sl.run := rfl
@[simp] theorem Slice.setPair_stall (sl : Slice) (n : Nat) (v : DWord) : (sl.setPair n v).stall = sl.stall := rfl
@[simp] theorem Slice.setPair_waits (sl : Slice) (n : Nat) (v : DWord) : (sl.setPair n v).waits = sl.waits := rfl
@[simp] theorem Slice.setPair_blame (sl : Slice) (n : Nat) (v : DWord) : (sl.setPair n v).blame = sl.blame := rfl
@[simp] theorem Slice.setPair_await (sl : Slice) (n : Nat) (v : DWord) : (sl.setPair n v).await = sl.await := rfl
@[simp] theorem Slice.setPair_fetch (sl : Slice) (n : Nat) (v : DWord) : (sl.setPair n v).fetch = sl.fetch := rfl
@[simp] theorem Slice.setPair_record (sl : Slice) (n : Nat) (v : DWord) : (sl.setPair n v).record = sl.record := rfl
@[simp] theorem Slice.setPair_clockSample (sl : Slice) (n : Nat) (v : DWord) : (sl.setPair n v).clockSample = sl.clockSample := rfl
@[simp] theorem Slice.setPair_skip (sl : Slice) (n : Nat) (v : DWord) : (sl.setPair n v).skip = sl.skip := rfl
@[simp] theorem Slice.setPair_stack (sl : Slice) (n : Nat) (v : DWord) : (sl.setPair n v).stack = sl.stack := rfl
@[simp] theorem Slice.setPair_arrived (sl : Slice) (n : Nat) (v : DWord) : (sl.setPair n v).arrived = sl.arrived := rfl
@[simp] theorem Slice.setPair_popped (sl : Slice) (n : Nat) (v : DWord) : (sl.setPair n v).popped = sl.popped := rfl
@[simp] theorem Slice.setPair_pushed (sl : Slice) (n : Nat) (v : DWord) : (sl.setPair n v).pushed = sl.pushed := rfl
@[simp] theorem Slice.setPair_poisonSeen (sl : Slice) (n : Nat) (v : DWord) : (sl.setPair n v).poisonSeen = sl.poisonSeen := rfl
@[simp] theorem Slice.setPair_watched (sl : Slice) (n : Nat) (v : DWord) : (sl.setPair n v).watched = sl.watched := rfl
@[simp] theorem Slice.setPair_held (sl : Slice) (n : Nat) (v : DWord) : (sl.setPair n v).held = sl.held := rfl
@[simp] theorem Slice.setPair_scatter (sl : Slice) (n : Nat) (v : DWord) : (sl.setPair n v).scatter = sl.scatter := rfl
@[simp] theorem Slice.setPair_linv (sl : Slice) (n : Nat) (v : DWord) : (sl.setPair n v).linv = sl.linv := rfl
@[simp] theorem Slice.setPair_backq (sl : Slice) (n : Nat) (v : DWord) : (sl.setPair n v).backq = sl.backq := rfl
@[simp] theorem Slice.setPair_fabric (sl : Slice) (n : Nat) (v : DWord) : (sl.setPair n v).fabric = sl.fabric := rfl
@[simp] theorem Slice.setPair_ready (sl : Slice) (n : Nat) (v : DWord) : (sl.setPair n v).ready = sl.ready := rfl

/-! ### Slice.flag -/

@[simp] theorem Slice.flag_pc (sl : Slice) (f : Word) : (sl.flag f).pc = sl.pc := rfl
@[simp] theorem Slice.flag_regs (sl : Slice) (f : Word) : (sl.flag f).regs = sl.regs := rfl
@[simp] theorem Slice.flag_sp (sl : Slice) (f : Word) : (sl.flag f).sp = sl.sp := rfl
@[simp] theorem Slice.flag_circle (sl : Slice) (f : Word) : (sl.flag f).circle = sl.circle := rfl
@[simp] theorem Slice.flag_stepBit (sl : Slice) (f : Word) : (sl.flag f).stepBit = sl.stepBit := rfl
@[simp] theorem Slice.flag_run (sl : Slice) (f : Word) : (sl.flag f).run = sl.run := rfl
@[simp] theorem Slice.flag_stall (sl : Slice) (f : Word) : (sl.flag f).stall = sl.stall := rfl
@[simp] theorem Slice.flag_waits (sl : Slice) (f : Word) : (sl.flag f).waits = sl.waits := rfl
@[simp] theorem Slice.flag_blame (sl : Slice) (f : Word) : (sl.flag f).blame = sl.blame := rfl
@[simp] theorem Slice.flag_await (sl : Slice) (f : Word) : (sl.flag f).await = sl.await := rfl
@[simp] theorem Slice.flag_fetch (sl : Slice) (f : Word) : (sl.flag f).fetch = sl.fetch := rfl
@[simp] theorem Slice.flag_record (sl : Slice) (f : Word) : (sl.flag f).record = sl.record := rfl
@[simp] theorem Slice.flag_clockSample (sl : Slice) (f : Word) : (sl.flag f).clockSample = sl.clockSample := rfl
@[simp] theorem Slice.flag_skip (sl : Slice) (f : Word) : (sl.flag f).skip = sl.skip := rfl
@[simp] theorem Slice.flag_stack (sl : Slice) (f : Word) : (sl.flag f).stack = sl.stack := rfl
@[simp] theorem Slice.flag_arrived (sl : Slice) (f : Word) : (sl.flag f).arrived = sl.arrived := rfl
@[simp] theorem Slice.flag_popped (sl : Slice) (f : Word) : (sl.flag f).popped = sl.popped := rfl
@[simp] theorem Slice.flag_pushed (sl : Slice) (f : Word) : (sl.flag f).pushed = sl.pushed := rfl
@[simp] theorem Slice.flag_poisonSeen (sl : Slice) (f : Word) : (sl.flag f).poisonSeen = sl.poisonSeen := rfl
@[simp] theorem Slice.flag_watched (sl : Slice) (f : Word) : (sl.flag f).watched = sl.watched := rfl
@[simp] theorem Slice.flag_held (sl : Slice) (f : Word) : (sl.flag f).held = sl.held := rfl
@[simp] theorem Slice.flag_scatter (sl : Slice) (f : Word) : (sl.flag f).scatter = sl.scatter := rfl
@[simp] theorem Slice.flag_linv (sl : Slice) (f : Word) : (sl.flag f).linv = sl.linv := rfl
@[simp] theorem Slice.flag_backq (sl : Slice) (f : Word) : (sl.flag f).backq = sl.backq := rfl
@[simp] theorem Slice.flag_fabric (sl : Slice) (f : Word) : (sl.flag f).fabric = sl.fabric := rfl
@[simp] theorem Slice.flag_ready (sl : Slice) (f : Word) : (sl.flag f).ready = sl.ready := rfl

/-! ### Slice.countPops -/

@[simp] theorem Slice.countPops_pc (sl : Slice) (qs : List Nat) : (sl.countPops qs).pc = sl.pc := rfl
@[simp] theorem Slice.countPops_regs (sl : Slice) (qs : List Nat) : (sl.countPops qs).regs = sl.regs := rfl
@[simp] theorem Slice.countPops_sp (sl : Slice) (qs : List Nat) : (sl.countPops qs).sp = sl.sp := rfl
@[simp] theorem Slice.countPops_fflags (sl : Slice) (qs : List Nat) : (sl.countPops qs).fflags = sl.fflags := rfl
@[simp] theorem Slice.countPops_circle (sl : Slice) (qs : List Nat) : (sl.countPops qs).circle = sl.circle := rfl
@[simp] theorem Slice.countPops_stepBit (sl : Slice) (qs : List Nat) : (sl.countPops qs).stepBit = sl.stepBit := rfl
@[simp] theorem Slice.countPops_run (sl : Slice) (qs : List Nat) : (sl.countPops qs).run = sl.run := rfl
@[simp] theorem Slice.countPops_stall (sl : Slice) (qs : List Nat) : (sl.countPops qs).stall = sl.stall := rfl
@[simp] theorem Slice.countPops_waits (sl : Slice) (qs : List Nat) : (sl.countPops qs).waits = sl.waits := rfl
@[simp] theorem Slice.countPops_blame (sl : Slice) (qs : List Nat) : (sl.countPops qs).blame = sl.blame := rfl
@[simp] theorem Slice.countPops_await (sl : Slice) (qs : List Nat) : (sl.countPops qs).await = sl.await := rfl
@[simp] theorem Slice.countPops_fetch (sl : Slice) (qs : List Nat) : (sl.countPops qs).fetch = sl.fetch := rfl
@[simp] theorem Slice.countPops_record (sl : Slice) (qs : List Nat) : (sl.countPops qs).record = sl.record := rfl
@[simp] theorem Slice.countPops_clockSample (sl : Slice) (qs : List Nat) : (sl.countPops qs).clockSample = sl.clockSample := rfl
@[simp] theorem Slice.countPops_skip (sl : Slice) (qs : List Nat) : (sl.countPops qs).skip = sl.skip := rfl
@[simp] theorem Slice.countPops_stack (sl : Slice) (qs : List Nat) : (sl.countPops qs).stack = sl.stack := rfl
@[simp] theorem Slice.countPops_arrived (sl : Slice) (qs : List Nat) : (sl.countPops qs).arrived = sl.arrived := rfl
@[simp] theorem Slice.countPops_pushed (sl : Slice) (qs : List Nat) : (sl.countPops qs).pushed = sl.pushed := rfl
@[simp] theorem Slice.countPops_watched (sl : Slice) (qs : List Nat) : (sl.countPops qs).watched = sl.watched := rfl
@[simp] theorem Slice.countPops_held (sl : Slice) (qs : List Nat) : (sl.countPops qs).held = sl.held := rfl
@[simp] theorem Slice.countPops_scatter (sl : Slice) (qs : List Nat) : (sl.countPops qs).scatter = sl.scatter := rfl
@[simp] theorem Slice.countPops_linv (sl : Slice) (qs : List Nat) : (sl.countPops qs).linv = sl.linv := rfl
@[simp] theorem Slice.countPops_backq (sl : Slice) (qs : List Nat) : (sl.countPops qs).backq = sl.backq := rfl
@[simp] theorem Slice.countPops_fabric (sl : Slice) (qs : List Nat) : (sl.countPops qs).fabric = sl.fabric := rfl
@[simp] theorem Slice.countPops_ready (sl : Slice) (qs : List Nat) : (sl.countPops qs).ready = sl.ready := rfl

/-! ### Slice.stopped -/

@[simp] theorem Slice.stopped_pc (sl : Slice) (r : TrapRecord) : (sl.stopped r).pc = sl.pc := rfl
@[simp] theorem Slice.stopped_regs (sl : Slice) (r : TrapRecord) : (sl.stopped r).regs = sl.regs := rfl
@[simp] theorem Slice.stopped_sp (sl : Slice) (r : TrapRecord) : (sl.stopped r).sp = sl.sp := rfl
@[simp] theorem Slice.stopped_fflags (sl : Slice) (r : TrapRecord) : (sl.stopped r).fflags = sl.fflags := rfl
@[simp] theorem Slice.stopped_circle (sl : Slice) (r : TrapRecord) : (sl.stopped r).circle = sl.circle := rfl
@[simp] theorem Slice.stopped_stepBit (sl : Slice) (r : TrapRecord) : (sl.stopped r).stepBit = sl.stepBit := rfl
@[simp] theorem Slice.stopped_blame (sl : Slice) (r : TrapRecord) : (sl.stopped r).blame = sl.blame := rfl
@[simp] theorem Slice.stopped_fetch (sl : Slice) (r : TrapRecord) : (sl.stopped r).fetch = sl.fetch := rfl
@[simp] theorem Slice.stopped_clockSample (sl : Slice) (r : TrapRecord) : (sl.stopped r).clockSample = sl.clockSample := rfl
@[simp] theorem Slice.stopped_stack (sl : Slice) (r : TrapRecord) : (sl.stopped r).stack = sl.stack := rfl
@[simp] theorem Slice.stopped_popped (sl : Slice) (r : TrapRecord) : (sl.stopped r).popped = sl.popped := rfl
@[simp] theorem Slice.stopped_pushed (sl : Slice) (r : TrapRecord) : (sl.stopped r).pushed = sl.pushed := rfl
@[simp] theorem Slice.stopped_poisonSeen (sl : Slice) (r : TrapRecord) : (sl.stopped r).poisonSeen = sl.poisonSeen := rfl
@[simp] theorem Slice.stopped_watched (sl : Slice) (r : TrapRecord) : (sl.stopped r).watched = sl.watched := rfl
@[simp] theorem Slice.stopped_held (sl : Slice) (r : TrapRecord) : (sl.stopped r).held = sl.held := rfl
@[simp] theorem Slice.stopped_backq (sl : Slice) (r : TrapRecord) : (sl.stopped r).backq = sl.backq := rfl
@[simp] theorem Slice.stopped_fabric (sl : Slice) (r : TrapRecord) : (sl.stopped r).fabric = sl.fabric := rfl
@[simp] theorem Slice.stopped_ready (sl : Slice) (r : TrapRecord) : (sl.stopped r).ready = sl.ready := rfl

/-! ### Team.putSlice -/

@[simp] theorem Team.putSlice_decl (tm : Team) (w : Option Nat) (sl : Slice) : (tm.putSlice w sl).decl = tm.decl := by cases w <;> rfl
@[simp] theorem Team.putSlice_launch (tm : Team) (w : Option Nat) (sl : Slice) : (tm.putSlice w sl).launch = tm.launch := by cases w <;> rfl
@[simp] theorem Team.putSlice_gang (tm : Team) (w : Option Nat) (sl : Slice) : (tm.putSlice w sl).gang = tm.gang := by cases w <;> rfl
@[simp] theorem Team.putSlice_gteam (tm : Team) (w : Option Nat) (sl : Slice) : (tm.putSlice w sl).gteam = tm.gteam := by cases w <;> rfl
@[simp] theorem Team.putSlice_world (tm : Team) (w : Option Nat) (sl : Slice) : (tm.putSlice w sl).world = tm.world := by cases w <;> rfl
@[simp] theorem Team.putSlice_level (tm : Team) (w : Option Nat) (sl : Slice) : (tm.putSlice w sl).level = tm.level := by cases w <;> rfl
@[simp] theorem Team.putSlice_labels (tm : Team) (w : Option Nat) (sl : Slice) : (tm.putSlice w sl).labels = tm.labels := by cases w <;> rfl
@[simp] theorem Team.putSlice_fqueues (tm : Team) (w : Option Nat) (sl : Slice) : (tm.putSlice w sl).fqueues = tm.fqueues := by cases w <;> rfl
@[simp] theorem Team.putSlice_bqueues (tm : Team) (w : Option Nat) (sl : Slice) : (tm.putSlice w sl).bqueues = tm.bqueues := by cases w <;> rfl
@[simp] theorem Team.putSlice_loads (tm : Team) (w : Option Nat) (sl : Slice) : (tm.putSlice w sl).loads = tm.loads := by cases w <;> rfl
@[simp] theorem Team.putSlice_bqWait0 (tm : Team) (w : Option Nat) (sl : Slice) : (tm.putSlice w sl).bqWait0 = tm.bqWait0 := by cases w <;> rfl
@[simp] theorem Team.putSlice_bqWait1 (tm : Team) (w : Option Nat) (sl : Slice) : (tm.putSlice w sl).bqWait1 = tm.bqWait1 := by cases w <;> rfl
@[simp] theorem Team.putSlice_bqCycles (tm : Team) (w : Option Nat) (sl : Slice) : (tm.putSlice w sl).bqCycles = tm.bqCycles := by cases w <;> rfl
@[simp] theorem Team.putSlice_fullCycles (tm : Team) (w : Option Nat) (sl : Slice) : (tm.putSlice w sl).fullCycles = tm.fullCycles := by cases w <;> rfl
@[simp] theorem Team.putSlice_emptyCycles (tm : Team) (w : Option Nat) (sl : Slice) : (tm.putSlice w sl).emptyCycles = tm.emptyCycles := by cases w <;> rfl
@[simp] theorem Team.putSlice_tiles (tm : Team) (w : Option Nat) (sl : Slice) : (tm.putSlice w sl).tiles = tm.tiles := by cases w <;> rfl
@[simp] theorem Team.putSlice_scratch (tm : Team) (w : Option Nat) (sl : Slice) : (tm.putSlice w sl).scratch = tm.scratch := by cases w <;> rfl
@[simp] theorem Team.putSlice_accs (tm : Team) (w : Option Nat) (sl : Slice) : (tm.putSlice w sl).accs = tm.accs := by cases w <;> rfl
@[simp] theorem Team.putSlice_bars (tm : Team) (w : Option Nat) (sl : Slice) : (tm.putSlice w sl).bars = tm.bars := by cases w <;> rfl
@[simp] theorem Team.putSlice_frozen (tm : Team) (w : Option Nat) (sl : Slice) : (tm.putSlice w sl).frozen = tm.frozen := by cases w <;> rfl
@[simp] theorem Team.putSlice_killed (tm : Team) (w : Option Nat) (sl : Slice) : (tm.putSlice w sl).killed = tm.killed := by cases w <;> rfl

/-! ### Team.modSlice -/

@[simp] theorem Team.modSlice_decl (tm : Team) (w : Option Nat) (f : Slice → Slice) : (tm.modSlice w f).decl = tm.decl := by unfold Team.modSlice; split <;> simp
@[simp] theorem Team.modSlice_launch (tm : Team) (w : Option Nat) (f : Slice → Slice) : (tm.modSlice w f).launch = tm.launch := by unfold Team.modSlice; split <;> simp
@[simp] theorem Team.modSlice_gang (tm : Team) (w : Option Nat) (f : Slice → Slice) : (tm.modSlice w f).gang = tm.gang := by unfold Team.modSlice; split <;> simp
@[simp] theorem Team.modSlice_gteam (tm : Team) (w : Option Nat) (f : Slice → Slice) : (tm.modSlice w f).gteam = tm.gteam := by unfold Team.modSlice; split <;> simp
@[simp] theorem Team.modSlice_world (tm : Team) (w : Option Nat) (f : Slice → Slice) : (tm.modSlice w f).world = tm.world := by unfold Team.modSlice; split <;> simp
@[simp] theorem Team.modSlice_level (tm : Team) (w : Option Nat) (f : Slice → Slice) : (tm.modSlice w f).level = tm.level := by unfold Team.modSlice; split <;> simp
@[simp] theorem Team.modSlice_labels (tm : Team) (w : Option Nat) (f : Slice → Slice) : (tm.modSlice w f).labels = tm.labels := by unfold Team.modSlice; split <;> simp
@[simp] theorem Team.modSlice_fqueues (tm : Team) (w : Option Nat) (f : Slice → Slice) : (tm.modSlice w f).fqueues = tm.fqueues := by unfold Team.modSlice; split <;> simp
@[simp] theorem Team.modSlice_bqueues (tm : Team) (w : Option Nat) (f : Slice → Slice) : (tm.modSlice w f).bqueues = tm.bqueues := by unfold Team.modSlice; split <;> simp
@[simp] theorem Team.modSlice_loads (tm : Team) (w : Option Nat) (f : Slice → Slice) : (tm.modSlice w f).loads = tm.loads := by unfold Team.modSlice; split <;> simp
@[simp] theorem Team.modSlice_bqWait0 (tm : Team) (w : Option Nat) (f : Slice → Slice) : (tm.modSlice w f).bqWait0 = tm.bqWait0 := by unfold Team.modSlice; split <;> simp
@[simp] theorem Team.modSlice_bqWait1 (tm : Team) (w : Option Nat) (f : Slice → Slice) : (tm.modSlice w f).bqWait1 = tm.bqWait1 := by unfold Team.modSlice; split <;> simp
@[simp] theorem Team.modSlice_bqCycles (tm : Team) (w : Option Nat) (f : Slice → Slice) : (tm.modSlice w f).bqCycles = tm.bqCycles := by unfold Team.modSlice; split <;> simp
@[simp] theorem Team.modSlice_fullCycles (tm : Team) (w : Option Nat) (f : Slice → Slice) : (tm.modSlice w f).fullCycles = tm.fullCycles := by unfold Team.modSlice; split <;> simp
@[simp] theorem Team.modSlice_emptyCycles (tm : Team) (w : Option Nat) (f : Slice → Slice) : (tm.modSlice w f).emptyCycles = tm.emptyCycles := by unfold Team.modSlice; split <;> simp
@[simp] theorem Team.modSlice_tiles (tm : Team) (w : Option Nat) (f : Slice → Slice) : (tm.modSlice w f).tiles = tm.tiles := by unfold Team.modSlice; split <;> simp
@[simp] theorem Team.modSlice_scratch (tm : Team) (w : Option Nat) (f : Slice → Slice) : (tm.modSlice w f).scratch = tm.scratch := by unfold Team.modSlice; split <;> simp
@[simp] theorem Team.modSlice_accs (tm : Team) (w : Option Nat) (f : Slice → Slice) : (tm.modSlice w f).accs = tm.accs := by unfold Team.modSlice; split <;> simp
@[simp] theorem Team.modSlice_bars (tm : Team) (w : Option Nat) (f : Slice → Slice) : (tm.modSlice w f).bars = tm.bars := by unfold Team.modSlice; split <;> simp
@[simp] theorem Team.modSlice_frozen (tm : Team) (w : Option Nat) (f : Slice → Slice) : (tm.modSlice w f).frozen = tm.frozen := by unfold Team.modSlice; split <;> simp
@[simp] theorem Team.modSlice_killed (tm : Team) (w : Option Nat) (f : Slice → Slice) : (tm.modSlice w f).killed = tm.killed := by unfold Team.modSlice; split <;> simp

/-! ### Team.retire -/

@[simp] theorem Team.retire_decl (tm : Team) : (tm.retire).decl = tm.decl := rfl
@[simp] theorem Team.retire_launch (tm : Team) : (tm.retire).launch = tm.launch := rfl
@[simp] theorem Team.retire_gang (tm : Team) : (tm.retire).gang = tm.gang := rfl
@[simp] theorem Team.retire_gteam (tm : Team) : (tm.retire).gteam = tm.gteam := rfl
@[simp] theorem Team.retire_world (tm : Team) : (tm.retire).world = tm.world := rfl
@[simp] theorem Team.retire_level (tm : Team) : (tm.retire).level = tm.level := rfl
@[simp] theorem Team.retire_labels (tm : Team) : (tm.retire).labels = tm.labels := rfl
@[simp] theorem Team.retire_addr (tm : Team) : (tm.retire).addr = tm.addr := rfl
@[simp] theorem Team.retire_strands (tm : Team) : (tm.retire).strands = tm.strands := rfl
@[simp] theorem Team.retire_bqueues (tm : Team) : (tm.retire).bqueues = tm.bqueues := rfl
@[simp] theorem Team.retire_loads (tm : Team) : (tm.retire).loads = tm.loads := rfl
@[simp] theorem Team.retire_bqWait0 (tm : Team) : (tm.retire).bqWait0 = tm.bqWait0 := rfl
@[simp] theorem Team.retire_bqWait1 (tm : Team) : (tm.retire).bqWait1 = tm.bqWait1 := rfl
@[simp] theorem Team.retire_bqCycles (tm : Team) : (tm.retire).bqCycles = tm.bqCycles := rfl
@[simp] theorem Team.retire_fullCycles (tm : Team) : (tm.retire).fullCycles = tm.fullCycles := rfl
@[simp] theorem Team.retire_emptyCycles (tm : Team) : (tm.retire).emptyCycles = tm.emptyCycles := rfl
@[simp] theorem Team.retire_tiles (tm : Team) : (tm.retire).tiles = tm.tiles := rfl
@[simp] theorem Team.retire_scratch (tm : Team) : (tm.retire).scratch = tm.scratch := rfl
@[simp] theorem Team.retire_accs (tm : Team) : (tm.retire).accs = tm.accs := rfl
@[simp] theorem Team.retire_bars (tm : Team) : (tm.retire).bars = tm.bars := rfl
@[simp] theorem Team.retire_frozen (tm : Team) : (tm.retire).frozen = tm.frozen := rfl
@[simp] theorem Team.retire_killed (tm : Team) : (tm.retire).killed = tm.killed := rfl

/-! ### Team.addForward -/

@[simp] theorem Team.addForward_decl (tm : Team) (q : Nat) (e : FEntry) : (tm.addForward q e).decl = tm.decl := rfl
@[simp] theorem Team.addForward_launch (tm : Team) (q : Nat) (e : FEntry) : (tm.addForward q e).launch = tm.launch := rfl
@[simp] theorem Team.addForward_gang (tm : Team) (q : Nat) (e : FEntry) : (tm.addForward q e).gang = tm.gang := rfl
@[simp] theorem Team.addForward_gteam (tm : Team) (q : Nat) (e : FEntry) : (tm.addForward q e).gteam = tm.gteam := rfl
@[simp] theorem Team.addForward_world (tm : Team) (q : Nat) (e : FEntry) : (tm.addForward q e).world = tm.world := rfl
@[simp] theorem Team.addForward_level (tm : Team) (q : Nat) (e : FEntry) : (tm.addForward q e).level = tm.level := rfl
@[simp] theorem Team.addForward_labels (tm : Team) (q : Nat) (e : FEntry) : (tm.addForward q e).labels = tm.labels := rfl
@[simp] theorem Team.addForward_addr (tm : Team) (q : Nat) (e : FEntry) : (tm.addForward q e).addr = tm.addr := rfl
@[simp] theorem Team.addForward_strands (tm : Team) (q : Nat) (e : FEntry) : (tm.addForward q e).strands = tm.strands := rfl
@[simp] theorem Team.addForward_bqueues (tm : Team) (q : Nat) (e : FEntry) : (tm.addForward q e).bqueues = tm.bqueues := rfl
@[simp] theorem Team.addForward_loads (tm : Team) (q : Nat) (e : FEntry) : (tm.addForward q e).loads = tm.loads := rfl
@[simp] theorem Team.addForward_bqWait0 (tm : Team) (q : Nat) (e : FEntry) : (tm.addForward q e).bqWait0 = tm.bqWait0 := rfl
@[simp] theorem Team.addForward_bqWait1 (tm : Team) (q : Nat) (e : FEntry) : (tm.addForward q e).bqWait1 = tm.bqWait1 := rfl
@[simp] theorem Team.addForward_bqCycles (tm : Team) (q : Nat) (e : FEntry) : (tm.addForward q e).bqCycles = tm.bqCycles := rfl
@[simp] theorem Team.addForward_fullCycles (tm : Team) (q : Nat) (e : FEntry) : (tm.addForward q e).fullCycles = tm.fullCycles := rfl
@[simp] theorem Team.addForward_emptyCycles (tm : Team) (q : Nat) (e : FEntry) : (tm.addForward q e).emptyCycles = tm.emptyCycles := rfl
@[simp] theorem Team.addForward_tiles (tm : Team) (q : Nat) (e : FEntry) : (tm.addForward q e).tiles = tm.tiles := rfl
@[simp] theorem Team.addForward_scratch (tm : Team) (q : Nat) (e : FEntry) : (tm.addForward q e).scratch = tm.scratch := rfl
@[simp] theorem Team.addForward_accs (tm : Team) (q : Nat) (e : FEntry) : (tm.addForward q e).accs = tm.accs := rfl
@[simp] theorem Team.addForward_bars (tm : Team) (q : Nat) (e : FEntry) : (tm.addForward q e).bars = tm.bars := rfl
@[simp] theorem Team.addForward_frozen (tm : Team) (q : Nat) (e : FEntry) : (tm.addForward q e).frozen = tm.frozen := rfl
@[simp] theorem Team.addForward_killed (tm : Team) (q : Nat) (e : FEntry) : (tm.addForward q e).killed = tm.killed := rfl

/-! ### Team.popBack -/

@[simp] theorem Team.popBack_decl (tm : Team) (b : Nat) : (tm.popBack b).decl = tm.decl := rfl
@[simp] theorem Team.popBack_launch (tm : Team) (b : Nat) : (tm.popBack b).launch = tm.launch := rfl
@[simp] theorem Team.popBack_gang (tm : Team) (b : Nat) : (tm.popBack b).gang = tm.gang := rfl
@[simp] theorem Team.popBack_gteam (tm : Team) (b : Nat) : (tm.popBack b).gteam = tm.gteam := rfl
@[simp] theorem Team.popBack_world (tm : Team) (b : Nat) : (tm.popBack b).world = tm.world := rfl
@[simp] theorem Team.popBack_level (tm : Team) (b : Nat) : (tm.popBack b).level = tm.level := rfl
@[simp] theorem Team.popBack_labels (tm : Team) (b : Nat) : (tm.popBack b).labels = tm.labels := rfl
@[simp] theorem Team.popBack_addr (tm : Team) (b : Nat) : (tm.popBack b).addr = tm.addr := rfl
@[simp] theorem Team.popBack_strands (tm : Team) (b : Nat) : (tm.popBack b).strands = tm.strands := rfl
@[simp] theorem Team.popBack_fqueues (tm : Team) (b : Nat) : (tm.popBack b).fqueues = tm.fqueues := rfl
@[simp] theorem Team.popBack_loads (tm : Team) (b : Nat) : (tm.popBack b).loads = tm.loads := rfl
@[simp] theorem Team.popBack_bqWait0 (tm : Team) (b : Nat) : (tm.popBack b).bqWait0 = tm.bqWait0 := rfl
@[simp] theorem Team.popBack_bqWait1 (tm : Team) (b : Nat) : (tm.popBack b).bqWait1 = tm.bqWait1 := rfl
@[simp] theorem Team.popBack_bqCycles (tm : Team) (b : Nat) : (tm.popBack b).bqCycles = tm.bqCycles := rfl
@[simp] theorem Team.popBack_fullCycles (tm : Team) (b : Nat) : (tm.popBack b).fullCycles = tm.fullCycles := rfl
@[simp] theorem Team.popBack_emptyCycles (tm : Team) (b : Nat) : (tm.popBack b).emptyCycles = tm.emptyCycles := rfl
@[simp] theorem Team.popBack_tiles (tm : Team) (b : Nat) : (tm.popBack b).tiles = tm.tiles := rfl
@[simp] theorem Team.popBack_scratch (tm : Team) (b : Nat) : (tm.popBack b).scratch = tm.scratch := rfl
@[simp] theorem Team.popBack_accs (tm : Team) (b : Nat) : (tm.popBack b).accs = tm.accs := rfl
@[simp] theorem Team.popBack_bars (tm : Team) (b : Nat) : (tm.popBack b).bars = tm.bars := rfl
@[simp] theorem Team.popBack_frozen (tm : Team) (b : Nat) : (tm.popBack b).frozen = tm.frozen := rfl
@[simp] theorem Team.popBack_killed (tm : Team) (b : Nat) : (tm.popBack b).killed = tm.killed := rfl

end Sys2Proof.Machine
end

