-- ==== Sys2Proof/Laws/Slices.lean ====
section
/-! SUPPORT. Cores, teams and slices after they have been replaced, and what the shared operations do where the slice stands. -/

namespace Sys2Proof.Machine

/-! ### Cores and teams -/

/-- A core replaced is the new one; the others are as before. -/
theorem core_putCore (s : State) (c c' : Nat) (k : Core) : core (putCore s c k) c' = if c' = c then k else core s c' := by
  unfold core putCore Table.getD
  rw [Table.get_put]
  split <;> rfl

/-- A core replaced is the new one. -/
@[simp] theorem core_putCore_self (s : State) (c : Nat) (k : Core) : core (putCore s c k) c = k := by simp [core_putCore]

/-- A core replaced twice is the later one. -/
@[simp] theorem putCore_putCore_self (s : State) (c : Nat) (k k' : Core) : putCore (putCore s c k) c k' = putCore s c k' := by
  simp [putCore]

/-- A core changed is the changed one; the others are as before. -/
theorem core_modCore (s : State) (c c' : Nat) (f : Core → Core) : core (modCore s c f) c' = if c' = c then f (core s c) else core s c' :=
  core_putCore s c c' _

/-- A team replaced is the new one; the others are as before. -/
theorem teamAt_putTeam (s : State) (t t' : TeamId) (tm : Team) :
    teamAt (putTeam s t tm) t' = if t' = t then some tm else teamAt s t' := by
  obtain ⟨c, n⟩ := t
  obtain ⟨c', n'⟩ := t'
  unfold teamAt putTeam
  rw [core_modCore]
  by_cases hc : c' = c
  · subst hc
    by_cases hn : n' = n
    · subst hn; simp
    · simp [hn, Table.get_put_ne]
  · simp [hc]

/-- A team replaced is the new one. -/
@[simp] theorem teamAt_putTeam_self (s : State) (t : TeamId) (tm : Team) : teamAt (putTeam s t tm) t = some tm := by
  simp [teamAt_putTeam]

/-- A team replaced twice is the later one. -/
@[simp] theorem putTeam_putTeam_self (s : State) (t : TeamId) (tm tm' : Team) : putTeam (putTeam s t tm) t tm' = putTeam s t tm' := by
  simp [putTeam, modCore]

/-- The team of a slice that stands in an active bank. -/
theorem teamAt_of_sliceAt {s : State} {id : SliceId} {tm : Team} {sl : Slice} (h : sliceAt s id = some (tm, sl)) :
    teamAt s (teamIdOf id) = some tm ∧ tm.slice id.strand = some sl := by
  unfold sliceAt at h
  cases ht : teamAt s (teamIdOf id) with
  | none => rw [ht] at h; cases h
  | some x =>
    rw [ht] at h
    cases hs : x.slice id.strand with
    | none => simp [hs] at h
    | some y => simp only [hs, Option.map_some, Option.some.injEq, Prod.mk.injEq] at h; obtain ⟨rfl, rfl⟩ := h; exact ⟨rfl, hs⟩

/-- A team changed where one stands. -/
theorem modTeam_of_teamAt {s : State} {t : TeamId} {tm : Team} (h : teamAt s t = some tm) (f : Team → Team) :
    modTeam s t f = putTeam s t (f tm) := by
  unfold modTeam; rw [h]

/-! ### Slices -/

/-- A slice replaced in its team is the new one. -/
theorem Team.slice_putSlice_self {tm : Team} {w : Option Nat} {old : Slice} (h : tm.slice w = some old) (sl : Slice) :
    (tm.putSlice w sl).slice w = some sl := by
  cases w with
  | none => rfl
  | some i =>
    unfold Team.slice at h
    have hi : i < tm.strands.length := by
      by_contra hn
      have e : tm.strands[i]? = none := List.getElem?_eq_none (by omega)
      dsimp only at h
      rw [e] at h
      cases h
    simp [Team.putSlice, Team.slice, hi]

/-- Another slice of the team is as before. -/
theorem Team.slice_putSlice_ne (tm : Team) {w w' : Option Nat} (h : w' ≠ w) (sl : Slice) : (tm.putSlice w sl).slice w' = tm.slice w' := by
  cases w with
  | none =>
    cases w' with
    | none => exact absurd rfl h
    | some j => rfl
  | some i =>
    cases w' with
    | none => rfl
    | some j =>
      have : j ≠ i := fun e => h (by rw [e])
      simp [Team.putSlice, Team.slice, Ne.symm this]

/-- A slice replaced twice in its team is the later one. -/
@[simp] theorem Team.putSlice_putSlice_self (tm : Team) (w : Option Nat) (sl sl' : Slice) :
    (tm.putSlice w sl).putSlice w sl' = tm.putSlice w sl' := by
  cases w with
  | none => rfl
  | some i => simp [Team.putSlice]

/-- A slice replaced stands there, with the team it was put into. -/
theorem sliceAt_putSlice_self {s : State} {id : SliceId} {tm : Team} {old : Slice} (h : tm.slice id.strand = some old) (sl : Slice) :
    sliceAt (putSlice s id tm sl) id = some (tm.putSlice id.strand sl, sl) := by
  unfold sliceAt putSlice
  rw [teamAt_putTeam_self]
  simp [Team.slice_putSlice_self h]

/-- A slice replaced twice is the later one. -/
@[simp] theorem putSlice_putSlice_self (s : State) (id : SliceId) (tm : Team) (sl sl' : Slice) :
    putSlice (putSlice s id tm sl) id (tm.putSlice id.strand sl) sl' = putSlice s id tm sl' := by
  simp [putSlice]

/-- A slice changed where one stands. -/
theorem modSlice_of_sliceAt {s : State} {id : SliceId} {tm : Team} {sl : Slice} (h : sliceAt s id = some (tm, sl)) (f : Slice → Slice) :
    modSlice s id f = putSlice s id tm (f sl) := by
  unfold modSlice; rw [h]

/-- The changed slice stands there. -/
theorem sliceAt_modSlice_self {s : State} {id : SliceId} {tm : Team} {sl : Slice} (h : sliceAt s id = some (tm, sl)) (f : Slice → Slice) :
    sliceAt (modSlice s id f) id = some (tm.putSlice id.strand (f sl), f sl) := by
  rw [modSlice_of_sliceAt h]
  exact sliceAt_putSlice_self (teamAt_of_sliceAt h).2 _

/-- A slice of another team slot is as before. -/
theorem sliceAt_putSlice_other (s : State) (id id' : SliceId) (tm : Team) (sl : Slice) (h : teamIdOf id' ≠ teamIdOf id) :
    sliceAt (putSlice s id tm sl) id' = sliceAt s id' := by
  unfold sliceAt putSlice
  rw [teamAt_putTeam, if_neg h]

/-- No slice stands there: nothing is changed. -/
theorem modSlice_of_none {s : State} {id : SliceId} (h : sliceAt s id = none) (f : Slice → Slice) : modSlice s id f = s := by
  unfold modSlice; rw [h]

/-! ### Shared operations where the slice stands -/

/-- Taking a trap (R100, R101): the slice is stopped with its record and one record waits, nothing else. -/
theorem trapSlice_of_sliceAt {s : State} {id : SliceId} {tm : Team} {sl : Slice} (h : sliceAt s id = some (tm, sl)) (t : TrapInfo) :
    trapSlice s id t = { putSlice s id tm (sl.stopped (trapRecord s id tm sl t)) with
      waiting := s.waiting ++ [⟨recordQueue s tm.launch t.cause.cls, (trapRecord s id tm sl t).words, .slice (tm.name id.strand), false⟩] } := by
  unfold trapSlice; rw [h]; rfl

/-- Completing with the step bit clear (R29): the slice goes on at `next`, and nothing outside it changes. -/
theorem complete_of_sliceAt {s : State} {id : SliceId} {tm : Team} {sl : Slice} (h : sliceAt s id = some (tm, sl)) (hb : sl.stepBit = false)
    (next : Word) : complete s id next = putSlice s id tm
      { sl with pc := next, stall := none, await := none, skip := false, arrived := none, waits := none, scatter := [], linv := 0 } := by
  unfold complete; rw [h]; simp [hb]

/-- An instruction with no pops commits none. -/
@[simp] theorem commitAt_nil (s : State) (id : SliceId) : commitAt s id [] = s := by
  unfold commitAt; split <;> simp [commitPops]

/-- No flag set changes nothing. -/
@[simp] theorem setFlags_zero (s : State) (id : SliceId) : setFlags s id 0 = s := by simp [setFlags]

/-- Flags set where the slice stands. -/
theorem setFlags_of_sliceAt {s : State} {id : SliceId} {tm : Team} {sl : Slice} (h : sliceAt s id = some (tm, sl)) (fl : Word) :
    setFlags s id fl = putSlice s id tm (sl.flag fl) ∨ (fl = 0 ∧ setFlags s id fl = s) := by
  by_cases hf : fl = 0
  · exact .inr ⟨hf, by rw [hf, setFlags_zero]⟩
  · left; unfold setFlags; rw [if_neg hf, modSlice_of_sliceAt h]

/-- A result for code 126 is discarded (R25). -/
@[simp] theorem writeDst_zero (s : State) (id : SliceId) (w : Width) (v : DWord) : writeDst s id .zero w v = s := rfl

/-- An instruction executed by a slice that stands there. -/
theorem runOwn_of_gather {f : Form} {s : State} {own : Team → Slice → Except Stop Unit} {k : Team → Slice → Vals → State}
    {tm : Team} {sl : Slice} {v : Vals} (h : sliceAt s s.cur = some (tm, sl)) (hg : gather s s.cur.strand tm sl f (own tm sl) = .ok v) :
    runOwn f s own k = .next (k tm sl v) := by
  unfold runOwn; rw [h]; simp [hg]

/-- An instruction that the gathering stops. -/
theorem runOwn_of_stop {f : Form} {s : State} {own : Team → Slice → Except Stop Unit} {k : Team → Slice → Vals → State}
    {tm : Team} {sl : Slice} {st : Stop} (h : sliceAt s s.cur = some (tm, sl)) (hg : gather s s.cur.strand tm sl f (own tm sl) = .error st) :
    runOwn f s own k = .next (stopAt s s.cur f st) := by
  unfold runOwn; rw [h]; simp [hg]

/-- A meaning that stops names no slice at `cur`; every other case goes on. -/
theorem runOwn_cases (f : Form) (s : State) (own : Team → Slice → Except Stop Unit) (k : Team → Slice → Vals → State) :
    (sliceAt s s.cur = none ∧ runOwn f s own k = .fault .noSlice) ∨ (∃ tm sl, sliceAt s s.cur = some (tm, sl) ∧
      ((∃ st, gather s s.cur.strand tm sl f (own tm sl) = .error st ∧ runOwn f s own k = .next (stopAt s s.cur f st)) ∨
       (∃ v, gather s s.cur.strand tm sl f (own tm sl) = .ok v ∧ runOwn f s own k = .next (k tm sl v)))) := by
  unfold runOwn
  cases h : sliceAt s s.cur with
  | none => exact .inl ⟨rfl, rfl⟩
  | some x =>
    obtain ⟨tm, sl⟩ := x
    refine .inr ⟨tm, sl, rfl, ?_⟩
    dsimp only
    cases hg : gather s s.cur.strand tm sl f (own tm sl) with
    | error st => exact .inl ⟨st, rfl, rfl⟩
    | ok v => exact .inr ⟨v, rfl, rfl⟩

end Sys2Proof.Machine
end

