-- ==== Sys2Proof/Tests/Slice0.lean ====
section
/-! SUPPORT. Tests on fixed values: one word of each family decoded, a term that each check of WellFormed refuses, single steps, and a
witness for the hypotheses of each statement. Expected values are worked out from the rules that the comments name. -/

open Sys2Proof Sys2Proof.Machine

namespace Sys2Proof.Tests

set_option Elab.async false

/-! ### A small state -/

/-- A team of two strands with every kind of queue, one tile of 24 chunks, one accumulator and a barrier of one arrival. -/
def decl : TeamDecl :=
  { fetchDecl with
    strands := 2, accs := 1
    queues := [⟨.lane, .first, false, 2⟩, ⟨.uniform, .first, false, 1⟩] ++ List.replicate 6 ⟨.undeclared, .first, false, 0⟩ ++
      [⟨.uniform, .sum, false, 1⟩, ⟨.lane, .first, false, 1⟩]
    tiles := 24 :: List.replicate 63 0, bars := (1, 0) :: List.replicate 15 (0, 0) }

/-- A label entry that is VALID and REMOTE with every permission and a limit of 4,096 bytes (R338). -/
def entry (action limit d1 : Nat) : List DWord :=
  [BitVec.ofNat 64 (2 ^ 63 + action * 2 ^ 61 + 63 * 2 ^ 55 + 2 ^ 52 + limit * 2 ^ 16), BitVec.ofNat 64 d1]

/-- Doublewords stored in a memory. -/
def store (pa : Nat) (ds : List DWord) (m : Memory) : Memory := Memory.writeBytes m pa (bytesOfDWords ds)

/-- World descriptor 0 at 0 (D table of 16 at 0x1000, 16 weight chunks), and the tables: C 1 POP at 0x3010; D 1 POP and 2 DELIVER into the
weight store; P 2 DELIVER of the C table, 3 of main memory at 0x4000, 4 SWAP to package 5 with label 7, 5 DELIVER of host memory. -/
def tables : Memory :=
  store 0 [0x1001, 16, 0x100000] <| store 0x1010 (entry 0 0 0) <| store 0x1020 (entry 2 64 0) <| store 0x2020 (entry 2 64 (0xC0 * 2 ^ 22)) <|
  store 0x2030 (entry 2 64 (0x100 * 2 ^ 22)) <| store 0x2040 (entry 1 0 (7 * 2 ^ 48 + 5 * 2 ^ 22)) <|
  store 0x2050 (entry 2 64 (2 ^ 41 * 2 ^ 22)) <| store 0x3010 (entry 0 0 0) []

/-- The label words of main memory, the weight store, package 5 and host memory. -/
def lwMain : DWord := 0x0001000100030000
def lwWeight : DWord := 0x0001000200000000
def lwFabric : DWord := 0x0001000100040000
def lwHost : DWord := 0x0001000100050000

/-- The launch of the small state. -/
def launch : Launch :=
  { fetchLaunch [] with
    decls := [decl], words := [0, 0, 0, 0, 0, 0, 0x0001000200000000, BitVec.ofNat 64 (16 * 2 ^ 48)] ++ List.replicate 24 0 }

/-- A READY package with that team on core 0, and strand 0 or the address slice to issue; its label registers name the four regions. -/
def small (team : Bool) : State :=
  let s := placeProgram State.reset team []
  putTeam
    { s with
      launches := [launch], mem := tables, keys := [(0, 1)], regs := { s.regs with ptBase := 0x2000, ptCount := 16 } }
    ⟨0, 0⟩ { newTeam s launch 0 0 decl with labels := [lwMain, lwWeight, lwFabric, lwHost, 0xFF10 * 2 ^ 48, 0xFF11 * 2 ^ 48, 0xFF00 * 2 ^ 48, 0] }

/-- The small state with the current slice changed. -/
def slice (team : Bool) (f : Slice → Slice) : State := modSlice (small team) (small team).cur f

/-- The small state with the first registers of the current slice set. -/
def regs (team : Bool) (ws : List Word) : State := slice team fun sl => { sl with regs := ws ++ sl.regs.drop ws.length }

/-- What holds of the current slice, its team and the operands that it gathers. -/
def gathered (s : State) (f : Form) (p : Team → Slice → Vals → Bool) : Bool :=
  match sliceAt s s.cur with
  | none => false
  | some (tm, sl) =>
    match gather s s.cur.strand tm sl f (.ok ()) with
    | .error _ => false
    | .ok v => p tm sl v

/-- A slice that gathers, with what holds of it. -/
theorem gathers_with {s : State} {f : Form} {P : Team → Slice → Vals → Prop} [∀ tm sl v, Decidable (P tm sl v)]
    (h : gathered s f (fun tm sl v => decide (P tm sl v)) = true) : ∃ tm sl v, Gathers s f (.ok ()) tm sl v ∧ P tm sl v := by
  unfold gathered at h
  split at h
  · cases h
  · rename_i tm sl hs
    split at h
    · cases h
    · rename_i v hg
      exact ⟨tm, sl, v, ⟨hs, hg⟩, of_decide_eq_true h⟩

/-- What holds of the slice that stands at a place and its team. -/
def standing (s : State) (id : SliceId) (p : Team → Slice → Bool) : Bool :=
  match sliceAt s id with
  | none => false
  | some (tm, sl) => p tm sl

/-- A slice that stands at a place, with what holds of it. -/
theorem stands_with {s : State} {id : SliceId} {P : Team → Slice → Prop} [∀ tm sl, Decidable (P tm sl)]
    (h : standing s id (fun tm sl => decide (P tm sl)) = true) : ∃ tm sl, sliceAt s id = some (tm, sl) ∧ P tm sl := by
  unfold standing at h
  split at h
  · cases h
  · rename_i tm sl hs
    exact ⟨tm, sl, hs, of_decide_eq_true h⟩

/-- What the state after an instruction holds; false where it stops. -/
def after (o : Host.Outcome State Fault Refusal) (p : State → Bool) : Bool :=
  match o with
  | .next t => p t
  | .fault _ | .refused _ => false

/-- What a slice of the state after an instruction holds. -/
def afterSlice (o : Host.Outcome State Fault Refusal) (id : SliceId) (p : Slice → Bool) : Bool :=
  after o fun t => standing t id fun _ sl => p sl

/-- A register of the current slice after an instruction. -/
def regAfter (i : Instr) (s : State) (n : Nat) : Option Word :=
  match exec i s with
  | .next t => (sliceAt t s.cur).bind fun p => p.2.regs[n]?
  | .fault _ | .refused _ => none
/-! ### One word of every instruction, written from the opcode map (R22 to R25, R28, R31, R43 to R54) -/

/-- Each list of words decodes, in a set, to the instruction beside it. -/
def decodes (team : Bool) (xs : List (List Word × Instr)) : Bool := xs.all fun p => decode p.2.isTeam p.1 == .ok p.2 && p.2.isTeam == team

/-- The words of the lane set's opcodes 0x00 to 0x0F. -/
theorem test_words_lane_0 : decodes false
    [ ([0b0_0000000_0000010_0000100_0000110_010], .iadd (.reg 2) (.reg 4) (.reg 6) .us),
      ([0b0_0000001_0000010_1111100_0000110_010, 5], .isub (.reg 2) (.lit 5) (.reg 6) .us),
      ([0b0_0000010_0000010_0000100_0000110_000], .imul (.reg 2) (.reg 4) (.reg 6)),
      ([0b0_0000011_0000010_0000100_1111100_001, 0xFFFFFFF0], .imulh (.reg 2) (.reg 4) (.lit 0xFFFFFFF0) .u),
      ([0b0_0000100_0000010_0000100_0000110_000], .imad (.reg 2) (.reg 4) (.reg 6)),
      ([0b0_0000101_0000010_1111100_0000110_001, 5], .idiv (.reg 2) (.lit 5) (.reg 6) .u),
      ([0b0_0000110_0000010_0000100_0000110_001], .irem (.reg 2) (.reg 4) (.reg 6) .u),
      ([0b0_0000111_0000010_0000100_1111100_001, 0xFFFFFFF0], .imin (.reg 2) (.reg 4) (.lit 0xFFFFFFF0) .u),
      ([0b0_0001000_0000010_0000100_0000110_001], .imax (.reg 2) (.reg 4) (.reg 6) .u),
      ([0b0_0001001_0000010_1111100_1111110_000, 5], .iabs (.reg 2) (.lit 5)),
      ([0b0_0001010_0000010_0000100_0000110_000], .dadd (.reg 2) (.reg 4) (.reg 6)),
      ([0b0_0001011_0000010_0000100_1111100_000, 0xFFFFFFF0], .dsub (.reg 2) (.reg 4) (.lit 0xFFFFFFF0)),
      ([0b0_0001100_0000010_0000100_0000110_000], .dmul (.reg 2) (.reg 4) (.reg 6)),
      ([0b0_0001101_0000010_1111100_1111110_000, 5], .dneg (.reg 2) (.lit 5)),
      ([0b0_0001110_0000010_0000100_0000110_000], .and (.reg 2) (.reg 4) (.reg 6)),
      ([0b0_0001111_0000010_0000100_1111100_000, 0xFFFFFFF0], .or (.reg 2) (.reg 4) (.lit 0xFFFFFFF0)) ] = true := by
  decide +kernel

/-- The words of the lane set's opcodes 0x10 to 0x1F. -/
theorem test_words_lane_1 : decodes false
    [ ([0b0_0010000_0000010_0000100_0000110_000], .xor (.reg 2) (.reg 4) (.reg 6)),
      ([0b0_0010001_0000010_1111100_0000110_000, 5], .andn (.reg 2) (.lit 5) (.reg 6)),
      ([0b0_0010010_0000010_0000100_1111110_000], .not (.reg 2) (.reg 4)),
      ([0b0_0010011_0000010_0000100_1111100_000, 0xFFFFFFF0], .shl (.reg 2) (.reg 4) (.lit 0xFFFFFFF0)),
      ([0b0_0010100_0000010_0000100_0000110_000], .shr (.reg 2) (.reg 4) (.reg 6)),
      ([0b0_0010101_0000010_1111100_0000110_000, 5], .sar (.reg 2) (.lit 5) (.reg 6)),
      ([0b0_0010110_0000010_0000100_0000110_000], .rol (.reg 2) (.reg 4) (.reg 6)),
      ([0b0_0010111_0000010_0000100_1111100_000, 0xFFFFFFF0], .ror (.reg 2) (.reg 4) (.lit 0xFFFFFFF0)),
      ([0b0_0011000_0000010_0000100_0000110_001], .bfx (.reg 2) (.reg 4) (.reg 6) .u),
      ([0b0_0011001_0000010_1111100_0000110_000, 5], .bfi (.reg 2) (.lit 5) (.reg 6)),
      ([0b0_0011010_0000010_0000100_1111110_000], .popc (.reg 2) (.reg 4)),
      ([0b0_0011011_0000010_0000100_1111110_000], .clz (.reg 2) (.reg 4)),
      ([0b0_0011100_0000010_0000100_1111110_000], .ctz (.reg 2) (.reg 4)),
      ([0b0_0011101_0000010_1111100_1111110_000, 5], .brev (.reg 2) (.lit 5)),
      ([0b0_0011110_0000010_0000100_0000110_000], .dshl (.reg 2) (.reg 4) (.reg 6)),
      ([0b0_0011111_0000010_0000100_1111100_001, 0xFFFFFFF0], .dshr (.reg 2) (.reg 4) (.lit 0xFFFFFFF0) .u) ] = true := by
  decide +kernel

/-- The words of the lane set's opcodes 0x20 to 0x2F. -/
theorem test_words_lane_2 : decodes false
    [ ([0b0_0100000_0000010_0000100_0000110_101], .icmp (.reg 2) (.reg 4) (.reg 6) .geu),
      ([0b0_0100001_0000010_1111100_0000110_101, 5], .dcmp (.reg 2) (.lit 5) (.reg 6) .geu),
      ([0b0_0100010_0000010_0000100_0000110_000], .sel (.reg 2) (.reg 4) (.reg 6)),
      ([0b0_0100011_0000010_0000100_1111110_000], .mov (.reg 2) (.reg 4)),
      ([0b0_0100100_0000010_0000100_1111110_000], .dmov (.reg 2) (.reg 4)),
      ([0b0_0100101_0000010_11111111111011010], .sread (.reg 2) 0x1ffda),
      ([0b0_0100110_0000100_11111111111011001], .swrite (.reg 4) 0x1ffd9),
      ([0b0_0100111_0000010_0000100_1111110_111], .cvtif (.reg 2) (.reg 4) .urdn),
      ([0b0_0101000_0000010_0000100_1111110_111], .cvtfi (.reg 2) (.reg 4) .urdn),
      ([0b0_0101001_0000010_1111100_1111110_111, 5], .cvtdf (.reg 2) (.lit 5) .urdn),
      ([0b0_0101010_0000010_0000100_1111110_111], .cvtfd (.reg 2) (.reg 4) .urdn),
      ([0b0_0101011_0000010_0000100_1111110_011], .ext (.reg 2) (.reg 4) .zh),
      ([0b0_0101100_0000010_0000100_1111110_001], .dext (.reg 2) (.reg 4) .u),
      ([0b0_0101101_0000010_11111111111010010], .ldi (.reg 2) 0x1ffd2),
      ([0b0_0101110_0000010_0000100_1111110_000], .alwr (.reg 2) (.reg 4)) ] = true := by
  decide +kernel

/-- The words of the lane set's opcodes 0x30 to 0x3F. -/
theorem test_words_lane_3 : decodes false
    [ ([0b0_0110000_1111110_11111111111001111], .bra 0x1ffcf),
      ([0b0_0110001_0000100_11111111111001110], .bnz (.reg 4) 0x1ffce),
      ([0b0_0110010_0000100_11111111111001101], .bz (.reg 4) 0x1ffcd),
      ([0b0_0110011_1111110_11111111111001100], .call 0x1ffcc),
      ([0b0_0110100_1111110_0000100_1111110_000], .callr (.reg 4)),
      ([0b0_0110101_1111110_1111100_1111110_000, 5], .jmpr (.lit 5)),
      ([0b0_0110110_1111110_1111110_1111110_000], .ret),
      ([0b0_0110111_1111110_1111110_1111110_000], .exit),
      ([0b0_0111000_1111110_11111111111000111], .trap 0x1ffc7),
      ([0b0_0111001_1111110_11111111111000110], .bkpt 0x1ffc6),
      ([0b0_0111010_1111110_1111110_1111110_000], .yield),
      ([0b0_0111011_1111110_1111110_1111110_000], .nop),
      ([0b0_0111100_0000100_11111111111000011], .balw (.reg 4) 0x1ffc3) ] = true := by
  decide +kernel

/-- The words of the lane set's opcodes 0x40 to 0x4F. -/
theorem test_words_lane_4 : decodes false
    [ ([0b0_1000000_0000010_0000100_0000110_011], .fadd (.reg 2) (.reg 4) (.reg 6) .rdn),
      ([0b0_1000001_0000010_1111100_0000110_011, 5], .fsub (.reg 2) (.lit 5) (.reg 6) .rdn),
      ([0b0_1000010_0000010_0000100_0000110_011], .fmul (.reg 2) (.reg 4) (.reg 6) .rdn),
      ([0b0_1000011_0000010_0000100_1111100_000, 0xFFFFFFF0], .fmin (.reg 2) (.reg 4) (.lit 0xFFFFFFF0)),
      ([0b0_1000100_0000010_0000100_0000110_000], .fmax (.reg 2) (.reg 4) (.reg 6)),
      ([0b0_1000101_0000010_1111100_1111110_000, 5], .fabs (.reg 2) (.lit 5)),
      ([0b0_1000110_0000010_0000100_0000110_011], .fmac (.reg 2) (.reg 4) (.reg 6) .rdn),
      ([0b0_1000111_0000010_0000100_1111100_011, 0xFFFFFFF0], .fnmac (.reg 2) (.reg 4) (.lit 0xFFFFFFF0) .rdn),
      ([0b0_1001000_0000010_0000100_0000110_011], .fdiv (.reg 2) (.reg 4) (.reg 6) .rdn),
      ([0b0_1001001_0000010_1111100_1111110_011, 5], .fsqrt (.reg 2) (.lit 5) .rdn),
      ([0b0_1001010_0000010_0000100_1111110_000], .frcp (.reg 2) (.reg 4)),
      ([0b0_1001011_0000010_0000100_1111110_000], .frsq (.reg 2) (.reg 4)),
      ([0b0_1001100_0000010_0000100_1111110_000], .fexp2 (.reg 2) (.reg 4)),
      ([0b0_1001101_0000010_1111100_1111110_000, 5], .flog2 (.reg 2) (.lit 5)),
      ([0b0_1001110_0000010_0000100_1111110_000], .fneg (.reg 2) (.reg 4)),
      ([0b0_1001111_0000010_0000100_1111100_111, 0xFFFFFFF0], .fcmp (.reg 2) (.reg 4) (.lit 0xFFFFFFF0) .or) ] = true := by
  decide +kernel

/-- The words of the lane set's opcodes 0x50 to 0x5F. -/
theorem test_words_lane_5 : decodes false
    [ ([0b0_1010000_0000010_0000100_1111110_000], .fclass (.reg 2) (.reg 4)),
      ([0b0_1010001_0000010_1111100_1111110_011, 5], .frnd (.reg 2) (.lit 5) .rdn),
      ([0b0_1010010_0000010_0000100_1111110_001], .cvtbf (.reg 2) (.reg 4) .sat),
      ([0b0_1010011_0000010_0000100_1111110_000], .cvtfb (.reg 2) (.reg 4)),
      ([0b0_1010100_0000010_0000100_1111110_001], .cvte4 (.reg 2) (.reg 4) .sat),
      ([0b0_1010101_0000010_1111100_1111110_001, 5], .cvte5 (.reg 2) (.lit 5) .sat),
      ([0b0_1010110_0000010_0000100_1111110_000], .cvt4f (.reg 2) (.reg 4)),
      ([0b0_1010111_0000010_0000100_1111110_000], .cvt5f (.reg 2) (.reg 4)),
      ([0b0_1011000_0000010_0000100_0000110_001], .qnt8 (.reg 2) (.reg 4) (.reg 6) .sat),
      ([0b0_1011001_0000010_1111100_0000110_000, 5], .dq8 (.reg 2) (.lit 5) (.reg 6)),
      ([0b0_1011010_0000010_0000100_0000110_001], .qnt4 (.reg 2) (.reg 4) (.reg 6) .sat),
      ([0b0_1011011_0000010_0000100_1111100_000, 0xFFFFFFF0], .dq4 (.reg 2) (.reg 4) (.lit 0xFFFFFFF0)),
      ([0b0_1011100_0000010_0000100_1111110_011], .bpack (.reg 2) (.reg 4) .b3),
      ([0b0_1011101_0000010_1111100_1111110_111, 5], .bunpk (.reg 2) (.lit 5) .zb3),
      ([0b0_1011110_0000010_0000100_0000110_011], .fscl (.reg 2) (.reg 4) (.reg 6) .rdn) ] = true := by
  decide +kernel

/-- The words of the lane set's opcodes 0x60 to 0x6F. -/
theorem test_words_lane_6 : decodes false
    [ ([0b0_1100000_1111110_0000100_1111110_000], .setc (.reg 4)),
      ([0b0_1100001_1111110_1111110_1111110_000], .join),
      ([0b0_1100010_0000010_0000100_0000110_011], .shfl (.reg 2) (.reg 4) (.reg 6) .pair),
      ([0b0_1100011_0000010_0000100_1111110_011], .vote (.reg 2) (.reg 4) .maj),
      ([0b0_1100100_0000010_0000100_1111110_000], .sift (.reg 2) (.reg 4)),
      ([0b0_1100101_0000010_1111100_1111110_010, 5], .credf (.reg 2) (.lit 5) .min),
      ([0b0_1100110_0000010_0000100_1111110_111], .credi (.reg 2) (.reg 4) .xor),
      ([0b0_1101000_0000010_0000100_0000110_111], .ldw (.reg 2) (.reg 4) (.reg 6) 7),
      ([0b0_1101001_0000010_1111100_0000110_110, 5], .ldd (.reg 2) (.lit 5) (.reg 6) 6),
      ([0b0_1101010_0000010_0000100_0000110_101], .ldh (.reg 2) (.reg 4) (.reg 6) 5),
      ([0b0_1101011_0000010_0000100_1111100_100, 0xFFFFFFF0], .ldb (.reg 2) (.reg 4) (.lit 0xFFFFFFF0) 4),
      ([0b0_1101100_0000010_0000100_0000110_011], .stw (.reg 2) (.reg 4) (.reg 6) 3),
      ([0b0_1101101_0000010_1111100_0000110_010, 5], .std (.reg 2) (.lit 5) (.reg 6) 2),
      ([0b0_1101110_0000010_0000100_0000110_001], .sth (.reg 2) (.reg 4) (.reg 6) 1),
      ([0b0_1101111_0000010_0000100_1111100_000, 0xFFFFFFF0], .stb (.reg 2) (.reg 4) (.lit 0xFFFFFFF0) 0) ] = true := by
  decide +kernel

/-- The words of the lane set's opcodes 0x70 to 0x7F. -/
theorem test_words_lane_7 : decodes false
    [ ([0b0_1110000_0000010_0000100_0000110_111], .lde (.reg 2) (.reg 4) (.reg 6) 7),
      ([0b0_1110001_0000010_1111100_0000110_000, 5], .ldx (.reg 2) (.lit 5) (.reg 6)),
      ([0b0_1110010_0000010_0000100_0000110_000], .stx (.reg 2) (.reg 4) (.reg 6)),
      ([0b0_1110011_0000010_0000100_1111100_100, 0xFFFFFFF0], .aadd (.reg 2) (.reg 4) (.lit 0xFFFFFFF0) 4),
      ([0b0_1110100_0000010_0000100_0000110_011], .amax (.reg 2) (.reg 4) (.reg 6) 3),
      ([0b0_1110101_0000010_1111100_0000110_010, 5], .aor (.reg 2) (.lit 5) (.reg 6) 2),
      ([0b0_1110110_0000010_0000100_0000110_001], .axch (.reg 2) (.reg 4) (.reg 6) 1),
      ([0b0_1110111_0000010_0000100_1111100_000, 0xFFFFFFF0], .acas (.reg 2) (.reg 4) (.lit 0xFFFFFFF0) 0),
      ([0b0_1111000_0000010_0000100_0000110_111], .aaddd (.reg 2) (.reg 4) (.reg 6) 7),
      ([0b0_1111001_0000010_1111100_0000110_110, 5], .acasd (.reg 2) (.lit 5) (.reg 6) 6),
      ([0b0_1111010_1111110_1111110_1111110_011], .fence .s),
      ([0b0_1111011_0000010_0000100_1111100_100, 0xFFFFFFF0], .fencef (.reg 2) (.reg 4) (.lit 0xFFFFFFF0) 4),
      ([0b0_1111100_0000010_0000100_0000110_011], .waita (.reg 2) (.reg 4) (.reg 6) 3),
      ([0b0_1111101_0000010_1111100_0000110_000, 5], .barv (.reg 2) (.lit 5) (.reg 6)),
      ([0b0_1111110_1111110_0000100_0000110_000], .barw (.reg 4) (.reg 6)),
      ([0b0_1111111_0000010_0000100_1111100_000, 0xFFFFFFF0], .amsg (.reg 2) (.reg 4) (.lit 0xFFFFFFF0)) ] = true := by
  decide +kernel

/-- The words of the team set's opcodes 0x00 to 0x0F. -/
theorem test_words_team_0 : decodes true
    [ ([0b1_0000000_0000010_0000100_0000110_010], .teamIadd (.reg 2) (.reg 4) (.reg 6) .us),
      ([0b1_0000001_0000010_1111100_0000110_010, 5], .teamIsub (.reg 2) (.lit 5) (.reg 6) .us),
      ([0b1_0000010_0000010_0000100_0000110_000], .teamImul (.reg 2) (.reg 4) (.reg 6)),
      ([0b1_0000011_0000010_0000100_1111100_001, 0xFFFFFFF0], .teamImulh (.reg 2) (.reg 4) (.lit 0xFFFFFFF0) .u),
      ([0b1_0000100_0000010_0000100_0000110_000], .teamImad (.reg 2) (.reg 4) (.reg 6)),
      ([0b1_0000101_0000010_1111100_0000110_001, 5], .teamIdiv (.reg 2) (.lit 5) (.reg 6) .u),
      ([0b1_0000110_0000010_0000100_0000110_001], .teamIrem (.reg 2) (.reg 4) (.reg 6) .u),
      ([0b1_0000111_0000010_0000100_1111100_001, 0xFFFFFFF0], .teamImin (.reg 2) (.reg 4) (.lit 0xFFFFFFF0) .u),
      ([0b1_0001000_0000010_0000100_0000110_001], .teamImax (.reg 2) (.reg 4) (.reg 6) .u),
      ([0b1_0001001_0000010_1111100_1111110_000, 5], .teamIabs (.reg 2) (.lit 5)),
      ([0b1_0001010_0000010_0000100_0000110_000], .teamDadd (.reg 2) (.reg 4) (.reg 6)),
      ([0b1_0001011_0000010_0000100_1111100_000, 0xFFFFFFF0], .teamDsub (.reg 2) (.reg 4) (.lit 0xFFFFFFF0)),
      ([0b1_0001100_0000010_0000100_0000110_000], .teamDmul (.reg 2) (.reg 4) (.reg 6)),
      ([0b1_0001101_0000010_1111100_1111110_000, 5], .teamDneg (.reg 2) (.lit 5)),
      ([0b1_0001110_0000010_0000100_0000110_000], .teamAnd (.reg 2) (.reg 4) (.reg 6)),
      ([0b1_0001111_0000010_0000100_1111100_000, 0xFFFFFFF0], .teamOr (.reg 2) (.reg 4) (.lit 0xFFFFFFF0)) ] = true := by
  decide +kernel

/-- The words of the team set's opcodes 0x10 to 0x1F. -/
theorem test_words_team_1 : decodes true
    [ ([0b1_0010000_0000010_0000100_0000110_000], .teamXor (.reg 2) (.reg 4) (.reg 6)),
      ([0b1_0010001_0000010_1111100_0000110_000, 5], .teamAndn (.reg 2) (.lit 5) (.reg 6)),
      ([0b1_0010010_0000010_0000100_1111110_000], .teamNot (.reg 2) (.reg 4)),
      ([0b1_0010011_0000010_0000100_1111100_000, 0xFFFFFFF0], .teamShl (.reg 2) (.reg 4) (.lit 0xFFFFFFF0)),
      ([0b1_0010100_0000010_0000100_0000110_000], .teamShr (.reg 2) (.reg 4) (.reg 6)),
      ([0b1_0010101_0000010_1111100_0000110_000, 5], .teamSar (.reg 2) (.lit 5) (.reg 6)),
      ([0b1_0010110_0000010_0000100_0000110_000], .teamRol (.reg 2) (.reg 4) (.reg 6)),
      ([0b1_0010111_0000010_0000100_1111100_000, 0xFFFFFFF0], .teamRor (.reg 2) (.reg 4) (.lit 0xFFFFFFF0)),
      ([0b1_0011000_0000010_0000100_0000110_001], .teamBfx (.reg 2) (.reg 4) (.reg 6) .u),
      ([0b1_0011001_0000010_1111100_0000110_000, 5], .teamBfi (.reg 2) (.lit 5) (.reg 6)),
      ([0b1_0011010_0000010_0000100_1111110_000], .teamPopc (.reg 2) (.reg 4)),
      ([0b1_0011011_0000010_0000100_1111110_000], .teamClz (.reg 2) (.reg 4)),
      ([0b1_0011100_0000010_0000100_1111110_000], .teamCtz (.reg 2) (.reg 4)),
      ([0b1_0011101_0000010_1111100_1111110_000, 5], .teamBrev (.reg 2) (.lit 5)),
      ([0b1_0011110_0000010_0000100_0000110_000], .teamDshl (.reg 2) (.reg 4) (.reg 6)),
      ([0b1_0011111_0000010_0000100_1111100_001, 0xFFFFFFF0], .teamDshr (.reg 2) (.reg 4) (.lit 0xFFFFFFF0) .u) ] = true := by
  decide +kernel

/-- The words of the team set's opcodes 0x20 to 0x2F. -/
theorem test_words_team_2 : decodes true
    [ ([0b1_0100000_0000010_0000100_0000110_101], .teamIcmp (.reg 2) (.reg 4) (.reg 6) .geu),
      ([0b1_0100001_0000010_1111100_0000110_101, 5], .teamDcmp (.reg 2) (.lit 5) (.reg 6) .geu),
      ([0b1_0100010_0000010_0000100_0000110_000], .teamSel (.reg 2) (.reg 4) (.reg 6)),
      ([0b1_0100011_0000010_0000100_1111110_000], .teamMov (.reg 2) (.reg 4)),
      ([0b1_0100100_0000010_0000100_1111110_000], .teamDmov (.reg 2) (.reg 4)),
      ([0b1_0100101_0000010_11111111111011010], .teamSread (.reg 2) 0x1ffda),
      ([0b1_0100110_0000100_11111111111011001], .teamSwrite (.reg 4) 0x1ffd9),
      ([0b1_0100111_0000010_0000100_1111110_111], .teamCvtif (.reg 2) (.reg 4) .urdn),
      ([0b1_0101000_0000010_0000100_1111110_111], .teamCvtfi (.reg 2) (.reg 4) .urdn),
      ([0b1_0101001_0000010_1111100_1111110_111, 5], .teamCvtdf (.reg 2) (.lit 5) .urdn),
      ([0b1_0101010_0000010_0000100_1111110_111], .teamCvtfd (.reg 2) (.reg 4) .urdn),
      ([0b1_0101011_0000010_0000100_1111110_011], .teamExt (.reg 2) (.reg 4) .zh),
      ([0b1_0101100_0000010_0000100_1111110_001], .teamDext (.reg 2) (.reg 4) .u),
      ([0b1_0101101_0000010_11111111111010010], .teamLdi (.reg 2) 0x1ffd2),
      ([0b1_0101110_0000010_0000100_1111110_000], .teamAlwr (.reg 2) (.reg 4)) ] = true := by
  decide +kernel

/-- The words of the team set's opcodes 0x30 to 0x3F. -/
theorem test_words_team_3 : decodes true
    [ ([0b1_0110000_1111110_11111111111001111], .teamBra 0x1ffcf),
      ([0b1_0110001_0000100_11111111111001110], .teamBnz (.reg 4) 0x1ffce),
      ([0b1_0110010_0000100_11111111111001101], .teamBz (.reg 4) 0x1ffcd),
      ([0b1_0110011_1111110_11111111111001100], .teamCall 0x1ffcc),
      ([0b1_0110100_1111110_0000100_1111110_000], .teamCallr (.reg 4)),
      ([0b1_0110101_1111110_1111100_1111110_000, 5], .teamJmpr (.lit 5)),
      ([0b1_0110110_1111110_1111110_1111110_000], .teamRet),
      ([0b1_0110111_1111110_1111110_1111110_000], .teamExit),
      ([0b1_0111000_1111110_11111111111000111], .teamTrap 0x1ffc7),
      ([0b1_0111001_1111110_11111111111000110], .teamBkpt 0x1ffc6),
      ([0b1_0111010_1111110_1111110_1111110_000], .teamYield),
      ([0b1_0111011_1111110_1111110_1111110_000], .teamNop),
      ([0b1_0111100_0000100_11111111111000011], .teamBalw (.reg 4) 0x1ffc3) ] = true := by
  decide +kernel

/-- The words of the team set's opcodes 0x40 to 0x4F. -/
theorem test_words_team_4 : decodes true
    [ ([0b1_1000000_1110111_0000100_0000110_111], .qld (.queue 3) (.reg 4) (.reg 6) 7),
      ([0b1_1000001_1110111_1111100_0000110_110, 5], .qldu (.queue 3) (.lit 5) (.reg 6) 6),
      ([0b1_1000010_1110111_0000100_1110101_101], .qldg (.queue 3) (.reg 4) (.queue 1) 5),
      ([0b1_1000011_0000010_0000100_1110101_100], .qsts (.reg 2) (.reg 4) (.queue 1) 4),
      ([0b1_1000100_1111110_0000100_1111110_011], .setl (.reg 4) 3),
      ([0b1_1000101_0000010_1111110_1111110_010], .getl (.reg 2) 2),
      ([0b1_1000110_0000010_0000100_1111110_011], .mkl (.reg 2) (.reg 4) .p4),
      ([0b1_1000111_1111110_0000100_1111100_000, 0xFFFFFFF0], .ldl (.reg 4) (.lit 0xFFFFFFF0) 0),
      ([0b1_1001000_0000010_11111111110110111], .qocc (.reg 2) 0x1ffb7) ] = true := by
  decide +kernel

/-- The words of the team set's opcodes 0x50 to 0x5F. -/
theorem test_words_team_5 : decodes true
    [ ([0b1_1010000_0000010_0000100_0000110_111], .cpy (.reg 2) (.reg 4) (.reg 6) 7),
      ([0b1_1010001_0000010_1111100_0000110_110, 5], .cpym (.reg 2) (.lit 5) (.reg 6) 6),
      ([0b1_1010010_0000010_0000100_0000110_101], .cpys (.reg 2) (.reg 4) (.reg 6) 5),
      ([0b1_1010011_1111110_0000100_1111100_001, 0xFFFFFFF0], .twait (.reg 4) (.lit 0xFFFFFFF0) .mask),
      ([0b1_1010100_1111110_0000100_1111110_000], .tempty (.reg 4)),
      ([0b1_1010101_0000010_1111100_1111110_000, 5], .tstat (.reg 2) (.lit 5)),
      ([0b1_1010110_0000010_0000100_0000110_001], .wld (.reg 2) (.reg 4) (.reg 6) 1),
      ([0b1_1010111_0000010_0000100_1111100_000, 0xFFFFFFF0], .wst (.reg 2) (.reg 4) (.lit 0xFFFFFFF0) 0),
      ([0b1_1011000_0000010_0000100_0000110_000], .mmat (.reg 2) (.reg 4) (.reg 6)),
      ([0b1_1011001_0000010_1111100_0000110_000, 5], .mmad (.reg 2) (.lit 5) (.reg 6)),
      ([0b1_1011010_0000010_0000100_1111110_000], .mmaz (.reg 2) (.reg 4)),
      ([0b1_1011011_0000010_0000100_1111100_010, 0xFFFFFFF0], .accst (.reg 2) (.reg 4) (.lit 0xFFFFFFF0) .b16),
      ([0b1_1011100_0000010_0000100_1111110_000], .accv (.reg 2) (.reg 4)),
      ([0b1_1011101_0000010_1111100_0000110_010, 5], .cpyf (.reg 2) (.lit 5) (.reg 6) 2) ] = true := by
  decide +kernel

/-- The words of the team set's opcodes 0x60 to 0x6F. -/
theorem test_words_team_6 : decodes true
    [ ([0b1_1100000_0000010_0000100_0000110_000], .teamBarv (.reg 2) (.reg 4) (.reg 6)),
      ([0b1_1100001_1111110_1111100_0000110_000, 5], .teamBarw (.lit 5) (.reg 6)),
      ([0b1_1100010_0000010_0000100_0000110_101], .teamWaita (.reg 2) (.reg 4) (.reg 6) 5),
      ([0b1_1100011_0000010_0000100_1111100_100, 0xFFFFFFF0], .launch (.reg 2) (.reg 4) (.lit 0xFFFFFFF0) 4),
      ([0b1_1100100_1111110_0000100_0000110_000], .cnta (.reg 4) (.reg 6)),
      ([0b1_1100101_1111110_1111100_0000110_000, 5], .cntw (.lit 5) (.reg 6)),
      ([0b1_1100110_1111110_0000100_1111110_011], .cancel (.reg 4) .job),
      ([0b1_1100111_0000010_0000100_1111110_000], .wref (.reg 2) (.reg 4)),
      ([0b1_1101000_1111110_0000100_1111110_011], .linv (.reg 4) .f),
      ([0b1_1101001_1111110_1111100_0000110_110, 5], .flushr (.lit 5) (.reg 6) 6),
      ([0b1_1101010_0000010_0000100_0000110_000], .teamAmsg (.reg 2) (.reg 4) (.reg 6)) ] = true := by
  decide +kernel

/-- The words of the team set's opcodes 0x70 to 0x7F. -/
theorem test_words_team_7 : decodes true
    [ ([0b1_1110000_0000010_0000100_0000110_111], .teamLdw (.reg 2) (.reg 4) (.reg 6) 7),
      ([0b1_1110001_0000010_1111100_0000110_110, 5], .teamLdd (.reg 2) (.lit 5) (.reg 6) 6),
      ([0b1_1110010_0000010_0000100_0000110_101], .teamStw (.reg 2) (.reg 4) (.reg 6) 5),
      ([0b1_1110011_0000010_0000100_1111100_100, 0xFFFFFFF0], .teamStd (.reg 2) (.reg 4) (.lit 0xFFFFFFF0) 4),
      ([0b1_1110100_0000010_0000100_0000110_000], .teamLdx (.reg 2) (.reg 4) (.reg 6)),
      ([0b1_1110101_0000010_1111100_0000110_000, 5], .teamStx (.reg 2) (.lit 5) (.reg 6)),
      ([0b1_1110110_0000010_0000100_0000110_001], .teamAadd (.reg 2) (.reg 4) (.reg 6) 1),
      ([0b1_1110111_0000010_0000100_1111100_000, 0xFFFFFFF0], .teamAmax (.reg 2) (.reg 4) (.lit 0xFFFFFFF0) 0),
      ([0b1_1111000_0000010_0000100_0000110_111], .teamAxch (.reg 2) (.reg 4) (.reg 6) 7),
      ([0b1_1111001_0000010_1111100_0000110_110, 5], .teamAcas (.reg 2) (.lit 5) (.reg 6) 6),
      ([0b1_1111010_0000010_0000100_0000110_101], .teamAaddd (.reg 2) (.reg 4) (.reg 6) 5),
      ([0b1_1111011_0000010_0000100_1111100_100, 0xFFFFFFF0], .teamAcasd (.reg 2) (.reg 4) (.lit 0xFFFFFFF0) 4),
      ([0b1_1111100_1111110_1111110_1111110_011], .teamFence .s),
      ([0b1_1111101_0000010_1111100_0000110_010, 5], .teamFencef (.reg 2) (.lit 5) (.reg 6) 2) ] = true := by
  decide +kernel

/-! ### A term that each check of WellFormed refuses (R25, R27, R28) -/

theorem test_wf_pair_even : (Instr.dmov (.reg 1) (.reg 2)).wellFormed = false ∧ (Instr.dmov (.reg 2) (.reg 1)).wellFormed = false ∧
    (Instr.dmov (.reg 0) (.reg 114)).wellFormed = true := by decide
theorem test_wf_no_queue_of_64_bits : (Instr.dmov (.queue 0) (.reg 2)).wellFormed = false ∧ (Instr.dmov (.reg 2) (.queue 0)).wellFormed = false := by decide
theorem test_wf_64_bit_literal : (Instr.mov (.reg 0) (.lit64 1)).wellFormed = false ∧ (Instr.dmov (.reg 0) (.lit64 1)).wellFormed = true := by decide
theorem test_wf_queues_of_a_set : (Instr.mov (.queue 2) .zero).wellFormed = false ∧ (Instr.mov (.queue 1) (.queue 7)).wellFormed = true ∧
    (Instr.teamMov (.reg 0) (.queue 2)).wellFormed = false ∧ (Instr.teamMov (.queue 7) (.queue 1)).wellFormed = true := by decide
theorem test_wf_format_j : (Instr.bnz (.lit 1) 0).wellFormed = false ∧ (Instr.bnz (.lit64 1) 0).wellFormed = false ∧
    (Instr.teamBnz (.queue 2) 0).wellFormed = false ∧ (Instr.bnz (.queue 7) 0).wellFormed = true := by decide
theorem test_wf_circle_is_wide : (Instr.sread (.reg 1) 18).wellFormed = false ∧ (Instr.sread (.reg 1) 17).wellFormed = true := by decide

/-! ### Worked encodings of the spec's own tables -/

/-- The worked words of spec/07, spec/08 and spec/06: R121, R123, R133, R134, R138, R139, R156, R160, R167. -/
theorem test_worked_words : decodes false
    [ ([0x00060411], .iadd (.reg 3) (.reg 1) (.reg 2) .ss), ([0x20080414], .icmp (.reg 4) (.reg 1) (.reg 2) .ltu),
      ([0x180E17E0, 0x0804], .bfx (.reg 7) (.reg 5) (.lit 0x0804) .s), ([0x2D05FFFF], .ldi (.reg 2) 0x1FFFF), ([0x33FC0080], .call 0x80),
      ([0x36FDFBF0], .ret), ([0x38FC0005], .trap 5), ([0x3BFDFBF0], .nop), ([0x48060411], .fdiv (.reg 3) (.reg 1) (.reg 2) .rtz),
      ([0x580E07E1, 0x82], .qnt8 (.reg 7) (.reg 1) (.lit 0x82) .sat), ([0x650807F0], .credf (.reg 4) (.reg 1) .sum) ] = true ∧
    decodes true [([0xB6FDFBF0], .teamRet)] = true := by decide +kernel

/-! ### Single steps, on the worked cases of spec/05, spec/07 and spec/08 -/

/-- IADD.SS of 0x7FFF_FFFF + 1 and ISUB.US of 3 - 5 (R113). -/
theorem test_saturation : regAfter (.iadd (.reg 3) (.reg 0) (.reg 1) .ss) (regs false [0x7FFFFFFF, 1]) 3 = some 0x7FFFFFFF ∧
    regAfter (.isub (.reg 3) (.reg 0) (.reg 1) .us) (regs false [3, 5]) 3 = some 0 := by decide +kernel

/-- The division case (R115), a source that is also the destination among them. -/
theorem test_division : regAfter (.idiv (.reg 0) (.reg 0) (.reg 1) .s) (regs false [0x80000000, 0xFFFFFFFF]) 0 = some 0x80000000 ∧
    regAfter (.irem (.reg 3) (.reg 0) (.reg 1) .s) (regs false [0x80000000, 0xFFFFFFFF]) 3 = some 0 ∧
    regAfter (.idiv (.reg 3) (.reg 0) (.reg 1) .s) (regs false [0x80000000, 0]) 3 = some 0xFFFFFFFF ∧
    regAfter (.irem (.reg 1) (.reg 0) (.reg 1) .s) (regs false [0x80000000, 0]) 1 = some 0x80000000 := by decide +kernel

/-- DADD of a literal -1 decrements a pair (R116, R28). -/
theorem test_pair_decrement : regAfter (.dadd (.reg 0) (.reg 0) (.lit 0xFFFFFFFF)) (regs false [0, 1]) 0 = some 0xFFFFFFFF ∧
    regAfter (.dadd (.reg 0) (.reg 0) (.lit 0xFFFFFFFF)) (regs false [0, 1]) 1 = some 0 := by decide +kernel

/-- The bit field case, its clamp, and a rotation by more than the width (R120, R121). -/
theorem test_bit_fields : regAfter (.bfx (.reg 1) (.reg 0) (.lit 0x0804) .s) (regs false [0x0F30]) 1 = some 0xFFFFFFF3 ∧
    regAfter (.bfx (.reg 1) (.reg 0) (.lit 0x0804) .u) (regs false [0x0F30]) 1 = some 0xF3 ∧
    regAfter (.bfx (.reg 1) (.reg 0) (.lit 0x281C) .u) (regs false [0xA0000000]) 1 = some 0xA ∧
    regAfter (.rol (.reg 1) (.reg 0) (.lit 36)) (regs false [0xA0000001]) 1 = some 0x1A := by decide +kernel

/-- SEL reads D before it writes it (R124); a shift by the width (R119). -/
theorem test_select_and_shift : regAfter (.sel (.reg 0) (.reg 1) (.reg 2)) (regs false [7, 8, 9]) 0 = some 8 ∧
    regAfter (.sel (.reg 0) (.reg 1) (.reg 2)) (regs false [0, 8, 9]) 0 = some 9 ∧
    regAfter (.sar (.reg 1) (.reg 0) (.lit 32)) (regs false [0x80000000]) 1 = some 0xFFFFFFFF := by decide +kernel

/-- The conversion case (R130). -/
theorem test_conversion : regAfter (.cvtfi (.reg 3) (.reg 0) .rne) (regs false [0x40200000]) 3 = some 2 ∧
    regAfter (.cvtfi (.reg 3) (.reg 0) .rne) (regs false [0x4F32D05E]) 3 = some 0x7FFFFFFF ∧
    regAfter (.cvtfi (.reg 3) (.reg 0) .urne) (regs false [0x4F32D05E]) 3 = some 0xB2D05E00 ∧
    afterSlice (exec (.cvtfi (.reg 3) (.reg 0) .rne) (regs false [0x40200000])) ⟨0, 0, some 0⟩ (fun sl => sl.fflags == 1) = true := by
  decide +kernel

/-- The fused case (R146), FMIN with one NaN (R149), and the narrow cases of R82 and R156. -/
theorem test_float : regAfter (.fmac (.reg 1) (.reg 0) (.reg 0) .rne) (regs false [0x3F800800, 0xBF801000]) 1 = some 0x33800000 ∧
    regAfter (.fmin (.reg 2) (.reg 0) (.reg 1)) (regs false [0x7F800001, 0x40000000]) 2 = some 0x40000000 ∧
    regAfter (.cvte4 (.reg 2) (.reg 0) .rne) (regs false [0xC0600000]) 2 = some 0xC6 ∧
    regAfter (.qnt8 (.reg 2) (.reg 0) (.lit 0x82) .sat) (regs false [0x447A0000]) 2 = some 125 ∧
    regAfter (.qnt8 (.reg 2) (.reg 0) (.lit 0x82) .sat) (regs false [0x41400000]) 2 = some 2 := by decide +kernel

/-- The call case: 0x204 at window offset 16,380, %sp 16,380, then the PC at 0x400 (R133); %sp of 2 traps (R95). -/
theorem test_call :
    (afterSlice (exec (.call 0x80) (slice false fun sl => { sl with pc := 0x200, sp := 16384, stack := [(127, List.replicate 128 0)] })) ⟨0, 0, some 0⟩
      fun sl => sl.pc == 0x400 && sl.sp == 16380 && readStack sl 16380 4 == [4, 2, 0, 0]) = true ∧
    (afterSlice (exec (.call 0x80) (slice false fun sl => { sl with pc := 0x200, sp := 2 })) ⟨0, 0, some 0⟩ fun sl => sl.run == .trapped &&
      sl.sp == 2 && sl.pc == 0x200 && sl.record.any fun r => r.cause == 0x0D && r.info0 == 2) = true := by decide +kernel

/-- CALLR of 0x402 traps MISALIGNED_PC with NEXTPC 0 (R133). -/
theorem test_callr_misaligned : (afterSlice (exec (.callr (.reg 0)) (regs false [0x402])) ⟨0, 0, some 0⟩ fun sl => sl.run == .trapped &&
    sl.pc == 0 && sl.record.any fun r => r.cause == 0x0B && r.pc == 0 && r.nextPc == 0 && r.info0 == 0x402) = true := by decide +kernel

/-- TRAP #5 in both sets (R138). -/
theorem test_trap : (afterSlice (exec (.trap 5) (small false)) ⟨0, 0, some 0⟩ fun sl => sl.run == .trapped && sl.record.any fun r =>
      r.cause == 0x10 && r.cls == 1 && r.info0 == 5 && r.nextPc == 4) = true ∧
    (afterSlice (exec (.teamTrap 5) (small true)) ⟨0, 0, none⟩ fun sl => sl.record.any fun r => r.cause == 0x10 && r.id.strand == none) = true := by
  decide +kernel

/-- Strand 1 arrives at a SHFL.PICK of rank 0 after strand 0: both receive the value of strand 0 (R161, R165). -/
theorem test_shuffle :
    (after (exec (.shfl (.reg 3) (.reg 1) (.lit 0) .pick) { modSlice (modSlice (small false) ⟨0, 0, some 0⟩ fun sl =>
        { sl with arrived := some ⟨0, 8, 3, 0x3F800000, 0⟩, run := .parked .join }) ⟨0, 0, some 1⟩ fun sl =>
        { sl with regs := sl.regs.set 1 0x40000000 } with cur := ⟨0, 0, some 1⟩ }) fun t =>
      (standing t ⟨0, 0, some 0⟩ fun _ sl => sl.regs[3]? == some 0x3F800000 && sl.run == .runnable && sl.pc == 8) &&
      standing t ⟨0, 0, some 1⟩ fun _ sl => sl.regs[3]? == some 0x3F800000 && sl.pc == 8) = true := by decide +kernel

/-- 2^24 + 1 + 1 in one rounding (R167); votes and a sift of strands 0 and 1 with values 0 and 7 (R166). -/
theorem test_collectives : (credfOp .sum [⟨0, 0x4B800000, 0⟩, ⟨1, 0x3F800000, 0⟩, ⟨2, 0x3F800000, 0⟩]).bits = 0x4B800001 ∧
    voteOp .count [⟨0, 0, 0⟩, ⟨1, 7, 0⟩] = 1 ∧ voteOp .first [⟨0, 0, 0⟩, ⟨1, 7, 0⟩] = 1 ∧ siftOp [⟨0, 0, 0⟩, ⟨1, 7, 0⟩] = 2 := by decide +kernel

/-- A store through the register window writes its bytes at once, least significant first (R4, R222). -/
theorem test_register_window :
    regAfter (.stb (.reg 0) (.lit 5) .zero 4) (regs false [0xAB, 0x11223344]) 1 = some 0x1122AB44 := by decide +kernel

/-- A store to main memory is accepted, and changes memory at its line's home (R176, R293). -/
theorem test_store_performed :
    (after (exec (.stw (.reg 0) (.lit 8) .zero 0) (regs false [0x11223344])) fun t => Memory.read t.mem 0x4008 == 0 &&
      after (exec (.homeStore 0) t) fun u => Memory.readBytes u.mem 0x4007 6 == [0, 0x44, 0x33, 0x22, 0x11, 0] && u.inflight == []) = true := by
  decide +kernel

/-- A misaligned load traps with its offset and label word (R171). -/
theorem test_misaligned : (afterSlice (exec (.ldw (.reg 0) (.lit 6) .zero 0) (small false)) ⟨0, 0, some 0⟩ fun sl => sl.record.any fun r =>
    r.cause == 0x26 && r.info0 == 6 && r.info1 == lwMain) = true := by decide +kernel

/-- The address slice pushes one entry of a UNIFORM forward queue, and a second waits on its depth of 1 (R188). -/
theorem test_forward_push : (after (exec (.teamMov (.queue 1) (.lit 9)) (small true)) fun t => standing t ⟨0, 0, none⟩ fun tm sl =>
      ((tm.fqueue 1).entries.map fun e => e.elems.map Elem.value) == [[9]] && sl.pc == 8 &&
      after (exec (.teamMov (.queue 1) (.lit 9)) t) fun u => standing u ⟨0, 0, none⟩ fun _ x => x.pc == 8 && x.stall == some .queueFull) = true := by
  decide +kernel

/-- QLD makes one entry of a pending element for each strand at A2 + i x 4 (R229). -/
theorem test_queue_load : (after (exec (.qld (.queue 0) (.lit 0x40) (.lit 4) 0) (small true)) fun t => standing t ⟨0, 0, none⟩ fun tm _ =>
    ((tm.fqueue 0).entries.map fun e => e.elems.map Elem.off) == [[0x40, 0x44]]) = true := by decide +kernel

/-- BARV reads phase 0 and completes it with the one arrival declared (R278, R282). -/
theorem test_barrier : (after (exec (.barv (.reg 0) (.lit 0) (.lit 0)) (regs false [5])) fun t => standing t ⟨0, 0, some 0⟩ fun tm sl =>
    sl.regs[0]? == some 0 && (tm.bars[0]?.map Barrier.phase) == some 1) = true := by decide +kernel

/-- MKL puts 16 bits at position 2 (R234); TSTAT of an EMPTY tile gives bit 1 (R264); WREF of bank 0 at time 0 (R302). -/
theorem test_labels_and_tiles : regAfter (.mkl (.reg 0) (.reg 2) .p2) (regs true [0x55555555, 0x77777777, 0x1234ABCD]) 1 = some 0x7777ABCD ∧
    regAfter (.tstat (.reg 0) (.lit 0)) (small true) 0 = some 2 ∧ regAfter (.wref (.reg 0) (.lit 0)) (small true) 0 = some 0x80000834 := by
  decide +kernel

/-- The trits of 0x8C (R79). -/
theorem test_trits : (List.range 5).map (tritAt 0x8C) = [.pos, .zero, .neg, .pos, .zero] := by decide +kernel

/-- From reset with nothing placed the ROM checks the stored image first, and the last boot stage makes the package READY (R449; log 10). -/
theorem test_boot : bootStep State.reset = some (bootRom State.reset) ∧
    (Config.stageFails 4 0 = false → (bootLink { State.reset with service := { State.reset.service with stage := 4 } }).service.stage = 5) :=
  ⟨rfl, fun h => by
    simp [bootLink, bootStage, State.reset, Service.reset, h]⟩

/-! ### Witnesses: hypotheses of the statements, met together by concrete states and operands -/

/-- DecodeEncode: an instruction of the greatest length. -/
theorem witness_DecodeEncode : (Instr.teamLdx .zero (.lit64 0x0123456789ABCDEF) (.lit64 1)).hasWord = true ∧
    (Instr.teamLdx .zero (.lit64 0x0123456789ABCDEF) (.lit64 1)).wellFormed = true ∧
    (Instr.teamLdx .zero (.lit64 0x0123456789ABCDEF) (.lit64 1)).length = 5 := by decide

/-- EncodeDecode: words that decode, with words after them. -/
theorem witness_EncodeDecode : decode false [0x2D05FFFF, 0, 0] = .ok (.ldi (.reg 2) 0x1FFFF) := by rfl

/-- UnassignedOpcodes: the last unassigned opcode of each set, at a slice of that set. -/
theorem witness_UnassignedOpcodes :
    ((Raw.ofWord 0x67FDFBF8).team = false ∧ (Raw.ofWord 0x67FDFBF8).op.toNat = 0x67 ∧ ∃ tm sl, sliceAt (small false) (small false).cur = some (tm, sl) ∧
      (small false).cur.strand.isNone = false ∧ breakpointAt (small false) 1 sl.skip sl.pc = none) ∧
    ((Raw.ofWord 0xFFFFFFFF).team = true ∧ (Raw.ofWord 0xFFFFFFFF).op.toNat = 0x7F ∧ ∃ tm sl, sliceAt (small true) (small true).cur = some (tm, sl) ∧
      (small true).cur.strand.isNone = true ∧ breakpointAt (small true) 1 sl.skip sl.pc = none) :=
  ⟨⟨by decide, by decide, stands_with (by decide +kernel)⟩, ⟨by decide, by decide, stands_with (by decide +kernel)⟩⟩

/-- RejectOrder: a word of the other set; an opcode of each of the two shapes, and a boundary code for each row of each. -/
theorem witness_RejectOrder : (Raw.ofWord 0x80000000).team ≠ false ∧ laneShape 0 = some ⟨.a, .w32, .w32, .w32, true, 3⟩ ∧
    laneShape 0x0A = some ⟨.a, .w64, .w64, .w64, true, 1⟩ ∧
    decode false [(Raw.mk false 0 118 125 125 3).word, 0, 0] = .error (.badModifier 3) ∧
    decode false [(Raw.mk false 0 118 125 125 2).word, 0, 0] = .error (.badOperand 1 118) ∧
    decode false [(Raw.mk false 0 117 125 127 2).word, 0, 0] = .error (.badOperand 2 125) ∧
    decode false [(Raw.mk false 0 124 123 127 0).word, 0, 0] = .error (.badOperand 3 127) ∧
    decode false [(Raw.mk false 0 124 123 124 0).word, 0, 0] = .error (.literalDest 124) ∧
    decode false [(Raw.mk false 0x0A 116 1 1 0).word, 0, 0, 0, 0] = .error (.badOperand 1 116) ∧
    decode false [(Raw.mk false 0x0A 1 123 1 0).word, 0, 0, 0, 0] = .error (.badOperand 2 123) ∧
    decode false [(Raw.mk false 0x0A 1 125 127 0).word, 0, 0, 0, 0] = .error (.badOperand 3 127) ∧
    decode false [(Raw.mk false 0x0A 125 1 1 0).word, 0, 0, 0, 0] = .error (.literalDest 125) ∧
    decode false [(Raw.mk false 0x0A 115 1 1 0).word, 0, 0, 0, 0] = .error (.oddPair 1 115) ∧
    decode false [(Raw.mk false 0x0A 114 115 1 0).word, 0, 0, 0, 0] = .error (.oddPair 2 115) ∧
    decode false [(Raw.mk false 0x0A 126 114 115 0).word, 0, 0, 0, 0] = .error (.oddPair 3 115) := by decide +kernel

/-- The state that fetches IADD.SS w3, w1, w2 next. -/
def fetching : State := State.reset.withFetchWord 32 0x00060411

/-- StepRunsDecoded: with the slice at the head of the schedule, and with an empty schedule. -/
theorem witness_StepRunsDecoded :
    (∃ tm sl, sliceAt (beginTurn fetching 7) ⟨0, 0, some 0⟩ = some (tm, sl) ∧
      { beginTurn { { fetching with agenda := [⟨7, .slice ⟨0, 0, some 0⟩⟩] } with agenda := [] } 7 with cur := ⟨0, 0, some 0⟩ } = beginTurn fetching 7 ∧
      canIssue (beginTurn fetching 7) ⟨0, 0, some 0⟩ = true ∧ fetchAt (codeOf (beginTurn fetching 7) tm.launch) false sl.pc = .words [0x00060411] ∧
      breakpointAt (beginTurn fetching 7) tm.launch sl.skip sl.pc = none ∧ decode false [0x00060411] = .ok (.iadd (.reg 3) (.reg 1) (.reg 2) .ss)) ∧
    (fetching.agenda = [] ∧ bootStep (beginTurn fetching 1) = none ∧ ∃ tm sl, sliceAt (beginTurn fetching 1) (beginTurn fetching 1).cur = some (tm, sl) ∧
      canIssue (beginTurn fetching 1) (beginTurn fetching 1).cur = true ∧
      fetchAt (codeOf (beginTurn fetching 1) tm.launch) (beginTurn fetching 1).cur.strand.isNone sl.pc = .words [0x00060411] ∧
      breakpointAt (beginTurn fetching 1) tm.launch sl.skip sl.pc = none) :=
  ⟨stands_with (by decide +kernel), by decide +kernel, by decide +kernel, stands_with (by decide +kernel)⟩

/-- StepRunsEvents: an event at the head of the schedule, and a parked slice. -/
theorem witness_StepRunsEvents : ({ fetching with agenda := [⟨2, .event (.ctTick 0)⟩] } : State).agenda = ⟨2, .event (.ctTick 0)⟩ :: [] ∧
    ∃ tm sl, sliceAt (beginTurn (slice false fun x => { x with run := .parked .join }) 0) ⟨0, 0, some 0⟩ = some (tm, sl) ∧
      canIssue (beginTurn (slice false fun x => { x with run := .parked .join }) 0) ⟨0, 0, some 0⟩ = false :=
  ⟨rfl, stands_with (by decide +kernel)⟩

/-- NeverStops: a slice that stands, and none. -/
theorem witness_NeverStops : (sliceAt (small true) (small true).cur).isSome = true ∧ sliceAt State.reset State.reset.cur = none ∧
    (Instr.ctTick 383).hasWord = false := by decide +kernel

/-- The small state after STW of 5 at offset 8 has been accepted: one access in flight. -/
def stored : State :=
  match exec (.stw (.reg 0) (.lit 8) .zero 0) (regs false [5]) with
  | .next t => t
  | .fault _ | .refused _ => State.reset

/-- MemoriesOkKept and AccessNumbersKept: a state with memory listed and an access in flight, and a step of it that goes on. -/
theorem witness_invariants : stored.memoriesOk = true ∧ stored.mem ≠ [] ∧ stored.inflight.map Access.n = [0] ∧ stored.nextAccess = 1 ∧
    goesOn (step { stored with agenda := [⟨1, .event (.homeStore 0)⟩] }) = true := by decide +kernel

/-- AccessNumbersKept: its invariant holds of that state. -/
theorem witness_AccessNumbersKept : stored.accessesOrdered := by
  have h : stored.inflight.map Access.n = [0] ∧ ∀ a ∈ stored.inflight, a.n < stored.nextAccess := by decide +kernel
  exact ⟨by rw [h.1]; exact List.pairwise_singleton _ _, h.2⟩

/-- A trap record of the last slice of the package. -/
def lastRecord : TrapRecord := ⟨0x29, 6, 0x1FFF, ⟨383, 15, some 1023⟩, 0xFFFFFFFC, 0xFFFFFFF8, 0xFFFFFFFF, 0xFFFF, 7, 1, 2, 3, 4, 5⟩

/-- TrapRecordLayout: the greatest identity. -/
theorem witness_TrapRecordLayout : lastRecord.id.core < 384 ∧ lastRecord.id.slot < 16 ∧ (∀ i, lastRecord.id.strand = some i → i < 1024) :=
  ⟨by decide, by decide, fun _ h => by cases h; decide⟩

/-- TakingATrap: a slice that stands. -/
theorem witness_TakingATrap : ∃ tm sl, sliceAt (small false) ⟨0, 0, some 1⟩ = some (tm, sl) ∧ sl.run = .runnable := stands_with (by decide +kernel)

/-- A form with a pair, a pair and a wide literal at the edge of 116 registers. -/
def wideForm : Form := form3 false (.reg 114) .w64 (.reg 114) .w64 (.lit64 0x8000000000000000) .w64

/-- OperandsThatAreThere: the last pair of 116 registers and a wide literal. -/
theorem witness_OperandsThatAreThere : wideForm.bq = false ∧ ∃ tm sl, sliceAt (small false) (small false).cur = some (tm, sl) ∧
    plainDst sl .w64 (.reg 114) = some 0 ∧ plainSrc sl .w64 (.reg 114) = some 0 ∧
    plainSrc sl .w64 (.lit64 0x8000000000000000) = some 0x8000000000000000 ∧ ∀ n ∈ wideForm.regs, regPending (small false) (tm.name (some 0)) n = false :=
  ⟨rfl, stands_with (by decide +kernel)⟩

/-- A slice with four registers. -/
def short (team : Bool) : State := slice team fun sl => { sl with regs := [1, 2, 3, 4] }

/-- OperandTraps: the first register and the first pair member beyond the count, in each field; undeclared queues; queues of the wrong kind or
type; a queue in a field that is read, in one that is read and written, and in the D of a queue load. -/
theorem witness_OperandTraps :
    (∃ tm sl, sliceAt (short false) (short false).cur = some (tm, sl) ∧ sl.regs.length ≤ 4 ∧ ¬ sl.regs.length ≤ 3 ∧ sl.regs.length ≤ 3 + 1 ∧
      (tm.queueDecl true 0).kind ≠ .undeclared ∧ (tm.queueDecl false 2).kind = .undeclared ∧ (tm.queueDecl true 0).kind = .uniform ∧
      (tm.queueDecl true 0).rule ≠ .first ∧ (tm.queueDecl true 0).float = false) ∧
    (∃ tm sl, sliceAt (short true) (short true).cur = some (tm, sl) ∧ (tm.queueDecl false 7).kind = .undeclared ∧ (tm.queueDecl false 0).kind = .lane ∧
      (tm.queueDecl true 1).kind = .lane ∧ ((form3 true (.queue 0) .w32 .zero .w32 .zero .w32).role = .write) ∧
      (((form3 true (.queue 0) .w32 .zero .w32 .zero .w32).as .read).role = .read) ∧
      (((form3 true (.queue 1) .w32 .zero .w32 .zero .w32).as .both).role = .both) ∧ (tm.queueDecl false 1).kind ≠ .lane ∧
      ((form3 true (.queue 0) .w32 .zero .w32 .zero .w32).as .queue).role ≠ .none ∧
      ((form3 true (.queue 0) .w32 .zero .w32 .zero .w32).as .queue).role ≠ .read) ∧
    (∃ tm sl, sliceAt (short false) (short false).cur = some (tm, sl) ∧
      (((form3 false (.queue 1) .w32 .zero .w32 .zero .w32).as .both).role = .both) ∧ (tm.queueDecl true 1).kind = .lane) :=
  ⟨stands_with (by decide +kernel), stands_with (by decide +kernel), stands_with (by decide +kernel)⟩

/-- The small state with a load in flight that is to write register 2. -/
def loading (team : Bool) : State :=
  match exec (if team then .teamLdw (.reg 2) (.lit 8) .zero 0 else .ldw (.reg 2) (.lit 8) .zero 0) (small team) with
  | .next t => t
  | .fault _ | .refused _ => State.reset

/-- StoppedInstruction, pending registers: an instruction that reads the register of a load in flight. -/
theorem witness_StoppedInstruction_pending : ∃ tm sl, sliceAt (loading false) (loading false).cur = some (tm, sl) ∧
    plainDst sl .w32 (.reg 0) = some 0 ∧ plainSrc sl .w32 (.reg 2) = some 0 ∧ 2 ∈ (form2 false (.reg 0) .w32 (.reg 2) .w32).regs ∧
    regPending (loading false) (tm.name (loading false).cur.strand) 2 = true := stands_with (by decide +kernel)

/-- What the gathering of a form stops with. -/
def gatherStop (s : State) (f : Form) : Option Stop :=
  match sliceAt s s.cur with
  | none => none
  | some (tm, sl) =>
    match gather s s.cur.strand tm sl f (.ok ()) with
    | .error st => some st
    | .ok _ => none

/-- StoppedInstruction: a trap, a wait, and an empty queue to park on. -/
theorem witness_StoppedInstruction :
    gatherStop (short false) (w2 (.not (.reg 0) (.reg 4)) (.reg 0) (.reg 4)) =
      some (.trap { cause := .regRange, field := 2, next := 4, info0 := 4 }) ∧
    gatherStop (loading false) (w2 (.not (.reg 0) (.reg 2)) (.reg 0) (.reg 2)) = some (.wait .depend) ∧
    gatherStop (small false) (w2 (.not (.reg 0) (.queue 1)) (.reg 0) (.queue 1)) = some (.park (.elem 1 0 0)) := by decide +kernel

/-- CompletionFrame: the step bit clear and set. -/
theorem witness_CompletionFrame : (∃ tm sl, sliceAt (small false) (small false).cur = some (tm, sl) ∧ sl.stepBit = false) ∧
    (∃ tm sl, sliceAt (slice false fun x => { x with stepBit := true }) (small false).cur = some (tm, sl) ∧ sl.stepBit = true) ∧
    ∀ q, (w2 (.not (.reg 115) (.reg 0)) (.reg 115) (.reg 0)).d ≠ .queue q :=
  ⟨stands_with (by decide +kernel), stands_with (by decide +kernel), fun _ h => by cases h⟩

/-- A small state with the team changed. -/
def withTeam (team : Bool) (f : Team → Team) : State := modTeam (small team) ⟨0, 0⟩ f

/-- An element of a queue. -/
def elem (st : ElemState) (v : Word) : Elem := ⟨st, v, lwMain, 0x40, []⟩

/-- The small state with entries in q0, LANE, for its two strands. -/
def queued (x : Elem) : State := withTeam false fun tm =>
  { tm with fqueues := tm.fqueues.set 0 ⟨2, [⟨[elem .performed 7, x], none, 4, some 0⟩, ⟨[elem .performed 8, x], none, 8, some 1⟩]⟩ }

/-- The same with the second element of strand 0 away. -/
def halfQueued : State := withTeam false fun tm =>
  { tm with fqueues := tm.fqueues.set 0 ⟨2, [⟨[elem .performed 7, elem .pending 0], none, 4, some 0⟩,
      ⟨[elem (.sent 3) 0, elem .pending 0], none, 8, some 1⟩]⟩ }

/-- ForwardPops: two performed elements of strand 0, a pending one of strand 1, no entry, and a second element that has not come. -/
theorem witness_ForwardPops :
    (∃ tm sl, sliceAt (queued (elem .pending 0)) ⟨0, 0, some 0⟩ = some (tm, sl) ∧ plainDst sl .w32 (.reg 0) = some 0 ∧
      (tm.queueDecl false 0).kind ≠ .undeclared ∧ listGetD sl.popped 0 0 + 1 - (tm.fqueue 0).base = 1 ∧
      ((tm.fqueue 0).entries[0]?.bind fun e => e.elems[0]?) = some (elem .performed 7) ∧
      ((tm.fqueue 0).entries[1]?.bind fun e => e.elems[0]?) = some (elem .performed 8)) ∧
    (∃ tm sl, sliceAt (queued (elem .pending 0)) ⟨0, 0, some 1⟩ = some (tm, sl) ∧ listGetD sl.popped 0 0 - (tm.fqueue 0).base = 0 ∧
      ((tm.fqueue 0).entries[0]?.bind fun e => e.elems[1]?) = some (elem .pending 0)) ∧
    (∃ tm sl, sliceAt (small false) ⟨0, 0, some 0⟩ = some (tm, sl) ∧ (tm.fqueue 0).entries[listGetD sl.popped 0 0 - (tm.fqueue 0).base]? = none) ∧
    (∃ tm sl, sliceAt halfQueued ⟨0, 0, some 0⟩ = some (tm, sl) ∧
      ((tm.fqueue 0).entries[0]?.bind fun e => e.elems[0]?) = some (elem .performed 7) ∧
      ((tm.fqueue 0).entries[1]?.bind fun e => e.elems[0]?) = some (elem (.sent 3) 0)) :=
  ⟨stands_with (by decide +kernel), stands_with (by decide +kernel), stands_with (by decide +kernel), stands_with (by decide +kernel)⟩

/-- The small state after each strand has pushed a value to b0, UNIFORM and combined by SUM, or b1, LANE. -/
def pushed (b : Fin 8) : State :=
  let s := small true
  writeDst (writeDst s ⟨0, 0, some 0⟩ (.queue b) .w32 5) ⟨0, 0, some 1⟩ (.queue b) .w32 6

/-- BackPops: with both strands' contributions, with one, with a wait that has begun, and with b1 declared UNIFORM and b0's counter full. -/
theorem witness_BackPops :
    (∃ tm sl, sliceAt (pushed 0) (pushed 0).cur = some (tm, sl) ∧ (pushed 0).cur.strand = none ∧ (tm.queueDecl true 0).kind = .uniform ∧
      ∀ p ∈ tm.indexed, p.2.run ≠ .exited → (tm.bqueue 0).popped < listGetD p.2.pushed 0 0) ∧
    (∃ tm sl, sliceAt (small true) (small true).cur = some (tm, sl) ∧ sl.stall ≠ some .backq ∧ tm.bqWait0 ≠ 0xFFFFFFFF ∧
      ¬ ∀ p ∈ tm.indexed, p.2.run ≠ .exited → (tm.bqueue 0).popped < listGetD p.2.pushed 0 0) ∧
    (∃ tm sl, sliceAt (slice true fun x => { x with stall := some .backq }) (small true).cur = some (tm, sl) ∧ sl.stall = some .backq) ∧
    (∃ tm sl, sliceAt (withTeam true fun tm => { tm with
        bqWait0 := 0xFFFFFFFF, decl := { tm.decl with queues := tm.decl.queues.set 9 ⟨.uniform, .sum, false, 1⟩ } }) (small true).cur =
      some (tm, sl) ∧ (tm.queueDecl true 1).kind = .uniform ∧ tm.bqWait0.toNat = 2 ^ 32 - 1 ∧ sl.stall ≠ some .backq ∧
      ¬ ∀ p ∈ tm.indexed, p.2.run ≠ .exited → (tm.bqueue 1).popped < listGetD p.2.pushed 1 0) :=
  ⟨stands_with (by decide +kernel), stands_with (by decide +kernel), stands_with (by decide +kernel), stands_with (by decide +kernel)⟩

/-- Pushes: a strand with room, an address slice with room, and each at the depth of its queue. -/
theorem witness_Pushes :
    (∃ tm sl, sliceAt (small false) ⟨0, 0, some 0⟩ = some (tm, sl) ∧ 1 < tm.bqueues.length ∧ 1 < sl.pushed.length ∧ 7 < tm.fqueues.length ∧
      tm.slowest 1 = some 0 ∧ (tm.fqueue 1).entries.length ≤ (tm.fqueue 1).made) ∧
    (∃ tm sl, sliceAt (pushed 0) ⟨0, 0, some 0⟩ = some (tm, sl) ∧ (tm.queueDecl true 0).kind ≠ .undeclared ∧
      (tm.bqueue 0).popped + (tm.queueDecl true 0).depth ≤ listGetD sl.pushed 0 0) ∧
    (∃ tm sl, sliceAt (withTeam true fun tm => tm.addForward 1 (uniformEntry 1 0 0)) ⟨0, 0, none⟩ = some (tm, sl) ∧
      plainSrc sl .w32 (.lit 9) = some 9 ∧ (tm.queueDecl false 1).kind = .uniform ∧ (tm.queueDecl false 1).depth ≤ (tm.fqueue 1).entries.length) :=
  ⟨stands_with (by decide +kernel), stands_with (by decide +kernel), stands_with (by decide +kernel)⟩

/-- CombineIgnoresOrder: two orders of two strands' contributions. -/
theorem witness_CombineIgnoresOrder : [(⟨0, 1, 0⟩ : Contribution), ⟨1, 2, 0⟩].Perm [⟨1, 2, 0⟩, ⟨0, 1, 0⟩] ∧
    ([(⟨0, 1, 0⟩ : Contribution), ⟨1, 2, 0⟩].map Contribution.strand).Nodup := ⟨List.Perm.swap _ _ _, by decide⟩

/-- A poison by a violation that has not been posted. -/
def poison : Poison := ⟨0x21, 2, 4, 0, 3, 0, 2, 32, 0, 0, 0, 0, 0, none, false⟩

/-- PoisonedPop: strand 1 at a poisoned element. -/
theorem witness_PoisonedPop : ∃ tm sl, sliceAt { queued (elem (.poisoned poison) 0) with cur := ⟨0, 0, some 1⟩ } ⟨0, 0, some 1⟩ = some (tm, sl) ∧
    (tm.queueDecl false 0).kind ≠ .undeclared ∧ ((tm.fqueue 0).entries[listGetD sl.popped 0 0 - (tm.fqueue 0).base]?.bind fun e => e.elems[1]?) =
      some (elem (.poisoned poison) 0) ∧ sl.poisonSeen = none ∧ poison.cause = 0x21 ∧ poison.posted = false := stands_with (by decide +kernel)

/-- ArithmeticResults, BitResults, MoveResults and FloatResults: an instruction of each shape whose operands are gathered, in both sets. -/
theorem witness_Results :
    (∃ tm sl v, Gathers (regs false [1, 2]) (w3 (.iadd (.reg 2) (.reg 0) (.reg 1) .ss) (.reg 2) (.reg 0) (.reg 1)) (.ok ()) tm sl v ∧ v.a = 1 ∧ v.b = 2) ∧
    (∃ tm sl v, Gathers (regs true [1, 2]) (d3 (.teamDmul (.reg 2) (.reg 0) (.lit 3)) (.reg 2) (.reg 0) (.lit 3)) (.ok ()) tm sl v ∧
      v.a = 0x200000001) ∧
    (∃ tm sl v, Gathers (regs false [7, 2]) ((w3 (.bfi (.reg 0) (.reg 1) (.lit 32)) (.reg 0) (.reg 1) (.lit 32)).as .both) (.ok ()) tm sl v ∧ v.d = 7) ∧
    (∃ tm sl v, Gathers (regs false [7, 2]) ((formJd false (.reg 0) .w32).pushing .untyped) (.ok ()) tm sl v ∧ v.pops = []) ∧
    (∃ tm sl v, Gathers (regs false [7, 2]) ((w3 (.fadd (.reg 2) (.reg 0) (.reg 1) .rdn) (.reg 2) (.reg 0) (.reg 1)).pushing .f32) (.ok ()) tm sl v ∧
      v.a = 7) ∧
    (∃ tm sl v, Gathers (regs true [7, 2]) ((form2 true (.reg 2) .w32 (.reg 0) .w64).pushing .f32) (.ok ()) tm sl v ∧ v.a = 0x200000007) ∧
    (∃ tm sl v, Gathers (regs true [7, 2]) (form2 true (.reg 2) .w64 (.reg 0) .w32) (.ok ()) tm sl v ∧ v.a = 7) :=
  ⟨gathers_with (by decide +kernel), gathers_with (by decide +kernel), gathers_with (by decide +kernel), gathers_with (by decide +kernel),
    gathers_with (by decide +kernel), gathers_with (by decide +kernel), gathers_with (by decide +kernel)⟩

/-- FloatRounds and IntegerConversions: the greatest finite value, the least subnormal, an infinity and a NaN. -/
theorem witness_FloatRounds : (ratOf 0x7F7FFFFF).isSome = true ∧ (ratOf 1).isSome = true ∧ ratOf 0x7F800000 = none ∧ ratOf 0xFF800000 = none ∧
    ratOf 0x7FC00000 = none ∧ ((2 ^ 64 - 1 : Int)).natAbs < 2 ^ 64 ∧ (-2 ^ 31 : Int) ≤ 0 ∧ (0 : Int) ≤ 2 ^ 31 - 1 := by
  refine ⟨by decide +kernel, by decide +kernel, by decide +kernel, by decide +kernel, by decide +kernel, by decide, by decide, by decide⟩

/-- NaNsAreCanonical: the least and the greatest signalling NaN, and a NaN beside an infinity. -/
theorem witness_NaNsAreCanonical : (0x7F800000 < (0x7F800001 : Word).toNat % 2 ^ 31 ∧ (0x7F800001 : Word).getLsbD 22 = false) ∧
    (0x7F800000 < (0xFFBFFFFF : Word).toNat % 2 ^ 31 ∧ (0xFFBFFFFF : Word).getLsbD 22 = false) ∧ (0xFF800000 : Word).toNat % 2 ^ 31 ≤ 0x7F800000 := by
  decide

/-- SpecialRegisters: the last index of each set, %clock, the first index that no set has; %sp at its bounds, beyond them and misaligned. -/
theorem witness_SpecialRegisters :
    (∃ tm sl, sliceAt (small false) (small false).cur = some (tm, sl) ∧ (specialOf (small false) (small false).cur tm sl)[18]? = some (some 3) ∧
      (specialOf (small false) (small false).cur tm sl)[11]? = some (some 0) ∧ (specialOf (small false) (small false).cur tm sl)[19]?.join = none ∧
      declChecks (formJd false (.reg 0) .w32) tm sl = .ok ()) ∧
    (∃ tm sl, sliceAt (small true) (small true).cur = some (tm, sl) ∧ (specialOf (small true) (small true).cur tm sl)[18]?.join = none ∧
      (specialOf (small true) (small true).cur tm sl)[17]? = some (some 0)) ∧
    (∃ tm sl v, Gathers (small false) (formJd false (.reg 0) .w64) (.ok ()) tm sl v ∧ v.pops = []) ∧
    (∃ tm sl v, Gathers (regs false [16384]) (formJs false (.reg 0)) (.ok ()) tm sl v ∧ v.a.toNat % 2 ^ 32 ≤ 16384 ∧ v.a.toNat % 4 = 0) ∧
    (∃ tm sl v, Gathers (regs true [16388]) (formJs true (.reg 0)) (.ok ()) tm sl v ∧ 16384 < v.a.toNat % 2 ^ 32) ∧
    (∃ tm sl v, Gathers (regs false [2]) (formJs false (.reg 0)) (.ok ()) tm sl v ∧ v.a.toNat % 4 ≠ 0) :=
  ⟨stands_with (by decide +kernel), stands_with (by decide +kernel), gathers_with (by decide +kernel), gathers_with (by decide +kernel),
    gathers_with (by decide +kernel), gathers_with (by decide +kernel)⟩

/-- Branches: A of 0 and not 0; a package that can be charged, the last of a group in phase, and packages out of phase or range. -/
theorem witness_Branches :
    (∃ tm sl v, Gathers (regs false [0]) (formJs false (.reg 0)) (.ok ()) tm sl v ∧ v.a.toNat % 2 ^ 32 = 0 ∧
      (allowAt (Machine.core (small false) 0) (allowIndex (Machine.core (small false) 0) tm.world 0)).alw = 32 ∧ inPhase (small false) 0 = true ∧
      (allowAt (Machine.core (small false) 0) (allowIndex (Machine.core (small false) 0) tm.world 0)).waiters = []) ∧
    (∃ tm sl v, Gathers (regs true [63]) (formJs true (.reg 0)) (.ok ()) tm sl v ∧ v.a.toNat % 2 ^ 32 ≠ 0 ∧ inPhase (small true) 63 = true ∧
      inPhase (small true) 64 = false) ∧
    (∃ tm sl v, Gathers (small true) (form0 true) (.ok ()) tm sl v ∧ v.pops = []) ∧
    (∃ tm sl v, Gathers (regs false [4608]) (w2 (.alwr (.reg 1) (.reg 0)) (.reg 1) (.reg 0)) (.ok ()) tm sl v ∧ 4608 ≤ v.a.toNat % 2 ^ 32) ∧
    (∃ tm sl v, Gathers (regs true [63]) (w2 (.teamAlwr (.reg 1) (.reg 0)) (.reg 1) (.reg 0)) (.ok ()) tm sl v ∧ v.a.toNat % 2 ^ 32 < 4608) :=
  ⟨gathers_with (by decide +kernel), gathers_with (by decide +kernel), gathers_with (by decide +kernel), gathers_with (by decide +kernel),
    gathers_with (by decide +kernel)⟩

/-- A slice about to call, with the line below %sp present. -/
def calling (team : Bool) (sp : Word) : State := slice team fun sl =>
  { sl with pc := 0x200, sp := sp, regs := [0x400, 0x402] ++ sl.regs.drop 2, stack := [((sp.toNat - 4) / 128, List.replicate 128 0)] }

/-- CallThenReturn: %sp at the top of the window and at 4, by immediate and by register. -/
theorem witness_CallThenReturn :
    (∃ tm sl v, Gathers (calling false 16384) (form0 false) (.ok ()) tm sl v ∧ v.pops = [] ∧ sl.stepBit = false ∧ sl.pc.toNat % 4 = 0 ∧
      4 ≤ sl.sp.toNat ∧ sl.sp.toNat ≤ 16384 ∧ sl.sp.toNat % 4 = 0 ∧ Table.get sl.stack ((sl.sp.toNat - 4) / 128) = some (List.replicate 128 0)) ∧
    (∃ tm sl v, Gathers (calling true 4) (formA true (.reg 0)) (.ok ()) tm sl v ∧ v.pops = [] ∧ sl.stepBit = false ∧ sl.pc.toNat % 4 = 0 ∧
      4 ≤ sl.sp.toNat ∧ Table.get sl.stack ((sl.sp.toNat - 4) / 128) = some (List.replicate 128 0) ∧ (lowWord v.a).toNat % 4 = 0) :=
  ⟨gathers_with (by decide +kernel), gathers_with (by decide +kernel)⟩

/-- ControlTraps: an aligned and a misaligned target, %sp of 3 and of 16,381. -/
theorem witness_ControlTraps :
    (∃ tm sl v, Gathers (calling false 3) (formA false (.reg 0)) (.ok ()) tm sl v ∧ (lowWord v.a).toNat % 4 = 0 ∧ sl.sp.toNat < 4) ∧
    (∃ tm sl v, Gathers (calling true 3) (formA true (.reg 1)) (.ok ()) tm sl v ∧ (lowWord v.a).toNat % 4 ≠ 0) ∧
    (∃ tm sl v, Gathers (calling true 3) (form0 true) (.ok ()) tm sl v ∧ sl.pc.toNat % 4 = 0 ∧ sl.sp.toNat < 4) ∧
    (∃ tm sl v, Gathers (calling false 16381) (form0 false) (.ok ()) tm sl v ∧ 16380 < sl.sp.toNat) :=
  ⟨gathers_with (by decide +kernel), gathers_with (by decide +kernel), gathers_with (by decide +kernel), gathers_with (by decide +kernel)⟩

/-- ExitEndsTheSlice: a load in flight to a register, a store in flight, and the address slice with nothing in flight; a strand that has pushed
an entry of b1, LANE, that the other has not pushed, and one that both have. -/
theorem witness_ExitEndsTheSlice :
    (∃ tm sl v, Gathers (loading false) (form0 false) (.ok ()) tm sl v ∧
      (loading false).inflight.any (fun a => a.who == tm.name (some 0) && a.sink != .none) = true) ∧
    (∃ tm sl v, Gathers stored (form0 false) (.ok ()) tm sl v ∧ ∀ a ∈ stored.inflight, a.who = tm.name (some 0) → a.sink = .none) ∧
    (∃ tm sl v, Gathers (small true) (form0 true) (.ok ()) tm sl v ∧ (∀ a ∈ (small true).inflight, a.who = tm.name none → a.sink = .none) ∧
      ∀ q ∈ List.range 8, (tm.fqueue q).entries.length ≤ (tm.fqueue q).made) ∧
    (∃ tm sl v, Gathers { pushed 1 with cur := ⟨0, 0, some 0⟩ } (form0 false) (.ok ()) tm sl v ∧ 1 < tm.bqueues.length ∧
      (tm.queueDecl true 1).kind = .lane ∧ (tm.bqueue 1).entries.length = 1 ∧
      ∀ p ∈ tm.indexed, p.2.run ≠ .exited → (tm.bqueue 1).popped + 0 < listGetD p.2.pushed 1 0) ∧
    (∃ tm sl v, Gathers (writeDst (small false) ⟨0, 0, some 0⟩ (.queue 1) .w32 5) (form0 false) (.ok ()) tm sl v ∧
      (tm.queueDecl true 1).kind = .lane ∧ (tm.bqueue 1).entries.length = 1 ∧
      ¬ ∀ p ∈ tm.indexed, p.2.run ≠ .exited → (tm.bqueue 1).popped + 0 < listGetD p.2.pushed 1 0) :=
  ⟨gathers_with (by decide +kernel), gathers_with (by decide +kernel), gathers_with (by decide +kernel), gathers_with (by decide +kernel),
    gathers_with (by decide +kernel)⟩

/-- SetCircle: masks that name both strands, one too many, and not the strand itself. -/
theorem witness_SetCircle :
    (∃ tm sl v, Gathers (small false) { team := false, len := 2, role := .none, a := .lit 3, aw := .w64 } (.ok ()) tm sl v ∧
      v.a.getLsbD (0 % 64) = true ∧ ∀ j ∈ circleOf v.a 0, j < tm.decl.strands) ∧
    (∃ tm sl v, Gathers (small false) { team := false, len := 2, role := .none, a := .lit 7, aw := .w64 } (.ok ()) tm sl v ∧
      ¬ ∀ j ∈ circleOf v.a 0, j < tm.decl.strands) ∧
    (∃ tm sl v, Gathers (small false) { team := false, len := 2, role := .none, a := .lit 2, aw := .w64 } (.ok ()) tm sl v ∧
      v.a.getLsbD (0 % 64) = false) :=
  ⟨gathers_with (by decide +kernel), gathers_with (by decide +kernel), gathers_with (by decide +kernel)⟩

/-- Strand 1 about to execute where strand 0 has arrived. -/
def joining : State :=
  { modSlice (small false) ⟨0, 0, some 0⟩ fun sl => { sl with arrived := some ⟨0, 4, 3, 5, 6⟩, run := .parked .join } with cur := ⟨0, 0, some 1⟩ }

/-- CollectivesComplete: the last strand of a circle of two, with no store in flight. -/
theorem witness_CollectivesComplete :
    ∃ tm sl v, Gathers joining (form0 false) (.ok ()) tm sl v ∧ v.pops = [] ∧ circleOf sl.circle 1 = [0, 1] ∧ sl.stepBit = false ∧
      (tm.strands[0]?.map fun x => (x.stepBit, x.arrived)) = some (false, some ⟨sl.pc, 4, sl.circle, 5, 6⟩) ∧
      (tm.strands[1]?.map Slice.stepBit) = some false ∧ (tm.strands.map Slice.run) = [.parked .join, .runnable] ∧ ∀ j ∈ circleOf sl.circle 1, storesPending joining (tm.name (some j)) = false :=
  gathers_with (by decide +kernel)

/-- A circle of one: strand 0 or 1 whose mask names itself alone, with values in its first registers. -/
def alone (j : Nat) : State :=
  { modSlice (small false) ⟨0, 0, some j⟩ fun x => { x with circle := BitVec.ofNat 64 (2 ^ j), regs := [0x3F800000, 0] ++ x.regs.drop 2 }
    with cur := ⟨0, 0, some j⟩ }

/-- CollectivesAndFencesComplete: strand 1 alone in its circle, with the operands of each form; the fences of each set with nothing in
flight, and with a store of another slice. -/
theorem witness_CollectivesAndFencesComplete :
    (∃ tm sl v, Gathers (alone 1) (form0 false) (.ok ()) tm sl v ∧ v.pops = [] ∧ sl.stepBit = false ∧ sl.run = .runnable ∧
      circleOf sl.circle 1 = [1] ∧ storesPending (alone 1) (tm.name (some 1)) = false) ∧
    (∃ tm sl v, Gathers (alone 1) ((w3 (.shfl (.reg 115) (.reg 0) (.lit 9) .pick) (.reg 115) (.reg 0) (.lit 9)).pushing .untyped) (.ok ())
      tm sl v ∧ v.pops = [] ∧ v.a = 0x3F800000) ∧
    (∃ tm sl v, Gathers (alone 1) (w2 (.vote (.reg 2) (.reg 1) .first) (.reg 2) (.reg 1)) (.ok ()) tm sl v ∧ v.pops = [] ∧ lowWord v.a = 0) ∧
    (∃ tm sl v, Gathers (alone 1) (form2 false (.reg 2) .w64 (.reg 0) .w32) (.ok ()) tm sl v ∧ v.pops = [] ∧ lowWord v.a ≠ 0) ∧
    (∃ tm sl v, Gathers (alone 1) ((w2 (.credf (.reg 2) (.reg 0) .sum) (.reg 2) (.reg 0)).pushing .f32) (.ok ()) tm sl v ∧ v.pops = []) ∧
    (∃ tm sl v, Gathers (alone 0) (w2 (.credi (.reg 0) (.reg 0) .sum) (.reg 0) (.reg 0)) (.ok ()) tm sl v ∧ v.pops = [] ∧
      circleOf sl.circle 0 = [0]) ∧ (alone 1).inflight = [] ∧
    (∃ tm sl v, Gathers { stored with cur := ⟨0, 0, some 1⟩ } (form0 false) (.ok ()) tm sl v ∧ sl.run = .runnable ∧
      (∀ x ∈ stored.inflight, x.who ≠ tm.name (some 1))) ∧
    (∃ tm sl v, Gathers (small true) (form0 true) (.ok ()) tm sl v ∧ v.pops = [] ∧ sl.stepBit = false ∧ loadsPending tm = false ∧
      (small true).inflight = []) :=
  ⟨gathers_with (by decide +kernel), gathers_with (by decide +kernel), gathers_with (by decide +kernel), gathers_with (by decide +kernel),
    gathers_with (by decide +kernel), gathers_with (by decide +kernel), by decide +kernel, gathers_with (by decide +kernel),
    gathers_with (by decide +kernel)⟩

/-- ArrivalsWaitOrBreak: the first strand of two that live, and one whose partner has ended. -/
theorem witness_ArrivalsWaitOrBreak :
    (∃ tm sl v, Gathers (small false) (form0 false) (.ok ()) tm sl v ∧ circleOf sl.circle 0 = [0, 1] ∧ sl.run = .runnable ∧
      (tm.strands.map fun x => (x.arrived, x.run)) = [(none, .runnable), (none, .runnable)]) ∧
    (∃ tm sl v, Gathers (modSlice (small false) ⟨0, 0, some 1⟩ fun x => { x with run := .exited }) (form0 false) (.ok ()) tm sl v ∧
      circleOf sl.circle 0 = [0, 1] ∧ (tm.strands.map fun x => (x.arrived, x.run)) = [(none, .runnable), (none, .exited)]) :=
  ⟨gathers_with (by decide +kernel), gathers_with (by decide +kernel)⟩

/-- Where a plain access of strand 0 goes. -/
def pathTo (s : State) (lw off : DWord) (size : Nat) (need : BitVec 6) : Option Dest :=
  (walkC s { core := 0, launch := 1, gang := 0, world := 0, off := off.toNat, size := size, need := need, req := .plain } lw off 464).toOption.map Path.dest

/-- WalkStaysInside: the last bytes of each kind of place. -/
theorem witness_WalkStaysInside : pathTo (small false) lwMain 4092 4 permR = some (.main 0x4FFC 0 false false) ∧
    pathTo (small false) (0xFF00 * 2 ^ 48) 12284 4 permW = some (.scratch 0 12284) ∧ pathTo (small false) (0xFF10 * 2 ^ 48) 460 4 permR = some (.regs 460) ∧
    pathTo (small false) (0xFF11 * 2 ^ 48) 16380 4 permR = some (.stack 16380) ∧ pathTo (small false) lwWeight 4092 4 permR = some (.weight 0 4092) ∧
    pathTo (small false) lwHost 4092 4 permR = some (.host 4092) ∧ pathTo (small false) lwFabric 4096 4 permR = some (.fabric 5 7) := by decide +kernel

/-- The small state with a watchpoint on reads of 16 bytes of main memory, for launch 1. -/
def watching : State :=
  { regs false [0, 0, 8] with
    debugSlots := [(3, { DebugSlot.idle with
      d := [0xC000000000000000, 0x100000000, 0, 0, 0, 0, 0, 0, 0]
      points := [(16, lwMain), (17, 0x0010000000000000), (18, 0x8000000000000003)] })] }

/-- AccessTraps: an offset of 2^48, an odd offset, a watched offset, and a walk that fails just past the limit. -/
theorem witness_AccessTraps :
    (∃ tm sl v, Gathers (regs false [0, 0, 0, 0x10000]) ((form3 false (.reg 0) .w32 (.reg 2) .w64 .zero .w32).pushing .untyped) (.ok ()) tm sl v ∧
      field v.a 63 48 ≠ 0) ∧
    (∃ tm sl v, Gathers (regs true [0, 0, 1]) ((form3 true (.reg 0) .w32 (.reg 2) .w64 .zero .w32).pushing .untyped) (.ok ()) tm sl v ∧
      field v.a 63 48 = 0 ∧ v.a.toNat % 4 ≠ 0 ∧ loadsPending tm = false ∧ ∀ l ∈ List.range 8, labelPending (small true) (tm.name none) l = false) ∧
    (∃ tm sl v, Gathers watching ((form3 false (.reg 0) .w32 (.reg 2) .w64 .zero .w32).pushing .untyped) (.ok ()) tm sl v ∧
      field v.a 63 48 = 0 ∧ v.a.toNat % 4 = 0 ∧ watched watching tm.launch sl.skip .read lwMain v.a 4 = true) ∧
    (∃ tm sl v, Gathers (regs false [0, 0, 4096]) ((form3 false (.reg 0) .w32 (.reg 2) .w64 .zero .w32).pushing .untyped) (.ok ()) tm sl v ∧
      watched (small false) tm.launch sl.skip .read lwMain v.a 4 = false ∧ pathTo (small false) lwMain v.a 4 permR = none) :=
  ⟨gathers_with (by decide +kernel), gathers_with (by decide +kernel), gathers_with (by decide +kernel), gathers_with (by decide +kernel)⟩

/-- The fault that a plain read of strand 0 meets on its path. -/
def faultOf (lw off : DWord) (need : BitVec 6) : Option PathFault :=
  match walkC (small false) { core := 0, launch := 1, gang := 0, world := 0, off := off.toNat, size := 4, need := need, req := .plain } lw off 464 with
  | .error f => some f
  | .ok _ => none

/-- FaultOutcomes: a miss of an empty entry at D, a violation past a limit, and a gang that is resident. -/
theorem witness_FaultOutcomes :
    (faultOf 0x0001000300000000 0 permR).map (fun f => (f.cause.cls, f.level, f.hold.isNone, f.barrier)) = some (.miss, 1, true, false) ∧
    (faultOf lwMain 4093 permR).map (fun f => (f.cause.cls, f.hold.isNone, f.barrier)) = some (.violation, true, false) ∧ Cause.cls .peerReset = .data ∧
    (gangOf (small false) 1 0).map Gang.state = some .resident ∧
    ∃ tm sl, sliceAt (small false) ⟨0, 0, some 0⟩ = some (tm, sl) ∧ tm.launch = 1 ∧ tm.gang = 0 :=
  ⟨by decide +kernel, by decide +kernel, rfl, by decide +kernel, stands_with (by decide +kernel)⟩

/-- What the path of an access of a slice that gathers delivers to. -/
def destOf (s : State) (tm : Team) (sl : Slice) (lw off : DWord) (op : MemOp) : Option Dest :=
  (accessPath s s.cur tm sl lw off op).toOption.map Path.dest

/-- The operands of a load of a word at the offset in w2. -/
def loadForm (team : Bool) (l : Fin 8) : Option (Form × Option (Fin 8) × (Vals → DWord) × (Vals → MemOp)) :=
  some ((form3 team (.reg 0) .w32 (.reg 2) .w64 .zero .w32).pushing .untyped, some l,
    fun v => BitVec.ofInt 64 (u64 v.a + s32 v.b), fun _ => loadOp 4 (.reg 0))

/-- AccessesAreAccepted: loads of the last word that each place grants, in both sets. -/
theorem witness_AccessesAreAccepted :
    memRule (.ldw (.reg 0) (.reg 2) .zero 0) = loadForm false 0 ∧ memRule (.teamLdw (.reg 0) (.reg 2) .zero 6) = loadForm true 6 ∧
    (∃ tm sl v, Gathers (regs false [0, 0, 4092]) ((form3 false (.reg 0) .w32 (.reg 2) .w64 .zero .w32).pushing .untyped) (.ok ()) tm sl v ∧
      v.pops = [] ∧ sl.stepBit = false ∧ v.a = 4092 ∧
      destOf (regs false [0, 0, 4092]) tm sl lwMain v.a (loadOp 4 (.reg 0)) = some (.main 0x4FFC 0 false false)) ∧
    (∃ tm sl v, Gathers (regs true [0, 0, 12284]) ((form3 true (.reg 0) .w32 (.reg 2) .w64 .zero .w32).pushing .untyped) (.ok ()) tm sl v ∧
      v.pops = [] ∧ sl.stepBit = false ∧ loadsPending tm = false ∧
      destOf (regs true [0, 0, 12284]) tm sl (0xFF00 * 2 ^ 48) v.a (loadOp 4 (.reg 0)) = some (.scratch 0 12284)) ∧
    (∃ tm sl v, Gathers (regs true [0, 0, 4092]) ((form3 true (.reg 0) .w32 (.reg 2) .w64 .zero .w32).pushing .untyped) (.ok ()) tm sl v ∧
      destOf (regs true [0, 0, 4092]) tm sl lwWeight v.a (loadOp 4 (.reg 0)) = some (.weight 0 4092)) :=
  ⟨rfl, rfl, gathers_with (by decide +kernel), gathers_with (by decide +kernel), gathers_with (by decide +kernel)⟩

/-- A slice whose w2 holds an offset and whose last stack line is present. -/
def windowed (off : Word) : State := slice false fun sl =>
  { sl with regs := [0, 0, off] ++ sl.regs.drop 3, stack := [(127, List.replicate 128 0)] }

/-- OwnWindows: the last word of the register window, with no write pending there, and of the stack window, with its line present. -/
theorem witness_OwnWindows :
    (∃ tm sl v, Gathers (windowed 460) ((form3 false (.reg 0) .w32 (.reg 2) .w64 .zero .w32).pushing .untyped) (.ok ()) tm sl v ∧ v.pops = [] ∧
      destOf (windowed 460) tm sl (0xFF10 * 2 ^ 48) v.a (loadOp 4 (.reg 0)) = some (.regs 460) ∧
      windowPending (windowed 460) (tm.name (some 0)) 460 4 = false) ∧
    (∃ tm sl v, Gathers (windowed 16380) ((form3 false (.reg 0) .w32 (.reg 2) .w64 .zero .w32).pushing .untyped) (.ok ()) tm sl v ∧ v.pops = [] ∧
      destOf (windowed 16380) tm sl (0xFF11 * 2 ^ 48) v.a (loadOp 4 (.reg 0)) = some (.stack 16380) ∧
      Table.get sl.stack (16380 / 128) = some (List.replicate 128 0)) :=
  ⟨gathers_with (by decide +kernel), gathers_with (by decide +kernel)⟩

/-- A slice's access goes to package 5, whose entry has a unit and no waiters, and nothing holds it. -/
def sendable (s : State) (tm : Team) (sl : Slice) (op : MemOp) (off : DWord) : Bool :=
  match accessPath s s.cur tm sl lwFabric off op with
  | .error _ => false
  | .ok p =>
    decide (p.dest = .fabric 5 7 ∧ fabricWaits s (tm.name s.cur.strand) p off = false ∧
      findTeam s tm.launch tm.gang tm.gteam = some (.active (teamIdOf s.cur), tm) ∧
      loadsBefore s s.cur (tm.name s.cur.strand) op p = false ∧
      1 ≤ (allowAt (Machine.core s s.cur.core) (allowIndex (Machine.core s s.cur.core) tm.world 5)).alw ∧
      (allowAt (Machine.core s s.cur.core) (allowIndex (Machine.core s s.cur.core) tm.world 5)).waiters = [] ∧
      ∀ y ∈ (Machine.core s s.cur.core).allow, y.2.waiters.any (Waiter.isSlice s.cur) = false)

/-- FabricAccesses: a store, a load, an atomic and a flag toward package 5, with no access in flight. -/
theorem witness_FabricAccesses : (small false).inflight = [] ∧
    memRule (.stw (.reg 0) (.reg 2) .zero 2) = some ((form3 false (.reg 0) .w32 (.reg 2) .w64 .zero .w32).as .read, some 2,
      fun v => BitVec.ofInt 64 (u64 v.a + s32 v.b), fun v => storeOp 4 v) ∧
    (∃ tm sl v, Gathers (regs false [9, 0, 4096]) ((form3 false (.reg 0) .w32 (.reg 2) .w64 .zero .w32).as .read) (.ok ()) tm sl v ∧ v.pops = [] ∧
      sl.stepBit = false ∧ sendable (regs false [9, 0, 4096]) tm sl (storeOp 4 v) v.a = true) ∧
    (∃ tm sl v, Gathers (regs false [9, 0, 4096]) ((form3 false (.reg 0) .w32 (.reg 2) .w64 .zero .w32).pushing .untyped) (.ok ()) tm sl v ∧
      sendable (regs false [9, 0, 4096]) tm sl (loadOp 4 (.reg 0)) v.a = true) ∧
    (∃ tm sl v, Gathers (regs true [9, 0, 4096]) ((form3 true (.reg 0) .w32 (.reg 2) .w64 .zero .w32).as .write) (.ok ()) tm sl v ∧
      loadsPending tm = false ∧ sendable (regs true [9, 0, 4096]) tm sl (atomicOpOf .add 4 (.reg 0) v) v.a = true) ∧
    (∃ tm sl v, Gathers (regs true [9, 0, 4096]) ((form3 true (.reg 0) .w32 (.reg 2) .w64 .zero .w32).as .read) (.ok ()) tm sl v ∧
      sendable (regs true [9, 0, 4096]) tm sl
        { kind := .flag 0, size := 4, need := permW, req := .flag, align := 4, bytes := lowBytes 4 v.d } v.a = true) :=
  ⟨by decide +kernel, rfl, gathers_with (by decide +kernel), gathers_with (by decide +kernel), gathers_with (by decide +kernel),
    gathers_with (by decide +kernel)⟩

/-- The slice's accesses in flight, by place. -/
def flying (s : State) (w : SliceName) : List Place := (s.inflight.filter fun a => a.who == w && !a.ofChannel && !a.performed).map Access.place

/-- Fences: with nothing in flight, with a store of package scope in flight, and with a write that the combiner holds. -/
theorem witness_Fences :
    (∃ tm sl v, Gathers (small true) (form0 true) (.ok ()) tm sl v ∧ loadsPending tm = false ∧ (small true).inflight = []) ∧
    (∃ tm sl v, Gathers stored (form0 false) (.ok ()) tm sl v ∧ flying stored (tm.name (some 0)) = [.main 0x4008 0 false]) ∧
    (∃ tm sl v, Gathers { small false with combiner := [⟨⟨1, 0, 0, some 0⟩, 0, 0, 64, [1], []⟩, ⟨⟨1, 0, 0, some 1⟩, 0, 1, 0, [2], []⟩] } (form0 false) (.ok ()) tm sl v ∧
      tm.name (some 0) = ⟨1, 0, 0, some 0⟩) :=
  ⟨gathers_with (by decide +kernel), gathers_with (by decide +kernel), gathers_with (by decide +kernel)⟩

/-- BarrierInstructions: barrier 0 with no store in flight and with one, a word of an undeclared barrier, and the phases at which a wait is
over and not over; a waiter that the end of a barrier's team let go on. -/
theorem witness_BarrierInstructions :
    (∃ tm sl v, Gathers (regs false [0, 1]) (w3 (.barv (.reg 2) (.reg 0) .zero) (.reg 2) (.reg 0) .zero) (.ok ()) tm sl v ∧
      (barrierAt (small false) tm.launch tm.gang 0 0).map Barrier.phase = some 0 ∧ widthOf (small false) tm.launch = 1 ∧
      sl.waits = none ∧ (barrierDecl (small false) tm.launch 0 0).1 = 1 ∧ teamEnded (small false) tm.launch tm.gang 0 = false ∧
      storesPending (small false) (tm.name (some 0)) = false ∧ storesPending stored (tm.name (some 0)) = true) ∧
    (∃ tm sl v, Gathers (regs true [1, 0]) (formAB true (.reg 0) .w32 (.reg 1) .w32) (.ok ()) tm sl v ∧ v.a = 1 ∧
      (barrierDecl (small true) tm.launch 0 1).1 = 0 ∧ (barrierAt (small true) tm.launch tm.gang 0 1).isSome = true) ∧
    (∃ tm sl v, Gathers (regs true [0, 0xFFFFFFFF]) (formAB true (.reg 0) .w32 (.reg 1) .w32) (.ok ()) tm sl v ∧
      ((0 : Word) - lowWord v.b).toNat = 1 ∧ ((0 : Word) - lowWord v.a).toNat = 0) ∧
    (∃ tm sl v, Gathers (slice true fun x => { x with waits := some (.passed (some 7)) }) (formAB true (.reg 0) .w32 (.reg 1) .w32) (.ok ())
      tm sl v ∧ sl.waits = some (.passed (some 7))) :=
  ⟨gathers_with (by decide +kernel), gathers_with (by decide +kernel), gathers_with (by decide +kernel), gathers_with (by decide +kernel)⟩

/-- The path of a message of a slice. -/
def messageGoes (s : State) (tm : Team) (sl : Slice) (lw : DWord) (n : Nat) : Bool :=
  match walkC s (askOf tm s.cur 0 n permW .amsg) lw 0 (4 * sl.regs.length) with
  | .error _ => false
  | .ok p => decide (p.dest = .fabric 5 7 ∧ fabricWaits s (tm.name s.cur.strand) p 0 = false ∧
      findTeam s tm.launch tm.gang tm.gteam = some (.active (teamIdOf s.cur), tm))

/-- A slice about to send n bytes from an offset to the fabric label. -/
def sending (n off : Word) : State := regs false [n <<< (14 : Nat), off, 0x00040000, 0x00010001]

/-- MessagesAreSent: 256 bytes that end at the last register, a message of 257 bytes, and a range one word too far. -/
theorem witness_MessagesAreSent :
    (∃ tm sl v, Gathers (sending 256 208) ((form3 false (.reg 0) .w32 (.reg 1) .w32 (.reg 2) .w64).as .read) (.ok ()) tm sl v ∧ v.pops = [] ∧
      sl.stepBit = false ∧ (sending 256 208).inflight = [] ∧ (lowWord v.d).toNat / 2 ^ 14 % 2 ^ 9 = 256 ∧ (lowWord v.a).toNat + 256 = 4 * sl.regs.length ∧
      v.b = lwFabric ∧ messageGoes (sending 256 208) tm sl v.b 256 = true ∧ storesPending (sending 256 208) (tm.name (some 0)) = false ∧
      windowPending (sending 256 208) (tm.name (some 0)) 208 256 = false) ∧
    (∃ tm sl v, Gathers (sending 257 0) ((form3 false (.reg 0) .w32 (.reg 1) .w32 (.reg 2) .w64).as .read) (.ok ()) tm sl v ∧
      (lowWord v.d).toNat / 2 ^ 14 % 2 ^ 9 = 257) ∧
    (∃ tm sl v, Gathers (sending 256 212) ((form3 false (.reg 0) .w32 (.reg 1) .w32 (.reg 2) .w64).as .read) (.ok ()) tm sl v ∧
      ¬ (lowWord v.a).toNat + 256 ≤ 4 * sl.regs.length) :=
  ⟨gathers_with (by decide +kernel), gathers_with (by decide +kernel), gathers_with (by decide +kernel)⟩

/-- The forms of QLD and QLDU, of QLDG and of QSTS on a stated queue or register. -/
def qldForm (q : Fin 8) : Form := (form3 true (.queue q) .w32 (.reg 0) .w64 (.reg 2) .w32).as (if q = 0 then .none else .queue)
def qldgForm : Form := { (form3 true (.queue 0) .w32 (.reg 0) .w64 (.queue 1) .w32).as .none with bq := true }
def qstsForm : Form := { (form3 true (.reg 2) .w32 (.reg 0) .w64 (.queue 1) .w32).as .read with bq := true }

/-- The small state with q0 at its depth. -/
def fullQueue (s : State) : State := modTeam s ⟨0, 0⟩ fun tm =>
  { tm with fqueues := tm.fqueues.set 0 ⟨2, [⟨[elem .performed 7, elem .performed 7], none, 4, some 0⟩,
    ⟨[elem .performed 8, elem .performed 8], none, 8, some 1⟩]⟩ }

/-- A state where strand 0 has pushed to b1, strand 1 has ended, and the address slice's first registers hold an offset and a stride. -/
def scattering : State :=
  let t := modSlice (small true) ⟨0, 0, some 1⟩ fun sl => { sl with run := .exited }
  let s := writeDst t ⟨0, 0, some 0⟩ (.queue 1) .w32 5
  modSlice s s.cur fun sl => { sl with regs := [16, 0, 4] ++ sl.regs.drop 3 }

/-- The elements of QSTS in that state. -/
def scattered : List (DWord × Word) := [(16, 5)]

/-- The elements of a QSTS are those, and each path delivers in package memory. -/
def scatters (tm : Team) (sl : Slice) (v : Vals) : Bool :=
  ((List.range tm.decl.strands).filterMap fun (k : Nat) => ((tm.contributions 1 0).find? fun c => c.strand == k).map fun c =>
    (BitVec.ofInt 64 (u64 v.a + k * s32 v.d), c.value)) == scattered &&
  scattered.all fun x => destOf scattering tm sl lwMain x.1 (scatterOp x.2) == some (.main 0x4010 0 false false)

/-- The small state whose address slice reads its register window by label register 4, and holds that offset and stride. -/
def windowLoad : State := regs true [8, 0, 4]

/-- Where a load of a word through label register 4 goes. -/
def windowGoes (tm : Team) (sl : Slice) (off : DWord) : Option Dest :=
  (walkC windowLoad (askOf tm windowLoad.cur off 4 permR .plain) (listGetD tm.labels 4 0) off (4 * sl.regs.length)).toOption.map Path.dest

/-- The small state whose address slice holds an offset of its stack window and a displacement, with its last stack line present. -/
def stackLoad : State := slice true fun sl => { sl with regs := [16376, 0, 4] ++ sl.regs.drop 3, stack := [(127, List.replicate 128 0)] }

/-- QueueLoadsAndLabels, the forms that trap, wait or read the stack window: a misaligned offset and stride of QLD and QLDU, and of QLDG and
QSTS; QLDU through the stack window with its line present; QLDG on a full queue. -/
theorem witness_QueueLoadsAndLabels_traps :
    (∃ tm sl v, Gathers (regs true [6, 0, 4]) (qldForm 0) (.ok ()) tm sl v ∧ v.a.toNat % 4 ≠ 0) ∧
    (∃ tm sl v, Gathers (regs true [8, 0, 6]) (qldForm 1) (.ok ()) tm sl v ∧ v.a.toNat % 4 = 0 ∧ v.b.toNat % 4 ≠ 0) ∧
    (∃ tm sl v, Gathers (regs true [18, 0, 4]) qldgForm (.ok ()) tm sl v ∧ v.a.toNat % 4 ≠ 0) ∧
    (∃ tm sl v, Gathers (regs true [16, 0, 6]) qstsForm (.ok ()) tm sl v ∧ v.a.toNat % 4 = 0 ∧ v.d.toNat % 4 ≠ 0 ∧ loadsPending tm = false) ∧
    (∃ tm sl v, Gathers (regs true [16, 0, 4]) qstsForm (.ok ()) tm sl v ∧ v.d.toNat % 4 = 0 ∧
      ¬ ∀ p ∈ tm.indexed, p.2.run ≠ .exited → (tm.bqueue 1).popped < listGetD p.2.pushed 1 0) ∧
    (∃ tm sl v, Gathers stackLoad (qldForm 1) (.ok ()) tm sl v ∧ labelAt (listGetD tm.labels 5 0) 0 = 0xFF11 ∧
      labelPending stackLoad (tm.name none) 5 = false ∧
      (walkC stackLoad (askOf tm stackLoad.cur 16380 4 permR .plain) (listGetD tm.labels 5 0) 16380 (4 * sl.regs.length)).toOption.map
        Path.dest = some (.stack 16380) ∧ BitVec.ofInt 64 (u64 v.a + s32 v.b) = 16380 ∧ (Table.get sl.stack (16380 / 128)).isSome = true) ∧
    (∃ tm sl v, Gathers (fullQueue scattering) qldgForm (.ok ()) tm sl v ∧ (tm.queueDecl false 0).depth ≤ (tm.fqueue 0).entries.length ∧
      ∀ p ∈ tm.indexed, p.2.run ≠ .exited → (tm.bqueue 1).popped < listGetD p.2.pushed 1 0) :=
  ⟨gathers_with (by decide +kernel), gathers_with (by decide +kernel), gathers_with (by decide +kernel), gathers_with (by decide +kernel),
    gathers_with (by decide +kernel), gathers_with (by decide +kernel), gathers_with (by decide +kernel)⟩

/-- QueueLoadsAndLabels: QLD and QLDU with room, QLDU through the register window, QLD on a full queue; QLDG and QSTS with a complete entry and with none; the label
instructions; QOCC of the first and the last queue. -/
theorem witness_QueueLoadsAndLabels :
    (∃ tm sl v, Gathers (regs true [8, 0, 4]) (qldForm 0) (.ok ()) tm sl v ∧ (tm.queueDecl false 0).kind = .lane ∧
      labelPending (regs true [8, 0, 4]) (tm.name none) 0 = false ∧ labelAt (listGetD tm.labels 0 0) 0 = 1 ∧ v.a.toNat % 4 = 0 ∧ v.b.toNat % 4 = 0 ∧
      (tm.fqueue 0).entries.length < (tm.queueDecl false 0).depth) ∧
    (∃ tm sl v, Gathers (regs true [8, 0, 4]) (qldForm 1) (.ok ()) tm sl v ∧ (tm.queueDecl false 1).kind = .uniform ∧
      (tm.fqueue 1).entries.length < (tm.queueDecl false 1).depth ∧ labelAt (listGetD tm.labels 0 0) 0 = 1) ∧
    (∃ tm sl v, Gathers windowLoad (qldForm 1) (.ok ()) tm sl v ∧ labelPending windowLoad (tm.name none) 4 = false ∧
      labelAt (listGetD tm.labels 4 0) 0 = 0xFF10 ∧ windowGoes tm sl (BitVec.ofInt 64 (u64 v.a + s32 v.b)) = some (.regs 12) ∧
      windowPending windowLoad (tm.name none) 12 4 = false) ∧
    (∃ tm sl v, Gathers (fullQueue (regs true [8, 0, 4])) (qldForm 0) (.ok ()) tm sl v ∧
      (tm.queueDecl false 0).depth ≤ (tm.fqueue 0).entries.length) ∧
    (∃ tm sl v, Gathers scattering qldgForm (.ok ()) tm sl v ∧ (tm.queueDecl false 0).kind = .lane ∧ (tm.queueDecl true 1).kind = .lane ∧
      (∀ p ∈ tm.indexed, p.2.run ≠ .exited → (tm.bqueue 1).popped < listGetD p.2.pushed 1 0) ∧
      (tm.fqueue 0).entries.length < (tm.queueDecl false 0).depth ∧ labelAt (listGetD tm.labels 0 0) 0 = 1) ∧
    (∃ tm sl v, Gathers (regs true [16, 0, 4]) qldgForm (.ok ()) tm sl v ∧
      ¬ ∀ p ∈ tm.indexed, p.2.run ≠ .exited → (tm.bqueue 1).popped < listGetD p.2.pushed 1 0) ∧
    (∃ tm sl v, Gathers scattering qstsForm (.ok ()) tm sl v ∧ loadsPending tm = false ∧ v.d.toNat % 4 = 0 ∧
      sl.scatter = [] ∧ scatters tm sl v = true) ∧
    (∃ tm sl v, Gathers (small true) { team := true, len := 1, role := .none, a := .reg 0, aw := .w64 } (.ok ()) tm sl v ∧
      labelPending (small true) (tm.name none) 7 = false) ∧
    (∃ tm sl v, Gathers (small true) { team := true, len := 1, d := .reg 0, dw := .w64 } (.ok ()) tm sl v ∧ v.pops = []) ∧
    (∃ tm sl v, Gathers (small true) ((form2 true (.reg 0) .w64 (.reg 2) .w32).as .both) (.ok ()) tm sl v ∧ v.pops = []) ∧
    (∃ tm sl v, Gathers (small true) (formJd true (.reg 0) .w32) (.ok ()) tm sl v ∧ (tm.queueDecl false 0).kind ≠ .undeclared ∧
      (tm.queueDecl true 1).kind ≠ .undeclared) :=
  ⟨gathers_with (by decide +kernel), gathers_with (by decide +kernel), gathers_with (by decide +kernel), gathers_with (by decide +kernel),
    gathers_with (by decide +kernel), gathers_with (by decide +kernel), gathers_with (by decide +kernel), gathers_with (by decide +kernel),
    gathers_with (by decide +kernel), gathers_with (by decide +kernel), gathers_with (by decide +kernel)⟩

/-- The form of a copy command on fixed registers. -/
def copying (wide : Bool) : Form := (form3 true (.reg 4) (if wide then .w64 else .w32) (.reg 0) .w64 (.reg 2) .w32).as .read

/-- The registers of a copy command: offset, displacement, command words. -/
def copyRegs (off cw odd : Word) : State := regs true [off, 0, 0, 0, cw, odd]

/-- The bank of core 0 in a state. -/
def bank (s : State) : Bank := (Machine.core s 0).active

/-- The small state with every Sluice channel and array entry taken. -/
def fullBank (s : State) : State := modBank s 0 fun b =>
  let c : Channel := ⟨.cpy, 0, 0, 0, 0, lwMain, 0, 0, 0, 0, false, [], [], [], .none, none, 0⟩
  let a : ArrayCmd := ⟨.mmaz, 0, 0, 0, 0, 0, 0, 0, false, 0, false, []⟩
  { b with sluice := (List.range 32).map fun n => (n, c), array := (List.range 16).map fun n => (n, a) }

/-- EngineCommands: copies and weight loads that pass, a refused word, a misaligned offset, full windows, a flag of CPYF; array commands
that pass, a refused word and a full window. -/
theorem witness_EngineCommands :
    (∃ tm sl v, Gathers (copyRegs 64 0x00030000 0) (copying false) (.ok ()) tm sl v ∧ loadsPending tm = false ∧
      labelPending (small true) (tm.name none) 0 = false ∧ copyWordBad tm .cpy v = none ∧ copyWordBad tm .cpys v = none ∧
      copyWordBad tm .wst v = none ∧ copyWordBad tm .wld v = some (1, 0x30000) ∧ (bank (small true)).freeChannel = some 0 ∧ v.a.toNat % 64 = 0 ∧
      (bank (small true)).reissue = [] ∧ (bank (small true)).copies = []) ∧
    (∃ tm sl v, Gathers (copyRegs 1 7 0) (copying false) (.ok ()) tm sl v ∧ copyWordBad tm .wld v = none ∧ v.a.toNat % 64 ≠ 0) ∧
    (∃ tm sl v, Gathers (copyRegs 64 0x00030000 0x1000) (copying true) (.ok ()) tm sl v ∧ copyWordBad tm .cpym v = none ∧
      (bank (small true)).freeEntry = some 0 ∧ copyWordBad tm .cpyf v = none ∧ flagFault (small true) tm .cpyf 0 = none) ∧
    ((bank (fullBank (small true))).freeChannel = none ∧ (bank (fullBank (small true))).freeEntry = none) ∧
    (∃ tm sl v, Gathers (regs true [0, 0, 0, 0, 0x1000]) ((form3 true (.reg 4) .w32 (.reg 0) .w32 (.reg 2) .w32).as .read) (.ok ()) tm sl v ∧
      multiplyCheck false tm v = none ∧ multiplyCheck true tm v = some (1, 0x1000)) ∧
    (∃ tm sl v, Gathers (regs true [0, 0, 0, 0, 0x1800]) ((form3 true (.reg 4) .w32 (.reg 0) .w32 (.reg 2) .w32).as .read) (.ok ()) tm sl v ∧
      multiplyCheck true tm v = none) ∧
    (∃ tm sl v, Gathers (regs true [0, 0, 8, 0, 0]) ((form3 true (.reg 4) .w32 (.reg 0) .w32 (.reg 2) .w32).as .read) (.ok ()) tm sl v ∧
      accstCheck .f32 tm v = none) ∧
    (∃ tm sl v, Gathers (regs true [0, 0, 9, 0, 0]) ((form3 true (.reg 4) .w32 (.reg 0) .w32 (.reg 2) .w32).as .read) (.ok ()) tm sl v ∧
      accstCheck .f32 tm v = some (3, 9)) ∧
    (∃ tm sl v, Gathers (regs true [0, 0, 0, 0, 1]) ((form2 true (.reg 4) .w32 (.reg 0) .w32).as .read) (.ok ()) tm sl v ∧
      acwPlainOk tm (lowWord v.d) = false ∧ acwPlainOk tm 0 = true) :=
  ⟨gathers_with (by decide +kernel), gathers_with (by decide +kernel), gathers_with (by decide +kernel), by decide +kernel,
    gathers_with (by decide +kernel), gathers_with (by decide +kernel), gathers_with (by decide +kernel), gathers_with (by decide +kernel),
    gathers_with (by decide +kernel)⟩

/-- TileInstructions: the first tile, an undeclared tile, weight slot 7, an accumulator and one too many, a bank and one too many. -/
theorem witness_TileInstructions :
    (∃ tm sl v, Gathers (regs true [0, 0, 1]) (formAB true (.reg 0) .w32 (.reg 2) .w64) (.ok ()) tm sl v ∧ v.a = 0 ∧ 0 < tm.tileChunks 0 ∧
      tm.tileChunks 0 ≤ 64 ∧ tm.tileChunks 1 = 0 ∧ v.b = 1 ∧ (tm.tile 0).map = 0) ∧
    (∃ tm sl v, Gathers (regs true [0x47]) (formA true (.reg 0)) (.ok ()) tm sl v ∧ v.a.toNat % 64 = 7 ∧ v.a.getLsbD 6 = true) ∧
    (∃ tm sl v, Gathers (regs true [0x80]) (form2 true (.reg 2) .w64 (.reg 0) .w32) (.ok ()) tm sl v ∧ v.a.getLsbD 7 = true) ∧
    (∃ tm sl v, Gathers (regs true [0]) (form2 true (.reg 2) .w32 (.reg 0) .w32) (.ok ()) tm sl v ∧ v.a.toNat < tm.decl.accs ∧ v.a.toNat < 32) ∧
    (∃ tm sl v, Gathers (regs true [32]) (form2 true (.reg 2) .w32 (.reg 0) .w32) (.ok ()) tm sl v ∧ tm.decl.accs ≤ v.a.toNat ∧
      32 ≤ v.a.toNat) ∧ (small true).service.halved = false :=
  ⟨gathers_with (by decide +kernel), gathers_with (by decide +kernel), gathers_with (by decide +kernel), gathers_with (by decide +kernel),
    gathers_with (by decide +kernel), by decide +kernel⟩

/-- Queue tables at 0x5000 and counter controls at 0x7000: queue 0 fed by LAUNCH with two slots; counter 0 of world 0, counter 1 of world 1,
counter 2 absent. -/
def withWork (s : State) : State :=
  { s with
    mem := store 0x5000 [0x6005, 0x100000000, 0] (store 0x7000 [0x800000000000, 0x1800000000000, 0] s.mem)
    regs := { s.regs with qtBase := 0x5000, cttBase := 0x7000 } }

/-- The record of a LAUNCH can be read and its queue has a free slot. -/
def launchGoes (s : State) (tm : Team) (sl : Slice) (off : DWord) : Bool :=
  match accessPath s s.cur tm sl lwMain off { kind := .record 0, size := 256, need := permR, align := 64 } with
  | .error _ => false
  | .ok p =>
    targetOf p.dest == none && !storesPending s (tm.name none) && !earlierPending s (tm.name none) (placeOf p off).scope &&
    slotFree s 0 (tm.name none) &&
    (match readRecord (keepCopies s s.cur.core p.copies) tm sl p lwMain off 4 with
      | .bytes _ bs => bs.length == 256
      | .waits _ | .stopped _ => false)

/-- The place that FLUSHR of a range reaches. -/
def flushes (s : State) (tm : Team) (sl : Slice) (off : DWord) (n : Nat) : Option Dest :=
  (walkC s (askOf tm s.cur off n permW .flushr) lwMain off (4 * sl.regs.length)).toOption.map Path.dest

/-- WorkInstructions: a queue that serves the world, and a number too great; counters that may be used, belong to another world, are absent or
out of range; a value reached and not reached; LINV at a level allowed, denied and refused; FLUSHR of nothing, of a line and misaligned. -/
theorem witness_WorkInstructions :
    (∃ tm sl v, Gathers (withWork (regs true [0, 0, 0, 0, 0])) ((form3 true (.reg 4) .w32 (.reg 0) .w64 (.reg 2) .w32).as .read) (.ok ()) tm sl v ∧
      loadsPending tm = false ∧ labelPending (small true) (tm.name none) 0 = false ∧ v.d = 0 ∧ (queueView (withWork (small true)) 0).valid = true ∧
      (queueView (withWork (small true)) 0).src = true ∧ (queueView (withWork (small true)) 0).world = tm.world ∧
      launchGoes (withWork (regs true [0, 0, 0, 0, 0])) tm sl v.a = true) ∧
    (∃ tm sl v, Gathers (regs true [0, 0, 0, 0, 256]) ((form3 true (.reg 4) .w32 (.reg 0) .w64 (.reg 2) .w32).as .read) (.ok ()) tm sl v ∧
      256 ≤ v.d.toNat) ∧
    (∃ tm sl v, Gathers (withWork (regs true [0, 1])) (formAB true (.reg 0) .w32 (.reg 1) .w32) (.ok ()) tm sl v ∧
      counterValid (withWork (small true)) v.a.toNat = true ∧ counterWorld (withWork (small true)) v.a.toNat = tm.world ∧
      storesPending (small true) (tm.name none) = false ∧ 2 ^ 31 ≤ (counterValue (small true) 0 - lowWord v.b).toNat ∧
      (counterValue (small true) 0 - 0).toNat < 2 ^ 31) ∧
    (∃ tm sl v, Gathers (withWork (regs true [1])) (formA true (.reg 0)) (.ok ()) tm sl v ∧ counterValid (withWork (small true)) v.a.toNat = true ∧
      counterWorld (withWork (small true)) v.a.toNat ≠ tm.world ∧ counterValid (withWork (small true)) 2 = false) ∧
    (∃ tm sl v, Gathers (regs true [4096]) (formA true (.reg 0)) (.ok ()) tm sl v ∧ 4096 ≤ v.a.toNat) ∧
    (∃ tm sl v, Gathers (regs true [0xFEFF]) (formA true (.reg 0)) (.ok ()) tm sl v ∧ tm.level = 0 ∧ sl.linv = 0 ∧
      anyStorePending (small true) (tm.name none) = false ∧ (small true).inflight = [] ∧ (small true).messages = [] ∧ (small true).combiner = [] ∧
      (lowWord v.a).toNat < 0xFF00) ∧
    (∃ tm sl v, Gathers (regs true [0, 0, 0, 0]) (formAB true (.reg 0) .w64 (.reg 2) .w64) (.ok ()) tm sl v ∧ v.b = 0) ∧
    (∃ tm sl v, Gathers (regs true [0, 0, 128, 0]) (formAB true (.reg 0) .w64 (.reg 2) .w64) (.ok ()) tm sl v ∧ v.b.toNat % 128 = 0 ∧
      flushes (regs true [0, 0, 128, 0]) tm sl v.a 128 = some (.main 0x4000 0 false false) ∧ (small true).lines = [] ∧
      ∀ x ∈ linesHeld (small true) 0x4000 128, lineHold (small true) x false = none) ∧
    (∃ tm sl v, Gathers (regs true [0, 0, 127, 0]) (formAB true (.reg 0) .w64 (.reg 2) .w64) (.ok ()) tm sl v ∧ v.b.toNat % 128 ≠ 0) :=
  ⟨gathers_with (by decide +kernel), gathers_with (by decide +kernel), gathers_with (by decide +kernel), gathers_with (by decide +kernel),
    gathers_with (by decide +kernel), gathers_with (by decide +kernel), gathers_with (by decide +kernel), gathers_with (by decide +kernel),
    gathers_with (by decide +kernel)⟩

/-- WorkInstructions, the tables that answer: queue 0's descriptor and tail slot, counters of three kinds, and those that a CANCEL reads; no
QSTS or weight-store unit has walked a label. -/
theorem witness_WorkInstructions_holds : queueHold (withWork (small true)) 0 = none ∧
    slotHold (withWork (small true)) 0 (queueView (withWork (small true)) 0).tail.toNat true = none ∧
    counterHold (withWork (small true)) 0 = none ∧ counterHold (withWork (small true)) 1 = none ∧
    counterHold (withWork (small true)) 2 = none ∧ cancelHold (withWork (small true)) 0 = none ∧
    (∀ p ∈ activeTeams (small true), p.2.addr.scatter = []) ∧ ∀ p ∈ (small true).cores, ∀ x ∈ p.2.active.sluice, x.2.walked = [] := by
  refine ⟨?_, ?_, ?_, ?_, ?_, ?_, ?_, ?_⟩ <;> decide +kernel

/-- The access in flight of that state, whatever follows from its number. -/
def flight (s : State) (p : Access → Bool) : Bool :=
  match accessOf s 0 with
  | none => false
  | some a => p a

/-- The small state with one access of the current slice's team in flight, changed from a stored word's. -/
def with1 (f : Access → Access) : State := { stored with inflight := stored.inflight.map f }

/-- Where that access stands: it may be performed at its line, which serves. -/
def servesAt (s : State) (k : AccessKind → Bool) : Bool :=
  flight s fun a => k a.kind && a.place == .main 0x4008 0 false && mayPerform s a && decide (lineStatus s (0x4008 / 128) false = .serves)

/-- The small state with line 9 in its set of the memory-side cache. -/
def cached : State := { small true with cacheSets := [(cacheSetOf 9, [⟨9, 0⟩])] }

/-- The small state with strand 0 parked in WAITA on a word of main memory. -/
def watcher (woken : Bool) : State := slice false fun x =>
  { x with run := .parked .address, watched := some ⟨.main 0x4000 0 false, 3, [], 8, [], woken, false⟩ }

/-- MemoryEvents: a store, an atomic and a load that may be performed; a load performed, to a register; a strand whose element has come and
one whose has not; a watched word whose line has been written and one that its core is recorded at; the next queue load; an absent line that
serves; a line that its set of the memory-side cache holds, and one that it does not. -/
theorem witness_MemoryEvents :
    servesAt stored (fun k => k == .store) = true ∧
    (stored.lines.filter fun p => homeSlice p.1 == homeSlice (0x4008 / 128)).length < 2048 ∧
    servesAt (with1 fun a => { a with kind := .atomic .add 1 0, size := 8 }) (fun k => k == .atomic .add 1 0) = true ∧
    servesAt (with1 fun a => { a with kind := .load, sink := .reg 2 }) (fun k => k == .load) = true ∧
    (∃ tm sl, sliceAt (with1 fun a => { a with kind := .load, sink := .reg 2, performed := true }) ⟨0, 0, some 0⟩ = some (tm, sl) ∧
      (namedSlice stored (tm.name (some 0))).isSome = true ∧ sl.await ≠ some 0) ∧
    (∃ tm sl, sliceAt (modSlice (queued (elem .performed 9)) ⟨0, 0, some 1⟩ fun x => { x with run := .parked (.elem 0 0 1) }) ⟨0, 0, some 1⟩ =
        some (tm, sl) ∧ sl.run = .parked (.elem 0 0 1) ∧ mayMove (small false) ⟨0, 0, some 1⟩ = true ∧
      waitOver (queued (elem .performed 9)) ⟨0, 0, some 1⟩ tm sl (.elem 0 0 1) = true ∧
      waitOver (queued (elem .performed 9)) ⟨0, 0, some 1⟩ tm sl (.elem 0 5 1) = false) ∧
    (∃ tm sl, sliceAt { watcher false with waiters := [(0x4000 / 128, [0])] } ⟨0, 0, some 0⟩ = some (tm, sl) ∧
      sl.watched = some ⟨.main 0x4000 0 false, 3, [], 8, [], false, false⟩ ∧ mayMove (watcher false) ⟨0, 0, some 0⟩ = true ∧
      Machine.recorded { watcher false with waiters := [(0x4000 / 128, [0])] } (0x4000 / 128) 0 = true ∧
      Machine.recorded (watcher false) (0x4000 / 128) 0 = false) ∧
    (∃ tm sl, sliceAt (watcher true) ⟨0, 0, some 0⟩ = some (tm, sl) ∧
      sl.watched = some ⟨.main 0x4000 0 false, 3, [], 8, [], true, false⟩ ∧ lineStatus (small false) (0x4000 / 128) false = .serves ∧
      (BitVec.ofNat 32 (natOfBytes (readKeyed (small false) 0 0x4000 4)) : Word) = 0) ∧
    (∃ tm sl, sliceAt (withTeam true fun tm => tm.addForward 1 { uniformEntry 1 0 0 with
        elems := [elem .pending 0], order := some 0 }) ⟨0, 0, none⟩ = some (tm, sl) ∧
      (nextLoad tm).map (fun x => (x.1, x.2.1, x.2.2.elems)) = some (1, 0, [elem .pending 0]) ∧ enginesMove (small true) 0 0 = true ∧
      tm.frozen = false ∧ tm.killed = false ∧ loadsHeld (small true) (tm.name none) = false ∧
      ([elem .pending 0].foldl (performElem ⟨0, 0⟩) ⟨small true, [], none⟩).hold = none ∧ nextAway (small true) ⟨0, 0⟩ tm = none) ∧
    (populated (small true) (128 * 77) 128 = true ∧ populated cached (128 * 9) 128 = true ∧
      Table.get (small true).lines 77 = none ∧ lineStatus (small true) 77 true = .serves ∧
      ((small true).lines.filter fun p => homeSlice p.1 == homeSlice 77).length < 2048) ∧
    ((∃ c ∈ Table.getD cached.cacheSets (cacheSetOf 9) [], c.line = 9) ∧ (small true).cacheSets = [] ∧ lineStatus cached 9 true = .serves ∧
      (partition (small true) 63).hits ≠ BitVec.allOnes 64) :=
  ⟨by decide +kernel, by decide +kernel, by decide +kernel, by decide +kernel, stands_with (by decide +kernel), stands_with (by decide +kernel),
    stands_with (by decide +kernel), stands_with (by decide +kernel), stands_with (by decide +kernel), by decide +kernel,
    ⟨⟨9, 0⟩, by simp [cached, Table.getD, Table.get], rfl⟩, by decide +kernel, by decide +kernel, by decide +kernel⟩

/-- The small state with an engine command, its tiles and its clock set. -/
def engined (clock : DWord) (f : Bank → Bank) : State :=
  { modBank (small true) 0 f with clock := clock }

/-- A copy of four chunks of tile 0. -/
def aCopy (started : Bool) (landed : List Nat) (fault : EngineFault) : Channel :=
  ⟨.cpy, 0, 0x00030000, 0, 0, lwMain, 64, 0, 0, 0, started, landed, [], [], fault, none, 4⟩

/-- An MMAZ of accumulator 0. -/
def anArray (started : Bool) : ArrayCmd := ⟨.mmaz, 0, 0, 0, 0, 0, 0, 0, started, 0, false, []⟩

/-- What holds of the team on core 0. -/
def teamHolds (s : State) (p : Team → Bool) : Bool :=
  match teamAt s ⟨0, 0⟩ with
  | none => false
  | some tm => p tm

/-- A unit of that copy that has walked to the weight store. -/
def aWalk : Walked := ⟨3, 64, 0, 0x1000, []⟩

/-- An access that reads unit 3 of that copy over the fabric in two packets. -/
def unitRead : Access :=
  { n := 0, who := ⟨1, 0, 0, none⟩, world := 0, core := 0, kind := .copyRead 31 3, place := .fabric 5 7 0x3F 0, size := 512, lw := lwFabric
    off := 0, pc := 0, next := 4, data := 0, bytes := [], sink := .none, pops := [], used := [], pos := 2
    trace := { c := 0, d := 0, p := 0, f := 0 }
    allowance := 31, performed := false, result := [], sent := true, parts := 2, sends := [], asked := false, lost := false, ordinal := 0
    granted := 0, payCore := 0 }

/-- TimeAndEngineEvents, units and writes: a unit of a walk, one of an access in flight, and a held write with an older one that overlaps it
through a third. -/
theorem witness_TimeAndEngineEvents_units :
    (({ aCopy true [0, 1, 2] .none with walked := [aWalk] } : Channel).walked.find? fun y => y.unit == 3) = some aWalk ∧
    unitAccess { small true with inflight := [unitRead] } ⟨1, 0, 0, none⟩ 31 3 = some unitRead ∧ 2 ≤ unitRead.parts ∧
    withOlder ⟨1, 0, 0, none⟩ (fun x => x == ⟨⟨1, 0, 0, none⟩, 0, 2, 4, [3], []⟩)
      [⟨⟨1, 0, 0, none⟩, 0, 0, 0, [1], []⟩, ⟨⟨1, 0, 0, none⟩, 0, 1, 0, [2, 2, 2, 2, 2], []⟩, ⟨⟨1, 0, 0, none⟩, 0, 2, 4, [3], []⟩] =
      [⟨⟨1, 0, 0, none⟩, 0, 0, 0, [1], []⟩, ⟨⟨1, 0, 0, none⟩, 0, 1, 0, [2, 2, 2, 2, 2], []⟩, ⟨⟨1, 0, 0, none⟩, 0, 2, 4, [3], []⟩] := by
  decide +kernel

/-- TimeAndEngineEvents: a ct of 128 and of 127 cycles; a segment; a bank; a held write; a copy that may start, one with a unit to land and one
that has landed or was killed; an array command that may start, one whose results are due and not due; a TEMPTY of a tile and of a slot; a
contribution; a team that may end. -/
theorem witness_TimeAndEngineEvents :
    (128 ≤ ((engined 128 id).clock - (Machine.core (engined 128 id) 0).ctSince).toNat ∧
      ((engined 127 id).clock - (Machine.core (engined 127 id) 0).ctSince).toNat < 128 ∧ 191 ∉ (Machine.core (small true) 0).drowsy ∧
      256 ≤ ((engined 256 id).clock - Table.getD (Machine.core (engined 256 id) 0).touched 191 0).toNat ∧
      (small true).service.halved = false) ∧
    (({ small true with combiner := [⟨⟨1, 0, 0, none⟩, 0, 0, 60, [2], []⟩, ⟨⟨1, 0, 0, none⟩, 0, 1, 64, [1], []⟩] } : State).combiner[1]? =
        some ⟨⟨1, 0, 0, none⟩, 0, 1, 64, [1], []⟩ ∧ (⟨⟨1, 0, 0, none⟩, 0, 0, 60, [2], []⟩ : Combined).touches 64 1 = false) ∧
    (copyEligible (engined 0 fun b => { b with sluice := [(31, aCopy false [] .none)] }) 0
        { bank (small true) with sluice := [(31, aCopy false [] .none)] } (aCopy false [] .none) = true ∧
      Table.get [(31, aCopy false [] .none)] 31 = some (aCopy false [] .none)) ∧
    (teamHolds (engined 0 fun b => { b with sluice := [(31, aCopy true [0, 1, 2] .none)] }) (fun tm =>
        (unitAccess (small true) (tm.name none) 31 3).isNone && (halfSent (small true) 0 31).isNone && enginesMove (small true) 0 0) = true ∧ (aCopy true [0, 1, 2] .none).units' = 4 ∧
      (aCopy true [0, 1, 2, 3] .none).landed.length = (aCopy true [0, 1, 2, 3] .none).units' ∧
      (aCopy true [] (.killed 0x21 2)).fault = .killed 0x21 2) ∧
    (arrayFree (small true) 0 (bank (small true)) = true ∧
      arrayEligible (small true) 0 { bank (small true) with array := [(15, anArray false)] } (anArray false) = true ∧
      (bank (small true)).reissue = [] ∧ (bank (small true)).copies = []) ∧
    (({ bank (small true) with array := [(15, anArray true)] } : Bank).oldest.map (fun p => p.1) = some 15 ∧
      teamHolds (small true) (fun tm => occupancy tm (anArray true) == 1) = true) ∧
    (emptyEligible (small true) 0 (bank (small true)) ⟨0, 0, 0, 0⟩ = true ∧ objSlot 0 = false ∧
      emptyEligible (small true) 0 (bank (small true)) ⟨0, 0x47, 0, 0⟩ = true ∧ objSlot 0x47 = true) ∧
    (({ small true with pledges := [⟨1, 0, 0, 0, 1, 0, 0⟩] } : State).pledges[0]?).isSome = true ∧
    teamHolds (withTeam true fun tm => { tm with
      addr := { tm.addr with run := .exited }, strands := tm.strands.map fun x => { x with run := .exited } })
      (fun tm => teamMayEnd (small true) ⟨0, 0⟩ tm) = true := by
  refine ⟨?_, ?_, ?_, ?_, ?_, ?_, ?_, ?_, ?_⟩ <;> decide +kernel

/-- The label word D 1, P 3 of the launch records. -/
def lwRecord : DWord := 0x0001000300000000

/-- A launch record of one gang of one team: code at 0, teams at 512 and a trap queue of 16 slots at 1,024 of the region of its label word;
`role` 1 for a handler template. -/
def recordWords (role : Bool) : List DWord :=
  [if role then 0x1000000000 else 0, 0, 0, 0, lwRecord, 0, 0, 0, lwRecord, 512, 0, 0, lwRecord, BitVec.ofNat 64 (16 * 2 ^ 48 + 1024)] ++
    List.replicate 18 0

/-- The same record in memory: its doublewords that are not 0. -/
def storeRecord (pa : Nat) (role : Bool) (m : Memory) : Memory :=
  store pa [if role then 0x1000000000 else 0] <| store (pa + 32) [lwRecord] <| store (pa + 64) [lwRecord, 512] <|
    store (pa + 96) [lwRecord, BitVec.ofNat 64 (16 * 2 ^ 48 + 1024)] m

/-- The small state with a team of one strand, q0 UNIFORM of 64 and q1 UNIFORM of 1 at 512 of that region, with world 0 running, queue 0 of two slots fed by the host with that record in slot 0 and its tail past it, a handler table
at 1,536 with a template at 2,048, and a save pool. -/
def distributing : State :=
  let s := small false
  { s with
    mem := store 0x4200 [0x0101000100000000, 0, 0x000000004000403F] <| store 0x4600 [lwRecord, 2048] <| storeRecord 0x4800 true <|
      store 0x5000 [0x6001, 0x100000000, 1] <| storeRecord 0x6000 false <| store 0x7000 [0x800000000000, 0x1800000000000] s.mem
    regs := { s.regs with
      qtBase := 0x5000, cttBase := 0x7000, wkey := [(0, 0x80000000), (1, 0x80000000)], spSize := 0x100000,
      handlers := [(0, (lwRecord, 1536))] } }

/-- A launch with gangs waiting. -/
def waitingLaunch (id world prio : Nat) (ds : List TeamDecl) : Launch :=
  { fetchLaunch [] with
    id := id, queue := some 0, world := world, decls := ds, prio := prio, placed := 0, eligibleSince := some 0, loaderWait := some 0
    words := recordWords false }

/-- A message of a world to its handler 0. -/
def aMessage : Packet :=
  ⟨5, 0, 0, 0, 0, false, ⟨1, 0, 0, some 0⟩, 3, 0, 7, 0, 0x3F, 0, 0, .message 0 0, 4, 0, 0, false, 0, 0, 0, 31, [1, 2, 3, 4]⟩

/-- A gang of launch 2 that stands on core 1. -/
def gang2 (st : GangState) : Gang := ⟨2, 0, 0, 0, [⟨1, 0⟩], st, [], [], 0, none, none⟩

/-- The state with launch 2 and such a gang. -/
def second (st : GangState) : State :=
  { distributing with
    launches := { waitingLaunch 2 0 0 [fetchDecl] with placed := 1 } :: distributing.launches, gangs := gang2 st :: distributing.gangs }

/-- DistributorEvents, tails and records: a tail that the free slots take and one that they do not; a record that passes and one refused. -/
theorem witness_DistributorEvents_records :
    (distributing.service.stage = 5 ∧ distributing.saltin.scrubbing = none ∧ (queueView distributing 0).valid = true ∧
      (queueView distributing 0).src = false ∧
      ((2 : Word) - (queueView distributing 0).tail).toNat = (queueView distributing 0).slots - (queueView distributing 0).used ∧
      (queueView distributing 0).slots - (queueView distributing 0).used < ((3 : Word) - (queueView distributing 0).tail).toNat ∧
      (queueView distributing 255).valid = false) ∧
    ((∀ l ∈ distributing.launches, l.queue = some 0 → l.current = false) ∧
      mainHold distributing ((queueView distributing 0).slotPa 0) 256 = none ∧
      recordWaits distributing (nextLaunch distributing).toNat (queueView distributing 0).world (queueRecord distributing 0 0) = false ∧
      waitingRecords distributing 0 = [0] ∧
      (checkRecord distributing 2 0 (queueRecord distributing 0 0) false).toOption.map (fun x => x.2.length) = some 64 ∧
      (match checkRecord distributing 2 0 (queueRecord distributing 0 1) false with
        | .error n => n
        | .ok _ => 0) = 1) := by refine ⟨?_, ?_⟩ <;> decide +kernel

/-- DistributorEvents, memory that answers: queue 0's descriptor and slots, and the STATUS and slot of a launch that completes. -/
theorem witness_DistributorEvents_holds : queueHold distributing 0 = none ∧ slotHold distributing 0 0 false = none ∧
    completeHeld distributing launch = false ∧ loaderWaits distributing (waitingLaunch 2 0 0 [fetchDecl]) = false := by
  refine ⟨?_, ?_, ?_, ?_⟩ <;> decide +kernel

/-- A state whose one open cluster has a core with a team of another world, and a gang of eight teams that waits. -/
def crowded : State :=
  { distributing with
    launches := { waitingLaunch 2 1 1 (List.replicate 8 fetchDecl) with words := (recordWords false).set 4 0 } :: distributing.launches
    service := { distributing.service with units := (List.range 47).map fun n => (n + 1, UnitState.isolated) } }

/-- DistributorEvents, placement: a gang that fits, none to place, and one of eight teams of another world that displaces the team of core 0. -/
theorem witness_DistributorEvents_placement :
    (firstPlaced { distributing with launches := waitingLaunch 2 0 0 [fetchDecl] :: distributing.launches }
        (candidates { distributing with launches := waitingLaunch 2 0 0 [fetchDecl] :: distributing.launches })).map (fun x => x.2.2) =
      some [⟨0, 1⟩] ∧
    firstPlaced distributing (candidates distributing) = none ∧
    (firstDisplacing crowded (candidates crowded)).map (fun x => x.2.2) = some [0, 1, 2, 3, 4, 5, 6, 7] := by
  refine ⟨?_, ?_, ?_⟩ <;> decide +kernel

/-- The state after launch 2's team has been loaded into the shadow bank of core 1. -/
def loaded : State :=
  match execPreload 1 (second .preloaded) with
  | .next t => t
  | .fault _ | .refused _ => State.reset

/-- The small state's bank about to leave core 0, its team as it is or killed and over. -/
def leavingTeam (dead : Bool) (tm : Team) : Team :=
  if dead then { tm with killed := true, addr := tm.addr.ended, strands := tm.strands.map Slice.ended } else tm

/-- DistributorEvents, swaps: a member to be loaded, a gang whose member stands in the shadow bank, a team to be spilled and
one to be ended, a gang to be taken out. -/
theorem witness_DistributorEvents_swaps :
    ((preloading (second .preloaded) 1).map (fun x => (x.1.launch, x.2)) = some (2, 0) ∧ (Machine.core (second .preloaded) 1).shadow = none ∧
      preloadBarred (second .preloaded) 1 (gang2 .preloaded) = false ∧
      (Machine.core (second .preloaded) 1).outgoing = none ∧ memberLoaded (second .preloaded) (gang2 .preloaded) 0 = false) ∧
    ((preloading loaded 1).map (fun x => x.2) = some 0 ∧ (Machine.core loaded 1).shadow.isSome = true ∧
      (Machine.core loaded 1).outgoing = none ∧ (launchOf loaded 2).isSome = true ∧
      ∀ k ∈ (gang2 .preloaded).live (widthOf loaded 2), memberLoaded loaded (gang2 .preloaded) k = true) ∧
    (((bank (small false)).teams.find? fun p => leaving distributing p.2 != .stays).map Prod.fst = some 0 ∧
      (bank (small false)).teams.map (fun p => leaving distributing p.2) = [.saved 0] ∧
      (bank (small false)).teams.map (fun p => leaving distributing (leavingTeam true p.2)) = [.ends]) ∧
    (gangOf (second .stopping) 2 0).map Gang.state = some .stopping := by refine ⟨?_, ?_, ?_, ?_⟩ <;> decide +kernel

/-- DistributorEvents, times and ends: a record eligible for 1 ms, a loader that has waited 10 ms; a launch that is over and one that is not; a
message whose handler is unset, and one whose handler's team may be placed. -/
theorem witness_DistributorEvents_ends :
    ((waitingLaunch 2 0 0 [fetchDecl]).current = true ∧ eligible { distributing with wall := 1050000 } (waitingLaunch 2 0 0 [fetchDecl]) = true ∧
      1050000 ≤ (waitingLaunch 2 0 0 [fetchDecl]).eligibleFor + (1050000 - 0) ∧ (waitingLaunch 2 0 0 [fetchDecl]).placed = 0) ∧
    ((launchOf distributing 1).map Launch.done = some false ∧ gangsOver distributing launch = false ∧
      gangsOver { distributing with gangs := [{ fetchGang with state := .ended }] } launch = true ∧ accessesOver distributing launch = true ∧
      (launchOf stored 1).map (accessesOver stored) = some false) ∧
    ((match handlerLaunch { distributing with regs := { distributing.regs with handlers := [] } } aMessage 0 with
        | .error (.refused r) => r
        | .error .waits | .ok _ => 0) = 17 ∧
      (handlerLaunch distributing aMessage 0).toOption.map (fun l => worldRuns distributing l.world && eligible distributing l &&
        !passedOver distributing l.prio l.id false && !loaderWaits distributing l && (frameFor distributing l).isSome &&
        decide (bestFit { distributing with loaderHandler := none } l true l.decls = some [⟨0, 1⟩])) = some true) := by
  refine ⟨?_, ?_, ?_⟩ <;> decide +kernel

/-- The small state with a record that waits for the trap queue of its launch, and an owner queue of one slot. -/
def recording : State :=
  let s := distributing
  { s with
    launches := [{ launch with words := recordWords false }], waiting := [⟨.trap 1, { lastRecord with cls := 1, nextPc := 4 }.words, .slice ⟨1, 0, 0, some 0⟩, false⟩]
    regs := { s.regs with ownerQ := ⟨0, 0x0001000000008000⟩, runControl := [(0, ⟨0, 0x100000004⟩)] } }

/-- That state once the record has been written, with its slice TRAPPED. -/
def recorded : State :=
  match execTrapRecordWrite 1 (modSlice recording ⟨0, 0, some 0⟩ fun sl => { sl with run := .trapped }) with
  | .next t => t
  | .fault _ | .refused _ => State.reset

/-- That state with a fault record in the owner queue's slot. -/
def ownerRecord : State := { recorded with posted := ⟨.owner, 0, .main 0x8000 0 false false, 4, true, true, .nobody⟩ :: recorded.posted }

/-- What the record of the owner queue's slot is answered with once its first doubleword holds a value. -/
def answered (v : DWord) : Option Bool :=
  (postedAt ownerRecord .owner (.main 0x8000 0 false false)).bind fun x => x.answer (writeDest ownerRecord (.main 0x8000 0 false false) (bytesOfDWords [v]))

/-- RecordAndHostEvents: a record that can be written into a free slot. -/
theorem witness_RecordAndHostEvents :
    ((recording.waiting.find? fun y => y.q == .trap 1).isSome = true ∧ (ringOf recording (.trap 1)).len = 16 ∧
      (ringSlot recording (.trap 1) (ringPos recording (.trap 1))).toOption = some (.main 0x4400 0 false false) ∧
      slotWord recording (.main 0x4400 0 false false) = some 0 ∧ postedAt recording (.trap 1) (.main 0x4400 0 false false) = none) := by decide +kernel

/-- RecordAndHostEvents: an acknowledged slot of a trap queue and of the owner queue. -/
theorem witness_RecordAndHostEvents_acks :
    (mayAck recorded 0 (.trap 1) = true ∧ 15 < (ringOf recorded (.trap 1)).len ∧
      (ringSlot recorded (.trap 1) 15).toOption = some (.main 0x47C0 0 false false) ∧ mayAck recorded 0 .owner = true ∧
      (ringSlot recorded .owner 0).toOption = some (.main 0x8000 0 false false) ∧ postedAt recorded .owner (.main 0x8000 0 false false) = none ∧
      answered 0 = some false ∧ answered 1 = some true) := by decide +kernel

/-- RecordAndHostEvents: commands for a slice, and a partition's values. -/
theorem witness_RecordAndHostEvents_commands :
    (recorded.service.stage = 5 ∧ recorded.saltin.scrubbing = none ∧ functionWorld recorded 3 = counterWorld recorded 0 ∧
      (runControl recorded 0).rarg.toNat % 4 = 0 ∧
      commandSlice recorded 0 (BitVec.ofNat 64 (2 ^ 60)) (runControl recorded 0).rarg = some ⟨1, 0, 0, some 0⟩ ∧
      commandSlice recorded 0 (BitVec.ofNat 64 (2 * 2 ^ 60)) (runControl recorded 0).rarg = some ⟨1, 0, 0, some 0⟩ ∧ recorded.regs.lcpBusy = false ∧
      minSum recorded - (partition recorded 63).min + 16 ≤ 16 ∧ field (0x1010 : DWord) 4 0 = 16 ∧ field (0x1010 : DWord) 12 8 = 16) := by decide +kernel

/-- RecordAndHostEvents: an invalidation that is over, and a quota that falls due. -/
theorem witness_RecordAndHostEvents_ends :
    (({ recorded with regs := { recorded.regs with lcpBusy := true } } : State).regs.lcpBusy = true ∧ recorded.inflight = [] ∧
      recorded.messages = [] ∧ recorded.combiner = [] ∧ ((List.range 64).map fun p => (partition recorded p).min).sum ≤ 16 ∧
      ({ recorded with wall := 1050000 } : State).quotaAt + 1050000 ≤ 1050000 ∧ (1049999 : Nat) < recorded.quotaAt + 1050000) := by decide +kernel

/-- RecordAndHostEvents, what the clauses ask beside: a value that says nothing to a trap record, no REGWRITE that waits, a counter whose
memory answers, and no label in use by a QSTS or a unit. -/
theorem witness_RecordAndHostEvents_rest :
    ((postedAt recorded (.trap 1) (.main 0x4400 0 false false)).map fun x =>
      x.answer (writeDest recorded (.main 0x4400 0 false false) (bytesOfDWords [1]))) = some none ∧
    (∀ p ∈ recorded.debugSlots, ∀ x, p.2.regwrite = some x → x.1 ≠ ⟨1, 0, 0, some 0⟩) ∧ counterHold recorded 4095 = none ∧
    (∀ p ∈ activeTeams recorded, p.2.addr.scatter = []) ∧ ∀ p ∈ recorded.cores, ∀ x ∈ p.2.active.sluice, x.2.walked = [] :=
  ⟨by decide +kernel, fun p h => by simp [show recorded.debugSlots = [] from by decide +kernel] at h, by decide +kernel, by decide +kernel,
    by decide +kernel⟩

/-- Where a host's read goes through a label. -/
def hostGoes (label : DWord) (off : Nat) : Option Dest :=
  (hostPath { small false with regs := { (small false).regs with hlabel := [(0, label)] } } 0 false off 4).toOption.map Path.dest

/-- What a host's read meets while the line of its label's entry is poisoned. -/
def hostStops : Option PathFault :=
  let s := { small false with regs := { (small false).regs with hlabel := [(0, 3)] }, lines := [(0x2030 / 128, ⟨0, 0, true, [0, 1, 2, 3]⟩)] }
  match hostPath s 0 false 0 4 with
  | .error f => some f
  | .ok _ => none

/-- RecordAndHostEvents: a host access that is refused, one that is held, one of host memory and one of main memory. -/
theorem witness_RecordAndHostEvents_access : hostGoes 6 0 = none ∧ hostGoes 5 4092 = some (.host 4092) ∧
    hostGoes 3 4092 = some (.main 0x4FFC 0 false false) ∧ ((linesOf 0x4FFC 4).findSome? fun l => lineHold (small false) l true) = none ∧
    hostStops.map (fun f => f.hold.isSome) = some true := by
  refine ⟨?_, ?_, ?_, ?_, ?_⟩ <;> decide +kernel

/-- A packet for package `target` through fabric label 3. -/
def aPacket (k : PacketKind) (target : Nat) (inc : Byte) : Packet :=
  ⟨5, target, 0, inc, 0, false, ⟨1, 0, 0, some 0⟩, 3, 0, 3, 4092, 0x3F, 3, 0, k, 4, 0, 0, false, 0, 0, 0, 31, [1, 2, 3, 4]⟩

/-- The small state as package 0 of a domain, with its F table where the P table stands and a scale-out window that resends twice, each
after 1,000 ns, and holds for 1 ms. -/
def fabricked : State :=
  let s := stored
  { s with
    mem := store 0x5000 [0x6000000000000000, 0, 0x00020001000003E8, 0] s.mem
    regs := { s.regs with ftBase := 0x2000, ftCount := 16, number := 0, sowBase := [0x5000], sowCount := [1] }
    saltin := { s.saltin with numbered := true }
    inflight := s.inflight.map fun a => { a with place := .fabric 5 7 0x3F 0, sent := true, parts := 1, sends := [⟨0, 0, 9, 0, 0, 0, false⟩] } }

/-- The same with that access toward the window. -/
def windowedAccess : State :=
  { fabricked with
    wall := 1050000, inflight := fabricked.inflight.map fun a => { a with place := .window 0 0 7, sends := [⟨0, 0, 9, 0, 0, 1, false⟩] } }

/-- That access toward the window with its resends used up on request. -/
def resentAccess : State :=
  { windowedAccess with inflight := windowedAccess.inflight.map fun a => { a with sends := [⟨0, 0, 9, 0, 0, 2, false⟩], asked := true } }

/-- The allowance entry that a grant raises. -/
def granting : State := modAllow (small false) 0 31 fun x => { x with alw := 30, sent := 2 }

/-- A packet that may be taken passes F to a word of main memory whose line serves. -/
def taken (p : Packet) : Bool :=
  match walkF fabricked p with
  | .error _ => false
  | .ok path => path.dest == .main 0x4FFC 0 false false &&
      ((linesOf 0x4FFC 4).findSome? fun l => lineHold (keepCopies fabricked 0 path.copies) l false).isNone

/-- FabricEvents: packets for another package and for this, of an incarnation that matches and one that does not; a store that passes F; an
access that has been sent, toward a package and a window; an entry that may be raised; links with and without a next key. -/
theorem witness_FabricEvents :
    ((aPacket .store 1 0).target ≠ fabricked.regs.number ∧ (aPacket .store 0 0).target = fabricked.regs.number ∧
      aPacket .store 0 0 ∉ fabricked.standing ∧ incarnate fabricked (aPacket .store 0 0) = true ∧
      incarnate fabricked (aPacket .store 0 1) = false) ∧
    (isBlocked fabricked (aPacket .load 0 0) = false ∧
      isBlocked fabricked (aPacket .store 0 0) = false ∧ taken (aPacket .load 0 0) = true ∧ taken (aPacket .store 0 0) = true) ∧
    (flight fabricked (fun a => a.sent && a.kind == .store && a.place == .fabric 5 7 0x3F 0 && (namedSlice fabricked a.who).isSome &&
      (a.send 0).isSome) = true ∧ (∀ p ∈ fabricked.cores, ∀ e ∈ p.2.allow, e.2.waiters = []) ∧ fabricked.late = [] ∧
      teamHolds fabricked (fun tm => tm.members.all fun x => x.2.held.isEmpty) = true ∧
      flight fabricked (fun a => faultSeen a 0x21 4 3 && !faultSeen a 0x21 5 3) = true) ∧
    (flight windowedAccess (fun a => a.sent && (a.send 0).any fun x => !x.acked && decide ((windowOf windowedAccess a).map (fun ds =>
      (field (listGetD ds 2 0) 63 48, (listGetD ds 0 0).getLsbD 62, (listGetD ds 0 0).getLsbD 61)) = some (2, true, true) ∧ x.resends < 2 ∧
        (windowOf windowedAccess a).map (fun ds => (field (listGetD ds 2 0) 31 0, field (listGetD ds 2 0) 47 32)) = some (1000, 1) ∧
        21 * (1000000 * 1) ≤ 20 * (windowedAccess.wall - x.first) ∧ 21 * 1000 ≤ 20 * (windowedAccess.wall - x.sentAt) ∧ 20 * (1049 - x.sentAt) < 21 * 1000)) = true) ∧
    (flight resentAccess (fun a => a.sent && a.asked && (a.send 0).any fun x => !x.acked && decide (x.resends = 2 ∧
      21 * 1000 ≤ 20 * (resentAccess.wall - x.sentAt) ∧
      ((windowOf resentAccess a).map fun ds => field (listGetD ds 2 0) 63 48) = some 2)) = true) ∧
    ((allowAt (Machine.core granting 0) 31).waiters = [] ∧ accessOf granting 0 = none ∧ granting.markers = [] ∧
      (allowAt (Machine.core granting 0) 31).alw < granting.regs.icred ∧ (allowAt (Machine.core granting 0) 31).cap = granting.regs.icred ∧
      1 < (allowAt (Machine.core granting 0) 31).sent) ∧
    ((linkAt (small false) 31).authFail ≠ 0xFFFFFFFF ∧ (linkAt (small false) 31).exh = false ∧ (linkAt (small false) 31).nextKey = false ∧
      (linkAt (modLink (small false) 31 fun l => { l with nextKey := true }) 31).nextKey = true ∧
      (2 ^ 64 - 2 ≤ (linkAt (modLink (small false) 15 fun l => { l with ctr := 0xFFFFFFFFFFFFFFFE }) 15).ctr.toNat)) := by
  refine ⟨?_, ?_, ?_, ?_, ?_, ?_, ?_⟩ <;> decide +kernel

/-- The small state with a command of a function first in line and bytes in its mailbox. -/
def mailed (fn : Nat) (code : Nat) (bs : List Byte) : State :=
  let s := small false
  putMail { s with
    mailboxes := [(fn, ⟨BitVec.ofNat 64 (code * 2 ^ 56), 0, []⟩)], saltin := { s.saltin with pending := [fn], svn := 64 } } fn 0 bs

/-- A command is first in line, with no scrub and no restart under way. -/
def runsCommand (s : State) (fn code : Nat) : Bool :=
  decide (s.saltin.pending.head? = some fn ∧ field (mailbox s fn).scmd 63 56 = code ∧ s.saltin.scrubbing = none ∧
    s.service.busy ≠ some firmwareUnit)

/-- A fabric-manager request's first bytes. -/
def request (op : Byte) : List Byte := [0x4F, 0x5A, 0x39, 0x46, op, 0]

/-- SaltinCommands: each command first in line for the physical function and for another, a slot that may be freed and one to be filled, a length
too great and one that reads, a version within its bounds, a scrub under way, a request that does not verify, and the fields of the requests. -/
theorem witness_SaltinCommands :
    (∀ code ∈ [1, 2, 3, 4, 5, 6], runsCommand (mailed 0 code []) 0 code = true ∧ runsCommand (mailed 3 code []) 3 code = true) ∧
    (Table.freeFrom (mailed 0 1 []).keys 1023 1 = some 1 ∧ mailNat (mailed 0 2 [0xFF, 0x03]) 0 0 2 = 1023 ∧
      ∀ p ∈ (mailed 0 2 [0xFF, 0x03]).regs.wkey, p.2.toNat % 1024 ≠ 1023) ∧
    (mailNat (mailed 0 4 [0, 0, 0, 0, 0, 0, 0, 0, 1, 0x10, 0, 0]) 0 8 4 = 4097 ∧
      mailNat (mailed 0 4 [0, 0, 0, 0, 0, 0, 0, 3, 1, 0, 0, 0]) 0 8 4 = 1 ∧
      (readCell (mailed 0 4 [0, 0, 0, 0, 0, 0, 0, 3, 1, 0, 0, 0]) (3 * 2 ^ 56)).map (fun c => c.value.isSome) = some true) ∧
    (mailNat (mailed 0 5 [64, 0]) 0 0 2 = 64 ∧ (mailed 0 5 [64, 0]).saltin.minSvn ≤ 64 ∧ 64 ≤ (mailed 0 5 [64, 0]).saltin.svn) ∧
    ({ (small false).saltin with scrubbing := some ⟨0, [], 0, 0, 0, 0⟩ } : Saltin).scrubbing.isSome = true ∧
    (runsCommand (mailed 0 7 (request 6)) 0 7 = true ∧ mailBytes (mailed 0 7 (request 6)) 0 0 4 = [0x4F, 0x5A, 0x39, 0x46] ∧
      mailNat (mailed 0 7 (request 6)) 0 4 2 = 6 ∧ requestOk (mailed 0 7 (request 6)) 0 6 = false) ∧
    (mailNat (mailed 0 7 (request 1 ++ List.replicate 18 0 ++ List.replicate 9 0xFF ++ List.replicate 7 0 ++ [0xFF, 0xFF])) 0 24 16 < 2 ^ 72 ∧
      mailNat (mailed 0 7 (request 1 ++ List.replicate 18 0 ++ List.replicate 9 0xFF ++ List.replicate 7 0 ++ [0xFF, 0xFF])) 0 40 2 = 0xFFFF) ∧
    (mailNat (mailed 0 7 (request 2 ++ List.replicate 20 0 ++ [0xFF, 0x11])) 0 26 2 = 4607 ∧
      mailNat (mailed 0 7 (request 2 ++ List.replicate 20 0 ++ [0, 0x12])) 0 26 2 = 4608 ∧
      mailNat (mailed 0 7 (request 4 ++ List.replicate 18 0 ++ [1])) 0 24 1 = 1 ∧ mailNat (mailed 0 7 (request 4)) 0 24 1 = 0 ∧
      mailNat (mailed 0 7 (request 5 ++ List.replicate 18 0 ++ [16])) 0 24 1 = 16 ∧ mailNat (mailed 0 7 (request 3)) 0 26 2 = 0) := by
  refine ⟨?_, ?_, ?_, ?_, ?_, ?_, ?_, ?_⟩ <;> decide +kernel

/-- SaltinCommands: requests whose Zero bytes are 0, and with a byte that is not. -/
theorem witness_zeros : zerosOk (mailed 0 7 (request 4 ++ List.replicate 18 0 ++ [1])) 0 4 = true ∧
    zerosOk (mailed 0 7 (request 4 ++ List.replicate 18 0 ++ [1, 1])) 0 4 = false ∧
    zerosOk (mailed 0 7 (request 4 ++ [1])) 0 4 = false := by refine ⟨?_, ?_, ?_⟩ <;> decide +kernel

/-- SaltinCommands, a request that verifies: wherever the signature check of Config accepts a request, its hypotheses are met. -/
theorem witness_requestOk (s : State) (key : List Byte) (op : Nat) (hk : s.saltin.fmKey = some (Config.sha512 key)) (hf : s.saltin.fmFullKey = key)
    (hv : Config.pssVerifies key (mailBytes s 0 0 1048) (mailBytes s 0 1048 512) = true) (hs : s.saltin.seq < mailNat s 0 8 8)
    (hn : mailNat s 0 16 2 = s.regs.number) : requestOk s 0 op = true := by
  simp [requestOk, hk, hf, hv, hs, hn]

/-- The small state with debug slot 3 attached to launch 1, and strand 0 TRAPPED. -/
def debugging : State :=
  let s := modSlice (small false) ⟨0, 0, some 0⟩ fun sl => { sl with run := .trapped }
  { s with debugSlots := [(3, { DebugSlot.idle with d := [0xC000000000000000, 0x100000000, 0, 0, 0, 0, 0, 0, 0] })] }

/-- DebuggerEvents: each command for strand 0, which is TRAPPED, and for strand 1, which is not; one with reserved bits; the address slice;
a core with slices of the launch and one with none. -/
theorem witness_DebuggerEvents :
    (debugging.service.stage = 5 ∧ debugging.saltin.scrubbing = none ∧ (listGetD (debugSlot debugging 3).d 7 0).getLsbD 58 = false ∧
      (debugSlot debugging 3).launch = some 1 ∧ debugging.regs.number < 8192 ∧
      ∀ p ∈ debugging.debugSlots, p.1 ≠ 3 → p.2.regwrite = none) ∧
    (∀ code ∈ [1, 3, 4, 5, 6, 7], dcmdOk (BitVec.ofNat 64 (code * 2 ^ 60)) = true ∧
      commandId debugging.regs.number (BitVec.ofNat 64 (code * 2 ^ 60)) = some ⟨0, 0, some 0⟩ ∧
      commandId debugging.regs.number (BitVec.ofNat 64 (code * 2 ^ 60 + 2 ^ 11)) = some ⟨0, 0, some 1⟩) ∧
    (∃ tm sl, sliceAt debugging ⟨0, 0, some 0⟩ = some (tm, sl) ∧ tm.launch = 1 ∧ sl.run = .trapped ∧ tm.frozen = false ∧ 115 < sl.regs.length ∧
      regPending debugging (tm.name (some 0)) 115 = false) ∧
    (∃ tm sl, sliceAt debugging ⟨0, 0, some 1⟩ = some (tm, sl) ∧ tm.launch = 1 ∧ sl.run ≠ .trapped) ∧
    (dcmdOk (BitVec.ofNat 64 (3 * 2 ^ 60 + 2 ^ 59)) = true ∧ commandId debugging.regs.number (BitVec.ofNat 64 (3 * 2 ^ 60 + 2 ^ 59)) =
      some ⟨0, 0, some 0⟩) ∧ dcmdOk 1 = false ∧ ((sampled debugging 1 0).map (fun x => x.1) = [0, 1, 2] ∧ sampled debugging 1 1 = [] ∧ (debugSlot debugging 3).sint ≠ 15 ∧
      Table.get (debugSlot debugging 3).lastSample 0 = none ∧ DebugSlot.idle.sint = 15) ∧
    (Table.get (debugSlot { debugging with debugSlots := [(3, { DebugSlot.idle with lastSample := [(0, (0, debugging.clock))] })] } 3).lastSample 0 =
      some (0, debugging.clock) ∧ (debugging.clock - debugging.clock).toNat < 2 ^ (6 + 15)) :=
  ⟨by decide +kernel, by decide +kernel, stands_with (by decide +kernel), stands_with (by decide +kernel), by decide +kernel, by decide,
    by decide +kernel, by decide +kernel⟩

/-- A state of a stage with units in states. -/
def serviced (stage : Nat) (units : List (Nat × UnitState)) (busy : Option Nat) : State :=
  { State.reset with service := { State.reset.service with stage := stage, units := units, busy := busy, linkSince := some 0 }, wall := 52500000 }

/-- A recovery with the state RSTAT, an image length and an address. -/
def recovering (rstat : Word) : State :=
  { State.reset with saltin := { State.reset.saltin with inRecovery := true, rstat := rstat, imgLen := 4096, imgAddr := 4096 } }

/-- ServiceEvents: the stages of boot, a recovery that awaits GO, one that fetches, one that verifies and one that runs its
image, units in each state, a link's bound, a dirty
line, a die that serves, a block and a hop in order, and a package out of scan mode. -/
theorem witness_ServiceEvents :
    (State.reset.service.stage = 1 ∧ State.reset.saltin.inRecovery = false ∧ (serviced 2 [] none).service.stage = 2 ∧
      (serviced 3 [] none).service.stage = 3 ∧ (serviced 4 [] none).service.stage = 4) ∧
    ((recovering 1).saltin.inRecovery = true ∧ wfield (recovering 1).saltin.rstat 3 0 = 1 ∧ (recovering 1).saltin.imgLen.toNat = 4096 ∧
      (recovering 1).saltin.imgAddr.toNat % 4096 = 0 ∧ wfield (recovering 2).saltin.rstat 3 0 = 2 ∧
      wfield (recovering 3).saltin.rstat 3 0 = 3 ∧ wfield (recovering 4).saltin.rstat 3 0 = 4 ∧ (recovering 4).saltin.inRecovery = true) ∧
    ((serviced 5 [] none).service.stage = 5 ∧ (serviced 5 [] none).saltin.scrubbing = none ∧
      commandUnit 0x130B000000000000 = some 47 ∧ commandUnit 0x280F000000000000 = some 79 ∧ commandUnit 0x240F000000000000 = some 63 ∧
      field (0x130B000000000000 : DWord) 63 60 = 1 ∧ field (0x280F000000000000 : DWord) 63 60 = 2 ∧
      unitState (serviced 5 [] none) 47 = .inService ∧ unitState (serviced 5 [(79, .isolated)] none) 79 = .isolated) ∧
    ((serviced 5 [(79, .testing)] (some 79)).service.busy = some 79 ∧ unitState (serviced 5 [(79, .testing)] (some 79)) 79 = .testing ∧
      drained (serviced 5 [(47, .draining)] (some 47)) 47 = true ∧ (serviced 5 [(63, .isolated)] (some 63)).service.units = [(63, .isolated)] ∧
      (serviced 5 [(63, .isolated)] (some 63)).service.linkSince = some 0 ∧ 0 + 52500000 ≤ (serviced 5 [(63, .isolated)] (some 63)).wall) ∧
    ((serviced 5 [] none).service.hotSince + 10500000 ≤ (serviced 5 [] none).wall ∧
      State.reset.wall < State.reset.service.hotSince + 10500000) ∧
    ((Table.get { small false with lines := [(128, ⟨0, 0, true, []⟩)] }.lines 128).map Line.dirty = some true ∧
      (die (small false) (1535 / 384)).stopped = false ∧ 402653183 / 64 ∉ (die (small false) 3).badBlocks ∧ 5 ∉ (die (small false) 3).hops ∧
      (small false).saltin.scanMode = false ∧ (small false).saltin.droops < 2 ^ 64 - 1) := by
  refine ⟨?_, ?_, ?_, ?_, ?_, ?_⟩ <;> decide +kernel

/-- ServiceEvents, no failure and a restart under way; what the world decides of a boot stage, a temperature and a restart is one or the
other. -/
theorem witness_ServiceEvents_world (stage n : Nat) :
    (∀ k ∈ [2, 3, 4], (serviced k [] none).service.fail = false) ∧ (serviced 5 [] (some firmwareUnit)).service.busy = some firmwareUnit ∧
    (Config.stageFails stage n = true ∨ Config.stageFails stage n = false) ∧
    (Config.cooled n = true ∨ Config.cooled n = false) ∧ (Config.restartOver n = true ∨ Config.restartOver n = false) :=
  ⟨by decide, rfl, (Bool.eq_false_or_eq_true _), (Bool.eq_false_or_eq_true _), (Bool.eq_false_or_eq_true _)⟩

/-- ServiceEvents, an image that the ROM refuses whatever Config's checks answer: its version stands below MINSVN. -/
theorem witness_imageRefused (image : List Byte) :
    imageReason { State.reset.saltin with minSvn := Config.imageSvn image + 1 } image ≠ 0 := by
  unfold imageReason
  split
  · decide
  · split
    · decide
    · simp

/-- ServiceEvents, an image that it accepts: wherever Config's signature check accepts it. -/
theorem witness_imageAccepted (image : List Byte) (h : Config.imageVerifies image = true) :
    imageReason { State.reset.saltin with hexHash := fusesOf (Config.sha512 (Config.imageKey image)), minSvn := 0, keySel := false } image = 0 := by
  simp [imageReason, Saltin.hash, h]

/-- BarrierCounts: a barrier of one arrival that three arrivals complete three times. -/
theorem witness_BarrierCounts : (1 : Nat) ≤ 1 ∧ ((⟨7, 1, 0, none, none⟩ : Barrier).contribute 1 0 3 0 0).phase = 10 ∧
    ((⟨7, 1, 0, none, none⟩ : Barrier).contribute 1 0 3 0 0).arem = 1 := by decide +kernel

end Sys2Proof.Tests
end

section
/-! SUPPORT. What a memory instruction of either set does once its operands are gathered: it issues the access that `memRule` names. -/

namespace Sys2Proof.Machine

/-! ### The operation and the offset of `memRule` as the model forms them -/

/-- Bytes of a number are its digits to the base 256 (R4). -/
theorem bytesOfNat_eq_map_range (k w : Nat) : bytesOfNat k w = (List.range k).map fun j => BitVec.ofNat 8 (w / 256 ^ j) := by
  induction k generalizing w with
  | zero => rfl
  | succ k ih =>
    rw [bytesOfNat, ih, List.range_succ_eq_map]
    simp [Function.comp_def, Nat.div_div_eq_div_mul, Nat.pow_succ']

/-- The low bytes of a doubleword are the first of its eight. -/
theorem lowBytes_eq_take {n : Nat} (hn : n ≤ 8) (x : DWord) : lowBytes n x = (bytesOfDWord x).take n := by
  rw [lowBytes, bytesOfDWord, bytesOfNat_eq_map_range, ← List.map_take, List.take_range, Nat.min_eq_left hn]

/-- A 32-bit operand as a signed number is its word's. -/
theorem s32_eq_toInt_lowWord (x : DWord) : s32 x = (lowWord x).toInt := by
  simp only [s32, u32, lowWord, BitVec.toInt, BitVec.toNat_setWidth]
  omega

/-- The offset of a plain load or store is the sum of A2 and the signed displacement (R170). -/
theorem ofInt_displacement (v : Vals) : BitVec.ofInt 64 (u64 v.a + s32 v.b) = offDisp v := by
  rw [s32_eq_toInt_lowWord, offDisp, BitVec.ofInt_add, BitVec.signExtend, u64, BitVec.ofInt_natCast, BitVec.ofNat_toNat, BitVec.setWidth_eq]

/-! ### Gathering is not held -/

/-- Own checks that pass gather what no own checks do. -/
theorem Gathers.gather_own {s : State} {f : Form} {tm : Team} {sl : Slice} {v : Vals} (hg : Gathers s f (.ok ()) tm sl v)
    {own : Except Stop Unit} (hown : own = .ok ()) : gather s s.cur.strand tm sl f own = .ok v := hown ▸ hg.2

/-- No queue load of an address slice's team is unperformed, and no label register of it is pending: `MemoryFree s i tm` is this by definition
at `i.isTeam`, stated of the set alone so that one lemma serves a family of both sets. -/
def NotHeld (s : State) (team : Bool) (tm : Team) : Prop :=
  team = true → loadsPending tm = false ∧ ∀ l, labelPending s (tm.name none) l = false

/-- Queue loads do not hold the instruction (R198). -/
theorem NotHeld.heldByLoads {s : State} {team : Bool} {tm : Team} (h : NotHeld s team tm) : heldByLoads team tm = .ok () := by
  cases team with
  | false => rfl
  | true => simp [Machine.heldByLoads, stopIf, (h rfl).1]

/-- No LDL holds the instruction (R235). -/
theorem NotHeld.heldByLabel {s : State} {team : Bool} {tm : Team} (h : NotHeld s team tm) (l : Fin 8) : heldByLabel s team tm l = .ok () := by
  cases team with
  | false => rfl
  | true => simp [Machine.heldByLabel, stopIf, (h rfl).2 l.val]

/-- Neither holds it. -/
theorem NotHeld.both {s : State} {team : Bool} {tm : Team} (h : NotHeld s team tm) (l : Fin 8) :
    (do Machine.heldByLoads team tm; Machine.heldByLabel s team tm l) = .ok () := by
  rw [h.heldByLoads, h.heldByLabel l]; rfl

/-! ### The families of memory instructions -/

section
variable {s : State} {t : Bool} {tm : Team} {sl : Slice} {v : Vals} (d : Dst) (a b : Src) (l : Fin 8)

/-- An instruction through a label register issues its access. -/
theorem memLabel_of_gathers {f : Form} {off : Vals → DWord} {op : Vals → MemOp} (hg : Gathers s f (.ok ()) tm sl v)
    (hh : NotHeld s f.team tm) :
    memLabel f l s off op = .next (issueAccess s f tm sl v (op v) (pathWord tm (some l) v) (off v)) :=
  runOwn_of_gather hg.1 (hg.gather_own (hh.both l))

/-- A load through a label register issues its access. -/
theorem loadLabel_of_gathers (n : Nat)
    (hg : Gathers s ((form3 t d (if n = 8 then .w64 else .w32) a .w64 b .w32).pushing .untyped) (.ok ()) tm sl v) (hh : NotHeld s t tm) :
    loadLabel t d a b l n s = .next (issueAccess s ((form3 t d (if n = 8 then .w64 else .w32) a .w64 b .w32).pushing .untyped) tm sl v
      (loadOp n d) (pathWord tm (some l) v) (BitVec.ofInt 64 (u64 v.a + s32 v.b))) := by
  rw [ofInt_displacement]
  simp only [loadLabel, beq_iff_eq]
  exact memLabel_of_gathers l hg hh

/-- A store through a label register issues its access. -/
theorem storeLabel_of_gathers {n : Nat} (hn : n ≤ 8)
    (hg : Gathers s ((form3 t d (if n = 8 then .w64 else .w32) a .w64 b .w32).as .read) (.ok ()) tm sl v) (hh : NotHeld s t tm) :
    storeLabel t d a b l n s = .next (issueAccess s ((form3 t d (if n = 8 then .w64 else .w32) a .w64 b .w32).as .read) tm sl v
      (storeOp n v) (pathWord tm (some l) v) (BitVec.ofInt 64 (u64 v.a + s32 v.b))) := by
  rw [ofInt_displacement, storeOp, lowBytes_eq_take hn]
  exact memLabel_of_gathers l hg hh

/-- An atomic issues its access. -/
theorem atomicLabel_of_gathers (op : AtomicOp) {n : Nat} (hn : n ≤ 8)
    (hg : Gathers s ((form3 t d (if n = 8 then .w64 else .w32) a .w64 b (if n = 8 then .w64 else .w32)).as
      (if op = .cas then .both else .write)) (.ok ()) tm sl v) (hh : NotHeld s t tm) :
    atomicLabel t d a b l op n s = .next (issueAccess s ((form3 t d (if n = 8 then .w64 else .w32) a .w64 b
      (if n = 8 then .w64 else .w32)).as (if op = .cas then .both else .write)) tm sl v
      (atomicOpOf op n d v) (pathWord tm (some l) v) v.a) := by
  rw [atomicOpOf, lowBytes_eq_take hn]
  exact memLabel_of_gathers l hg hh

/-- LDX issues its access through the label word in B2. -/
theorem loadExplicit_of_gathers (hg : Gathers s ((form3 t d .w32 a .w64 b .w64).pushing .untyped) (.ok ()) tm sl v)
    (hh : NotHeld s t tm) :
    loadExplicit t d a b s = .next (issueAccess s ((form3 t d .w32 a .w64 b .w64).pushing .untyped) tm sl v
      (loadOp 4 d) (pathWord tm none v) v.a) :=
  runOwn_of_gather hg.1 (hg.gather_own hh.heldByLoads)

/-- STX issues its access through the label word in B2. -/
theorem storeExplicit_of_gathers (hg : Gathers s ((form3 t d .w32 a .w64 b .w64).as .read) (.ok ()) tm sl v) (hh : NotHeld s t tm) :
    storeExplicit t d a b s = .next (issueAccess s ((form3 t d .w32 a .w64 b .w64).as .read) tm sl v
      (storeOp 4 v) (pathWord tm none v) v.a) := by
  rw [storeOp, lowBytes_eq_take (by decide)]
  exact runOwn_of_gather hg.1 (hg.gather_own hh.heldByLoads)

/-- LDL issues its access through the label word in B2. -/
theorem ldl_of_gathers (hg : Gathers s (formAB true a .w64 b .w64) (.ok ()) tm sl v) (hh : NotHeld s true tm) :
    execLdl a b l s = .next (issueAccess s (formAB true a .w64 b .w64) tm sl v
      { kind := .load, size := 8, need := permR, align := 8, sink := .label l.val } (pathWord tm none v) v.a) :=
  runOwn_of_gather hg.1 (hg.gather_own (hh.both l))

/-- WAITA issues its read. -/
theorem waita_of_gathers (hg : Gathers s ((form3 t d .w32 a .w64 b .w32).as .read) (.ok ()) tm sl v) (hh : NotHeld s t tm) :
    waita t d a b l s = .next (issueAccess s ((form3 t d .w32 a .w64 b .w32).as .read) tm sl v
      { kind := .wait (lowWord v.d), size := 4, need := permR, req := .waita, align := 4 } (pathWord tm (some l) v)
      (BitVec.ofInt 64 (u64 v.a + s32 v.b))) := by
  rw [ofInt_displacement]
  exact memLabel_of_gathers l hg hh

/-- FENCEF issues its flag. -/
theorem fencef_of_gathers (hg : Gathers s ((form3 t d .w32 a .w64 b .w32).as .read) (.ok ()) tm sl v) (hh : NotHeld s t tm) :
    fencef t d a b l s = .next (issueAccess s ((form3 t d .w32 a .w64 b .w32).as .read) tm sl v
      { kind := .flag 0, size := 4, need := permW, req := .flag, align := 4, bytes := lowBytes 4 v.d } (pathWord tm (some l) v)
      (BitVec.ofInt 64 (u64 v.a + s32 v.b))) := by
  rw [ofInt_displacement, lowBytes_eq_take (by decide)]
  exact memLabel_of_gathers l hg hh

end

/-- A memory instruction whose operands are gathered, and that nothing holds, issues the access that its rule names (R170). -/
theorem exec_of_memRule {i : Instr} {r : Form × Option (Fin 8) × (Vals → DWord) × (Vals → MemOp)} {s : State} {tm : Team} {sl : Slice}
    {v : Vals} (hrule : memRule i = some r) (hg : Gathers s r.1 (.ok ()) tm sl v) (hfree : MemoryFree s i tm) :
    exec i s = .next (issueAccess s r.1 tm sl v (r.2.2.2 v) (pathWord tm r.2.1 v) (r.2.2.1 v)) := by
  cases i with
  | ldw d a b l | teamLdw d a b l => cases hrule; exact loadLabel_of_gathers d a b l 4 hg hfree
  | ldd d a b l | teamLdd d a b l => cases hrule; exact loadLabel_of_gathers d a b l 8 hg hfree
  | ldh d a b l => cases hrule; exact loadLabel_of_gathers d a b l 2 hg hfree
  | ldb d a b l => cases hrule; exact loadLabel_of_gathers d a b l 1 hg hfree
  | stw d a b l | teamStw d a b l => cases hrule; exact storeLabel_of_gathers d a b l (n := 4) (by decide) hg hfree
  | std d a b l | teamStd d a b l => cases hrule; exact storeLabel_of_gathers d a b l (n := 8) (by decide) hg hfree
  | sth d a b l => cases hrule; exact storeLabel_of_gathers d a b l (n := 2) (by decide) hg hfree
  | stb d a b l => cases hrule; exact storeLabel_of_gathers d a b l (n := 1) (by decide) hg hfree
  | ldx d a b | teamLdx d a b => cases hrule; exact loadExplicit_of_gathers d a b hg hfree
  | stx d a b | teamStx d a b => cases hrule; exact storeExplicit_of_gathers d a b hg hfree
  | lde d a b l => cases hrule; exact memLabel_of_gathers l hg hfree
  | ldl a b l => cases hrule; exact ldl_of_gathers a b l hg hfree
  | aadd d a b l | teamAadd d a b l => cases hrule; exact atomicLabel_of_gathers d a b l .add (n := 4) (by decide) hg hfree
  | amax d a b l | teamAmax d a b l => cases hrule; exact atomicLabel_of_gathers d a b l .max (n := 4) (by decide) hg hfree
  | aor d a b l => cases hrule; exact atomicLabel_of_gathers d a b l .or (n := 4) (by decide) hg hfree
  | axch d a b l | teamAxch d a b l => cases hrule; exact atomicLabel_of_gathers d a b l .xch (n := 4) (by decide) hg hfree
  | acas d a b l | teamAcas d a b l => cases hrule; exact atomicLabel_of_gathers d a b l .cas (n := 4) (by decide) hg hfree
  | aaddd d a b l | teamAaddd d a b l => cases hrule; exact atomicLabel_of_gathers d a b l .add (n := 8) (by decide) hg hfree
  | acasd d a b l | teamAcasd d a b l => cases hrule; exact atomicLabel_of_gathers d a b l .cas (n := 8) (by decide) hg hfree
  | waita d a b l | teamWaita d a b l => cases hrule; exact waita_of_gathers d a b l hg hfree
  | fencef d a b l | teamFencef d a b l => cases hrule; exact fencef_of_gathers d a b l hg hfree
  | _ => cases hrule

/-- Once the stations grant its path, it takes effect there (R171, R176). -/
theorem exec_of_accessPath {i : Instr} {f : Form} {l : Option (Fin 8)} {off : Vals → DWord} {op : Vals → MemOp} {s : State} {tm : Team}
    {sl : Slice} {v : Vals} {p : Path} (hrule : memRule i = some (f, l, off, op)) (hg : Gathers s f (.ok ()) tm sl v)
    (hfree : MemoryFree s i tm) (hpath : accessPath s s.cur tm sl (pathWord tm l v) (off v) (op v) = .ok p) :
    exec i s = .next (deliverTo s f tm sl v (op v) p (pathWord tm l v) (off v)) := by
  have hexec := exec_of_memRule hrule hg hfree
  rwa [issueAccess, hpath] at hexec

end Sys2Proof.Machine
end

section
/-! CLAIM. The slice's own windows: what an access that ends in its registers or in a stack line that is present does. -/

namespace Sys2Proof.Machine

/-! ### A stack line that is present -/

/-- A mark of touched segments leaves the slices as they were. -/
@[simp] theorem sliceAt_touchSegments (s : State) (c : Nat) (segs : List Nat) (id : SliceId) :
    sliceAt (touchSegments s c segs) id = sliceAt s id := by
  have hteam : teamAt (touchSegments s c segs) (teamIdOf id) = teamAt s (teamIdOf id) := by
    unfold teamAt touchSegments
    rw [core_modCore]
    split
    next hc => rw [hc]
    next => rfl
  unfold sliceAt
  rw [hteam]

/-- The mark of a line's segment leaves the slices as they were. -/
@[simp] theorem sliceAt_touchWay (s : State) (c line : Nat) (id : SliceId) : sliceAt (touchWay s c line) id = sliceAt s id :=
  sliceAt_touchSegments ..

section
variable {s : State} {id : SliceId} {tm : Team} {sl : Slice} {o : Nat} {line : List Byte}
  (hat : sliceAt s id = some (tm, sl)) (hline : Table.get sl.stack (o / 128) = some line)
include hat hline

/-- A line that is present is ready at once, its segment marked (R223; log 102). -/
theorem openStack_of_present (write : Bool) : openStack s id o write = .ok (touchWay s id.core (o / 128), none) := by
  simp [openStack, hat, hline]

/-- A read of a line that is present. -/
theorem loadStack_of_present (size : Nat) :
    loadStack s id o size = .ok (touchWay s id.core (o / 128), (line.drop (o % 128)).take size) := by
  simp [loadStack, openStack_of_present hat hline, Except.map, hat, readStack, Table.getD, hline]

/-- A store to a line that is present. -/
theorem storeStack_of_present (bs : List Byte) :
    storeStack s id o bs = .ok (modSlice (touchWay s id.core (o / 128)) id fun x => writeStack x o bs) := by
  simp [storeStack, openStack_of_present hat hline, Except.map]

end

/-! ### Completing -/

/-- A load, LDE or LDL that read bytes from an own window, in a state after the marks of its access, has completed (R172, R173, R235). -/
def ReadCompletes (f : Form) (sl : Slice) (v : Vals) (op : MemOp) (s : State) (bs : List Byte) (t : State) : Prop :=
  (∀ x, op.kind = .element x → ∀ r, ldeResult bs x.toNat = some r → t = finish f sl v (r.bits.setWidth 64) r.flags s) ∧
  (∀ n, op.kind = .load → op.sink = .label n →
    t = finishNone v (nextPc sl.pc f.len) (modTeam s (teamIdOf s.cur) fun x => { x with labels := x.labels.set n (dwordOfBytes bs) })) ∧
  (op.kind = .load → (∀ n, op.sink ≠ .label n) → t = finish f sl v (dwordOfBytes bs) 0 s)

/-- A store is no read. -/
theorem readCompletes_of_store {op : MemOp} (hk : op.kind = .store) (f : Form) (sl : Slice) (v : Vals) (s : State) (bs : List Byte)
    (t : State) : ReadCompletes f sl v op s bs t := by
  simp [ReadCompletes, hk]

/-- The model's completion of a read by an own window. -/
theorem readCompletes_finishRead (s : State) (f : Form) (sl : Slice) (v : Vals) (op : MemOp) (tr : StationTrace) (lw off : DWord)
    (bs : List Byte) : ReadCompletes f sl v op s bs (finishRead s f sl v op tr lw off bs) := by
  refine ⟨fun x hk r hr => ?_, fun n hk hs => ?_, fun hk hs => ?_⟩
  · simp [finishRead, hk, hr]
  · simp [finishRead, hk, hs]
  · cases hsink : op.sink with
    | label n => exact absurd hsink (hs n)
    | none | reg _ | pair _ | high _ | push _ => simp [finishRead, hk, hsink]

/-! ### The two windows -/

section
variable {s : State} {f : Form} {tm : Team} {sl : Slice} {v : Vals} {op : MemOp} (tr : StationTrace) (lw off : DWord) {o : Nat}

/-- A store into registers with no write pending is done at once (R222, R224). -/
theorem ownRegs_store (hpend : windowPending s (tm.name s.cur.strand) o op.size = false) (hk : op.kind = .store) :
    ownRegs s f tm sl v op tr lw off o =
      finishNone v (nextPc sl.pc f.len) (modSlice s s.cur fun x => writeRegs x o op.bytes) := by
  simp [ownRegs, hpend, hk]

/-- Any other access to registers with no write pending completes with the bytes there (R222, R224). -/
theorem ownRegs_read (hpend : windowPending s (tm.name s.cur.strand) o op.size = false) (hk : op.kind ≠ .store) :
    ownRegs s f tm sl v op tr lw off o = finishRead s f sl v op tr lw off (readRegs sl o op.size) := by
  simp [ownRegs, hpend] -- `hk` leaves out the store's branch

/-- An access to registers with no write pending, read or store. -/
theorem ownRegs_completes (hpend : windowPending s (tm.name s.cur.strand) o op.size = false) :
    ReadCompletes f sl v op s (readRegs sl o op.size) (ownRegs s f tm sl v op tr lw off o) := by
  by_cases hk : op.kind = .store
  · exact readCompletes_of_store hk ..
  · rw [ownRegs_read tr lw off hpend hk]
    exact readCompletes_finishRead ..

variable {line : List Byte} (hat : sliceAt s s.cur = some (tm, sl)) (hline : Table.get sl.stack (o / 128) = some line)
include hat hline

/-- A store into a stack line that is present is done at once (R222, R223). -/
theorem ownStack_store (hk : op.kind = .store) :
    ownStack s f sl v op tr lw off o = finishNone v (nextPc sl.pc f.len)
      (modSlice (touchWay s s.cur.core (o / 128)) s.cur fun x => writeStack x o op.bytes) := by
  simp [ownStack, hk, storeStack_of_present hat hline]

/-- Any other access to a stack line that is present completes with the bytes there (R222, R223). -/
theorem ownStack_read (hk : op.kind ≠ .store) :
    ownStack s f sl v op tr lw off o =
      finishRead (touchWay s s.cur.core (o / 128)) f sl v op tr lw off ((line.drop (o % 128)).take op.size) := by
  simp [ownStack, loadStack_of_present hat hline] -- `hk` leaves out the store's branch

/-- An access to a stack line that is present, read or store. -/
theorem ownStack_completes :
    ReadCompletes f sl v op (touchWay s s.cur.core (o / 128)) ((line.drop (o % 128)).take op.size) (ownStack s f sl v op tr lw off o) := by
  by_cases hk : op.kind = .store
  · exact readCompletes_of_store hk ..
  · rw [ownStack_read tr lw off hat hline hk]
    exact readCompletes_finishRead ..

end

/-- Settles O43: the granted access is served by the window itself, whose completion the lemmas above give. -/
theorem ownWindows : Obligations.OwnWindows := by
  intro i f l off op s tm sl v p hrule hg hfree _ hpath _ _ reads
  have hexec := exec_of_accessPath hrule hg hfree hpath
  constructor
  · intro o hdest hpend
    rw [deliverTo, hdest] at hexec
    exact ⟨_, hexec, ownRegs_completes _ _ _ hpend, ownRegs_store _ _ _ hpend⟩
  · intro o line hdest hline
    rw [deliverTo, hdest] at hexec
    exact ⟨_, hexec, ownStack_completes _ _ _ hg.1 hline, ownStack_store _ _ _ hg.1 hline⟩

end Sys2Proof.Machine
end

section
/-! SUPPORT. Operands and the words that hold them, in both directions: the fields of a word, the modifiers that M values name, and the
operands that fit a shape of R40. -/

namespace Sys2Proof

/-! ### The fields of a first word -/

/-- A word is made of its fields (R22). -/
@[simp] theorem Raw.word_ofWord (w : Word) : (Raw.ofWord w).word = w := by
  apply BitVec.eq_of_getLsbD_eq
  intro i hi
  rw [Raw.word_getLsbD]
  simp only [Raw.ofWord, BitVec.getLsbD_extractLsb', BitVec.getLsbD_ofBool]
  split_ifs with h3 h10 h17 h24 h31
  · simp [h3]
  · simp [h10, show 3 + (i - 3) = i by omega]
  · simp [h17, show 10 + (i - 3 - 7) = i by omega]
  · simp [h24, show 17 + (i - 3 - 7 - 7) = i by omega]
  · simp [h31, show 24 + (i - 3 - 7 - 7 - 7) = i by omega]
  · obtain rfl : i = 31 := by omega
    simp

/-- A format J word is made of its set, its opcode, its one field and its IMM17 (R23). -/
@[simp] theorem rawJ_imm (r : Raw) : rawJ r.team r.op r.d r.imm = r := by
  have hm : r.imm.extractLsb' 0 3 = r.m := BitVec.extractLsb'_append_eq_right
  have hb : r.imm.extractLsb' 3 7 = r.b :=
    (BitVec.extractLsb'_append_eq_of_le (Nat.le_refl 3)).trans BitVec.extractLsb'_append_eq_right
  have ha : r.imm.extractLsb' 10 7 = r.a :=
    (BitVec.extractLsb'_append_eq_of_le (by decide)).trans BitVec.extractLsb'_append_eq_left
  simp [rawJ, hm, hb, ha]

/-! ### Modifiers (R43) -/

@[simp] theorem Rm.ofCode_eq_some {c m} : Rm.ofCode c = some m ↔ c = m.code := by revert c; cases m <;> decide
@[simp] theorem Rmu.ofCode_eq_some {c m} : Rmu.ofCode c = some m ↔ c = m.code := by revert c; cases m <;> decide
@[simp] theorem Sat.ofCode_eq_some {c m} : Sat.ofCode c = some m ↔ c = m.code := by revert c; cases m <;> decide
@[simp] theorem Sgn.ofCode_eq_some {c m} : Sgn.ofCode c = some m ↔ c = m.code := by revert c; cases m <;> decide
@[simp] theorem Icc.ofCode_eq_some {c m} : Icc.ofCode c = some m ↔ c = m.code := by revert c; cases m <;> decide
@[simp] theorem Fcc.ofCode_eq_some {c m} : Fcc.ofCode c = some m ↔ c = m.code := by revert c; cases m <;> decide
@[simp] theorem ExtMode.ofCode_eq_some {c m} : ExtMode.ofCode c = some m ↔ c = m.code := by revert c; cases m <;> decide
@[simp] theorem Ns.ofCode_eq_some {c m} : Ns.ofCode c = some m ↔ c = m.code := by revert c; cases m <;> decide
@[simp] theorem Byi.ofCode_eq_some {c m} : Byi.ofCode c = some m ↔ c = m.code := by revert c; cases m <;> decide
@[simp] theorem Byx.ofCode_eq_some {c m} : Byx.ofCode c = some m ↔ c = m.code := by revert c; cases m <;> decide
@[simp] theorem Shf.ofCode_eq_some {c m} : Shf.ofCode c = some m ↔ c = m.code := by revert c; cases m <;> decide
@[simp] theorem Vot.ofCode_eq_some {c m} : Vot.ofCode c = some m ↔ c = m.code := by revert c; cases m <;> decide
@[simp] theorem Rdf.ofCode_eq_some {c m} : Rdf.ofCode c = some m ↔ c = m.code := by revert c; cases m <;> decide
@[simp] theorem Rdi.ofCode_eq_some {c m} : Rdi.ofCode c = some m ↔ c = m.code := by revert c; cases m <;> decide
@[simp] theorem Scp.ofCode_eq_some {c m} : Scp.ofCode c = some m ↔ c = m.code := by revert c; cases m <;> decide
@[simp] theorem Pos.ofCode_eq_some {c m} : Pos.ofCode c = some m ↔ c = m.code := by revert c; cases m <;> decide
@[simp] theorem Twc.ofCode_eq_some {c m} : Twc.ofCode c = some m ↔ c = m.code := by revert c; cases m <;> decide
@[simp] theorem Afm.ofCode_eq_some {c m} : Afm.ofCode c = some m ↔ c = m.code := by revert c; cases m <;> decide
@[simp] theorem Wrk.ofCode_eq_some {c m} : Wrk.ofCode c = some m ↔ c = m.code := by revert c; cases m <;> decide
@[simp] theorem Lvl.ofCode_eq_some {c m} : Lvl.ofCode c = some m ↔ c = m.code := by revert c; cases m <;> decide

/-! ### Operands and their codes -/

/-- A D code that passes rows 6 to 8 of R34 is the code of a destination that fits. -/
theorem dstOf_fits {t : Bool} {k : Width} {c : BitVec 7} (hbad : dBad t k c = false) (hlit : isLiteralCode c = false)
    (hodd : oddCode k c = false) : (dstOf c).code = c ∧ (dstOf c).fits t k = true := by
  revert c; cases t <;> cases k <;> decide

/-- A code that is neither a literal nor 127 is that of its destination. -/
theorem code_dstOf {c : BitVec 7} (hlit : isLiteralCode c = false) (hc : c ≠ 127) : (dstOf c).code = c := by
  revert c; decide

/-- No destination has code 127. -/
theorem Dst.code_ne_127 (d : Dst) : d.code ≠ 127 := by
  cases d with
  | reg n => revert n; decide
  | queue n => revert n; decide
  | zero => decide

/-- A source whose code passes rows 6 and 8 of R34 fits. -/
theorem Src.fits_of_code {t : Bool} {k : Width} {a : Src} (hbad : srcBad t k a.code = false) (hodd : oddCode k a.code = false) :
    a.fits t k = true := by
  cases a with
  | reg n => cases k <;> revert t n <;> decide
  | queue n => cases k <;> revert t n <;> decide
  | lit w => cases k <;> simp_all [Src.code, srcBad, Src.fits]
  | lit64 v => cases k <;> simp_all [Src.code, srcBad, Src.fits]
  | zero => cases k <;> rfl

/-- A code other than 127 that has its literal words is that of the source read, and these words stand before those left (R28). -/
theorem srcOf_eq_some {c : BitVec 7} {ws rest : List Word} {a : Src} (h : srcOf c ws = some (a, rest)) (hc : c ≠ 127) :
    a.code = c ∧ ws = a.words ++ rest := by
  unfold srcOf at h
  split_ifs at h with hreg hqueue hlit hlit64
  · cases h; simp [Src.code, Src.words]
  · cases h; simp [Src.code, Src.words]; bv_omega
  · split at h <;> cases h
    exact ⟨hlit.symm, rfl⟩
  · split at h <;> cases h
    next lo hi =>
      have hlo : (hi ++ lo : BitVec 64).extractLsb' 0 32 = lo := BitVec.extractLsb'_append_eq_right
      have hhi : (hi ++ lo : BitVec 64).extractLsb' 32 32 = hi := BitVec.extractLsb'_append_eq_left
      exact ⟨hlit64.symm, by simp [Src.words, hlo, hhi]⟩
  · cases h; simp [Src.code, Src.words]; bv_omega

/-- A source is read when the literal words that its code takes are there (R28). -/
theorem srcOf_of_length {c : BitVec 7} {ws : List Word} (h : litWords c ≤ ws.length) :
    ∃ a, srcOf c ws = some (a, ws.drop (litWords c)) := by
  by_cases h124 : c = 124
  · subst h124
    match ws, h with
    | w :: rest, _ => exact ⟨.lit w, rfl⟩
  by_cases h125 : c = 125
  · subst h125
    match ws, h with
    | lo :: hi :: rest, _ => exact ⟨.lit64 (hi ++ lo), rfl⟩
  simp only [litWords, srcOf, h124, h125, if_false, List.drop_zero]
  split_ifs <;> exact ⟨_, rfl⟩

/-- A code that row 6 of R34 passes is not 127. -/
theorem ne_127_of_srcBad {t : Bool} {k : Width} {c : BitVec 7} (h : srcBad t k c = false) : c ≠ 127 := by
  rintro rfl; cases k <;> simp [srcBad] at h

/-- No word is taken by a source whose code is that of a destination, which is no literal (R25). -/
theorem Src.words_of_code_eq {a : Src} {d : Dst} (h : d.code = a.code) : a.words = [] := by
  have hlit := h ▸ Dst.not_literal d
  cases a with
  | reg n | queue n | zero => rfl
  | lit w | lit64 w => simp [Src.code, isLiteralCode] at hlit

/-- A 32-bit source whose code is that of a destination is one of format J (R25). -/
theorem Src.fitsJ_of_code_eq {t : Bool} {a : Src} {d : Dst} (h : d.code = a.code) (ha : a.fits t .w32 = true) : a.fitsJ t = true := by
  have hlit := h ▸ Dst.not_literal d
  cases a with
  | reg n | queue n | zero => exact ha
  | lit w | lit64 w => simp [Src.code, isLiteralCode] at hlit

@[simp] theorem Src.fits_no {t : Bool} {a : Src} : a.fits t .no = true ↔ a = .zero := by simp [Src.fits]
@[simp] theorem Dst.fits_no {t : Bool} {d : Dst} : d.fits t .no = true ↔ d = .zero := by simp [Dst.fits]

/-! ### Operands of a shape -/

/-- Operands that the fields of an opcode's shape can hold (R25, R27, R40, R43), what the format has no field for being 0. In format J the
one field stands for both D and A. -/
def Operands.Fits (o : Operands) (team : Bool) (sh : Shape) : Prop :=
  match sh.format with
  | .a => o.m.toNat < sh.ms ∧ o.d.fits team sh.d = true ∧ o.a.fits team sh.a = true ∧ o.b.fits team sh.b = true ∧ o.imm = 0
  | .j => o.d.code = o.a.code ∧ o.b = .zero ∧ o.m = 0 ∧ match sh.dst with
    | true => o.d.fits team sh.d = true
    | false => o.a.fits team sh.d = true

/-- The fields and the literal words that hold operands (R22, R23, R28). -/
def Operands.raw (o : Operands) (team : Bool) (op : BitVec 7) (sh : Shape) : Raw × List Word :=
  match sh.format with
  | .a => (⟨team, op, o.d.code, o.a.code, o.b.code, o.m⟩, o.a.words ++ o.b.words)
  | .j => match sh.dst with
    | true => (rawJ team op o.d.code o.imm, [])
    | false => (rawJ team op o.a.code o.imm, [])

/-- The field of a format J word. -/
theorem rawJ_d (t : Bool) (op d : BitVec 7) (x : BitVec 17) : (rawJ t op d x).d = d := rfl

/-- Operands that fit pass rows 5 to 8 of R34. -/
theorem Operands.Fits.accepted {o : Operands} {team : Bool} {sh : Shape} (ho : o.Fits team sh) (op : BitVec 7) :
    sh.reject (o.raw team op sh).1 = none := by
  obtain ⟨format, kd, ka, kb, dst, ms⟩ := sh
  cases format with
  | a =>
    obtain ⟨hm, hd, ha, hb, _⟩ := ho
    exact Shape.accepts_a _ _ o.d o.a o.b rfl rfl rfl rfl hm hd ha hb
  | j =>
    obtain ⟨hcode, _, _, hfit⟩ := ho
    cases dst with
    | true => exact Shape.accepts_jd _ _ o.d rfl rfl rfl hfit
    | false =>
      have hlit := hcode ▸ Dst.not_literal o.d
      simp [Shape.reject, Operands.raw, rawJ, Src.not_bad _ _ _ hfit, Src.not_odd _ _ _ hfit, hlit]

/-- Operands that fit are read back from the fields and the literal words that hold them (R28). -/
theorem Operands.Fits.operandsOf {o : Operands} {team : Bool} {sh : Shape} (ho : o.Fits team sh) (op : BitVec 7) (rest : List Word) :
    operandsOf sh (o.raw team op sh).1 ((o.raw team op sh).2 ++ rest) = some o := by
  obtain ⟨format, kd, ka, kb, dst, ms⟩ := sh
  obtain ⟨d, a, b, m, imm⟩ := o
  cases format with
  | a =>
    obtain ⟨_, _, _, _, rfl⟩ := ho
    simp [Sys2Proof.operandsOf, Operands.raw]
  | j =>
    obtain ⟨hcode, rfl, rfl, _⟩ := ho
    replace hcode : d.code = a.code := hcode
    have hsrc : srcOf a.code [] = some (a, []) := by
      simpa [Src.words_of_code_eq hcode] using srcOf_code a []
    have hdst : dstOf a.code = d := by rw [← hcode, dstOf_code]
    cases dst <;> simp [Sys2Proof.operandsOf, Operands.raw, rawJ_d, hcode, hsrc, hdst]

/-- Operands read from fields that pass rows 5 to 8 of R34 fit; these fields, and the literal words that are taken, hold them (R28). -/
theorem Shape.fits_of_operandsOf {sh : Shape} {r : Raw} {lits : List Word} {o : Operands} (hrej : sh.reject r = none)
    (ho : operandsOf sh r lits = some o) :
    o.Fits r.team sh ∧ ∃ taken rest, o.raw r.team r.op sh = (r, taken) ∧ lits = taken ++ rest := by
  obtain ⟨format, kd, ka, kb, dst, ms⟩ := sh
  cases format with
  | a =>
    simp only [Shape.reject] at hrej
    split_ifs at hrej with hm hd ha hb hlit hodd hoa hob
    simp only [Bool.not_eq_true] at hd ha hb hlit hodd hoa hob
    obtain ⟨hdc, hdf⟩ := dstOf_fits hd hlit hodd
    simp only [operandsOf] at ho
    split at ho
    · cases ho
    next a rest hsa =>
      split at ho
      · cases ho
      next b rest' hsb =>
        cases ho
        obtain ⟨hac, rfl⟩ := srcOf_eq_some hsa (ne_127_of_srcBad ha)
        obtain ⟨hbc, rfl⟩ := srcOf_eq_some hsb (ne_127_of_srcBad hb)
        rw [← hac] at ha hoa
        rw [← hbc] at hb hob
        exact ⟨⟨hm, hdf, Src.fits_of_code ha hoa, Src.fits_of_code hb hob, rfl⟩,
          _, rest', by rw [Operands.raw, hdc, hac, hbc], (List.append_assoc ..).symm⟩
  | j =>
    simp only [operandsOf] at ho
    split at ho
    next a rest hsa =>
      cases ho
      cases dst with
      | true =>
        simp only [Shape.reject] at hrej
        split_ifs at hrej with hlit hbad hodd
        simp only [Bool.not_eq_true] at hlit hbad hodd
        obtain ⟨hdc, hdf⟩ := dstOf_fits hbad hlit hodd
        obtain ⟨hac, _⟩ := srcOf_eq_some hsa (hdc ▸ Dst.code_ne_127 _)
        exact ⟨⟨hdc.trans hac.symm, rfl, rfl, hdf⟩, [], lits, by rw [Operands.raw, hdc, rawJ_imm], rfl⟩
      | false =>
        simp only [Shape.reject, Bool.false_eq_true, if_false] at hrej
        split_ifs at hrej with hlit hbad hodd
        simp only [Bool.not_eq_true] at hlit hbad hodd
        have h127 := ne_127_of_srcBad hbad
        obtain ⟨hac, _⟩ := srcOf_eq_some hsa h127
        rw [← hac] at hbad hodd
        exact ⟨⟨(code_dstOf hlit h127).trans hac.symm, rfl, rfl, Src.fits_of_code hbad hodd⟩,
          [], lits, by rw [Operands.raw, hac, rawJ_imm], rfl⟩
    next => cases ho

end Sys2Proof
end

section
/-! SUPPORT. The opcode map: what each opcode builds from operands that fit its shape is encoded by its row of R44 to R54, and every
instruction that a word encodes is built so. -/

namespace Sys2Proof

/-! ### From the opcode to the instruction -/

/-- A row of the opcode map encodes the instruction that it builds: the words hold the operands, and the instruction is well formed. -/
def Operands.Encodes (o : Operands) (team : Bool) (op : BitVec 7) (sh : Shape) (i : Instr) : Prop :=
  i.raw = some (o.raw team op sh) ∧ i.wellFormed = true

/-- An M field with one defined value holds 0 (R43). -/
theorem m_toNat_lt_one {m : BitVec 3} : m.toNat < 1 ↔ m = 0 := by revert m; decide

/-- Code 126 takes no literal word. -/
theorem Src.words_zero : Src.zero.words = [] := rfl

/-- A format J source that fits is one without a literal. -/
theorem Operands.Fits.fitsJ {o : Operands} {team : Bool} {sh : Shape} (ho : o.Fits team sh) (hf : sh.format = .j)
    (ha : o.a.fits team .w32 = true) : o.a.fitsJ team = true := by
  rw [Operands.Fits, hf] at ho
  exact Src.fitsJ_of_code_eq ho.1 ha

/-- Each row of the lane set's opcode map, SREAD of %circle apart (R44 to R55, R97): the case split is the map's, by opcode. -/
theorem laneBuild_encodes {op : BitVec 7} {sh : Shape} {o : Operands} {i : Instr} (hs : laneShape op.toNat = some sh)
    (hsread : op.toNat = 0x25 → o.imm ≠ 18) (ho : o.Fits false sh)
    (hb : laneBuild op.toNat o = some i) : o.Encodes false op sh i := by
  have hj := ho.fitsJ
  obtain ⟨d, a, b, m, imm⟩ := o
  obtain ⟨⟨n, hn⟩⟩ := op
  simp only [BitVec.toNat_ofFin] at *
  revert hb
  interval_cases n
  all_goals
    simp only [laneShape, laneShape0, laneShape1, laneShape2, laneShape3, laneShape4, laneShape5, laneShape6, laneShape7, Nat.reduceDiv,
      Nat.reduceMod, Option.some.injEq, reduceCtorEq] at hs
  all_goals
    subst hs
    simp only [Operands.Fits, m_toNat_lt_one, Src.fits_no, Dst.fits_no] at ho
    simp only [laneBuild, laneBuild0, laneBuild1, laneBuild2, laneBuild3, laneBuild4, laneBuild5, laneBuild6, laneBuild7, Nat.reduceDiv,
      Nat.reduceMod, Option.map_eq_some_iff, Option.some.injEq, Rm.ofCode_eq_some, Rmu.ofCode_eq_some, Sat.ofCode_eq_some, Sgn.ofCode_eq_some,
      Icc.ofCode_eq_some, Fcc.ofCode_eq_some, ExtMode.ofCode_eq_some, Ns.ofCode_eq_some, Byi.ofCode_eq_some, Byx.ofCode_eq_some,
      Shf.ofCode_eq_some, Vot.ofCode_eq_some, Rdf.ofCode_eq_some, Rdi.ofCode_eq_some, Scp.ofCode_eq_some,
      forall_exists_index, and_imp]
    intros
    casesm* _ ∧ _
    subst_vars
    constructor
    · simp only [Operands.raw, Src.words_zero, List.append_nil]; rfl
    · simp_all [Instr.wellFormed]

/-- Each row of the team set's opcode map (R44 to R55). -/
theorem teamBuild_encodes {op : BitVec 7} {sh : Shape} {o : Operands} {i : Instr} (hs : teamShape op.toNat = some sh) (ho : o.Fits true sh)
    (hb : teamBuild op.toNat o = some i) : o.Encodes true op sh i := by
  have hj := ho.fitsJ
  obtain ⟨d, a, b, m, imm⟩ := o
  obtain ⟨⟨n, hn⟩⟩ := op
  simp only [BitVec.toNat_ofFin] at *
  revert hb
  interval_cases n
  all_goals
    simp only [teamShape, teamShape0, teamShape1, teamShape2, teamShape3, teamShape4, teamShape5, teamShape6, teamShape7, Nat.reduceDiv,
      Nat.reduceMod, Option.some.injEq, reduceCtorEq] at hs
  all_goals
    subst hs
    simp only [Operands.Fits, m_toNat_lt_one, Src.fits_no, Dst.fits_no] at ho
    simp only [teamBuild, teamBuild0, teamBuild1, teamBuild2, teamBuild3, teamBuild4, teamBuild5, teamBuild6, teamBuild7, Nat.reduceDiv,
      Nat.reduceMod, Option.map_eq_some_iff, Option.some.injEq, Sat.ofCode_eq_some, Sgn.ofCode_eq_some, Icc.ofCode_eq_some, Rmu.ofCode_eq_some,
      ExtMode.ofCode_eq_some, Pos.ofCode_eq_some, Twc.ofCode_eq_some, Afm.ofCode_eq_some, Wrk.ofCode_eq_some, Lvl.ofCode_eq_some, Scp.ofCode_eq_some,
      forall_exists_index, and_imp]
    intros
    casesm* _ ∧ _
    subst_vars
    constructor
    · simp only [Operands.raw, Src.words_zero, List.append_nil]; rfl
    · simp_all [Instr.wellFormed]

/-- Each opcode of the lane set builds an instruction from every defined value of M (R43). -/
theorem laneBuild_isSome {op : BitVec 7} {sh : Shape} {o : Operands} (hs : laneShape op.toNat = some sh)
    (hm : sh.format = .a → o.m.toNat < sh.ms) : (laneBuild op.toNat o).isSome = true := by
  obtain ⟨⟨n, hn⟩⟩ := op
  simp only [BitVec.toNat_ofFin] at *
  interval_cases n
  all_goals
    simp only [laneShape, laneShape0, laneShape1, laneShape2, laneShape3, laneShape4, laneShape5, laneShape6, laneShape7,
      Nat.reduceDiv, Nat.reduceMod, Option.some.injEq, reduceCtorEq] at hs
  all_goals
    subst hs
    simp only [laneBuild, laneBuild0, laneBuild1, laneBuild2, laneBuild3, laneBuild4, laneBuild5, laneBuild6, laneBuild7,
      Nat.reduceDiv, Nat.reduceMod, Option.isSome_map, Option.isSome_some]
  all_goals
    replace hm := hm rfl
    generalize o.m = m at hm
    revert m
    decide

/-! ### From the instruction to the opcode -/

/-- Fields and literal words are those of operands that fit the shape of their opcode, and from which the opcode builds an instruction. -/
def BuiltFrom (r : Raw) (lits : List Word) (i : Instr) : Prop :=
  ∃ sh o, shapeOf r = some sh ∧ o.Fits r.team sh ∧ o.raw r.team r.op sh = (r, lits) ∧
    (if r.team then teamBuild r.op.toNat o else laneBuild r.op.toNat o) = some i

/-- An instruction of format A. -/
theorem builtFrom_a {t : Bool} {op : BitVec 7} {sh : Shape} {i : Instr} (d : Dst) (a b : Src) {m : BitVec 3} {lits : List Word}
    (hfits : d.fits t sh.d = true ∧ a.fits t sh.a = true ∧ b.fits t sh.b = true) (hm : m.toNat < sh.ms)
    (hi : (if t then teamBuild op.toNat ⟨d, a, b, m, 0⟩ else laneBuild op.toNat ⟨d, a, b, m, 0⟩) = some i)
    (hlits : a.words ++ b.words = lits) (hsread : t = true ∨ op.toNat ≠ 0x25)
    (hs : (if t then teamShape op.toNat else laneShape op.toNat) = some sh) (hf : sh.format = .a) :
    BuiltFrom ⟨t, op, d.code, a.code, b.code, m⟩ lits i := by
  obtain ⟨hd, ha, hb⟩ := hfits
  refine ⟨sh, ⟨d, a, b, m, 0⟩, shapeOf_a _ _ _ _ _ _ hsread hs, ?_, ?_, hi⟩
  · rw [Operands.Fits, hf]; exact ⟨hm, hd, ha, hb, rfl⟩
  · rw [Operands.raw, hf, hlits]

/-- The source with the code of a destination. -/
def Dst.asSrc : Dst → Src
  | .reg n => .reg n
  | .queue n => .queue n
  | .zero => .zero

/-- It has that code. -/
theorem Dst.asSrc_code (d : Dst) : d.asSrc.code = d.code := by cases d <;> rfl

/-- An instruction of format J that writes its field. -/
theorem builtFrom_jd {t : Bool} {op : BitVec 7} {sh : Shape} {i : Instr} {d : Dst} {imm : BitVec 17} (hd : d.fits t sh.d = true)
    (hi : (if t then teamBuild op.toNat ⟨d, d.asSrc, .zero, 0, imm⟩ else laneBuild op.toNat ⟨d, d.asSrc, .zero, 0, imm⟩) = some i)
    (hs : shapeOf (rawJ t op d.code imm) = some sh) (hf : sh.format = .j) (hw : sh.dst = true) :
    BuiltFrom (rawJ t op d.code imm) [] i := by
  refine ⟨sh, ⟨d, d.asSrc, .zero, 0, imm⟩, hs, ?_, ?_, hi⟩
  · rw [Operands.Fits, hf, hw]; exact ⟨d.asSrc_code.symm, rfl, rfl, hd⟩
  · rw [Operands.raw, hf, hw]; rfl

/-- An instruction of format J that reads its field, or does not use it. -/
theorem builtFrom_ja {t : Bool} {op : BitVec 7} {sh : Shape} {i : Instr} {a : Src} {imm : BitVec 17} (ha : a.fits t sh.d = true)
    (hlit : isLiteralCode a.code = false)
    (hi : (if t then teamBuild op.toNat ⟨dstOf a.code, a, .zero, 0, imm⟩ else laneBuild op.toNat ⟨dstOf a.code, a, .zero, 0, imm⟩) = some i)
    (hsread : t = true ∨ op.toNat ≠ 0x25) (hs : (if t then teamShape op.toNat else laneShape op.toNat) = some sh) (hf : sh.format = .j)
    (hw : sh.dst = false) : BuiltFrom (rawJ t op a.code imm) [] i := by
  have hcode : (dstOf a.code).code = a.code := code_dstOf hlit (ne_127_of_srcBad (Src.not_bad _ _ _ ha))
  refine ⟨sh, ⟨dstOf a.code, a, .zero, 0, imm⟩, shapeOf_rawJ _ _ _ _ hsread hs, ?_, ?_, hi⟩
  · rw [Operands.Fits, hf, hw]; exact ⟨hcode, rfl, rfl, ha⟩
  · rw [Operands.raw, hf, hw]; rfl

/-- A label register's code is one of eight (R31). -/
theorem lblCode_lt (l : Fin 8) : (lblCode l).toNat < 8 := (lblCode l).isLt

/-- Every instruction that a word encodes, where its operands fit: the groups are the operand layouts of R44 to R54. -/
theorem Instr.builtFrom (i : Instr) {r : Raw} {lits : List Word} (hr : i.raw = some (r, lits)) (hw : i.wellFormed = true) :
    BuiltFrom r lits i := by
  cases i with
  | iadd d a b m | isub d a b m | imulh d a b m | idiv d a b m | irem d a b m | imin d a b m | imax d a b m | bfx d a b m
    | dshr d a b m | icmp d a b m | dcmp d a b m | fadd d a b m | fsub d a b m | fmul d a b m | fmac d a b m | fnmac d a b m
    | fdiv d a b m | fcmp d a b m | qnt8 d a b m | qnt4 d a b m | fscl d a b m | shfl d a b m | teamIadd d a b m
    | teamIsub d a b m | teamImulh d a b m | teamIdiv d a b m | teamIrem d a b m | teamImin d a b m | teamImax d a b m
    | teamBfx d a b m | teamDshr d a b m | teamIcmp d a b m | teamDcmp d a b m | accst d a b m =>
    obtain ⟨rfl, rfl⟩ := Prod.mk.inj (Option.some.inj hr)
    simp only [Instr.wellFormed, Bool.and_eq_true] at hw
    exact builtFrom_a d a b (and_assoc.1 hw) (by cases m <;> decide) (by cases m <;> rfl) rfl (by decide) rfl rfl
  | imul d a b | imad d a b | dadd d a b | dsub d a b | dmul d a b | and d a b | or d a b | xor d a b | andn d a b | shl d a b
    | shr d a b | sar d a b | rol d a b | ror d a b | bfi d a b | dshl d a b | sel d a b | fmin d a b | fmax d a b | dq8 d a b
    | dq4 d a b | ldx d a b | stx d a b | barv d a b | amsg d a b | teamImul d a b | teamImad d a b | teamDadd d a b
    | teamDsub d a b | teamDmul d a b | teamAnd d a b | teamOr d a b | teamXor d a b | teamAndn d a b | teamShl d a b
    | teamShr d a b | teamSar d a b | teamRol d a b | teamRor d a b | teamBfi d a b | teamDshl d a b | teamSel d a b | mmat d a b
    | mmad d a b | teamBarv d a b | teamAmsg d a b | teamLdx d a b | teamStx d a b =>
    obtain ⟨rfl, rfl⟩ := Prod.mk.inj (Option.some.inj hr)
    simp only [Instr.wellFormed, Bool.and_eq_true] at hw
    exact builtFrom_a d a b (and_assoc.1 hw) (by decide) rfl rfl (by decide) rfl rfl
  | iabs d a | dneg d a | not d a | popc d a | clz d a | ctz d a | brev d a | mov d a | dmov d a | alwr d a | fabs d a | frcp d a
    | frsq d a | fexp2 d a | flog2 d a | fneg d a | fclass d a | cvtfb d a | cvt4f d a | cvt5f d a | sift d a | teamIabs d a
    | teamDneg d a | teamNot d a | teamPopc d a | teamClz d a | teamCtz d a | teamBrev d a | teamMov d a | teamDmov d a
    | teamAlwr d a | tstat d a | mmaz d a | accv d a | wref d a =>
    obtain ⟨rfl, rfl⟩ := Prod.mk.inj (Option.some.inj hr)
    simp only [Instr.wellFormed, Bool.and_eq_true] at hw
    exact builtFrom_a d a .zero ⟨hw.1, hw.2, rfl⟩ (by decide) rfl (List.append_nil _) (by decide) rfl rfl
  | ldi d imm | teamSread d imm | teamLdi d imm | qocc d imm =>
    obtain ⟨rfl, rfl⟩ := Prod.mk.inj (Option.some.inj hr)
    simp only [Instr.wellFormed] at hw
    exact builtFrom_jd hw rfl (shapeOf_rawJ _ _ _ _ (by decide) rfl) rfl rfl
  | sread d imm =>
    obtain ⟨rfl, rfl⟩ := Prod.mk.inj (Option.some.inj hr)
    simp only [Instr.wellFormed] at hw
    have hs : shapeOf (rawJ false 0x25 d.code imm) =
        some ⟨.j, if imm = 18 then .w64 else .w32, .no, .no, true, 8⟩ := by
      simp only [shapeOf, rawJ_team, rawJ_op, Raw.imm_rawJ]
      split_ifs <;> simp_all [laneShape, laneShape2]
    exact builtFrom_jd hw rfl hs rfl rfl
  | swrite a imm | bnz a imm | bz a imm | balw a imm | teamSwrite a imm | teamBnz a imm | teamBz a imm | teamBalw a imm =>
    obtain ⟨rfl, rfl⟩ := Prod.mk.inj (Option.some.inj hr)
    simp only [Instr.wellFormed] at hw
    exact builtFrom_ja (Src.fitsJ_fits _ _ hw) (Src.fitsJ_not_literal _ _ hw) rfl (by decide) rfl rfl rfl
  | cvtif d a m | cvtfi d a m | cvtdf d a m | cvtfd d a m | ext d a m | dext d a m | fsqrt d a m | frnd d a m | cvtbf d a m
    | cvte4 d a m | cvte5 d a m | bpack d a m | bunpk d a m | vote d a m | credf d a m | credi d a m | teamCvtif d a m
    | teamCvtfi d a m | teamCvtdf d a m | teamCvtfd d a m | teamExt d a m | teamDext d a m | mkl d a m =>
    obtain ⟨rfl, rfl⟩ := Prod.mk.inj (Option.some.inj hr)
    simp only [Instr.wellFormed, Bool.and_eq_true] at hw
    exact builtFrom_a d a .zero ⟨hw.1, hw.2, rfl⟩ (by cases m <;> decide) (by cases m <;> rfl) (List.append_nil _) (by decide) rfl rfl
  | bra imm | call imm | trap imm | bkpt imm | teamBra imm | teamCall imm | teamTrap imm | teamBkpt imm =>
    obtain ⟨rfl, rfl⟩ := Prod.mk.inj (Option.some.inj hr)
    exact builtFrom_ja (a := .zero) rfl rfl rfl (by decide) rfl rfl rfl
  | callr a | jmpr a | setc a | teamCallr a | teamJmpr a | tempty a =>
    obtain ⟨rfl, rfl⟩ := Prod.mk.inj (Option.some.inj hr)
    simp only [Instr.wellFormed] at hw
    exact builtFrom_a .zero a .zero ⟨rfl, hw, rfl⟩ (by decide) rfl (List.append_nil _) (by decide) rfl rfl
  | ret | exit | yield | nop | join | teamRet | teamExit | teamYield | teamNop =>
    obtain ⟨rfl, rfl⟩ := Prod.mk.inj (Option.some.inj hr)
    exact builtFrom_a .zero .zero .zero ⟨rfl, rfl, rfl⟩ (by decide) rfl rfl (by decide) rfl rfl
  | ldw d a b l | ldd d a b l | ldh d a b l | ldb d a b l | stw d a b l | std d a b l | sth d a b l | stb d a b l | lde d a b l
    | aadd d a b l | amax d a b l | aor d a b l | axch d a b l | acas d a b l | aaddd d a b l | acasd d a b l | fencef d a b l
    | waita d a b l | qld d a b l | qldu d a b l | qldg d a b l | qsts d a b l | cpy d a b l | cpym d a b l | cpys d a b l
    | wld d a b l | wst d a b l | cpyf d a b l | teamWaita d a b l | launch d a b l | teamLdw d a b l | teamLdd d a b l
    | teamStw d a b l | teamStd d a b l | teamAadd d a b l | teamAmax d a b l | teamAxch d a b l | teamAcas d a b l
    | teamAaddd d a b l | teamAcasd d a b l | teamFencef d a b l =>
    obtain ⟨rfl, rfl⟩ := Prod.mk.inj (Option.some.inj hr)
    simp only [Instr.wellFormed, Bool.and_eq_true] at hw
    exact builtFrom_a d a b (and_assoc.1 hw) (lblCode_lt l) rfl rfl (by decide) rfl rfl
  | fence m | teamFence m =>
    obtain ⟨rfl, rfl⟩ := Prod.mk.inj (Option.some.inj hr)
    exact builtFrom_a .zero .zero .zero ⟨rfl, rfl, rfl⟩ (by cases m <;> decide) (by cases m <;> rfl) rfl (by decide) rfl rfl
  | barw a b | teamBarw a b | cnta a b | cntw a b =>
    obtain ⟨rfl, rfl⟩ := Prod.mk.inj (Option.some.inj hr)
    simp only [Instr.wellFormed, Bool.and_eq_true] at hw
    exact builtFrom_a .zero a b ⟨rfl, hw.1, hw.2⟩ (by decide) rfl rfl (by decide) rfl rfl
  | setl a l =>
    obtain ⟨rfl, rfl⟩ := Prod.mk.inj (Option.some.inj hr)
    simp only [Instr.wellFormed] at hw
    exact builtFrom_a .zero a .zero ⟨rfl, hw, rfl⟩ (lblCode_lt l) rfl (List.append_nil _) (by decide) rfl rfl
  | getl d l =>
    obtain ⟨rfl, rfl⟩ := Prod.mk.inj (Option.some.inj hr)
    simp only [Instr.wellFormed] at hw
    exact builtFrom_a d .zero .zero ⟨hw, rfl, rfl⟩ (lblCode_lt l) rfl rfl (by decide) rfl rfl
  | ldl a b l | flushr a b l =>
    obtain ⟨rfl, rfl⟩ := Prod.mk.inj (Option.some.inj hr)
    simp only [Instr.wellFormed, Bool.and_eq_true] at hw
    exact builtFrom_a .zero a b ⟨rfl, hw.1, hw.2⟩ (lblCode_lt l) rfl rfl (by decide) rfl rfl
  | twait a b m =>
    obtain ⟨rfl, rfl⟩ := Prod.mk.inj (Option.some.inj hr)
    simp only [Instr.wellFormed, Bool.and_eq_true] at hw
    exact builtFrom_a .zero a b ⟨rfl, hw.1, hw.2⟩ (by cases m <;> decide) (by cases m <;> rfl) rfl (by decide) rfl rfl
  | cancel a m | linv a m =>
    obtain ⟨rfl, rfl⟩ := Prod.mk.inj (Option.some.inj hr)
    simp only [Instr.wellFormed] at hw
    exact builtFrom_a .zero a .zero ⟨rfl, hw, rfl⟩ (by cases m <;> decide) (by cases m <;> rfl) (List.append_nil _) (by decide) rfl rfl
  | _ => cases hr

end Sys2Proof
end

section
/-! CLAIM. Decoding and encoding are inverse to each other (R21 to R34, R44 to R55). -/

namespace Sys2Proof

/-! ### The words of an instruction by its fields -/

section
variable {i : Instr} {r : Raw} {lits : List Word} (h : i.raw = some (r, lits))
include h

/-- The words of an instruction. -/
theorem encode_of_raw : encode i = r.word :: lits := by simp [encode, h]

/-- The set of an instruction. -/
theorem Instr.isTeam_of_raw : i.isTeam = r.team := by simp [Instr.isTeam, h]

/-- The length of an instruction. -/
theorem Instr.length_of_raw : i.length = 1 + lits.length := by simp [Instr.length, encode, h, Nat.add_comm]

end

/-- The fetch unit takes the first word and the literal words that hold the operands (R32). -/
theorem lengthOf_of_operands {o : Operands} {sh : Shape} {r : Raw} {lits : List Word} (hs : shapeOf r = some sh)
    (hraw : o.raw r.team r.op sh = (r, lits)) : lengthOf r.team r.word = 1 + lits.length := by
  obtain ⟨format, kd, ka, kb, dst, ms⟩ := sh
  simp only [lengthOf, Raw.ofWord_word, hs]
  cases format with
  | a =>
    obtain ⟨hr, rfl⟩ := Prod.mk.inj hraw
    rw [← hr]
    simp [Src.words_length, Nat.add_assoc]
  | j => cases dst <;> (obtain ⟨-, rfl⟩ := Prod.mk.inj hraw; simp)

/-- Operands take at most four literal words (R28). -/
theorem Operands.raw_literals_le {o : Operands} {team : Bool} {op : BitVec 7} {sh : Shape} : (o.raw team op sh).2.length ≤ 4 := by
  have two (a : Src) : a.words.length ≤ 2 := by cases a <;> simp [Src.words]
  obtain ⟨format, kd, ka, kb, dst, ms⟩ := sh
  cases format with
  | a =>
    have := two o.a
    have := two o.b
    simp only [Operands.raw, List.length_append]
    omega
  | j => cases dst <;> simp [Operands.raw]

/-! ### The decoder by its parts -/

/-- Words decode to an instruction when their first is of the set, its shape's rows of R34 pass, the literal words are there and the opcode
builds the instruction. -/
theorem decode_cons_eq_ok {team : Bool} {w : Word} {lits : List Word} {i : Instr} :
    decode team (w :: lits) = .ok i ↔ (Raw.ofWord w).team = team ∧ ∃ sh o, shapeOf (Raw.ofWord w) = some sh ∧
      sh.reject (Raw.ofWord w) = none ∧ operandsOf sh (Raw.ofWord w) lits = some o ∧
      (if team then teamBuild (Raw.ofWord w).op.toNat o else laneBuild (Raw.ofWord w).op.toNat o) = some i := by
  constructor
  · intro h
    simp only [decode] at h
    split at h
    · cases h
    next hteam =>
      split at h
      · cases h
      next sh hs =>
        split at h
        · cases h
        next hrej =>
          split at h
          · cases h
          next o ho =>
            split at h
            next hb => cases h; exact ⟨not_not.1 hteam, sh, o, hs, hrej, ho, hb⟩
            · cases h
  · rintro ⟨rfl, sh, o, hs, hrej, ho, hb⟩
    simp [decode, hs, hrej, ho, hb]

/-- IMM17 of the fields that hold operands of format J. -/
theorem Operands.imm_of_raw {o : Operands} {team : Bool} {op : BitVec 7} {sh : Shape} {r : Raw} {lits : List Word} (hf : sh.format = .j)
    (hraw : o.raw team op sh = (r, lits)) : o.imm = r.imm := by
  rw [Operands.raw, hf] at hraw
  cases hd : sh.dst <;> (rw [hd] at hraw; obtain ⟨rfl, -⟩ := Prod.mk.inj hraw; exact (Raw.imm_rawJ ..).symm)

/-- What an opcode of either set builds from operands that fit its shape is encoded by its fields and literal words. -/
theorem raw_of_build {r : Raw} {lits : List Word} {sh : Shape} {o : Operands} {i : Instr} (hs : shapeOf r = some sh) (ho : o.Fits r.team sh)
    (hraw : o.raw r.team r.op sh = (r, lits)) (hb : (if r.team then teamBuild r.op.toNat o else laneBuild r.op.toNat o) = some i) :
    i.raw = some (r, lits) ∧ i.wellFormed = true := by
  rw [← hraw]
  cases ht : r.team with
  | true =>
    simp only [shapeOf, ht, if_true] at hs ho hb
    exact teamBuild_encodes hs ho hb
  | false =>
    simp only [shapeOf, ht, Bool.false_eq_true, if_false] at hs ho hb
    split_ifs at hs with hcircle
    · cases hs
      obtain ⟨hop, himm⟩ := hcircle
      have hop' : r.op = 0x25 := BitVec.eq_of_toNat_eq hop
      have hi : some (Instr.sread o.d o.imm) = some i := by rw [← hb, hop]; rfl
      cases hi
      obtain ⟨_, _, _, hd⟩ := ho
      have himm' : o.imm = 18 := (Operands.imm_of_raw rfl hraw).trans himm
      refine ⟨by rw [hop']; rfl, ?_⟩
      rw [Instr.wellFormed, if_pos himm']
      exact hd
    · refine laneBuild_encodes hs (fun hop himm => hcircle ⟨hop, ?_⟩) ho hb
      have hf : sh.format = .j := by rw [hop] at hs; cases hs; rfl
      rw [← Operands.imm_of_raw hf hraw, himm]

/-! ### Both directions -/

/-- Settles O3: operands read from accepted fields fit, and what their opcode builds from them is encoded by the words taken. -/
theorem encodeDecode : Obligations.EncodeDecode := by
  intro team ws i h
  cases ws with
  | nil => cases h
  | cons w lits =>
    obtain ⟨rfl, sh, o, hs, hrej, ho, hb⟩ := decode_cons_eq_ok.1 h
    obtain ⟨hfits, taken, rest, hraw, rfl⟩ := Shape.fits_of_operandsOf hrej ho
    obtain ⟨hi, hwf⟩ := raw_of_build hs hfits hraw hb
    rw [encode_of_raw hi, Instr.length_of_raw hi, Raw.word_ofWord]
    exact ⟨hwf, Instr.isTeam_of_raw hi, by simp [Nat.add_comm 1], by simp [Nat.add_comm 1]⟩

/-- Settles O2: the words of a well-formed instruction hold operands that fit its opcode's shape, so the decoder reads them back. -/
theorem decodeEncode : Obligations.DecodeEncode := by
  intro i rest hword hwf
  obtain ⟨⟨r, lits⟩, hi⟩ := Option.isSome_iff_exists.1 hword
  obtain ⟨sh, o, hs, hfits, hraw, hb⟩ := i.builtFrom hi hwf
  rw [encode_of_raw hi, Instr.isTeam_of_raw hi, Instr.length_of_raw hi]
  have hrej := hfits.accepted r.op
  have hops := hfits.operandsOf r.op rest
  have hlits : lits.length ≤ 4 := by simpa [hraw] using Operands.raw_literals_le (o := o) (team := r.team) (op := r.op) (sh := sh)
  rw [hraw] at hrej hops
  refine ⟨decode_cons_eq_ok.2 ?_, by simp [lengthOf_of_operands hs hraw], by omega, by omega⟩
  rw [Raw.ofWord_word]
  exact ⟨rfl, sh, o, hs, hrej, hops, hb⟩

end Sys2Proof
end

section
/-! CLAIM. The order in which the decoder checks the fields of a word (R34). -/

namespace Sys2Proof

/-! ### When the decoder rejects and when it accepts -/

/-- A word of the other set is rejected whatever it holds (R34 row 3). -/
theorem decode_of_other_set {team : Bool} {w : Word} (rest : List Word) (h : (Raw.ofWord w).team ≠ team) :
    decode team (w :: rest) = .error (.wrongSlice w) := by
  simp [decode, h]

/-- A word whose fields a row of R34 rejects. -/
theorem decode_of_reject {r : Raw} {sh : Shape} {e : Reject} (hs : shapeOf r = some sh) (he : sh.reject r = some e) (lits : List Word) :
    decode r.team (r.word :: lits) = .error e := by
  simp [decode, hs, he]

/-- A format A opcode of the lane set has the shape of its row: SREAD is of format J. -/
theorem shapeOf_lane {op d a b : BitVec 7} {m : BitVec 3} {sh : Shape} (hs : laneShape op.toNat = some sh) (hf : sh.format = .a) :
    shapeOf ⟨false, op, d, a, b, m⟩ = some sh := by
  refine shapeOf_a _ _ _ _ _ _ (.inr fun hop => ?_) hs
  rw [hop] at hs
  cases hs
  cases hf

/-- The operands of format A are read when the literal words that A and B take are there (R28). -/
theorem operandsOf_of_length {sh : Shape} {r : Raw} {lits : List Word} (hf : sh.format = .a)
    (h : litWords r.a + litWords r.b ≤ lits.length) : ∃ a b, operandsOf sh r lits = some ⟨dstOf r.d, a, b, r.m, 0⟩ := by
  obtain ⟨a, ha⟩ := srcOf_of_length (c := r.a) (ws := lits) (by omega)
  obtain ⟨b, hb⟩ := srcOf_of_length (c := r.b) (ws := lits.drop (litWords r.a)) (by simp; omega)
  exact ⟨a, b, by simp [operandsOf, hf, ha, hb]⟩

/-- An accepted word of a format A opcode of the lane set decodes when its literal words are there, and is its instruction's encoding. -/
theorem decode_of_accept {r : Raw} {sh : Shape} {lits : List Word} (ht : r.team = false) (hs : laneShape r.op.toNat = some sh)
    (hf : sh.format = .a) (hrej : sh.reject r = none) (hlits : litWords r.a + litWords r.b ≤ lits.length) :
    ∃ i, decode false (r.word :: lits) = .ok i ∧ i.isTeam = false ∧ encode i = (r.word :: lits).take i.length := by
  obtain ⟨a, b, ho⟩ := operandsOf_of_length hf hlits
  have hm : r.m.toNat < sh.ms := by
    by_contra hm
    simp [Shape.reject, hf, hm] at hrej
  obtain ⟨i, hi⟩ := Option.isSome_iff_exists.1 (laneBuild_isSome (o := ⟨dstOf r.d, a, b, r.m, 0⟩) hs fun _ => hm)
  have hdec : decode false (r.word :: lits) = .ok i := by
    obtain ⟨team, op, d, a', b', m⟩ := r
    obtain rfl : team = false := ht
    refine decode_cons_eq_ok.2 ?_
    rw [Raw.ofWord_word]
    exact ⟨rfl, sh, _, shapeOf_lane hs hf, hrej, ho, hi⟩
  obtain ⟨-, hteam, henc, -⟩ := encodeDecode _ _ _ hdec
  exact ⟨i, hdec, hteam, henc⟩

/-! ### The rows as statements about the code's value -/

/-- Row 6 for a 32-bit D of the lane set. -/
theorem dBad_lane32 {c : BitVec 7} : dBad false .w32 c = true ↔ c.toNat = 127 ∨ (118 ≤ c.toNat ∧ c.toNat ≤ 123) := by
  revert c; decide

/-- Row 6 for a 32-bit A or B of the lane set. -/
theorem srcBad_lane32 {c : BitVec 7} : srcBad false .w32 c = true ↔ c.toNat = 125 ∨ c.toNat = 127 := by
  revert c; decide

/-- Row 6 for a 64-bit D: a queue code or 127. -/
theorem dBad_w64 {t : Bool} {c : BitVec 7} : dBad t .w64 c = true ↔ c.toNat = 127 ∨ (116 ≤ c.toNat ∧ c.toNat ≤ 123) := by
  revert c; cases t <;> decide

/-- Row 6 for a 64-bit A or B. -/
theorem srcBad_w64 {t : Bool} {c : BitVec 7} : srcBad t .w64 c = true ↔ c.toNat = 127 ∨ (116 ≤ c.toNat ∧ c.toNat ≤ 123) := by
  revert c; cases t <;> decide

/-- Row 7: the literal codes. -/
theorem isLiteralCode_iff {c : BitVec 7} : isLiteralCode c = true ↔ c.toNat = 124 ∨ c.toNat = 125 := by
  revert c; decide

/-- Row 8: an odd register in a 64-bit position. -/
theorem oddCode_w64 {c : BitVec 7} : oddCode .w64 c = true ↔ c.toNat < 116 ∧ c.toNat % 2 = 1 := by
  revert c; decide

/-- Row 8 asks nothing of a 32-bit position. -/
theorem oddCode_w32 {c : BitVec 7} : oddCode .w32 c = false := rfl

/-- A 32-bit A and B take at most two literal words together. -/
theorem litWords_lane32 {a b : BitVec 7} (ha : ¬(a.toNat = 125 ∨ a.toNat = 127)) (hb : ¬(b.toNat = 125 ∨ b.toNat = 127)) :
    litWords a + litWords b ≤ 2 := by
  have one {c : BitVec 7} (hc : ¬(c.toNat = 125 ∨ c.toNat = 127)) : litWords c ≤ 1 := by revert c; decide
  exact Nat.add_le_add (one ha) (one hb)

/-- Two fields take at most four literal words (R28). -/
theorem litWords_le_four (a b : BitVec 7) : litWords a + litWords b ≤ 4 := by
  have two (c : BitVec 7) : litWords c ≤ 2 := by revert c; decide
  exact Nat.add_le_add (two a) (two b)

/-- Settles O5: each row's condition, with those before it excluded, picks its branch of the shape's checks. -/
theorem rejectOrder : Obligations.RejectOrder := by
  refine ⟨fun team w rest h => decode_of_other_set rest h, ?_, ?_⟩
  · intro op d a b m ms l1 l2 hs w r
    have hrej (e : Reject) := decode_of_reject (e := e) (lits := [l1, l2]) (shapeOf_lane (d := d) (a := a) (b := b) (m := m) hs rfl)
    simp only [Shape.reject, dBad_lane32, srcBad_lane32, isLiteralCode_iff, oddCode_w32, not_lt] at hrej
    split_ifs with hm hd ha hb hlit
    · exact hrej _ (by simp [hm])
    · exact hrej _ (by simp [hm, hd])
    · exact hrej _ (by simp [hm, hd, ha])
    · exact hrej _ (by simp [hm, hd, ha, hb])
    · exact hrej _ (by simp [hm, hd, ha, hb, hlit])
    · refine decode_of_accept rfl hs rfl ?_ (litWords_lane32 ha hb)
      simp [Shape.reject, dBad_lane32, srcBad_lane32, isLiteralCode_iff, oddCode_w32, not_le.1 hm, hd, ha, hb, hlit]
  · intro op d a b m ms l1 l2 l3 l4 hs w r queueOrNone oddReg
    have hrej (e : Reject) := decode_of_reject (e := e) (lits := [l1, l2, l3, l4]) (shapeOf_lane (d := d) (a := a) (b := b) (m := m) hs rfl)
    simp only [Shape.reject, dBad_w64, srcBad_w64, isLiteralCode_iff, oddCode_w64] at hrej
    refine ⟨fun hm => hrej _ (by simp [not_lt.2 hm]), fun hm hd => hrej _ ?_, fun hm hd ha => hrej _ ?_, fun hm hd ha hb => hrej _ ?_,
      fun hm hd ha hb => ⟨fun hlit => hrej _ ?_, fun h124 h125 hod => hrej _ ?_, fun h124 h125 hod hoa => hrej _ ?_,
        fun h124 h125 hod hoa hob => hrej _ ?_, fun h124 h125 hod hoa hob => ?_⟩⟩
    all_goals dsimp only [queueOrNone, oddReg] at *
    · simp [hm, hd]
    · simp [hm, hd, ha]
    · simp [hm, hd, ha, hb]
    · simp [hm, hd, ha, hb, hlit]
    · simp [hm, hd, ha, hb, h124, h125, hod]
    · simp [hm, hd, ha, hb, h124, h125, hod, hoa]
    · simp [hm, hd, ha, hb, h124, h125, hod, hoa, hob]
    · refine decode_of_accept rfl hs rfl ?_ (litWords_le_four a b)
      simp [Shape.reject, dBad_w64, srcBad_w64, isLiteralCode_iff, oddCode_w64, hm, hd, ha, hb, h124, h125, hod, hoa, hob]

end Sys2Proof
end

section
/-! CLAIM. Words written out decode to their instructions (O1); a turn runs the decoded instruction, and a fetch takes the words that its
first implies (R32, R98). -/

namespace Sys2Proof.Machine

/-- The words of an instruction decode to it: a row's words need only be its encoding. -/
theorem decode_of_encode {team : Bool} {ws : List Word} {i : Instr} (hw : i.hasWord = true) (hwf : i.wellFormed = true)
    (ht : i.isTeam = team) (h : encode i = ws) : decode team ws = .ok i := by
  obtain ⟨hdecode, -⟩ := decodeEncode i [] hw hwf
  rwa [List.append_nil, ht, h] at hdecode

/-- Settles O1: each row's words are the fields of its encoding table, that is, the encoding of its instruction. -/
theorem decodeWords : Obligations.DecodeWords := by
  refine ⟨?_, ?_, ?_, ?_, ?_, ?_, ?_, ?_, ?_, ?_, ?_, ?_, ?_, ?_⟩ <;> exact decode_of_encode rfl rfl rfl rfl

/-- No breakpoint stops a slice whose scatter has begun where none stops it without (R439). -/
theorem breakpointAt_or {s : State} {launch : Nat} {skip : Bool} {pc : Word} (h : breakpointAt s launch skip pc = none) (b : Bool) :
    breakpointAt s launch (skip || b) pc = none := by
  cases b with
  | false => rwa [Bool.or_false]
  | true => simp [breakpointAt]

section
variable {s : State} {tm : Team} {sl : Slice} {ws : List Word} {i : Instr} (hat : sliceAt s s.cur = some (tm, sl))
  (hissue : canIssue s s.cur = true) (hfetch : fetchAt (codeOf s tm.launch) s.cur.strand.isNone sl.pc = .words ws)
  (hbreak : breakpointAt s tm.launch sl.skip sl.pc = none) (hdecode : decode s.cur.strand.isNone ws = .ok i)
include hat hissue hfetch hbreak hdecode

/-- A slice that may issue and meets no breakpoint executes the instruction decoded at its PC (R32, R34, R439). -/
theorem issue_of_decode : issue s = match exec i s with
    | .next t => .next (settleIssue t)
    | .fault r => .fault r
    | .refused r => .refused r := by
  simp only [issue, hat, hissue, hfetch, runWords, breakpointAt_or hbreak, hdecode]
  cases exec i s <;> rfl

/-- Its turn, with what follows every turn. -/
theorem settled_turn_of_decode (before : State) : settled before (turn (.slice s.cur) s) = match exec i s with
    | .next t => .next (settleTurn before (observe (.slice s.cur) s (settleIssue t)))
    | .fault r => .fault r
    | .refused r => .refused r := by
  simp only [turn, issue_of_decode hat hissue hfetch hbreak hdecode]
  cases exec i s <;> rfl

end

/-- A fetch takes the words of the code that its first implies, or names the first word beyond the segment (R32). -/
theorem fetchAt_spec (code : List Word) (team : Bool) (pc : Word) :
    match code[pc.toNat / 4]? with
    | none => fetchAt code team pc = .beyond pc
    | some w =>
      if pc.toNat / 4 + lengthOf team w ≤ code.length then
        fetchAt code team pc = .words ((code.drop (pc.toNat / 4)).take (lengthOf team w))
      else fetchAt code team pc = .beyond (BitVec.ofNat 32 (4 * code.length)) := by
  unfold fetchAt
  by_cases hlt : pc.toNat / 4 < code.length
  · have hdrop := List.drop_eq_getElem_cons hlt
    have hlen := congrArg List.length hdrop
    rw [List.length_drop, List.length_cons] at hlen
    rw [List.getElem?_eq_getElem hlt]
    simp only [hdrop]
    by_cases hfits : pc.toNat / 4 + lengthOf team code[pc.toNat / 4] ≤ code.length
    · rw [if_pos hfits, if_neg (by omega)]
    · rw [if_neg hfits, if_pos (by omega)]
  · rw [List.getElem?_eq_none (by omega)]
    simp only [List.drop_eq_nil_of_le (Nat.le_of_not_lt hlt)]

/-- Settles O6: the turn at the head of the schedule, and the current slice's where it is empty, issue alike. -/
theorem stepRunsDecoded : Obligations.StepRunsDecoded := by
  refine ⟨⟨?_, ?_⟩, fetchAt_spec⟩
  · rintro s s1 n id rest tm sl ws i hagenda rfl hat hissue hfetch hbreak hdecode
    rw [step, hagenda]
    exact settled_turn_of_decode hat hissue hfetch hbreak hdecode s
  · rintro s s1 tm sl ws i hagenda rfl hboot hat hissue hfetch hbreak hdecode
    simp only [step, hagenda, idleTurn, hboot, hissue, if_true]
    exact settled_turn_of_decode hat hissue hfetch hbreak hdecode s

end Sys2Proof.Machine
end

section
/-! SUPPORT. The gathering of operands, stage by stage: the checks of the declarations, the pending registers, and the sources that are no
pops (R25 to R28, R34, R209). -/

namespace Sys2Proof.Machine

/-! ### The checks that the declarations decide -/

/-- A register or pair that reaches the declared count (R26, R27). -/
theorem regBad_iff (count : Nat) (w : Width) (n : Nat) :
    regBad count w n = true ↔ (w = .w32 ∧ count ≤ n) ∨ (w = .w64 ∧ count ≤ n + 1) := by
  cases w <;> simp [regBad]

theorem Dst.regBad_iff (count : Nat) (w : Width) (d : Dst) :
    Dst.regBad count w d = true ↔ ∃ n, d = .reg n ∧ ((w = .w32 ∧ count ≤ n.val) ∨ (w = .w64 ∧ count ≤ n.val + 1)) := by
  cases d <;> simp [Dst.regBad, Machine.regBad_iff]

theorem Src.regBad_iff (count : Nat) (w : Width) (a : Src) :
    Src.regBad count w a = true ↔ ∃ n, a = .reg n ∧ ((w = .w32 ∧ count ≤ n.val) ∨ (w = .w64 ∧ count ≤ n.val + 1)) := by
  cases a <;> simp [Src.regBad, Machine.regBad_iff]

theorem Dst.undeclared_iff (tm : Team) (team : Bool) (d : Dst) :
    Dst.undeclared tm team d = true ↔ ∃ n, d = .queue n ∧ (tm.queueDecl (!team) n.val).kind = .undeclared := by
  cases d <;> simp [Dst.undeclared, queueUndeclared]

theorem Src.undeclared_iff (tm : Team) (team : Bool) (a : Src) :
    Src.undeclared tm team a = true ↔ ∃ n, a = .queue n ∧ (tm.queueDecl team n.val).kind = .undeclared := by
  cases a <;> simp [Src.undeclared, queueUndeclared]

theorem Src.wrongKind_iff (tm : Team) (team : Bool) (a : Src) :
    Src.wrongKind tm team a = true ↔ ∃ n, a = .queue n ∧ team = true ∧ (tm.queueDecl true n.val).kind = .lane := by
  cases a <;> simp [Src.wrongKind]

theorem Src.undeclared_of_not_queue {tm : Team} {team : Bool} {a : Src} (h : ∀ n, a ≠ .queue n) : Src.undeclared tm team a = false := by
  cases a with
  | queue n => exact absurd rfl (h n)
  | reg _ | lit _ | lit64 _ | zero => rfl

theorem Dst.undeclared_of_not_queue {tm : Team} {team : Bool} {d : Dst} (h : ∀ n, d ≠ .queue n) : Dst.undeclared tm team d = false := by
  cases d with
  | queue n => exact absurd rfl (h n)
  | reg _ | zero => rfl

theorem Src.wrongKind_of_not_queue {tm : Team} {team : Bool} {a : Src} (h : ∀ n, a ≠ .queue n) : Src.wrongKind tm team a = false := by
  cases a with
  | queue n => exact absurd rfl (h n)
  | reg _ | lit _ | lit64 _ | zero => rfl

theorem Dst.wrongKind_of_not_queue {tm : Team} {f : Form} (h : ∀ n, f.d ≠ .queue n) : Dst.wrongKind tm f = false := by
  unfold Dst.wrongKind
  cases hd : f.d with
  | queue n => exact absurd hd (h n)
  | reg _ | zero => rfl

theorem Dst.readQueue_of_not_queue {f : Form} (h : ∀ n, f.d ≠ .queue n) : Dst.readQueue f = false := by
  unfold Dst.readQueue
  cases hd : f.d with
  | queue n => exact absurd hd (h n)
  | reg _ | zero => rfl

/-- A queue that D pushes, of a kind that its role does not take (R30, R110). -/
theorem Dst.wrongKind_of_queue {tm : Team} {f : Form} {n : Fin 8} (h : f.d = .queue n) :
    Dst.wrongKind tm f = ((f.role == .write || f.role == .both || f.role == .queue) &&
      (if f.team then (tm.queueDecl false n.val).kind == .lane else !takesType (tm.queueDecl true n.val) f.push)) := by
  simp only [Dst.wrongKind, h]

theorem Dst.readQueue_of_queue {f : Form} {n : Fin 8} (h : f.d = .queue n) :
    Dst.readQueue f = (f.role == .read || f.role == .both) := by
  simp only [Dst.readQueue, h]

/-- A role that neither leaves D alone nor only reads it pushes to it. -/
theorem pushes_of_role {r : DRole} (hnone : r ≠ .none) (hread : r ≠ .read) : (r == .write || r == .both || r == .queue) = true := by
  cases r <;> simp at hnone hread ⊢

/-- The checks that remain where the registers are there and the queues are declared (R34 row 11, R41). -/
theorem declChecks_of_registers_and_queues {f : Form} {tm : Team} {sl : Slice} (h1 : Dst.regBad sl.regs.length f.dw f.d = false)
    (h2 : Src.regBad sl.regs.length f.aw f.a = false) (h3 : Src.regBad sl.regs.length f.bw f.b = false)
    (h4 : Dst.undeclared tm f.team f.d = false) (h5 : Src.undeclared tm f.team f.a = false) (h6 : Src.undeclared tm f.team f.b = false) :
    declChecks f tm sl = (do
      stopIf (Dst.wrongKind tm f) (fieldTrap f sl.pc .queueKind 1 f.d.code)
      stopIf (Src.wrongKind tm f.team f.a) (fieldTrap f sl.pc .queueKind f.afield f.a.code)
      stopIf (!f.bq && Src.wrongKind tm f.team f.b) (fieldTrap f sl.pc .queueKind 3 f.b.code)
      stopIf (Dst.readQueue f) (fieldTrap f sl.pc .badOperand 1 f.d.code)) := by
  simp only [declChecks, h1, h2, h3, h4, h5, h6]; rfl

/-- What stops the gathering at its checks stops the gathering. -/
theorem gather_of_declChecks {f : Form} {tm : Team} {sl : Slice} {st : Stop} (h : declChecks f tm sl = .error st) (s : State)
    (w : Option Nat) (own : Except Stop Unit) : gather s w tm sl f own = .error st := by
  simp only [gather, h]; rfl

/-- Settles O15: the checks stand in `declChecks` in the order of the rows, so the first that fails decides. -/
theorem operandTraps : Obligations.OperandTraps := by
  intro s w tm sl f stops far farD farA farB undeclared noD noA noB
  have stop {c : Cause} {fld : BitVec 3} {code : BitVec 7} (h : declChecks f tm sl = .error (fieldTrap f sl.pc c fld code)) :
      stops c fld code := gather_of_declChecks h s w _
  have hfarD : farD ↔ Dst.regBad sl.regs.length f.dw f.d = true := (Dst.regBad_iff ..).symm
  have hfarA : farA ↔ Src.regBad sl.regs.length f.aw f.a = true := (Src.regBad_iff ..).symm
  have hfarB : farB ↔ Src.regBad sl.regs.length f.bw f.b = true := (Src.regBad_iff ..).symm
  have hnoD : noD ↔ Dst.undeclared tm f.team f.d = true := (Dst.undeclared_iff ..).symm
  have hnoA : noA ↔ Src.undeclared tm f.team f.a = true := (Src.undeclared_iff ..).symm
  have hnoB : noB ↔ Src.undeclared tm f.team f.b = true := (Src.undeclared_iff ..).symm
  rw [hfarD, hfarA, hfarB, hnoD, hnoA, hnoB]
  simp only [Bool.not_eq_true]
  refine ⟨fun h1 => stop ?_, fun h1 h2 => stop ?_, fun h1 h2 h3 => stop ?_, fun h1 h2 h3 =>
    ⟨fun h4 => stop ?_, fun h4 h5 => stop ?_, fun h4 h5 h6 => stop ?_, fun h4 h5 h6 => ?_⟩⟩
  case refine_7 =>
    have rest := declChecks_of_registers_and_queues h1 h2 h3 h4 h5 h6
    refine ⟨fun n hd hnone hread hteam hkind => stop ?_, fun n hd hnone hread hteam hkind hrule htype => stop ?_,
      fun n hd ha hteam hkind => stop ?_, fun n hd ha hb hbq hteam hkind => stop ?_, fun n hd ha hb hrole => stop ?_⟩
    · have hbad : Dst.wrongKind tm f = true := by
        rw [Dst.wrongKind_of_queue hd, pushes_of_role hnone hread]; simp [hteam, hkind]
      rw [rest, hbad]; rfl
    · have hbad : Dst.wrongKind tm f = true := by
        rw [Dst.wrongKind_of_queue hd, pushes_of_role hnone hread]
        obtain ⟨hpush, hfloat⟩ | ⟨hpush, hfloat⟩ := htype <;> simp [hteam, takesType, hkind, hrule, hpush, hfloat]
      rw [rest, hbad]; rfl
    · rw [rest, Dst.wrongKind_of_not_queue hd, (Src.wrongKind_iff ..).2 ⟨n, ha, hteam, hkind⟩]; rfl
    · rw [rest, Dst.wrongKind_of_not_queue hd, Src.wrongKind_of_not_queue ha, (Src.wrongKind_iff ..).2 ⟨n, hb, hteam, hkind⟩, hbq]; rfl
    · have hgood : Dst.wrongKind tm f = false := by
        rw [Dst.wrongKind_of_queue hd]
        obtain hrole | ⟨hrole, hteam, hkind⟩ | ⟨hrole, hteam, hkind | hrule | hpush⟩ := hrole
        · simp [hrole]
        · simp [hrole, hteam, beq_eq_false_iff_ne.2 hkind]
        · simp [hrole, hteam, takesType, hkind]
        · simp [hrole, hteam, takesType, hrule]
        · simp [hrole, hteam, takesType, hpush]
      have hreads : Dst.readQueue f = true := by
        rw [Dst.readQueue_of_queue hd]
        obtain hrole | ⟨hrole, -⟩ | ⟨hrole, -⟩ := hrole <;> simp [hrole]
      rw [rest, hgood, Src.wrongKind_of_not_queue ha, Src.wrongKind_of_not_queue hb, hreads, Bool.and_false]; rfl
  all_goals simp only [declChecks, *]; rfl

end Sys2Proof.Machine
end

section
/-! SUPPORT. Operands that are no queue: their checks, their pending registers and their values (R25 to R28, R209). -/

namespace Sys2Proof.Machine

/-! ### Plain operands -/

section
variable {sl : Slice} {wd : Width} {a : Src} {d : Dst} {v : DWord}

/-- A plain source names no queue. -/
theorem ne_queue_of_plainSrc (h : plainSrc sl wd a = some v) (q : Fin 8) : a ≠ .queue q := by
  rintro rfl
  cases wd <;> simp [plainSrc] at h

/-- A plain source pops nothing. -/
theorem pops_of_plainSrc (h : plainSrc sl wd a = some v) : Src.pops a = [] := by
  cases a with
  | queue q => exact absurd rfl (ne_queue_of_plainSrc h q)
  | reg _ | lit _ | lit64 _ | zero => rfl

/-- A plain destination names no queue. -/
theorem ne_queue_of_plainDst (h : plainDst sl wd d = some v) (q : Fin 8) : d ≠ .queue q := by
  rintro rfl
  cases h

/-- A pair as a number: the even register low (R5). -/
theorem pairOf_eq_ofNat (lo hi : Word) : pairOf lo hi = BitVec.ofNat 64 (lo.toNat + 2 ^ 32 * hi.toNat) := by
  have hlo := lo.isLt
  have hhi := hi.isLt
  have happend : (hi.toNat <<< 32 ||| lo.toNat) = hi.toNat <<< 32 + lo.toNat := (Nat.shiftLeft_add_eq_or_of_lt hlo _).symm
  apply BitVec.eq_of_toNat_eq
  rw [pairOf, BitVec.toNat_append, BitVec.toNat_ofNat, happend, Nat.shiftLeft_eq]
  omega

/-- A register that is there. -/
theorem reg_of_getElem? {n : Nat} {x : Word} (h : sl.regs[n]? = some x) : sl.reg n = x := by
  rw [Slice.reg, listGetD, h, Option.getD_some]

/-- A plain register or pair is below the count, and reads as its value (R26, R27). -/
theorem plainSrc_reg {n : Fin 116} (h : plainSrc sl wd (.reg n) = some v) :
    regBad sl.regs.length wd n.val = false ∧ sl.readReg wd n.val = v := by
  cases wd with
  | no => cases h
  | w32 =>
    obtain ⟨x, hx, rfl⟩ := Option.map_eq_some_iff.1 h
    obtain ⟨hlt, -⟩ := List.getElem?_eq_some_iff.1 hx
    exact ⟨decide_eq_false (Nat.not_le.2 hlt), by rw [Slice.readReg, reg_of_getElem? hx]⟩
  | w64 =>
    cases hlo : sl.regs[n.val]? with
    | none => simp [plainSrc, hlo] at h
    | some lo =>
      cases hhi : sl.regs[n.val + 1]? with
      | none => simp [plainSrc, hhi] at h
      | some hi =>
        obtain ⟨hlt, -⟩ := List.getElem?_eq_some_iff.1 hhi
        refine ⟨decide_eq_false (Nat.not_le.2 hlt), ?_⟩
        rw [Slice.readReg, reg_of_getElem? hlo, reg_of_getElem? hhi, pairOf_eq_ofNat]
        simpa only [plainSrc, hlo, hhi, Option.some.injEq] using h

theorem regBad_of_plainSrc (h : plainSrc sl wd a = some v) : Src.regBad sl.regs.length wd a = false := by
  cases a with
  | reg n => exact (plainSrc_reg h).1
  | queue _ | lit _ | lit64 _ | zero => rfl

theorem regBad_of_plainDst (h : plainDst sl wd d = some v) : Dst.regBad sl.regs.length wd d = false := by
  cases d with
  | reg n => exact (plainSrc_reg h).1
  | queue _ | zero => rfl

/-- A plain source has its value, whatever comes before it (R25, R28). -/
theorem value_of_plainSrc (h : plainSrc sl wd a = some v) (tm : Team) (w : Option Nat) (k : Nat) : Src.value tm sl w wd k a = .ok v := by
  cases a with
  | reg n => exact congrArg Except.ok (plainSrc_reg h).2
  | queue q => exact absurd rfl (ne_queue_of_plainSrc h q)
  | zero => cases wd <;> exact congrArg Except.ok (Option.some.inj h)
  | lit x => cases wd with
    | no => cases h
    | w32 | w64 => exact congrArg Except.ok (Option.some.inj h)
  | lit64 x => cases wd with
    | no | w32 => cases h
    | w64 => exact congrArg Except.ok (Option.some.inj h)

theorem value_of_plainDst (h : plainDst sl wd d = some v) : Dst.value sl wd d = v := by
  cases d with
  | reg n => exact (plainSrc_reg h).2
  | queue q => cases h
  | zero => exact Option.some.inj h

end

/-! ### The stages of a gathering -/

/-- A register or pair waits when one of its registers does (R209). -/
theorem widthPending_iff (s : State) (w : SliceName) (wd : Width) (n : Nat) :
    widthPending s w wd n = true ↔ ∃ k ∈ widthRegs wd n, regPending s w k = true := by
  cases wd <;> simp [widthPending, widthRegs]

/-- The registers that a destination takes at a width. -/
def Dst.regsAt (wd : Width) : Dst → List Nat
  | .reg n => widthRegs wd n.val
  | .queue _ | .zero => []

/-- The registers that a source takes at a width. -/
def Src.regsAt (wd : Width) : Src → List Nat
  | .reg n => widthRegs wd n.val
  | .queue _ | .lit _ | .lit64 _ | .zero => []

theorem Form.regs_eq (f : Form) : f.regs = Dst.regsAt f.dw f.d ++ Src.regsAt f.aw f.a ++ Src.regsAt f.bw f.b := rfl

theorem Dst.pending_iff (s : State) (w : SliceName) (wd : Width) (d : Dst) :
    Dst.pending s w wd d = true ↔ ∃ n ∈ Dst.regsAt wd d, regPending s w n = true := by
  cases d with
  | reg n => exact widthPending_iff s w wd n.val
  | queue _ | zero => exact iff_of_false nofun nofun

theorem Src.pending_iff (s : State) (w : SliceName) (wd : Width) (a : Src) :
    Src.pending s w wd a = true ↔ ∃ n ∈ Src.regsAt wd a, regPending s w n = true := by
  cases a with
  | reg n => exact widthPending_iff s w wd n.val
  | queue _ | lit _ | lit64 _ | zero => exact iff_of_false nofun nofun

/-- An instruction waits when one of the registers that it reads or writes does (R209). -/
theorem Form.pending_iff {f : Form} (hbq : f.bq = false) (s : State) (w : SliceName) :
    Form.pending s w f = true ↔ ∃ n ∈ f.regs, regPending s w n = true := by
  simp only [Form.pending, hbq, Bool.false_eq_true, if_false, Bool.or_eq_true, Dst.pending_iff, Src.pending_iff, Form.regs_eq,
    List.mem_append, or_and_right, exists_or]

theorem pending_of_nonePending {f : Form} (hbq : f.bq = false) {s : State} {w : SliceName} (h : nonePending s w f) :
    Form.pending s w f = false := by
  rw [Bool.eq_false_iff, Ne, Form.pending_iff hbq]
  rintro ⟨n, hn, hp⟩
  rw [h n hn] at hp
  cases hp

/-- The checks of the declarations that a form meets (R34 rows 9 to 11, R41). -/
theorem declChecks_ok {f : Form} {tm : Team} {sl : Slice} (h1 : Dst.regBad sl.regs.length f.dw f.d = false)
    (h2 : Src.regBad sl.regs.length f.aw f.a = false) (h3 : Src.regBad sl.regs.length f.bw f.b = false)
    (h4 : Dst.undeclared tm f.team f.d = false) (h5 : Src.undeclared tm f.team f.a = false) (h6 : Src.undeclared tm f.team f.b = false)
    (h7 : Dst.wrongKind tm f = false) (h8 : Src.wrongKind tm f.team f.a = false) (h9 : Src.wrongKind tm f.team f.b = false)
    (h10 : Dst.readQueue f = false) : declChecks f tm sl = .ok () := by
  rw [declChecks_of_registers_and_queues h1 h2 h3 h4 h5 h6, h7, h8, h9, h10, Bool.and_false]
  rfl

/-- A gathering whose checks hold and whose registers have arrived: the sources, then the room for a push. -/
theorem gather_of_declChecks_ok {s : State} {w : Option Nat} {tm : Team} {sl : Slice} {f : Form} (hbq : f.bq = false)
    (hdecl : declChecks f tm sl = .ok ()) (hpend : Form.pending s (tm.name w) f = false)
    (hpops : (w.isNone && incompletePops tm (Src.pops f.a ++ Src.pops f.b) != []) = false) :
    gather s w tm sl f (.ok ()) = (do
      let va ← Src.value tm sl w f.aw 0 f.a
      let vb ← Src.value tm sl w f.bw (if Src.pops f.a = Src.pops f.b then 1 else 0) f.b
      roomForPush s tm sl w f
      .ok ⟨Dst.value sl f.dw f.d, va, vb, Src.pops f.a ++ Src.pops f.b⟩) := by
  simp only [gather, hdecl, hbq, hpend, Bool.false_eq_true, if_false, hpops]
  rfl

/-- A form that pushes nothing finds room. -/
theorem roomForPush_of_not_queue {f : Form} (h : ∀ q, f.d ≠ .queue q) (s : State) (tm : Team) (sl : Slice) (w : Option Nat) :
    roomForPush s tm sl w f = .ok () := by
  have hnone : f.pushQueue = none := by
    unfold Form.pushQueue
    cases hd : f.d with
    | queue q => exact absurd hd (h q)
    | reg _ | zero => rfl
  rw [roomForPush, hnone]

section
variable {tm : Team} {sl : Slice} {f : Form} {vd va vb : DWord} (hd : plainDst sl f.dw f.d = some vd) (ha : plainSrc sl f.aw f.a = some va)
  (hb : plainSrc sl f.bw f.b = some vb)
include hd ha hb

/-- Plain operands meet the checks of the declarations. -/
theorem declChecks_of_plain : declChecks f tm sl = .ok () :=
  declChecks_ok (regBad_of_plainDst hd) (regBad_of_plainSrc ha) (regBad_of_plainSrc hb)
    (Dst.undeclared_of_not_queue (ne_queue_of_plainDst hd)) (Src.undeclared_of_not_queue (ne_queue_of_plainSrc ha))
    (Src.undeclared_of_not_queue (ne_queue_of_plainSrc hb)) (Dst.wrongKind_of_not_queue (ne_queue_of_plainDst hd))
    (Src.wrongKind_of_not_queue (ne_queue_of_plainSrc ha)) (Src.wrongKind_of_not_queue (ne_queue_of_plainSrc hb))
    (Dst.readQueue_of_not_queue (ne_queue_of_plainDst hd))

end

/-- Settles O14: plain operands pass every check and are no pops, so the gathering reaches their values. -/
theorem operandsThatAreThere : Obligations.OperandsThatAreThere := by
  intro s w tm sl f vd va vb hbq hd ha hb hnone
  have hpops : Src.pops f.a ++ Src.pops f.b = [] := by rw [pops_of_plainSrc ha, pops_of_plainSrc hb, List.append_nil]
  rw [gather_of_declChecks_ok hbq (declChecks_of_plain hd ha hb) (pending_of_nonePending hbq hnone)
      (by rw [hpops]; exact Bool.and_false _), value_of_plainSrc ha, value_of_plainSrc hb,
    roomForPush_of_not_queue (ne_queue_of_plainDst hd), value_of_plainDst hd, hpops]
  rfl

/-- A register that has yet to be written makes an instruction wait with class DEPEND (R209). -/
theorem gather_of_pending {s : State} {w : Option Nat} {tm : Team} {sl : Slice} {f : Form} (hdecl : declChecks f tm sl = .ok ())
    (hpend : Form.pending s (tm.name w) f = true) : gather s w tm sl f (.ok ()) = .error (.wait .depend) := by
  simp only [gather, hdecl, hpend]
  rfl

end Sys2Proof.Machine
end

section
/-! SUPPORT. What an operation on one slice leaves: the state differs in that slice alone, and the slice is named. -/

namespace Sys2Proof.Machine

/-! ### One slice alone -/

/-- The same team under another slice has the same name for each of its slices. -/
@[simp] theorem Team.putSlice_name (tm : Team) (w w' : Option Nat) (sl : Slice) : (tm.putSlice w sl).name w' = tm.name w' := by
  cases w <;> rfl

section
variable {s : State} {id : SliceId} {tm : Team} {sl : Slice} (hat : sliceAt s id = some (tm, sl))
include hat

/-- A slice replaced is the only difference. -/
theorem onlySlice_putSlice (sl' : Slice) : OnlySlice s (putSlice s id tm sl') id sl' := by
  obtain ⟨hteam, hslice⟩ := teamAt_of_sliceAt hat
  refine ⟨rfl, fun c hc => ?_, ?_, fun n hn => ?_, fun tm' htm' => ?_, ?_⟩
  · exact (core_modCore ..).trans (if_neg hc)
  · rw [putSlice, putTeam, core_modCore]; simp [teamIdOf]
  · rw [putSlice, teamAt_putTeam, if_neg (by rintro ⟨⟩; exact hn rfl)]
  · obtain rfl : tm = tm' := Option.some.inj (hteam.symm.trans htm')
    exact teamAt_putTeam_self ..
  · rw [sliceAt_putSlice_self hslice, Option.map_some]

theorem onlySlice_modSlice (g : Slice → Slice) : OnlySlice s (modSlice s id g) id (g sl) := by
  rw [modSlice_of_sliceAt hat]
  exact onlySlice_putSlice hat _

/-- A slice changed twice is changed once by both. -/
theorem modSlice_modSlice (g g' : Slice → Slice) : modSlice (modSlice s id g) id g' = modSlice s id fun x => g' (g x) := by
  rw [modSlice_of_sliceAt (sliceAt_modSlice_self hat g), modSlice_of_sliceAt hat, modSlice_of_sliceAt hat, putSlice_putSlice_self]

/-! ### Waiting and parking -/

/-- A slice that waits for registers stalls with class DEPEND, and the PC that it waits for is noted (R209, R210). -/
theorem onlySlice_waitPending (w : SliceName) (regs : List Nat) :
    ∃ b, OnlySlice s (waitPending s id w regs) id { sl with stall := some .depend, blame := b } := by
  unfold waitPending waitSink waitSlice
  rw [modSlice_modSlice hat]
  exact ⟨_, onlySlice_modSlice hat _⟩

/-- A slice that parks: a compute strand until it is woken, an address slice stalled with the class (R98). -/
def Slice.parkedOn (sl : Slice) (strand : Bool) (w : WaitFor) : Slice :=
  if strand then { sl with run := .parked w, stall := none, waits := some w } else { sl with stall := some w.cls, waits := some w }

theorem onlySlice_parkSlice (w : WaitFor) : OnlySlice s (parkSlice s id w) id (sl.parkedOn id.strand.isSome w) :=
  onlySlice_modSlice hat _

end

@[simp] theorem Slice.parkedOn_pc (sl : Slice) (b : Bool) (w : WaitFor) : (sl.parkedOn b w).pc = sl.pc := by cases b <;> rfl
@[simp] theorem Slice.parkedOn_regs (sl : Slice) (b : Bool) (w : WaitFor) : (sl.parkedOn b w).regs = sl.regs := by cases b <;> rfl

/-! ### An instruction of the tables -/

section
variable {i : Instr} {n : Nat} {f : Form} {g : Vals → Int}

theorem exec_of_arithmeticRule (h : arithmeticRule i = some (n, f, g)) (s : State) :
    ∃ k, exec i s = runOwn f s (fun _ _ => .ok ()) k := by
  unfold arithmeticRule at h
  split at h <;> cases h <;> exact ⟨_, rfl⟩

theorem exec_of_bitRule (h : bitRule i = some (n, f, g)) (s : State) : ∃ k, exec i s = runOwn f s (fun _ _ => .ok ()) k := by
  unfold bitRule at h
  split at h <;> cases h <;> exact ⟨_, rfl⟩

theorem exec_of_moveRule (h : moveRule i = some (n, f, g)) (s : State) : ∃ k, exec i s = runOwn f s (fun _ _ => .ok ()) k := by
  unfold moveRule at h
  split at h <;> cases h <;> exact ⟨_, rfl⟩

end

theorem exec_of_floatRule {i : Instr} {f : Form} {g : Word → Word → Word → FRes} (h : floatRule i = some (f, g)) (s : State) :
    ∃ k, exec i s = runOwn f s (fun _ _ => .ok ()) k := by
  unfold floatRule at h
  split at h <;> cases h <;> exact ⟨_, rfl⟩

/-- Settles O16: each instruction of the tables runs over its form, so what stops the gathering is what `stopAt` does. -/
theorem stoppedInstruction : Obligations.StoppedInstruction := by
  refine ⟨fun i f s tm sl st hrule hat hg => ?_, fun s tm sl f vd va vb n hat hbq hd ha hb hn hp => ⟨?_, ?_⟩⟩
  · have hexec : exec i s = .next (stopAt s s.cur f st) := by
      have hrun : ∃ k, exec i s = runOwn f s (fun _ _ => .ok ()) k := by
        obtain ⟨n, g, h⟩ | ⟨n, g, h⟩ | ⟨n, g, h⟩ | ⟨g, h⟩ := hrule
        · exact exec_of_arithmeticRule h s
        · exact exec_of_bitRule h s
        · exact exec_of_moveRule h s
        · exact exec_of_floatRule h s
      obtain ⟨k, hk⟩ := hrun
      rw [hk, runOwn_of_stop hat hg]
    refine ⟨hexec, ?_, ?_⟩
    · rintro t rfl
      exact hexec
    · rintro w rfl
      refine ⟨_, _, hexec, onlySlice_parkSlice hat w, Slice.parkedOn_pc .., Slice.parkedOn_regs .., fun hstrand => ?_, fun hstrand => ?_⟩
      · rw [hstrand]; rfl
      · rw [hstrand]; exact ⟨rfl, rfl⟩
  · exact gather_of_pending (declChecks_of_plain hd ha hb) ((Form.pending_iff hbq ..).2 ⟨n, hn, hp⟩)
  · rw [stopAt, hat]
    exact onlySlice_waitPending hat _ _

end Sys2Proof.Machine
end

section
/-! CLAIM. Completing an instruction that pops and pushes nothing: one slice, its destination, its flags and its PC (R25, R27, R29, R105). -/

namespace Sys2Proof.Machine

/-- In a state, the slice has become another at most: it has been replaced, or it has stayed as it was. -/
def SliceBecomes (s : State) (id : SliceId) (tm : Team) (sl sl' : Slice) (t : State) : Prop :=
  t = putSlice s id tm sl' ∨ (t = s ∧ sl' = sl)

/-- The slice after it has completed an instruction: at the next one, with no mark of the old one (R29). -/
def Slice.goneOn (sl : Slice) (next : Word) : Slice :=
  { sl with pc := next, stall := none, await := none, skip := false, arrived := none, waits := none, scatter := [], linv := 0 }

/-- The record of the step trap, which stands at the next instruction (R105). -/
def stepRecord (s : State) (id : SliceId) (tm : Team) (sl : Slice) (next : Word) : TrapRecord :=
  trapRecord s id tm (sl.goneOn next) { cause := .step, next := next }

@[simp] theorem Slice.flag_zero (sl : Slice) : sl.flag 0 = sl := by simp [Slice.flag]

/-- A record is made of the package, the team's launch and world, and the slice itself. -/
theorem trapRecord_putSlice (s : State) (id : SliceId) (tm : Team) (x sl : Slice) (i : TrapInfo) :
    trapRecord (putSlice s id tm x) id (tm.putSlice id.strand x) sl i = trapRecord s id tm sl i := by
  simp [trapRecord]

/-- A slice replaced changes no queue that records go to. -/
theorem recordQueue_putSlice (s : State) (id : SliceId) (tm : Team) (x : Slice) (launch : Nat) (c : TrapClass) :
    recordQueue (putSlice s id tm x) launch c = recordQueue s launch c := rfl

/-- A slice replaced that then traps. -/
theorem trapSlice_putSlice {s : State} {id : SliceId} {tm : Team} {sl : Slice} (hat : sliceAt s id = some (tm, sl)) (x : Slice)
    (i : TrapInfo) : trapSlice (putSlice s id tm x) id i = { putSlice s id tm (x.stopped (trapRecord s id tm x i)) with
      waiting := s.waiting ++
        [⟨recordQueue s tm.launch i.cause.cls, (trapRecord s id tm x i).words, .slice (tm.name id.strand), false⟩] } := by
  rw [trapSlice_of_sliceAt (sliceAt_putSlice_self (teamAt_of_sliceAt hat).2 x), trapRecord_putSlice, putSlice_putSlice_self,
    recordQueue_putSlice, Team.putSlice_launch, Team.putSlice_name, putSlice_waiting]

/-- Completing with the step bit set is the step trap (R105). -/
theorem complete_of_stepBit {s : State} {id : SliceId} {tm : Team} {sl : Slice} (hat : sliceAt s id = some (tm, sl))
    (hb : sl.stepBit = true) (next : Word) :
    complete s id next = trapSlice (putSlice s id tm (sl.goneOn next)) id { cause := .step, next := next } := by
  unfold complete
  rw [hat]
  exact if_pos hb

/-- A result written to a register or pair, by its halves (R5). -/
theorem highWord_eq_ofNat (v : DWord) : highWord v = BitVec.ofNat 32 (v.toNat / 2 ^ 32) := by
  rw [← Nat.shiftRight_eq_div_pow]; rfl

section
variable {s : State} {id : SliceId} {tm : Team} {sl sl' : Slice} {t : State} (hat : sliceAt s id = some (tm, sl))
include hat

/-- What a slice that has become another is, and how it is replaced. -/
theorem SliceBecomes.stands (h : SliceBecomes s id tm sl sl' t) :
    ∃ tm', sliceAt t id = some (tm', sl') ∧ ∀ x, putSlice t id tm' x = putSlice s id tm x := by
  obtain rfl | ⟨rfl, rfl⟩ := h
  · exact ⟨_, sliceAt_putSlice_self (teamAt_of_sliceAt hat).2 _, fun x => putSlice_putSlice_self ..⟩
  · exact ⟨tm, hat, fun _ => rfl⟩

/-- One slice changed again. -/
theorem SliceBecomes.modSlice (h : SliceBecomes s id tm sl sl' t) (g : Slice → Slice) :
    SliceBecomes s id tm sl (g sl') (Machine.modSlice t id g) := by
  obtain ⟨tm', hat', hput⟩ := h.stands hat
  exact .inl ((modSlice_of_sliceAt hat' g).trans (hput _))

/-- A result written to a register, a pair or code 126 (R25, R27). -/
theorem sliceBecomes_writeDst {d : Dst} (hd : ∀ q, d ≠ .queue q) (w : Width) (r : DWord) :
    SliceBecomes s id tm sl { sl with regs := writtenRegs d w r sl.regs } (writeDst s id d w r) := by
  have hstart : SliceBecomes s id tm sl sl s := .inr ⟨rfl, rfl⟩
  cases d with
  | queue q => exact absurd rfl (hd q)
  | zero => exact hstart
  | reg n => cases w with
    | no | w32 => exact hstart.modSlice hat fun x => x.setReg n.val (lowWord r)
    | w64 =>
      have h := hstart.modSlice hat fun x => x.setPair n.val r
      rwa [Slice.setPair, highWord_eq_ofNat] at h

/-- Flags set (R78). -/
theorem SliceBecomes.setFlags (h : SliceBecomes s id tm sl sl' t) (fl : Word) :
    SliceBecomes s id tm sl (sl'.flag fl) (Machine.setFlags t id fl) := by
  unfold Machine.setFlags
  split
  next hfl => rwa [hfl, Slice.flag_zero]
  next => exact h.modSlice hat fun x => x.flag fl

/-- Completing with the step bit clear (R29). -/
theorem SliceBecomes.complete (h : SliceBecomes s id tm sl sl' t) (hb : sl'.stepBit = false) (next : Word) :
    Machine.complete t id next = putSlice s id tm (sl'.goneOn next) := by
  obtain ⟨tm', hat', hput⟩ := h.stands hat
  exact (complete_of_sliceAt hat' hb next).trans (hput _)

/-- Completing with the step bit set: the step trap at the next instruction, whose record waits (R105; log 112). -/
theorem SliceBecomes.complete_step (h : SliceBecomes s id tm sl sl' t) (hb : sl'.stepBit = true) (next : Word) :
    Machine.complete t id next = { putSlice s id tm ((sl'.goneOn next).stopped (stepRecord s id tm sl' next)) with
      waiting := s.waiting ++
        [⟨recordQueue s tm.launch .debug, (stepRecord s id tm sl' next).words, .slice (tm.name id.strand), false⟩] } := by
  obtain ⟨tm', hat', hput⟩ := h.stands hat
  rw [complete_of_stepBit hat' hb, hput, trapSlice_putSlice hat]
  rfl

/-- The slice before it goes on: its result written and its flags set. -/
theorem sliceBecomes_result {f : Form} (hd : ∀ q, f.d ≠ .queue q) (r : DWord) (fl : Word) :
    SliceBecomes s id tm sl { sl with regs := writtenRegs f.d f.dw r sl.regs, fflags := sl.fflags ||| fl }
      (setFlags (writeDst s id f.d f.dw r) id fl) :=
  (sliceBecomes_writeDst hat hd f.dw r).setFlags hat fl

end

section
variable {s : State} {tm : Team} {sl : Slice} (hat : sliceAt s s.cur = some (tm, sl)) {f : Form} {v : Vals} (hpops : v.pops = [])
  (hd : ∀ q, f.d ≠ .queue q) (r : DWord) (fl : Word)
include hat hpops hd

theorem finish_of_no_step (hb : sl.stepBit = false) :
    finish f sl v r fl s = putSlice s s.cur tm
      ({ sl with regs := writtenRegs f.d f.dw r sl.regs, fflags := sl.fflags ||| fl }.goneOn (nextPc sl.pc f.len)) := by
  rw [finish, finishTo, hpops, commitAt_nil]
  exact (sliceBecomes_result hat hd r fl).complete hat hb _

end

/-- Settles O17: completing replaces the slice once, or once more by its step trap. -/
theorem completionFrame : Obligations.CompletionFrame := by
  refine ⟨fun s tm sl f v r fl next hat hb hpops hd => ⟨?_, ?_, fun a => ?_⟩, fun s tm sl f v r fl hat hb hpops hd => ?_⟩
  · rw [finish_of_no_step hat hpops hd r fl hb]
    exact onlySlice_putSlice hat _
  · rw [finishNone, hpops, commitAt_nil, complete_of_sliceAt hat hb]
    exact onlySlice_putSlice hat _
  · have hkept := Kept.finish f sl v r fl s
    rw [hkept.mem, hkept.hostMem]
    exact ⟨rfl, rfl⟩
  · have hfinish := (sliceBecomes_result hat hd r fl).complete_step hat hb (nextPc sl.pc f.len)
    rw [finish, finishTo, hpops, commitAt_nil, hfinish]
    exact ⟨_, _, onlySlice_putSlice hat _, rfl, rfl, rfl, rfl, hb, rfl, rfl, rfl, rfl, rfl, rfl⟩

end Sys2Proof.Machine
end

section
/-! SUPPORT. Targets, branches and the allowance word (R24, R132, R408, R409). -/

namespace Sys2Proof.Machine

/-- An instruction that gathers its operands goes on. -/
theorem run_of_gathers {s : State} {f : Form} {tm : Team} {sl : Slice} {v : Vals} (hg : Gathers s f (.ok ()) tm sl v)
    (k : Team → Slice → Vals → State) : run f s k = .next (k tm sl v) :=
  runOwn_of_gather hg.1 hg.2

/-! ### Targets -/

/-- The PC past a word (R24). -/
@[simp] theorem nextPc_one (pc : Word) : nextPc pc 1 = pc + 4 := rfl

/-- The signed reading of an immediate. -/
theorem lowSigned_toNat (imm : BitVec 17) : lowSigned 17 (imm.toNat : Int) = imm.toInt := by
  have h := imm.isLt
  unfold lowSigned
  rw [BitVec.toInt_eq_toNat_cond]
  split <;> split <;> omega

/-- The target of a format J transfer (R24). -/
theorem branchTarget_eq (pc : Word) (imm : BitVec 17) : branchTarget pc imm = targetOfJ pc imm := by
  rw [branchTarget, targetOfJ, lowSigned_toNat, BitVec.ofInt_add, BitVec.ofInt_mul, BitVec.ofInt_natCast, BitVec.ofNat_toNat,
    BitVec.setWidth_eq, BitVec.signExtend]
  rfl

/-- A transfer from an aligned PC is aligned. -/
theorem misaligned_branchTarget {pc : Word} (h : pc.toNat % 4 = 0) (imm : BitVec 17) : misaligned (branchTarget pc imm) = false := by
  have hmod : (branchTarget pc imm).toNat % 4 = 0 := by
    unfold branchTarget
    generalize imm.signExtend 32 = y
    bv_omega
  rw [misaligned, hmod]
  rfl

theorem misaligned_eq_false {t : Word} (h : t.toNat % 4 = 0) : misaligned t = false := by rw [misaligned, h]; rfl
theorem misaligned_eq_true {t : Word} (h : t.toNat % 4 ≠ 0) : misaligned t = true := bne_iff_ne.2 h

/-! ### The allowance word -/

section
variable {s : State} {c world : Nat} {x : Word}

/-- ALWR of a package that is in phase: the fields of its entry (R408). -/
theorem alwrOp_of_inPhase (hp : x.toNat < 4608) (hin : inPhase s x.toNat = true)
    (halw : (allowAt (core s c) (allowIndex (core s c) world x.toNat)).alw < 256) :
    (alwrOp s c world x).toNat =
      min 255 (allowAt (core s c) (allowIndex (core s c) world x.toNat)).waiters.length * 2 ^ 16 +
      bitAt (allowIndex (core s c) world x.toNat == 31) 8 + (allowAt (core s c) (allowIndex (core s c) world x.toNat)).alw := by
  have hbit : bitAt (allowIndex (core s c) world x.toNat == 31) 8 ≤ 256 := by
    unfold bitAt; split <;> decide
  rw [alwrOp, if_neg (by simp [hin]; omega), BitVec.toNat_ofNat, Nat.mod_eq_of_lt halw]
  omega

/-- ALWR of any other package (R408). -/
theorem alwrOp_of_not_inPhase (h : 4608 ≤ x.toNat ∨ inPhase s x.toNat = false) : alwrOp s c world x = 0x80000000 :=
  if_pos (h.imp_right Bool.eq_false_iff.1)

end

/-- BALW goes to its target exactly when a one-unit charge would succeed (R409). -/
theorem balwTaken_alwrOp {s : State} {c world : Nat} {x : Word}
    (halw : (allowAt (core s c) (allowIndex (core s c) world x.toNat)).alw < 256) :
    balwTaken (alwrOp s c world x) = true ↔ x.toNat < 4608 ∧ inPhase s x.toNat = true ∧
      (allowAt (core s c) (allowIndex (core s c) world x.toNat)).waiters = [] ∧
      1 ≤ (allowAt (core s c) (allowIndex (core s c) world x.toNat)).alw := by
  by_cases hgood : x.toNat < 4608 ∧ inPhase s x.toNat = true
  · obtain ⟨hp, hin⟩ := hgood
    have hbit : bitAt (allowIndex (core s c) world x.toNat == 31) 8 = 0 ∨ bitAt (allowIndex (core s c) world x.toNat == 31) 8 = 256 := by
      unfold bitAt; split <;> simp
    simp only [balwTaken, wfield, alwrOp_of_inPhase hp hin halw, hp, hin, true_and, Bool.and_eq_true, beq_iff_eq, decide_eq_true_eq,
      ← List.length_eq_zero_iff]
    omega
  · have hbad : 4608 ≤ x.toNat ∨ inPhase s x.toNat = false :=
      (not_and_or.1 hgood).imp Nat.not_lt.1 Bool.eq_false_iff.2
    rw [alwrOp_of_not_inPhase hbad]
    exact iff_of_false (by decide) fun h => hgood ⟨h.1, h.2.1⟩

end Sys2Proof.Machine
end

section
/-! CLAIM. Control transfer in both sets: branches, the allowance reads, and the traps of transfers, of the traps on demand and of the fetch
(R132 to R139, R408, R409). -/

namespace Sys2Proof.Machine

theorem lowWord_toNat (v : DWord) : (lowWord v).toNat = v.toNat % 2 ^ 32 := BitVec.toNat_setWidth ..

theorem lowWord_eq_zero_iff (v : DWord) : lowWord v = 0 ↔ v.toNat % 2 ^ 32 = 0 := by
  rw [← lowWord_toNat]
  exact BitVec.toNat_inj.symm

/-- A fetch trap of a slice that stands there (R453). -/
theorem fetchTrap_of_sliceAt {s : State} {tm : Team} {sl : Slice} (hat : sliceAt s s.cur = some (tm, sl)) (t : Word → TrapInfo) :
    fetchTrap s t = .next (trapSlice s s.cur (t sl.pc)) := by
  rw [fetchTrap, hat]

/-- Settles O33: each instruction gathers and then answers by its first check that fails. -/
theorem controlTraps : Obligations.ControlTraps := by
  refine ⟨fun i a imm s tm sl v => ⟨fun hi hg => ?_, fun hi hg => ?_, fun hi hg hpc hsp => ?_, fun hi hg hsp => ?_⟩,
    fun i imm s tm sl v w => ⟨fun hi hg => ?_, fun hi hg => ?_, fun hat => ?_⟩⟩
  · have hexec : exec i s = jmpr i.isTeam a s := by obtain rfl | rfl := hi <;> rfl
    rw [hexec, jmpr, run_of_gathers hg]
    exact ⟨fun hal => by rw [misaligned_eq_false hal]; rfl, fun hal => by rw [misaligned_eq_true hal]; rfl⟩
  · have hexec : exec i s = callr i.isTeam a s := by obtain rfl | rfl := hi <;> rfl
    rw [hexec, callr, run_of_gathers hg, callTo]
    refine ⟨fun hal => ?_, fun hal hsp => ?_⟩
    · rw [misaligned_eq_true hal]; rfl
    · rw [misaligned_eq_false hal, if_pos hsp]; rfl
  · have hexec : exec i s = call i.isTeam imm s := by obtain rfl | rfl := hi <;> rfl
    rw [hexec, call, run_of_gathers hg, callTo, misaligned_branchTarget hpc, if_pos hsp]
    rfl
  · have hexec : exec i s = ret i.isTeam s := by obtain rfl | rfl := hi <;> rfl
    rw [hexec, ret, run_of_gathers hg, if_pos hsp]
    rfl
  · have hexec : exec i s = trapCode i.isTeam .trap imm s := by obtain rfl | rfl := hi <;> rfl
    rw [hexec, trapCode, run_of_gathers hg]
    rfl
  · have hexec : exec i s = trapCode i.isTeam .breakpoint imm s := by obtain rfl | rfl := hi <;> rfl
    rw [hexec, trapCode, run_of_gathers hg]
    rfl
  · exact ⟨fetchTrap_of_sliceAt hat fun pc => { cause := .illegalOp, next := nextPc pc 1, info0 := w.setWidth 64 },
      fetchTrap_of_sliceAt hat fun pc => { cause := .wrongSlice, next := nextPc pc 1, info0 := w.setWidth 64 },
      fetchTrap_of_sliceAt hat fun _ => { cause := .fetchRange, next := 0, info0 := w.setWidth 64 }⟩

/-- A branch goes to its target exactly when its test of A holds (R132). -/
theorem branch_of_gathers {s : State} {team : Bool} {a : Src} {imm : BitVec 17} {tm : Team} {sl : Slice} {v : Vals}
    (hg : Gathers s (formJs team a) (.ok ()) tm sl v) {taken : Word → Bool} {p : Prop} [Decidable p] (hp : taken (lowWord v.a) = true ↔ p) :
    branch team a imm s taken = .next (finishNone v (if p then targetOfJ sl.pc imm else sl.pc + 4) s) := by
  rw [branch, run_of_gathers hg, branchTarget_eq]
  exact congrArg (fun next => Host.Outcome.next (finishNone v next s)) (if_congr hp rfl rfl)

/-- Settles O31: each branch tests what its rule names, and ALWR writes the word that BALW tests. -/
theorem branches : Obligations.Branches := by
  refine ⟨fun i a imm s tm sl v => ⟨fun hi hg => ?_, fun hi hg => ?_, fun hi hg => ?_, fun hi hg => ?_, fun hi hg => ?_, fun hi hg => ?_⟩,
    fun i d a s tm sl v => ?_⟩
  · have hexec : exec i s = bra i.isTeam imm s := by obtain rfl | rfl := hi <;> rfl
    rw [hexec, bra, run_of_gathers hg, branchTarget_eq]
  · have hexec : exec i s = branch i.isTeam a imm s (fun x => x != 0) := by obtain rfl | rfl := hi <;> rfl
    rw [hexec]
    exact branch_of_gathers hg (bne_iff_ne.trans (not_congr (lowWord_eq_zero_iff _)))
  · have hexec : exec i s = branch i.isTeam a imm s (fun x => x == 0) := by obtain rfl | rfl := hi <;> rfl
    rw [hexec]
    exact branch_of_gathers hg (beq_iff_eq.trans (lowWord_eq_zero_iff _))
  · have hexec : exec i s = balw i.isTeam a imm s := by obtain rfl | rfl := hi <;> rfl
    intro p x halw
    have htaken := balwTaken_alwrOp (s := s) (c := s.cur.core) (world := tm.world) (x := lowWord v.a) (by rwa [lowWord_toNat])
    rw [lowWord_toNat] at htaken
    rw [hexec, balw, run_of_gathers hg, branchTarget_eq]
    exact congrArg (fun next => Host.Outcome.next (finishNone v next s)) (if_congr htaken rfl rfl)
  · have hexec : exec i s = nop i.isTeam s := by obtain rfl | rfl := hi <;> rfl
    rw [hexec, nop, run_of_gathers hg, nextPc_one]
  · have hexec : exec i s = yield i.isTeam s := by obtain rfl | rfl := hi <;> rfl
    rw [hexec, yield, run_of_gathers hg, nextPc_one]
  · intro f p e x hi hg halw
    have hexec : exec i s = alwr i.isTeam d a s := by obtain rfl | rfl := hi <;> rfl
    refine ⟨(alwrOp s s.cur.core tm.world (lowWord v.a)).toNat, ?_, fun hp hin => ?_, fun hbad => ?_⟩
    · rw [hexec, BitVec.ofNat_toNat]
      exact run_of_gathers hg _
    · have hword : (alwrOp s s.cur.core tm.world (lowWord v.a)).toNat =
          min 255 x.waiters.length * 2 ^ 16 + bitAt (e == 31) 8 + x.alw := by
        rw [alwrOp_of_inPhase (by rwa [lowWord_toNat]) (by rwa [lowWord_toNat]) (by rwa [lowWord_toNat]), lowWord_toNat]
      have hbit : bitAt (e == 31) 8 = 2 ^ 8 * if e = 31 then 1 else 0 := by simp [bitAt]
      have hone : (if e = 31 then 1 else 0) ≤ 1 := by split <;> decide
      rw [hword, hbit]
      omega
    · rw [alwrOp_of_not_inPhase (by rwa [lowWord_toNat])]
      rfl

end Sys2Proof.Machine
end

section
/-! CLAIM. A compute strand that pops a forward queue (R187, R189). -/

namespace Sys2Proof.Machine

/-- The element of an entry that belongs to a strand (R187). -/
theorem elemOf_eq (d : QueueDecl) (i : Nat) : FEntry.elemOf d i = if d.kind = .lane then i else 0 := by
  unfold FEntry.elemOf
  cases d.kind <;> rfl

section
variable {tm : Team} {sl : Slice} {i q k : Nat}

section
variable {e : FEntry} {x : Elem}
  (he : (tm.fqueue q).entries[listGetD sl.popped q 0 + k - (tm.fqueue q).base]? = some e)
  (hx : e.elems[FEntry.elemOf (tm.queueDecl false q) i]? = some x)
include he hx

theorem popForward_of_performed (h : x.state = .performed) : popForward tm sl i q k = .value x.value := by
  simp only [popForward, he, hx, h]

theorem popForward_of_poisoned {p : Poison} (h : x.state = .poisoned p) :
    popForward tm sl i q k =
      .poison (listGetD sl.popped q 0 + k) (FEntry.elemOf (tm.queueDecl false q) i) x p e.pc := by
  simp only [popForward, he, hx, h]

end

/-- A pop waits while its element is missing or neither performed nor poisoned (R189). -/
theorem popForward_of_waits (h : ∀ e x, (tm.fqueue q).entries[listGetD sl.popped q 0 + k - (tm.fqueue q).base]? = some e →
    e.elems[FEntry.elemOf (tm.queueDecl false q) i]? = some x → x.unperformed = true) : popForward tm sl i q k = .wait := by
  cases he : (tm.fqueue q).entries[listGetD sl.popped q 0 + k - (tm.fqueue q).base]? with
  | none => simp only [popForward, he]
  | some e =>
    cases hx : e.elems[FEntry.elemOf (tm.queueDecl false q) i]? with
    | none => simp only [popForward, he, hx]
    | some x =>
      have hun := h e x he hx
      cases hs : x.state with
      | pending | sent _ | arrived _ | failed _ => simp only [popForward, he, hx, hs]
      | performed | poisoned _ => simp [Elem.unperformed, hs] at hun

end

/-! ### The value of a source that pops -/

section
variable {tm : Team} {sl : Slice} {i k : Nat} {q : Fin 8} {wd : Width}

theorem value_of_popForward_value {x : Word} (h : popForward tm sl i q.val k = .value x) :
    Src.value tm sl (some i) wd k (.queue q) = .ok (x.setWidth 64) := by
  simp only [Src.value, h]

theorem value_of_popForward_wait (h : popForward tm sl i q.val k = .wait) :
    Src.value tm sl (some i) wd k (.queue q) =
      .error (.park (.elem q.val (listGetD sl.popped q.val 0 + k) (FEntry.elemOf (tm.queueDecl false q.val) i))) := by
  simp only [Src.value, h]

theorem value_of_popForward_poison {entry elem : Nat} {e : Elem} {p : Poison} {pc : Word}
    (h : popForward tm sl i q.val k = .poison entry elem e p pc) :
    Src.value tm sl (some i) wd k (.queue q) = .error (.poison q.val entry elem e p pc) := by
  simp only [Src.value, h]

/-- A declared queue that the lane set pops passes the checks of the declarations. -/
theorem Src.undeclared_queue {tm : Team} {team : Bool} {q : Fin 8} (h : (tm.queueDecl team q.val).kind ≠ .undeclared) :
    Src.undeclared tm team (.queue q) = false := beq_eq_false_iff_ne.2 h

end

/-- Settles O18: the checks pass, and the gathering goes as far as its two pops. -/
theorem forwardPops : Obligations.ForwardPops := by
  intro s tm sl i d vd q f at_ mine waits hd hnone hkind
  have hdecl : declChecks f tm sl = .ok () :=
    declChecks_ok (regBad_of_plainDst hd) rfl rfl (Dst.undeclared_of_not_queue (ne_queue_of_plainDst hd)) (Src.undeclared_queue hkind)
      (Src.undeclared_queue hkind) (Dst.wrongKind_of_not_queue (ne_queue_of_plainDst hd)) rfl rfl
      (Dst.readQueue_of_not_queue (ne_queue_of_plainDst hd))
  have hmine : FEntry.elemOf (tm.queueDecl false q.val) i = mine := elemOf_eq _ _
  have hgather : gather s (some i) tm sl f (.ok ()) = (do
      let va ← Src.value tm sl (some i) .w32 0 (.queue q)
      let vb ← Src.value tm sl (some i) .w32 1 (.queue q)
      roomForPush s tm sl (some i) f
      .ok ⟨Dst.value sl .w32 d, va, vb, [q.val, q.val]⟩) := by
    have hpopped : Src.pops f.a = Src.pops f.b := rfl -- so B takes the entry after A's
    have h := gather_of_declChecks_ok (w := some i) rfl hdecl (pending_of_nonePending rfl hnone) rfl
    rwa [if_pos hpopped] at h
  refine ⟨fun e0 e1 x0 x1 he0 he1 hx0 hx1 hp0 hp1 => ?_, fun hwait => ?_, fun e0 x0 he0 hx0 hp0 hwait => ?_, rfl⟩
  · rw [hgather, value_of_popForward_value (popForward_of_performed he0 (hmine ▸ hx0) hp0),
      value_of_popForward_value (popForward_of_performed he1 (hmine ▸ hx1) hp1), roomForPush_of_not_queue (ne_queue_of_plainDst hd),
      value_of_plainDst hd]
    rfl
  · rw [hgather, value_of_popForward_wait (popForward_of_waits (hmine ▸ hwait)), hmine]
    rfl
  · rw [hgather, value_of_popForward_value (popForward_of_performed he0 (hmine ▸ hx0) hp0),
      value_of_popForward_wait (popForward_of_waits (hmine ▸ hwait)), hmine]
    rfl

end Sys2Proof.Machine
end

section
/-! CLAIM. A pop that reaches a poisoned element (R200). -/

namespace Sys2Proof.Machine

/-! ### States whose slices are the same -/

/-- A notice posted leaves the slices as they were. -/
theorem sliceAt_postNotice (s : State) (q : Requester) (f : PathFault) (id : SliceId) : sliceAt (postNotice s q f) id = sliceAt s id := by
  unfold postNotice
  split <;> rfl

/-- A fault record posted leaves the slices as they were. -/
theorem sliceAt_postFault (s : State) (launch : Nat) (q : Requester) (f : PathFault) (m : Master) (id : SliceId) :
    sliceAt (postFault s launch q f m) id = sliceAt s id := by
  unfold postFault
  dsimp only
  split
  · exact sliceAt_postNotice ..
  · rfl

/-- A change of the team that leaves the slice in it. -/
theorem sliceAt_modTeam {s : State} {id : SliceId} {tm : Team} {sl : Slice} (hat : sliceAt s id = some (tm, sl)) {g : Team → Team}
    (hg : (g tm).slice id.strand = tm.slice id.strand) : sliceAt (modTeam s (teamIdOf id) g) id = some (g tm, sl) := by
  obtain ⟨hteam, hslice⟩ := teamAt_of_sliceAt hat
  rw [modTeam_of_teamAt hteam, sliceAt, teamAt_putTeam_self]
  simp only [hg, hslice, Option.map_some]

/-! ### The trap of a poisoned pop -/

/-- What a POISON_POP trap records: the queue code and the PC of the queue load (R200, R453). -/
def poisonInfo (sl : Slice) (f : Form) (q : Nat) (p : Poison) (pc : Word) : TrapInfo :=
  { cause := .poisonPop, next := nextPc sl.pc f.len, info0 := BitVec.ofNat 64 (116 + q), info1 := pc.setWidth 64,
    detail0 := (p.trace.shown 0).words.1, detail1 := (p.trace.shown 0).words.2 }

/-- The slice that has trapped at a poisoned element, which it will fetch again (R200, R201). -/
def poisonedSlice (s : State) (id : SliceId) (tm : Team) (sl : Slice) (f : Form) (q entry : Nat) (p : Poison) (pc : Word) : Slice :=
  let seen := { sl with poisonSeen := some (q, entry) }
  seen.stopped (trapRecord s id tm seen (poisonInfo sl f q p pc))

/-- The record of a poisoned element posted, here or by the package that refused the access (R200, R386). -/
def poisonReport (s : State) (id : SliceId) (tm : Team) (e : Elem) (p : Poison) (pc : Word) : State :=
  let r := { sliceRequester s { id with strand := none } tm tm.addr e.off 4 with pc := pc }
  let m : Master := if p.fault.cause.cls == .violation then .slice (tm.name id.strand) else .nobody
  match p.target with
  | none => postFault s tm.launch r p.fault m
  | some t =>
    let s := postNotice (sendRecord s t tm.world r p.fault) r p.fault
    if p.fault.cause.cls == .violation then { s with remoteFaults := s.remoteFaults ++ [⟨t, s.nextAccess - 1, false, m⟩] } else s

theorem sliceAt_poisonReport (s : State) (id : SliceId) (tm : Team) (e : Elem) (p : Poison) (pc : Word) (id' : SliceId) :
    sliceAt (poisonReport s id tm e p pc) id' = sliceAt s id' := by
  unfold poisonReport
  cases p.target with
  | none => exact sliceAt_postFault ..
  | some t =>
    have hnotice (r : Requester) : sliceAt (postNotice (sendRecord s t tm.world r p.fault) r p.fault) id' = sliceAt s id' :=
      sliceAt_postNotice ..
    dsimp only
    split
    · exact hnotice _
    · exact hnotice _

/-- The trap of a poisoned pop, step by step: the slice stops, and at the element's first pop its record is posted. -/
theorem poisonTrap_of_sliceAt {s : State} {id : SliceId} {tm : Team} {sl : Slice} (hat : sliceAt s id = some (tm, sl)) (f : Form)
    (q entry elem : Nat) (e : Elem) (p : Poison) (pc : Word) :
    poisonTrap s id f q entry elem e p pc =
      (let s1 := trapSlice (modSlice s id fun sl => { sl with poisonSeen := some (q, entry) }) id (poisonInfo sl f q p pc)
       if p.posted || !(p.fault.cause.cls == .miss || p.fault.cause.cls == .violation) then s1
       else
         let s2 := poisonReport (modTeam s1 (teamIdOf id) fun tm => markPosted tm q entry elem) id tm e p pc
         if p.fault.cause.cls == .violation then modTeam s2 (teamIdOf id) fun tm => { tm with frozen := true } else s2) := by
  unfold poisonTrap
  rw [hat]
  rfl

/-- The slice stops; at the element's first pop the record of a violation freezes its team (R200). -/
theorem sliceAt_poisonTrap {s : State} {id : SliceId} {tm : Team} {sl : Slice} (hat : sliceAt s id = some (tm, sl)) (f : Form)
    (q entry elem : Nat) (e : Elem) (p : Poison) (pc : Word) :
    ∃ tm', sliceAt (poisonTrap s id f q entry elem e p pc) id = some (tm', poisonedSlice s id tm sl f q entry p pc) ∧
      (p.fault.cause.cls = .violation → p.posted = false → tm'.frozen = true) := by
  rw [poisonTrap_of_sliceAt hat]
  have hat1 : sliceAt (trapSlice (modSlice s id fun sl => { sl with poisonSeen := some (q, entry) }) id (poisonInfo sl f q p pc)) id =
      some (tm.putSlice id.strand (poisonedSlice s id tm sl f q entry p pc), poisonedSlice s id tm sl f q entry p pc) := by
    rw [modSlice_of_sliceAt hat, trapSlice_putSlice hat]
    exact sliceAt_putSlice_self (teamAt_of_sliceAt hat).2 _
  have hat2 := sliceAt_modTeam (g := fun tm => markPosted tm q entry elem) hat1 (by cases id.strand <;> rfl)
  rw [← sliceAt_poisonReport _ id tm e p pc] at hat2
  split
  next hskip => exact ⟨_, hat1, fun hcls hposted => by simp [hcls, hposted] at hskip⟩
  next =>
    dsimp only
    split
    next => exact ⟨_, sliceAt_modTeam hat2 (by cases id.strand <;> rfl), fun _ _ => rfl⟩
    next hcls => exact ⟨_, hat2, fun h => absurd (beq_iff_eq.2 h) hcls⟩

/-- The poisons of a violation (R199, R204). -/
theorem cls_of_violation {p : Poison} (h : p.cause = 0x21 ∨ p.cause = 0x22 ∨ p.cause = 0x23) : p.fault.cause.cls = .violation := by
  obtain h | h | h := h <;> (unfold Poison.fault; rw [h]; rfl)

/-- Settles O22: the gathering stops at its pop, and the slice has not trapped at the element before. -/
theorem poisonedPop : Obligations.PoisonedPop := by
  intro s tm sl i d vd q e x p f mine hat hstrand hd hnone hkind he hx hp hseen
  have hdecl : declChecks f tm sl = .ok () :=
    declChecks_ok (regBad_of_plainDst hd) rfl rfl (Dst.undeclared_of_not_queue (ne_queue_of_plainDst hd)) (Src.undeclared_queue hkind)
      rfl (Dst.wrongKind_of_not_queue (ne_queue_of_plainDst hd)) rfl rfl (Dst.readQueue_of_not_queue (ne_queue_of_plainDst hd))
  have hmine : FEntry.elemOf (tm.queueDecl false q.val) i = mine := elemOf_eq _ _
  have hpop : popForward tm sl i q.val 0 = .poison (listGetD sl.popped q.val 0) mine x p e.pc := by
    rw [popForward_of_poisoned he (hmine ▸ hx) hp, hmine]
    rfl
  have hgather : gather s s.cur.strand tm sl f (.ok ()) = .error (.poison q.val (listGetD sl.popped q.val 0) mine x p e.pc) := by
    rw [hstrand, gather_of_declChecks_ok rfl hdecl (pending_of_nonePending rfl hnone) rfl]
    change (Src.value tm sl (some i) .w32 0 (.queue q) >>= _) = _
    rw [value_of_popForward_poison hpop]
    rfl
  have hstop : stopAt s s.cur f (.poison q.val (listGetD sl.popped q.val 0) mine x p e.pc) =
      poisonTrap s s.cur f q.val (listGetD sl.popped q.val 0) mine x p e.pc := by
    rw [stopAt, hat]
    exact if_neg (by simp [hseen])
  obtain ⟨tm', hat', hfrozen⟩ := sliceAt_poisonTrap hat f q.val (listGetD sl.popped q.val 0) mine x p e.pc
  obtain ⟨k, hexec⟩ := exec_of_moveRule (i := .mov d (.queue q)) rfl s
  refine ⟨_, tm', _, _, (hexec.trans (runOwn_of_stop hat hgather)).trans (congrArg _ hstop), hat', rfl, rfl, rfl, rfl, rfl, rfl, rfl, rfl, rfl,
    fun hcause =>
    hfrozen (cls_of_violation hcause)⟩

end Sys2Proof.Machine
end

section
/-! CLAIM. Pushes: what one adds to its queue, and how one waits for room (R29, R188, R191). -/

namespace Sys2Proof.Machine

/-! ### Lists with one element changed -/

section
variable {α : Type} (g : α → α)

theorem getElem?_listModify (xs : List α) (n k : Nat) : (listModify g xs n)[k]? = if k = n then xs[k]?.map g else xs[k]? := by
  induction xs generalizing n k with
  | nil => simp [listModify]
  | cons x xs ih =>
    cases n with
    | zero => cases k <;> simp [listModify]
    | succ n => cases k <;> simp [listModify, ih]

/-- The changed element. -/
theorem listGetD_listModify_self {xs : List α} {n : Nat} (h : n < xs.length) (d : α) :
    listGetD (listModify g xs n) n d = g (listGetD xs n d) := by
  simp [listGetD, getElem?_listModify, h]

/-- Another element. -/
theorem listGetD_listModify_ne (xs : List α) {n k : Nat} (h : k ≠ n) (d : α) : listGetD (listModify g xs n) k d = listGetD xs k d := by
  simp [listGetD, getElem?_listModify, h]

theorem listModify_listModify (g' : α → α) (xs : List α) (n : Nat) :
    listModify g' (listModify g xs n) n = listModify (fun x => g' (g x)) xs n := by
  induction xs generalizing n with
  | nil => rfl
  | cons x xs ih =>
    cases n with
    | zero => rfl
    | succ n => exact congrArg (x :: ·) (ih n)

end

/-! ### Queues after a push -/

/-- A contribution stands in the entry that it was pushed to (R191). -/
theorem mem_addContribution (c : Contribution) (ts : Word) (es : List BEntry) (k : Nat) :
    ∃ e, (addContribution c ts es k)[k]? = some e ∧ c ∈ e.contribs := by
  induction k generalizing es with
  | zero => cases es with
    | nil => exact ⟨_, rfl, List.mem_singleton_self _⟩
    | cons e es => exact ⟨_, rfl, List.mem_append_right _ (List.mem_singleton_self _)⟩
  | succ k ih => cases es with
    | nil => exact ih []
    | cons e es => exact ih es

/-- A push to a back queue: the strand's count, and the contribution to the entry of that number (R191, R195). -/
theorem pushBack_of_strand {tm : Team} {i : Nat} {sl : Slice} (h : tm.strands[i]? = some sl) (b : Nat) (v ts pc : Word) :
    ∃ last : BQueue → Option Word, tm.pushBack i b v ts pc =
      { tm.putSlice (some i) { sl with pushed := listModify (· + 1) sl.pushed b } with
        bqueues := listModify (fun q => { q with
          entries := addContribution ⟨i, v, pc⟩ ts q.entries (listGetD sl.pushed b 0 - (tm.bqueue b).popped)
          lastPc := last q }) tm.bqueues b } := by
  unfold Team.pushBack
  rw [h]
  dsimp only
  split
  · exact ⟨fun _ => some pc, by rw [listModify_listModify]; rfl⟩
  · exact ⟨fun q => q.lastPc, rfl⟩

/-- One more entry made, whatever is retired (R188). -/
theorem made_add_retire (f : FQueue) (e : FEntry) (n : Option Nat) : ((f.add e).retire n).made = f.made + 1 := by
  cases n <;> rfl

/-- The new entry is the last where no live strand has popped beyond those made (R187). -/
theorem getLast?_add_retire {f : FQueue} {n : Nat} (hn : n ≤ f.made) (hlen : f.entries.length ≤ f.made) (e : FEntry) :
    ((f.add e).retire (some n)).entries.getLast? = some e := by
  have hbase : n - (f.add e).base ≤ f.entries.length := by
    simp only [FQueue.base, FQueue.add, List.length_append, List.length_singleton]
    omega
  change ((f.entries ++ [e]).drop (n - (f.add e).base)).getLast? = some e
  rw [List.drop_append_of_le_length hbase, List.getLast?_append]
  rfl

/-! ### The destination of a push -/

/-- A team replaced, and one of its slices. -/
theorem sliceAt_putTeam {s : State} {id : SliceId} {tm : Team} {sl : Slice} (h : tm.slice id.strand = some sl) :
    sliceAt (putTeam s (teamIdOf id) tm) id = some (tm, sl) := by
  rw [sliceAt, teamAt_putTeam_self]
  simp only [h, Option.map_some]

section
variable {s : State} {id : SliceId} {tm : Team} {sl : Slice} (hat : sliceAt s id = some (tm, sl))
include hat

theorem writeDst_back {i : Nat} (hstrand : id.strand = some i) (b : Fin 8) (w : Width) (r : DWord) :
    writeDst s id (.queue b) w r = putTeam s (teamIdOf id) (tm.pushBack i b.val (lowWord r) (core s id.core).ct sl.pc) := by
  simp only [writeDst, hat, modTeam_of_teamAt (teamAt_of_sliceAt hat).1, hstrand]

theorem writeDst_forward (hstrand : id.strand = none) (q : Fin 8) (w : Width) (r : DWord) :
    writeDst s id (.queue q) w r =
      putTeam s (teamIdOf id) (tm.addForward q.val (uniformEntry (lowWord r) (core s id.core).ct sl.pc)) := by
  simp only [writeDst, hat, modTeam_of_teamAt (teamAt_of_sliceAt hat).1, hstrand]

end

/-! ### A push that finds no room -/

/-- A form that moves a plain source to a queue reaches the room for its push. -/
theorem gather_of_push {s : State} {w : Option Nat} {tm : Team} {sl : Slice} {team : Bool} {q : Fin 8} {a : Src} {va : DWord}
    (ha : plainSrc sl .w32 a = some va) (hkind : (tm.queueDecl (!team) q.val).kind ≠ .undeclared)
    (hlane : team = true → (tm.queueDecl false q.val).kind ≠ .lane)
    (hnone : nonePending s (tm.name w) ((form2 team (.queue q) .w32 a .w32).pushing .untyped))
    (hfull : (if w.isNone then tm.forwardFull q.val else tm.backFull sl q.val) = true) :
    gather s w tm sl ((form2 team (.queue q) .w32 a .w32).pushing .untyped) (.ok ()) =
      .error (.park (.room q.val (listGetD sl.pushed q.val 0))) := by
  have hkinds : Dst.wrongKind tm ((form2 team (.queue q) .w32 a .w32).pushing .untyped) = false := by
    rw [Dst.wrongKind_of_queue rfl]
    cases team with
    | false => simp [form2, Form.pushing, takesType]
    | true => simp [form2, Form.pushing, beq_eq_false_iff_ne.2 (hlane rfl)]
  have hdecl : declChecks ((form2 team (.queue q) .w32 a .w32).pushing .untyped) tm sl = .ok () :=
    declChecks_ok rfl (regBad_of_plainSrc ha) rfl (beq_eq_false_iff_ne.2 hkind) (Src.undeclared_of_not_queue (ne_queue_of_plainSrc ha))
      rfl hkinds (Src.wrongKind_of_not_queue (ne_queue_of_plainSrc ha)) rfl rfl
  have hpops : Src.pops a ++ Src.pops .zero = [] := by rw [pops_of_plainSrc ha]; rfl
  have hroom : roomForPush s tm sl w ((form2 team (.queue q) .w32 a .w32).pushing .untyped) =
      .error (.park (.room q.val (listGetD sl.pushed q.val 0))) := by
    change (stopIf (if w.isNone then tm.forwardFull q.val else tm.backFull sl q.val) _ >>= _) = _
    rw [hfull]
    rfl
  rw [gather_of_declChecks_ok rfl hdecl (pending_of_nonePending rfl hnone) (by
    change (w.isNone && incompletePops tm (Src.pops a ++ Src.pops .zero) != []) = false
    rw [hpops]
    exact Bool.and_false _), hroom]
  change (Src.value tm sl w .w32 0 a >>= _) = _
  rw [value_of_plainSrc ha]
  rfl

/-- Settles O20: a push replaces its team with one more contribution or entry; one that finds no room stops at it. -/
theorem pushes : Obligations.Pushes := by
  refine ⟨⟨?_, ?_⟩, ?_, ?_⟩
  · intro s id i tm sl b r hstrand hat hb hpushed
    have hslice : tm.slice (some i) = some sl := hstrand ▸ (teamAt_of_sliceAt hat).2
    obtain ⟨last, hpush⟩ := pushBack_of_strand hslice b.val (lowWord r) (core s id.core).ct sl.pc
    rw [writeDst_back hat hstrand, hpush]
    refine ⟨_, { sl with pushed := listModify (· + 1) sl.pushed b.val }, sliceAt_putTeam ?_, listGetD_listModify_self _ hpushed 0, rfl, rfl,
      ?_, fun c hc => listGetD_listModify_ne _ _ hc _, rfl, rfl⟩
    · rw [hstrand]
      exact Team.slice_putSlice_self hslice _
    · rw [Team.bqueue, listGetD_listModify_self _ hb]
      exact mem_addContribution ..
  · intro s id tm sl q r hstrand hat hq
    rw [writeDst_forward hat hstrand]
    have hself : (tm.addForward q.val (uniformEntry (lowWord r) (core s id.core).ct sl.pc)).fqueue q.val =
        ((tm.fqueue q.val).add (uniformEntry (lowWord r) (core s id.core).ct sl.pc)).retire (tm.slowest q.val) :=
      listGetD_listModify_self _ hq _
    refine ⟨_, sl, sliceAt_putTeam ?_, rfl, ?_, ?_, fun c hc => listGetD_listModify_ne _ _ hc _, rfl, rfl⟩
    · rw [← (teamAt_of_sliceAt hat).2, hstrand]
      rfl
    · rw [hself]
      exact made_add_retire ..
    · rintro ⟨n, hslow, hn⟩ hlen
      rw [hself, hslow]
      exact ⟨_, _, getLast?_add_retire hn hlen _, rfl, rfl, rfl⟩
  · intro s i tm sl b a va f ha hnone hkind hfull
    exact ⟨gather_of_push ha hkind nofun hnone (decide_eq_true hfull), rfl⟩
  · intro s tm sl q a va f hat hstrand ha hnone hkind hfull
    have hgather : gather s s.cur.strand tm sl f (.ok ()) = .error (.park (.room q.val (listGetD sl.pushed q.val 0))) := by
      rw [hstrand]
      exact gather_of_push ha (by rw [Bool.not_true, hkind]; nofun) (fun _ => by rw [hkind]; nofun) hnone (decide_eq_true hfull)
    obtain ⟨k, hexec⟩ := exec_of_moveRule (i := .teamMov (.queue q) a) rfl s
    refine ⟨by rw [hexec, runOwn_of_stop hat hgather]; rfl, _, _, rfl, onlySlice_parkSlice hat _, ?_⟩
    rw [hstrand]
    exact ⟨rfl, rfl, rfl, rfl⟩

end Sys2Proof.Machine
end

section
/-! CLAIM. The opcodes that R55 leaves unassigned: one word long, rejected as illegal, and trapped with NEXTPC past that word (R32, R34, R55). -/

namespace Sys2Proof

/-! ### Opcodes without a shape -/

/-- The lane-set opcodes without a shape are those that R55 lists. -/
theorem laneShape_eq_none_iff {op : BitVec 7} : laneShape op.toNat = none ↔ op.toNat ∈ [0x2F, 0x3D, 0x3E, 0x3F, 0x5F, 0x67] := by
  revert op; decide

/-- The team-set opcodes without a shape are those that R55 lists. -/
theorem teamShape_eq_none_iff {op : BitVec 7} : teamShape op.toNat = none ↔ op.toNat ∈
    [0x2F, 0x3D, 0x3E, 0x3F, 0x49, 0x4A, 0x4B, 0x4C, 0x4D, 0x4E, 0x4F, 0x5E, 0x5F, 0x6B, 0x6C, 0x6D, 0x6E, 0x6F, 0x7E, 0x7F] := by
  revert op; decide

/-- A word has no shape exactly when its set leaves its opcode without one: SREAD, whose shape depends on its index (R97), is assigned. -/
theorem shapeOf_eq_none_iff {r : Raw} : shapeOf r = none ↔ (if r.team then teamShape r.op.toNat else laneShape r.op.toNat) = none := by
  unfold shapeOf
  split
  · rfl
  · split
    next hcircle => simp [hcircle.1, laneShape, laneShape2]
    · rfl

/-- The fetch unit takes one word where the word implies no format (R32). -/
theorem lengthOf_of_shapeless {w : Word} (h : shapeOf (Raw.ofWord w) = none) (team : Bool) : lengthOf team w = 1 := by
  simp [lengthOf, h]

/-- A word of the set whose opcode has no shape is rejected, whatever follows it (R34 row 4). -/
theorem decode_of_shapeless {w : Word} (h : shapeOf (Raw.ofWord w) = none) (rest : List Word) :
    decode (Raw.ofWord w).team (w :: rest) = .error (.illegalOp w) := by
  simp [decode, h]

end Sys2Proof

namespace Sys2Proof.Machine

/-! ### The trap of a rejected word -/

/-- A slice that takes a trap is stopped with its record (R100). -/
theorem sliceAt_trapSlice_self {s : State} {id : SliceId} {tm : Team} {sl : Slice} (hat : sliceAt s id = some (tm, sl)) (t : TrapInfo) :
    sliceAt (trapSlice s id t) id =
      some (tm.putSlice id.strand (sl.stopped (trapRecord s id tm sl t)), sl.stopped (trapRecord s id tm sl t)) := by
  rw [trapSlice_of_sliceAt hat]
  exact sliceAt_putSlice_self (teamAt_of_sliceAt hat).2 _

/-- Words that the decoder rejects trap where no breakpoint stops the slice first (R34, R439). -/
theorem runWords_of_reject {s : State} {launch : Nat} {sl : Slice} {ws : List Word} {e : Reject}
    (hbreak : breakpointAt s launch sl.skip sl.pc = none) (hdecode : decode s.cur.strand.isNone ws = .error e) :
    runWords s launch sl ws = rejectTrap s ws.length e := by
  simp only [runWords, breakpointAt_or hbreak, hdecode]

/-- What the trap of an unassigned opcode records: the word, with NEXTPC past it alone (R55, R453). -/
def illegalOpInfo (sl : Slice) (w : Word) : TrapInfo := { cause := .illegalOp, next := nextPc sl.pc 1, info0 := w.setWidth 64 }

/-- The trap of a word whose opcode is unassigned, however many words were fetched with it (R55, R453). -/
theorem rejectTrap_illegalOp {s : State} {tm : Team} {sl : Slice} (hat : sliceAt s s.cur = some (tm, sl)) (len : Nat) (w : Word) :
    rejectTrap s len (.illegalOp w) = .next (trapSlice s s.cur (illegalOpInfo sl w)) :=
  fetchTrap_of_sliceAt hat fun pc => { cause := .illegalOp, next := nextPc pc 1, info0 := w.setWidth 64 }

/-- Settles O4: an unassigned opcode has no shape, so the fetch takes its word alone and the decoder's rejection is the trap of R453. -/
theorem unassignedOpcodes : Obligations.UnassignedOpcodes := by
  rintro team w rest rfl hop
  have hshape : shapeOf (Raw.ofWord w) = none := by
    rw [shapeOf_eq_none_iff]
    split_ifs at hop ⊢
    · exact teamShape_eq_none_iff.2 hop
    · exact laneShape_eq_none_iff.2 hop
  refine ⟨lengthOf_of_shapeless hshape _, decode_of_shapeless hshape rest, fun s tm sl launch hat hset hbreak => ?_⟩
  have hdecode : decode s.cur.strand.isNone [w] = .error (.illegalOp w) := hset ▸ decode_of_shapeless hshape []
  let r := trapRecord s s.cur tm sl (illegalOpInfo sl w)
  have hrun := (runWords_of_reject hbreak hdecode).trans (rejectTrap_illegalOp hat _ w)
  refine ⟨_, sl.stopped r, r, hrun, ?_, rfl, rfl, rfl, rfl, rfl, rfl, rfl, nextPc_one _, rfl⟩
  rw [sliceAt_trapSlice_self hat, Option.map_some]

end Sys2Proof.Machine
end

section
/-! SUPPORT. What an FP32 encoding reads as, by its magnitude, and the two cases of a result rounded to FP32 (R75, R76, R77). -/

namespace Sys2Proof.Machine

/-! ### Finite values, infinities and NaNs -/

section
variable {w : Word}

/-- The sign of an encoding as the model reads it. -/
theorem sign_eq_getLsbD (w : Word) : (w.toNat / 2 ^ 31 % 2 == 1) = w.getLsbD 31 := by
  rw [← BitVec.testBit_toNat, Nat.testBit_eq_decide_div_mod_eq]
  rfl

theorem readF_of_finite (h : w.toNat % 2 ^ 31 ≤ 0x7F7FFFFF) : readF w = finiteOf fp32 (w.getLsbD 31) (w.toNat % 2 ^ 31) := by
  rw [← sign_eq_getLsbD]
  exact if_pos h

theorem readF_of_infinite (h : w.toNat % 2 ^ 31 = 0x7F800000) : readF w = .inf (w.getLsbD 31) := by
  have hbig : ¬ w.toNat % 2 ^ 31 ≤ 0x7F7FFFFF := by omega
  rw [← sign_eq_getLsbD]
  exact (if_neg hbig).trans (if_pos ⟨h, by decide⟩)

theorem readF_of_nan (h : 0x7F800000 < w.toNat % 2 ^ 31) : readF w = .nan (!w.getLsbD 22) := by
  have hbig : ¬ w.toNat % 2 ^ 31 ≤ 0x7F7FFFFF := by omega
  have hinf : ¬ (w.toNat % 2 ^ 31 = 0x7F800000 ∧ 0x7F800000 ≠ 0x7FC00000) := by omega
  have hbit : w.toNat % 2 ^ 31 / 2 ^ 22 % 2 = w.toNat / 2 ^ 22 % 2 := by omega
  have hquiet : (w.toNat % 2 ^ 31 / 2 ^ 22 % 2 == 0) = !w.getLsbD 22 := by
    rw [hbit, ← BitVec.testBit_toNat, Nat.testBit_eq_decide_div_mod_eq]
    rcases Nat.mod_two_eq_zero_or_one (w.toNat / 2 ^ 22) with h0 | h0 <;> rw [h0] <;> rfl
  rw [← hquiet]
  exact (if_neg hbig).trans (if_neg hinf)

/-- A finite encoding has the sign that it reads. -/
theorem finiteOf_eq_fin (f : Fmt) (neg : Bool) (mag : Nat) : ∃ m e, finiteOf f neg mag = .fin neg m e := by
  unfold finiteOf
  dsimp only
  split_ifs
  · exact ⟨_, _, rfl⟩
  · exact ⟨_, _, rfl⟩

/-- The three kinds of encodings. -/
theorem readF_cases (w : Word) :
    (w.toNat % 2 ^ 31 ≤ 0x7F7FFFFF ∧ ∃ m e, readF w = .fin (w.getLsbD 31) m e) ∨
    (w.toNat % 2 ^ 31 = 0x7F800000 ∧ readF w = .inf (w.getLsbD 31)) ∨
    (0x7F800000 < w.toNat % 2 ^ 31 ∧ readF w = .nan (!w.getLsbD 22)) := by
  rcases lt_trichotomy (w.toNat % 2 ^ 31) 0x7F800000 with h | h | h
  · have hfin : w.toNat % 2 ^ 31 ≤ 0x7F7FFFFF := by omega
    exact .inl ⟨hfin, readF_of_finite hfin ▸ finiteOf_eq_fin ..⟩
  · exact .inr (.inl ⟨h, readF_of_infinite h⟩)
  · exact .inr (.inr ⟨h, readF_of_nan h⟩)

theorem readF_isNan_iff : (readF w).isNan = true ↔ 0x7F800000 < w.toNat % 2 ^ 31 := by
  obtain ⟨h, m, e, hr⟩ | ⟨h, hr⟩ | ⟨h, hr⟩ := readF_cases w
  · exact iff_of_false (by simp [hr, Fp.isNan]) (by omega)
  · exact iff_of_false (by simp [hr, Fp.isNan]) (by omega)
  · exact iff_of_true (by simp [hr, Fp.isNan]) h

theorem readF_isSnan (h : 0x7F800000 < w.toNat % 2 ^ 31) (hquiet : w.getLsbD 22 = false) : (readF w).isSnan = true := by
  rw [readF_of_nan h, hquiet]
  rfl

end

theorem Fp.isNan_of_isSnan {v : Fp} (h : v.isSnan = true) : v.isNan = true := by
  cases v with
  | nan s => rfl
  | inf | fin => exact nomatch h

/-! ### Rounding to FP32, without and with overflow -/

section
variable {rm : Rm} {neg : Bool} {m : Nat} {e : Int}

/-- Whether overflow of a sign goes to the infinity in a mode (R77). -/
def overflowsUp (rm : Rm) (neg : Bool) : Bool :=
  match rm with
  | .rne => true
  | .rtz => false
  | .rup => !neg
  | .rdn => neg

theorem roundTo_of_overflow (h : fp32.maxBits < (roundMag fp32 rm neg m e).1) :
    roundTo fp32 rm neg m e =
      ⟨BitVec.ofNat 32 (fp32.signed neg (if overflowsUp rm neg then fp32.infBits else fp32.maxBits)), flagOF ||| flagNX⟩ :=
  (if_pos h).trans (by cases rm <;> rfl)

theorem roundTo_of_fits (h : ¬ fp32.maxBits < (roundMag fp32 rm neg m e).1) :
    roundTo fp32 rm neg m e =
      ⟨BitVec.ofNat 32 (fp32.signed neg (roundMag fp32 rm neg m e).1),
        flagIf ((roundMag fp32 rm neg m e).2.2 && (roundMag fp32 rm neg m e).2.1) flagUF ||| flagIf (roundMag fp32 rm neg m e).2.1 flagNX⟩ :=
  if_neg h

end

theorem signed_false (n : Nat) : fp32.signed false n = n := Nat.zero_add n

end Sys2Proof.Machine
end

section
/-! SUPPORT. The line of FP32 magnitudes as rationals: the encodings without sign are in the order of their values (R74, R75). -/

namespace Sys2Proof.Machine

/-! ### Values of encodings without sign -/

/-- The value of an encoding without sign, the exponent having no upper bound (R75). -/
def magRat (n : Nat) : Rat := ((n - (n / 2 ^ 23 - 1) * 2 ^ 23 : Nat) : Rat) * 2 ^ (((n / 2 ^ 23 - 1 : Nat) : Int) - 149)

/-- A sign as a factor. -/
def signRat (b : Bool) : Rat := if b then -1 else 1

/-- The number that a sign, a significand and an exponent stand for. -/
def dyadic (b : Bool) (m : Nat) (e : Int) : Rat := signRat b * m * 2 ^ e

theorem two_zpow_pos (e : Int) : (0 : Rat) < 2 ^ e := zpow_pos two_pos e

theorem two_zpow_add (e g : Int) : (2 : Rat) ^ (e + g) = 2 ^ e * 2 ^ g := zpow_add₀ two_ne_zero e g

/-- A multiple `k` of the quantum of exponent `j`, the end of the binade included. -/
theorem magRat_quantum {j k : Nat} (hk : k ≤ 2 ^ 24) (hnormal : j = 0 ∨ 2 ^ 23 ≤ k) :
    magRat (j * 2 ^ 23 + k) = k * 2 ^ ((j : Int) - 149) := by
  unfold magRat
  rcases hk.eq_or_lt with rfl | hlt
  · have hj : (j * 2 ^ 23 + 2 ^ 24) / 2 ^ 23 - 1 = j + 1 := by omega
    have hm : j * 2 ^ 23 + 2 ^ 24 - (j + 1) * 2 ^ 23 = 2 ^ 23 := by omega
    have he : ((j + 1 : Nat) : Int) - 149 = 1 + ((j : Int) - 149) := by push_cast; ring
    rw [hj, hm, he, two_zpow_add]
    push_cast
    ring
  · have hj : (j * 2 ^ 23 + k) / 2 ^ 23 - 1 = j := by omega
    have hm : j * 2 ^ 23 + k - j * 2 ^ 23 = k := by omega
    rw [hj, hm]

/-- Every encoding is such a multiple, below the end of its binade. -/
theorem exists_quantum (n : Nat) : ∃ j k, n = j * 2 ^ 23 + k ∧ k < 2 ^ 24 ∧ (j = 0 ∨ 2 ^ 23 ≤ k) :=
  ⟨n / 2 ^ 23 - 1, n - (n / 2 ^ 23 - 1) * 2 ^ 23, by omega, by omega, by omega⟩

theorem magRat_lt_succ (n : Nat) : magRat n < magRat (n + 1) := by
  obtain ⟨j, k, rfl, hk, hnormal⟩ := exists_quantum n
  rw [magRat_quantum hk.le hnormal, add_assoc, magRat_quantum hk (hnormal.imp_right fun h => by omega)]
  refine mul_lt_mul_of_pos_right ?_ (two_zpow_pos _)
  exact_mod_cast k.lt_succ_self

theorem magRat_strictMono : StrictMono magRat := strictMono_nat_of_lt_succ magRat_lt_succ

@[simp] theorem magRat_zero : magRat 0 = 0 := by simp [magRat]

theorem magRat_nonneg (n : Nat) : 0 ≤ magRat n := magRat_zero ▸ magRat_strictMono.monotone n.zero_le

/-- The greatest finite value (R74). -/
theorem magRat_max : magRat 0x7F7FFFFF = (2 ^ 24 - 1) * 2 ^ 104 := by
  have h := magRat_quantum (j := 253) (k := 2 ^ 24 - 1) (by norm_num) (by norm_num)
  norm_num at h ⊢
  exact h

/-- The value of a subnormal encoding (R75). -/
theorem magRat_of_subnormal {n : Nat} (h : n / 2 ^ 23 = 0) : magRat n = (n % 2 ^ 23 : Nat) * (1 / 2 ^ 149) := by
  have hq := magRat_quantum (j := 0) (k := n % 2 ^ 23) (by omega) (.inl rfl)
  have hn : 0 * 2 ^ 23 + n % 2 ^ 23 = n := by omega
  rw [hn] at hq
  rw [hq]
  norm_num

/-- The value of a normal encoding (R75). -/
theorem magRat_of_normal {n : Nat} (h : n / 2 ^ 23 ≠ 0) : magRat n = (2 ^ 23 + n % 2 ^ 23 : Nat) * 2 ^ (n / 2 ^ 23) / 2 ^ 150 := by
  have hq := magRat_quantum (j := n / 2 ^ 23 - 1) (k := 2 ^ 23 + n % 2 ^ 23) (by omega) (.inr (by omega))
  have hn : (n / 2 ^ 23 - 1) * 2 ^ 23 + (2 ^ 23 + n % 2 ^ 23) = n := by omega
  have he : ((n / 2 ^ 23 - 1 : Nat) : Int) - 149 = (n / 2 ^ 23 : Nat) - (150 : Nat) := by omega
  rw [hn, he, zpow_sub₀ two_ne_zero, zpow_natCast, zpow_natCast, ← mul_div_assoc] at hq
  exact hq

/-! ### Values of encodings -/

/-- The value of an encoding by its sign and its magnitude. -/
theorem ratOf_eq (w : Word) :
    ratOf w = if w.toNat % 2 ^ 31 ≤ 0x7F7FFFFF then some (signRat (w.getLsbD 31) * magRat (w.toNat % 2 ^ 31)) else none := by
  have he : w.toNat / 2 ^ 23 % 2 ^ 8 = w.toNat % 2 ^ 31 / 2 ^ 23 := by omega
  have hm : w.toNat % 2 ^ 23 = w.toNat % 2 ^ 31 % 2 ^ 23 := by omega
  unfold ratOf
  rw [he, hm]
  dsimp only
  by_cases hfin : w.toNat % 2 ^ 31 ≤ 0x7F7FFFFF
  · have hexp : ¬ w.toNat % 2 ^ 31 / 2 ^ 23 = 255 := by omega
    rw [if_pos hfin, if_neg hexp]
    by_cases hzero : w.toNat % 2 ^ 31 / 2 ^ 23 = 0
    · rw [if_pos hzero, magRat_of_subnormal hzero, ← mul_assoc]; rfl
    · rw [if_neg hzero, magRat_of_normal hzero, ← mul_div_assoc, ← mul_assoc]; rfl
  · have hexp : w.toNat % 2 ^ 31 / 2 ^ 23 = 255 := by omega
    rw [if_neg hfin, if_pos hexp]

theorem ratOf_ofNat {n : Nat} (h : n ≤ 0x7F7FFFFF) : ratOf (BitVec.ofNat 32 n) = some (magRat n) := by
  have hmod : (BitVec.ofNat 32 n).toNat % 2 ^ 31 = n := by rw [BitVec.toNat_ofNat]; omega
  have hsign : (BitVec.ofNat 32 n).getLsbD 31 = false := by
    rw [← sign_eq_getLsbD, BitVec.toNat_ofNat, beq_eq_false_iff_ne]; omega
  rw [ratOf_eq, hmod, hsign, if_pos h, signRat, if_neg Bool.false_ne_true, one_mul]

theorem ratOf_inf : ratOf 0x7F800000 = none := by decide

/-! ### The other sign -/

/-- An encoding with its sign inverted. -/
def flipSign (w : Word) : Word := w + 0x80000000

theorem toNat_flipSign (w : Word) : (flipSign w).toNat = (w.toNat + 2 ^ 31) % 2 ^ 32 := BitVec.toNat_add ..

theorem toNat_flipSign_mod (w : Word) : (flipSign w).toNat % 2 ^ 31 = w.toNat % 2 ^ 31 := by
  rw [toNat_flipSign]; omega

theorem toNat_flipSign_even (w : Word) : (flipSign w).toNat % 2 = w.toNat % 2 := by
  rw [toNat_flipSign]; omega

theorem getLsbD_flipSign (w : Word) : (flipSign w).getLsbD 31 = !w.getLsbD 31 := by
  have hdiv : (flipSign w).toNat / 2 ^ 31 % 2 = (w.toNat / 2 ^ 31 + 1) % 2 := by
    rw [toNat_flipSign]; omega
  rw [← sign_eq_getLsbD, ← sign_eq_getLsbD, hdiv, Nat.add_mod]
  rcases Nat.mod_two_eq_zero_or_one (w.toNat / 2 ^ 31) with h | h <;> rw [h] <;> rfl

theorem flipSign_inf : flipSign 0x7F800000 = 0xFF800000 ∧ flipSign 0xFF800000 = 0x7F800000 := by decide

/-- The encoding of a negative value is that of the positive one with its sign inverted. -/
theorem ofNat_signed_true (n : Nat) : BitVec.ofNat 32 (fp32.signed true n) = flipSign (BitVec.ofNat 32 n) := by
  rw [flipSign, Fmt.signed, if_pos rfl, add_comm, BitVec.ofNat_add]
  exact congrArg (BitVec.ofNat 32 n + ·) (by decide)

theorem signRat_not (b : Bool) : signRat (!b) = -signRat b := by cases b <;> simp [signRat]

theorem ratOf_flipSign (w : Word) : ratOf (flipSign w) = (ratOf w).map Neg.neg := by
  rw [ratOf_eq, ratOf_eq, toNat_flipSign_mod, getLsbD_flipSign, signRat_not]
  split
  · rw [Option.map_some, neg_mul]
  · rfl

/-- What the model reads from a finite encoding has the encoding's value. -/
theorem finiteOf_dyadic (neg : Bool) (n : Nat) : ∃ m e, finiteOf fp32 neg n = .fin neg m e ∧ dyadic neg m e = signRat neg * magRat n := by
  by_cases hzero : n / 2 ^ 23 = 0
  · refine ⟨_, _, if_pos hzero, ?_⟩
    rw [magRat_of_subnormal hzero, dyadic, mul_assoc]
    norm_num [fp32]
  · refine ⟨_, _, if_neg hzero, ?_⟩
    have he : fp32.emin + ((n / 2 ^ 23 : Nat) : Int) - 1 = (n / 2 ^ 23 : Nat) - (150 : Nat) := by
      rw [show fp32.emin = -149 from rfl]; omega
    rw [magRat_of_normal hzero, dyadic, show 2 ^ (fp32.p - 1) = 2 ^ 23 from rfl, he, zpow_sub₀ two_ne_zero, zpow_natCast, zpow_natCast,
      mul_assoc, ← mul_div_assoc]

/-- What the operations compute from a finite operand is its value. -/
theorem readF_of_ratOf {w : Word} {a : Rat} (h : ratOf w = some a) : ∃ b m e, readF w = .fin b m e ∧ a = dyadic b m e := by
  rw [ratOf_eq] at h
  split at h
  case isFalse => exact nomatch h
  case isTrue hfin =>
    obtain ⟨m, e, hread, hval⟩ := finiteOf_dyadic (w.getLsbD 31) (w.toNat % 2 ^ 31)
    exact ⟨_, m, e, (readF_of_finite hfin).trans hread, hval ▸ (Option.some.inj h).symm⟩

end Sys2Proof.Machine
end

section
/-! CLAIM. FADD, FSUB, FMUL, FMAC and FNMAC deliver the exact result rounded once (R77, R78, R145, R146). -/

namespace Sys2Proof.Machine

/-! ### Rounding between two neighbours -/

/-- Whether a mode rounds a positive value `x`, which lies from `lo` up to below `hi`, to `hi`; `n` tells whether `lo` is even (R77). -/
def GoesUp (rm : Rm) (n : Nat) (lo x hi : Rat) : Prop :=
  match rm with
  | .rne => lo + hi < 2 * x ∨ (lo + hi = 2 * x ∧ n % 2 = 1)
  | .rtz | .rdn => False
  | .rup => lo ≠ x

/-- `r` is `x` rounded, the neighbours of `x` being number `n` and the next one of the values `v`; `inexact` tells that it lies between. -/
structure RoundsTo (rm : Rm) (v : Nat → Rat) (x : Rat) (n : Nat) (r : Nat × Bool) : Prop where
  lower : v n ≤ x
  upper : x < v (n + 1)
  inexact_iff : r.2 = true ↔ v n ≠ x
  down_or_up : r.1 = n ∧ ¬ GoesUp rm n (v n) x (v (n + 1)) ∨ r.1 = n + 1 ∧ GoesUp rm n (v n) x (v (n + 1))

/-- A value that is the lower neighbour itself stays. -/
theorem not_goesUp_of_eq (rm : Rm) (n : Nat) {lo x hi : Rat} (h : lo = x) (hlt : x < hi) : ¬ GoesUp rm n lo x hi := by
  cases rm with
  | rne => rintro (h' | ⟨h', -⟩) <;> linarith
  | rtz | rdn => exact id
  | rup => exact not_not.2 h

/-- Rounding of `k` and a remainder, in units of `2^e` (R77). -/
theorem roundsUp_iff (rm : Rm) {k rem s : Nat} {u : Rat} (hu : 0 < u) :
    roundsUp rm false k rem s = true ↔
      GoesUp rm k (k * (2 ^ s * u)) ((2 ^ s * k + rem : Nat) * u) ((k + 1 : Nat) * (2 ^ s * u)) := by
  have hx : ((2 ^ s * k + rem : Nat) : Rat) * u = k * (2 ^ s * u) + rem * u := by push_cast; ring
  have hhi : ((k + 1 : Nat) : Rat) * (2 ^ s * u) = k * (2 ^ s * u) + 2 ^ s * u := by push_cast; ring
  rw [hx, hhi]
  have hcast (a b : Nat) : (a : Rat) * u < b * u ↔ a < b := (mul_lt_mul_iff_left₀ hu).trans Nat.cast_lt
  have hcast' (a b : Nat) : (a : Rat) * u = b * u ↔ a = b := (mul_left_inj' hu.ne').trans Nat.cast_inj
  generalize (k : Rat) * (2 ^ s * u) = lo
  cases rm with
  | rne =>
    have hlt : lo + (lo + 2 ^ s * u) < 2 * (lo + rem * u) ↔ 2 ^ s < 2 * rem := by
      rw [← hcast]
      push_cast
      constructor <;> intro h <;> linarith
    have heq : lo + (lo + 2 ^ s * u) = 2 * (lo + rem * u) ↔ 2 * rem = 2 ^ s := by
      rw [← hcast']
      push_cast
      constructor <;> intro h <;> linarith
    simp only [roundsUp, GoesUp, hlt, heq, Bool.or_eq_true, decide_eq_true_eq, Bool.and_eq_true, beq_iff_eq, gt_iff_lt]
  | rtz | rdn => simp [roundsUp, GoesUp]
  | rup => simp [roundsUp, GoesUp, hu.ne']

/-- The multiples of the quantum `2^q`. -/
def multiple (q : Int) (k : Nat) : Rat := k * 2 ^ q

/-- A number as a multiple of a quantum that divides it. -/
theorem multiple_of_le {e q : Int} (hqe : q ≤ e) (m : Nat) : multiple q (m * 2 ^ (e - q).toNat) = m * 2 ^ e := by
  have he : (2 : Rat) ^ e = 2 ^ (e - q).toNat * 2 ^ q := by
    rw [← zpow_natCast, ← two_zpow_add]; congr 1; omega
  rw [multiple, he]
  push_cast
  ring

theorem multiple_lt_succ (q : Int) (k : Nat) : multiple q k < multiple q (k + 1) := by
  rw [multiple, multiple, Nat.cast_succ]
  linarith [two_zpow_pos q]

/-- A number is left as it is where the quantum divides it. -/
theorem roundAt_roundsTo_of_le (rm : Rm) (m : Nat) {e q : Int} (hqe : q ≤ e) :
    RoundsTo rm (multiple q) (m * 2 ^ e) (m * 2 ^ (e - q).toNat) (roundAt rm false m e q) := by
  have hval := multiple_of_le hqe m
  have hlt := hval.symm.trans_lt (multiple_lt_succ ..)
  rw [roundAt, if_pos hqe]
  exact ⟨hval.le, hlt, by simp [hval], .inl ⟨rfl, not_goesUp_of_eq _ _ hval hlt⟩⟩

/-- A number loses its last `s` bits to a greater quantum, and the mode rounds by what is lost. -/
theorem roundAt_roundsTo_of_lt (rm : Rm) (m : Nat) {e q : Int} (hqe : ¬ q ≤ e) :
    RoundsTo rm (multiple q) (m * 2 ^ e) (m / 2 ^ (q - e).toNat) (roundAt rm false m e q) := by
  have hu := two_zpow_pos e
  have hq : (2 : Rat) ^ q = 2 ^ (q - e).toNat * 2 ^ e := by
    rw [← zpow_natCast, ← two_zpow_add]; congr 1; omega
  rw [roundAt, if_neg hqe]
  generalize (q - e).toNat = s at hq ⊢
  have hm : 2 ^ s * (m / 2 ^ s) + m % 2 ^ s = m := Nat.div_add_mod ..
  have hrem : m % 2 ^ s < 2 ^ s := Nat.mod_lt _ (by positivity)
  have hup := roundsUp_iff rm (k := m / 2 ^ s) (rem := m % 2 ^ s) (s := s) hu
  have hval : (m : Rat) * 2 ^ e = multiple q (m / 2 ^ s) + (m % 2 ^ s : Nat) * 2 ^ e := by
    conv_lhs => rw [← hm]
    rw [multiple, hq]
    push_cast
    ring
  have hnext : multiple q (m / 2 ^ s + 1) = multiple q (m / 2 ^ s) + (2 ^ s : Nat) * 2 ^ e := by
    rw [multiple, multiple, hq]
    push_cast
    ring
  rw [hm, ← hq] at hup
  refine ⟨?_, ?_, ?_, ?_⟩
  · rw [hval, le_add_iff_nonneg_right]
    positivity
  · rw [hval, hnext, add_lt_add_iff_left, mul_lt_mul_iff_left₀ hu]
    exact_mod_cast hrem
  · simp [hval, hu.ne']
  · by_cases h : roundsUp rm false (m / 2 ^ s) (m % 2 ^ s) s = true
    · exact .inr ⟨if_pos h, hup.1 h⟩
    · exact .inl ⟨if_neg h, hup.not.1 h⟩

/-- A magnitude is rounded to one of the neighbouring multiples of a quantum. -/
theorem roundAt_roundsTo (rm : Rm) (m : Nat) (e q : Int) : ∃ k, RoundsTo rm (multiple q) (m * 2 ^ e) k (roundAt rm false m e q) := by
  by_cases hqe : q ≤ e
  · exact ⟨_, roundAt_roundsTo_of_le rm m hqe⟩
  · exact ⟨_, roundAt_roundsTo_of_lt rm m hqe⟩

/-! ### Rounding to FP32 -/

theorem lt_two_pow_bitLen (m : Nat) : m < 2 ^ bitLen m := by
  unfold bitLen
  split
  case isTrue h => simp [h]
  case isFalse h => exact Nat.lt_log2_self

theorem two_pow_bitLen_le {m : Nat} (h : m ≠ 0) : 2 ^ bitLen m ≤ 2 * m := by
  rw [bitLen, if_neg h, pow_succ, mul_comm]
  exact Nat.mul_le_mul_left 2 (Nat.log2_self_le h)

/-- The quantum that an FP32 rounding of `m x 2^e` takes: 24 bits of significand, or the least subnormal (R74). -/
def quantumOf (m : Nat) (e : Int) : Int := max (e + bitLen m - 24) (-149)

/-- A significand at its quantum has at most 24 bits, and all of them above the least quantum. -/
theorem significand_bounds {m k : Nat} (hm : m ≠ 0) {e : Int} (hlo : multiple (quantumOf m e) k ≤ m * 2 ^ e)
    (hhi : (m : Rat) * 2 ^ e < multiple (quantumOf m e) (k + 1)) : k < 2 ^ 24 ∧ (quantumOf m e = -149 ∨ 2 ^ 23 ≤ k) := by
  have hpow (a : Nat) (g : Int) : ((2 ^ a : Nat) : Rat) * 2 ^ g = 2 ^ ((a : Int) + g) := by
    rw [two_zpow_add, zpow_natCast, Nat.cast_pow, Nat.cast_ofNat]
  have hcast {a b : Nat} (h : (a : Rat) * 2 ^ quantumOf m e < b * 2 ^ quantumOf m e) : a < b :=
    Nat.cast_lt.1 (lt_of_mul_lt_mul_right h (two_zpow_pos _).le)
  constructor
  · refine hcast (lt_of_le_of_lt hlo ?_)
    calc (m : Rat) * 2 ^ e < (2 ^ bitLen m : Nat) * 2 ^ e := by
          refine mul_lt_mul_of_pos_right ?_ (two_zpow_pos e)
          exact_mod_cast lt_two_pow_bitLen m
      _ = 2 ^ ((bitLen m : Int) + e) := hpow ..
      _ ≤ 2 ^ (((24 : Nat) : Int) + quantumOf m e) := zpow_le_zpow_right₀ one_le_two (by unfold quantumOf; omega)
      _ = _ := (hpow ..).symm
  · by_cases hq : quantumOf m e = -149
    · exact .inl hq
    · refine .inr ?_
      have h : 2 ^ 24 < 2 * (k + 1) := by
        refine hcast ?_
        calc ((2 ^ 24 : Nat) : Rat) * 2 ^ quantumOf m e = 2 ^ ((bitLen m : Int) + e) := by
              rw [hpow]; congr 1; unfold quantumOf at hq ⊢; omega
          _ = (2 ^ bitLen m : Nat) * 2 ^ e := (hpow ..).symm
          _ ≤ (2 * m : Nat) * 2 ^ e := by
              refine mul_le_mul_of_nonneg_right ?_ (two_zpow_pos e).le
              exact_mod_cast two_pow_bitLen_le hm
          _ = 2 * (m * 2 ^ e) := by push_cast; ring
          _ < 2 * multiple (quantumOf m e) (k + 1) := by linarith
          _ = _ := by rw [multiple]; push_cast; ring
      omega

theorem goesUp_of_even_add (rm : Rm) (j k : Nat) (lo x hi : Rat) : GoesUp rm (j * 2 ^ 23 + k) lo x hi ↔ GoesUp rm k lo x hi := by
  have hpar : (j * 2 ^ 23 + k) % 2 = k % 2 := by omega
  cases rm <;> simp only [GoesUp, hpar]

/-- THE ROUNDING OF A POSITIVE NUMBER TO FP32: its encoding is that of a neighbour among the values of the format, the exponent having no upper
bound (R77). -/
theorem roundMag_roundsTo (rm : Rm) {m : Nat} (hm : m ≠ 0) (e : Int) :
    ∃ n, RoundsTo rm magRat (m * 2 ^ e) n ((roundMag fp32 rm false m e).1, (roundMag fp32 rm false m e).2.1) := by
  obtain ⟨k, hlo, hhi, hne, hup⟩ := roundAt_roundsTo rm m e (quantumOf m e)
  obtain ⟨hk, hnormal⟩ := significand_bounds hm hlo hhi
  obtain ⟨j, hj⟩ : ∃ j : Nat, quantumOf m e = (j : Int) - 149 := ⟨(quantumOf m e + 149).toNat, by unfold quantumOf; omega⟩
  have hmag : (roundMag fp32 rm false m e).1 = j * 2 ^ 23 + (roundAt rm false m e (quantumOf m e)).1 := by
    have hfield : (quantumOf m e - fp32.emin).toNat = j := by rw [hj, show fp32.emin = -149 from rfl]; omega
    rw [← hfield]
    rfl
  have hv : multiple (quantumOf m e) k = magRat (j * 2 ^ 23 + k) := by
    rw [magRat_quantum hk.le (by omega), multiple, hj]
  have hv' : multiple (quantumOf m e) (k + 1) = magRat (j * 2 ^ 23 + k + 1) := by
    rw [add_assoc, magRat_quantum hk (by omega), multiple, hj]
  rw [hv] at hlo hne hup
  rw [hv'] at hhi hup
  rw [← goesUp_of_even_add rm j k] at hup
  refine ⟨j * 2 ^ 23 + k, hlo, hhi, hne, ?_⟩
  rw [hmag]
  exact hup.imp (.imp_left fun h => by rw [h]) (.imp_left fun h => by rw [h, add_assoc])

/-! ### The delivered result of a positive number -/

/-- Finite values other than the neighbours of `x` lie beyond them. -/
theorem le_or_le_of_ratOf {n : Nat} {w : Word} {y : Rat} (h : ratOf w = some y) : y ≤ magRat n ∨ magRat (n + 1) ≤ y := by
  rw [ratOf_eq] at h
  split at h
  case isFalse => exact nomatch h
  case isTrue =>
    obtain rfl := Option.some.inj h
    generalize w.toNat % 2 ^ 31 = k
    cases w.getLsbD 31 with
    | true =>
      refine .inl ?_
      rw [signRat, if_pos rfl]
      linarith [magRat_nonneg k, magRat_nonneg n]
    | false =>
      rw [signRat, if_neg Bool.false_ne_true, one_mul]
      exact (Nat.lt_or_ge n k).symm.imp (fun h => magRat_strictMono.monotone h) fun h => magRat_strictMono.monotone h

/-- No finite value is beyond the greatest. -/
theorem abs_le_max_of_ratOf {w : Word} {y : Rat} (h : ratOf w = some y) : |y| ≤ magRat 0x7F7FFFFF := by
  rw [ratOf_eq] at h
  split at h
  case isFalse => exact nomatch h
  case isTrue hfin =>
    obtain rfl := Option.some.inj h
    have hsign (b : Bool) : |signRat b| = 1 := by cases b <;> simp [signRat]
    rw [abs_mul, hsign, one_mul, abs_of_nonneg (magRat_nonneg _)]
    exact magRat_strictMono.monotone hfin

/-- Of the values within `x`, none is beyond the lower neighbour of `x`. -/
theorem le_lower_of_ratOf {n : Nat} {x y : Rat} {w : Word} (hhi : x < magRat (n + 1)) (h : ratOf w = some y) (hy : y ≤ x) : y ≤ magRat n :=
  (le_or_le_of_ratOf h).resolve_right fun h => by linarith

/-- The nearer neighbour, or the even one of two at the same distance, is nearest among all (R77). -/
theorem roundedTo_rne_of_roundsTo {x : Rat} {n M : Nat} {inexact : Bool} (h : RoundsTo .rne magRat x n (M, inexact)) {w : Word}
    (hw : w.toNat % 2 = M % 2) : RoundedTo .rne x (magRat M) w := by
  obtain ⟨hlo, hhi, -, hup⟩ := h
  intro w' y hy
  obtain ⟨rfl, hdown⟩ | ⟨rfl, hup⟩ := hup
  · obtain ⟨hmid, htie⟩ := not_or.1 hdown
    rw [abs_of_nonneg (sub_nonneg.2 hlo)]
    rcases le_or_le_of_ratOf hy (n := M) with hy | hy
    · rw [abs_of_nonneg (by linarith)]
      exact ⟨by linarith, fun heq hne => absurd (by linarith) hne⟩
    · rw [abs_of_nonpos (by linarith)]
      refine ⟨by linarith, fun heq hne => ?_⟩
      have hmid' : magRat M + magRat (M + 1) = 2 * x := by linarith
      have heven := not_and.1 htie hmid'
      omega
  · rw [abs_of_nonpos (by linarith)]
    have hmid : magRat n + magRat (n + 1) ≤ 2 * x := hup.elim le_of_lt fun h => h.1.le
    rcases le_or_le_of_ratOf hy (n := n) with hy | hy
    · rw [abs_of_nonneg (by linarith)]
      refine ⟨by linarith, fun heq hne => ?_⟩
      obtain ⟨-, hodd⟩ : _ ∧ n % 2 = 1 := hup.resolve_left (by linarith)
      omega
    · rw [abs_of_nonpos (by linarith)]
      exact ⟨by linarith, fun heq hne => absurd (by linarith) hne⟩

section
variable {rm : Rm} {x : Rat} {n M : Nat} {inexact : Bool} (h : RoundsTo rm magRat x n (M, inexact))
include h

/-- The neighbour that the mode takes is the rounded value (R77). -/
theorem roundedTo_of_roundsTo {w : Word} (hw : w.toNat % 2 = M % 2) : RoundedTo rm x (magRat M) w := by
  cases rm with
  | rne => exact roundedTo_rne_of_roundsTo h hw
  | rtz =>
    obtain ⟨hlo, hhi, -, hup⟩ := h
    obtain ⟨rfl, -⟩ : M = n ∧ _ := hup.resolve_right fun h => h.2
    have hn := magRat_nonneg M
    have hx := hn.trans hlo
    refine ⟨by rwa [abs_of_nonneg hn, abs_of_nonneg hx], mul_nonneg hn hx, fun w' y hy hyx => ?_⟩
    rw [abs_of_nonneg hx, abs_le] at hyx
    rw [abs_of_nonneg hn, abs_le']
    have hneg : ratOf (flipSign w') = some (-y) := by rw [ratOf_flipSign, hy]; rfl
    exact ⟨le_lower_of_ratOf hhi hy hyx.2, le_lower_of_ratOf hhi hneg (by linarith)⟩
  | rup =>
    obtain ⟨hlo, hhi, -, ⟨rfl, hdown⟩ | ⟨rfl, hup⟩⟩ := h
    · have hx : magRat M = x := not_not.1 hdown
      exact ⟨hx.ge, fun w' y hy hyx => hx.trans_le hyx⟩
    · refine ⟨hhi.le, fun w' y hy hyx => (le_or_le_of_ratOf hy).resolve_left fun h => ?_⟩
      exact hup (le_antisymm hlo (hyx.trans h))
  | rdn =>
    obtain ⟨hlo, hhi, -, hup⟩ := h
    obtain ⟨rfl, -⟩ : M = n ∧ _ := hup.resolve_right fun h => h.2
    exact ⟨hlo, fun w' y hy hyx => le_lower_of_ratOf hhi hy hyx⟩

/-- NX tells that the neighbour taken is not the number itself (R78). -/
theorem inexact_iff_of_roundsTo : inexact = true ↔ magRat M ≠ x := by
  obtain ⟨-, hhi, hne, ⟨rfl, -⟩ | ⟨rfl, hup⟩⟩ := h
  · exact hne
  · exact iff_of_true (hne.2 fun heq => not_goesUp_of_eq _ _ heq hhi hup) hhi.ne'

/-- A number that rounds beyond the greatest finite value lies beyond it. -/
theorem max_lt_of_roundsTo (hM : 0x7F7FFFFF < M) : magRat 0x7F7FFFFF < x := by
  obtain ⟨hlo, hhi, -, ⟨rfl, -⟩ | ⟨rfl, hup⟩⟩ := h
  · exact (magRat_strictMono hM).trans_le hlo
  · have hne : magRat n ≠ x := fun heq => not_goesUp_of_eq _ _ heq hhi hup
    exact (magRat_strictMono.monotone (Nat.lt_succ_iff.1 hM)).trans_lt (lt_of_le_of_ne hlo hne)

end

/-! ### The delivered result -/

section
variable {rm : Rm} {x q : Rat} {r : FRes}

theorem delivers_iff_of_finite (hq : ratOf r.bits = some q) :
    Delivers rm x r ↔ RoundedTo rm x q r.bits ∧ (r.flags.getLsbD 0 = true ↔ q ≠ x) := by
  unfold Delivers
  rw [hq]

theorem delivers_iff_of_not_finite (hq : ratOf r.bits = none) :
    Delivers rm x r ↔
      (r.bits = 0x7F800000 ∨ r.bits = 0xFF800000) ∧ r.flags = flagOF ||| flagNX ∧ magRat 0x7F7FFFFF < |x| := by
  unfold Delivers
  rw [hq, magRat_max]
  rfl

end

/-- An infinity is delivered beyond the greatest finite value (R77). -/
theorem delivers_inf {rm : Rm} {x : Rat} (h : magRat 0x7F7FFFFF < x) : Delivers rm x ⟨0x7F800000, flagOF ||| flagNX⟩ := by
  have habs := h.trans_le (le_abs_self x)
  exact (delivers_iff_of_not_finite ratOf_inf).2 ⟨.inl rfl, rfl, habs⟩

/-- The greatest finite value is delivered beyond it in the modes that round a positive number down (R77). -/
theorem delivers_max {rm : Rm} (hrm : rm = .rtz ∨ rm = .rdn) {x : Rat} (h : magRat 0x7F7FFFFF < x) :
    Delivers rm x ⟨0x7F7FFFFF, flagOF ||| flagNX⟩ := by
  have hmax : 0 ≤ magRat 0x7F7FFFFF := magRat_nonneg _
  refine (delivers_iff_of_finite (ratOf_ofNat le_rfl)).2 ⟨?_, iff_of_true rfl h.ne⟩
  obtain rfl | rfl := hrm
  · refine ⟨?_, mul_nonneg hmax (hmax.trans h.le), fun w' y hy _ => ?_⟩
    · rw [abs_of_nonneg hmax]
      exact h.le.trans (le_abs_self x)
    · rw [abs_of_nonneg hmax]
      exact abs_le_max_of_ratOf hy
  · exact ⟨h.le, fun w' y hy _ => (le_abs_self y).trans (abs_le_max_of_ratOf hy)⟩

theorem getLsbD_nx (a b : Bool) : (flagIf a flagUF ||| flagIf b flagNX).getLsbD 0 = b := by cases a <;> cases b <;> rfl

/-- A positive number rounded. -/
theorem delivers_roundTo_pos (rm : Rm) {m : Nat} (hm : m ≠ 0) (e : Int) : Delivers rm (m * 2 ^ e) (roundTo fp32 rm false m e) := by
  obtain ⟨n, h⟩ := roundMag_roundsTo rm hm e
  by_cases hover : fp32.maxBits < (roundMag fp32 rm false m e).1
  · have hmax := max_lt_of_roundsTo h hover
    rw [roundTo_of_overflow hover, signed_false]
    cases rm with
    | rne | rup => exact delivers_inf hmax
    | rtz => exact delivers_max (.inl rfl) hmax
    | rdn => exact delivers_max (.inr rfl) hmax
  · rw [roundTo_of_fits hover, signed_false]
    refine (delivers_iff_of_finite (ratOf_ofNat (not_lt.1 hover))).2 ⟨roundedTo_of_roundsTo h ?_, ?_⟩
    · rw [BitVec.toNat_ofNat]; omega
    · rw [getLsbD_nx]
      exact inexact_iff_of_roundsTo h

/-! ### The other sign -/

/-- The mode that rounds the negated number to the negated result (R77). -/
def oppositeMode : Rm → Rm
  | .rne => .rne
  | .rtz => .rtz
  | .rup => .rdn
  | .rdn => .rup

theorem roundedTo_neg {rm : Rm} {x r : Rat} {w : Word} (h : RoundedTo (oppositeMode rm) x r w) : RoundedTo rm (-x) (-r) (flipSign w) := by
  have hneg {w' : Word} {y : Rat} (hy : ratOf w' = some y) : ratOf (flipSign w') = some (-y) := by rw [ratOf_flipSign, hy]; rfl
  cases rm with
  | rne =>
    intro w' y hy
    obtain ⟨hnear, htie⟩ := h _ _ (hneg hy)
    have hr : -x - -r = -(x - r) := by ring
    have hy : -x - y = -(x - -y) := by ring
    rw [hr, hy, abs_neg, abs_neg, toNat_flipSign_even]
    exact ⟨hnear, fun heq hne => htie heq fun h => hne (by rw [← h, neg_neg])⟩
  | rtz =>
    obtain ⟨hle, hsame, hbest⟩ := h
    simp only [RoundedTo, abs_neg, neg_mul_neg]
    exact ⟨hle, hsame, hbest⟩
  | rup =>
    obtain ⟨hle, hbest⟩ := h
    exact ⟨neg_le_neg hle, fun w' y hy hxy => neg_le.1 (hbest _ _ (hneg hy) (neg_le.1 hxy))⟩
  | rdn =>
    obtain ⟨hle, hbest⟩ := h
    exact ⟨neg_le_neg hle, fun w' y hy hxy => le_neg.1 (hbest _ _ (hneg hy) (le_neg.1 hxy))⟩

theorem delivers_neg {rm : Rm} {x : Rat} {r : FRes} (h : Delivers (oppositeMode rm) x r) :
    Delivers rm (-x) ⟨flipSign r.bits, r.flags⟩ := by
  have hflip := ratOf_flipSign r.bits
  cases hq : ratOf r.bits with
  | some q =>
    rw [hq, Option.map_some] at hflip
    obtain ⟨hround, hnx⟩ := (delivers_iff_of_finite hq).1 h
    exact (delivers_iff_of_finite (r := ⟨flipSign r.bits, r.flags⟩) hflip).2 ⟨roundedTo_neg hround, hnx.trans neg_inj.not.symm⟩
  | none =>
    rw [hq, Option.map_none] at hflip
    obtain ⟨hbits, hflags, hlt⟩ := (delivers_iff_of_not_finite hq).1 h
    have hinf : flipSign r.bits = 0x7F800000 ∨ flipSign r.bits = 0xFF800000 := by
      obtain hb | hb := hbits <;> rw [hb]
      · exact .inr flipSign_inf.1
      · exact .inl flipSign_inf.2
    exact (delivers_iff_of_not_finite (r := ⟨flipSign r.bits, r.flags⟩) hflip).2 ⟨hinf, hflags, (abs_neg x).symm ▸ hlt⟩

theorem roundAt_opposite (rm : Rm) (m : Nat) (e q : Int) : roundAt rm true m e q = roundAt (oppositeMode rm) false m e q := by
  have hup (k rem s : Nat) : roundsUp rm true k rem s = roundsUp (oppositeMode rm) false k rem s := by
    cases rm <;> simp [roundsUp, oppositeMode]
  simp only [roundAt, hup]

theorem roundMag_opposite (rm : Rm) (m : Nat) (e : Int) :
    roundMag fp32 rm true m e = roundMag fp32 (oppositeMode rm) false m e := by
  simp only [roundMag, roundAt_opposite]

theorem overflowsUp_opposite (rm : Rm) : overflowsUp rm true = overflowsUp (oppositeMode rm) false := by cases rm <;> rfl

/-- A negative number is rounded as the positive one in the opposite mode. -/
theorem roundTo_opposite (rm : Rm) (m : Nat) (e : Int) :
    roundTo fp32 rm true m e =
      ⟨flipSign (roundTo fp32 (oppositeMode rm) false m e).bits, (roundTo fp32 (oppositeMode rm) false m e).flags⟩ := by
  by_cases h : fp32.maxBits < (roundMag fp32 (oppositeMode rm) false m e).1
  · rw [roundTo_of_overflow (roundMag_opposite rm m e ▸ h), roundTo_of_overflow h, overflowsUp_opposite, ofNat_signed_true, signed_false]
  · rw [roundTo_of_fits (roundMag_opposite rm m e ▸ h), roundTo_of_fits h, roundMag_opposite, ofNat_signed_true, signed_false]

/-- EVERY NON-ZERO NUMBER is delivered as its rounded value (R77, R78). -/
theorem delivers_roundTo (rm : Rm) (neg : Bool) {m : Nat} (hm : m ≠ 0) (e : Int) :
    Delivers rm (dyadic neg m e) (roundTo fp32 rm neg m e) := by
  cases neg with
  | false =>
    rw [dyadic, signRat, if_neg Bool.false_ne_true, one_mul]
    exact delivers_roundTo_pos rm hm e
  | true =>
    rw [dyadic, signRat, if_pos rfl, neg_one_mul, neg_mul, roundTo_opposite]
    exact delivers_neg (delivers_roundTo_pos _ hm e)

/-- A zero of either sign is delivered for 0 in every mode. -/
theorem delivers_zeroF (rm : Rm) (neg : Bool) : Delivers rm 0 ⟨zeroF neg, 0⟩ := by
  have hpos : ratOf 0 = some 0 := magRat_zero ▸ ratOf_ofNat (n := 0) (by norm_num)
  have hzero : ratOf (zeroF neg) = some 0 := by
    cases neg with
    | false => exact hpos
    | true => rw [show zeroF true = flipSign 0 from by decide, ratOf_flipSign, hpos, Option.map_some, neg_zero]
  have hflags : (0 : Word).getLsbD 0 = true ↔ (0 : Rat) ≠ 0 := iff_of_false (by decide) (not_not.2 rfl)
  refine (delivers_iff_of_finite hzero).2 ⟨?_, hflags⟩
  cases rm with
  | rne =>
    intro w' y hy
    rw [sub_self, abs_zero]
    exact ⟨abs_nonneg _, fun heq hne => absurd (by linarith [abs_eq_zero.1 heq.symm]) hne⟩
  | rtz => simp [RoundedTo]
  | rup => exact ⟨le_rfl, fun w' y hy h => h⟩
  | rdn => exact ⟨le_rfl, fun w' y hy h => h⟩

/-! ### The operations -/

/-- An integer multiple of a power of two, rounded; 0 is delivered as a zero. -/
theorem delivers_roundInt (rm : Rm) (zneg : Bool) (v e : Int) : Delivers rm (v * 2 ^ e) (roundInt rm zneg v e) := by
  unfold roundInt
  split
  case isTrue h =>
    rw [h, Int.cast_zero, zero_mul]
    exact delivers_zeroF ..
  case isFalse h =>
    have hv : (v : Rat) * 2 ^ e = dyadic (decide (v < 0)) v.natAbs e := by
      have habs : (v : Rat) = signRat (decide (v < 0)) * v.natAbs := by
        rcases lt_or_ge v 0 with h | h
        · rw [decide_eq_true h, signRat, if_pos rfl, Nat.cast_natAbs, abs_of_neg h, Int.cast_neg, neg_one_mul, neg_neg]
        · rw [decide_eq_false h.not_gt, signRat, if_neg Bool.false_ne_true, Nat.cast_natAbs, abs_of_nonneg h, one_mul]
      rw [dyadic, ← habs]
    rw [hv]
    exact delivers_roundTo _ _ (Int.natAbs_ne_zero.2 h) _

theorem delivers_deliver (rm : Rm) (b : Bool) (m : Nat) (e : Int) : Delivers rm (dyadic b m e) (deliver rm (.fin b m e)) := by
  unfold deliver
  dsimp only
  split
  case isTrue h =>
    rw [h, dyadic, Nat.cast_zero, mul_zero, zero_mul]
    exact delivers_zeroF ..
  case isFalse h => exact delivers_roundTo _ _ h _

/-- A finite value in units of a quantum that divides it. -/
theorem scaled_mul {e q : Int} (h : q ≤ e) (b : Bool) (m : Nat) : (scaled b m e q : Rat) * 2 ^ q = dyadic b m e := by
  rw [dyadic, mul_assoc, ← multiple_of_le h, multiple]
  cases b <;> simp [scaled, signRat]

/-- The sum of finite values, rounded once (R145, R146). -/
theorem delivers_addFp (rm : Rm) (a b : Bool) (m n : Nat) (e g : Int) :
    Delivers rm (dyadic a m e + dyadic b n g) (addFp rm (.fin a m e) (.fin b n g)) := by
  rw [← scaled_mul (min_le_left e g) a m, ← scaled_mul (min_le_right e g) b n, ← add_mul, ← Int.cast_add]
  exact delivers_roundInt ..

theorem dyadic_not (b : Bool) (m : Nat) (e : Int) : dyadic (!b) m e = -dyadic b m e := by
  rw [dyadic, signRat_not, neg_mul, neg_mul]; rfl

/-- The product of finite values is exact (R145). -/
theorem dyadic_mul (a b : Bool) (m n : Nat) (e g : Int) : dyadic (a != b) (m * n) (e + g) = dyadic a m e * dyadic b n g := by
  have hsign : signRat (a != b) = signRat a * signRat b := by cases a <;> cases b <;> simp [signRat]
  rw [dyadic, dyadic, dyadic, hsign, two_zpow_add]
  push_cast
  ring

section
variable {x y z : Word} {a b c : Bool} {m n l : Nat} {e g h : Int} (hx : readF x = .fin a m e) (hy : readF y = .fin b n g)
include hx hy

theorem faddOp_of_fin (rm : Rm) : faddOp rm x y = addFp rm (.fin a m e) (.fin b n g) := by
  unfold faddOp
  rw [hx, hy]
  exact if_neg Bool.false_ne_true

theorem fsubOp_of_fin (rm : Rm) : fsubOp rm x y = addFp rm (.fin a m e) (.fin (!b) n g) := by
  unfold fsubOp
  rw [hx, hy]
  exact if_neg Bool.false_ne_true

theorem fmulOp_of_fin (rm : Rm) : fmulOp rm x y = deliver rm (.fin (a != b) (m * n) (e + g)) := by
  unfold fmulOp
  rw [hx, hy]
  exact if_neg Bool.false_ne_true

theorem fmacOp_of_fin (hz : readF z = .fin c l h) (minus : Bool) (rm : Rm) :
    fmacOp minus rm x y z = addFp rm (.fin (minus ^^ (a != b)) (m * n) (e + g)) (.fin c l h) := by
  unfold fmacOp
  rw [hx, hy, hz]
  have hinvalid : ¬ (((Fp.fin a m e).isZero && (Fp.fin b n g).isInf) || ((Fp.fin a m e).isInf && (Fp.fin b n g).isZero)) = true := by
    simp [Fp.isInf]
  refine (if_neg hinvalid).trans ((if_neg Bool.false_ne_true).trans ?_)
  cases minus
  · rw [Bool.false_xor]; rfl
  · rw [Bool.true_xor]; rfl

end

/-- Settles O27: an operation on finite operands forms the exact result as a dyadic number and rounds it once, to one of its two neighbours
among the values of the format. -/
theorem floatRounds : Obligations.FloatRounds := by
  intro rm x y z a b c hx hy hz
  obtain ⟨_, _, _, hreadx, rfl⟩ := readF_of_ratOf hx
  obtain ⟨_, _, _, hready, rfl⟩ := readF_of_ratOf hy
  obtain ⟨_, _, _, hreadz, rfl⟩ := readF_of_ratOf hz
  refine ⟨?_, ?_, ?_, ?_, ?_⟩
  · rw [faddOp_of_fin hreadx hready]
    exact delivers_addFp ..
  · rw [fsubOp_of_fin hreadx hready, sub_eq_add_neg, ← dyadic_not]
    exact delivers_addFp ..
  · rw [fmulOp_of_fin hreadx hready, ← dyadic_mul]
    exact delivers_deliver ..
  · rw [fmacOp_of_fin hreadx hready hreadz, ← dyadic_mul, Bool.false_xor]
    exact delivers_addFp ..
  · rw [fmacOp_of_fin hreadx hready hreadz, sub_eq_add_neg, add_comm, ← dyadic_mul, ← dyadic_not, Bool.true_xor]
    exact delivers_addFp ..

end Sys2Proof.Machine
end

section
/-! CLAIM. NaNs of FP32: the results that are canonical, the signalling operands that set NV, and the operand that FMIN and FMAX return
(R76, R143, R149, R151). -/

namespace Sys2Proof.Machine

/-! ### Results that are no NaN, or the canonical one -/

/-- A result that is no NaN but the canonical one (R76). -/
def FRes.Canonical (r : FRes) : Prop := r.bits.toNat % 2 ^ 31 ≤ 0x7F800000 ∨ r.bits = 0x7FC00000

section
variable (rm : Rm) (neg : Bool) (fl : Word)

@[simp] theorem canonical_nanF : FRes.Canonical ⟨nanF, fl⟩ := .inr rfl

@[simp] theorem canonical_infF : FRes.Canonical ⟨infF neg, fl⟩ :=
  .inl ((by decide : ∀ b, (infF b).toNat % 2 ^ 31 ≤ 0x7F800000) neg)

@[simp] theorem canonical_zeroF : FRes.Canonical ⟨zeroF neg, fl⟩ :=
  .inl ((by decide : ∀ b, (zeroF b).toNat % 2 ^ 31 ≤ 0x7F800000) neg)

/-- An encoding up to that of the infinity, with a sign. -/
theorem canonical_signed {mag : Nat} (h : mag ≤ 0x7F800000) : FRes.Canonical ⟨BitVec.ofNat 32 (fp32.signed neg mag), fl⟩ := by
  refine .inl ?_
  rw [BitVec.toNat_ofNat]
  cases neg
  · simp only [Fmt.signed, Bool.false_eq_true, if_false]; omega
  · simp only [Fmt.signed, fp32, if_true]; omega

/-- An operand that is no NaN may be returned. -/
theorem canonical_of_not_nan {w : Word} (h : ¬ (readF w).isNan = true) : FRes.Canonical ⟨w, fl⟩ :=
  .inl (not_lt.1 (readF_isNan_iff.not.1 h))

/-- Other flags change nothing. -/
theorem canonical_bits {r : FRes} (h : r.Canonical) : FRes.Canonical ⟨r.bits, fl⟩ := h

/-- A rounded result has a magnitude that is finite, or that of the infinity. -/
@[simp] theorem canonical_roundTo (m : Nat) (e : Int) : (roundTo fp32 rm neg m e).Canonical := by
  by_cases h : fp32.maxBits < (roundMag fp32 rm neg m e).1
  · have hbig (b : Bool) : (if b then fp32.infBits else fp32.maxBits) ≤ 0x7F800000 := by revert b; decide
    rw [roundTo_of_overflow h]
    exact canonical_signed neg _ (hbig _)
  · rw [roundTo_of_fits h]
    exact canonical_signed neg _ ((not_lt.1 h).trans (by decide))

/-- An operation that delivers the canonical NaN first. -/
theorem canonical_nan_or {r : FRes} (c : Prop) [Decidable c] (h : r.Canonical) : FRes.Canonical (if c then ⟨nanF, fl⟩ else r) := by
  split
  · exact canonical_nanF _
  · exact h

@[simp] theorem canonical_roundInt (v e : Int) : (roundInt rm neg v e).Canonical := by
  unfold roundInt
  split_ifs <;> simp

@[simp] theorem canonical_deliver (v : Fp) : (deliver rm v).Canonical := by
  cases v with
  | nan | inf => simp [deliver]
  | fin b m e => simp only [deliver]; split_ifs <;> simp

end

/-! ### The operations, case by case -/

section
variable (rm : Rm) (x y z : Word)

theorem canonical_addFp (a b : Fp) : (addFp rm a b).Canonical := by
  unfold addFp
  split
  · split_ifs <;> simp
  all_goals simp

theorem canonical_faddOp : (faddOp rm x y).Canonical := canonical_nan_or _ _ (canonical_addFp ..)

theorem canonical_fsubOp : (fsubOp rm x y).Canonical := canonical_nan_or _ _ (canonical_addFp ..)

theorem canonical_fmulOp : (fmulOp rm x y).Canonical := by
  refine canonical_nan_or _ _ ?_
  split <;> simp

theorem canonical_fmacOp (minus : Bool) : (fmacOp minus rm x y z).Canonical := by
  refine canonical_nan_or _ _ (canonical_nan_or _ _ ?_)
  split
  · exact canonical_nanF _
  · exact canonical_addFp ..

theorem canonical_divFp (a b : Fp) : (divFp rm a b).Canonical := by
  unfold divFp
  split
  case h_4 => split_ifs <;> simp
  all_goals simp

theorem canonical_fdivOp : (fdivOp rm x y).Canonical := canonical_nan_or _ _ (canonical_divFp ..)

theorem canonical_fsqrtOp : (fsqrtOp rm x).Canonical := by
  unfold fsqrtOp
  split
  · exact canonical_nanF _
  · split_ifs <;> simp
  · dsimp only; split_ifs <;> simp

theorem canonical_frsqOp : (frsqOp x).Canonical := by
  unfold frsqOp
  split
  · exact canonical_nanF _
  · split_ifs <;> simp
  · dsimp only; split_ifs <;> simp

theorem canonical_fexp2Op : (fexp2Op x).Canonical := by
  unfold fexp2Op
  split
  · exact canonical_nanF _
  · split_ifs <;> simp
  · dsimp only; split_ifs <;> simp

theorem canonical_flog2Op : (flog2Op x).Canonical := by
  unfold flog2Op
  split
  · exact canonical_nanF _
  · split_ifs <;> simp
  · dsimp only; split_ifs <;> simp

theorem canonical_fminmaxOp (most : Bool) : (fminmaxOp most x y).Canonical := by
  unfold fminmaxOp
  dsimp only
  split_ifs with hxy hx hy
  · exact canonical_nanF _
  · exact canonical_of_not_nan _ (by simpa [hx] using hxy)
  · exact canonical_of_not_nan _ hx
  · exact canonical_of_not_nan _ hx
  · exact canonical_of_not_nan _ hy

/-- FABS of a value that is no NaN keeps its magnitude. -/
theorem canonical_fabsOp : (fabsOp x).Canonical := by
  unfold fabsOp
  dsimp only
  split_ifs with h
  · exact canonical_nanF _
  · have hmag : (x &&& 0x7FFFFFFF).toNat = x.toNat % 2 ^ 31 := by
      rw [BitVec.toNat_and]
      exact Nat.and_two_pow_sub_one_eq_mod _ 31
    refine .inl ?_
    rw [hmag, Nat.mod_mod]
    exact not_lt.1 (readF_isNan_iff.not.1 h)

/-- FNEG of a value that is no NaN keeps its magnitude. -/
theorem canonical_fnegOp : (fnegOp x).Canonical := by
  unfold fnegOp
  dsimp only
  split_ifs with h
  · exact canonical_nanF _
  · have hmag : (x ^^^ 0x80000000).toNat % 2 ^ 31 = x.toNat % 2 ^ 31 := by
      rw [BitVec.toNat_xor, Nat.xor_mod_two_pow, show (0x80000000 : Word).toNat % 2 ^ 31 = 0 from rfl, Nat.xor_zero]
    refine .inl ?_
    rw [hmag]
    exact not_lt.1 (readF_isNan_iff.not.1 h)

theorem canonical_frndOp : (frndOp rm x).Canonical := by
  have hself (h : (readF x).isNan = false) : FRes.Canonical ⟨x, 0⟩ := canonical_of_not_nan 0 (by simp [h])
  unfold frndOp
  split
  case h_1 => exact canonical_nanF _
  case h_2 b hx => exact hself (by rw [hx]; rfl)
  case h_3 b m e hx =>
    dsimp only
    split_ifs
    · exact hself (by rw [hx]; rfl)
    · exact canonical_zeroF ..
    · exact canonical_bits _ (canonical_roundTo ..)

theorem canonical_fsclOp : (fsclOp rm x y).Canonical := by
  have hself (h : (readF x).isNan = false) : FRes.Canonical ⟨x, 0⟩ := canonical_of_not_nan 0 (by simp [h])
  unfold fsclOp
  split
  case h_1 => exact canonical_nanF _
  case h_2 b hx => exact hself (by rw [hx]; rfl)
  case h_3 b m e hx =>
    split_ifs
    · exact hself (by rw [hx]; rfl)
    · exact canonical_roundTo ..

theorem canonical_dequantise (v : Int) (s : Nat) : (dequantise v s).Canonical := by
  unfold dequantise
  split_ifs <;> simp

theorem canonical_widen (f : Fmt) (v : Nat) : FRes.Canonical ⟨widen f v, 0⟩ := canonical_bits _ (canonical_deliver ..)

end

/-- The result of every instruction that pushes an FP32 value. -/
theorem canonical_of_floatRule {i : Instr} {f : Form} {g : Word → Word → Word → FRes} (h : floatRule i = some (f, g)) (hpush : f.push = .f32)
    (x y z : Word) : (g x y z).Canonical := by
  unfold floatRule at h
  -- the instructions that push no FP32 value are left out by `hpush`
  split at h <;> cases h <;> try cases hpush
  · exact canonical_faddOp ..
  · exact canonical_fsubOp ..
  · exact canonical_fmulOp ..
  · exact canonical_fdivOp ..
  · exact canonical_fmacOp ..
  · exact canonical_fmacOp ..
  · exact canonical_fminmaxOp ..
  · exact canonical_fminmaxOp ..
  · exact canonical_fsqrtOp ..
  · exact canonical_fdivOp ..
  · exact canonical_frsqOp ..
  · exact canonical_fexp2Op ..
  · exact canonical_flog2Op ..
  · exact canonical_fabsOp ..
  · exact canonical_fnegOp ..
  · exact canonical_frndOp ..
  · exact canonical_fsclOp ..
  · exact canonical_widen ..
  · exact canonical_widen ..
  · exact canonical_widen ..
  · exact canonical_dequantise ..
  · exact canonical_dequantise ..
  · exact canonical_roundInt ..
  · exact canonical_roundInt ..

/-! ### Signalling operands -/

/-- NV of signalling operands is bit 4 of the flags (R76, R78). -/
theorem getLsbD_snan (xs : List Fp) : (snan xs).getLsbD 4 = xs.any Fp.isSnan := by
  unfold snan
  cases xs.any Fp.isSnan <;> rfl

section
variable {x y : Word} (h : ((readF x).isSnan || (readF y).isSnan) = true)
include h

theorem getLsbD_snan_pair : (snan [readF x, readF y]).getLsbD 4 = true := by
  rw [getLsbD_snan]
  simpa using h

theorem isNan_or_of_isSnan_or : ((readF x).isNan || (readF y).isNan) = true := by
  rw [Bool.or_eq_true] at h ⊢
  exact h.imp Fp.isNan_of_isSnan Fp.isNan_of_isSnan

/-- An operation that answers a NaN operand with the canonical NaN sets NV for a signalling one. -/
theorem nv_nan_or (r : FRes) :
    (if (readF x).isNan || (readF y).isNan then ⟨nanF, snan [readF x, readF y]⟩ else r : FRes).flags.getLsbD 4 = true := by
  rw [if_pos (isNan_or_of_isSnan_or h)]
  exact getLsbD_snan_pair h

theorem nv_fminmaxOp (most : Bool) : (fminmaxOp most x y).flags.getLsbD 4 = true := by
  unfold fminmaxOp
  dsimp only
  split_ifs with hxy hx hy
  · exact getLsbD_snan_pair h
  · exact getLsbD_snan_pair h
  · exact getLsbD_snan_pair h
  all_goals exact absurd (isNan_or_of_isSnan_or h) (by simp [hx, hy])

theorem nv_fcmpOp (c : Fcc) : (fcmpOp c x y).flags.getLsbD 4 = true := by
  unfold fcmpOp
  cases c
  case eq | ne | un | or => exact getLsbD_snan_pair h
  all_goals
    dsimp only
    rw [isNan_or_of_isSnan_or h]
    rfl

end

/-! ### The statement -/

theorem isSnan_or {x y : Word}
    (h : (0x7F800000 < x.toNat % 2 ^ 31 ∧ x.getLsbD 22 = false) ∨ (0x7F800000 < y.toNat % 2 ^ 31 ∧ y.getLsbD 22 = false)) :
    ((readF x).isSnan || (readF y).isSnan) = true := by
  rw [Bool.or_eq_true]
  exact h.imp (fun h => readF_isSnan h.1 h.2) fun h => readF_isSnan h.1 h.2

/-- FMIN and FMAX with exactly one NaN return the other operand (R149). -/
theorem fminmaxOp_of_one_nan {x y : Word} (hx : (readF x).isNan = true) (hy : ¬ (readF y).isNan = true) (most : Bool) :
    (fminmaxOp most x y).bits = y ∧ (fminmaxOp most y x).bits = y := by
  constructor <;> simp [fminmaxOp, hx, hy]

/-- Settles O29: each operation delivers a rounded value, an operand that is no NaN, or the canonical NaN, the last with NV for a signalling
operand. -/
theorem naNsAreCanonical : Obligations.NaNsAreCanonical := by
  refine ⟨fun i f g h hpush x y z => canonical_of_floatRule h hpush x y z, fun i f g d a b m c h hi x y z hsnan => ?_,
    fun most x y hx hy => fminmaxOp_of_one_nan (readF_isNan_iff.2 hx) (readF_isNan_iff.not.2 (not_lt.2 hy)) most⟩
  have hs := isSnan_or hsnan
  obtain rfl | rfl | rfl | rfl | rfl | rfl | rfl := hi <;> cases h
  · exact nv_nan_or hs _
  · exact nv_nan_or hs _
  · exact nv_nan_or hs _
  · exact nv_nan_or hs _
  · exact nv_fminmaxOp hs _
  · exact nv_fminmaxOp hs _
  · exact nv_fcmpOp hs _

end Sys2Proof.Machine
end

section
/-! CLAIM. A turn whose head is an event, or a slice that may not issue (R98). -/

namespace Sys2Proof.Machine

/-- The turn of an event is its meaning, recorded by the debug slots. -/
theorem turn_event (e : Instr) (s : State) : turn (.event e) s = match exec e s with
    | .next t => .next (observe (.event e) s t)
    | .fault r => .fault r
    | .refused r => .refused r := rfl

/-- A slice that stands and may not issue lets its turn pass. -/
theorem issue_of_not_canIssue {s : State} {x : Team × Slice} (hat : sliceAt s s.cur = some x) (hissue : canIssue s s.cur = false) :
    issue s = .next s := by
  simp only [issue, hat, hissue, Bool.not_false, if_true]

/-- Settles O7: the turn of an event runs it, and that of a slice that may not issue leaves the state to the debug slots. -/
theorem stepRunsEvents : Obligations.StepRunsEvents := by
  rintro s s1 n rest rfl
  refine ⟨fun e hagenda => ?_, fun id x hagenda hat hissue => ?_⟩
  · rw [step, hagenda]
    simp only [turn_event]
    cases exec e (beginTurn { s with agenda := rest } n) <;> rfl
  · have hpass : issue { beginTurn { s with agenda := rest } n with cur := id } = .next { beginTurn { s with agenda := rest } n with cur := id } :=
      issue_of_not_canIssue hat hissue
    rw [step, hagenda]
    simp only [turn, hpass, settled]

end Sys2Proof.Machine
end

section
/-! CLAIM. The doublewords of a trap record (R103). -/

namespace Sys2Proof.Machine

/-- Bits [21:11] of a record: bit 10 of the eleven marks an address slice, the others number a compute strand (R103). -/
def strandBits (w : Option Nat) : Nat :=
  match w with
  | none => 2 ^ 10
  | some i => i

/-- The identity of a slice of the package stands at its bits. -/
theorem identityBits_of_ranges {pkg : Nat} {id : SliceId} (hpkg : pkg < 8192) (hcore : id.core < 384) (hslot : id.slot < 16)
    (hstrand : ∀ i, id.strand = some i → i < 1024) :
    identityBits pkg id = pkg * 2 ^ 35 + id.core / 96 * 2 ^ 33 + id.core % 96 * 2 ^ 26 + id.slot * 2 ^ 22 + strandBits id.strand * 2 ^ 11 := by
  have hdie : id.core / 96 < 4 := by omega
  have hlow : (match id.strand with | none => 2 ^ 21 | some i => i % 1024 * 2 ^ 11) = strandBits id.strand * 2 ^ 11 := by
    cases hs : id.strand with
    | none => rfl
    | some i => simp only [strandBits, Nat.mod_eq_of_lt (hstrand i hs)]
  rw [← hlow, identityBits, dieOf, Nat.mod_eq_of_lt hpkg, Nat.mod_eq_of_lt hdie, Nat.mod_eq_of_lt hslot] <;> rfl

theorem strandBits_lt {w : Option Nat} (h : ∀ i, w = some i → i < 1024) : strandBits w < 2048 := by
  cases w with
  | none => decide
  | some i => have := h i rfl; simp only [strandBits]; omega

/-- The strand bits read back. -/
theorem strandBits_fields {w : Option Nat} (h : ∀ i, w = some i → i < 1024) :
    strandBits w / 2 ^ 10 = (if w = none then 1 else 0) ∧ strandBits w % 2 ^ 10 = w.getD 0 := by
  cases w with
  | none => decide
  | some i => have := h i rfl; simp only [strandBits, reduceCtorEq, if_false, Option.getD_some]; omega

/-- A field of a doubleword that a number below 2^64 makes. -/
theorem field_ofNat {n hi lo : Nat} (h : n < 2 ^ 64) : field (BitVec.ofNat 64 n) hi lo = n / 2 ^ lo % 2 ^ (hi + 1 - lo) := by
  rw [field, BitVec.toNat_ofNat, Nat.mod_eq_of_lt h]

/-- Settles O12: each doubleword is a sum of fields that do not overlap. -/
theorem trapRecordLayout : Obligations.TrapRecordLayout := by
  intro r hcore hslot hstrand
  have hcause := r.cause.isLt
  have hcls := r.cls.isLt
  have hpkg := r.pkg.isLt
  have hpc := r.pc.isLt
  have hnext := r.nextPc.isLt
  have hlaunch := r.launch.isLt
  have hworld := r.world.isLt
  have hfield := r.field.isLt
  have hbits := strandBits_lt hstrand
  have hdie : r.id.core / 96 < 4 := by omega
  have hmod : r.id.core % 96 < 96 := Nat.mod_lt _ (by decide)
  obtain ⟨haddr, hindex⟩ := strandBits_fields hstrand
  refine ⟨_, _, _, rfl, ?_⟩
  rw [← haddr, ← hindex, identityBits_of_ranges hpkg hcore hslot hstrand, pairOf_eq_ofNat]
  generalize r.id.core / 96 = die at *
  generalize r.id.core % 96 = core at *
  generalize strandBits r.id.strand = strand at *
  obtain ⟨h0, h1, h2⟩ : r.cause.toNat * 2 ^ 56 + r.cls.toNat * 2 ^ 52 +
        (r.pkg.toNat * 2 ^ 35 + die * 2 ^ 33 + core * 2 ^ 26 + r.id.slot * 2 ^ 22 + strand * 2 ^ 11) < 2 ^ 64 ∧
      r.pc.toNat + 2 ^ 32 * r.nextPc.toNat < 2 ^ 64 ∧
      r.launch.toNat * 2 ^ 32 + r.world.toNat * 2 ^ 16 + r.field.toNat * 2 ^ 13 < 2 ^ 64 := by
    refine ⟨?_, ?_, ?_⟩ <;> omega
  simp only [field_ofNat h0, field_ofNat h1, field_ofNat h2]
  clear h0 h1 h2 -- the bounds of the single fields are all that the rest needs
  refine ⟨?_, ?_, ?_, ?_, ?_, ?_, ?_, ?_, ?_, ?_, ?_, ?_, ?_, ?_, ?_, ?_⟩ <;> omega

end Sys2Proof.Machine
end

section
/-! CLAIM. Taking a trap: one slice is stopped, and one record waits (R100, R101, R102). -/

namespace Sys2Proof.Machine

/-- A debug slot that a launch's records go to is bound, attached and has a ring (R438). -/
theorem debugSlotOf_some {s : State} {launch n : Nat} (h : debugSlotOf s launch = some n) :
    ∃ p ∈ s.debugSlots, p.1 = n ∧ (listGetD p.2.d 0 0).getLsbD 63 = true ∧ (listGetD p.2.d 0 0).getLsbD 62 = true ∧
      field (listGetD p.2.d 1 0) 63 32 = launch ∧ field (listGetD p.2.d 3 0) 63 48 ≠ 0 := by
  obtain ⟨p, hfind, hp⟩ := Option.map_eq_some_iff.1 h
  have hbit (v : DWord) (k : Nat) : field v k k = 1 ↔ v.getLsbD k = true := by
    rw [field, Nat.add_sub_cancel_left, pow_one, ← BitVec.testBit_toNat, Nat.testBit_eq_decide_div_mod_eq, decide_eq_true_iff]
  have hbound := List.find?_some hfind
  simp only [Bool.and_eq_true, beq_iff_eq, bne_iff_ne, hbit] at hbound
  obtain ⟨⟨⟨h63, h62⟩, hlaunch⟩, hring⟩ := hbound
  exact ⟨p, List.mem_of_find?_eq_some hfind, hp, h63, h62, hlaunch, hring⟩

/-- The queue that a trap record goes to: a DEBUG record's slot where the launch has one, its trap queue otherwise (R101). -/
theorem recordQueue_eq (s : State) (launch : Nat) (c : TrapClass) : recordQueue s launch c = match c, debugSlotOf s launch with
    | .debug, some n => .debug n
    | _, _ => .trap launch := by
  unfold recordQueue
  cases c <;> cases debugSlotOf s launch <;> rfl

/-- Settles O13: the slice that stands there is stopped, and one record waits. -/
theorem takingATrap : Obligations.TakingATrap := by
  refine ⟨fun s id tm sl i hat => ?_, fun c => by cases c <;> rfl⟩
  refine ⟨_, _, _, trapSlice_of_sliceAt hat i, onlySlice_putSlice hat _, rfl, rfl, ?_, fun n => debugSlotOf_some⟩
  exact congrArg (fun q => s.waiting ++ [⟨q, (trapRecord s id tm sl i).words, .slice (tm.name id.strand), false⟩])
    (recordQueue_eq s tm.launch i.cause.cls)

end Sys2Proof.Machine
end

section
/-! CLAIM. SETC installs a mask that names the strand itself and strands that exist (R159, R160). -/

namespace Sys2Proof.Machine

/-- The model reads a circle mask as its bits name strands (R159). -/
theorem circleMembers_eq (m : DWord) (k : Nat) : circleMembers m (k / 64) = circleOf m k := rfl

/-- Settles O35: the mask is checked, and installed where it may be. -/
theorem setCircle : Obligations.SetCircle := by
  intro a s tm sl v k f hk hg
  have hok : circleOk v.a k tm.decl.strands = true ↔ v.a.getLsbD (k % 64) = true ∧ ∀ j ∈ circleOf v.a k, j < tm.decl.strands := by
    simp [circleOk, circleMembers_eq]
  have hexec : exec (.setc a) s = .next (if circleOk v.a (s.cur.strand.getD 0) tm.decl.strands
      then finishNone v (nextPc sl.pc f.len) (modSlice s s.cur fun sl => { sl with circle := v.a })
      else trapSlice s s.cur { cause := .circleMask, next := nextPc sl.pc f.len }) := run_of_gathers hg _
  rw [hk, Option.getD_some] at hexec
  rw [hexec, ← hok]
  exact ⟨fun h => by rw [if_pos h]; rfl, fun h => by rw [if_neg h]; rfl⟩

end Sys2Proof.Machine
end

section
/-! CLAIM. The traps of a memory access in their order (R171, R440). -/

namespace Sys2Proof.Machine

/-- A memory instruction's access is aligned to its size (R171). -/
theorem align_of_memRule {i : Instr} {r : Form × Option (Fin 8) × (Vals → DWord) × (Vals → MemOp)} (h : memRule i = some r) (v : Vals) :
    (r.2.2.2 v).align = (r.2.2.2 v).size := by
  cases i with
  | ldw | teamLdw | ldd | teamLdd | ldh | ldb | stw | teamStw | std | teamStd | sth | stb | ldx | teamLdx | stx | teamStx | lde | ldl
  | aadd | teamAadd | amax | teamAmax | aor | axch | teamAxch | acas | teamAcas | aaddd | teamAaddd | acasd | teamAcasd
  | waita | teamWaita | fencef | teamFencef => cases h; rfl
  | _ => cases h

section
variable {s : State} {id : SliceId} {tm : Team} {sl : Slice} {lw off : DWord} {op : MemOp} (hlow : field off 63 48 = 0)
include hlow

theorem accessPath_of_misaligned (hal : off.toNat % op.align ≠ 0) : accessPath s id tm sl lw off op = .error .misaligned := by
  rw [accessPath, if_neg (not_not.2 hlow), if_pos hal]

variable (hal : off.toNat % op.align = 0)
include hal

theorem accessPath_of_watched (hw : watched s tm.launch sl.skip op.watchKind lw off op.size = true) :
    accessPath s id tm sl lw off op = .error .watch := by
  rw [accessPath, if_neg (not_not.2 hlow), if_neg (not_not.2 hal), if_pos hw]

theorem accessPath_of_walk_error (hw : watched s tm.launch sl.skip op.watchKind lw off op.size = false) {pf : PathFault}
    (hwalk : walkC s (askOf tm id off op.size op.need op.req) lw off (4 * sl.regs.length) = .error pf) :
    accessPath s id tm sl lw off op = .error (.fault pf) := by
  rw [accessPath, if_neg (not_not.2 hlow), if_neg (not_not.2 hal), if_neg (Bool.eq_false_iff.1 hw), hwalk]

end

/-- Settles O40: the checks stand in `accessPath` in the order of R171. -/
theorem accessTraps : Obligations.AccessTraps := by
  intro i f l off op s tm sl v hrule hg hfree lw next trap seen
  have hexec := exec_of_memRule hrule hg hfree
  have hsize := align_of_memRule hrule v
  have stops {st : AccessStop} (h : accessPath s s.cur tm sl lw (off v) (op v) = .error st) :
      exec i s = .next (stopAccess s s.cur st lw (off v) (op v).size next) := by
    rw [hexec, issueAccess, h]; rfl
  refine ⟨fun hhigh => ⟨_, stops (if_pos hhigh), rfl, rfl, rfl⟩, fun hlow hal => ?_, fun hlow hal hw => ?_, fun pf hlow hal hw hwalk => ?_⟩
  · exact stops (accessPath_of_misaligned hlow (hsize ▸ hal))
  · exact stops (accessPath_of_watched hlow (hsize ▸ hal) hw)
  · exact stops (accessPath_of_walk_error hlow (hsize ▸ hal) hw hwalk)

end Sys2Proof.Machine
end

section
/-! CLAIM. A fault of the label path: what it posts, what it stops and what it keeps (R101, R298, R319, R347). -/

namespace Sys2Proof.Machine

/-- A gang changed, its launch and number kept, is the changed one. -/
theorem gangOf_modGang_self {s : State} {launch number : Nat} {g : Gang} (h : gangOf s launch number = some g) {u : Gang → Gang}
    (hlaunch : ∀ x, (u x).launch = x.launch) (hnumber : ∀ x, (u x).number = x.number) :
    gangOf (modGang s launch number u) launch number = some (u g) := by
  have hkey (x : Gang) : ((fun y : Gang => y.launch == launch && y.number == number) ∘
      fun y => if y.launch == launch && y.number == number then u y else y) x = (x.launch == launch && x.number == number) := by
    simp only [Function.comp_apply]
    split
    · rw [hlaunch, hnumber]
    · rfl
  rw [gangOf, modGang, List.find?_map, funext hkey]
  change (gangOf s launch number).map _ = _
  rw [h, Option.map_some, if_pos (List.find?_some h)]

theorem postNotice_waiting (s : State) (q : Requester) (f : PathFault) : ∃ ws, (postNotice s q f).waiting = s.waiting ++ ws := by
  unfold postNotice
  split
  · exact ⟨[], (List.append_nil _).symm⟩
  · exact ⟨_, rfl⟩

/-- The fault record waits first, then the notice where there is one (R347). -/
theorem postFault_waiting (s : State) (launch : Nat) (q : Requester) (f : PathFault) (m : Master) :
    ∃ ws words, (postFault s launch q f m).waiting = s.waiting ++ ⟨faultQueue launch q.world f, words, m, false⟩ :: ws := by
  unfold postFault
  dsimp only
  split
  · obtain ⟨ws, hws⟩ := postNotice_waiting { s with waiting := s.waiting ++
      [⟨faultQueue launch q.world f, faultWords s q f (readerOf f (faultQueue launch q.world f)) false, m, false⟩] } q f
    exact ⟨ws, _, hws.trans (List.append_assoc ..)⟩
  · exact ⟨[], _, rfl⟩

theorem postNotice_gangs (s : State) (q : Requester) (f : PathFault) : (postNotice s q f).gangs = s.gangs := by
  unfold postNotice; split <;> rfl

theorem postFault_gangs (s : State) (launch : Nat) (q : Requester) (f : PathFault) (m : Master) :
    (postFault s launch q f m).gangs = s.gangs := by
  unfold postFault
  dsimp only
  split
  · exact postNotice_gangs ..
  · rfl

/-- The trap that a fault of the label path is to its slice, as JOB sees its trace (R103, R351). -/
def faultInfo (pf : PathFault) (info0 info1 : DWord) (next : Word) : TrapInfo :=
  { cause := pf.cause, next := next, info0 := info0, info1 := info1, detail0 := (pf.shown 0).1, detail1 := (pf.shown 0).2 }

/-- The slice that has met a fault: it will execute its instruction again (R347). -/
def Slice.faulted (sl : Slice) (r : TrapRecord) : Slice :=
  { sl with record := some r, stall := none, await := none, skip := false, waits := none, scatter := [], linv := 0 }

/-- Its team, frozen by a violation (R101). -/
def Team.faulted (tm : Team) (pf : PathFault) : Team := { tm with frozen := tm.frozen || pf.cause.cls == .violation }

/-- The state in which a MISS or VIOLATION has been posted: the fault record, and above level C the slice's trap record (R347). -/
def faultPosted (s : State) (id : SliceId) (tm : Team) (sl : Slice) (pf : PathFault) (info0 info1 off : DWord) (size : Nat) (next : Word) :
    State :=
  let r := trapRecord s id tm sl (faultInfo pf info0 info1 next)
  let u := postFault (putSlice s id (tm.faulted pf) (sl.faulted r)) tm.launch
    (sliceRequester (putSlice s id (tm.faulted pf) (sl.faulted r)) id tm sl off size) pf
    (.slice (tm.name id.strand))
  if pf.level = 0 then u else { u with waiting := u.waiting ++ [⟨.trap tm.launch, r.words, .slice (tm.name id.strand), false⟩] }

section
variable {s : State} {id : SliceId} {tm : Team} {sl : Slice} {pf : PathFault} (hat : sliceAt s id = some (tm, sl)) (hhold : pf.hold = none)
  (info0 info1 off : DWord) (size : Nat) (next : Word)
include hat hhold

/-- A fault that nothing holds up, by its class (R101, R347). -/
theorem faultWith_of_hold_none : faultWith s id pf info0 info1 off size next = match pf.cause.cls with
    | .miss | .violation =>
      if pf.cause.cls == .miss then stopGang (faultPosted s id tm sl pf info0 info1 off size next) tm.launch tm.gang
      else faultPosted s id tm sl pf info0 info1 off size next
    | _ => trapSlice s id (faultInfo pf info0 info1 next) := by
  unfold faultWith
  rw [hat]
  dsimp only
  rw [hhold]
  rfl

theorem faultWith_of_miss (h : pf.cause.cls = .miss) : faultWith s id pf info0 info1 off size next =
    stopGang (faultPosted s id tm sl pf info0 info1 off size next) tm.launch tm.gang := by
  rw [faultWith_of_hold_none hat hhold, h]; rfl

theorem faultWith_of_violation (h : pf.cause.cls = .violation) : faultWith s id pf info0 info1 off size next =
    faultPosted s id tm sl pf info0 info1 off size next := by
  rw [faultWith_of_hold_none hat hhold, h]; rfl

theorem faultWith_of_data (h : pf.cause.cls = .data) : faultWith s id pf info0 info1 off size next =
    trapSlice s id (faultInfo pf info0 info1 next) := by
  rw [faultWith_of_hold_none hat hhold, h]

end

theorem sliceAt_faultPosted {s : State} {id : SliceId} {tm : Team} {sl : Slice} (hat : sliceAt s id = some (tm, sl)) (pf : PathFault)
    (info0 info1 off : DWord) (size : Nat) (next : Word) :
    sliceAt (faultPosted s id tm sl pf info0 info1 off size next) id =
      some ((tm.faulted pf).putSlice id.strand
        (sl.faulted (trapRecord s id tm sl (faultInfo pf info0 info1 next))), sl.faulted (trapRecord s id tm sl (faultInfo pf info0 info1 next))) := by
  have hslice := (teamAt_of_sliceAt hat).2
  have hput (x : Slice) : sliceAt (putSlice s id (tm.faulted pf) x) id =
      some ((tm.faulted pf).putSlice id.strand x, x) :=
    sliceAt_putSlice_self (old := sl) (by rw [← hslice]; cases id.strand <;> rfl) x
  unfold faultPosted
  dsimp only
  split
  · exact (sliceAt_postFault ..).trans (hput _)
  · exact (sliceAt_postFault ..).trans (hput _)

theorem faultPosted_gangs (s : State) (id : SliceId) (tm : Team) (sl : Slice) (pf : PathFault) (info0 info1 off : DWord) (size : Nat)
    (next : Word) : (faultPosted s id tm sl pf info0 info1 off size next).gangs = s.gangs := by
  unfold faultPosted
  dsimp only
  split
  · exact postFault_gangs ..
  · exact postFault_gangs ..

/-- What waits of a posted fault: its record for the owner's queue, and above level C the slice's own for the trap queue (R347). -/
theorem faultPosted_waiting (s : State) (id : SliceId) (tm : Team) (sl : Slice) (pf : PathFault) (info0 info1 off : DWord) (size : Nat)
    (next : Word) : ∃ ws w, (faultPosted s id tm sl pf info0 info1 off size next).waiting = s.waiting ++ w :: ws ∧
      w.master = .slice (tm.name id.strand) ∧ w.q = faultQueue tm.launch tm.world pf ∧
      (pf.level ≠ 0 → ∃ x ∈ ws, x.q = .trap tm.launch ∧ x.words = (trapRecord s id tm sl (faultInfo pf info0 info1 next)).words) := by
  unfold faultPosted
  dsimp only
  obtain ⟨ws, words, h⟩ := postFault_waiting
    (putSlice s id (tm.faulted pf)
      (sl.faulted (trapRecord s id tm sl (faultInfo pf info0 info1 next)))) tm.launch
    (sliceRequester (putSlice s id (tm.faulted pf)
      (sl.faulted (trapRecord s id tm sl (faultInfo pf info0 info1 next)))) id tm sl off size) pf (.slice (tm.name id.strand))
  split
  next hlevel => exact ⟨ws, _, h, rfl, rfl, fun hne => absurd hlevel hne⟩
  next hlevel =>
    refine ⟨ws ++ [⟨.trap tm.launch, (trapRecord s id tm sl (faultInfo pf info0 info1 next)).words, .slice (tm.name id.strand), false⟩],
      ⟨faultQueue tm.launch tm.world pf, words, .slice (tm.name id.strand), false⟩, ?_, rfl, rfl, fun _ => ⟨_, List.mem_append_right _ (List.mem_singleton_self _), rfl, rfl⟩⟩
    rw [h, List.append_assoc]
    rfl

/-- Settles O41: a fault that nothing holds up is posted, and its class decides what else stops. -/
theorem faultOutcomes : Obligations.FaultOutcomes := by
  intro s id tm sl pf lw off size next g hat hgang hres hhold hbar
  refine ⟨fun hcls => ?_, fun hcls => ?_⟩
  · obtain ⟨ws, w, hwait, hmaster, hq, htrap⟩ := faultPosted_waiting s id tm sl pf off lw off size next
    have hslice := sliceAt_faultPosted hat pf off lw off size next
    have hkept := Kept.faultSlice s id pf lw off size next
    have hgang' : gangOf (faultPosted s id tm sl pf off lw off size next) tm.launch tm.gang = some g := by
      rw [gangOf, faultPosted_gangs]; exact hgang
    have hfrozen (x : Slice) : ((tm.faulted pf).putSlice id.strand x).frozen =
        (tm.frozen || decide (pf.cause.cls = .violation)) := by cases id.strand <;> rfl
    obtain hmiss | hviol := hcls
    · have heq := faultWith_of_miss hat hhold off lw off size next hmiss
      refine ⟨_, _, _, _, _, heq, hslice, rfl, rfl, rfl, rfl, rfl, rfl, rfl, hfrozen _,
        gangOf_modGang_self hgang' (fun _ => rfl) (fun _ => rfl), fun _ => ⟨?_, rfl⟩, fun h => ?_, heq ▸ hkept.mem, heq ▸ hkept.inflight,
        ws, w, hwait, hmaster, hq, htrap⟩
      · rw [hres]
      · rw [hmiss] at h; cases h
    · have heq := faultWith_of_violation hat hhold off lw off size next hviol
      refine ⟨_, _, _, _, g, heq, hslice, rfl, rfl, rfl, rfl, rfl, rfl, rfl, hfrozen _,
        hgang', fun h => ?_, fun _ => rfl, heq ▸ hkept.mem, heq ▸ hkept.inflight,
        ws, w, hwait, hmaster, hq, htrap⟩
      rw [hviol] at h; cases h
  · have heq := faultWith_of_data hat hhold off lw off size next hcls
    rw [faultSlice, heq, faultInfo, PathFault.shown, hbar]
    rfl

end Sys2Proof.Machine
end

section
/-! CLAIM. SREAD and SWRITE (R97, R128, R453). -/

namespace Sys2Proof.Machine

/-! ### Checks that an instruction makes itself -/

section
variable {s : State} {w : Option Nat} {tm : Team} {sl : Slice} {f : Form} {own : Except Stop Unit}

/-- A gathering that has gone on has passed its checks. -/
theorem declChecks_of_gather {v : Vals} (h : gather s w tm sl f own = .ok v) : declChecks f tm sl = .ok () := by
  cases hdecl : declChecks f tm sl with
  | ok u => rfl
  | error st => rw [gather_of_declChecks hdecl] at h; cases h

/-- The instruction's own check comes after those of the declarations (R34). -/
theorem gather_of_own_error {st : Stop} (hdecl : declChecks f tm sl = .ok ()) (hown : own = .error st) :
    gather s w tm sl f own = .error st := by
  simp only [gather, hdecl, hown]; rfl

end

/-! ### Special registers -/

/-- Index 18 is %circle, which a compute strand alone has (R97). -/
theorem specialOf_circle (s : State) (id : SliceId) (tm : Team) (sl : Slice) :
    (specialOf s id tm sl)[18]? = some (if id.strand.isSome then some sl.circle.toNat else none) := rfl

/-- SREAD takes the indices under which R97 gives the slice's set a register. -/
theorem readableSpecial_eq (s : State) (id : SliceId) (tm : Team) (sl : Slice) (idx : Nat) :
    readableSpecial id.strand.isNone idx = (specialOf s id tm sl)[idx]?.join.isSome := by
  by_cases hlt : idx < 18
  · rw [readableSpecial, decide_eq_true hlt]
    interval_cases idx <;> rfl
  · by_cases h18 : idx = 18
    · rw [h18, specialOf_circle]
      cases id.strand <;> rfl
    · have hlen : (specialOf s id tm sl).length ≤ idx := by change 19 ≤ idx; omega
      rw [List.getElem?_eq_none hlen]
      simp [readableSpecial, hlt, h18]

/-- A register of at most 32 bits as the value of a 32-bit destination. -/
theorem setWidth_eq_ofNat_mod {n : Nat} (hn : n ≤ 32) (x : BitVec n) : x.setWidth 64 = BitVec.ofNat 64 (x.toNat % 2 ^ 32) := by
  rw [Nat.mod_eq_of_lt (x.isLt.trans_le (Nat.pow_le_pow_right (by decide) hn)), BitVec.ofNat_toNat]

theorem setWidth_highWord (x : DWord) : (highWord x).setWidth 64 = BitVec.ofNat 64 (x.toNat / 2 ^ 32 % 2 ^ 32) := by
  rw [setWidth_eq_ofNat_mod le_rfl, highWord_eq_ofNat, BitVec.toNat_ofNat, Nat.mod_mod]

/-- The value that SREAD delivers is that of R97's register. -/
theorem specialValue_eq {s : State} {id : SliceId} {tm : Team} {sl : Slice} {idx n : Nat}
    (h : (specialOf s id tm sl)[idx]? = some (some n)) :
    specialValue s id tm sl idx = if idx = 18 then BitVec.ofNat 64 n else BitVec.ofNat 64 (n % 2 ^ 32) := by
  have hlt : idx < 19 := (List.getElem?_eq_some_iff.1 h).1
  by_cases h18 : idx = 18
  · subst h18
    rw [specialOf_circle] at h
    cases hs : id.strand with
    | none => simp [hs] at h
    | some i =>
      simp only [hs, Option.isSome_some, if_true, Option.some.injEq] at h
      rw [if_pos rfl, ← h, BitVec.ofNat_toNat, BitVec.setWidth_eq]
      rfl
  · have hlow : idx < 18 := by omega
    rw [if_neg h18]
    match idx, hlow, h with
    | 0, _, h => cases h; cases hs : id.strand <;> simp [specialValue, hs]
    | 12, _, h => cases h; exact setWidth_highWord _
    | 11, _, h | 13, _, h | 16, _, h | 17, _, h => cases h; exact setWidth_eq_ofNat_mod (n := 32) le_rfl _
    | 15, _, h => cases h; exact setWidth_eq_ofNat_mod (n := 2) (by decide) _
    | 1, _, h | 2, _, h | 3, _, h | 4, _, h | 5, _, h | 6, _, h | 7, _, h | 8, _, h | 9, _, h | 10, _, h | 14, _, h => cases h; rfl
    | _ + 18, hlow, _ => omega

/-! ### SREAD and SWRITE -/

theorem toNat_eq_18 (imm : BitVec 17) : imm.toNat = 18 ↔ imm = 18 := BitVec.toNat_inj (y := 18)
theorem toNat_eq_11 (imm : BitVec 17) : imm.toNat = 11 ↔ imm = 11 := BitVec.toNat_inj (y := 11)

section
variable {s : State} {team : Bool} {d : Dst} {imm : BitVec 17} {tm : Team} {sl : Slice} (hat : sliceAt s s.cur = some (tm, sl))
  (hset : s.cur.strand.isNone = team)
include hat hset

/-- SREAD of a register of its set completes with its value; that of %clock samples the count (R97, R128). -/
theorem sread_of_specialOf {n : Nat} {v : Vals} (hn : (specialOf s s.cur tm sl)[imm.toNat]? = some (some n))
    (hg : gather s s.cur.strand tm sl (formJd team d (if imm = 18 ∧ team = false then .w64 else .w32)) (.ok ()) = .ok v) :
    sread team d imm s = .next (finishTo (if imm = 11 then modSlice s s.cur fun x => { x with clockSample := s.clock } else s) s.cur
      (formJd team d (if imm = 18 ∧ team = false then .w64 else .w32)) v (sl.pc + 4)
      (if imm = 18 then BitVec.ofNat 64 n else BitVec.ofNat 64 (n % 2 ^ 32)) 0) := by
  have hown : stopIf (!readableSpecial team imm.toNat) (badSpecial sl.pc imm.toNat) = .ok () := by
    rw [← hset, readableSpecial_eq s s.cur tm sl, hn]; rfl
  simp only [sread, toNat_eq_18, toNat_eq_11, Bool.not_eq_true']
  rw [runOwn_of_gather hat (hown ▸ hg), specialValue_eq hn]
  simp only [toNat_eq_18]
  rfl

/-- SREAD of any other index traps (R97, R453). -/
theorem sread_of_no_special (hnone : (specialOf s s.cur tm sl)[imm.toNat]?.join = none)
    (hdecl : declChecks (formJd team d (if imm = 18 ∧ team = false then .w64 else .w32)) tm sl = .ok ()) :
    sread team d imm s = .next (trapSlice s s.cur
      { cause := .badSpecial, field := 5, next := sl.pc + 4, info0 := BitVec.ofNat 64 imm.toNat }) := by
  have hown : stopIf (!readableSpecial team imm.toNat) (badSpecial sl.pc imm.toNat) = .error (badSpecial sl.pc imm.toNat) := by
    rw [← hset, readableSpecial_eq s s.cur tm sl, hnone]; rfl
  simp only [sread, toNat_eq_18, Bool.not_eq_true']
  refine (runOwn_of_stop (st := badSpecial sl.pc imm.toNat) hat ?_).trans rfl
  exact gather_of_own_error hdecl hown

end

section
variable {s : State} {team : Bool} {a : Src} {imm : BitVec 17} {tm : Team} {sl : Slice} {v : Vals}
  (hg : Gathers s (formJs team a) (.ok ()) tm sl v)
include hg

/-- SWRITE of %sp installs a value that it takes, and traps with another (R97, R128, R453). -/
theorem swrite_of_sp (himm : imm = 16) : swrite team a imm s = .next (if spOk (lowWord v.a) then
      finishNone v (sl.pc + 4) (modSlice s s.cur fun x => { x with sp := lowWord v.a })
    else trapSlice s s.cur { cause := .badSpecial, field := 1, next := sl.pc + 4, info0 := v.a }) := by
  subst himm
  exact runOwn_of_gather hg.1 hg.2

/-- SWRITE of any other index traps (R128, R453). -/
theorem swrite_of_other (himm : imm ≠ 16) : swrite team a imm s = .next (trapSlice s s.cur
    { cause := .badSpecial, field := 5, next := sl.pc + 4, info0 := BitVec.ofNat 64 imm.toNat }) := by
  obtain ⟨hat, hgather⟩ := hg
  have hown : stopIf (imm != 16) (badSpecial sl.pc imm.toNat) = .error (badSpecial sl.pc imm.toNat) := by
    rw [bne_iff_ne.2 himm]; rfl
  unfold swrite
  refine (runOwn_of_stop (st := badSpecial sl.pc imm.toNat) hat ?_).trans rfl
  exact gather_of_own_error (declChecks_of_gather hgather) hown

end

/-- The values that %sp takes (R97). -/
theorem spOk_lowWord (x : DWord) : spOk (lowWord x) = true ↔ x.toNat % 2 ^ 32 ≤ 16384 ∧ x.toNat % 4 = 0 := by
  rw [spOk, lowWord_toNat, decide_eq_true_iff]
  omega

/-- Settles O30: an index is checked before the operands are gathered, and each index that passes has its register's value. -/
theorem specialRegisters : Obligations.SpecialRegisters := by
  constructor
  · intro i d imm s tm sl f hi hat hset
    have hexec : exec i s = sread i.isTeam d imm s := by obtain rfl | rfl := hi <;> rfl
    rw [hexec]
    exact ⟨fun n v => sread_of_specialOf hat hset, sread_of_no_special hat hset⟩
  · intro i a imm s tm sl v f hi hg
    have hexec : exec i s = swrite i.isTeam a imm s := by obtain rfl | rfl := hi <;> rfl
    rw [hexec]
    refine ⟨fun himm hle hal => ?_, fun himm hbad => ?_, swrite_of_other hg⟩
    · rw [swrite_of_sp hg himm, if_pos ((spOk_lowWord _).2 ⟨hle, hal⟩)]
    · rw [swrite_of_sp hg himm, if_neg (by rw [spOk_lowWord]; omega)]

end Sys2Proof.Machine
end

section
/-! CLAIM. A call and the return after it (R95, R133, R134, R135). -/

namespace Sys2Proof.Machine

/-! ### Bytes of a stack line -/

/-- A number read back from its bytes (R4). -/
theorem natOfBytes_bytesOfNat (n w : Nat) : natOfBytes (bytesOfNat n w) = w % 256 ^ n := by
  induction n generalizing w with
  | zero => exact (Nat.mod_one w).symm
  | succ n ih =>
    have hbyte : (BitVec.ofNat 8 w).toNat = w % 256 := BitVec.toNat_ofNat ..
    rw [bytesOfNat, natOfBytes, ih, hbyte, pow_succ', Nat.mod_mul]

@[simp] theorem length_bytesOfNat (n w : Nat) : (bytesOfNat n w).length = n := by
  induction n generalizing w with
  | zero => rfl
  | succ n ih => rw [bytesOfNat, List.length_cons, ih]

section
variable {sl : Slice} {o : Nat} {line : List Byte} (hline : Table.get sl.stack (o / 128) = some line)
include hline

/-- A line written to is the one before with the bytes in place. -/
theorem stack_writeStack (bs : List Byte) : Table.get (writeStack sl o bs).stack (o / 128) =
    some (line.take (o % 128) ++ bs ++ line.drop (o % 128 + bs.length)) := by
  simp [writeStack, Table.getD, hline]

/-- Bytes stored within a line that is whole read back. -/
theorem readStack_writeStack {bs : List Byte} (hfits : o % 128 ≤ line.length) :
    readStack (writeStack sl o bs) o bs.length = bs := by
  have hlen : (line.take (o % 128)).length = o % 128 := List.length_take_of_le hfits
  rw [readStack, Table.getD, stack_writeStack hline, Option.getD_some, List.append_assoc, List.drop_left' hlen, List.take_left]

end

/-! ### Calls and returns -/

/-- No operand field, nothing to wait for (R25, R209). -/
theorem gathers_form0 {s : State} {tm : Team} {sl : Slice} (hat : sliceAt s s.cur = some (tm, sl)) (team : Bool) :
    Gathers s (form0 team) (.ok ()) tm sl ⟨0, 0, 0, []⟩ :=
  ⟨hat, operandsThatAreThere s s.cur.strand tm sl (form0 team) 0 0 0 rfl rfl rfl rfl nofun⟩

/-- The slice after a call: its return PC stored below %sp (R133). -/
def Slice.called (sl : Slice) (ret tgt : Word) : Slice :=
  { writeStack sl (sl.sp.toNat - 4) (bytesOfNat 4 ret.toNat) with sp := sl.sp - 4 }.goneOn tgt

@[simp] theorem touchWay_cur (s : State) (c line : Nat) : (touchWay s c line).cur = s.cur := rfl

section
variable {s : State} {tm : Team} {sl : Slice} {v : Vals} {line : List Byte} (hat : sliceAt s s.cur = some (tm, sl))
  (hpops : v.pops = []) (hstep : sl.stepBit = false)
include hat hpops hstep

/-- A call with room on its stack, the line present: the return PC stored, %sp less by 4, the slice at the target (R95, R133). -/
theorem callTo_of_present (hlow : 4 ≤ sl.sp.toNat) (hline : Table.get sl.stack ((sl.sp.toNat - 4) / 128) = some line) (len : Nat) {tgt : Word}
    (htgt : misaligned tgt = false) : callTo s sl v len tgt =
      putSlice (touchWay s s.cur.core ((sl.sp.toNat - 4) / 128)) s.cur tm (sl.called (nextPc sl.pc len) tgt) := by
  have hsp : (sl.sp - 4).toNat = sl.sp.toNat - 4 := by bv_omega
  have hat' : sliceAt (touchWay s s.cur.core ((sl.sp.toNat - 4) / 128)) s.cur = some (tm, sl) := (sliceAt_touchWay ..).trans hat
  have hstart : SliceBecomes (touchWay s s.cur.core ((sl.sp.toNat - 4) / 128)) s.cur tm sl sl _ := .inr ⟨rfl, rfl⟩
  have hstored := (hstart.modSlice hat' fun x => writeStack x (sl.sp.toNat - 4) (bytesOfNat 4 (nextPc sl.pc len).toNat)).modSlice hat'
    fun x => { x with sp := sl.sp - 4 }
  rw [callTo, htgt, if_neg Bool.false_ne_true, if_neg (Nat.not_lt.2 hlow)]
  dsimp only
  rw [hsp, storeStack_of_present hat hline]
  dsimp only
  rw [finishNone, hpops, commitAt_nil]
  simp only [modSlice_cur, touchWay_cur]
  exact hstored.complete hat' hstep tgt

omit hpops in
/-- A return from a line that is present to an aligned PC (R95, R134). -/
theorem ret_of_present {o : Nat} (hsp : sl.sp.toNat = o) (hhigh : o ≤ 16380) (hline : Table.get sl.stack (o / 128) = some line) (team : Bool)
    {tgt : Word} (htgt : BitVec.ofNat 32 (natOfBytes (readStack sl o 4)) = tgt) (hal : misaligned tgt = false) :
    ret team s = .next (putSlice (touchWay s s.cur.core (o / 128)) s.cur tm ({ sl with sp := sl.sp + 4 }.goneOn tgt)) := by
  subst hsp
  have hat' : sliceAt (touchWay s s.cur.core (sl.sp.toNat / 128)) s.cur = some (tm, sl) := (sliceAt_touchWay ..).trans hat
  have hstart : SliceBecomes (touchWay s s.cur.core (sl.sp.toNat / 128)) s.cur tm sl sl _ := .inr ⟨rfl, rfl⟩
  have hdone := (hstart.modSlice hat' fun x => { x with sp := sl.sp + 4 }).complete hat' hstep tgt
  have hbytes : (line.drop (sl.sp.toNat % 128)).take 4 = readStack sl sl.sp.toNat 4 := by
    rw [readStack, Table.getD, hline, Option.getD_some]
  rw [ret, run_of_gathers (gathers_form0 hat team), if_neg (Nat.not_lt.2 hhigh), loadStack_of_present hat hline]
  dsimp only
  rw [hbytes, htgt, hal, if_neg Bool.false_ne_true, ← hdone, finishNone, commitAt_nil]
  simp only [modSlice_cur, touchWay_cur]

end

/-- A call to a transfer's target, and the return after it. -/
theorem ret_after_callTo {s : State} {tm : Team} {sl : Slice} {v : Vals} {line : List Byte} (hat : sliceAt s s.cur = some (tm, sl))
    (hpops : v.pops = []) (hstep : sl.stepBit = false) (hpc : sl.pc.toNat % 4 = 0) (hlow : 4 ≤ sl.sp.toNat) (hhigh : sl.sp.toNat ≤ 16384)
    (hal : sl.sp.toNat % 4 = 0) (hline : Table.get sl.stack ((sl.sp.toNat - 4) / 128) = some line) (hlen : line.length = 128) (len : Nat)
    {tgt : Word} (htgt : misaligned tgt = false) (team : Bool) :
    ∃ t u sl1 sl2, callTo s sl v len tgt = t ∧ OnlySlice (touchWay s s.cur.core ((sl.sp.toNat - 4) / 128)) t s.cur sl1 ∧ sl1.pc = tgt ∧
      sl1.sp = sl.sp - 4 ∧ sl1.regs = sl.regs ∧ sl1.fflags = sl.fflags ∧
      readStack sl1 (sl.sp.toNat - 4) 4 = bytesOfNat 4 (nextPc sl.pc len).toNat ∧ ret team t = .next u ∧
      OnlySlice (touchWay t s.cur.core ((sl.sp.toNat - 4) / 128)) u s.cur sl2 ∧ sl2.pc = nextPc sl.pc len ∧ sl2.sp = sl.sp ∧
      sl2.regs = sl.regs ∧ sl2.fflags = sl.fflags := by
  have hsp : (sl.sp - 4).toNat = sl.sp.toNat - 4 := by bv_omega
  have hat' : sliceAt (touchWay s s.cur.core ((sl.sp.toNat - 4) / 128)) s.cur = some (tm, sl) := (sliceAt_touchWay ..).trans hat
  have hatt := sliceAt_putSlice_self (s := touchWay s s.cur.core ((sl.sp.toNat - 4) / 128)) (teamAt_of_sliceAt hat').2
    (sl.called (nextPc sl.pc len) tgt)
  have hread : readStack (sl.called (nextPc sl.pc len) tgt) (sl.sp.toNat - 4) 4 = bytesOfNat 4 (nextPc sl.pc len).toNat := by
    have h := readStack_writeStack (bs := bytesOfNat 4 (nextPc sl.pc len).toNat) hline (by omega)
    rwa [length_bytesOfNat] at h
  have hret : BitVec.ofNat 32 (natOfBytes (readStack (sl.called (nextPc sl.pc len) tgt) (sl.sp.toNat - 4) 4)) = nextPc sl.pc len := by
    rw [hread, natOfBytes_bytesOfNat]
    exact BitVec.eq_of_toNat_eq (by rw [BitVec.toNat_ofNat]; omega)
  have hretal : misaligned (nextPc sl.pc len) = false :=
    misaligned_eq_false (by rw [nextPc, BitVec.toNat_add, BitVec.toNat_ofNat]; omega)
  have hback := ret_of_present hatt hstep hsp (by omega) (stack_writeStack hline (bytesOfNat 4 (nextPc sl.pc len).toNat)) team hret hretal
  exact ⟨_, _, _, { sl.called (nextPc sl.pc len) tgt with sp := sl.sp - 4 + 4 }.goneOn (nextPc sl.pc len),
    callTo_of_present hat hpops hstep hlow hline len htgt, onlySlice_putSlice hat' _, rfl, rfl, rfl, rfl, hread, hback,
    onlySlice_putSlice ((sliceAt_touchWay ..).trans hatt) _, rfl, BitVec.sub_add_cancel .., rfl, rfl⟩

/-- Settles O32: the stored return PC is read back by the return. -/
theorem callThenReturn : Obligations.CallThenReturn := by
  intro i a imm s tm sl v line call callr f tgt ret hi hg hpops hstep hpc hlow hhigh hal hline hlen htgt
  have hmis : misaligned tgt = false ∧ exec i s = .next (callTo s sl v f.len tgt) := by
    by_cases hcall : i = .call imm ∨ i = .teamCall imm
    · have hf : f = form0 i.isTeam := if_pos hcall
      have ht : tgt = branchTarget sl.pc imm := (if_pos hcall).trans (branchTarget_eq ..).symm
      have hexec : exec i s = Machine.call i.isTeam imm s := by obtain rfl | rfl := hcall <;> rfl
      rw [ht, hexec, Machine.call, run_of_gathers (hf ▸ hg), hf]
      exact ⟨misaligned_branchTarget hpc imm, rfl⟩
    · have hcallr : callr := hi.resolve_left hcall
      have hf : f = formA i.isTeam a := if_neg hcall
      have ht : tgt = lowWord v.a := if_neg hcall
      have hexec : exec i s = Machine.callr i.isTeam a s := by obtain rfl | rfl := hcallr <;> rfl
      refine ⟨misaligned_eq_false (htgt hcallr), ?_⟩
      rw [ht, hexec, Machine.callr, run_of_gathers (hf ▸ hg), hf]
  obtain ⟨hmis, hexec⟩ := hmis
  obtain ⟨t, u, sl1, sl2, hcallTo, honly1, hpc1, hsp1, hregs1, hflags1, hread, hret, honly2, hpc2, hsp2, hregs2, hflags2⟩ :=
    ret_after_callTo hg.1 hpops hstep hpc hlow hhigh hal hline hlen f.len hmis i.isTeam
  have hexecRet : exec (if i.isTeam then .teamRet else .ret) t = Machine.ret i.isTeam t := by cases i.isTeam <;> rfl
  exact ⟨t, u, sl1, sl2, hexec.trans (congrArg _ hcallTo), honly1, hpc1, hsp1, hregs1, hflags1, hread, hexecRet.trans hret, honly2, hpc2, hsp2, hregs2, hflags2⟩

end Sys2Proof.Machine
end

section
/-! CLAIM. Every instruction and every event answers a next state where a slice stands (R100). -/

namespace Sys2Proof.Machine

/-- Every instruction gathers its operands over a form and then takes its effect. -/
theorem exec_of_hasWord {i : Instr} (h : i.hasWord = true) (s : State) : ∃ f own k, exec i s = runOwn f s own k := by
  cases i <;> cases h <;> exact ⟨_, _, _, rfl⟩

/-- Every event but a fetch trap answers a state, whatever stands where. -/
theorem exec_of_event {i : Instr} (h : i.hasWord = false) (htrap : ∀ w, i ≠ .illegalOp w ∧ i ≠ .wrongSlice w ∧ i ≠ .fetchRange w)
    (s : State) : ∃ t, exec i s = .next t := by
  cases i with
  | illegalOp w => exact absurd rfl (htrap w).1
  | wrongSlice w => exact absurd rfl (htrap w).2.1
  | fetchRange w => exact absurd rfl (htrap w).2.2
  | _ => cases h <;> exact ⟨_, rfl⟩

/-- What an instruction or event can answer: a state, or where no slice stands the fault that says so. -/
def Answers (s : State) (o : Host.Outcome State Fault Refusal) : Prop :=
  (∃ t, o = .next t) ∨ (sliceAt s s.cur = none ∧ o = .fault .noSlice)

theorem answers_runOwn (f : Form) (s : State) (own : Team → Slice → Except Stop Unit) (k : Team → Slice → Vals → State) :
    Answers s (runOwn f s own k) := by
  obtain ⟨hnone, h⟩ | ⟨tm, sl, hat, ⟨st, hg, h⟩ | ⟨v, hg, h⟩⟩ := runOwn_cases f s own k
  · exact .inr ⟨hnone, h⟩
  · exact .inl ⟨_, h⟩
  · exact .inl ⟨_, h⟩

theorem answers_fetchTrap (s : State) (t : Word → TrapInfo) : Answers s (fetchTrap s t) := by
  cases hat : sliceAt s s.cur with
  | none => exact .inr ⟨hat, by rw [fetchTrap, hat]⟩
  | some x => exact .inl ⟨_, fetchTrap_of_sliceAt (tm := x.1) (sl := x.2) hat t⟩

/-- No instruction and no event does anything else: an instruction runs over its form, and an event but for the fetch traps goes on. -/
theorem answers_exec (i : Instr) (s : State) : Answers s (exec i s) := by
  by_cases hword : i.hasWord = true
  · obtain ⟨f, own, k, h⟩ := exec_of_hasWord hword s
    exact h ▸ answers_runOwn f s own k
  · by_cases htrap : ∀ w, i ≠ .illegalOp w ∧ i ≠ .wrongSlice w ∧ i ≠ .fetchRange w
    · exact .inl (exec_of_event (Bool.eq_false_iff.2 hword) htrap s)
    · simp only [not_forall, not_and_or, not_not] at htrap
      obtain ⟨w, rfl | rfl | rfl⟩ := htrap
      · exact (answers_fetchTrap s _ : Answers s (execIllegalOp w s))
      · exact (answers_fetchTrap s _ : Answers s (execWrongSlice w s))
      · exact (answers_fetchTrap s _ : Answers s (execFetchRange w s))

/-- Settles O8: `answers_exec` with a slice and without one, and the events by themselves. -/
theorem neverStops : Obligations.NeverStops := by
  refine ⟨fun i s hat => ?_, fun i s hnone => ?_, fun i s hword htrap => ?_⟩
  · obtain ⟨t, h⟩ | ⟨hnone, h⟩ := answers_exec i s
    · rw [h]; rfl
    · rw [hnone] at hat; cases hat
  · obtain ⟨t, h⟩ | ⟨-, h⟩ := answers_exec i s
    · exact .inl (by rw [h]; rfl)
    · exact .inr h
  · obtain ⟨t, h⟩ := exec_of_event hword htrap s
    rw [h]; rfl

end Sys2Proof.Machine
end

section
/-! CLAIM. A strand that arrives at a collective before the others, and one whose circle is broken (R98, R161, R162). -/

namespace Sys2Proof.Machine

/-! ### A list with its places -/

section
variable {α β : Type} {g : Nat × α → Option β}

/-- No element picked. -/
theorem filterMap_zip_range'_eq_nil {xs : List α} {n : Nat} (h : ∀ j x, xs[j]? = some x → g (n + j, x) = none) :
    ((List.range' n xs.length).zip xs).filterMap g = [] := by
  rw [List.filterMap_eq_nil_iff]
  rintro ⟨m, x⟩ hm
  obtain ⟨j, hj⟩ := List.mem_iff_getElem?.1 hm
  obtain ⟨hrange, hx⟩ := List.getElem?_zip_eq_some.1 hj
  have hplace := List.getElem?_range' (s := n) (step := 1) (List.getElem?_eq_some_iff.1 hx).1
  obtain rfl : n + j = m := by simpa using hplace.symm.trans hrange
  exact h j x hx

/-- One element picked. -/
theorem filterMap_zip_range'_eq_singleton {xs : List α} {n k : Nat} {x : α} {y : β} (hx : xs[k]? = some x) (hy : g (n + k, x) = some y)
    (h : ∀ j z, j ≠ k → xs[j]? = some z → g (n + j, z) = none) : ((List.range' n xs.length).zip xs).filterMap g = [y] := by
  have hshift (j : Nat) : n + 1 + j = n + (j + 1) := Nat.add_right_comm ..
  induction xs generalizing n k with
  | nil => cases hx
  | cons z zs ih =>
    rw [List.length_cons, List.range'_succ, List.zip_cons_cons]
    cases k with
    | zero =>
      obtain rfl : z = x := Option.some.inj hx
      rw [List.filterMap_cons_some (a := (n, z)) hy, filterMap_zip_range'_eq_nil]
      exact fun j w hw => hshift j ▸ h (j + 1) w (Nat.succ_ne_zero j) hw
    | succ k =>
      rw [List.filterMap_cons_none (a := (n, z)) (h 0 z (Nat.succ_ne_zero k).symm rfl)]
      exact ih hx (hshift k ▸ hy) (fun j w hj hw => hshift j ▸ h (j + 1) w (by omega) hw) fun j => Nat.add_right_comm ..

end

/-! ### One strand that arrives at a team where no other has -/

/-- A collective arrives (R161). -/
theorem exec_of_collectiveRule {i : Instr} {r : Form × Bool × (List Member → Nat → Member → DWord × Word)}
    (h : collectiveRule i = some r) (s : State) : ∃ res, exec i s = arrive r.1 r.2.1 s res := by
  cases i with
  | join => cases h; exact ⟨_, show execJoin s = _ from rfl⟩
  | shfl d a b m => cases h; exact ⟨_, show execShfl d a b m s = _ from rfl⟩
  | vote d a m => cases m <;> cases h <;> exact ⟨_, show execVote d a _ s = _ from rfl⟩
  | sift d a => cases h; exact ⟨_, show execSift d a s = _ from rfl⟩
  | credf d a m => cases h; exact ⟨_, show execCredf d a m s = _ from rfl⟩
  | credi d a m => cases h; exact ⟨_, show execCredi d a m s = _ from rfl⟩
  | _ => cases h

/-- A slice's arrival at the instruction at its PC (R161). -/
def arrivalOf (f : Form) (sl : Slice) (v : Vals) : Arrival := ⟨sl.pc, nextPc sl.pc f.len, sl.circle, lowWord v.a, lowWord v.b⟩

/-- A slice that has arrived and waits for the others. -/
def Slice.joining (sl : Slice) (ar : Arrival) : Slice := { sl with arrived := some ar, run := .parked .join, stall := none }

section
variable {tm : Team} {sl : Slice} {k : Nat} {ar : Arrival} (hsl : tm.strands[k]? = some sl) (harr : sl.arrived = some ar)
  (hothers : ∀ j, j ≠ k → ∀ x, tm.strands[j]? = some x → x.arrived = none)
include hsl harr hothers

/-- No arrival of the team breaks a circle where that of its one arrived strand does not. -/
theorem brokenArrivals_eq_nil (h : ∀ j ∈ membersOf k ar, breaksCircle tm ar j = false) :
    tm.indexed.filterMap (brokenArrival tm) = [] := by
  rw [Team.indexed, List.range_eq_range']
  refine filterMap_zip_range'_eq_nil fun j x hx => ?_
  rw [Nat.zero_add]
  by_cases hj : j = k
  · obtain rfl : sl = x := Option.some.inj (hsl.symm.trans (hj ▸ hx))
    simpa [brokenArrival, harr, hj] using h
  · simp [brokenArrival, hothers j hj x hx]

/-- The one arrived strand of a team is the one that traps where its circle is broken. -/
theorem brokenArrivals_eq_singleton (h : ∃ j ∈ membersOf k ar, breaksCircle tm ar j = true) :
    tm.indexed.filterMap (brokenArrival tm) = [(k, ar)] := by
  rw [Team.indexed, List.range_eq_range']
  refine filterMap_zip_range'_eq_singleton hsl ?_ fun j x hj hx => ?_
  · simpa [brokenArrival, harr] using h
  · simp [brokenArrival, hothers _ hj x hx]

end

/-- A strand that has not arrived is at no rendezvous, whatever another strand of its team does. -/
theorem arrivedAt_modSlice_of_not_arrived {tm : Team} {j k : Nat} (hj : j ≠ k) (h : ∀ x, tm.strands[j]? = some x → x.arrived = none)
    (g : Slice → Slice) (ar : Arrival) : arrivedAt (tm.modSlice (some k) g) ar j = false := by
  have hsame : (tm.modSlice (some k) g).strands[j]? = tm.strands[j]? := by
    unfold Team.modSlice
    split
    · rfl
    · exact Team.slice_putSlice_ne tm (w := some k) (w' := some j) (by simpa using hj) _
  rw [arrivedAt, hsame]
  cases hx : tm.strands[j]? with
  | none => rfl
  | some x => simp [h x hx]

section
variable {f : Form} {stored : Bool} {s : State} {tm : Team} {sl : Slice} {v : Vals} {k : Nat} (hk : s.cur.strand = some k)
  (hg : Gathers s f (.ok ()) tm sl v) (hothers : ∀ j, j ≠ k → ∀ x, tm.strands[j]? = some x → x.arrived = none)
  (hother : ∃ j ∈ circleOf sl.circle k, j ≠ k) (res : List Member → Nat → Member → DWord × Word)
include hk hg hothers hother

/-- A strand that arrives before another that its mask names goes no further than the traps of its arrival (R161, R162). -/
theorem arrive_of_other_not_arrived :
    arrive f stored s res = .next (circleTraps (putSlice s s.cur tm (sl.joining (arrivalOf f sl v))) (teamIdOf s.cur)) := by
  obtain ⟨j, hj, hjk⟩ := hother
  have hrun := run_of_gathers hg
  refine (hrun _).trans (congrArg Host.Outcome.next ?_)
  dsimp only
  rw [modSlice_of_sliceAt hg.1, hk]
  exact if_neg fun hall =>
    Bool.false_ne_true ((arrivedAt_modSlice_of_not_arrived hjk (hothers j hjk) ..).symm.trans (List.all_eq_true.1 hall j hj))

omit hothers hother
/-- The team in which it has arrived: it has, and every other strand is as before. -/
theorem exists_arrived_team : ∃ tm', teamAt (putSlice s s.cur tm (sl.joining (arrivalOf f sl v))) (teamIdOf s.cur) = some tm' ∧
    tm'.strands[k]? = some (sl.joining (arrivalOf f sl v)) ∧ ∀ j, j ≠ k → tm'.strands[j]? = tm.strands[j]? := by
  have hslice := hk ▸ (teamAt_of_sliceAt hg.1).2
  refine ⟨tm.putSlice (some k) (sl.joining (arrivalOf f sl v)), by rw [putSlice, teamAt_putTeam_self, hk],
    Team.slice_putSlice_self hslice _, fun j hj => ?_⟩
  exact Team.slice_putSlice_ne tm (w := some k) (w' := some j) (by simpa using hj) _

end

/-- A live strand that has arrived nowhere else breaks no circle (R162). -/
theorem breaksCircle_eq_false {tm : Team} {j : Nat} {x : Slice} {ar : Arrival} (hx : tm.strands[j]? = some x) (hlive : x.run ≠ .exited)
    (harr : x.arrived = none ∨ x.arrived = some ar) : breaksCircle tm ar j = false := by
  have hrun : x.live = true := bne_iff_ne.2 hlive
  rw [breaksCircle, hx]
  rcases harr with h | h <;> simp [hrun, h]

/-- A strand that has ended, or does not exist, breaks a circle (R162). -/
theorem breaksCircle_of_ended {tm : Team} {j : Nat} {ar : Arrival} (h : ∀ x, tm.strands[j]? = some x → x.run = .exited) :
    breaksCircle tm ar j = true := by
  rw [breaksCircle]
  cases hx : tm.strands[j]? with
  | none => rfl
  | some x => simp [Slice.live, h x hx]

/-- No trap where no arrival is broken. -/
theorem circleTraps_of_none {s : State} {t : TeamId} {tm : Team} (ht : teamAt s t = some tm)
    (h : tm.indexed.filterMap (brokenArrival tm) = []) : circleTraps s t = s := by
  rw [circleTraps, ht]; simp only [h, List.foldl_nil]

/-- One trap where one arrival is broken. -/
theorem circleTraps_of_one {s : State} {t : TeamId} {tm : Team} (ht : teamAt s t = some tm) {k : Nat} {ar : Arrival}
    (h : tm.indexed.filterMap (brokenArrival tm) = [(k, ar)]) :
    circleTraps s t = trapSlice s ⟨t.core, t.slot, some k⟩ { cause := .circleMask, next := ar.next } := by
  rw [circleTraps, ht]; simp only [h, List.foldl_cons, List.foldl_nil]

/-- Settles O37: the strand's own arrival is the only one of the team, so its circle alone decides between waiting and the trap. -/
theorem arrivalsWaitOrBreak : Obligations.ArrivalsWaitOrBreak := by
  intro i f stored res s tm sl v k hrule hk hg hothers
  obtain ⟨res', hexec⟩ := exec_of_collectiveRule hrule s
  obtain ⟨tm', hteam, hself, hrest⟩ := exists_arrived_team hk hg
  have hothers' : ∀ j, j ≠ k → ∀ x, tm'.strands[j]? = some x → x.arrived = none := fun j hj x hx => hothers j hj x (hrest j hj ▸ hx)
  rw [hexec]
  constructor
  · intro hother hlive
    have hnone : ∀ j ∈ membersOf k (arrivalOf f sl v), breaksCircle tm' (arrivalOf f sl v) j = false := by
      intro j hj
      obtain ⟨x, hx, hrun⟩ := hlive j hj
      by_cases hjk : j = k
      · subst hjk
        exact breaksCircle_eq_false hself Run.noConfusion (.inr rfl)
      · exact breaksCircle_eq_false (hrest j hjk ▸ hx) hrun (.inl (hothers j hjk x hx))
    rw [arrive_of_other_not_arrived hk hg hothers hother res',
      circleTraps_of_none hteam (brokenArrivals_eq_nil hself rfl hothers' hnone)]
    exact ⟨_, rfl, onlySlice_putSlice hg.1 _⟩
  · rintro ⟨j, hj, hjk, hended⟩
    have hbroken : breaksCircle tm' (arrivalOf f sl v) j = true :=
      breaksCircle_of_ended fun x hx => hended x (hrest j hjk ▸ hx)
    rw [arrive_of_other_not_arrived hk hg hothers ⟨j, hj, hjk⟩ res',
      circleTraps_of_one hteam (brokenArrivals_eq_singleton hself rfl hothers' ⟨j, hj, hbroken⟩)]
    have hid : (⟨(teamIdOf s.cur).core, (teamIdOf s.cur).slot, some k⟩ : SliceId) = s.cur := by rw [← hk]; rfl
    rw [hid, trapSlice_putSlice hg.1]
    exact ⟨_, _, _, rfl, onlySlice_putSlice hg.1 _, rfl, rfl, rfl, rfl, rfl, rfl, rfl, rfl⟩

end Sys2Proof.Machine
end

section
/-! CLAIM. EXIT where the table of cores holds a core twice: the end of the team wakes the strand that left (R240, R280). -/

namespace Sys2Proof.Machine

/-- A core whose team's strand 0 waits in BARW on barrier 0 of its own team, phase 0. -/
def barwCore (k : Core) : Core :=
  { k with active := { k.active with teams := k.active.teams.map fun t =>
      (t.1, t.2.modSlice (some 0) fun sl => { sl with run := .parked (.barrier 0 0 0), waits := some (.barrier 0 0 0) }) } }

/-- One team of one strand on core 0, with a second entry of core 0 behind the first, in which the strand waits in BARW, and with the team's
end already noted in its gang. -/
def twiceCore : State :=
  let s := placeProgram State.reset false []
  { s with cores := s.cores ++ [(0, barwCore (core s 0))], gangs := s.gangs.map fun g => { g with ended := [0] } }

/-- Strand 0 stands there, and no access is in flight. -/
theorem sliceAt_twiceCore : (sliceAt twiceCore twiceCore.cur).isSome = true ∧ twiceCore.inflight = [] := by decide +kernel

/-- A state reached in which the slice to issue is RUNNABLE. -/
def goesOnRunnable (s : State) (o : Host.Outcome State Fault Refusal) : Bool :=
  match o with
  | .next t => (sliceAt t s.cur).any fun p => p.2.run == .runnable
  | _ => false

/-- Its exit leaves it RUNNABLE: the waiter in the second entry has its place, and is met by the end of the team. -/
theorem exit_twiceCore : goesOnRunnable twiceCore (exec .exit twiceCore) = true := by decide +kernel

/-- Refutes O34: nothing in the statement keeps the table of cores from holding core 0 twice. The waiters on the barriers of an ended team are
enumerated over every entry, and looked up by their place in the first: strand 0, which has just exited, is taken for the waiter and
made RUNNABLE again. -/
theorem not_exitEndsTheSlice : ¬ Obligations.ExitEndsTheSlice := by
  intro h
  obtain ⟨hsome, hflight⟩ := sliceAt_twiceCore
  obtain ⟨⟨tm, sl⟩, hat⟩ := Option.isSome_iff_exists.1 hsome
  obtain ⟨t, tm', sl', hexec, hat', hrun, -⟩ := (h .exit twiceCore tm sl _ (.inl rfl) (gathers_form0 hat _)).2 (by simp [hflight])
  have hrunnable := exit_twiceCore
  rw [hexec, goesOnRunnable, hat', Option.any_some, hrun] at hrunnable
  exact absurd hrunnable (by decide)

end Sys2Proof.Machine
end

section
/-! SUPPORT. A team or slice found by its name after it has been replaced. -/

namespace Sys2Proof.Machine

theorem Team.is_iff {tm : Team} {l g n : Nat} : tm.is l g n = true ↔ tm.launch = l ∧ tm.gang = g ∧ tm.gteam = n := by
  simp [Team.is, and_assoc]

/-- A team found in a bank is the one named, and stands in its slot. -/
theorem bankTeam_eq_some {b : Option Bank} {slot l g n : Nat} {tm : Team} :
    bankTeam b slot l g n = some tm ↔ (∃ k, b = some k ∧ Table.get k.teams slot = some tm) ∧ tm.is l g n = true := by
  cases b with
  | none => simp [bankTeam]
  | some k => simp [bankTeam, Option.filter_eq_some_iff]

/-- A bank with a team replaced by one of the same name. -/
theorem bankTeam_putTeam {b : Option Bank} {slot l g n : Nat} {tm tm' : Team} (h : bankTeam b slot l g n = some tm)
    (his : tm'.is l g n = true) : bankTeam (b.map fun k => k.putTeam slot tm') slot l g n = some tm' := by
  obtain ⟨⟨k, rfl, -⟩, -⟩ := bankTeam_eq_some.1 h
  exact bankTeam_eq_some.2 ⟨⟨_, rfl, Table.get_put_self ..⟩, his⟩

/-- The team that a core's banks hold in a slot. -/
def Core.findTeam (k : Core) (t : TeamId) (l g n : Nat) : Option (TeamPlace × Team) :=
  match bankTeam (some k.active) t.slot l g n with
  | some tm => some (.active t, tm)
  | none =>
    match bankTeam k.outgoing t.slot l g n with
    | some tm => some (.outgoing t, tm)
    | none => (bankTeam k.shadow t.slot l g n).map fun tm => (.shadow t, tm)

/-- A team in the save pool is found there. -/
theorem findTeam_of_saved {s : State} {l g n : Nat} {gang : Gang} {v : SavedTeam} (hgang : gangOf s l g = some gang)
    (hsaved : (gang.saved.find? fun v => v.team.is l g n) = some v) : findTeam s l g n = some (.saved, v.team) := by
  rw [Machine.findTeam, hgang]
  simp only [hsaved]

/-- A team that is not saved is found where its gang has been placed. -/
theorem findTeam_of_not_saved {s : State} {l g n : Nat} {gang : Gang} (hgang : gangOf s l g = some gang)
    (hsaved : (gang.saved.find? fun v => v.team.is l g n) = none) :
    findTeam s l g n = (gang.place[n]?).bind fun t => (core s t.core).findTeam t l g n := by
  rw [Machine.findTeam, hgang]
  simp only [hsaved]
  cases gang.place[n]? <;> rfl

section
variable {k : Core} {t : TeamId} {l g n : Nat} {tm : Team}

theorem Core.findTeam_of_active (h : bankTeam (some k.active) t.slot l g n = some tm) : k.findTeam t l g n = some (.active t, tm) := by
  rw [Core.findTeam, h]

theorem Core.findTeam_of_outgoing (hactive : bankTeam (some k.active) t.slot l g n = none)
    (h : bankTeam k.outgoing t.slot l g n = some tm) : k.findTeam t l g n = some (.outgoing t, tm) := by
  rw [Core.findTeam, hactive, h]

theorem Core.findTeam_of_shadow (hactive : bankTeam (some k.active) t.slot l g n = none)
    (hout : bankTeam k.outgoing t.slot l g n = none) (h : bankTeam k.shadow t.slot l g n = some tm) :
    k.findTeam t l g n = some (.shadow t, tm) := by
  rw [Core.findTeam, hactive, hout, h, Option.map_some]

end

/-- A team found in a core's banks has the name. -/
theorem Core.findTeam_is {k : Core} {t : TeamId} {l g n : Nat} {p : TeamPlace} {tm : Team} (h : k.findTeam t l g n = some (p, tm)) :
    tm.is l g n = true := by
  unfold Core.findTeam at h
  split at h
  · cases h
    exact (bankTeam_eq_some.1 ‹_›).2
  · split at h
    · cases h
      exact (bankTeam_eq_some.1 ‹_›).2
    · obtain ⟨tm₀, hshadow, hp⟩ := Option.map_eq_some_iff.1 h
      cases hp
      exact (bankTeam_eq_some.1 hshadow).2

/-- A team found in a core's banks and replaced by one of the same name is found there. -/
theorem Core.findTeam_putTeamAt {s : State} {t : TeamId} {l g n : Nat} {p : TeamPlace} {tm tm' : Team}
    (h : (core s t.core).findTeam t l g n = some (p, tm)) (his : tm'.is l g n = true) :
    (core (putTeamAt s p tm') t.core).findTeam t l g n = some (p, tm') ∧ (putTeamAt s p tm').gangs = s.gangs := by
  have hcore (f : Core → Core) : core (modCore s t.core f) t.core = f (core s t.core) := by rw [core_modCore, if_pos rfl]
  cases hactive : bankTeam (some (core s t.core).active) t.slot l g n with
  | some tm₀ =>
    cases h.symm.trans (Core.findTeam_of_active hactive)
    refine ⟨Core.findTeam_of_active ?_, rfl⟩
    rw [putTeamAt, putTeam, hcore]
    exact bankTeam_putTeam hactive his
  | none =>
    cases hout : bankTeam (core s t.core).outgoing t.slot l g n with
    | some tm₀ =>
      cases h.symm.trans (Core.findTeam_of_outgoing hactive hout)
      refine ⟨Core.findTeam_of_outgoing ?_ ?_, rfl⟩ <;> rw [putTeamAt, hcore]
      · exact hactive
      · exact bankTeam_putTeam hout his
    | none =>
      cases hshadow : bankTeam (core s t.core).shadow t.slot l g n with
      | some tm₀ =>
        cases h.symm.trans (Core.findTeam_of_shadow hactive hout hshadow)
        refine ⟨Core.findTeam_of_shadow ?_ ?_ ?_, rfl⟩ <;> rw [putTeamAt, hcore]
        · exact hactive
        · exact hout
        · exact bankTeam_putTeam hshadow his
      | none => simp [Core.findTeam, hactive, hout, hshadow] at h

/-- The first of a list that a test picks, when all that it picks are replaced by what it picks. -/
theorem find?_map_replace {α : Type} {p : α → Bool} {f : α → α} (hf : ∀ x, p x = true → p (f x) = true) {xs : List α} {x : α}
    (h : xs.find? p = some x) : (xs.map fun y => if p y then f y else y).find? p = some (f x) := by
  have hpred : (p ∘ fun y => if p y then f y else y) = p := by
    funext y
    cases hy : p y <;> simp [hy, hf]
  rw [List.find?_map, hpred, h]
  simp [List.find?_some h]

/-- A team found by its name has it. -/
theorem findTeam_is {s : State} {l g n : Nat} {p : TeamPlace} {tm : Team} (h : Machine.findTeam s l g n = some (p, tm)) : tm.is l g n = true := by
  cases hgang : gangOf s l g with
  | none => rw [Machine.findTeam, hgang] at h; cases h
  | some gang =>
    cases hsaved : gang.saved.find? fun v => v.team.is l g n with
    | some v =>
      cases h.symm.trans (findTeam_of_saved hgang hsaved)
      exact List.find?_some (p := fun v : SavedTeam => v.team.is l g n) hsaved
    | none =>
      rw [findTeam_of_not_saved hgang hsaved] at h
      obtain ⟨t, -, ht⟩ := Option.bind_eq_some_iff.1 h
      exact Core.findTeam_is ht

/-- A team found by its name and replaced by one of the same name is found there. -/
theorem findTeam_putTeamAt {s : State} {l g n : Nat} {p : TeamPlace} {tm tm' : Team} (h : Machine.findTeam s l g n = some (p, tm))
    (his : tm'.is l g n = true) : Machine.findTeam (putTeamAt s p tm') l g n = some (p, tm') := by
  cases hgang : gangOf s l g with
  | none => rw [Machine.findTeam, hgang] at h; cases h
  | some gang =>
    cases hsaved : gang.saved.find? fun v => v.team.is l g n with
    | some v =>
      cases h.symm.trans (findTeam_of_saved hgang hsaved)
      obtain ⟨rfl, rfl, rfl⟩ := Team.is_iff.1 his
      have hgang' : gangOf (putTeamAt s .saved tm') tm'.launch tm'.gang = _ :=
        gangOf_modGang_self hgang (fun _ => rfl) (fun _ => rfl)
      exact findTeam_of_saved hgang' (find?_map_replace (f := fun v : SavedTeam => { v with team := tm' }) (fun _ _ => his) hsaved)
    | none =>
      rw [findTeam_of_not_saved hgang hsaved] at h
      obtain ⟨t, hplace, ht⟩ := Option.bind_eq_some_iff.1 h
      obtain ⟨hfound, hgangs⟩ := Core.findTeam_putTeamAt ht his
      have hgang' : gangOf (putTeamAt s p tm') l g = some gang := by rw [gangOf, hgangs]; exact hgang
      rw [findTeam_of_not_saved hgang' hsaved, hplace]
      exact hfound

/-- A named slice changed is the changed one. -/
theorem namedSlice_modNamedSlice {s : State} {w : SliceName} {tm : Team} {sl : Slice} (h : namedSlice s w = some (tm, sl))
    (f : Slice → Slice) : namedSlice (modNamedSlice s w f) w = some (tm.putSlice w.strand (f sl), f sl) := by
  obtain ⟨p, tm₀, hteam, hslice⟩ : ∃ p tm₀, Machine.findTeam s w.launch w.gang w.gteam = some (p, tm₀) ∧
      (tm₀.slice w.strand).map (fun sl => (tm₀, sl)) = some (tm, sl) := by
    rw [namedSlice] at h
    split at h
    · cases h
    · exact ⟨_, _, ‹_›, h⟩
  obtain ⟨sl', hsl, hpair⟩ := Option.map_eq_some_iff.1 hslice
  cases hpair
  have his : (tm.putSlice w.strand (f sl)).is w.launch w.gang w.gteam = true := by
    rw [Team.is_iff, Team.putSlice_launch, Team.putSlice_gang, Team.putSlice_gteam, ← Team.is_iff]
    exact findTeam_is hteam
  rw [namedSlice, modNamedSlice, modNamed, hteam]
  simp only [Team.modSlice, hsl]
  rw [findTeam_putTeamAt hteam his]
  simp only [Team.slice_putSlice_self hsl, Option.map_some]

end Sys2Proof.Machine
end

section
/-! CLAIM. Accesses of main memory performed at their lines (R174, R293, R294, R359). -/

namespace Sys2Proof.Machine

/-! ### Accesses in flight by their number -/

theorem accessOf_number {s : State} {n : Nat} {a : Access} (h : accessOf s n = some a) : a.n = n := by
  simpa using List.find?_some h

theorem accessOf_dropAccess_self (s : State) (n : Nat) : accessOf (dropAccess s n) n = none := by
  simp [accessOf, dropAccess]

/-- A change that keeps an access's number is found there. -/
theorem accessOf_modAccess {s : State} {n : Nat} {a : Access} (h : accessOf s n = some a) {f : Access → Access} (hf : ∀ x, (f x).n = x.n) :
    accessOf (modAccess s n f) n = some (f a) := by
  have hpred : ((fun a : Access => a.n == n) ∘ fun a => if a.n == n then f a else a) = fun a => a.n == n := by
    funext x
    simp only [Function.comp]
    split <;> simp [hf]
  rw [accessOf, modAccess, List.find?_map, hpred, ← accessOf, h]
  simp [accessOf_number h]

theorem Kept.accessOf {s t : State} (h : Kept s t) (n : Nat) : accessOf t n = accessOf s n := by
  rw [Machine.accessOf, h.inflight, Machine.accessOf]

/-- The time of an access is noted of its launch (R365). -/
theorem kept_noteAccess (s : State) (a : Access) : Kept s (noteAccess s a) := by
  unfold noteAccess
  split
  · exact Kept.modLaunch ..
  · exact Kept.refl _

theorem noteAccess_leaves (s : State) (a : Access) : (noteAccess s a).lines = s.lines ∧ (noteAccess s a).waiters = s.waiters := by
  unfold noteAccess
  split <;> exact ⟨rfl, rfl⟩

/-! ### The home slice of a line -/

/-- A state that differs in main memory and its keys alone. -/
def Rekeyed (s t : State) : Prop := ∃ m k, t = { s with mem := m, sectorKeys := k }

theorem Rekeyed.trans {s t u : State} (h : Rekeyed s t) (h' : Rekeyed t u) : Rekeyed s u := by
  obtain ⟨m, k, rfl⟩ := h
  obtain ⟨m', k', rfl⟩ := h'
  exact ⟨m', k', rfl⟩

theorem rekeyed_rekeySector (s : State) (id sec : Nat) : Rekeyed s (rekeySector s id sec) := by
  unfold rekeySector
  split
  · exact ⟨s.mem, _, rfl⟩
  · split
    · exact ⟨s.mem, s.sectorKeys, rfl⟩
    · exact ⟨_, _, rfl⟩

/-- Writing under a key changes main memory and its keys alone (R177). -/
theorem rekeyed_writeKeyed (s : State) (key pa : Nat) (bs : List Byte) : Rekeyed s (writeKeyed s key pa bs) := by
  have hfold (xs : List Nat) (u : State) : Rekeyed u (xs.foldl (fun u i => rekeySector u (keyId u key) (pa / 32 + i)) u) := by
    induction xs generalizing u with
    | nil => exact ⟨u.mem, u.sectorKeys, rfl⟩
    | cons i xs ih => exact (rekeyed_rekeySector ..).trans (ih _)
  obtain ⟨m, k, hm⟩ := hfold (List.range ((pa + bs.length + 31) / 32 - pa / 32)) s
  rw [writeKeyed, hm]
  exact ⟨_, k, rfl⟩

theorem byteUnder_atomicWorlds (s : State) (w : Table Nat) (reader pa : Nat) :
    byteUnder { s with atomicWorlds := w } reader pa = byteUnder s reader pa := rfl

theorem rekeySector_atomicWorlds (s : State) (w : Table Nat) (id sec : Nat) :
    rekeySector { s with atomicWorlds := w } id sec = { rekeySector s id sec with atomicWorlds := w } := by
  simp only [rekeySector, byteUnder_atomicWorlds]
  cases Table.get s.sectorKeys sec with
  | none => rfl
  | some k =>
    dsimp only
    by_cases h : k = id
    · rw [if_pos h, if_pos h]
    · rw [if_neg h, if_neg h]

/-- What a write under a key leaves. -/
theorem Rekeyed.leaves {s t : State} (h : Rekeyed s t) : t.lines = s.lines ∧ t.waiters = s.waiters ∧ t.hostMem = s.hostMem ∧
    t.inflight = s.inflight ∧ (∀ c, core t c = core s c) ∧ ∀ line, lineAt t line = lineAt s line := by
  obtain ⟨m, k, rfl⟩ := h
  exact ⟨rfl, rfl, rfl, rfl, fun _ => rfl, fun _ => rfl⟩

/-- What a store writes does not depend on who made the last atomic (R383). -/
theorem writeKeyed_atomicWorlds (s : State) (w : Table Nat) (key pa : Nat) (bs : List Byte) :
    writeKeyed { s with atomicWorlds := w } key pa bs = { writeKeyed s key pa bs with atomicWorlds := w } := by
  let take (u : State) (i : Nat) : State := rekeySector u (keyId u key) (pa / 32 + i)
  have hfold := List.foldl_hom (fun u : State => { u with atomicWorlds := w }) (g₁ := take) (g₂ := take) (init := s)
    (l := List.range ((pa + bs.length + 31) / 32 - pa / 32)) fun u i => rekeySector_atomicWorlds u w (keyId u key) (pa / 32 + i)
  exact congrArg (fun u : State => { u with mem := Memory.writeBytes u.mem pa bs }) hfold

/-- A line that is present, or has room, takes its place without another leaving (R293). -/
theorem makeRoom_eq_self {s : State} {line : Nat}
    (h : (Table.get s.lines line).isSome = true ∨ (s.lines.filter fun p => homeSlice p.1 == homeSlice line).length < 2048) :
    makeRoom s line = s := by
  rw [makeRoom]
  split
  · rfl
  · exact if_pos (h.resolve_left ‹_›)

/-- A store at the home slice: its timestamp, and no waiter left on its line (R293, R359). -/
theorem stampStore_of_room {s : State} {line : Nat} (c : Nat)
    (hroom : (Table.get s.lines line).isSome = true ∨ (s.lines.filter fun p => homeSlice p.1 == homeSlice line).length < 2048) :
    let l := lineAt s line
    let ts := laterOf (core s c).ct (l.rts + 1)
    stampStore s (.core c) line [] = setCt { putLine s line ⟨ts, ts, true, l.poisoned⟩ with waiters := s.waiters.filter fun w => w.1 != line }
      c (laterOf (core s c).ct ts) := by
  simp [stampStore, makeRoom_eq_self hroom, partyTime, setParty]

/-- An access that has been performed with what it read, and is noted. -/
theorem accessOf_noteAccess_performed {s : State} {n : Nat} {a : Access} (h : accessOf s n = some a) (bs : List Byte) :
    accessOf (noteAccess (performed s n bs) a) n = some { a with performed := true, result := bs } :=
  ((kept_noteAccess ..).accessOf n).trans (accessOf_modAccess h fun _ => rfl)

section
variable {s : State} {n : Nat} {a : Access} {pa key : Nat} {cache : Bool} (hacc : accessOf s n = some a) (hplace : a.place = .main pa key cache)
  (hmay : mayPerform s a = true) (hserves : lineStatus s (pa / 128) false = .serves)
include hacc hplace hmay hserves

/-- HOME_STORE of the next store (R293). -/
theorem exec_homeStore (hkind : a.kind = .store) : exec (.homeStore n) s = .next (noteAccess (dropAccess
    (stampStore (writeKeyed s key pa a.bytes) (.core a.core) (pa / 128) []) n) a) := by
  have hrule : exec (.homeStore n) s = execHomeStore n s := rfl
  rw [hrule, execHomeStore, hacc]
  simp [hkind, hplace, Place.scope, performStore, hmay, placeServes, hserves, storePlace, writePlace, touchPlace, accessOf_number hacc]

/-- It writes its bytes and its timestamp, and ends (R293, R359). -/
theorem homeStore_performs (hkind : a.kind = .store)
    (hroom : (Table.get s.lines (pa / 128)).isSome = true ∨ (s.lines.filter fun p => homeSlice p.1 == homeSlice (pa / 128)).length < 2048) :
    let l := lineAt s (pa / 128)
    let ts := laterOf (core s a.core).ct (l.rts + 1)
    ∃ t, exec (.homeStore n) s = .next t ∧ t.mem = (writeKeyed s key pa a.bytes).mem ∧ accessOf t n = none ∧
      Table.get t.lines (pa / 128) = some ⟨ts, ts, true, l.poisoned⟩ ∧ (∀ w ∈ t.waiters, w.1 ≠ pa / 128) ∧ t.hostMem = s.hostMem := by
  obtain ⟨hlines, hwaiters, hhost, -, hcore, hline⟩ := (rekeyed_writeKeyed s key pa a.bytes).leaves
  have hstamp := stampStore_of_room a.core (hlines ▸ hroom)
  rw [hcore, hline, hwaiters] at hstamp
  have hkept := Kept.stampStore (writeKeyed s key pa a.bytes) (.core a.core) (pa / 128) []
  refine ⟨_, exec_homeStore hacc hplace hmay hserves hkind, ?_⟩
  generalize stampStore .. = u at *
  obtain ⟨hl, hw⟩ := noteAccess_leaves (dropAccess u n) a
  have hnote := kept_noteAccess (dropAccess u n) a
  refine ⟨hnote.mem.trans hkept.mem, ?_, ?_, ?_, hnote.hostMem.trans (hkept.hostMem.trans hhost)⟩
  · rw [hnote.accessOf, accessOf_dropAccess_self]
  · rw [hl, dropAccess_lines, hstamp, setCt_lines]
    exact Table.get_put_self ..
  · rw [hw, dropAccess_waiters, hstamp, setCt_waiters]
    simp

/-- HOME_ATOMIC of the next atomic (R174, R294). -/
theorem exec_homeAtomic {op : AtomicOp} {x c : DWord} (hkind : a.kind = .atomic op x c) :
    exec (.homeAtomic n) s = .next (noteAccess (performed
      (stampStore (writeKeyed { s with atomicWorlds := Table.put s.atomicWorlds (homeSlice (pa / 128)) a.world } key pa
        ((bytesOfDWord (atomicValue op a.size (dwordOfBytes (readKeyed s key pa a.size)) x c)).take a.size)) (.core a.core) (pa / 128) [])
      n (readKeyed s key pa a.size)) a) := by
  have hrule : exec (.homeAtomic n) s = execHomeAtomic n s := rfl
  rw [hrule, execHomeAtomic, hacc]
  simp [hkind, hplace, Place.scope, performAtomic, hmay, placeServes, hserves, writePlace, touchPlace, accessOf_number hacc]

/-- It writes its result and keeps the old value (R174, R294). -/
theorem homeAtomic_performs {op : AtomicOp} {x c : DWord} (hkind : a.kind = .atomic op x c) (hsize : a.size ≤ 8) :
    let old := readKeyed s key pa a.size
    ∃ t a', exec (.homeAtomic n) s = .next t ∧ accessOf t n = some a' ∧ a'.performed = true ∧ a'.result = old ∧ a'.sink = a.sink ∧
      t.mem = (writeKeyed s key pa (lowBytes a.size (atomicValue op a.size (dwordOfBytes old) x c))).mem ∧ t.hostMem = s.hostMem := by
  intro old
  rw [lowBytes_eq_take hsize]
  refine ⟨_, { a with performed := true, result := old }, exec_homeAtomic hacc hplace hmay hserves hkind, ?_⟩
  generalize (bytesOfDWord _).take a.size = bs
  rw [writeKeyed_atomicWorlds]
  obtain ⟨-, -, hhost, hflight, -⟩ := (rekeyed_writeKeyed s key pa bs).leaves
  have hkept := Kept.stampStore { writeKeyed s key pa bs with atomicWorlds := Table.put s.atomicWorlds (homeSlice (pa / 128)) a.world }
    (.core a.core) (pa / 128) []
  have hu := (hkept.accessOf n).trans (show accessOf _ n = some a by rw [accessOf, hflight]; exact hacc)
  generalize stampStore .. = u at *
  have hnote := kept_noteAccess (performed u n (readKeyed s key pa a.size)) a
  exact ⟨accessOf_noteAccess_performed hu _, rfl, rfl, rfl, hnote.mem.trans hkept.mem, hnote.hostMem.trans (hkept.hostMem.trans hhost)⟩

/-- LEASE_RENEWAL of the next load that keeps no copy (R359). -/
theorem exec_leaseRenewal (hkind : a.kind = .load) (hcache : cache = false) :
    exec (.leaseRenewal n) s = .next (noteAccess (performed (renewLine s (.core a.core) (pa / 128)).1 n (readKeyed s key pa a.size)) a) := by
  have hrule : exec (.leaseRenewal n) s = execLeaseRenewal n s := rfl
  have hread : performLoad s a = noteAccess (performed (renewLine s (.core a.core) (pa / 128)).1 n (readKeyed s key pa a.size)) a := by
    simp [performLoad, hmay, readPlace, hplace, hserves, readMain, hcache, touchPlace, accessOf_number hacc]
  have hload : a.isLoad = true := by simp [Access.isLoad, hkind]
  have hscope : a.place.scope = .package := by rw [hplace]; rfl
  have hthen := accessOf_noteAccess_performed (((Kept.renewLine s (.core a.core) (pa / 128)).accessOf n).trans hacc) (readKeyed s key pa a.size)
  rw [hrule, execLeaseRenewal, hacc]
  simp [hload, hscope, hread, hthen, hkind, AccessKind.watches]

/-- It reads the bytes of its place (R359). -/
theorem leaseRenewal_performs (hkind : a.kind = .load) (hcache : cache = false) :
    ∃ t a', exec (.leaseRenewal n) s = .next t ∧ accessOf t n = some a' ∧ a'.performed = true ∧
      a'.result = readKeyed s key pa a.size ∧ t.mem = s.mem ∧ t.hostMem = s.hostMem := by
  have hkept := Kept.renewLine s (.core a.core) (pa / 128)
  refine ⟨_, { a with performed := true, result := readKeyed s key pa a.size }, exec_leaseRenewal hacc hplace hmay hserves hkind hcache,
    accessOf_noteAccess_performed ((hkept.accessOf n).trans hacc) _, rfl, rfl, ?_⟩
  exact ⟨(kept_noteAccess ..).mem.trans hkept.mem, (kept_noteAccess ..).hostMem.trans hkept.hostMem⟩

end

end Sys2Proof.Machine
end

section
/-! CLAIM. What accesses in flight bring to their slices: loads handed over, parked strands woken, words read again (R98, R176, R285). -/

namespace Sys2Proof.Machine

/-- LOAD_COMPLETE of a performed load that its slice does not wait for (R176). -/
theorem exec_loadComplete {s : State} {n : Nat} {a : Access} {tm : Team} {sl : Slice} {r : Nat} (reply : List Byte)
    (hacc : accessOf s n = some a) (hkind : a.kind = .load) (hdone : a.performed = true) (hscope : a.place.scope ≠ .fabric)
    (hsink : a.sink = .reg r) (hnamed : namedSlice s a.who = some (tm, sl)) (hawait : sl.await ≠ some n) :
    exec (.loadComplete n reply) s = .next (modNamedSlice (dropAccess s n) a.who fun x =>
      { x with regs := x.regs.set r (lowWord (dwordOfBytes a.result)) }) := by
  have hrule : exec (.loadComplete n reply) s = execLoadComplete n reply s := rfl
  obtain rfl := accessOf_number hacc
  have hreturns : a.returns = true := by simp [Access.returns, hkind]
  have hover : handOver s a = deliverSink (dropAccess s a.n) a.who a.pc a.sink (dwordOfBytes a.result) := by
    have hcopy : awaits (deliverSink (dropAccess s a.n) a.who a.pc a.sink (dwordOfBytes a.result)) a = false := by
      have hnamed' : namedSlice (dropAccess s a.n) a.who = some (tm, sl) := hnamed
      rw [hsink, deliverSink, awaits, namedSlice_modNamedSlice hnamed']
      simpa using hawait
    simp [handOver, hkind, AccessKind.awaited, hcopy]
  rw [hrule, execLoadComplete, hacc]
  simp [hreturns, hkind, hscope, hdone, hacc, hover, deliverSink, hsink, Slice.setReg]

/-- WAKE of a parked strand (R98). -/
theorem exec_wake {s : State} {id : SliceId} {tm : Team} {sl : Slice} {w : WaitFor} (hat : sliceAt s id = some (tm, sl))
    (hmove : mayMove s id = true) (hrun : sl.run = .parked w) (hjoin : w ≠ .join) :
    exec (.wake id) s = .next (if waitOver s id tm sl w then putSlice s id tm { sl with run := .runnable, stall := none, ready := s.clock } else s) := by
  have hrule : exec (.wake id) s = execWake id s := rfl
  rw [hrule, execWake, hat]
  simp only [hmove, hrun, makeRunnable, modSlice_of_sliceAt hat]
  cases w with
  | join => exact absurd rfl hjoin
  | _ => rfl

/-! ### WAITA_WAKE (R285) -/

section
variable {s : State} {id : SliceId} {tm : Team} {sl : Slice} {x : Watched} {pa key : Nat} {cache : Bool}
  (hat : sliceAt s id = some (tm, sl)) (hwatched : sl.watched = some x) (hmove : mayMove s id = true) (hstale : x.stale = false)
  (hplace : x.place = .main pa key cache)
include hat hwatched hmove hstale hplace

/-- A WAITA whose core is still recorded on its word's line waits on. -/
theorem exec_waitaWake_of_recorded (hwoken : x.woken = false) (hrec : recorded s (pa / 128) id.core = true) :
    exec (.waitaWake id) s = .next s := by
  have hrule : exec (.waitaWake id) s = execWaitaWake id s := rfl
  rw [hrule, execWaitaWake, hat]
  simp [hwatched, hmove, hstale, wokenAt, hplace, hwoken, hrec]

omit hat hwatched hmove hstale hplace in
/-- A fresh read brings times and a copy of its line, and leaves memory (R285). -/
theorem kept_readMain_fresh (s : State) (c pa key size : Nat) (cache : Bool) : Kept s (readMain s c pa key size cache true).2 := by
  have hrenew := Kept.renewLine s (.core c) (pa / 128)
  have htouch (u : State) : Kept u (touchWay u c (pa / 128)) := ⟨rfl, rfl, rfl, rfl, rfl, rfl⟩
  cases cache with
  | false => simpa [readMain] using hrenew
  | true => simpa [readMain] using (hrenew.trans (htouch _)).trans (Kept.modCore ..)

/-- One that has been woken reads its word afresh, and waits again or completes. -/
theorem exec_waitaWake_of_woken (hwoken : x.woken = true ∨ recorded s (pa / 128) id.core = false)
    (hserves : lineStatus s (pa / 128) false = .serves) :
    let r := readMain s id.core pa key 4 cache true
    let u := noteTime r.2 tm.launch (core r.2 id.core).ct
    exec (.waitaWake id) s = .next (if BitVec.ofNat 32 (natOfBytes (readKeyed s key pa 4)) = x.old
      then parkAddress u (tm.name id.strand) x
      else completeNamed (commitPops (modSlice u id fun y => { y.unwatch with ready := u.clock }) (tm.name id.strand) x.pops)
        (tm.name id.strand) x.next) := by
  have hrule : exec (.waitaWake id) s = execWaitaWake id s := rfl
  have hwake : wokenAt s id.core x = true := by
    rcases hwoken with h | h <;> simp [wokenAt, hplace, h]
  have hbytes : (readMain s id.core pa key 4 cache true).1 = readKeyed s key pa 4 := by simp [readMain]
  have hread : readPlace s (rereadOf s (tm.name id.strand) tm id.core x) true = some (readMain s id.core pa key 4 cache true) := by
    simp [readPlace, rereadOf, hplace, hserves]
  have hnote (u : State) : noteAccess u (rereadOf s (tm.name id.strand) tm id.core x) = noteTime u tm.launch (core u id.core).ct := by
    simp [noteAccess, rereadOf, hplace, Place.scope, Team.name]
  rw [hrule, execWaitaWake, hat]
  simp [hwatched, hmove, hstale, hwake, rereadWord, hread, hnote, hbytes]

end

/-! ### QUEUE_ELEMENT_PERFORM (R197) -/

/-- The elements of the next queue load performed together, where none has a packet to send and nothing holds them up. -/
theorem exec_queueElementPerform {s : State} {t : TeamId} {tm : Team} {q i : Nat} {e : FEntry} {g : Group} {u : Team → Team}
    (hteam : teamAt s t = some tm) (hnext : nextLoad tm = some (q, i, e)) (haway : nextAway s t tm = none)
    (hmove : enginesMove s t.core t.slot = true) (hfrozen : tm.frozen = false) (hkilled : tm.killed = false)
    (hheld : loadsHeld s (tm.name none) = false) (hgroup : e.elems.foldl (performElem t) ⟨s, [], none⟩ = g) (hhold : g.hold = none)
    (hu : u = fun x => { x with fqueues := listModify (fun f =>
      { f with entries := listModify (fun y => { y with elems := g.elems }) f.entries i }) x.fqueues q }) (hroom : (u tm).poisons ≤ 64) :
    exec (.queueElementPerform t none) s = .next (dropReads (touchQueues (modTeam g.s t u) t.core t.slot) (tm.name none) .elems) := by
  have hrule : exec (.queueElementPerform t none) s = execQueueElementPerform t none s := rfl
  have hsend : sendElems 1024 s t = s := by
    rw [sendElems, hteam]
    simp only [haway]
  have hgo : performGroup s t = dropReads (touchQueues (modTeam g.s t u) t.core t.slot) (tm.name none) .elems := by
    subst hu
    simp only [performGroup, hteam, hnext, hgroup, hhold]
    exact if_pos hroom
  rw [hrule, execQueueElementPerform, hteam]
  simp [loadsMove, hmove, hfrozen, hkilled, hheld, hsend, hgo]

/-! ### LINE_FILL (R293) -/

/-- An absent line is listed under mts where its home has room (R293). -/
theorem exec_lineFill {s : State} {line : Nat} (hpop : populated s (128 * line) 128 = true) (habsent : Table.get s.lines line = none)
    (hserves : lineStatus s line true = .serves) (hroom : (s.lines.filter fun p => homeSlice p.1 == homeSlice line).length < 2048) :
    let m := Table.getD s.mts (homeSlice line) 0
    exec (.lineFill line none) s = .next { s with lines := Table.put s.lines line ⟨m, m, false, []⟩ } := by
  have hrule : exec (.lineFill line none) s = execLineFill line none s := rfl
  have hhome : (linesAtHome s (homeSlice line)).length < 2048 := hroom
  rw [hrule, execLineFill]
  simp [hpop, habsent, hserves, hhome, putLine, lineAt]

end Sys2Proof.Machine
end

section
/-! CLAIM. MSC_FILL counts a hit or a miss of the partition that fills (R354, R355). -/

namespace Sys2Proof.Machine

theorem inc64_of_ne {x : DWord} (h : x ≠ BitVec.allOnes 64) : inc64 x = x + 1 := by
  have hlt : x.toNat + 1 < 2 ^ 64 := by
    have hne : x.toNat ≠ 2 ^ 64 - 1 := fun heq => h (BitVec.eq_of_toNat_eq (by simpa using heq))
    omega
  exact if_pos hlt

theorem partition_modPartition (s : State) (p q : Nat) (f : Partition → Partition) :
    partition (modPartition s p f) q = if q = p then f (partition s p) else partition s q := by
  by_cases h : q = p
  · rw [if_pos h, h]
    exact Table.getD_put_self ..
  · rw [if_neg h]
    exact Table.getD_put_ne _ _ _ h

/-- Every partition has counted the same hits and misses, and main memory is as before. -/
structure SameCounts (s t : State) : Prop where
  mem : t.mem = s.mem
  hits : ∀ q, (partition t q).hits = (partition s q).hits
  misses : ∀ q, (partition t q).misses = (partition s q).misses

theorem SameCounts.trans {s t u : State} (h : SameCounts s t) (h' : SameCounts t u) : SameCounts s u :=
  ⟨h'.mem.trans h.mem, fun q => (h'.hits q).trans (h.hits q), fun q => (h'.misses q).trans (h.misses q)⟩

/-- A change of a partition that leaves its counts. -/
theorem SameCounts.modPartition (s : State) (p : Nat) {f : Partition → Partition}
    (hf : ∀ x, (f x).hits = x.hits ∧ (f x).misses = x.misses) : SameCounts s (modPartition s p f) := by
  refine ⟨rfl, fun q => ?_, fun q => ?_⟩ <;> rw [partition_modPartition] <;> split
  · rw [(hf _).1, ‹q = p›]
  · rfl
  · rw [(hf _).2, ‹q = p›]
  · rfl

/-- A monitor that watches counts of its own (R354). -/
theorem sameCounts_watchCache (s : State) (p set line : Nat) :
    SameCounts s (watchCache s p set line) ∧ (watchCache s p set line).cacheSets = s.cacheSets := by
  unfold watchCache
  split <;> exact ⟨⟨rfl, fun _ => rfl, fun _ => rfl⟩, rfl⟩

/-- A line taken in counts in its partition's occupancy. -/
theorem sameCounts_addCached (s : State) (set : Nat) (xs : List CachedLine) (line q : Nat) : SameCounts s (addCached s set xs line q) :=
  SameCounts.trans (t := { s with cacheSets := Table.put s.cacheSets set (xs ++ [⟨line, q⟩]) }) ⟨rfl, fun _ => rfl, fun _ => rfl⟩
    (.modPartition _ _ fun _ => ⟨rfl, rfl⟩)

/-- An eviction counts apart. -/
theorem sameCounts_countEviction (s : State) (q p : Nat) : SameCounts s (countEviction s q p) := by
  unfold countEviction
  dsimp only
  split <;> refine SameCounts.trans (SameCounts.modPartition s p ?_) (.modPartition _ _ ?_) <;> exact fun _ => ⟨rfl, rfl⟩

/-- A line missed is taken into its set where its partition may (R354). -/
def takeIn (s : State) (set : Nat) (xs : List CachedLine) (line part : Nat) : State :=
  if (partition s part).quota = 0 ∧ linesOfPart xs part = 0 then s
  else if xs.length < 16 then addCached s set xs line part
  else match victimPart s xs part with
    | none => s
    | some p => addCached (countEviction s part p) set (dropLru p xs) line part

theorem sameCounts_takeIn (s : State) (set : Nat) (xs : List CachedLine) (line part : Nat) : SameCounts s (takeIn s set xs line part) := by
  have hrefl : SameCounts s s := ⟨rfl, fun _ => rfl, fun _ => rfl⟩
  unfold takeIn
  split
  · exact hrefl
  split
  · exact sameCounts_addCached ..
  cases victimPart s xs part with
  | none => exact hrefl
  | some p => exact (sameCounts_countEviction ..).trans (sameCounts_addCached ..)

section
variable {s : State} {line : Nat} {owner : Bool} {world : Nat} (hpop : populated s (128 * line) 128 = true)
  (hserves : lineStatus s line true = .serves)
include hpop hserves

/-- A hit counts. -/
theorem exec_mscFill_of_hit (h : ∃ c ∈ Table.getD s.cacheSets (cacheSetOf line) [], c.line = line) :
    ∃ u, SameCounts s u ∧ exec (.mscFill line owner world) s =
      .next (modPartition u (partOf s owner world) fun x => { x with hits := inc64 x.hits }) := by
  have hrule : exec (.mscFill line owner world) s = execMscFill line owner world s := rfl
  have hgo : (!populated s (128 * line) 128 || lineStatus s line true != .serves) = false := by simp [hpop, hserves]
  obtain ⟨hsame, hsets⟩ := sameCounts_watchCache s (partOf s owner world) (cacheSetOf line) line
  obtain ⟨c, hc⟩ : ∃ c, (Table.getD s.cacheSets (cacheSetOf line) []).find? (fun c => c.line == line) = some c :=
    Option.isSome_iff_exists.1 (List.find?_isSome.2 (by simpa using h))
  refine ⟨{ watchCache s (partOf s owner world) (cacheSetOf line) line with
      cacheSets := Table.put s.cacheSets (cacheSetOf line)
        ((Table.getD s.cacheSets (cacheSetOf line) []).filter (fun x => x.line != line) ++ [c]) },
    hsame.trans ⟨rfl, fun _ => rfl, fun _ => rfl⟩, ?_⟩
  rw [hrule, execMscFill]
  simp only [hgo, hsets, hc]
  rfl

/-- A miss counts, and the line is taken in or not. -/
theorem exec_mscFill_of_miss (h : ∀ c ∈ Table.getD s.cacheSets (cacheSetOf line) [], c.line ≠ line) :
    ∃ u, SameCounts s u ∧ exec (.mscFill line owner world) s =
      .next (takeIn (modPartition u (partOf s owner world) fun x => { x with misses := inc64 x.misses }) (cacheSetOf line)
        (Table.getD s.cacheSets (cacheSetOf line) []) line (partOf s owner world)) := by
  have hrule : exec (.mscFill line owner world) s = execMscFill line owner world s := rfl
  have hgo : (!populated s (128 * line) 128 || lineStatus s line true != .serves) = false := by simp [hpop, hserves]
  obtain ⟨hsame, hsets⟩ := sameCounts_watchCache s (partOf s owner world) (cacheSetOf line) line
  have hnone : (Table.getD s.cacheSets (cacheSetOf line) []).find? (fun c => c.line == line) = none :=
    List.find?_eq_none.2 (by simpa using h)
  refine ⟨_, hsame, ?_⟩
  rw [hrule, execMscFill]
  simp only [hgo, hsets, hnone]
  rfl

/-- MSC_FILL counts for the partition that fills, and leaves main memory (R355). -/
theorem mscFill_counts :
    ∃ t, exec (.mscFill line owner world) s = .next t ∧ t.mem = s.mem ∧
      ((∃ c ∈ Table.getD s.cacheSets (cacheSetOf line) [], c.line = line) →
        (partition s (partOf s owner world)).hits ≠ BitVec.allOnes 64 →
        (partition t (partOf s owner world)).hits = (partition s (partOf s owner world)).hits + 1 ∧
        (partition t (partOf s owner world)).misses = (partition s (partOf s owner world)).misses) ∧
      ((∀ c ∈ Table.getD s.cacheSets (cacheSetOf line) [], c.line ≠ line) →
        (partition s (partOf s owner world)).misses ≠ BitVec.allOnes 64 →
        (partition t (partOf s owner world)).misses = (partition s (partOf s owner world)).misses + 1 ∧
        (partition t (partOf s owner world)).hits = (partition s (partOf s owner world)).hits) := by
  by_cases h : ∃ c ∈ Table.getD s.cacheSets (cacheSetOf line) [], c.line = line
  · obtain ⟨u, hu, hexec⟩ := exec_mscFill_of_hit hpop hserves h
    refine ⟨_, hexec, hu.mem, fun _ hmax => ?_, fun hmiss => absurd h (by simpa using hmiss)⟩
    simp [partition_modPartition, hu.hits, hu.misses, inc64_of_ne hmax]
  · obtain ⟨u, hu, hexec⟩ := exec_mscFill_of_miss hpop hserves (by simpa using h)
    have htake := sameCounts_takeIn (modPartition u (partOf s owner world) fun x => { x with misses := inc64 x.misses }) (cacheSetOf line)
        (Table.getD s.cacheSets (cacheSetOf line) []) line (partOf s owner world)
    refine ⟨_, hexec, htake.mem.trans hu.mem, fun hhit => absurd hhit h, fun _ hmax => ?_⟩
    simp [htake.hits, htake.misses, partition_modPartition, hu.hits, hu.misses, inc64_of_ne hmax]

end

end Sys2Proof.Machine
end

section
/-! CLAIM. The events of memory (R98, R174, R176, R197, R285, R293, R294, R354, R355, R359). -/

namespace Sys2Proof.Machine

/-- Settles O53, an event at a time. -/
theorem memoryEvents : Obligations.MemoryEvents := by
  refine ⟨?_, ?_, ?_, ?_, ?_, ?_, ?_⟩
  · intro s n a pa key cache hacc hplace hmay hserves
    exact ⟨homeStore_performs hacc hplace hmay hserves, fun _ _ _ => homeAtomic_performs hacc hplace hmay hserves,
      fun h => leaseRenewal_performs hacc hplace hmay hserves h.1 h.2⟩
  · intro s n a reply tm sl r hacc hkind hdone hscope hsink hnamed hawait
    exact exec_loadComplete reply hacc hkind hdone hscope hsink hnamed hawait
  · intro s id tm sl w hat hmove hrun hjoin
    rw [exec_wake hat hmove hrun hjoin]
    refine ⟨fun hover => ?_, fun hover => ?_⟩
    · rw [if_pos hover]
      exact ⟨_, rfl, rfl, rfl, rfl, rfl, rfl⟩
    · rw [if_neg (by simp [hover])]
  · intro s id tm sl x pa key cache hat hwatched hmove hstale hplace
    refine ⟨exec_waitaWake_of_recorded hat hwatched hmove hstale hplace, ?_⟩
    intro hwoken hserves r u
    have hexec := exec_waitaWake_of_woken hat hwatched hmove hstale hplace hwoken hserves
    have hkept : Kept s u := (kept_readMain_fresh ..).trans (Kept.modLaunch ..)
    exact ⟨hkept.mem, hkept.hostMem, fun h => hexec.trans (congrArg _ (if_pos h)), fun h => hexec.trans (congrArg _ (if_neg h))⟩
  · intro s t tm q i e g hteam hnext haway hmove hfrozen hkilled hheld hgroup hhold u hu hroom
    exact exec_queueElementPerform hteam hnext haway hmove hfrozen hkilled hheld hgroup hhold hu hroom
  · exact fun s line => exec_lineFill
  · exact fun s line owner world => mscFill_counts

end Sys2Proof.Machine
end

section
/-! CLAIM. A debugger's commands and samples (R106, R441, R442, R443). -/

namespace Sys2Proof.Machine

/-! ### Commands -/

/-- A word with the code of another command is no write of this one. -/
theorem debugCommand_of_other_code {dcmd : DWord} {code : Nat} (hcode : field dcmd 63 60 ≠ code) (hok : dcmdOk dcmd = true) (s : State)
    (fn slot : Nat) (v : Option DWord) (who : Option SliceId) (ok : DWord → Team → Slice → Bool)
    (act : State → SliceId → Team → DWord → State) : debugCommand s fn slot dcmd v code who ok act = s := by
  have hrange : 1 ≤ field dcmd 63 60 ∧ field dcmd 63 60 ≤ 7 := by
    simp only [dcmdOk, Bool.and_eq_true, decide_eq_true_eq] at hok
    exact hok.2
  exact if_pos (.inr (.inr (.inr ⟨hrange.1, hrange.2, hcode⟩)))

section
variable {s : State} {fn slot : Nat} {dcmd : DWord} {v : Option DWord} {launch code : Nat}
  (hstage : s.service.stage = 5) (hscrub : s.saltin.scrubbing = none) (hslot : slot < 64)
  (hreach : fn = 0 ∨ functionWorld s fn = field (listGetD (debugSlot s slot).d 0 0) 47 32)
  (hfree : (listGetD (debugSlot s slot).d 7 0).getLsbD 58 = false)
  (hcode : ¬ (1 ≤ field dcmd 63 60 ∧ field dcmd 63 60 ≤ 7 ∧ field dcmd 63 60 ≠ code))
  (who : Option SliceId) (ok : DWord → Team → Slice → Bool) (act : State → SliceId → Team → DWord → State)
include hstage hscrub hslot hreach hcode

/-- A READY package takes the command. -/
theorem command_taken : ¬ (!hostWrites s ∨ 64 ≤ slot ∨ !reachesWorld s fn (field (listGetD (debugSlot s slot).d 0 0) 47 32) ∨
    (1 ≤ field dcmd 63 60 ∧ field dcmd 63 60 ≤ 7 ∧ field dcmd 63 60 ≠ code)) := by
  have hwrites : hostWrites s = true := by simp [hostWrites, hstage, hscrub]
  have hreaches : reachesWorld s fn (field (listGetD (debugSlot s slot).d 0 0) 47 32) = true := by simpa [reachesWorld] using hreach
  rw [hwrites, hreaches]
  rintro (h | h | h | h)
  · exact Bool.false_ne_true h
  · omega
  · exact Bool.false_ne_true h
  · exact hcode h

include hfree

/-- One whose reserved bits are not 0 sets ERR alone. -/
theorem debugCommand_of_reserved (hbad : dcmdOk dcmd = false) :
    debugCommand s fn slot dcmd v code who ok act = setDcmd (setDarg s slot v) slot dcmd false true :=
  (if_neg (command_taken hstage hscrub hslot hreach hcode)).trans
    ((if_pos (by simp [hbad])).trans (if_neg (by rw [hfree]; exact Bool.false_ne_true)))

/-- One on a slice of the attached launch acts, or is refused, as its own condition has it. -/
theorem debugCommand_of_slice {id : SliceId} {tm : Team} {sl : Slice} (hok : dcmdOk dcmd = true)
    (hlaunch : (debugSlot s slot).launch = some launch) (hat : sliceAt s id = some (tm, sl)) (hteam : tm.launch = launch)
    (hothers : ∀ p ∈ s.debugSlots, p.1 ≠ slot → p.2.regwrite = none) :
    debugCommand s fn slot dcmd v code (some id) ok act =
      if ok (v.getD (listGetD (debugSlot s slot).d 8 0)) tm sl
      then act (setDcmd (setDarg s slot v) slot dcmd false false) id tm (v.getD (listGetD (debugSlot s slot).d 8 0))
      else setDcmd (setDarg s slot v) slot dcmd false true := by
  have hwaits (team : Bool) : commandWaits s slot (tm.name id.strand) team = false := by
    refine List.any_eq_false.2 fun p hp => ?_
    by_cases h : p.1 = slot
    · simp [h]
    · simp [hothers p hp h]
  refine (if_neg (command_taken hstage hscrub hslot hreach hcode)).trans ((if_neg (by rw [hfree, hok]; decide)).trans ?_)
  rw [hlaunch]
  simp only [hat, hwaits, hteam, hfree, Bool.false_eq_true, if_false, true_and]

/-- A command on the slice that its identity names. -/
theorem sliceCommand_acts {id : SliceId} {tm : Team} {sl : Slice} (hok : dcmdOk dcmd = true) (hid : commandId s.regs.number dcmd = some id)
    (hlaunch : (debugSlot s slot).launch = some launch) (hat : sliceAt s id = some (tm, sl)) (hteam : tm.launch = launch)
    (hothers : ∀ p ∈ s.debugSlots, p.1 ≠ slot → p.2.regwrite = none) :
    sliceCommand s fn slot dcmd v code ok act =
      if ok (v.getD (listGetD (debugSlot s slot).d 8 0)) tm sl
      then act (setDcmd (setDarg s slot v) slot dcmd false false) id tm (v.getD (listGetD (debugSlot s slot).d 8 0))
      else setDcmd (setDarg s slot v) slot dcmd false true := by
  rw [sliceCommand, hid]
  exact debugCommand_of_slice hstage hscrub hslot hreach hfree hcode ok act hok hlaunch hat hteam hothers

end

/-- A slice is TRAPPED for a command (R441). -/
theorem Slice.isTrapped_iff {tm : Team} {sl : Slice} : sl.isTrapped tm = true ↔ sl.run = .trapped ∧ tm.frozen = false := by
  simp [Slice.isTrapped]

/-- A doubleword that is a multiple of 4 is an aligned PC. -/
theorem lowWord_and_three {x : DWord} (h : x.toNat % 4 = 0) : (lowWord x &&& 3 == 0) = true := by
  have hand : (lowWord x &&& 3).toNat = 0 := by
    rw [BitVec.toNat_and, lowWord_toNat]
    change _ &&& (2 ^ 2 - 1) = 0
    rw [Nat.and_two_pow_sub_one_eq_mod]
    omega
  exact beq_iff_eq.2 (BitVec.eq_of_toNat_eq hand)

section
variable {s u refused : State} {fn slot : Nat} {dcmd x : DWord} {v : Option DWord} {id : SliceId} {tm : Team} {sl : Slice}
  (hacts : ∀ (c : Nat), field dcmd 63 60 = c → ∀ (ok : DWord → Team → Slice → Bool) (act : State → SliceId → Team → DWord → State),
    sliceCommand s fn slot dcmd v c ok act = if ok x tm sl then act u id tm x else refused)
include hacts

/-- FLAGWRITE of a TRAPPED slice (R441). -/
theorem exec_flagwrite (hc : field dcmd 63 60 = 7) (ht : sl.isTrapped tm = true) (hflags : x.toNat / 2 ^ 5 % 2 ^ 27 = 0) :
    exec (.flagwrite fn slot dcmd v) s = .next (modSlice u id fun y => { y with fflags := BitVec.ofNat 32 (x.toNat % 32) }) := by
  have hrule : exec (.flagwrite fn slot dcmd v) s = execFlagwrite fn slot dcmd v s := rfl
  have hlow : field x 4 0 = x.toNat % 32 := by simp [field]
  have hok : (sl.isTrapped tm && field x 31 5 == 0) = true := by rw [ht, field, hflags]; rfl
  rw [hrule, execFlagwrite, hacts 7 hc, if_pos hok, hlow]

/-- REGWRITE of a TRAPPED slice's register: by force, or where no write to it is pending (R442). -/
theorem exec_regwrite (hflight : u.inflight = s.inflight) (hc : field dcmd 63 60 = 3) (ht : sl.isTrapped tm = true)
    (hreg : field dcmd 54 48 < sl.regs.length) :
    (dcmd.getLsbD 59 = true → exec (.regwrite fn slot dcmd v) s = .next (forceWrite u slot id tm (field dcmd 54 48) (lowWord x))) ∧
    (dcmd.getLsbD 59 = false → regPending s (tm.name id.strand) (field dcmd 54 48) = false → exec (.regwrite fn slot dcmd v) s =
      .next (modSlice u id fun y => { y with regs := y.regs.set (field dcmd 54 48) (lowWord x) })) := by
  have hrule : exec (.regwrite fn slot dcmd v) s = execRegwrite fn slot dcmd v s := rfl
  have hok : (sl.isTrapped tm && decide (field dcmd 54 48 < sl.regs.length)) = true := by rw [ht, decide_eq_true hreg]; rfl
  have hpend : regPending u (tm.name id.strand) (field dcmd 54 48) = regPending s (tm.name id.strand) (field dcmd 54 48) := by
    rw [regPending, hflight, regPending]
  rw [hrule, execRegwrite, hacts 3 hc, if_pos hok]
  refine ⟨fun hforce => ?_, fun hforce hpending => ?_⟩
  · rw [if_pos hforce]
  · rw [hforce, if_neg Bool.false_ne_true, hpend, hpending]
    rfl

end

/-! ### STEPTEAM (R106, R441) -/

/-- The word that STEPTEAM's DCMD holds for a team of the package. -/
def stepteamWord (pkg : Nat) (t : TeamId) : DWord := BitVec.ofNat 64 (2 * 2 ^ 60 + identityBits pkg ⟨t.core, t.slot, none⟩)

/-- Its fields are those of the command and of the team's identity. -/
theorem stepteamWord_fields {pkg : Nat} {t : TeamId} (hpkg : pkg < 8192) (hcore : t.core < 384) (hslot : t.slot < 16) :
    dcmdOk (stepteamWord pkg t) = true ∧ field (stepteamWord pkg t) 63 60 = 2 ∧
      commandTeam pkg (stepteamWord pkg t) = some ⟨t.core, t.slot, none⟩ := by
  have hbits := identityBits_of_ranges (id := ⟨t.core, t.slot, none⟩) hpkg hcore hslot nofun
  have hstrand : strandBits none = 2 ^ 10 := rfl
  simp only [hstrand] at hbits
  have hdie : t.core / 96 < 4 := by omega
  have hmod : t.core % 96 < 96 := Nat.mod_lt _ (by decide)
  have hsum := Nat.div_add_mod t.core 96
  generalize t.core / 96 = die at *
  generalize t.core % 96 = c at *
  obtain ⟨hhigh, hlow⟩ : identityBits pkg ⟨t.core, t.slot, none⟩ < 2 ^ 48 ∧ identityBits pkg ⟨t.core, t.slot, none⟩ % 2 ^ 11 = 0 := by
    rw [hbits]
    refine ⟨?_, ?_⟩ <;> omega
  have hlt : 2 * 2 ^ 60 + identityBits pkg ⟨t.core, t.slot, none⟩ < 2 ^ 64 := by omega
  obtain ⟨hcode, hreserved, hzero⟩ : field (stepteamWord pkg t) 63 60 = 2 ∧ field (stepteamWord pkg t) 56 55 = 0 ∧
      field (stepteamWord pkg t) 10 0 = 0 := by
    rw [stepteamWord, field_ofNat hlt, field_ofNat hlt, field_ofNat hlt]
    clear hbits hlt
    refine ⟨?_, ?_, ?_⟩ <;> omega
  obtain ⟨hp, hd, hc, hs⟩ : field (stepteamWord pkg t) 47 35 = pkg ∧ field (stepteamWord pkg t) 34 33 = die ∧
      field (stepteamWord pkg t) 32 26 = c ∧ field (stepteamWord pkg t) 25 22 = t.slot := by
    rw [stepteamWord, field_ofNat hlt, field_ofNat hlt, field_ofNat hlt, field_ofNat hlt, hbits]
    clear hlt hhigh hlow
    refine ⟨?_, ?_, ?_, ?_⟩ <;> omega
  refine ⟨by rw [dcmdOk, hcode, hreserved, hzero]; rfl, hcode, ?_⟩
  rw [commandTeam, commandId, hp, hd, hc, hs, hsum, if_neg (by omega), Option.map_some]

/-- STEPTEAM sets every step bit of the team, and is BUSY while a slice of it is RUNNABLE (R106). -/
theorem exec_stepteam {s : State} {fn slot launch : Nat} {cmd : DWord} {v : Option DWord} {t : TeamId} {tm : Team}
    (hstage : s.service.stage = 5) (hscrub : s.saltin.scrubbing = none) (hslot : slot < 64)
    (hreach : fn = 0 ∨ functionWorld s fn = field (listGetD (debugSlot s slot).d 0 0) 47 32)
    (hfree : (listGetD (debugSlot s slot).d 7 0).getLsbD 58 = false) (hlaunch : (debugSlot s slot).launch = some launch)
    (hothers : ∀ p ∈ s.debugSlots, p.1 ≠ slot → p.2.regwrite = none) (hok : dcmdOk cmd = true) (hcode : field cmd 63 60 = 2)
    (hid : commandTeam s.regs.number cmd = some ⟨t.core, t.slot, none⟩) (hteam : teamAt s t = some tm) (htm : tm.launch = launch) :
    let y := stepTeam (setDcmd (setDarg s slot v) slot cmd false false) t tm
    exec (.stepteam fn slot cmd v) s = .next (if stepped y (tm.name none) then y else modDebug y slot fun b =>
      { b with d := b.d.set 7 (dcmdWord cmd true false), stepping := some (tm.name none) }) := by
  have hat : sliceAt s ⟨t.core, t.slot, none⟩ = some (tm, tm.addr) := by
    rw [sliceAt, show teamIdOf ⟨t.core, t.slot, none⟩ = t from rfl, hteam]
    rfl
  have hrule : exec (.stepteam fn slot cmd v) s = execStepteam fn slot cmd v s := rfl
  rw [hrule, execStepteam, hid, debugCommand_of_slice hstage hscrub hslot hreach hfree (fun h => h.2.2 hcode) _ _ hok hlaunch hat htm hothers]
  exact congrArg Host.Outcome.next (if_pos rfl)

/-! ### Samples (R443) -/

section
variable {s : State} {slot c launch : Nat} (hlaunch : (debugSlot s slot).launch = some launch)
include hlaunch

/-- SAMPLE of a slot that takes none, of a core without a slice of the launch, or before the interval has passed. -/
theorem exec_sample_of_nothing (h : (debugSlot s slot).sint = 15 ∨ sampled s launch c = [] ∨ sampleDue s (debugSlot s slot) c = false) :
    exec (.sample slot c) s = .next s := by
  have hrule : exec (.sample slot c) s = execSample slot c s := rfl
  rw [hrule, execSample, hlaunch]
  rcases h with h | h | h <;> simp [h]

/-- The first sample of a core is of its first slice. -/
theorem exec_sample_first {n : Nat} {id : SliceId} {tm : Team} {sl : Slice} {xs : List (Nat × SliceId × Team × Slice)}
    (hsint : (debugSlot s slot).sint ≠ 15) (hsampled : sampled s launch c = (n, id, tm, sl) :: xs)
    (hlast : Table.get (debugSlot s slot).lastSample c = none) :
    exec (.sample slot c) s = .next (modDebug (emit s slot (sampleWords s id tm sl (sampleClass s tm sl)) 1) slot fun b =>
      { b with lastSample := Table.put b.lastSample c (n, s.clock) }) := by
  have hrule : exec (.sample slot c) s = execSample slot c s := rfl
  have hnone (ys : List (Nat × SliceId × Team × Slice)) : ys.find? (fun _ => false) = none := List.find?_eq_none.2 fun _ _ => Bool.false_ne_true
  rw [hrule, execSample, hlaunch]
  simp [hsint, sampleDue, hlast, hsampled, hnone]

end

/-- Settles O59: what `debugCommand` does with a command that is taken, for each of its codes; then the samples. -/
theorem debuggerEvents : Obligations.DebuggerEvents := by
  refine ⟨?_, ?_⟩
  · intro s fn slot dcmd v launch id tm sl hstage hscrub hslot hreach hfree hlaunch hothers
    refine ⟨?_, ?_, ?_⟩
    · intro hok hid hat hteam darg u refused code trapped
      have hacts (c : Nat) (hc : code = c) (ok : DWord → Team → Slice → Bool) (act : State → SliceId → Team → DWord → State) :
          sliceCommand s fn slot dcmd v c ok act = if ok darg tm sl then act u id tm darg else refused :=
        sliceCommand_acts hstage hscrub hslot hreach hfree (fun h => h.2.2 hc) ok act hok hid hlaunch hat hteam hothers
      have hflight : u.inflight = s.inflight := by cases v <;> rfl
      have htrapped : sl.isTrapped tm = true ↔ trapped := Slice.isTrapped_iff
      refine ⟨?_, ?_, ?_, ?_, ?_, ?_, ?_, ?_, ?_⟩
      · exact fun hc => congrArg Host.Outcome.next (hacts 5 hc _ _)
      · exact fun hc => congrArg Host.Outcome.next (hacts 6 hc _ _)
      · intro hc ht hal
        refine congrArg Host.Outcome.next ((hacts 1 hc _ _).trans (if_pos ?_))
        rw [htrapped.2 ht, lowWord_and_three hal, Bool.and_self]
      · exact fun hc ht => congrArg Host.Outcome.next ((hacts 4 hc _ _).trans (if_pos (htrapped.2 ht)))
      · exact fun hc ht hflags => exec_flagwrite hacts hc (htrapped.2 ht) hflags
      · exact fun hc ht hreg hforce hpending => (exec_regwrite hacts hflight hc (htrapped.2 ht) hreg).2 hforce hpending
      · exact fun hc ht hreg hforce => (exec_regwrite hacts hflight hc (htrapped.2 ht) hreg).1 hforce
      · exact fun hc => congrArg Host.Outcome.next (debugCommand_of_other_code hc hok ..)
      · intro hnot
        have hfalse : sl.isTrapped tm = false := Bool.eq_false_iff.2 (mt htrapped.1 hnot)
        simp only [List.forall_mem_cons, List.not_mem_nil, false_imp_iff, implies_true, and_true]
        refine ⟨fun hc => ?_, fun hc => ?_, fun hc => ?_, fun hc => ?_⟩
        · exact congrArg Host.Outcome.next ((hacts 1 hc _ _).trans (if_neg (by simp [hfalse])))
        · exact congrArg Host.Outcome.next ((hacts 4 hc _ _).trans (if_neg (by simp [hfalse])))
        · exact congrArg Host.Outcome.next ((hacts 7 hc _ _).trans (if_neg (by simp [hfalse])))
        · exact congrArg Host.Outcome.next ((hacts 3 hc _ _).trans (if_neg (by simp [hfalse])))
    · intro hbad
      have hreserved (c : Nat) (hc : field dcmd 63 60 = c ∨ field dcmd 63 60 = 0 ∨ 7 < field dcmd 63 60) (who : Option SliceId)
          (ok : DWord → Team → Slice → Bool) (act : State → SliceId → Team → DWord → State) :=
        debugCommand_of_reserved hstage hscrub hslot hreach (v := v) hfree (code := c) (by omega) who ok act hbad
      simp only [List.forall_mem_cons, List.not_mem_nil, false_imp_iff, implies_true, and_true]
      refine ⟨fun hc => ?_, fun hc => ?_, fun hc => ?_, fun hc => ?_, fun hc => ?_, fun hc => ?_⟩ <;>
        exact congrArg Host.Outcome.next (hreserved _ hc ..)
    · intro tm' x cmd hpkg hcore hslot' hteam hlaunch' haddr
      obtain ⟨hok, hcode, hid⟩ : dcmdOk cmd = true ∧ field cmd 63 60 = 2 ∧ commandTeam s.regs.number cmd = some ⟨id.core, id.slot, none⟩ :=
        stepteamWord_fields (t := teamIdOf id) hpkg hcore hslot'
      clear_value cmd
      have hexec := exec_stepteam (v := v) (t := teamIdOf id) hstage hscrub hslot hreach hfree hlaunch hothers hok hcode hid hteam hlaunch'
      by_cases hdone : stepped (stepTeam (setDcmd (setDarg s slot v) slot cmd false false) (teamIdOf id) tm') (tm'.name none) = true
      · exact ⟨_, _, hexec.trans (congrArg _ (if_pos hdone)), .inl rfl, rfl⟩
      · exact ⟨_, _, hexec.trans (congrArg _ (if_neg hdone)), .inr ⟨_, rfl⟩, rfl⟩
  · intro s slot c launch hlaunch
    refine ⟨fun h => exec_sample_of_nothing hlaunch (.inl h), fun h => exec_sample_of_nothing hlaunch (.inr (.inl h)), ?_, ?_⟩
    · intro n id tm sl xs hsint hsampled hlast
      refine ⟨_, exec_sample_first hlaunch hsint hsampled hlast, ?_, rfl⟩
      rw [debugSlot, modDebug, Table.getD_put_self]
      exact Table.get_put_self ..
    · intro x hlast hearly
      refine exec_sample_of_nothing hlaunch (.inr (.inr ?_))
      rw [sampleDue, hlast]
      exact decide_eq_false (by omega)

end Sys2Proof.Machine
end

section
/-! SUPPORT. Numbers and words: the readings of an operand, the word that a number becomes, and an instruction whose result is such a
word (R8, R113, R115, R116). -/

namespace Sys2Proof.Machine

/-! ### Readings of an operand -/

section
variable (x : DWord)

/-- A 32-bit operand as an unsigned number is its word's. -/
theorem u32_eq_toNat_lowWord : u32 x = (lowWord x).toNat := congrArg Nat.cast (lowWord_toNat x).symm

/-- A 32-bit operand read as signed or unsigned is its word so read (R8). -/
theorem pick32_eq_readInt_lowWord (m : Sgn) : pick32 m x = readInt m (lowWord x) := by
  cases m with
  | s => exact s32_eq_toInt_lowWord x
  | u => exact u32_eq_toNat_lowWord x

/-- A 64-bit operand as a signed number. -/
theorem s64_eq_toInt : s64 x = x.toInt := by
  simp only [s64, u64, BitVec.toInt]
  omega

end

section
variable {m : Sgn} {x : Word}

/-- A word is zero exactly when either reading is. -/
theorem readInt_eq_zero_iff : readInt m x = 0 ↔ x = 0 := by
  cases m with
  | s => exact BitVec.toInt_inj (y := 0)
  | u => exact Int.natCast_eq_zero.trans (BitVec.toNat_inj (y := 0))

/-- A word is negative by its top bit (R8). -/
theorem getLsbD_31_iff : x.getLsbD 31 = true ↔ x.toInt < 0 := by
  rw [← decide_eq_true_iff (p := x.toInt < 0), ← BitVec.msb_eq_toInt]; rfl

end

/-! ### The word that a number becomes -/

section
variable {n : Nat}

/-- The unsigned reading of a bit string becomes that string. -/
@[simp] theorem ofInt_toNat (x : BitVec n) : BitVec.ofInt n x.toNat = x := by
  rw [BitVec.ofInt_natCast, BitVec.ofNat_toNat, BitVec.setWidth_eq]

/-- Differences are taken modulo the width (R8). -/
theorem ofInt_sub (a b : Int) : BitVec.ofInt n (a - b) = BitVec.ofInt n a - BitVec.ofInt n b := by
  rw [sub_eq_add_neg, BitVec.ofInt_add, BitVec.ofInt_neg, BitVec.sub_eq_add_neg]

end

/-- Either reading of a word becomes that word. -/
@[simp] theorem ofInt_readInt (m : Sgn) (x : Word) : BitVec.ofInt 32 (readInt m x) = x := by
  cases m with
  | s => exact BitVec.ofInt_toInt
  | u => exact ofInt_toNat x

/-- The clamped word is the saturated number (R113). -/
theorem clampWord_eq_saturate {lo hi : Int} (h : lo ≤ hi) (v : Int) : clampWord v lo hi = BitVec.ofInt 32 (saturate v lo hi) := by
  have hclamp : max lo (min hi v) = saturate v lo hi := by
    unfold saturate
    split_ifs <;> omega
  exact congrArg _ hclamp

/-- Division toward zero divides the magnitudes (R115). -/
theorem quotientOf_eq_tdiv {b : Int} (h : b ≠ 0) (a : Int) : quotientOf a b = a.tdiv b := by
  rw [quotientOf, if_neg h, ← Int.sign_mul_natAbs (a.tdiv b), Int.sign_tdiv, Int.natAbs_tdiv]
  split
  case isTrue hlt => rw [Nat.div_eq_of_lt hlt, Nat.cast_zero, mul_zero, zero_mul]
  case isFalse => rfl

/-! ### Instructions whose result is a number of their operands -/

/-- An instruction that completes with a number of its gathered operands in D, no flag being set (R29). -/
def Completes (i : Instr) (f : Form) (g : Vals → Int) : Prop :=
  ∀ (s : State) (tm : Team) (sl : Slice) (v : Vals), Gathers s f (.ok ()) tm sl v →
    exec i s = .next (finish f sl v (received f.dw (g v)) 0 s)

section
variable {i : Instr} {f : Form} {g : Vals → Int}

theorem alu_of_gathers {s : State} {tm : Team} {sl : Slice} {v : Vals} (hg : Gathers s f (.ok ()) tm sl v) (r : Vals → DWord × Word) :
    alu f s r = .next (finish f sl v (r v).1 (r v).2 s) := run_of_gathers hg _

/-- A 64-bit result. -/
theorem completes_dword {r : Vals → DWord} (hexec : exec i = fun s => alu f s fun v => (r v, 0)) (hdw : f.dw = .w64)
    (hr : ∀ v, r v = BitVec.ofInt 64 (g v)) : Completes i f g := fun s tm sl v hg => by
  rw [congrFun hexec s, alu_of_gathers hg, hdw, hr]
  rfl

/-- A 32-bit result. -/
theorem completes_word {r : Vals → Word} (hexec : exec i = fun s => alu f s fun v => ((r v).setWidth 64, 0)) (hdw : f.dw = .w32)
    (hr : ∀ v, r v = BitVec.ofInt 32 (g v)) : Completes i f g := fun s tm sl v hg => by
  rw [congrFun hexec s, alu_of_gathers hg, hdw, hr]
  rfl

end

end Sys2Proof.Machine
end

section
/-! CLAIM. The integer arithmetic of both sets (R113 to R117). -/

namespace Sys2Proof.Machine

/-! ### The 32-bit operations on the numbers of their operands -/

section
variable (a b d : DWord) (m : Sgn)

theorem iaddOp_wrap : iaddOp .wrap (lowWord a) (lowWord b) = BitVec.ofInt 32 (u32 a + u32 b) := by
  simp [iaddOp, u32_eq_toNat_lowWord, BitVec.ofInt_add]

theorem iaddOp_ss : iaddOp .ss (lowWord a) (lowWord b) = BitVec.ofInt 32 (saturate (s32 a + s32 b) (-2 ^ 31) (2 ^ 31 - 1)) := by
  rw [s32_eq_toInt_lowWord, s32_eq_toInt_lowWord]
  exact clampWord_eq_saturate (by decide) _

theorem iaddOp_us : iaddOp .us (lowWord a) (lowWord b) = BitVec.ofInt 32 (saturate (u32 a + u32 b) 0 (2 ^ 32 - 1)) := by
  rw [u32_eq_toNat_lowWord, u32_eq_toNat_lowWord]
  exact clampWord_eq_saturate (by decide) _

theorem isubOp_wrap : isubOp .wrap (lowWord a) (lowWord b) = BitVec.ofInt 32 (u32 a - u32 b) := by
  simp [isubOp, u32_eq_toNat_lowWord, ofInt_sub]

theorem isubOp_ss : isubOp .ss (lowWord a) (lowWord b) = BitVec.ofInt 32 (saturate (s32 a - s32 b) (-2 ^ 31) (2 ^ 31 - 1)) := by
  rw [s32_eq_toInt_lowWord, s32_eq_toInt_lowWord]
  exact clampWord_eq_saturate (by decide) _

theorem isubOp_us : isubOp .us (lowWord a) (lowWord b) = BitVec.ofInt 32 (saturate (u32 a - u32 b) 0 (2 ^ 32 - 1)) := by
  rw [u32_eq_toNat_lowWord, u32_eq_toNat_lowWord]
  exact clampWord_eq_saturate (by decide) _

theorem mul_lowWord : lowWord a * lowWord b = BitVec.ofInt 32 (u32 a * u32 b) := by
  simp [u32_eq_toNat_lowWord, BitVec.ofInt_mul]

theorem mul_add_lowWord : lowWord a * lowWord b + lowWord d = BitVec.ofInt 32 (u32 a * u32 b + u32 d) := by
  simp [u32_eq_toNat_lowWord, BitVec.ofInt_mul, BitVec.ofInt_add]

theorem imulhOp_eq : imulhOp m (lowWord a) (lowWord b) = BitVec.ofInt 32 (pick32 m a * pick32 m b / 2 ^ 32) := by
  rw [pick32_eq_readInt_lowWord, pick32_eq_readInt_lowWord]; rfl

theorem idivOp_eq : idivOp m (lowWord a) (lowWord b) = BitVec.ofInt 32 (quotientOf (pick32 m a) (pick32 m b)) := by
  rw [pick32_eq_readInt_lowWord, pick32_eq_readInt_lowWord, idivOp]
  split
  case isTrue h => rw [readInt_eq_zero_iff.2 h]; rfl
  case isFalse h => rw [quotientOf_eq_tdiv (readInt_eq_zero_iff.not.2 h)]

theorem iremOp_eq : iremOp m (lowWord a) (lowWord b) = BitVec.ofInt 32
    (if pick32 m b = 0 then pick32 m a else pick32 m a - quotientOf (pick32 m a) (pick32 m b) * pick32 m b) := by
  rw [pick32_eq_readInt_lowWord, pick32_eq_readInt_lowWord, iremOp]
  split
  case isTrue h => rw [if_pos (readInt_eq_zero_iff.2 h), ofInt_readInt]
  case isFalse h =>
    have hb := (readInt_eq_zero_iff (m := m)).not.2 h
    rw [if_neg hb, quotientOf_eq_tdiv hb, Int.tmod_def, mul_comm]

theorem iminOp_eq : iminOp m (lowWord a) (lowWord b) = BitVec.ofInt 32 (min (pick32 m a) (pick32 m b)) := by
  rw [pick32_eq_readInt_lowWord, pick32_eq_readInt_lowWord, iminOp, min_def]
  split <;> rw [ofInt_readInt]

theorem imaxOp_eq : imaxOp m (lowWord a) (lowWord b) = BitVec.ofInt 32 (max (pick32 m a) (pick32 m b)) := by
  rw [pick32_eq_readInt_lowWord, pick32_eq_readInt_lowWord, imaxOp, max_def]
  split <;> rw [ofInt_readInt]

theorem iabsOp_eq : iabsOp (lowWord a) = BitVec.ofInt 32 (s32 a).natAbs := by
  rw [s32_eq_toInt_lowWord, iabsOp]
  split
  case isTrue h =>
    rw [Int.ofNat_natAbs_of_nonpos (getLsbD_31_iff.1 h).le, BitVec.ofInt_neg, BitVec.ofInt_toInt, zero_sub]
  case isFalse h => rw [Int.natAbs_of_nonneg (not_lt.1 (getLsbD_31_iff.not.1 h)), BitVec.ofInt_toInt]

end

/-- Settles O23: each operation is the word of the number that its rule gives, whichever set it belongs to. -/
theorem arithmeticResults : Obligations.ArithmeticResults := by
  intro i code f g h
  cases i with
  | iadd d a b m | teamIadd d a b m =>
    cases m with
    | wrap => cases h; exact ⟨rfl, completes_word rfl rfl fun v => iaddOp_wrap v.a v.b⟩
    | ss => cases h; exact ⟨rfl, completes_word rfl rfl fun v => iaddOp_ss v.a v.b⟩
    | us => cases h; exact ⟨rfl, completes_word rfl rfl fun v => iaddOp_us v.a v.b⟩
  | isub d a b m | teamIsub d a b m =>
    cases m with
    | wrap => cases h; exact ⟨rfl, completes_word rfl rfl fun v => isubOp_wrap v.a v.b⟩
    | ss => cases h; exact ⟨rfl, completes_word rfl rfl fun v => isubOp_ss v.a v.b⟩
    | us => cases h; exact ⟨rfl, completes_word rfl rfl fun v => isubOp_us v.a v.b⟩
  | imul d a b | teamImul d a b => cases h; exact ⟨rfl, completes_word rfl rfl fun v => mul_lowWord v.a v.b⟩
  | imulh d a b m | teamImulh d a b m => cases h; exact ⟨rfl, completes_word rfl rfl fun v => imulhOp_eq v.a v.b m⟩
  | imad d a b | teamImad d a b => cases h; exact ⟨rfl, completes_word rfl rfl fun v => mul_add_lowWord v.a v.b v.d⟩
  | idiv d a b m | teamIdiv d a b m => cases h; exact ⟨rfl, completes_word rfl rfl fun v => idivOp_eq v.a v.b m⟩
  | irem d a b m | teamIrem d a b m => cases h; exact ⟨rfl, completes_word rfl rfl fun v => iremOp_eq v.a v.b m⟩
  | imin d a b m | teamImin d a b m => cases h; exact ⟨rfl, completes_word rfl rfl fun v => iminOp_eq v.a v.b m⟩
  | imax d a b m | teamImax d a b m => cases h; exact ⟨rfl, completes_word rfl rfl fun v => imaxOp_eq v.a v.b m⟩
  | iabs d a | teamIabs d a => cases h; exact ⟨rfl, completes_word rfl rfl fun v => iabsOp_eq v.a⟩
  | dadd d a b | teamDadd d a b => cases h; exact ⟨rfl, completes_dword rfl rfl fun v => by simp [u64, BitVec.ofInt_add]⟩
  | dsub d a b | teamDsub d a b => cases h; exact ⟨rfl, completes_dword rfl rfl fun v => by simp [u64, ofInt_sub]⟩
  | dmul d a b | teamDmul d a b => cases h; exact ⟨rfl, completes_dword rfl rfl fun v => by simp [u64, BitVec.ofInt_mul]⟩
  | dneg d a | teamDneg d a => cases h; exact ⟨rfl, completes_dword rfl rfl fun v => by simp [u64, BitVec.ofInt_neg]⟩
  | _ => cases h
end Sys2Proof.Machine
end

section
/-! CLAIM. Conversions between integers and FP32 (R129, R130). -/

namespace Sys2Proof.Machine

/-! ### Rounding to an integer -/

section
variable {x : Rat} {n : Int}

theorem floor_eq_of_le_of_lt (hlo : n ≤ x) (hhi : x < n + 1) : x.floor = n := Int.floor_eq_iff.2 ⟨hlo, hhi⟩

theorem ceil_eq_neg_floor_neg (x : Rat) : x.ceil = -(-x).floor := Rat.ceil_eq_neg_floor_neg x

theorem ceil_neg (x : Rat) : (-x).ceil = -x.floor := by rw [ceil_eq_neg_floor_neg, neg_neg]

theorem floor_neg (x : Rat) : (-x).floor = -x.ceil := by rw [ceil_eq_neg_floor_neg, neg_neg]

theorem ceil_eq_of_lt_of_le (hlo : n < x + 1) (hhi : x ≤ n) : x.ceil = n := by
  have hfloor : (-x).floor = -n := floor_eq_of_le_of_lt (by push_cast; linarith) (by push_cast; linarith)
  rw [ceil_eq_neg_floor_neg, hfloor, neg_neg]

/-- The integer nearest to a number, the even one of two (R77). -/
def NearestInt (x : Rat) (n : Int) : Prop := |x - n| < 1 / 2 ∨ (|x - n| = 1 / 2 ∧ n % 2 = 0)

theorem nearestInt_neg (h : NearestInt x n) : NearestInt (-x) (-n) := by
  have habs : |-x - (-n : Int)| = |x - n| := by rw [Int.cast_neg, ← abs_neg]; congr 1; ring
  rw [NearestInt, habs]
  exact h.imp_right (.imp_right fun h => by omega)

theorem roundRat_rne_of_nearestInt (h : NearestInt x n) : roundRat .rne x = n := by
  rcases le_or_gt (n : Rat) x with hle | hgt
  · rw [NearestInt, abs_of_nonneg (sub_nonneg.2 hle)] at h
    have hfloor : x.floor = n := floor_eq_of_le_of_lt hle (by rcases h with h | h <;> linarith)
    rw [roundRat, hfloor]
    obtain hlt | ⟨heq, heven⟩ := h
    · exact if_pos hlt
    · rw [if_neg heq.not_lt, if_neg heq.not_gt, if_pos heven]
  · rw [NearestInt, abs_of_neg (sub_neg.2 hgt)] at h
    have hfloor : x.floor = n - 1 := floor_eq_of_le_of_lt (by push_cast; rcases h with h | h <;> linarith) (by push_cast; linarith)
    have hfrac : x - (n - 1 : Int) = 1 - -(x - n) := by push_cast; ring
    rw [roundRat, hfloor, hfrac, sub_add_cancel]
    obtain hlt | ⟨heq, heven⟩ := h
    · rw [if_neg (by linarith), if_pos (by linarith)]
    · have hodd : ¬ (n - 1) % 2 = 0 := by omega
      rw [if_neg (by linarith), if_neg (by linarith), if_neg hodd]

/-- Toward zero, a negative number is rounded up. -/
theorem roundRat_rtz_neg (hx : 0 ≤ x) : roundRat .rtz (-x) = -x.floor := by
  rw [roundRat, ceil_neg]
  split
  case isTrue h =>
    obtain rfl : x = 0 := by linarith
    rfl
  case isFalse => rfl

end

/-- The multiples of the quantum 1 are the integers. -/
theorem multiple_zero (k : Nat) : multiple 0 k = (k : Int) := by simp [multiple]

section
variable {rm : Rm} {x : Rat} {k : Nat} {r : Nat × Bool}

theorem nonneg_of_roundsTo (h : RoundsTo rm (multiple 0) x k r) : 0 ≤ x := by
  refine le_trans ?_ h.lower
  rw [multiple_zero]
  positivity

theorem floor_of_roundsTo_down (hrm : rm = .rtz ∨ rm = .rdn) (h : RoundsTo rm (multiple 0) x k r) : x.floor = r.1 := by
  obtain ⟨hlo, hhi, -, hup⟩ := h
  obtain ⟨hr, -⟩ : r.1 = k ∧ _ := hup.resolve_right fun h => by obtain rfl | rfl := hrm <;> exact h.2
  rw [multiple_zero] at hlo hhi
  push_cast at hhi
  rw [hr]
  exact floor_eq_of_le_of_lt hlo hhi

theorem ceil_of_roundsTo_up (h : RoundsTo .rup (multiple 0) x k r) : x.ceil = r.1 := by
  obtain ⟨hlo, hhi, -, ⟨hr, hdown⟩ | ⟨hr, hup⟩⟩ := h <;> rw [multiple_zero] at hlo hhi
  · have hx : multiple 0 k = x := not_not.1 hdown
    rw [multiple_zero] at hx
    rw [hr]
    exact ceil_eq_of_lt_of_le (by linarith) hx.ge
  · have hlt : ((k : Int) : Rat) < x := lt_of_le_of_ne hlo (multiple_zero k ▸ hup)
    rw [hr]
    exact ceil_eq_of_lt_of_le (by push_cast at hlt ⊢; linarith) hhi.le

theorem nearestInt_of_roundsTo (h : RoundsTo .rne (multiple 0) x k r) : NearestInt x r.1 := by
  obtain ⟨hlo, hhi, -, hup⟩ := h
  simp only [GoesUp, multiple_zero, not_or, not_and] at hlo hhi hup
  push_cast at hlo hhi hup
  obtain ⟨hr, hmid, htie⟩ | ⟨hr, hup⟩ := hup <;> rw [hr, NearestInt]
  · rw [abs_of_nonneg (by push_cast; linarith)]
    push_cast
    rcases (not_lt.1 hmid).lt_or_eq with hlt | heq
    · exact .inl (by linarith)
    · have heven := htie heq.symm
      exact .inr ⟨by linarith, by omega⟩
  · rw [abs_of_neg (by push_cast; linarith)]
    push_cast
    obtain hlt | ⟨heq, hodd⟩ := hup
    · exact .inl (by linarith)
    · exact .inr ⟨by linarith, by omega⟩

/-- The neighbour among the integers that a mode takes is the rounded number (R77). -/
theorem roundRat_of_roundsTo (h : RoundsTo rm (multiple 0) x k r) : roundRat rm x = r.1 := by
  cases rm with
  | rne => exact roundRat_rne_of_nearestInt (nearestInt_of_roundsTo h)
  | rtz => exact (if_pos (nonneg_of_roundsTo h)).trans (floor_of_roundsTo_down (.inl rfl) h)
  | rup => exact ceil_of_roundsTo_up h
  | rdn => exact floor_of_roundsTo_down (.inr rfl) h

/-- A negative number rounds to the negated neighbour that the opposite mode takes. -/
theorem roundRat_neg_of_roundsTo (h : RoundsTo (oppositeMode rm) (multiple 0) x k r) : roundRat rm (-x) = -r.1 := by
  cases rm with
  | rne => exact roundRat_rne_of_nearestInt (nearestInt_neg (nearestInt_of_roundsTo h))
  | rtz => rw [roundRat_rtz_neg (nonneg_of_roundsTo h), floor_of_roundsTo_down (.inl rfl) h]
  | rup => rw [roundRat, ceil_neg, floor_of_roundsTo_down (.inr rfl) h]
  | rdn => rw [roundRat, floor_neg, ceil_of_roundsTo_up h]

/-- A neighbour taken differs from the number exactly when the number is no integer. -/
theorem inexact_iff_ne_of_roundsTo (h : RoundsTo rm (multiple 0) x k r) : r.2 = true ↔ ((r.1 : Int) : Rat) ≠ x := by
  obtain ⟨-, hhi, hne, ⟨hr, -⟩ | ⟨hr, hup⟩⟩ := h <;> rw [hr, ← multiple_zero]
  · exact hne
  · exact iff_of_true (hne.2 fun heq => not_goesUp_of_eq _ _ heq hhi hup) hhi.ne'

end

/-- THE ROUNDING OF A FINITE VALUE TO AN INTEGER, whether it is exact included. -/
theorem roundAt_zero (rm : Rm) (b : Bool) (m : Nat) (e : Int) :
    roundRat rm (dyadic b m e) = (if b then -((roundAt rm b m e 0).1 : Int) else (roundAt rm b m e 0).1) ∧
    ((roundAt rm b m e 0).2 = true ↔ (roundRat rm (dyadic b m e) : Rat) ≠ dyadic b m e) := by
  cases b with
  | false =>
    obtain ⟨k, h⟩ := roundAt_roundsTo rm m e 0
    have hx : dyadic false m e = m * 2 ^ e := by simp [dyadic, signRat]
    rw [hx, roundRat_of_roundsTo h]
    exact ⟨rfl, inexact_iff_ne_of_roundsTo h⟩
  | true =>
    obtain ⟨k, h⟩ := roundAt_roundsTo (oppositeMode rm) m e 0
    have hx : dyadic true m e = -(m * 2 ^ e) := by simp [dyadic, signRat]
    rw [hx, roundAt_opposite, roundRat_neg_of_roundsTo h, Int.cast_neg]
    exact ⟨rfl, (inexact_iff_ne_of_roundsTo h).trans neg_inj.not.symm⟩

/-! ### FP32 to an integer -/

section
variable {m : Rmu} {lo hi : Int} {x : Word}

theorem fToInt_of_fin {b : Bool} {n : Nat} {e : Int} (h : readF x = .fin b n e) :
    fToInt m lo hi x = convertRat (rmuMode m) lo hi (dyadic b n e) := by
  obtain ⟨hv, hnx⟩ := roundAt_zero (rmuMode m) b n e
  have hflag : flagIf (roundAt (rmuMode m) b n e 0).2 flagNX =
      if (roundRat (rmuMode m) (dyadic b n e) : Rat) = dyadic b n e then 0 else 1 := by
    cases hr : (roundAt (rmuMode m) b n e 0).2 with
    | false => rw [if_pos (not_not.1 (hnx.not.1 (by rw [hr]; exact Bool.false_ne_true)))]; rfl
    | true => rw [if_neg (hnx.1 hr)]; rfl
  unfold fToInt convertRat
  rw [h]
  dsimp only
  rw [← hv, hflag]
  rfl

/-- An encoding without a value is an infinity, or a NaN (R74, R76). -/
theorem fToInt_of_not_finite (h : ratOf x = none) :
    fToInt m lo hi x = (if x.toNat % 2 ^ 23 ≠ 0 then 0 else if x.getLsbD 31 then lo else hi, flagNV) := by
  rw [ratOf_eq] at h
  obtain ⟨hfin, -⟩ | ⟨hmag, hread⟩ | ⟨hmag, hread⟩ := readF_cases x
  · rw [if_pos hfin] at h; exact nomatch h
  · have hzero : ¬ x.toNat % 2 ^ 23 ≠ 0 := by omega
    rw [if_neg hzero, fToInt, hread]
  · have hnan : x.toNat % 2 ^ 23 ≠ 0 := by omega
    rw [if_pos hnan, fToInt, hread]

end

/-- Settles O28: an integer is a dyadic number that is rounded once, and a finite value rounds to one of its neighbours among the integers. -/
theorem integerConversions : Obligations.IntegerConversions := by
  refine ⟨fun m n _ => ?_, fun m lo hi x a _ _ hx => ?_, fun m lo hi x _ _ hx => fToInt_of_not_finite hx⟩
  · have hdelivers := delivers_roundInt (rmuMode m) false n 0
    rwa [zpow_zero, mul_one] at hdelivers
  · obtain ⟨_, _, _, hread, rfl⟩ := readF_of_ratOf hx
    exact fToInt_of_fin hread

end Sys2Proof.Machine
end

section
/-! SUPPORT. Bit strings by their bits: the number that `ofBits` gives, a field replaced, bits counted, and shifts as products and quotients
(R118 to R122). -/

namespace Sys2Proof.Machine

/-! ### A number given by its bits -/

/-- A number below `2^n` by its bits: the low bits of a string that has them. -/
theorem ofBits_eq_mod {w n : Nat} {f : Nat → Bool} {x : BitVec w} (h : ∀ k < n, x.getLsbD k = f k) :
    ofBits n f = (x.toNat % 2 ^ n : Nat) := by
  induction n with
  | zero => simp [ofBits, Nat.mod_one]
  | succ n ih =>
    have hlow := ih fun k hk => h k (hk.trans n.lt_succ_self)
    have hbit : (if f n then (2 : Int) ^ n else 0) = (2 ^ n * (x.toNat / 2 ^ n % 2) : Nat) := by
      rw [← h n n.lt_succ_self, ← BitVec.testBit_toNat, ← Nat.toNat_testBit]
      cases x.toNat.testBit n <;> simp
    unfold ofBits at hlow ⊢
    rw [List.sum_range_succ, hlow, hbit, Nat.mod_pow_succ, Nat.cast_add]

/-- A bit string is what the number with its bits becomes. -/
theorem eq_ofInt_ofBits {n : Nat} {x : BitVec n} {f : Nat → Bool} (h : ∀ k < n, x.getLsbD k = f k) : x = BitVec.ofInt n (ofBits n f) := by
  rw [ofBits_eq_mod h, Nat.mod_eq_of_lt x.isLt, ofInt_toNat]

/-- The bits of an operand's word. -/
theorem getLsbD_lowWord {k : Nat} (hk : k < 32) (x : DWord) : (lowWord x).getLsbD k = x.getLsbD k := by
  rw [lowWord, BitVec.getLsbD_setWidth, decide_eq_true hk, Bool.true_and]

/-! ### A field replaced (R121, R158) -/

/-- A number whose `w` bits from `p` on have been replaced: what lies above, the new bits, and what lies below. -/
theorem replace_eq (d x p w : Nat) :
    d - d / 2 ^ p % 2 ^ w * 2 ^ p + x % 2 ^ w * 2 ^ p = 2 ^ p * (2 ^ w * (d / 2 ^ p / 2 ^ w) + x % 2 ^ w) + d % 2 ^ p := by
  have hd : 2 ^ p * (2 ^ w * (d / 2 ^ p / 2 ^ w) + d / 2 ^ p % 2 ^ w) + d % 2 ^ p = d := by
    rw [Nat.div_add_mod, Nat.div_add_mod]
  have hcleared : d - d / 2 ^ p % 2 ^ w * 2 ^ p = 2 ^ p * (2 ^ w * (d / 2 ^ p / 2 ^ w)) + d % 2 ^ p := by
    rw [mul_add] at hd
    rw [mul_comm _ (2 ^ p)]
    omega
  rw [hcleared]
  ring

theorem testBit_replace (d x p w k : Nat) :
    (d - d / 2 ^ p % 2 ^ w * 2 ^ p + x % 2 ^ w * 2 ^ p).testBit k = if p ≤ k ∧ k < p + w then x.testBit (k - p) else d.testBit k := by
  have hlow : d % 2 ^ p < 2 ^ p := Nat.mod_lt _ (by positivity)
  have hfield : x % 2 ^ w < 2 ^ w := Nat.mod_lt _ (by positivity)
  rw [replace_eq, Nat.testBit_two_pow_mul_add _ hlow, Nat.testBit_two_pow_mul_add _ hfield]
  by_cases hp : k < p
  · rw [if_pos hp, if_neg (by omega), Nat.testBit_mod_two_pow, decide_eq_true hp, Bool.true_and]
  · rw [if_neg hp]
    by_cases hw : k - p < w
    · rw [if_pos hw, if_pos (by omega), Nat.testBit_mod_two_pow, decide_eq_true hw, Bool.true_and]
    · have hk : p + (w + (k - p - w)) = k := by omega
      rw [if_neg hw, if_neg (by omega), Nat.testBit_div_two_pow, Nat.testBit_div_two_pow, add_comm _ w, add_comm _ p, hk]

/-! ### Bits counted and reversed (R122) -/

/-- As many elements as precede the first of a range that fails a test. -/
theorem length_takeWhile_range {n c : Nat} {p : Nat → Bool} (hc : c ≤ n) (hall : ∀ k < c, p k = true) (hend : c < n → p c = false) :
    ((List.range n).takeWhile p).length = c := by
  obtain rfl | hlt := hc.eq_or_lt
  · rw [List.takeWhile_eq_self_iff.2 fun k hk => hall k (List.mem_range.1 hk), List.length_range]
  · have hfind : (List.range n).findIdx (fun k => !p k) = c := by
      rw [List.findIdx_eq (by simpa using hlt)]
      simp only [List.getElem_range, hend hlt]
      exact ⟨rfl, fun j hj => by rw [hall j hj]; rfl⟩
    rw [List.takeWhile_eq_take_findIdx_not, hfind, List.length_take, List.length_range, Nat.min_eq_left hc]

theorem bitLen_le (x : Word) : bitLen x.toNat ≤ 32 := by
  unfold bitLen
  split
  case isTrue => exact Nat.zero_le _
  case isFalse h => exact (Nat.log2_lt h).2 x.isLt

/-- The clear bits above the highest set one. -/
theorem length_leadingZeros (x : Word) : ((List.range 32).takeWhile fun k => !x.getLsbD (31 - k)).length = 32 - bitLen x.toNat := by
  have hle := bitLen_le x
  refine length_takeWhile_range (Nat.sub_le ..) (fun k hk => ?_) fun hlt => ?_
  · have habove : x.toNat < 2 ^ (31 - k) := (lt_two_pow_bitLen _).trans_le (Nat.pow_le_pow_right two_pos (by omega))
    rw [← BitVec.testBit_toNat, Nat.testBit_lt_two_pow habove]
    rfl
  · have hne : x.toNat ≠ 0 := fun h => by rw [h] at hlt; exact absurd hlt (by decide)
    have htop : 31 - (32 - bitLen x.toNat) = x.toNat.log2 := by
      rw [bitLen, if_neg hne] at hle hlt ⊢
      omega
    rw [htop, ← BitVec.testBit_toNat, Nat.testBit_log2 hne]
    rfl

/-- CTZ walks up past the clear bits. -/
theorem lowestBit_eq {x : Word} {p : Nat → Bool} (n i : Nat) (h : ∀ k, k < i + n → p k = !x.getLsbD k) :
    lowestBit x n i = i + ((List.range' i n).takeWhile p).length := by
  induction n generalizing i with
  | zero => rfl
  | succ n ih =>
    rw [lowestBit, List.range'_succ, List.takeWhile_cons, h i (by omega)]
    cases x.getLsbD i with
    | true => rfl
    | false => exact (ih (i + 1) fun k hk => h k (by omega)).trans (by simp [add_assoc, add_comm])

/-- Bits taken in turn, each below those before it, stand in the reverse order. -/
theorem testBit_foldl_double (f : Nat → Bool) (n k : Nat) :
    ((List.range n).foldl (fun v i => 2 * v + (if f i then 1 else 0)) 0).testBit k = (decide (k < n) && f (n - 1 - k)) := by
  induction n generalizing k with
  | zero => simp
  | succ n ih =>
    rw [List.range_succ, List.foldl_append, List.foldl_cons, List.foldl_nil]
    cases k with
    | zero =>
      rw [Nat.testBit_zero]
      cases h : f n <;> simp [h]
    | succ k =>
      have hhalf (v : Nat) : (2 * v + (if f n then 1 else 0)) / 2 = v := by split <;> omega
      have hplace : n + 1 - 1 - (k + 1) = n - 1 - k := by omega
      rw [Nat.testBit_succ, hhalf, ih, hplace, decide_eq_decide.2 Nat.succ_lt_succ_iff]

/-! ### Shifts as products and quotients (R119, R120) -/

section
variable {n : Nat} (x : BitVec n) (s : Nat)

theorem shiftLeft_eq_ofInt : x <<< s = BitVec.ofInt n (x.toNat * 2 ^ s) := by
  have hcast : (x.toNat : Int) * 2 ^ s = (x.toNat * 2 ^ s : Nat) := by push_cast; rfl
  refine BitVec.eq_of_toNat_eq ?_
  rw [hcast, BitVec.ofInt_natCast, BitVec.toNat_shiftLeft, BitVec.toNat_ofNat, Nat.shiftLeft_eq]

theorem ushiftRight_eq_ofInt : x >>> s = BitVec.ofInt n (x.toNat / 2 ^ s) := by
  have hcast : (x.toNat : Int) / 2 ^ s = (x >>> s).toNat := by rw [BitVec.toNat_ushiftRight, Nat.shiftRight_eq_div_pow]; push_cast; rfl
  rw [hcast, ofInt_toNat]

theorem sshiftRight_eq_ofInt : x.sshiftRight s = BitVec.ofInt n (x.toInt / 2 ^ s) := by
  have hcast : x.toInt / 2 ^ s = (x.sshiftRight s).toInt := by
    rw [BitVec.toInt_sshiftRight, Int.shiftRight_eq_div_pow, Nat.cast_pow, Nat.cast_ofNat]
  rw [hcast, BitVec.ofInt_toInt]

/-- An amount at or beyond the width gives 0. -/
theorem ofInt_ite_zero (w : Nat) (b : DWord) {z : BitVec n} {v : Int} (h : z = BitVec.ofInt n v) :
    (if w ≤ (lowWord b).toNat then 0 else z) = BitVec.ofInt n (if w ≤ u32 b then 0 else v) := by
  rw [u32_eq_toNat_lowWord, apply_ite (BitVec.ofInt n), h]
  simp only [Nat.cast_le]
  rfl

end

end Sys2Proof.Machine
end

section
/-! CLAIM. Logic, shifts, rotations, bit fields and bit counts of both sets (R118 to R122). -/

namespace Sys2Proof.Machine

/-! ### The operations on the numbers of their operands -/

section
variable (a b d : DWord)

theorem and_lowWord : lowWord a &&& lowWord b = BitVec.ofInt 32 (ofBits 32 fun k => a.getLsbD k && b.getLsbD k) :=
  eq_ofInt_ofBits fun k hk => by rw [BitVec.getLsbD_and, getLsbD_lowWord hk, getLsbD_lowWord hk]

theorem or_lowWord : lowWord a ||| lowWord b = BitVec.ofInt 32 (ofBits 32 fun k => a.getLsbD k || b.getLsbD k) :=
  eq_ofInt_ofBits fun k hk => by rw [BitVec.getLsbD_or, getLsbD_lowWord hk, getLsbD_lowWord hk]

theorem xor_lowWord : lowWord a ^^^ lowWord b = BitVec.ofInt 32 (ofBits 32 fun k => a.getLsbD k != b.getLsbD k) :=
  eq_ofInt_ofBits fun k hk => by rw [BitVec.getLsbD_xor, getLsbD_lowWord hk, getLsbD_lowWord hk]

theorem not_lowWord : ~~~lowWord a = BitVec.ofInt 32 (ofBits 32 fun k => !a.getLsbD k) :=
  eq_ofInt_ofBits fun k hk => by rw [BitVec.getLsbD_not, decide_eq_true hk, Bool.true_and, getLsbD_lowWord hk]

theorem andn_lowWord : lowWord a &&& ~~~lowWord b = BitVec.ofInt 32 (ofBits 32 fun k => a.getLsbD k && !b.getLsbD k) :=
  eq_ofInt_ofBits fun k hk => by
    rw [BitVec.getLsbD_and, BitVec.getLsbD_not, decide_eq_true hk, Bool.true_and, getLsbD_lowWord hk, getLsbD_lowWord hk]

theorem shlOp_eq : shlOp (lowWord a) (lowWord b) = BitVec.ofInt 32 (if 32 ≤ u32 b then 0 else u32 a * 2 ^ (u32 b).toNat) :=
  ofInt_ite_zero 32 b (by rw [u32_eq_toNat_lowWord, u32_eq_toNat_lowWord, shiftLeft_eq_ofInt, Int.toNat_natCast])

theorem shrOp_eq : shrOp (lowWord a) (lowWord b) = BitVec.ofInt 32 (if 32 ≤ u32 b then 0 else u32 a / 2 ^ (u32 b).toNat) :=
  ofInt_ite_zero 32 b (by rw [u32_eq_toNat_lowWord, u32_eq_toNat_lowWord, ushiftRight_eq_ofInt, Int.toNat_natCast])

/-- An amount brought down to the width less one. -/
theorem toNat_min_u32 (w : Nat) : (min (u32 b) w).toNat = min (lowWord b).toNat w := by
  rw [u32_eq_toNat_lowWord]; omega

theorem sarOp_eq : sarOp (lowWord a) (lowWord b) = BitVec.ofInt 32 (s32 a / 2 ^ (min (u32 b) 31).toNat) := by
  rw [s32_eq_toInt_lowWord]
  exact toNat_min_u32 b 31 ▸ sshiftRight_eq_ofInt ..

theorem dshlOp_eq : dshlOp a (lowWord b) = BitVec.ofInt 64 (if 64 ≤ u32 b then 0 else u64 a * 2 ^ (u32 b).toNat) :=
  ofInt_ite_zero 64 b (by rw [u32_eq_toNat_lowWord, shiftLeft_eq_ofInt, Int.toNat_natCast, u64])

theorem dshrOp_u : dshrOp .u a (lowWord b) = BitVec.ofInt 64 (if 64 ≤ u32 b then 0 else u64 a / 2 ^ (u32 b).toNat) :=
  ofInt_ite_zero 64 b (by rw [u32_eq_toNat_lowWord, ushiftRight_eq_ofInt, Int.toNat_natCast, u64])

theorem dshrOp_s : dshrOp .s a (lowWord b) = BitVec.ofInt 64 (s64 a / 2 ^ (min (u32 b) 63).toNat) := by
  rw [s64_eq_toInt]
  exact toNat_min_u32 b 63 ▸ sshiftRight_eq_ofInt ..

/-- A bit that a rotation takes from one of two places, written as one place. -/
theorem cond_getLsbD {x : Word} {k r p q t : Nat} (hk : k < 32) (hp : k < r → p = t) (hq : r ≤ k → q = t) :
    (bif decide (k < r) then x.getLsbD p else decide (k < 32) && x.getLsbD q) = x.getLsbD t := by
  by_cases h : k < r
  · rw [decide_eq_true h, hp h]; rfl
  · rw [decide_eq_false h, decide_eq_true hk, hq (not_lt.1 h)]; rfl

theorem rolOp_eq : rolOp (lowWord a) (lowWord b) =
    BitVec.ofInt 32 (ofBits 32 fun k => a.getLsbD ((k + 32 - (u32 b).toNat % 32) % 32)) :=
  eq_ofInt_ofBits fun k hk => by
    rw [u32_eq_toNat_lowWord, Int.toNat_natCast, rolOp, BitVec.getLsbD_rotateLeft, ← getLsbD_lowWord (Nat.mod_lt _ (by decide))]
    exact cond_getLsbD hk (by omega) (by omega)

theorem rorOp_eq : rorOp (lowWord a) (lowWord b) = BitVec.ofInt 32 (ofBits 32 fun k => a.getLsbD ((k + (u32 b).toNat % 32) % 32)) :=
  eq_ofInt_ofBits fun k hk => by
    rw [u32_eq_toNat_lowWord, Int.toNat_natCast, rorOp, BitVec.getLsbD_rotateRight, ← getLsbD_lowWord (Nat.mod_lt _ (by decide))]
    exact cond_getLsbD hk (by omega) (by omega)

/-- The bit field that B describes (R121). -/
theorem fieldOf_eq : fieldOf b = (fieldPos (lowWord b), fieldWidth (lowWord b)) := by
  simp [fieldOf, u32_eq_toNat_lowWord, fieldPos, fieldWidth, wfield]

/-- The bits of a field as a number. -/
theorem natCast_field (x p w : Nat) : ((x / 2 ^ p % 2 ^ w : Nat) : Int) = x / 2 ^ p % 2 ^ w := by push_cast; rfl

theorem bfxOp_u : bfxOp .u (lowWord a) (lowWord b) = BitVec.ofInt 32 (u32 a / 2 ^ (fieldOf b).1 % 2 ^ (fieldOf b).2) := by
  rw [fieldOf_eq, u32_eq_toNat_lowWord, ← natCast_field, BitVec.ofInt_natCast]
  refine ite_eq_right_iff.2 fun h => ?_
  rw [h, pow_zero, Nat.mod_one]
  rfl

/-- A number of `w` bits read as signed. -/
theorem signedOf_eq (w f : Nat) : signedOf w f = if (2 : Int) ^ (w - 1) ≤ f then (f : Int) - 2 ^ w else f := by
  have hpow : (2 : Int) ^ (w - 1) ≤ f ↔ ¬ f < 2 ^ (w - 1) := by rw [not_lt]; exact_mod_cast Iff.rfl
  rw [if_congr hpow rfl rfl, ite_not, signedOf]
  push_cast
  rfl

theorem bfxOp_s : bfxOp .s (lowWord a) (lowWord b) = BitVec.ofInt 32
    (let f := u32 a / 2 ^ (fieldOf b).1 % 2 ^ (fieldOf b).2
      if (fieldOf b).2 ≠ 0 ∧ 2 ^ ((fieldOf b).2 - 1) ≤ f then f - 2 ^ (fieldOf b).2 else f) := by
  rw [fieldOf_eq, u32_eq_toNat_lowWord, ← natCast_field]
  by_cases h : fieldWidth (lowWord b) = 0
  · simp [bfxOp, h]
  · simp only [h, ne_eq, not_false_eq_true, true_and, ← signedOf_eq]
    exact if_neg h

theorem bfiOp_eq : bfiOp (lowWord a) (lowWord b) (lowWord d) = BitVec.ofInt 32 (ofBits 32 fun k =>
    if (fieldOf b).1 ≤ k ∧ k < (fieldOf b).1 + (fieldOf b).2 then a.getLsbD (k - (fieldOf b).1) else d.getLsbD k) :=
  eq_ofInt_ofBits fun k hk => by
    rw [fieldOf_eq, bfiOp, BitVec.getLsbD_ofNat, decide_eq_true hk, Bool.true_and, testBit_replace, BitVec.testBit_toNat,
      BitVec.testBit_toNat, getLsbD_lowWord hk, getLsbD_lowWord (by omega)]

theorem popcOp_eq : popcOp (lowWord a) = BitVec.ofInt 32 ((List.range 32).countP fun k => a.getLsbD k : Nat) := by
  have hcount : (List.range 32).countP (fun k => a.getLsbD k) = (List.range 32).countP fun k => (lowWord a).getLsbD k :=
    List.countP_congr fun k hk => by rw [getLsbD_lowWord (List.mem_range.1 hk)]
  rw [hcount, popcOp, ← BitVec.ofInt_natCast, List.countP_eq_length_filter]

theorem clzOp_eq : clzOp (lowWord a) = BitVec.ofInt 32 ((List.range 32).takeWhile fun k => !a.getLsbD (31 - k)).length := by
  have hbits : (fun k => !(lowWord a).getLsbD (31 - k)) = fun k => !a.getLsbD (31 - k) :=
    funext fun k => by rw [getLsbD_lowWord (by omega)]
  rw [clzOp, ← BitVec.ofInt_natCast, ← length_leadingZeros, hbits]

theorem ctzOp_eq : ctzOp (lowWord a) = BitVec.ofInt 32 ((List.range 32).takeWhile fun k => !a.getLsbD k).length := by
  rw [ctzOp, ← BitVec.ofInt_natCast, lowestBit_eq (p := fun k => !a.getLsbD k) 32 0 fun k hk => by rw [getLsbD_lowWord (by omega)],
    Nat.zero_add, List.range_eq_range']

theorem brevOp_eq : brevOp (lowWord a) = BitVec.ofInt 32 (ofBits 32 fun k => a.getLsbD (31 - k)) :=
  eq_ofInt_ofBits fun k hk => by
    rw [brevOp, BitVec.getLsbD_ofNat, decide_eq_true hk, testBit_foldl_double, decide_eq_true hk, Bool.true_and, Bool.true_and,
      getLsbD_lowWord (by omega)]

end

/-- Settles O24: each operation is the word of the bits, the quotient, the product or the count that its rule gives, whichever set it belongs
to. -/
theorem bitResults : Obligations.BitResults := by
  intro i code f g h
  cases i with
  | and d a b | teamAnd d a b => cases h; exact ⟨rfl, completes_word rfl rfl fun v => and_lowWord v.a v.b⟩
  | or d a b | teamOr d a b => cases h; exact ⟨rfl, completes_word rfl rfl fun v => or_lowWord v.a v.b⟩
  | xor d a b | teamXor d a b => cases h; exact ⟨rfl, completes_word rfl rfl fun v => xor_lowWord v.a v.b⟩
  | andn d a b | teamAndn d a b => cases h; exact ⟨rfl, completes_word rfl rfl fun v => andn_lowWord v.a v.b⟩
  | not d a | teamNot d a => cases h; exact ⟨rfl, completes_word rfl rfl fun v => not_lowWord v.a⟩
  | shl d a b | teamShl d a b => cases h; exact ⟨rfl, completes_word rfl rfl fun v => shlOp_eq v.a v.b⟩
  | shr d a b | teamShr d a b => cases h; exact ⟨rfl, completes_word rfl rfl fun v => shrOp_eq v.a v.b⟩
  | sar d a b | teamSar d a b => cases h; exact ⟨rfl, completes_word rfl rfl fun v => sarOp_eq v.a v.b⟩
  | rol d a b | teamRol d a b => cases h; exact ⟨rfl, completes_word rfl rfl fun v => rolOp_eq v.a v.b⟩
  | ror d a b | teamRor d a b => cases h; exact ⟨rfl, completes_word rfl rfl fun v => rorOp_eq v.a v.b⟩
  | bfx d a b m | teamBfx d a b m =>
    cases m with
    | s => cases h; exact ⟨rfl, completes_word rfl rfl fun v => bfxOp_s v.a v.b⟩
    | u => cases h; exact ⟨rfl, completes_word rfl rfl fun v => bfxOp_u v.a v.b⟩
  | bfi d a b | teamBfi d a b => cases h; exact ⟨rfl, completes_word rfl rfl fun v => bfiOp_eq v.a v.b v.d⟩
  | popc d a | teamPopc d a => cases h; exact ⟨rfl, completes_word rfl rfl fun v => popcOp_eq v.a⟩
  | clz d a | teamClz d a => cases h; exact ⟨rfl, completes_word rfl rfl fun v => clzOp_eq v.a⟩
  | ctz d a | teamCtz d a => cases h; exact ⟨rfl, completes_word rfl rfl fun v => ctzOp_eq v.a⟩
  | brev d a | teamBrev d a => cases h; exact ⟨rfl, completes_word rfl rfl fun v => brevOp_eq v.a⟩
  | dshl d a b | teamDshl d a b => cases h; exact ⟨rfl, completes_dword rfl rfl fun v => dshlOp_eq v.a v.b⟩
  | dshr d a b m | teamDshr d a b m =>
    cases m with
    | s => cases h; exact ⟨rfl, completes_dword rfl rfl fun v => dshrOp_s v.a v.b⟩
    | u => cases h; exact ⟨rfl, completes_dword rfl rfl fun v => dshrOp_u v.a v.b⟩
  | _ => cases h

end Sys2Proof.Machine
end

section
/-! CLAIM. Comparisons, selection, moves, extensions and LDI of both sets (R123 to R127). -/

namespace Sys2Proof.Machine

/-! ### Comparisons (R123) -/

theorem truth_eq_ofInt_oneIf {b : Bool} {p : Prop} [Decidable p] (h : b = true ↔ p) : truth b = BitVec.ofInt 32 (oneIf p) := by
  rw [truth, oneIf, if_congr h rfl rfl]
  split <;> rfl

theorem truth_iccHolds {n : Nat} (c : Icc) (x y : BitVec n) :
    truth (iccHolds c x y) = BitVec.ofInt 32 (compares c x.toInt y.toInt x.toNat y.toNat) := by
  have heq : ((x.toNat : Int) = y.toNat) ↔ x = y := Nat.cast_inj.trans BitVec.toNat_inj
  have hnot {b : Bool} {p : Prop} (h : b = true ↔ p) : (!b) = true ↔ ¬ p := by rw [Bool.not_eq_true', ← h, Bool.not_eq_true]
  cases c with
  | eq => exact truth_eq_ofInt_oneIf (beq_iff_eq.trans heq.symm)
  | ne => exact truth_eq_ofInt_oneIf (bne_iff_ne.trans heq.not.symm)
  | lt => exact truth_eq_ofInt_oneIf BitVec.slt_iff_toInt_lt
  | ge => exact truth_eq_ofInt_oneIf ((hnot BitVec.slt_iff_toInt_lt).trans not_lt)
  | ltu => exact truth_eq_ofInt_oneIf (BitVec.ult_iff_toNat_lt.trans Nat.cast_lt.symm)
  | geu => exact truth_eq_ofInt_oneIf ((hnot BitVec.ult_iff_toNat_lt).trans (not_lt.trans Nat.cast_le.symm))

/-! ### Low bits read as signed (R127) -/

/-- The signed reading of a string that holds the low bits of a number. -/
theorem toInt_eq_lowSigned {n v : Nat} {y : BitVec (n + 1)} (h : y.toNat = v % 2 ^ (n + 1)) : y.toInt = lowSigned (n + 1) v := by
  have hmod : (v : Int) % 2 ^ (n + 1) = y.toNat := by rw [h]; push_cast; rfl
  have hhalf : (2 : Int) ^ n ≤ y.toNat ↔ ¬ 2 * y.toNat < 2 ^ (n + 1) := by
    rw [pow_succ', not_lt, Nat.mul_le_mul_left_iff two_pos]
    exact_mod_cast Iff.rfl
  rw [lowSigned, hmod, Nat.add_sub_cancel, if_congr hhalf rfl rfl, ite_not, BitVec.toInt_eq_toNat_cond]
  push_cast
  rfl

section
variable (a b d : DWord)

theorem icmp_eq (c : Icc) : truth (iccHolds c (lowWord a) (lowWord b)) = BitVec.ofInt 32 (compares c (s32 a) (s32 b) (u32 a) (u32 b)) := by
  rw [s32_eq_toInt_lowWord, s32_eq_toInt_lowWord, u32_eq_toNat_lowWord, u32_eq_toNat_lowWord, truth_iccHolds]

theorem dcmp_eq (c : Icc) : truth (iccHolds c a b) = BitVec.ofInt 32 (compares c (s64 a) (s64 b) (u64 a) (u64 b)) := by
  rw [s64_eq_toInt, s64_eq_toInt, truth_iccHolds, u64, u64]

/-- A word is what its number becomes. -/
theorem lowWord_eq_ofInt : lowWord a = BitVec.ofInt 32 (u32 a) := by rw [u32_eq_toNat_lowWord, ofInt_toNat]

theorem sel_eq : (if lowWord d ≠ 0 then lowWord a else lowWord b) = BitVec.ofInt 32 (if u32 d ≠ 0 then u32 a else u32 b) := by
  have hzero : u32 d ≠ 0 ↔ lowWord d ≠ 0 := by
    rw [u32_eq_toNat_lowWord, Nat.cast_ne_zero]
    exact BitVec.toNat_inj (y := 0).not
  rw [apply_ite (BitVec.ofInt 32), ← lowWord_eq_ofInt, ← lowWord_eq_ofInt, if_congr hzero rfl rfl]

theorem extOp_sb : extOp .sb (lowWord a) = BitVec.ofInt 32 (lowSigned 8 (u32 a)) := by
  rw [u32_eq_toNat_lowWord, ← toInt_eq_lowSigned (BitVec.toNat_setWidth 8 (lowWord a))]; rfl

theorem extOp_sh : extOp .sh (lowWord a) = BitVec.ofInt 32 (lowSigned 16 (u32 a)) := by
  rw [u32_eq_toNat_lowWord, ← toInt_eq_lowSigned (BitVec.toNat_setWidth 16 (lowWord a))]; rfl

/-- The low bits of a word, zero-extended. -/
theorem setWidth_setWidth_eq (n : Nat) : ((lowWord a).setWidth n).setWidth 32 = BitVec.ofInt 32 (u32 a % 2 ^ n) := by
  have hmod : u32 a % 2 ^ n = ((lowWord a).toNat % 2 ^ n : Nat) := by rw [u32_eq_toNat_lowWord]; push_cast; rfl
  rw [hmod, BitVec.ofInt_natCast, ← BitVec.toNat_setWidth, BitVec.ofNat_toNat]

theorem dextOp_eq (m : Sgn) : dextOp m (lowWord a) = BitVec.ofInt 64 (pick32 m a) := by
  rw [pick32_eq_readInt_lowWord]
  cases m with
  | s => rfl
  | u => exact (BitVec.ofNat_toNat ..).symm

end

/-- Settles O25: each operation is the word of the number that its rule gives, whichever set it belongs to. -/
theorem moveResults : Obligations.MoveResults := by
  intro i code f g h
  cases i with
  | icmp d a b c | teamIcmp d a b c => cases h; exact ⟨rfl, completes_word rfl rfl fun v => icmp_eq v.a v.b c⟩
  | dcmp d a b c | teamDcmp d a b c => cases h; exact ⟨rfl, completes_word rfl rfl fun v => dcmp_eq v.a v.b c⟩
  | sel d a b | teamSel d a b => cases h; exact ⟨rfl, completes_word rfl rfl fun v => sel_eq v.a v.b v.d⟩
  | mov d a | teamMov d a => cases h; exact ⟨rfl, completes_word rfl rfl fun v => lowWord_eq_ofInt v.a⟩
  | dmov d a | teamDmov d a => cases h; exact ⟨rfl, completes_dword rfl rfl fun v => (ofInt_toNat v.a).symm⟩
  | ext d a m | teamExt d a m =>
    cases m with
    | sb => cases h; exact ⟨rfl, completes_word rfl rfl fun v => extOp_sb v.a⟩
    | sh => cases h; exact ⟨rfl, completes_word rfl rfl fun v => extOp_sh v.a⟩
    | zb => cases h; exact ⟨rfl, completes_word rfl rfl fun v => setWidth_setWidth_eq v.a 8⟩
    | zh => cases h; exact ⟨rfl, completes_word rfl rfl fun v => setWidth_setWidth_eq v.a 16⟩
  | dext d a m | teamDext d a m => cases h; exact ⟨rfl, completes_dword rfl rfl fun v => dextOp_eq v.a m⟩
  | ldi d imm | teamLdi d imm => cases h; exact ⟨rfl, completes_word rfl rfl fun _ => congrArg (BitVec.ofInt 32) (lowSigned_toNat imm).symm⟩
  | _ => cases h

end Sys2Proof.Machine
end

section
/-! CLAIM. The floating-point and narrow-format instructions complete with the results and the flags of their operations (R129, R130, R145 to
R158). -/

namespace Sys2Proof.Machine

/-! ### Bytes packed and unpacked, and small integers read (R157, R158) -/

theorem bpackOp_eq (m : Byi) (x d : Word) : bpackOp m x d = BitVec.ofInt 32 (ofBits 32 fun k =>
    if 8 * byiIndex m ≤ k ∧ k < 8 * byiIndex m + 8 then x.getLsbD (k - 8 * byiIndex m) else d.getLsbD k) :=
  eq_ofInt_ofBits fun k hk => by
    rw [bpackOp, BitVec.getLsbD_ofNat, decide_eq_true hk, Bool.true_and]
    exact testBit_replace d.toNat x.toNat (8 * byiIndex m) 8 k

theorem bunpkOp_eq (m : Byx) (x : Word) : bunpkOp m x = BitVec.ofInt 32
    (if (byxIndex m).2 then (x.toNat : Int) / 2 ^ (8 * (byxIndex m).1) % 2 ^ 8
      else lowSigned 8 ((x.toNat : Int) / 2 ^ (8 * (byxIndex m).1))) := by
  rw [bunpkOp]
  generalize 8 * (byxIndex m).1 = p
  have hbyte : (x.extractLsb' p 8).toNat = x.toNat / 2 ^ p % 2 ^ 8 := by rw [BitVec.extractLsb'_toNat, Nat.shiftRight_eq_div_pow]
  have hcast : (x.toNat : Int) / 2 ^ p = (x.toNat / 2 ^ p : Nat) := by push_cast; rfl
  rw [hcast]
  split
  · have hmod : ((x.toNat / 2 ^ p : Nat) : Int) % 2 ^ 8 = (x.extractLsb' p 8).toNat := by rw [hbyte]; rfl
    rw [hmod, BitVec.ofInt_natCast, BitVec.ofNat_toNat]
  · rw [← toInt_eq_lowSigned hbyte]; rfl

/-- The low bits of a word as a signed integer. -/
theorem toInt_extractLsb' (n : Nat) (x : Word) : (x.extractLsb' 0 (n + 1)).toInt = lowSigned (n + 1) x.toNat :=
  toInt_eq_lowSigned (BitVec.extractLsb'_toNat ..)

/-! ### The instructions -/

/-- An instruction that completes with the result and the flags of an operation on the words of A, B and D (R29, R78). -/
def Delivering (i : Instr) (f : Form) (g : Word → Word → Word → FRes) : Prop :=
  ∀ (s : State) (tm : Team) (sl : Slice) (v : Vals), Gathers s f (.ok ()) tm sl v →
    exec i s = .next (finish f sl v ((g (lowWord v.a) (lowWord v.b) (lowWord v.d)).bits.setWidth 64)
      (g (lowWord v.a) (lowWord v.b) (lowWord v.d)).flags s)

theorem delivering_of_alu {i : Instr} {f : Form} {g : Word → Word → Word → FRes} {r : Vals → DWord × Word}
    (hexec : exec i = fun s => alu f s r)
    (hr : ∀ v, r v = ((g (lowWord v.a) (lowWord v.b) (lowWord v.d)).bits.setWidth 64,
      (g (lowWord v.a) (lowWord v.b) (lowWord v.d)).flags)) :
    Delivering i f g := fun s tm sl v hg => by
  rw [congrFun hexec s, alu_of_gathers hg, hr]

/-- A word as a result without flags. -/
def ofWord (w : Word) : DWord × Word := (w.setWidth 64, 0)

theorem delivering_of_floatRule {i : Instr} {f : Form} {g : Word → Word → Word → FRes} (h : floatRule i = some (f, g)) : Delivering i f g := by
  cases i with
  | fadd d a b m | fsub d a b m | fmul d a b m | fdiv d a b m | fmac d a b m | fnmac d a b m | fscl d a b m | fcmp d a b m | qnt8 d a b m
    | qnt4 d a b m => cases h; exact delivering_of_alu rfl fun _ => rfl
  | fmin d a b | fmax d a b => cases h; exact delivering_of_alu rfl fun _ => rfl
  | fsqrt d a m | frnd d a m | cvtbf d a m | cvte4 d a m | cvte5 d a m | cvtif d a m | cvtfi d a m | teamCvtif d a m | teamCvtfi d a m =>
    cases h; exact delivering_of_alu rfl fun _ => rfl
  | frcp d a | frsq d a | fexp2 d a | flog2 d a | fabs d a | fneg d a | fclass d a | cvtfb d a | cvt4f d a | cvt5f d a =>
    cases h; exact delivering_of_alu rfl fun _ => rfl
  | dq8 d a b => cases h; exact delivering_of_alu rfl fun v => by rw [← toInt_extractLsb' 7]; rfl
  | dq4 d a b => cases h; exact delivering_of_alu rfl fun v => by rw [← toInt_extractLsb' 3]; rfl
  | bpack d a m => cases h; exact delivering_of_alu rfl fun v => congrArg ofWord (bpackOp_eq m _ _)
  | bunpk d a m => cases h; exact delivering_of_alu rfl fun v => congrArg ofWord (bunpkOp_eq m _)
  | _ => cases h

/-- Settles O26: the instructions compute their operations on gathered operands; where the rule words a result otherwise, by bits or by the
signed reading of a byte, the operation agrees with it. -/
theorem floatResults : Obligations.FloatResults := by
  refine ⟨fun i f g h => delivering_of_floatRule h, ?_, ?_⟩
  · intro i d a m s tm sl v f hi hg
    have hexec : exec i s = alu f s fun v => ((cvtdfOp m v.a).bits.setWidth 64, (cvtdfOp m v.a).flags) := by obtain rfl | rfl := hi <;> rfl
    rw [hexec, alu_of_gathers hg]
    rfl
  · intro i d a m s tm sl v f r hi hg
    have hexec : exec i s = alu f s fun v => cvtfdOp m (lowWord v.a) := by obtain rfl | rfl := hi <;> rfl
    rw [hexec, alu_of_gathers hg]
    rfl

end Sys2Proof.Machine
end

section
/-! CLAIM. The combined value of a back-queue entry and the reductions of CREDF and CREDI do not depend on an order (R167, R168, R192). -/

namespace Sys2Proof.Machine

/-! ### The further of two words -/

/-- The word that lies further by a place on a line. -/
def further (k : Word → Int) (x y : Word) : Word := if k x < k y then y else x

section
variable {k : Word → Int} (hk : Function.Injective k)
include hk

theorem further_comm (x y : Word) : further k x y = further k y x := by
  unfold further
  split
  next h => rw [if_neg h.le.not_gt]
  next h =>
    split
    next => rfl
    next h' => exact hk (le_antisymm (not_lt.1 h') (not_lt.1 h))

omit hk in
theorem further_assoc (x y z : Word) : further k (further k x y) z = further k x (further k y z) := by
  unfold further
  grind

theorem further_left_comm (x y z : Word) : further k x (further k y z) = further k y (further k x z) := by
  rw [← further_assoc, further_comm hk x y, further_assoc]

end

/-- The place of an FP32 encoding on the line is its own (R149). -/
theorem orderF_injective : Function.Injective orderF := by
  intro x y h
  have hsign (w : Word) : w.getLsbD 31 = decide (2 ^ 31 ≤ w.toNat) := by
    rw [← BitVec.msb_eq_getLsbD_last (x := w), BitVec.msb_eq_decide]
  apply BitVec.eq_of_toNat_eq
  simp only [orderF, hsign, decide_eq_true_eq] at h
  have hx := x.isLt
  have hy := y.isLt
  split at h <;> split at h <;> omega

/-! ### FMIN and FMAX of many values (R149, R167) -/

theorem readF_nanF : readF nanF = .nan false := by decide

theorem isNan_nanF : (readF nanF).isNan = true := by rw [readF_nanF]; rfl

/-- The place that FMIN or FMAX looks for. -/
def placeF (most : Bool) (w : Word) : Int := if most then orderF w else -orderF w

theorem placeF_injective (most : Bool) : Function.Injective (placeF most) := by
  intro x y h
  cases most with
  | false => exact orderF_injective (neg_injective h)
  | true => exact orderF_injective h

/-- The choice between two operands that are no NaN (R149). -/
theorem ite_orderF_eq_further (most : Bool) (x y : Word) :
    (if (decide (orderF x ≤ orderF y)) != most then x else y) = further (placeF most) x y := by
  cases most with
  | false =>
    by_cases h : orderF x ≤ orderF y
    · simp [further, placeF, h, not_lt.2 h]
    · simp [further, placeF, h, not_le.1 h]
  | true =>
    rw [further_comm (placeF_injective true)]
    by_cases h : orderF x ≤ orderF y
    · simp [further, placeF, h, not_lt.2 h]
    · simp [further, placeF, h, not_le.1 h]

/-- A NaN operand counts for nothing, and of two others the further one is the result (R149). -/
theorem fminmaxOp_bits (most : Bool) (x y : Word) : (fminmaxOp most x y).bits =
    if (readF x).isNan then if (readF y).isNan then nanF else y else if (readF y).isNan then x else further (placeF most) x y := by
  rw [← ite_orderF_eq_further]
  simp only [fminmaxOp]
  cases (readF x).isNan <;> cases (readF y).isNan <;> rfl

theorem isSnan_eq_false {a : Fp} (h : ¬ a.isNan = true) : a.isSnan = false := by
  cases a with
  | nan _ => exact absurd rfl h
  | _ => rfl

/-- The flag tells of a signalling operand (R149). -/
theorem fminmaxOp_flags (most : Bool) (x y : Word) : (fminmaxOp most x y).flags = snan [readF x, readF y] := by
  unfold fminmaxOp
  dsimp only
  split
  · rfl
  · split
    · rfl
    · split
      · rfl
      next hx hy => simp [snan, isSnan_eq_false hx, isSnan_eq_false hy, flagIf]

theorem further_eq_or (k : Word → Int) (x y : Word) : further k x y = x ∨ further k x y = y := by
  unfold further
  split
  · exact .inr rfl
  · exact .inl rfl

/-- The further of two words that are no NaN is none. -/
theorem isNan_further {k : Word → Int} {x y : Word} (hx : ¬ (readF x).isNan = true) (hy : ¬ (readF y).isNan = true) :
    ¬ (readF (further k x y)).isNan = true := by
  obtain h | h := further_eq_or k x y <;> rwa [h]

/-- No result of FMIN or FMAX is a signalling NaN. -/
theorem isSnan_fminmaxOp (most : Bool) (x y : Word) : (readF (fminmaxOp most x y).bits).isSnan = false := by
  rw [fminmaxOp_bits]
  split
  · split
    · rw [readF_nanF]; rfl
    next hy => exact isSnan_eq_false hy
  next hx =>
    split
    · exact isSnan_eq_false hx
    next hy => exact isSnan_eq_false (isNan_further hx hy)

/-- One more value in a minimum or maximum. -/
def foldExtreme (most : Bool) (w : Word) (r : FRes) : FRes :=
  ⟨(fminmaxOp most w r.bits).bits, r.flags ||| (fminmaxOp most w r.bits).flags⟩

/-- The minimum or maximum of at least one value starts from the canonical NaN, which counts for nothing. -/
theorem extremeF_eq_foldr (most : Bool) (none : Word) (w : Word) (ws : List Word) :
    extremeF most none (w :: ws) = (w :: ws).foldr (foldExtreme most) ⟨nanF, 0⟩ := by
  induction ws generalizing w with
  | nil =>
    have hsnan : snan [readF w, .nan false] = snan [readF w] := by simp [snan, Fp.isSnan]
    have hquiet : (readF w).isNan = false → snan [readF w] = 0 := by cases readF w <;> simp [Fp.isNan, snan, Fp.isSnan, flagIf]
    simp only [List.foldr, foldExtreme, fminmaxOp_bits, fminmaxOp_flags, readF_nanF, hsnan, extremeF]
    cases h : (readF w).isNan with
    | false => simp [hquiet h, Fp.isNan]
    | true => simp [Fp.isNan]
  | cons x xs ih =>
    rw [List.foldr_cons, ← ih x]
    rfl

section
variable {x y : Word} (most : Bool)

/-- Beside a NaN, a value is the result, or the canonical NaN is. -/
theorem fminmaxOp_of_nan (hx : (readF x).isNan = true) : (fminmaxOp most x y).bits = if (readF y).isNan then nanF else y := by
  rw [fminmaxOp_bits, if_pos hx]

/-- The NaN among the operands may be any. -/
theorem fminmaxOp_canonical_right : (fminmaxOp most x (if (readF y).isNan then nanF else y)).bits = (fminmaxOp most x y).bits := by
  split
  next hy => simp only [fminmaxOp_bits, isNan_nanF, hy, if_true]
  next => rfl

/-- A NaN that is the result is the canonical one. -/
theorem fminmaxOp_bits_canonical : (if (readF (fminmaxOp most x y).bits).isNan then nanF else (fminmaxOp most x y).bits) =
    (fminmaxOp most x y).bits := by
  rw [fminmaxOp_bits]
  by_cases hx : (readF x).isNan = true <;> by_cases hy : (readF y).isNan = true <;> simp [hx, hy, isNan_further]

end

theorem fminmaxOp_left_comm (most : Bool) (x y z : Word) :
    (fminmaxOp most x (fminmaxOp most y z).bits).bits = (fminmaxOp most y (fminmaxOp most x z).bits).bits := by
  by_cases hx : (readF x).isNan = true
  · rw [fminmaxOp_of_nan most hx, fminmaxOp_of_nan most hx, fminmaxOp_canonical_right, fminmaxOp_bits_canonical]
  by_cases hy : (readF y).isNan = true
  · rw [fminmaxOp_of_nan most hy, fminmaxOp_of_nan most hy, fminmaxOp_canonical_right, fminmaxOp_bits_canonical]
  simp only [fminmaxOp_bits, if_neg hx, if_neg hy]
  by_cases hz : (readF z).isNan = true
  · rw [if_pos hz, if_pos hz, if_neg hy, if_neg hx, further_comm (placeF_injective most)]
  · rw [if_neg hz, if_neg hz, if_neg (isNan_further hy hz), if_neg (isNan_further hx hz), further_left_comm (placeF_injective most)]

theorem foldExtreme_left_comm (most : Bool) (x y : Word) (r : FRes) :
    foldExtreme most x (foldExtreme most y r) = foldExtreme most y (foldExtreme most x r) := by
  have hflags : (r.flags ||| snan [readF y, readF r.bits]) ||| snan [readF x, readF (fminmaxOp most y r.bits).bits] =
      (r.flags ||| snan [readF x, readF r.bits]) ||| snan [readF y, readF (fminmaxOp most x r.bits).bits] := by
    simp only [snan, List.any_cons, List.any_nil, isSnan_fminmaxOp, Bool.or_false]
    rw [BitVec.or_assoc, BitVec.or_assoc]
    congr 1
    cases (readF x).isSnan <;> cases (readF y).isSnan <;> cases (readF r.bits).isSnan <;> rfl
  simp only [foldExtreme, fminmaxOp_flags, fminmaxOp_left_comm most x y, hflags]

theorem extremeF_perm (most : Bool) (none : Word) {xs ys : List Word} (h : xs.Perm ys) : extremeF most none xs = extremeF most none ys := by
  have hcomm : LeftCommutative (foldExtreme most) := ⟨foldExtreme_left_comm most⟩
  cases xs with
  | nil => rw [h.nil_eq]
  | cons x xs =>
    cases ys with
    | nil => cases h.eq_nil
    | cons y ys => rw [extremeF_eq_foldr, extremeF_eq_foldr, h.foldr_eq]

/-! ### The exact sum (R167) -/

theorem exactSum_perm {xs ys : List Fp} (h : xs.Perm ys) : exactSum xs = exactSum ys := by
  have hcons (v : Fp) : ∃ n, ∀ vs, exactSum (v :: vs) = n + exactSum vs := by
    cases v with
    | fin b m e => exact ⟨_, fun _ => rfl⟩
    | nan _ | inf _ => exact ⟨0, fun _ => (zero_add _).symm⟩
  induction h with
  | nil => rfl
  | cons v _ ih =>
    obtain ⟨n, hn⟩ := hcons v
    rw [hn, hn, ih]
  | swap v w vs =>
    obtain ⟨m, hm⟩ := hcons v
    obtain ⟨n, hn⟩ := hcons w
    rw [hn, hm, hm, hn, add_left_comm]
  | trans _ _ ih ih' => exact ih.trans ih'

/-- The values count by which of them there are, and by their exact sum. -/
theorem sumF_perm {xs ys : List Word} (h : xs.Perm ys) : sumF xs = sumF ys := by
  have hv := h.map readF
  simp only [sumF, snan, hv.any_eq, hv.all_eq, exactSum_perm hv]

/-! ### Reductions of words (R168, R192) -/

theorem foldWords_perm {g : Word → Word → Word} (hcomm : ∀ x y, g x y = g y x) (hassoc : ∀ x y z, g (g x y) z = g x (g y z))
    {xs ys : List Word} (h : xs.Perm ys) : foldWords g xs = foldWords g ys := by
  have hright : RightCommutative g := ⟨fun x y z => by rw [hassoc, hcomm y, ← hassoc]⟩
  induction h with
  | nil => rfl
  | cons w h _ => exact h.foldl_eq w
  | swap v w ws => exact congrArg (ws.foldl g) (hcomm w v)
  | trans _ _ ih ih' => exact ih.trans ih'

theorem foldWords_further_perm {k : Word → Int} (hk : Function.Injective k) {xs ys : List Word} (h : xs.Perm ys) :
    foldWords (further k) xs = foldWords (further k) ys := foldWords_perm (further_comm hk) further_assoc h

theorem toInt_injective : Function.Injective (BitVec.toInt : Word → Int) := fun _ _ => BitVec.eq_of_toInt_eq

theorem natCast_toNat_injective : Function.Injective (fun w : Word => (w.toNat : Int)) :=
  fun _ _ h => BitVec.eq_of_toNat_eq (Int.ofNat.inj h)

theorem ite_slt_eq_further : (fun x y : Word => if x.slt y then y else x) = further BitVec.toInt := by
  funext x y
  simp only [further, BitVec.slt_iff_toInt_lt]

theorem ite_slt_swap_eq_further : (fun x y : Word => if y.slt x then y else x) = further fun w => -w.toInt := by
  funext x y
  simp only [further, BitVec.slt_iff_toInt_lt, neg_lt_neg_iff]

theorem ite_ult_eq_further : (fun x y : Word => if x.ult y then y else x) = further fun w => (w.toNat : Int) := by
  funext x y
  simp only [further, BitVec.ult_iff_lt, BitVec.lt_def, Nat.cast_lt]

theorem ite_ult_swap_eq_further : (fun x y : Word => if y.ult x then y else x) = further fun w => -(w.toNat : Int) := by
  funext x y
  simp only [further, BitVec.ult_iff_lt, BitVec.lt_def, neg_lt_neg_iff, Nat.cast_lt]

theorem crediOp_perm (m : Rdi) {xs ys : List Member} (h : xs.Perm ys) : crediOp m xs = crediOp m ys := by
  have hw := h.map Member.a
  cases m with
  | sum => exact foldWords_perm BitVec.add_comm BitVec.add_assoc hw
  | max => rw [crediOp, crediOp, ite_slt_eq_further]; exact foldWords_further_perm toInt_injective hw
  | min => rw [crediOp, crediOp, ite_slt_swap_eq_further]; exact foldWords_further_perm (neg_injective.comp toInt_injective) hw
  | maxu => rw [crediOp, crediOp, ite_ult_eq_further]; exact foldWords_further_perm natCast_toNat_injective hw
  | minu => rw [crediOp, crediOp, ite_ult_swap_eq_further]; exact foldWords_further_perm (neg_injective.comp natCast_toNat_injective) hw
  | and => exact foldWords_perm BitVec.and_comm BitVec.and_assoc hw
  | or => exact foldWords_perm BitVec.or_comm BitVec.or_assoc hw
  | xor => exact foldWords_perm BitVec.xor_comm BitVec.xor_assoc hw

/-! ### Back-queue entries (R192) -/

/-- The greatest of words is a reduction that starts from the least of all. -/
theorem maxSigned_eq (ws : List Word) : maxSigned ws = foldWords (further BitVec.toInt) (0x80000000 :: ws) :=
  congrArg (fun g => foldWords g (0x80000000 :: ws)) ite_slt_eq_further

/-- The first contribution is one of them, and its strand has the lowest index. -/
theorem firstContribution_cons (c : Contribution) (cs : List Contribution) :
    ∃ d ∈ c :: cs, firstContribution (c :: cs) = some d ∧ ∀ e ∈ c :: cs, d.strand ≤ e.strand := by
  induction cs generalizing c with
  | nil => exact ⟨c, List.mem_singleton_self c, rfl, by simp⟩
  | cons b cs ih =>
    obtain ⟨d, hmem, hfirst, hle⟩ := ih b
    rw [firstContribution, hfirst]
    by_cases h : d.strand < c.strand
    · exact ⟨d, List.mem_cons_of_mem c hmem, congrArg some (if_pos h), List.forall_mem_cons.2 ⟨h.le, hle⟩⟩
    · exact ⟨c, List.mem_cons_self, congrArg some (if_neg h),
        List.forall_mem_cons.2 ⟨le_rfl, fun e he => (not_lt.1 h).trans (hle e he)⟩⟩

theorem firstContribution_perm {xs ys : List Contribution} (h : xs.Perm ys) (hnodup : (xs.map Contribution.strand).Nodup) :
    firstContribution xs = firstContribution ys := by
  match xs, ys, h with
  | [], ys, h => rw [h.nil_eq]
  | x :: xs, [], h => cases h.eq_nil
  | x :: xs, y :: ys, h =>
    obtain ⟨c, hc, hcfirst, hcle⟩ := firstContribution_cons x xs
    obtain ⟨d, hd, hdfirst, hdle⟩ := firstContribution_cons y ys
    have hstrand : c.strand = d.strand := le_antisymm (hcle d (h.mem_iff.2 hd)) (hdle c (h.mem_iff.1 hc))
    rw [hcfirst, hdfirst, List.inj_on_of_nodup_map hnodup hc (h.mem_iff.2 hd) hstrand]

theorem combine_perm (d : QueueDecl) {xs ys : List Contribution} (h : xs.Perm ys) (hnodup : (xs.map Contribution.strand).Nodup) :
    combine d xs = combine d ys := by
  have hw := h.map Contribution.value
  unfold combine
  cases d.rule with
  | first => simp only [firstContribution_perm h hnodup]
  | sum =>
    have hwrap : (xs.map Contribution.value).foldl (· + ·) 0 = (ys.map Contribution.value).foldl (· + ·) 0 :=
      foldWords_perm BitVec.add_comm BitVec.add_assoc (hw.cons 0)
    simp only [hw.isEmpty_eq, sumF_perm hw, hwrap]
  | max => simp only [extremeF_perm _ _ hw, maxSigned_eq, foldWords_further_perm toInt_injective (hw.cons 0x80000000)]
  | or => exact foldWords_perm BitVec.or_comm BitVec.or_assoc (hw.cons 0)

/-- Settles O21: each rule is a reduction by an operation that is commutative and associative, or the choice of the one strand of lowest
index. -/
theorem combineIgnoresOrder : Obligations.CombineIgnoresOrder :=
  ⟨fun d _ _ h hnodup => combine_perm d h hnodup, fun _ _ h => ⟨sumF_perm h, fun most none => extremeF_perm most none h⟩,
    fun m _ _ h => crediOp_perm m h⟩

end Sys2Proof.Machine
end

section
/-! SUPPORT. What the collectives compute, as the rules word it (R164 to R168). -/

namespace Sys2Proof.Machine

/-! ### Reductions of words (R168) -/

/-- A reduction that keeps the further of two words ends with the furthest of all. -/
theorem foldWords_further {k : Word → Int} (w : Word) (ws : List Word) :
    foldWords (further k) (w :: ws) ∈ w :: ws ∧ ∀ x ∈ w :: ws, k x ≤ k (foldWords (further k) (w :: ws)) := by
  have hle (x y : Word) : k x ≤ k (further k x y) ∧ k y ≤ k (further k x y) := by
    unfold further
    split
    next h => exact ⟨h.le, le_rfl⟩
    next h => exact ⟨le_rfl, not_lt.1 h⟩
  induction ws generalizing w with
  | nil => exact ⟨List.mem_singleton_self w, fun x hx => (List.mem_singleton.1 hx) ▸ le_rfl⟩
  | cons v vs ih =>
    obtain ⟨hmem, hmost⟩ := ih (further k w v)
    refine ⟨?_, List.forall_mem_cons.2 ⟨(hle w v).1.trans (hmost _ List.mem_cons_self), List.forall_mem_cons.2
      ⟨(hle w v).2.trans (hmost _ List.mem_cons_self), fun x hx => hmost x (List.mem_cons_of_mem _ hx)⟩⟩⟩
    have hor := further_eq_or k w v
    have hcons : foldWords (further k) (w :: v :: vs) = foldWords (further k) (further k w v :: vs) := rfl
    rw [hcons]
    obtain h | h := List.mem_cons.1 hmem
    · rw [h]
      obtain h | h := hor <;> simp [h]
    · exact List.mem_cons_of_mem _ (List.mem_cons_of_mem _ h)

/-- A bit of a conjunction, a disjunction or a sum without carry of words. -/
theorem getLsbD_foldWords_and (k : Nat) (w : Word) (ws : List Word) :
    (foldWords (· &&& ·) (w :: ws)).getLsbD k = (w :: ws).all fun x => x.getLsbD k := by
  induction ws generalizing w with
  | nil => simp [foldWords]
  | cons v vs ih => simpa [foldWords, Bool.and_assoc] using ih (w &&& v)

theorem getLsbD_foldWords_or (k : Nat) (w : Word) (ws : List Word) :
    (foldWords (· ||| ·) (w :: ws)).getLsbD k = (w :: ws).any fun x => x.getLsbD k := by
  induction ws generalizing w with
  | nil => simp [foldWords]
  | cons v vs ih => simpa [foldWords, Bool.or_assoc] using ih (w ||| v)

theorem getLsbD_foldWords_xor (k : Nat) (w : Word) (ws : List Word) :
    (foldWords (· ^^^ ·) (w :: ws)).getLsbD k = ((w :: ws).countP (fun x => x.getLsbD k) % 2 == 1) := by
  induction ws generalizing w with
  | nil => cases h : w.getLsbD k <;> simp [foldWords, h]
  | cons v vs ih =>
    have hcons : foldWords (· ^^^ ·) (w :: v :: vs) = foldWords (· ^^^ ·) ((w ^^^ v) :: vs) := rfl
    rw [hcons, ih, List.countP_cons, List.countP_cons, List.countP_cons, BitVec.getLsbD_xor, Bool.eq_iff_iff, beq_iff_eq, beq_iff_eq]
    cases w.getLsbD k <;> cases v.getLsbD k <;> simp; omega

theorem foldWords_add (w : Word) (ws : List Word) :
    foldWords (· + ·) (w :: ws) = BitVec.ofInt 32 ((w :: ws).map fun x => (x.toNat : Int)).sum := by
  induction ws generalizing w with
  | nil => simp [foldWords]
  | cons v vs ih =>
    have hcons : foldWords (· + ·) (w :: v :: vs) = foldWords (· + ·) ((w + v) :: vs) := rfl
    rw [hcons, ih]
    simp only [List.map_cons, List.sum_cons, BitVec.ofInt_add, ofInt_toNat, BitVec.add_assoc]

/-! ### The collectives (R165, R166) -/

/-- SHFL receives the A of the source rank, or the member's own (R165). -/
theorem shflOp_eq (m : Shf) (xs : List Member) (r : Nat) (x : Member) :
    shflOp m xs r x = (((shflRank m xs.length r x.b.toNat).bind fun k => xs[k]?).getD x).a := by
  have hrank (n : Nat) : pickRank xs n x = (((if n < xs.length then some n else none).bind fun k => xs[k]?).getD x).a := by
    unfold pickRank
    split
    next => rfl
    next h => rw [List.getElem?_eq_none (not_lt.1 h)]; rfl
  cases m with
  | pick => exact hrank _
  | rot => rfl
  | mirr => rfl
  | pair => exact hrank _

/-- The place of the first element that a test picks. -/
theorem findIdx_map_fst {α : Type} (p : α → Bool) (xs : List α) (n : Nat) :
    (findIdx p xs n).map Prod.fst = (xs.findIdx? p).map (· + n) := by
  induction xs generalizing n with
  | nil => rfl
  | cons x xs ih =>
    rw [findIdx, List.findIdx?_cons]
    split
    · simp
    · rw [ih, Option.map_map]
      congr 1
      funext k
      simp; omega

theorem voteOp_first (xs : List Member) : voteOp .first xs = BitVec.ofInt 32 ((xs.findIdx? fun x => x.a != 0).getD 0xFFFFFFFF : Nat) := by
  have h := findIdx_map_fst (fun x : Member => x.a != 0) xs 0
  rw [voteOp]
  cases hidx : findIdx (fun x : Member => x.a != 0) xs 0 with
  | none =>
    rw [hidx] at h
    rw [Option.map_eq_none_iff.1 h.symm]; rfl
  | some p =>
    rw [hidx] at h
    obtain ⟨n, hn, hp⟩ := Option.map_eq_some_iff.1 h.symm
    rw [hn]
    exact congrArg (BitVec.ofNat 32) hp.symm

theorem voteOp_same (xs : List Member) : voteOp .same xs = BitVec.ofInt 32 (oneIf (∀ x ∈ xs, ∀ y ∈ xs, x.a = y.a)) := by
  cases xs with
  | nil => rfl
  | cons x rest =>
    have hall : (rest.all fun y => y.a == x.a) = true ↔ ∀ y ∈ x :: rest, ∀ z ∈ x :: rest, y.a = z.a := by
      simp only [List.all_eq_true, beq_iff_eq]
      constructor
      · intro h
        have hx : ∀ y ∈ x :: rest, y.a = x.a := List.forall_mem_cons.2 ⟨rfl, h⟩
        exact fun y hy z hz => (hx y hy).trans (hx z hz).symm
      · exact fun h y hy => h y (List.mem_cons_of_mem x hy) x List.mem_cons_self
    rw [voteOp, oneIf, if_congr hall rfl rfl]
    split <;> rfl

theorem voteOp_count (xs : List Member) : voteOp .count xs = BitVec.ofInt 32 (xs.countP fun x => x.a != 0 : Nat) := by
  rw [List.countP_eq_length_filter]; rfl

theorem voteOp_maj (xs : List Member) : voteOp .maj xs = BitVec.ofInt 32 (oneIf (xs.length < 2 * xs.countP fun x => x.a != 0)) := by
  rw [voteOp, oneIf, List.countP_eq_length_filter]
  split <;> rfl

/-- A number whose bits are those listed is the sum of their powers of two. -/
theorem ofBits_mem {zs : List Nat} {n : Nat} (hnodup : zs.Nodup) (hlt : ∀ z ∈ zs, z < n) :
    ofBits n (fun j => decide (j ∈ zs)) = (zs.map fun z => (2 : Int) ^ z).sum := by
  have hsub : zs.toFinset ⊆ Finset.range n := fun z hz => Finset.mem_range.2 (hlt z (List.mem_toFinset.1 hz))
  calc ofBits n (fun j => decide (j ∈ zs)) = ∑ j ∈ Finset.range n, if j ∈ zs.toFinset then (2 : Int) ^ j else 0 := by
        simp [ofBits, ← List.sum_toFinset _ List.nodup_range, List.toFinset_range]
    _ = ∑ j ∈ zs.toFinset, (2 : Int) ^ j := by rw [Finset.sum_ite_mem, Finset.inter_eq_right.2 hsub]
    _ = (zs.map fun z => (2 : Int) ^ z).sum := List.sum_toFinset _ hnodup

/-- The strands, within their group of 64, of the members whose A is not 0. -/
def votingBits (xs : List Member) : List Nat := (xs.filter fun x => x.a != 0).map fun x => x.strand % 64

/-- SIFT sets the bit of each member whose A is not 0 (R166). -/
theorem siftOp_eq {xs : List Member} (hnodup : (xs.map fun x => x.strand % 64).Nodup) :
    siftOp xs = BitVec.ofInt 64 (ofBits 64 fun j => xs.any fun x => x.strand % 64 == j && x.a != 0) := by
  have hmem : (fun j => xs.any fun x => x.strand % 64 == j && x.a != 0) = fun j => decide (j ∈ votingBits xs) := by
    funext j
    rw [Bool.eq_iff_iff, List.any_eq_true, decide_eq_true_eq, votingBits, List.mem_map]
    exact exists_congr fun x => by rw [List.mem_filter, Bool.and_eq_true, beq_iff_eq, and_assoc, and_comm (a := x.strand % 64 = j)]
  have hvoting : (votingBits xs).Nodup := hnodup.sublist (List.filter_sublist.map _)
  have hlt : ∀ z ∈ votingBits xs, z < 64 := by
    intro z hz
    obtain ⟨x, -, rfl⟩ := List.mem_map.1 hz
    exact Nat.mod_lt _ (by decide)
  have hfold (ys : List Member) (n : Nat) :
      ys.foldl (fun n x => n + 2 ^ (x.strand % 64)) n = n + (ys.map fun x => 2 ^ (x.strand % 64)).sum := by
    induction ys generalizing n with
    | nil => rfl
    | cons y ys ih => rw [List.foldl_cons, ih, List.map_cons, List.sum_cons, Nat.add_assoc]
  rw [hmem, ofBits_mem hvoting hlt, siftOp, hfold, votingBits, List.map_map, Nat.zero_add, ← BitVec.ofInt_natCast, Nat.cast_list_sum,
    List.map_map]
  congr 3

/-! ### The instructions -/

/-- Members of one circle are no fewer than one and have a bit each of its mask. -/
def OfOneCircle (xs : List Member) : Prop := xs ≠ [] ∧ (xs.map fun x => x.strand % 64).Nodup

section
variable {α : Type} [LinearOrder α] {k : Word → Int} {g : Word → α} (w : Word) (ws : List Word)

/-- The furthest by a number that orders words alike is the greatest, and by one that orders them the other way the least. -/
theorem max?_map_eq_further (h : ∀ x y, k x ≤ k y → g x ≤ g y) :
    ((w :: ws).map g).max? = some (g (foldWords (further k) (w :: ws))) := by
  obtain ⟨hmem, hmost⟩ := foldWords_further (k := k) w ws
  exact List.max?_eq_some_iff.2 ⟨List.mem_map_of_mem hmem, List.forall_mem_map.2 fun x hx => h x _ (hmost x hx)⟩

theorem min?_map_eq_further (h : ∀ x y, k x ≤ k y → g y ≤ g x) :
    ((w :: ws).map g).min? = some (g (foldWords (further k) (w :: ws))) := by
  obtain ⟨hmem, hmost⟩ := foldWords_further (k := k) w ws
  exact List.min?_eq_some_iff.2 ⟨List.mem_map_of_mem hmem, List.forall_mem_map.2 fun x hx => h x _ (hmost x hx)⟩

end

/-- CREDI, on the numbers and the bits of the members' words (R168). -/
theorem crediOp_eq (m : Rdi) {xs : List Member} (hne : xs ≠ []) : crediOp m xs = BitVec.ofInt 32 (match m with
      | .sum => (xs.map fun x => (x.a.toNat : Int)).sum
      | .max => ((xs.map fun x => x.a.toInt).max?).getD 0
      | .min => ((xs.map fun x => x.a.toInt).min?).getD 0
      | .maxu => ((xs.map fun x => x.a.toNat).max?).getD 0
      | .minu => ((xs.map fun x => x.a.toNat).min?).getD 0
      | .and => ofBits 32 fun k => xs.all fun x => x.a.getLsbD k
      | .or => ofBits 32 fun k => xs.any fun x => x.a.getLsbD k
      | .xor => ofBits 32 fun k => xs.countP (fun x => x.a.getLsbD k) % 2 == 1) := by
  obtain ⟨x, xs, rfl⟩ := List.exists_cons_of_ne_nil hne
  have hmap {α : Type} (g : Word → α) : (x :: xs).map (fun y => g y.a) = (x.a :: xs.map Member.a).map g := by
    rw [← List.map_cons, List.map_map]; rfl
  cases m with
  | sum =>
    dsimp only
    rw [hmap fun w => (w.toNat : Int), ← foldWords_add]
    rfl
  | max =>
    dsimp only
    rw [hmap BitVec.toInt, max?_map_eq_further (k := BitVec.toInt) _ _ fun _ _ h => h, Option.getD_some,
      BitVec.ofInt_toInt, ← ite_slt_eq_further]
    rfl
  | min =>
    dsimp only
    rw [hmap BitVec.toInt, min?_map_eq_further (k := fun w => -w.toInt) _ _ fun _ _ h => neg_le_neg_iff.1 h, Option.getD_some,
      BitVec.ofInt_toInt, ← ite_slt_swap_eq_further]
    rfl
  | maxu =>
    dsimp only
    rw [hmap fun w => (w.toNat : Int), max?_map_eq_further (k := fun w => (w.toNat : Int)) _ _ fun _ _ h => h, Option.getD_some,
      ofInt_toNat, ← ite_ult_eq_further]
    rfl
  | minu =>
    dsimp only
    rw [hmap fun w => (w.toNat : Int), min?_map_eq_further (k := fun w => -(w.toNat : Int)) _ _ fun _ _ h => neg_le_neg_iff.1 h,
      Option.getD_some, ofInt_toNat, ← ite_ult_swap_eq_further]
    rfl
  | and =>
    exact eq_ofInt_ofBits fun k _ => (getLsbD_foldWords_and k x.a (xs.map Member.a)).trans (by rw [← List.map_cons, List.all_map]; rfl)
  | or =>
    exact eq_ofInt_ofBits fun k _ => (getLsbD_foldWords_or k x.a (xs.map Member.a)).trans (by rw [← List.map_cons, List.any_map]; rfl)
  | xor =>
    exact eq_ofInt_ofBits fun k _ => (getLsbD_foldWords_xor k x.a (xs.map Member.a)).trans (by rw [← List.map_cons, List.countP_map]; rfl)

/-- A result of 32 bits, as a word and as the number that its rule gives. -/
theorem ofWord_eq_received {w : Word} {n : Int} (h : w = BitVec.ofInt 32 n) : ofWord w = (received .w32 n, 0) := by
  rw [ofWord, h]; rfl

/-- A collective arrives, and computes what its rule says for the members of a circle (R161, R164 to R168). -/
theorem exec_of_collectiveRule_results {i : Instr} {f : Form} {stored : Bool} {res : List Member → Nat → Member → DWord × Word}
    (h : collectiveRule i = some (f, stored, res)) (s : State) :
    ∃ res', exec i s = arrive f stored s res' ∧ ∀ xs, OfOneCircle xs → ∀ r m, res' xs r m = res xs r m := by
  cases i with
  | join => cases h; exact ⟨_, show execJoin s = _ from rfl, fun _ _ _ _ => rfl⟩
  | shfl d a b m =>
    cases h
    refine ⟨_, show execShfl d a b m s = _ from rfl, fun xs _ r x => ofWord_eq_received ?_⟩
    rw [shflOp_eq]
    cases (shflRank m xs.length r x.b.toNat).bind fun k => xs[k]? <;> exact (ofInt_toNat _).symm
  | vote d a m =>
    cases m with
    | count => cases h; exact ⟨_, show execVote d a _ s = _ from rfl, fun xs _ _ _ => ofWord_eq_received (voteOp_count xs)⟩
    | first => cases h; exact ⟨_, show execVote d a _ s = _ from rfl, fun xs _ _ _ => ofWord_eq_received (voteOp_first xs)⟩
    | same => cases h; exact ⟨_, show execVote d a _ s = _ from rfl, fun xs _ _ _ => ofWord_eq_received (voteOp_same xs)⟩
    | maj => cases h; exact ⟨_, show execVote d a _ s = _ from rfl, fun xs _ _ _ => ofWord_eq_received (voteOp_maj xs)⟩
  | sift d a =>
    cases h
    exact ⟨_, show execSift d a s = _ from rfl, fun xs hxs _ _ => congrArg (·, (0 : Word)) (siftOp_eq hxs.2)⟩
  | credf d a m => cases h; exact ⟨_, show execCredf d a m s = _ from rfl, fun xs _ _ _ => by cases m <;> rfl⟩
  | credi d a m =>
    cases h
    exact ⟨_, show execCredi d a m s = _ from rfl, fun xs hxs _ _ =>
      ofWord_eq_received ((crediOp_eq m hxs.1).trans (by cases m <;> rfl))⟩
  | _ => cases h

end Sys2Proof.Machine
end

section
/-! CLAIM. The last arrival of a circle completes the collective for all its members (R159, R161, R164 to R168). -/

namespace Sys2Proof.Machine

/-! ### The strands of a circle (R159) -/

/-- A strand of a circle stands in the group of the strand that names it. -/
theorem div_of_mem_circleOf {mask : DWord} {j k : Nat} (h : j ∈ circleOf mask k) : j / 64 = k / 64 := by
  obtain ⟨i, hi, rfl⟩ := List.mem_map.1 h
  have hlt := List.mem_range.1 (List.mem_filter.1 hi).1
  omega

/-- Its mask names the same circle for each of its strands. -/
theorem circleOf_of_mem {mask : DWord} {j k : Nat} (h : j ∈ circleOf mask k) : circleOf mask j = circleOf mask k := by
  rw [circleOf, div_of_mem_circleOf h, circleOf]

theorem nodup_circleOf_mod (mask : DWord) (k : Nat) : ((circleOf mask k).map (· % 64)).Nodup := by
  have hplaces : (circleOf mask k).map (· % 64) = (List.range 64).filter fun j => mask.getLsbD j := by
    rw [circleOf, List.map_map]
    refine (List.map_congr_left fun i hi => ?_).trans (List.map_id _)
    have hlt := List.mem_range.1 (List.mem_filter.1 hi).1
    simp only [Function.comp_apply, id_eq]
    omega
  exact hplaces ▸ List.nodup_range.filter _

theorem nodup_circleOf (mask : DWord) (k : Nat) : (circleOf mask k).Nodup := (nodup_circleOf_mod mask k).of_map _

/-! ### What an arrival does where its circle has formed (R161, R162) -/

/-- No trap where no arrival of the team names a strand that breaks its circle. -/
theorem brokenArrivals_eq_nil_of_forall {tm : Team}
    (h : ∀ j x y, tm.strands[j]? = some x → x.arrived = some y → ∀ m ∈ membersOf j y, breaksCircle tm y m = false) :
    tm.indexed.filterMap (brokenArrival tm) = [] := by
  rw [Team.indexed, List.range_eq_range']
  refine filterMap_zip_range'_eq_nil fun j x hx => ?_
  rw [Nat.zero_add]
  cases harr : x.arrived with
  | none => simp [brokenArrival, harr]
  | some y => simpa [brokenArrival, harr] using h j x y hx harr

/-- A strand that has arrived with the PC and the mask of an arrival is at its rendezvous. -/
theorem arrivedAt_of_arrived {tm : Team} {ar y : Arrival} {j : Nat} {x : Slice} (hx : tm.strands[j]? = some x) (harr : x.arrived = some y)
    (hpc : y.pc = ar.pc) (hmask : y.mask = ar.mask) : arrivedAt tm ar j = true := by
  simp [arrivedAt, hx, harr, hpc, hmask]

/-- The members bring what they gathered as they arrived. -/
theorem rendezvousMembers_eq_map {tm : Team} {ms : List Nat} {arr : Nat → Arrival}
    (h : ∀ j ∈ ms, ∃ x, tm.strands[j]? = some x ∧ x.arrived = some (arr j)) :
    rendezvousMembers tm ms = ms.map fun j => ⟨j, (arr j).a, (arr j).b⟩ := by
  rw [rendezvousMembers, ← List.filterMap_eq_map]
  refine List.filterMap_congr fun j hj => ?_
  obtain ⟨x, hx, harr⟩ := h j hj
  simp [hx, harr]

/-- The team in which a strand has arrived and does not wait yet. -/
def Team.arriving (tm : Team) (k : Nat) (sl : Slice) (ar : Arrival) : Team := tm.putSlice (some k) { sl with arrived := some ar }

/-- A slice made RUNNABLE. -/
def Slice.woken (sl : Slice) : Slice := { sl with run := .runnable }

/-- A strand of a team made RUNNABLE, as each member of a rendezvous is. -/
def wake (t : TeamId) (s : State) (j : Nat) : State := modSlice s ⟨t.core, t.slot, some j⟩ Slice.woken

section
variable {f : Form} {stored : Bool} {s : State} {tm : Team} {sl : Slice} {v : Vals} {k : Nat} (hk : s.cur.strand = some k)
  (hg : Gathers s f (.ok ()) tm sl v)
include hk hg

/-- The last strand to arrive completes the collective for all, after the traps of the arrival (R161, R162, R164). -/
theorem arrive_of_all_arrived
    (hall : ∀ j ∈ circleOf sl.circle k, arrivedAt (tm.arriving k sl (arrivalOf f sl v)) (arrivalOf f sl v) j = true)
    (hstored : stored = true → ∀ j ∈ circleOf sl.circle k, storesPending s (tm.name (some j)) = false)
    (res : List Member → Nat → Member → DWord × Word) {xs : List Member}
    (hxs : rendezvousMembers (tm.arriving k sl (arrivalOf f sl v)) (circleOf sl.circle k) = xs) :
    arrive f stored s res = .next (completeAll ((circleOf sl.circle k).foldl (wake (teamIdOf s.cur))
      (circleTraps (putSlice s s.cur tm (sl.joining (arrivalOf f sl v))) (teamIdOf s.cur))) (teamIdOf s.cur) f v.pops (nextPc sl.pc f.len)
      (xs.zip (List.range xs.length)) (res xs)) := by
  have hslice : tm.slice (some k) = some sl := hk ▸ (teamAt_of_sliceAt hg.1).2
  have hteam : (tm.modSlice s.cur.strand fun x => { x with arrived := some (arrivalOf f sl v) }) = tm.arriving k sl (arrivalOf f sl v) := by
    rw [hk, Team.modSlice, hslice]; rfl
  have hcircle : membersOf (s.cur.strand.getD 0) (arrivalOf f sl v) = circleOf sl.circle k := by rw [hk]; rfl
  have hwait : ¬ (stored && !membersStored s tm (circleOf sl.circle k)) = true := by
    cases stored with
    | false => exact Bool.false_ne_true
    | true => simpa [membersStored] using hstored rfl
  refine (run_of_gathers hg _).trans (congrArg Host.Outcome.next ?_)
  subst hxs
  dsimp only
  rw [modSlice_of_sliceAt hg.1]
  rw [← hteam, ← hcircle] at hall ⊢
  rw [← hcircle] at hwait
  split
  next =>
    split
    next h => exact absurd h hwait
    next => rfl
  next h => exact absurd (List.all_eq_true.2 hall) h

end

/-! ### Every member completes (R161) -/

/-- A slice after it has completed with a result and flags. -/
def Slice.completed (sl : Slice) (f : Form) (next : Word) (r : DWord × Word) : Slice :=
  { sl with regs := writtenRegs f.d f.dw r.1 sl.regs, fflags := sl.fflags ||| r.2 }.goneOn next

/-- Completing with nothing to pop, no push and the step bit clear, wherever the slice stands. -/
theorem finishTo_of_no_step {s : State} {id : SliceId} {tm : Team} {sl : Slice} (hat : sliceAt s id = some (tm, sl)) {f : Form} {v : Vals}
    (hpops : v.pops = []) (hd : ∀ q, f.d ≠ .queue q) (hb : sl.stepBit = false) (next : Word) (r : DWord × Word) :
    finishTo s id f v next r.1 r.2 = putSlice s id tm (sl.completed f next r) := by
  rw [finishTo, hpops, commitAt_nil]
  exact (sliceBecomes_result hat hd r.1 r.2).complete hat hb next

section
variable {t : TeamId} {s : State} {tm : Team}

/-- A strand of a team that has been replaced. -/
theorem sliceAt_putTeam_strand {j : Nat} {x : Slice} (hx : tm.strands[j]? = some x) :
    sliceAt (putTeam s t tm) ⟨t.core, t.slot, some j⟩ = some (tm, x) :=
  sliceAt_putTeam (id := ⟨t.core, t.slot, some j⟩) hx

/-- A strand of a team that stands there, if there is one. -/
theorem map_sliceAt_of_teamAt (ht : teamAt s t = some tm) (j : Nat) :
    (sliceAt s ⟨t.core, t.slot, some j⟩).map Prod.snd = tm.strands[j]? := by
  have hteam : teamAt s (teamIdOf ⟨t.core, t.slot, some j⟩) = some tm := ht
  rw [sliceAt, hteam]
  exact Option.map_map .. |>.trans (Option.map_id' ..)

/-- An operation on one strand of a team after another, each on a strand of its own: the team is replaced, with these strands changed. -/
theorem foldl_strands {β : Type} {op : State → β → State} {key : β → Nat} {g : β → Slice → Slice}
    (hop : ∀ tm p x, tm.strands[key p]? = some x → x.stepBit = false →
      op (putTeam s t tm) p = putTeam s t (tm.putSlice (some (key p)) (g p x)))
    {ps : List β} (hnodup : (ps.map key).Nodup) (hps : ∀ p ∈ ps, ∃ x, tm.strands[key p]? = some x ∧ x.stepBit = false) :
    ∃ ys, ps.foldl op (putTeam s t tm) = putTeam s t { tm with strands := ys } ∧
      (∀ p ∈ ps, ∀ x, tm.strands[key p]? = some x → ys[key p]? = some (g p x)) ∧ ∀ j, j ∉ ps.map key → ys[j]? = tm.strands[j]? := by
  induction ps generalizing tm with
  | nil => exact ⟨tm.strands, rfl, nofun, fun _ _ => rfl⟩
  | cons p ps ih =>
    obtain ⟨hp, hrest⟩ := List.forall_mem_cons.1 hps
    obtain ⟨hnot, hnodup⟩ := List.nodup_cons.1 hnodup
    obtain ⟨x, hx, hbit⟩ := hp
    have hother {j : Nat} (hj : j ≠ key p) : (tm.putSlice (some (key p)) (g p x)).strands[j]? = tm.strands[j]? :=
      Team.slice_putSlice_ne tm (w := some (key p)) (w' := some j) (by simpa using hj) _
    have hmem {q : β} (hq : q ∈ ps) : key q ≠ key p := fun h => hnot (h ▸ List.mem_map_of_mem hq)
    obtain ⟨ys, hfold, hchanged, hsame⟩ := ih (tm := tm.putSlice (some (key p)) (g p x)) hnodup fun q hq => by
      rw [hother (hmem hq)]; exact hrest q hq
    refine ⟨ys, by rw [List.foldl_cons, hop tm p x hx hbit, hfold]; rfl,
      List.forall_mem_cons.2 ⟨fun y hy => ?_, fun q hq y hy => ?_⟩, fun j hj => ?_⟩
    · obtain rfl : x = y := Option.some.inj (hx.symm.trans hy)
      rw [hsame _ hnot]
      exact Team.slice_putSlice_self (w := some (key p)) hx _
    · exact hchanged q hq y ((hother (hmem hq)).trans hy)
    · obtain ⟨hne, hj⟩ := not_or.1 (List.mem_cons.not.1 hj)
      rw [hsame j hj, hother hne]

theorem wake_putTeam {j : Nat} {x : Slice} (hx : tm.strands[j]? = some x) :
    wake t (putTeam s t tm) j = putTeam s t (tm.putSlice (some j) x.woken) := by
  rw [wake, modSlice_of_sliceAt (sliceAt_putTeam_strand hx)]
  exact putTeam_putTeam_self ..

theorem finishTo_putTeam {j : Nat} {x : Slice} (hx : tm.strands[j]? = some x) (hb : x.stepBit = false) {f : Form}
    (hd : ∀ q, f.d ≠ .queue q) (next : Word) (r : DWord × Word) :
    finishTo (putTeam s t tm) ⟨t.core, t.slot, some j⟩ f ⟨0, 0, 0, []⟩ next r.1 r.2 =
      putTeam s t (tm.putSlice (some j) (x.completed f next r)) := by
  rw [finishTo_of_no_step (sliceAt_putTeam_strand hx) rfl hd hb]
  exact putTeam_putTeam_self ..

/-- All members go on, each with the result of its rank (R161). -/
theorem completeAll_putTeam {f : Form} (hd : ∀ q, f.d ≠ .queue q) (next : Word) {xs : List Member}
    (hnodup : (xs.map Member.strand).Nodup) (hxs : ∀ m ∈ xs, ∃ x, tm.strands[m.strand]? = some x ∧ x.stepBit = false)
    (res : Nat → Member → DWord × Word) :
    ∃ ys, completeAll ((xs.map Member.strand).foldl (wake t) (putTeam s t tm)) t f [] next (xs.zip (List.range xs.length)) res =
        putTeam s t { tm with strands := ys } ∧
      (∀ (r : Nat) (m : Member) (x : Slice), xs[r]? = some m → tm.strands[m.strand]? = some x →
        ys[m.strand]? = some (x.woken.completed f next (res r m))) ∧
      ∀ j, j ∉ xs.map Member.strand → ys[j]? = tm.strands[j]? := by
  have hranks : (xs.zip (List.range xs.length)).map (fun p => p.1.strand) = xs.map Member.strand :=
    calc (xs.zip (List.range xs.length)).map (fun p => p.1.strand)
      _ = ((xs.zip (List.range xs.length)).map Prod.fst).map Member.strand := List.map_map.symm
      _ = xs.map Member.strand := by rw [List.map_fst_zip (by simp)]
  obtain ⟨ws, hwake, hawake, hasleep⟩ := foldl_strands (s := s) (t := t) (tm := tm) (op := fun s m => wake t s m.strand)
    (key := Member.strand) (g := fun _ => Slice.woken) (fun _ _ _ hx _ => wake_putTeam hx) hnodup hxs
  obtain ⟨ys, hdone, hcompleted, hleft⟩ := foldl_strands (s := s) (t := t) (tm := { tm with strands := ws })
    (op := fun s (p : Member × Nat) =>
      finishTo s ⟨t.core, t.slot, some p.1.strand⟩ f ⟨0, 0, 0, []⟩ next (res p.2 p.1).1 (res p.2 p.1).2)
    (key := fun p => p.1.strand) (g := fun p x => x.completed f next (res p.2 p.1)) (ps := xs.zip (List.range xs.length))
    (fun _ p _ hx hb => finishTo_putTeam hx hb hd next (res p.2 p.1)) (hranks ▸ hnodup) (fun p hp => by
      have hm := (List.of_mem_zip hp).1
      obtain ⟨x, hx, hb⟩ := hxs p.1 hm
      exact ⟨x.woken, hawake p.1 hm x hx, hb⟩)
  refine ⟨ys, ?_, fun r m x hm hx => ?_, fun j hj => (hleft j (hranks ▸ hj)).trans (hasleep j hj)⟩
  · rw [List.foldl_map, hwake]
    exact hdone
  · have hrange := List.getElem?_range (List.getElem?_eq_some_iff.1 hm).1
    have hzip : (m, r) ∈ xs.zip (List.range xs.length) := List.mem_of_getElem? (List.getElem?_zip_eq_some.2 ⟨hm, hrange⟩)
    exact hcompleted (m, r) hzip x.woken (hawake m (List.mem_of_getElem? hm) x hx)

end

/-! ### A circle whose last strand arrives -/

/-- A team replaced: the other teams of its core, the other cores and all else of its own are as before. -/
theorem putTeam_frame (s : State) (t : TeamId) (tm : Team) :
    (∀ c, c ≠ t.core → core (putTeam s t tm) c = core s c) ∧
    core (putTeam s t tm) t.core = { core s t.core with
      active := { (core s t.core).active with teams := (core (putTeam s t tm) t.core).active.teams } } ∧
    ∀ n, n ≠ t.slot → teamAt (putTeam s t tm) ⟨t.core, n⟩ = teamAt s ⟨t.core, n⟩ := by
  refine ⟨fun c hc => (core_modCore ..).trans (if_neg hc), ?_, fun n hn => ?_⟩
  · rw [putTeam, core_modCore, if_pos rfl]
  · rw [teamAt_putTeam, if_neg fun h => hn (congrArg TeamId.slot h)]

/-- A live strand breaks no circle where what it has arrived at, if anything, is the same rendezvous (R162). -/
theorem breaksCircle_eq_false_of_same {tm : Team} {j : Nat} {x : Slice} {ar : Arrival} (hx : tm.strands[j]? = some x)
    (hlive : x.run ≠ .exited) (hsame : ∀ w, x.arrived = some w → w.pc = ar.pc ∧ w.mask = ar.mask) : breaksCircle tm ar j = false := by
  have hrun : x.live = true := bne_iff_ne.2 hlive
  rw [breaksCircle, hx]
  cases harr : x.arrived with
  | none => simp [hrun, harr]
  | some w => simp [hrun, harr, hsame w harr]

/-- Every strand that strand `k`'s mask names stands with its step bit clear, and each but `k` itself lives and has arrived where `k` is
about to (R161). -/
def OthersArrived (tm : Team) (sl : Slice) (k : Nat) (arr : Nat → Arrival) : Prop :=
  ∀ j ∈ circleOf sl.circle k, ∃ x, tm.strands[j]? = some x ∧ x.stepBit = false ∧
    (j ≠ k → x.run ≠ .exited ∧ x.arrived = some (arr j) ∧ (arr j).pc = sl.pc ∧ (arr j).mask = sl.circle)

/-- No arrived strand outside the circle of strand `k` names `k`, or a strand that breaks its own circle (R162). -/
def OutsideUnbroken (tm : Team) (sl : Slice) (k : Nat) : Prop :=
  ∀ j x y, j ∉ circleOf sl.circle k → tm.strands[j]? = some x → x.arrived = some y → ∀ m ∈ circleOf y.mask j,
    m ≠ k ∧ ∃ z, tm.strands[m]? = some z ∧ z.run ≠ .exited ∧ (∀ w, z.arrived = some w → w.pc = y.pc ∧ w.mask = y.mask)

section
variable {tm : Team} {sl y : Slice} {k : Nat} {ar : Arrival} {arr : Nat → Arrival} (hsl : tm.strands[k]? = some sl)
  (hy : y.arrived = some ar) (hmask : ar.mask = sl.circle) (hpc : ar.pc = sl.pc) (hcircle : OthersArrived tm sl k arr)

/-- A strand changed is the new one; the others are as before. -/
theorem strands_putSlice_ne {j : Nat} (hj : j ≠ k) : (tm.putSlice (some k) y).strands[j]? = tm.strands[j]? :=
  Team.slice_putSlice_ne tm (w := some k) (w' := some j) (by simpa using hj) y

include hsl in
theorem strands_putSlice_self : (tm.putSlice (some k) y).strands[k]? = some y := Team.slice_putSlice_self (w := some k) hsl y

include hsl hy hmask hpc hcircle

/-- Once the last strand has arrived, every strand of its circle is at the rendezvous. -/
theorem exists_member {j : Nat} (hj : j ∈ circleOf sl.circle k) : ∃ x, (tm.putSlice (some k) y).strands[j]? = some x ∧
    x.arrived = some (Function.update arr k ar j) ∧ (j ≠ k → x.run ≠ .exited) ∧
    (Function.update arr k ar j).pc = sl.pc ∧ (Function.update arr k ar j).mask = sl.circle := by
  by_cases hjk : j = k
  · subst hjk
    rw [Function.update_self]
    exact ⟨y, strands_putSlice_self hsl, hy, fun h => absurd rfl h, hpc, hmask⟩
  · obtain ⟨x, hx, -, hothers⟩ := hcircle j hj
    obtain ⟨hlive, harr, hpc', hmask'⟩ := hothers hjk
    rw [Function.update_of_ne hjk]
    exact ⟨x, (strands_putSlice_ne hjk).trans hx, harr, fun _ => hlive, hpc', hmask'⟩

/-- No arrival is broken: those of the circle name it alone, and the others name live strands that have arrived nowhere else. -/
theorem brokenArrivals_of_formed (hlive : y.run ≠ .exited) (hself : k ∈ circleOf sl.circle k)
    (houtside : OutsideUnbroken tm sl k) :
    (tm.putSlice (some k) y).indexed.filterMap (brokenArrival (tm.putSlice (some k) y)) = [] := by
  refine brokenArrivals_eq_nil_of_forall fun j x ar' hx harr m hm => ?_
  by_cases hj : j ∈ circleOf sl.circle k
  · obtain ⟨x', hx', harr', -, hpc', hmask'⟩ := exists_member hsl hy hmask hpc hcircle hj
    obtain rfl : x' = x := Option.some.inj (hx'.symm.trans hx)
    obtain rfl : _ = ar' := Option.some.inj (harr'.symm.trans harr)
    have hm' : m ∈ circleOf sl.circle k := by rwa [membersOf, hmask', circleMembers_eq, circleOf_of_mem hj] at hm
    obtain ⟨z, hz, hzarr, hzlive, hzpc, hzmask⟩ := exists_member hsl hy hmask hpc hcircle hm'
    refine breaksCircle_eq_false_of_same hz ?_ fun w hw => ?_
    · by_cases hmk : m = k
      · subst hmk
        obtain rfl : y = z := Option.some.inj ((strands_putSlice_self hsl).symm.trans hz)
        exact hlive
      · exact hzlive hmk
    · obtain rfl := Option.some.inj (hzarr.symm.trans hw)
      exact ⟨hzpc.trans hpc'.symm, hzmask.trans hmask'.symm⟩
  · have hjk : j ≠ k := fun h => hj (h ▸ hself)
    obtain ⟨hmk, z, hz, hzlive, hsame⟩ := houtside j x ar' hj ((strands_putSlice_ne hjk).symm.trans hx) harr m hm
    exact breaksCircle_eq_false_of_same ((strands_putSlice_ne hmk).trans hz) hzlive hsame

end

/-- A strand beside one that has arrived, or the one itself, has what it had, but for its wait. -/
theorem strand_of_joining {tm : Team} {sl x : Slice} {j k : Nat} (hsl : tm.strands[k]? = some sl) (hx : tm.strands[j]? = some x)
    (ar : Arrival) : ∃ x', (tm.putSlice (some k) (sl.joining ar)).strands[j]? = some x' ∧
      x'.regs = x.regs ∧ x'.fflags = x.fflags ∧ x'.circle = x.circle ∧ x'.stepBit = x.stepBit := by
  by_cases hj : j = k
  · subst hj
    obtain rfl : sl = x := Option.some.inj (hsl.symm.trans hx)
    exact ⟨_, strands_putSlice_self hsl, rfl, rfl, rfl, rfl⟩
  · exact ⟨x, (strands_putSlice_ne hj).trans hx, rfl, rfl, rfl, rfl⟩

/-- What the members of a circle bring, when its last strand arrives. -/
def circleMembersWith (mask : DWord) (k : Nat) (arr : Nat → Arrival) (a b : Word) : List Member :=
  (circleOf mask k).map fun j => if j = k then ⟨k, a, b⟩ else ⟨j, (arr j).a, (arr j).b⟩

theorem map_strand_circleMembersWith (mask : DWord) (k : Nat) (arr : Nat → Arrival) (a b : Word) :
    (circleMembersWith mask k arr a b).map Member.strand = circleOf mask k := by
  rw [circleMembersWith, List.map_map]
  refine (List.map_congr_left fun j _ => ?_).trans (List.map_id _)
  by_cases h : j = k <;> simp [h]

theorem ofOneCircle_circleMembersWith {mask : DWord} {k : Nat} (hself : k ∈ circleOf mask k) (arr : Nat → Arrival) (a b : Word) :
    OfOneCircle (circleMembersWith mask k arr a b) := by
  refine ⟨fun h => ?_, ?_⟩
  · rw [circleMembersWith, List.map_eq_nil_iff] at h
    rw [h] at hself
    cases hself
  · have hmap := congrArg (List.map (· % 64)) (map_strand_circleMembersWith mask k arr a b)
    rw [List.map_map] at hmap
    exact hmap ▸ nodup_circleOf_mod mask k

theorem rendezvousMembers_of_formed {tm : Team} {mask : DWord} {k : Nat} {ar : Arrival} {arr : Nat → Arrival}
    (h : ∀ j ∈ circleOf mask k, ∃ x, tm.strands[j]? = some x ∧ x.arrived = some (Function.update arr k ar j)) :
    rendezvousMembers tm (circleOf mask k) = circleMembersWith mask k arr ar.a ar.b := by
  rw [rendezvousMembers_eq_map h, circleMembersWith]
  refine List.map_congr_left fun j _ => ?_
  by_cases hj : j = k
  · rw [if_pos hj, hj, Function.update_self]
  · rw [if_neg hj, Function.update_of_ne hj]

section
variable {f : Form} {stored : Bool} {s : State} {tm : Team} {sl : Slice} {v : Vals} {k : Nat} {arr : Nat → Arrival}
  (hk : s.cur.strand = some k) (hg : Gathers s f (.ok ()) tm sl v) (hself : k ∈ circleOf sl.circle k) (hcircle : OthersArrived tm sl k arr)
include hk hg hcircle

/-- The strands of the circle are at the rendezvous, each with what it brings. -/
theorem rendezvous_of_formed :
    (∀ j ∈ circleOf sl.circle k, arrivedAt (tm.arriving k sl (arrivalOf f sl v)) (arrivalOf f sl v) j = true) ∧
    rendezvousMembers (tm.arriving k sl (arrivalOf f sl v)) (circleOf sl.circle k) =
      circleMembersWith sl.circle k arr (lowWord v.a) (lowWord v.b) := by
  have hslice : tm.slice (some k) = some sl := hk ▸ (teamAt_of_sliceAt hg.1).2
  have hmember {j : Nat} (hj : j ∈ circleOf sl.circle k) :=
    exists_member (y := { sl with arrived := some (arrivalOf f sl v) }) (ar := arrivalOf f sl v) hslice rfl rfl rfl hcircle hj
  refine ⟨fun j hj => ?_, rendezvousMembers_of_formed fun j hj => (hmember hj).imp fun _ h => ⟨h.1, h.2.1⟩⟩
  obtain ⟨x, hx, harr, -, hpc, hmask⟩ := hmember hj
  exact arrivedAt_of_arrived hx harr hpc hmask

include hself in
/-- The arrival of the last strand replaces the team once: the members have completed, and the other strands are as before. -/
theorem arrive_of_formed (houtside : OutsideUnbroken tm sl k) (hpops : v.pops = []) (hd : ∀ q, f.d ≠ .queue q)
    (hstored : stored = true → ∀ j ∈ circleOf sl.circle k, storesPending s (tm.name (some j)) = false)
    (res : List Member → Nat → Member → DWord × Word) {xs : List Member}
    (hxs : circleMembersWith sl.circle k arr (lowWord v.a) (lowWord v.b) = xs) :
    ∃ ys, arrive f stored s res = .next (putTeam s (teamIdOf s.cur) { tm with strands := ys }) ∧
      (∀ (r : Nat) (m : Member) (x : Slice), xs[r]? = some m → tm.strands[m.strand]? = some x → ∃ x', ys[m.strand]? = some x' ∧
        x'.run = .runnable ∧ x'.pc = nextPc sl.pc f.len ∧ x'.arrived = none ∧ x'.regs = writtenRegs f.d f.dw (res xs r m).1 x.regs ∧
        x'.fflags = x.fflags ||| (res xs r m).2 ∧ x'.circle = x.circle) ∧
      ∀ j, j ∉ circleOf sl.circle k → ys[j]? = tm.strands[j]? := by
  have hslice : tm.slice (some k) = some sl := hk ▸ (teamAt_of_sliceAt hg.1).2
  obtain ⟨hall, hmembers⟩ := rendezvous_of_formed hk hg hcircle
  have hstrands : xs.map Member.strand = circleOf sl.circle k := hxs ▸ map_strand_circleMembersWith ..
  have hwaiting : putSlice s s.cur tm (sl.joining (arrivalOf f sl v)) =
      putTeam s (teamIdOf s.cur) (tm.putSlice (some k) (sl.joining (arrivalOf f sl v))) := by rw [putSlice, hk]
  have hnotrap := circleTraps_of_none (teamAt_putTeam_self s (teamIdOf s.cur) (tm.putSlice (some k) (sl.joining (arrivalOf f sl v))))
    (brokenArrivals_of_formed hslice rfl rfl rfl hcircle Run.noConfusion hself houtside)
  have hpresent : ∀ m ∈ xs, ∃ x,
      (tm.putSlice (some k) (sl.joining (arrivalOf f sl v))).strands[m.strand]? = some x ∧ x.stepBit = false := by
    intro m hm
    obtain ⟨x, hx, hb, -⟩ := hcircle m.strand (hstrands ▸ List.mem_map_of_mem hm)
    obtain ⟨x', hx', -, -, -, hbit⟩ := strand_of_joining hslice hx (arrivalOf f sl v)
    exact ⟨x', hx', hbit.trans hb⟩
  obtain ⟨ys, hdone, hcompleted, hleft⟩ := completeAll_putTeam (s := s) (t := teamIdOf s.cur)
    (tm := tm.putSlice (some k) (sl.joining (arrivalOf f sl v))) hd (nextPc sl.pc f.len) (xs := xs)
    (hstrands ▸ nodup_circleOf sl.circle k) hpresent (res xs)
  refine ⟨ys, ?_, fun r m x hm hx => ?_, fun j hj => ?_⟩
  · rw [arrive_of_all_arrived hk hg hall hstored res (hmembers.trans hxs), hwaiting, hnotrap, hpops, ← hstrands, hdone]
    rfl
  · obtain ⟨x', hx', hregs, hflags, hmask, -⟩ := strand_of_joining hslice hx (arrivalOf f sl v)
    rw [← hregs, ← hflags, ← hmask]
    exact ⟨_, hcompleted r m x' hm hx', rfl, rfl, rfl, rfl, rfl, rfl⟩
  · have hjk : j ≠ k := fun h => hj (h ▸ hself)
    exact (hleft j (hstrands ▸ hj)).trans (strands_putSlice_ne hjk)

end

/-- Settles O36: no arrival is broken and all members are at the rendezvous, so the arriving strand completes the collective for all, which
replaces their team once. -/
theorem collectivesComplete : Obligations.CollectivesComplete := by
  intro i f stored res s tm sl v k arr hrule hk hg hpops hd hself hcircle houtside hstored xs
  obtain ⟨res', hexec, hres⟩ := exec_of_collectiveRule_results hrule s
  obtain ⟨ys, harrive, hcompleted, hleft⟩ := arrive_of_formed hk hg hself hcircle houtside hpops hd hstored res' (xs := xs) rfl
  obtain ⟨hcores, hcore, hteams⟩ := putTeam_frame s (teamIdOf s.cur) { tm with strands := ys }
  refine ⟨_, hexec.trans harrive, rfl, fun r j m x hr hm hx => ?_, fun j hj => ?_, hcores, hcore, hteams, ys, teamAt_putTeam_self ..⟩
  · have hrank : (circleOf sl.circle k)[r]? = some m.strand := by
      rw [← map_strand_circleMembersWith sl.circle k arr (lowWord v.a) (lowWord v.b), List.getElem?_map]
      exact congrArg (Option.map Member.strand) hm
    obtain rfl : m.strand = j := Option.some.inj (hrank.symm.trans hr)
    rw [← hres xs (ofOneCircle_circleMembersWith hself arr _ _) r m]
    obtain ⟨x', hx', hdone⟩ := hcompleted r m x hm hx
    exact ⟨_, x', sliceAt_putTeam_strand hx', hdone⟩
  · exact (map_sliceAt_of_teamAt (teamAt_putTeam_self ..) j).trans (hleft j hj)

end Sys2Proof.Machine
end

section
/-! CLAIM. A collective in a circle of one, and FENCE once nothing of its scope is left (R159, R161, R164 to R168, R286, R373). -/

namespace Sys2Proof.Machine

/-! ### A strand that other strands' traps leave alone -/

/-- A trap of another strand of the team leaves a strand as it was (R100). -/
theorem map_sliceAt_trapSlice {s : State} {t : TeamId} {j k : Nat} (hj : j ≠ k) (i : TrapInfo) :
    (sliceAt (trapSlice s ⟨t.core, t.slot, some j⟩ i) ⟨t.core, t.slot, some k⟩).map Prod.snd =
      (sliceAt s ⟨t.core, t.slot, some k⟩).map Prod.snd := by
  cases hat : sliceAt s ⟨t.core, t.slot, some j⟩ with
  | none => rw [trapSlice, hat]
  | some x =>
    obtain ⟨tm, sl⟩ := x
    have hteam : teamAt s t = some tm := (teamAt_of_sliceAt hat).1
    rw [trapSlice_of_sliceAt hat]
    rw [map_sliceAt_of_teamAt hteam, ← strands_putSlice_ne hj.symm]
    exact map_sliceAt_of_teamAt (teamAt_putTeam_self ..) k

/-- A strand whose arrival is broken names one that breaks its circle (R162). -/
theorem brokenArrival_eq_some {tm : Team} {p : Nat × Slice} {q : Nat × Arrival} (h : brokenArrival tm p = some q) :
    q.1 = p.1 ∧ p.2.arrived = some q.2 ∧ ∃ m ∈ membersOf p.1 q.2, breaksCircle tm q.2 m = true := by
  unfold brokenArrival at h
  split at h
  · cases h
  next ar harr =>
    split at h
    next hany =>
      cases h
      exact ⟨rfl, harr, List.any_eq_true.1 hany⟩
    next => cases h

/-- The traps of broken circles leave a strand alone whose own circle is not broken (R162). -/
theorem map_sliceAt_circleTraps {s : State} {t : TeamId} {tm : Team} {sl : Slice} {k : Nat} {ar : Arrival} (ht : teamAt s t = some tm)
    (hsl : tm.strands[k]? = some sl) (harr : sl.arrived = some ar) (hkept : ∀ m ∈ membersOf k ar, breaksCircle tm ar m = false) :
    (sliceAt (circleTraps s t) ⟨t.core, t.slot, some k⟩).map Prod.snd = some sl := by
  have hothers : ∀ p ∈ tm.indexed.filterMap (brokenArrival tm), p.1 ≠ k := by
    intro p hp hpk
    obtain ⟨⟨j, x⟩, hjx, hbroken⟩ := List.mem_filterMap.1 hp
    obtain ⟨n, hn⟩ := List.mem_iff_getElem?.1 hjx
    obtain ⟨hj, hx⟩ := List.getElem?_zip_eq_some.1 hn
    rw [List.getElem?_range (List.getElem?_eq_some_iff.1 hx).1] at hj
    obtain rfl : n = j := Option.some.inj hj
    obtain ⟨hstrand, hxarr, m, hm, hbreaks⟩ := brokenArrival_eq_some hbroken
    obtain rfl : n = k := hstrand.symm.trans hpk
    obtain rfl : sl = x := Option.some.inj (hsl.symm.trans hx)
    obtain rfl : ar = p.2 := Option.some.inj (harr.symm.trans hxarr)
    exact Bool.false_ne_true ((hkept m hm).symm.trans hbreaks)
  have hfold (ps : List (Nat × Arrival)) (hps : ∀ p ∈ ps, p.1 ≠ k) (s : State) :
      (sliceAt (ps.foldl (fun s p => trapSlice s ⟨t.core, t.slot, some p.1⟩ { cause := .circleMask, next := p.2.next }) s)
        ⟨t.core, t.slot, some k⟩).map Prod.snd = (sliceAt s ⟨t.core, t.slot, some k⟩).map Prod.snd := by
    induction ps generalizing s with
    | nil => rfl
    | cons p ps ih =>
      obtain ⟨hp, hps⟩ := List.forall_mem_cons.1 hps
      exact (ih hps _).trans (map_sliceAt_trapSlice hp _)
  rw [circleTraps, ht]
  exact (hfold _ hothers s).trans ((map_sliceAt_of_teamAt ht k).trans hsl)

theorem kept_circleTraps (s : State) (t : TeamId) : Kept s (circleTraps s t) := by
  unfold circleTraps
  split
  · exact Kept.refl s
  · exact Kept.foldl (fun s p => Kept.trapSlice s _ _) _ s

/-! ### A circle of one (R159, R161) -/

/-- What an instruction leaves that completes with a result and flags: the slice at the next instruction, every byte of main memory and every
access in flight. -/
def CompletesWith (s : State) (sl : Slice) (i : Instr) (f : Form) (r : DWord) (fl : Word) : Prop :=
  ∃ t tm' sl', exec i s = .next t ∧ sliceAt t s.cur = some (tm', sl') ∧ sl'.pc = sl.pc + BitVec.ofNat 32 (4 * f.len) ∧
    sl'.regs = writtenRegs f.d f.dw r sl.regs ∧ sl'.fflags = sl.fflags ||| fl ∧ sl'.arrived = none ∧ sl'.stall = none ∧
    (s.cur.strand.isSome = true → sl'.run = .runnable) ∧ t.mem = s.mem ∧ t.inflight = s.inflight

theorem kept_completeAll (s : State) (t : TeamId) (f : Form) (pops : List Nat) (next : Word) (ms : List (Member × Nat))
    (res : Nat → Member → DWord × Word) : Kept s (completeAll s t f pops next ms res) :=
  Kept.foldl (fun _ _ => Kept.finishTo ..) ms s

/-- A rendezvous of one member. -/
theorem completeAll_singleton {s : State} {t : TeamId} {m : Member} {tm : Team} {sl : Slice}
    (hat : sliceAt s ⟨t.core, t.slot, some m.strand⟩ = some (tm, sl)) {f : Form} (hd : ∀ q, f.d ≠ .queue q) (hb : sl.stepBit = false)
    (next : Word) (res : Nat → Member → DWord × Word) :
    completeAll (wake t s m.strand) t f [] next [(m, 0)] res =
      putSlice s ⟨t.core, t.slot, some m.strand⟩ tm (sl.woken.completed f next (res 0 m)) := by
  refine (finishTo_of_no_step (sliceAt_modSlice_self hat Slice.woken) rfl hd hb next (res 0 m)).trans ?_
  rw [modSlice_of_sliceAt hat, putSlice_putSlice_self]

section
variable {f : Form} {stored : Bool} {s : State} {tm : Team} {sl : Slice} {v : Vals} {k : Nat} {i : Instr}
  {res : List Member → Nat → Member → DWord × Word} (hk : s.cur.strand = some k) (hg : Gathers s f (.ok ()) tm sl v)
  (halone : circleOf sl.circle k = [k])
include hk hg halone

/-- The arrival of a strand alone in its circle is not broken, and it waits there whatever other strands of its team meet. -/
theorem sliceAt_circleTraps_of_alone : ∃ tm', sliceAt (circleTraps (putSlice s s.cur tm (sl.joining (arrivalOf f sl v))) (teamIdOf s.cur))
    ⟨s.cur.core, s.cur.slot, some k⟩ = some (tm', sl.joining (arrivalOf f sl v)) := by
  have hslice : tm.slice (some k) = some sl := hk ▸ (teamAt_of_sliceAt hg.1).2
  have hself : (tm.putSlice (some k) (sl.joining (arrivalOf f sl v))).strands[k]? = some (sl.joining (arrivalOf f sl v)) :=
    strands_putSlice_self hslice
  have hteam : teamAt (putSlice s s.cur tm (sl.joining (arrivalOf f sl v))) (teamIdOf s.cur) =
      some (tm.putSlice (some k) (sl.joining (arrivalOf f sl v))) := by rw [putSlice, teamAt_putTeam_self, hk]
  have hmembers : membersOf k (arrivalOf f sl v) = [k] := halone
  have hkept : ∀ m ∈ membersOf k (arrivalOf f sl v),
      breaksCircle (tm.putSlice (some k) (sl.joining (arrivalOf f sl v))) (arrivalOf f sl v) m = false := by
    rw [hmembers]
    exact List.forall_mem_singleton.2 (breaksCircle_eq_false hself Run.noConfusion (.inr rfl))
  obtain ⟨⟨tm', sl'⟩, hat, hsl'⟩ := Option.map_eq_some_iff.1 (map_sliceAt_circleTraps hteam hself rfl hkept)
  exact ⟨tm', hat.trans (congrArg (fun x => some (tm', x)) hsl')⟩

/-- It is a rendezvous by itself (R161). -/
theorem arrive_of_alone (hstored : stored = true → storesPending s (tm.name (some k)) = false)
    (res : List Member → Nat → Member → DWord × Word) :
    arrive f stored s res = .next (completeAll (wake (teamIdOf s.cur)
      (circleTraps (putSlice s s.cur tm (sl.joining (arrivalOf f sl v))) (teamIdOf s.cur)) k) (teamIdOf s.cur) f v.pops (nextPc sl.pc f.len)
      [(⟨k, lowWord v.a, lowWord v.b⟩, 0)] (res [⟨k, lowWord v.a, lowWord v.b⟩])) := by
  have hslice : tm.slice (some k) = some sl := hk ▸ (teamAt_of_sliceAt hg.1).2
  have harriving : (tm.arriving k sl (arrivalOf f sl v)).strands[k]? = some { sl with arrived := some (arrivalOf f sl v) } :=
    strands_putSlice_self hslice
  have hall : ∀ j ∈ circleOf sl.circle k, arrivedAt (tm.arriving k sl (arrivalOf f sl v)) (arrivalOf f sl v) j = true := by
    rw [halone]
    exact List.forall_mem_singleton.2 (arrivedAt_of_arrived harriving rfl rfl rfl)
  have hmembers : rendezvousMembers (tm.arriving k sl (arrivalOf f sl v)) (circleOf sl.circle k) = [⟨k, lowWord v.a, lowWord v.b⟩] := by
    rw [halone, rendezvousMembers_eq_map (arr := fun _ => arrivalOf f sl v) (List.forall_mem_singleton.2 ⟨_, harriving, rfl⟩)]
    rfl
  rw [arrive_of_all_arrived hk hg hall (fun h => halone ▸ List.forall_mem_singleton.2 (hstored h)) res hmembers, halone]
  rfl

/-- A strand alone in its circle completes its collective as it arrives. -/
theorem completesWith_of_alone (hexec : exec i s = arrive f stored s res) (hpops : v.pops = []) (hd : ∀ q, f.d ≠ .queue q)
    (hb : sl.stepBit = false) (hstored : stored = true → storesPending s (tm.name (some k)) = false) {r : DWord} {fl : Word}
    (hres : res [⟨k, lowWord v.a, lowWord v.b⟩] 0 ⟨k, lowWord v.a, lowWord v.b⟩ = (r, fl)) : CompletesWith s sl i f r fl := by
  obtain ⟨tm', hat⟩ := sliceAt_circleTraps_of_alone hk hg halone
  have hdone := completeAll_singleton (m := ⟨k, lowWord v.a, lowWord v.b⟩) (t := teamIdOf s.cur) hat hd hb (nextPc sl.pc f.len)
    (res [⟨k, lowWord v.a, lowWord v.b⟩])
  rw [hres] at hdone
  have hstands := sliceAt_putSlice_self (s := circleTraps (putSlice s s.cur tm (sl.joining (arrivalOf f sl v))) (teamIdOf s.cur))
    (teamAt_of_sliceAt hat).2 ((sl.joining (arrivalOf f sl v)).woken.completed f (nextPc sl.pc f.len) (r, fl))
  have hkept := ((Kept.putSlice s s.cur tm (sl.joining (arrivalOf f sl v))).trans (kept_circleTraps _ (teamIdOf s.cur))).trans
    (Kept.putSlice _ ⟨s.cur.core, s.cur.slot, some k⟩ tm'
      ((sl.joining (arrivalOf f sl v)).woken.completed f (nextPc sl.pc f.len) (r, fl)))
  have hid : (⟨s.cur.core, s.cur.slot, some k⟩ : SliceId) = s.cur := by rw [← hk]
  have harrive := arrive_of_alone hk hg halone hstored res
  rw [hpops] at harrive
  exact ⟨_, _, _, hexec.trans (harrive.trans (congrArg _ hdone)), (congrArg _ hid.symm).trans hstands, rfl, rfl, rfl, rfl, rfl,
    fun _ => rfl, hkept.mem, hkept.inflight⟩

end

/-! ### What a collective computes for one member (R165, R166) -/

theorem shflOp_singleton (m : Shf) (x : Member) : shflOp m [x] 0 x = x.a := by
  have hpick (n : Nat) : pickRank [x] n x = x.a := by cases n <;> rfl
  cases m <;> exact hpick _

/-- VOTE of one member, by whether its A is 0. -/
theorem voteOp_singleton (m : Vot) (x : Member) : (voteOp m [x]).setWidth 64 = match m with
    | .count | .maj => if (x.a != 0) = true then (1 : DWord) else 0
    | .first => if x.a = 0 then 0xFFFFFFFF else 0
    | .same => 1 := by
  by_cases h : x.a = 0
  · have hvotes : (x.a != 0) = false := bne_eq_false_iff_eq.2 h
    cases m <;> simp only [voteOp, findIdx, List.filter_cons, hvotes, if_pos h] <;> rfl
  · have hvotes : (x.a != 0) = true := bne_iff_ne.2 h
    cases m <;> simp only [voteOp, findIdx, List.filter_cons, hvotes, if_neg h] <;> rfl

theorem siftOp_singleton (x : Member) : siftOp [x] = if x.a = 0 then 0 else BitVec.ofNat 64 (2 ^ (x.strand % 64)) := by
  by_cases h : x.a = 0
  · have hvotes : (x.a != 0) = false := bne_eq_false_iff_eq.2 h
    rw [siftOp, List.filter_cons, hvotes, if_pos h]; rfl
  · have hvotes : (x.a != 0) = true := bne_iff_ne.2 h
    rw [siftOp, List.filter_cons, hvotes, if_neg h]
    exact congrArg (BitVec.ofNat 64) (Nat.zero_add _)

theorem credfOp_singleton (m : Rdf) (x : Member) : credfOp m [x] = match m with
    | .sum => sumF [x.a]
    | .max => extremeF true 0 [x.a]
    | .min => extremeF false 0 [x.a] := by cases m <;> rfl

theorem crediOp_singleton (m : Rdi) (x : Member) : crediOp m [x] = x.a := by cases m <;> rfl

/-! ### Fences (R286, R373) -/

/-- Combined writes delivered change host memory alone. -/
theorem drainCombiner_eq (s : State) (p : Combined → Bool) : ∃ hm cs, drainCombiner s p = { s with hostMem := hm, combiner := cs } := by
  have hfold (cs : List Combined) (s : State) : ∃ hm, cs.foldl deliverCombined s = { s with hostMem := hm } := by
    induction cs generalizing s with
    | nil => exact ⟨s.hostMem, rfl⟩
    | cons c cs ih =>
      obtain ⟨hm, h⟩ := ih (deliverCombined s c)
      exact ⟨hm, h⟩
  obtain ⟨hm, h⟩ := hfold (s.combiner.filter p) { s with combiner := s.combiner.filter fun c => !p c }
  exact ⟨hm, _, h⟩

/-- The accesses that a fence of a scope is for: the slice's own of the scope, those in package memory, a tile region and host memory while
they have not been performed. -/
def InScope (a : Access) (w : SliceName) (m : Scp) : Prop :=
  a.who = w ∧ a.ofChannel = false ∧
    match m, a.place with
    | .p, .main _ _ _ | .l, .scratch _ _ | .s, .host _ => a.performed = false
    | .f, .fabric _ _ _ _ | .f, .window _ _ _ => True
    | _, _ => False

theorem fenceWaits_eq_false {a : Access} {w : SliceName} {m : Scp} (h : ¬ InScope a w m) : fenceWaits a w m = false := by
  refine Bool.eq_false_iff.2 fun hwaits => h ?_
  unfold fenceWaits at hwaits
  obtain ⟨hmine, hscope⟩ := (Bool.and_eq_true _ _).mp hwaits
  obtain ⟨hwho, hchannel⟩ := (Bool.and_eq_true _ _).mp hmine
  refine ⟨beq_iff_eq.1 hwho, by simpa using hchannel, ?_⟩
  cases hplace : a.place <;> cases m <;> simp_all [Place.scope, Place.isLocal]

/-- Completing without a result, nothing popped and the step bit clear. -/
theorem finishNone_of_no_step {s : State} {tm : Team} {sl : Slice} {v : Vals} (hat : sliceAt s s.cur = some (tm, sl)) (hpops : v.pops = [])
    (hb : sl.stepBit = false) (next : Word) : finishNone v next s = putSlice s s.cur tm (sl.goneOn next) := by
  rw [finishNone, hpops, commitAt_nil]
  exact complete_of_sliceAt hat hb next

/-- A fence that waits for nothing goes on. -/
theorem fence_completes {s : State} {tm : Team} {sl : Slice} {v : Vals} {team : Bool} {m : Scp} {i : Instr}
    (hexec : exec i s = fence team m s) (hg : Gathers s (form0 team) (.ok ()) tm sl v) (hpops : v.pops = []) (hb : sl.stepBit = false)
    (hloads : team = true → loadsPending tm = false) (hnone : ∀ x ∈ s.inflight, ¬ InScope x (tm.name s.cur.strand) m)
    (hrun : s.cur.strand.isSome = true → sl.run = .runnable) : CompletesWith s sl i (form0 team) 0 0 := by
  have hheld : heldByLoads team tm = .ok () := by
    cases team with
    | false => rfl
    | true => simp [heldByLoads, stopIf, hloads rfl]
  obtain ⟨hm, cs, hdrained⟩ : ∃ hm cs, (if m = .s then drainCombiner s fun c => c.who == tm.name s.cur.strand else s) =
      { s with hostMem := hm, combiner := cs } := by
    split
    · exact drainCombiner_eq s _
    · exact ⟨s.hostMem, s.combiner, rfl⟩
  have hwaits : ¬ (s.inflight.any fun a => fenceWaits a (tm.name s.cur.strand) m) = true :=
    Bool.eq_false_iff.1 (List.any_eq_false.2 fun x hx => Bool.eq_false_iff.1 (fenceWaits_eq_false (hnone x hx)))
  have hfence : fence team m s = .next (putSlice { s with hostMem := hm, combiner := cs } s.cur tm (sl.goneOn (nextPc sl.pc 1))) := by
    refine (runOwn_of_gather hg.1 (hg.gather_own hheld)).trans (congrArg Host.Outcome.next ?_)
    dsimp only
    rw [hdrained, if_neg hwaits]
    exact finishNone_of_no_step (s := { s with hostMem := hm, combiner := cs }) hg.1 hpops hb _
  exact ⟨_, _, _, hexec.trans hfence, sliceAt_putSlice_self (teamAt_of_sliceAt hg.1).2 _, rfl, rfl, BitVec.or_zero.symm, rfl, rfl, hrun,
    rfl, rfl⟩

/-- Settles O38: each collective's operation is taken of one member, and each fence finds no access that it waits for. -/
theorem collectivesAndFencesComplete : Obligations.CollectivesAndFencesComplete := by
  intro s tm sl v d a b hpops hd hb done av two bit
  constructor
  · intro k hk halone
    refine ⟨fun hg hstored => ?_, ?_, fun m hg => ?_, ?_, ?_, fun m hg => ?_⟩
    · exact completesWith_of_alone hk hg halone (show exec .join s = execJoin s from rfl) hpops nofun hb (fun _ => hstored) rfl
    · intro m f hg
      exact completesWith_of_alone hk hg halone (show exec (.shfl d a b m) s = execShfl d a b m s from rfl) hpops hd hb nofun
        (congrArg ofWord (shflOp_singleton m _))
    · exact completesWith_of_alone hk hg halone (show exec (.vote d a m) s = execVote d a m s from rfl) hpops hd hb nofun
        (congrArg (·, (0 : Word)) (voteOp_singleton m _))
    · intro f hg
      exact completesWith_of_alone hk hg halone (show exec (.sift d a) s = execSift d a s from rfl) hpops hd hb nofun
        (congrArg (·, (0 : Word)) (siftOp_singleton _))
    · intro m f r hg
      exact completesWith_of_alone hk hg halone (show exec (.credf d a m) s = execCredf d a m s from rfl) hpops hd hb nofun
        (congrArg (fun r : FRes => (r.bits.setWidth 64, r.flags)) (credfOp_singleton m _))
    · exact completesWith_of_alone hk hg halone (show exec (.credi d a m) s = execCredi d a m s from rfl) hpops hd hb nofun
        (congrArg ofWord (crediOp_singleton m _))
  · intro m mine hnone hrun
    exact ⟨fun hg => fence_completes (show exec (.fence m) s = execFence m s from rfl) hg hpops hb nofun hnone hrun,
      fun hg hloads => fence_completes (show exec (.teamFence m) s = execTeamFence m s from rfl) hg hpops hb (fun _ => hloads) hnone hrun⟩

end Sys2Proof.Machine
end

section
/-! SUPPORT. What every step keeps of the memories and of the numbers of the accesses in flight. `Sound o s` says that both are in
order in `s` wherever they are in `o`. It holds of `o` and itself, and each operation of the model keeps it: the few that touch a
memory or the accesses in flight by a rule of their own, every other because it changes none of the five fields that count. -/

namespace Sys2Proof.Machine

-- One lemma after another: elaborated all at once, so many short proofs take a thread each.
set_option Elab.async false

/-- An element of a list of which one element is changed. -/
theorem mem_listModify {α : Type} {f : α → α} {x : α} : ∀ {l : List α} {n : Nat}, x ∈ listModify f l n → x ∈ l ∨ ∃ y ∈ l, x = f y
  | [], n, h => by cases n <;> cases h
  | a :: l, 0, h => by
    rcases List.mem_cons.1 h with rfl | h
    · exact .inr ⟨a, List.mem_cons_self, rfl⟩
    · exact .inl (List.mem_cons_of_mem _ h)
  | a :: l, n + 1, h => by
    rcases List.mem_cons.1 h with rfl | h
    · exact .inl List.mem_cons_self
    · exact (mem_listModify h).imp (List.mem_cons_of_mem _) fun ⟨y, hy, e⟩ => ⟨y, List.mem_cons_of_mem _ hy, e⟩

/-- The memories and the numbers of the accesses in flight are in order in `s` wherever they are in `o`. -/
structure Sound (o s : State) : Prop where
  memories : o.memoriesOk = true → s.memoriesOk = true
  accesses : o.accessesOrdered → s.accessesOrdered

/-- What a result mapped from another came from. -/
theorem map_ok {ε α β : Type} {f : α → β} {x : Except ε α} {b : β} (h : x.map f = .ok b) : ∃ a, x = .ok a ∧ f a = b := by
  cases x with
  | error e => cases h
  | ok a => exact ⟨a, rfl, Except.ok.inj h⟩

/-- A computation that answers has answered at its first step. -/
theorem bind_ok {ε α β : Type} {x : Except ε α} {f : α → Except ε β} {b : β} (h : (x >>= f) = .ok b) :
    ∃ a, x = .ok a ∧ f a = .ok b := by
  cases x with
  | error e => cases h
  | ok a => exact ⟨a, rfl, h⟩

/-- A state that an outcome goes on in is sound. -/
def SoundNext (o : State) (r : Host.Outcome State Fault Refusal) : Prop := ∀ t, r = .next t → Sound o t

theorem SoundNext.next {o s : State} (h : Sound o s) : SoundNext o (.next s) := by
  rintro _ ⟨⟩; exact h

theorem SoundNext.fault {o : State} {f : Fault} : SoundNext o (.fault f) := by
  rintro _ ⟨⟩

theorem SoundNext.refused {o : State} {f : Refusal} : SoundNext o (.refused f) := by
  rintro _ ⟨⟩

/-- What an outcome is turned into keeps what the outcome kept. -/
theorem SoundNext.map {o : State} {r : Host.Outcome State Fault Refusal} {g : State → State} :
    SoundNext o r → (∀ t, Sound o t → Sound o (g t)) →
      SoundNext o (match r with
        | .next t => .next (g t)
        | .fault f => .fault f
        | .refused f => .refused f) := by
  intro h hg
  cases r with
  | next t => exact .next (hg t (h t rfl))
  | fault => exact .fault
  | refused => exact .refused

/-- The state that the reading of a record leaves. -/
def RecordRead.state : RecordRead → State
  | .bytes s _ | .waits s | .stopped s => s

/-- Whole lines written over one after another. -/
theorem wf_staleLines {f : Nat → List Byte} {ls : List Nat} {m : Memory} (h : m.wf = true) :
    (ls.foldl (fun m l => Memory.writeBytes m (128 * l) (f l)) m).wf = true := by
  induction ls generalizing m with
  | nil => exact h
  | cons l ls ih => exact ih (Memory.wf_writeBytes h)

/-- The state that a capture of elements leaves, stopped or not. -/
def captured : Except State (State × List Elem) → State
  | .error s => s
  | .ok r => r.1

namespace Sound

variable {o s t : State}

theorem refl (s : State) : Sound s s := ⟨id, id⟩

/-- What a state holds besides the memories and the accesses in flight is of no account. -/
theorem same (h : Sound o s) (hm : t.mem = s.mem := by rfl) (hh : t.hostMem = s.hostMem := by rfl)
    (hd : t.dies = s.dies := by rfl) (hi : t.inflight = s.inflight := by rfl) (hn : t.nextAccess = s.nextAccess := by rfl) :
    Sound o t where
  memories ho := by simpa only [State.memoriesOk, hm, hh, hd] using h.memories ho
  accesses ho := by simpa only [State.accessesOrdered, hi, hn] using h.accesses ho

theorem kept (h : Sound o s) (k : Kept s t) : Sound o t :=
  ⟨fun ho => k.memoriesOk.trans (h.memories ho), fun ho => k.accessesOrdered.2 (h.accesses ho)⟩

theorem ite {c : Prop} [Decidable c] (hs : Sound o s) (ht : Sound o t) : Sound o (if c then s else t) := by
  split
  · exact hs
  · exact ht

theorem foldl {α : Type} {f : State → α → State} (h : Sound o s) (hf : ∀ s a, Sound o s → Sound o (f s a)) (l : List α) :
    Sound o (l.foldl f s) := by
  induction l generalizing s with
  | nil => exact h
  | cons a l ih => exact ih (hf s a h)

/-- A state that a match names as the first part of a pair. -/
theorem fst {α : Type} {p : State × α} {a : α} (h : Sound o p.1) (e : p = (s, a)) : Sound o s := by
  subst e; exact h

theorem snd {α : Type} {p : α × State} {a : α} (h : Sound o p.2) (e : p = (a, s)) : Sound o s := by
  subst e; exact h

theorem modDie {d : Nat} {f : Die → Die} (h : Sound o s) (hf : ∀ k, (f k).weights = k.weights := by intro; rfl) :
    Sound o (modDie s d f) :=
  h.kept (Kept.modDie s d f hf)

theorem mapDies {f : Die → Die} (h : Sound o s) (hf : ∀ k, (f k).weights = k.weights := by intro; rfl) :
    Sound o { s with dies := s.dies.map f } :=
  h.kept ⟨rfl, rfl, by simp only [List.map_map, Function.comp_def, hf], rfl, rfl, rfl⟩

/-- A change of the accesses in flight that leaves their numbers. -/
theorem mapInflight {f : Access → Access} (h : Sound o s) (hf : ∀ a, (f a).n = a.n := by intro; rfl) :
    Sound o { s with inflight := s.inflight.map f } where
  memories := h.memories
  accesses ho := by
    obtain ⟨hord, hlt⟩ := h.accesses ho
    refine ⟨?_, fun a ha => ?_⟩
    · simpa only [List.map_map, Function.comp_def, hf] using hord
    · obtain ⟨b, hb, rfl⟩ := List.mem_map.1 ha
      exact (hf b).trans_lt (hlt b hb)

theorem modAccess {n : Nat} {f : Access → Access} (h : Sound o s) (hf : ∀ a, (f a).n = a.n := by intro; rfl) :
    Sound o (modAccess s n f) :=
  h.mapInflight fun a => by split <;> [exact hf a; rfl]

/-- Fewer accesses in flight. -/
theorem filterInflight {p : Access → Bool} (h : Sound o s) : Sound o { s with inflight := s.inflight.filter p } where
  memories := h.memories
  accesses ho :=
    ⟨(h.accesses ho).1.sublist (List.filter_sublist.map _), fun a ha => (h.accesses ho).2 a (List.mem_filter.1 ha).1⟩

theorem dropAccess {n : Nat} (h : Sound o s) : Sound o (dropAccess s n) := h.filterInflight

/-- One more access under the next number. -/
theorem addAccess {a : Access} (h : Sound o s) (ha : a.n = s.nextAccess) :
    Sound o { s with inflight := s.inflight ++ [a], nextAccess := s.nextAccess + 1 } where
  memories := h.memories
  accesses ho := by
    obtain ⟨hord, hlt⟩ := h.accesses ho
    refine ⟨?_, fun b hb => ?_⟩
    · simp only [List.map_append, List.map_cons, List.map_nil, List.pairwise_append]
      refine ⟨hord, List.pairwise_singleton _ _, fun x hx y hy => ?_⟩
      obtain ⟨b, hb, rfl⟩ := List.mem_map.1 hx
      rw [List.mem_singleton.1 hy, ha]
      exact hlt b hb
    · rcases List.mem_append.1 hb with hb | hb
      · exact Nat.lt_succ_of_lt (hlt b hb)
      · rw [List.mem_singleton.1 hb, ha]
        exact Nat.lt_succ_self _

/-- A number passed over. -/
theorem skipNumber (h : Sound o s) : Sound o { s with nextAccess := s.nextAccess + 1 } where
  memories := h.memories
  accesses ho := ⟨(h.accesses ho).1, fun a ha => Nat.lt_succ_of_lt ((h.accesses ho).2 a ha)⟩

theorem writeHostMem {pa : Nat} {bs : List Byte} (h : Sound o s) :
    Sound o { s with hostMem := Memory.writeBytes s.hostMem pa bs } where
  memories ho := by
    have hs := h.memories ho
    simp only [State.memoriesOk, Bool.and_eq_true] at hs ⊢
    exact ⟨⟨hs.1.1, Memory.wf_writeBytes hs.1.2⟩, hs.2⟩
  accesses := h.accesses

theorem clearMem (h : Sound o s) : Sound o { s with mem := [] } where
  memories ho := by
    have hs := h.memories ho
    simp only [State.memoriesOk, Bool.and_eq_true] at hs ⊢
    exact ⟨⟨rfl, hs.1.2⟩, hs.2⟩
  accesses := h.accesses

theorem writeWeights {d a : Nat} {bs : List Byte} {f : Die → Die} (h : Sound o s)
    (hf : ∀ k, (f k).weights = Memory.writeBytes k.weights a bs) :
    Sound o (Machine.modDie s d f) where
  memories ho := by
    have hs := h.memories ho
    simp only [State.memoriesOk, Bool.and_eq_true, List.all_eq_true] at hs ⊢
    refine ⟨hs.1, fun k hk => ?_⟩
    obtain hk | ⟨k', hk', rfl⟩ := mem_listModify hk
    · exact hs.2 k hk
    · exact hf k' ▸ Memory.wf_writeBytes (hs.2 k' hk')
  accesses := h.accesses

theorem clearWeights {f : Die → Die} (h : Sound o s) (hf : ∀ k, (f k).weights = []) :
    Sound o { s with dies := s.dies.map f } where
  memories ho := by
    have hs := h.memories ho
    simp only [State.memoriesOk, Bool.and_eq_true, List.all_map, List.all_eq_true] at hs ⊢
    exact ⟨hs.1, fun k _ => by simp [hf]⟩
  accesses := h.accesses

theorem noAccess (h : Sound o s) : Sound o { s with inflight := [] } where
  memories := h.memories
  accesses _ := ⟨List.Pairwise.nil, fun _ ha => absurd ha List.not_mem_nil⟩

theorem writeKeyed {k pa : Nat} {bs : List Byte} (h : Sound o s) : Sound o (writeKeyed s k pa bs) where
  memories ho := writeKeyed_memoriesOk s k pa bs (h.memories ho)
  accesses ho := by
    simpa only [State.accessesOrdered, writeKeyed_inflight, writeKeyed_nextAccess] using h.accesses ho

end Sound

namespace Sound

variable {o s : State} {c launch number gang line q off size pa key n slot e world entry target u chan fn : Nat}
  {f : Form} {t : TeamId} {id : SliceId} {p : Packet} {tm : Team} {w : SliceName} {l : Fin 8} {next pc : Word}
  {m : Lvl} {lw dcmd : DWord} {v : Vals} {sl : Slice} {bs : List Byte} {g : Gang} {a : Access} {op : MemOp} {b : Src}
  {team refuse : Bool} {d : Dst} {imm : BitVec 17} {ch : Channel} {ys : List Scattered}

/-! The operations on a slice, a team and a core that `Kept` speaks of. -/

theorem putCore {k : Core} (h : Sound o s) : Sound o (Machine.putCore s c k) := h.kept (Kept.putCore _ _ _)

theorem modCore {f : Core → Core} (h : Sound o s) : Sound o (Machine.modCore s c f) := h.kept (Kept.modCore _ _ _)

theorem modTeam {f : Team → Team} (h : Sound o s) : Sound o (Machine.modTeam s t f) := h.kept (Kept.modTeam _ _ _)

theorem modSlice {f : Slice → Slice} (h : Sound o s) : Sound o (Machine.modSlice s id f) :=
  h.kept (Kept.modSlice _ _ _)

theorem modGang {f : Gang → Gang} (h : Sound o s) : Sound o (Machine.modGang s launch number f) :=
  h.kept (Kept.modGang _ _ _ _)

theorem modLaunch {id : Nat} {f : Launch → Launch} (h : Sound o s) : Sound o (Machine.modLaunch s id f) :=
  h.kept (Kept.modLaunch _ _ _)

theorem putTeamAt {p : TeamPlace} (h : Sound o s) : Sound o (Machine.putTeamAt s p tm) :=
  h.kept (Kept.putTeamAt _ _ _)

theorem modNamed {gteam : Nat} {f : Team → Team} (h : Sound o s) : Sound o (Machine.modNamed s launch gang gteam f) :=
  h.kept (Kept.modNamed _ _ _ _ _)

theorem modNamedSlice {f : Slice → Slice} (h : Sound o s) : Sound o (Machine.modNamedSlice s w f) :=
  h.kept (Kept.modNamedSlice _ _ _)

theorem setCt {t : Word} (h : Sound o s) : Sound o (Machine.setCt s c t) := h.kept (Kept.setCt _ _ _)

theorem mergeCt {t : Word} (h : Sound o s) : Sound o (Machine.mergeCt s c t) := h.kept (Kept.mergeCt _ _ _)

theorem mergeStamp {t : Option Word} (h : Sound o s) : Sound o (Machine.mergeStamp s c t) :=
  h.kept (Kept.mergeStamp _ _ _)

theorem setParty {p : Party} {t : Word} (h : Sound o s) : Sound o (Machine.setParty s p t) :=
  h.kept (Kept.setParty _ _ _)

theorem putLine {l : Line} (h : Sound o s) : Sound o (Machine.putLine s line l) := h.kept (Kept.putLine _ _ _)

theorem evictLine (h : Sound o s) : Sound o (Machine.evictLine s line) := h.kept (Kept.evictLine _ _)

theorem makeRoom (h : Sound o s) : Sound o (Machine.makeRoom s line) := h.kept (Kept.makeRoom _ _)

theorem stampStore {p : Party} {whole : List Nat} (h : Sound o s) : Sound o (Machine.stampStore s p line whole) :=
  h.kept (Kept.stampStore _ _ _ _)

theorem keepCopies {coreNo : Nat} {cs : List (Lvl × EntryCopy)} (h : Sound o s) :
    Sound o (Machine.keepCopies s coreNo cs) := h.kept (Kept.keepCopies _ _ _)

theorem trapSlice {t : TrapInfo} (h : Sound o s) : Sound o (Machine.trapSlice s id t) := h.kept (Kept.trapSlice _ _ _)

theorem complete (h : Sound o s) : Sound o (Machine.complete s id next) := h.kept (Kept.complete _ _ _)

theorem waitSlice {c : ParkClass} (h : Sound o s) : Sound o (Machine.waitSlice s id c) :=
  h.kept (Kept.waitSlice _ _ _)

theorem parkSlice {w : WaitFor} (h : Sound o s) : Sound o (Machine.parkSlice s id w) := h.kept (Kept.parkSlice _ _ _)

theorem freezeMaster {kind unit addr : Nat} (h : Sound o s) : Sound o (Machine.freezeMaster s w kind unit addr) :=
  h.kept (Kept.freezeMaster _ _ _ _ _)

theorem postNotice {q : Requester} {f : PathFault} (h : Sound o s) : Sound o (Machine.postNotice s q f) :=
  h.kept (Kept.postNotice _ _ _)

theorem postFault {q : Requester} {f : PathFault} {m : Master} (h : Sound o s) :
    Sound o (Machine.postFault s launch q f m) := h.kept (Kept.postFault _ _ _ _ _)

theorem stopGang (h : Sound o s) : Sound o (Machine.stopGang s launch gang) := h.kept (Kept.stopGang _ _ _)

theorem faultWith {f : PathFault} {info0 info1 off : DWord} (h : Sound o s) :
    Sound o (Machine.faultWith s id f info0 info1 off size next) := h.kept (Kept.faultWith _ _ _ _ _ _ _ _)

theorem faultSlice {f : PathFault} {off : DWord} (h : Sound o s) :
    Sound o (Machine.faultSlice s id f lw off size next) := h.kept (Kept.faultSlice _ _ _ _ _ _ _)

theorem commitPops {qs : List Nat} (h : Sound o s) : Sound o (Machine.commitPops s w qs) :=
  h.kept (Kept.commitPops _ _ _)

theorem finishTo {r : DWord} {fl : Word} (h : Sound o s) : Sound o (Machine.finishTo s id f v next r fl) :=
  h.kept (Kept.finishTo _ _ _ _ _ _ _)

theorem finish {r : DWord} {fl : Word} (h : Sound o s) : Sound o (Machine.finish f sl v r fl s) :=
  h.kept (Kept.finish _ _ _ _ _ _)

theorem finishNone (h : Sound o s) : Sound o (Machine.finishNone v next s) := h.kept (Kept.finishNone _ _ _)

/-! Device writes, counters, records and the marks of segments. -/

theorem dropLines (h : Sound o s) : Sound o (Machine.dropLines s pa size) := h.same

theorem healSectors (h : Sound o s) : Sound o (Machine.healSectors s pa size) := h.same

theorem writeDevice (h : Sound o s) : Sound o (Machine.writeDevice s pa key bs) := by
  unfold Machine.writeDevice
  split
  · exact h.writeKeyed.dropLines.healSectors
  split
  · exact h.writeHostMem
  · exact h

theorem setRingPos {q : FaultQ} (h : Sound o s) : Sound o (Machine.setRingPos s q n) := h.same

theorem putHead {x : Word} (h : Sound o s) : Sound o (Machine.putHead s q x) := h.writeDevice

theorem putTail {x : Word} (h : Sound o s) : Sound o (Machine.putTail s q x) := h.writeDevice

theorem setQueueErr (h : Sound o s) : Sound o (Machine.setQueueErr s q) := h.writeDevice

theorem noteWaits (h : Sound o s) : Sound o (Machine.noteWaits s) := h.same

theorem addCounter {i : Nat} {n : Word} {ts : Option Word} (h : Sound o s) : Sound o (Machine.addCounter s i n ts) := by
  unfold Machine.addCounter
  dsimp only
  split
  · exact h.same.noteWaits
  split
  · exact h.same.noteWaits
  · exact h.same.noteWaits.same

theorem joinQueue (h : Sound o s) : Sound o (Machine.joinQueue s q w) := by
  unfold Machine.joinQueue
  split
  · exact h
  · exact h.same

theorem stampRecords {ns : List Nat} {t : Word} (h : Sound o s) : Sound o (Machine.stampRecords s q ns t) := h.same

theorem submitRecord {bytes : List Byte} {t : Word} (h : Sound o s) : Sound o (Machine.submitRecord s q w bytes t) :=
  h.stampRecords.writeDevice.putTail.same

theorem touchSegments {segs : List Nat} (h : Sound o s) : Sound o (Machine.touchSegments s c segs) := h.modCore

theorem touchArea (h : Sound o s) : Sound o (Machine.touchArea s c slot off size) := h.touchSegments

theorem touch (h : Sound o s) : Sound o (Machine.touch s c slot) := by
  unfold Machine.touch
  split
  · exact h
  · exact h.touchArea

theorem touchTiles (h : Sound o s) : Sound o (Machine.touchTiles s c slot off size) := by
  unfold Machine.touchTiles
  split
  · exact h
  · exact h.touchArea

theorem touchQueues (h : Sound o s) : Sound o (Machine.touchQueues s c slot) := by
  unfold Machine.touchQueues
  split
  · exact h
  · exact h.touchArea

theorem touchIssue (h : Sound o s) : Sound o (Machine.touchIssue s id) := by
  unfold Machine.touchIssue
  split
  · exact h
  · exact h.touchArea.touchArea.touchQueues

theorem touchWay (h : Sound o s) : Sound o (Machine.touchWay s c line) := h.touchSegments

theorem passCycles (h : Sound o s) : Sound o (Machine.passCycles s n) := h.same

/-! Reading and writing the place of an access. -/

theorem renewLine {p : Party} (h : Sound o s) : Sound o (Machine.renewLine s p line).1 := h.makeRoom.putLine.setParty

theorem readMain {cache fresh : Bool} (h : Sound o s) : Sound o (Machine.readMain s c pa key size cache fresh).2 := by
  unfold Machine.readMain
  dsimp only
  split
  · exact h.touchWay.setCt
  · exact Sound.ite h.renewLine.touchWay.modCore h.renewLine

theorem deliverCombined {c : Combined} (h : Sound o s) : Sound o (Machine.deliverCombined s c) := h.writeHostMem

theorem drainCombiner {p : Combined → Bool} (h : Sound o s) : Sound o (Machine.drainCombiner s p) :=
  h.same.foldl (fun _ _ h => h.deliverCombined) _

theorem deliverPicked {hit : Combined → Bool} (h : Sound o s) : Sound o (Machine.deliverPicked s w hit) :=
  h.same.foldl (fun _ _ h => h.deliverCombined) _

theorem deliverNth (h : Sound o s) : Sound o (Machine.deliverNth s n) := by
  unfold Machine.deliverNth
  split
  · exact h
  · exact h.deliverPicked

theorem drainTouching (h : Sound o s) : Sound o (Machine.drainTouching s w pa size) := h.deliverPicked

theorem writeScratch {g : Nat} (h : Sound o s) : Sound o (Machine.writeScratch s w g off bs) := h.modNamed

theorem performed (h : Sound o s) : Sound o (Machine.performed s n bs) := h.modAccess

theorem noteTime {t : Word} (h : Sound o s) : Sound o (Machine.noteTime s launch t) := h.modLaunch

theorem noteAccess (h : Sound o s) : Sound o (Machine.noteAccess s a) := by
  unfold Machine.noteAccess
  split
  · exact h.noteTime
  · exact h

theorem readPlace {t : State} {fresh : Bool} (h : Sound o s) (e : Machine.readPlace s a fresh = some (bs, t)) :
    Sound o t := by
  unfold Machine.readPlace at e
  split at e
  · split at e
    · exact h.readMain.snd (Option.some.inj e)
    · cases e
    · cases e
  · cases e; exact h
  · cases e; exact h.drainTouching
  · split at e <;> cases e
    exact h
  · cases e
  · cases e

theorem refuseAtPlace (h : Sound o s) : Sound o (Machine.refuseAtPlace s a) := by
  unfold Machine.refuseAtPlace
  dsimp only
  split
  · exact h.freezeMaster
  all_goals exact h

theorem touchScratch {g : Nat} (h : Sound o s) : Sound o (Machine.touchScratch s w g off size) := by
  unfold Machine.touchScratch
  split
  · exact h.touchTiles
  all_goals exact h

theorem touchPlace (h : Sound o s) : Sound o (Machine.touchPlace s a) := by
  unfold Machine.touchPlace
  split
  · exact h.touchScratch
  all_goals exact h

theorem performLoad (h : Sound o s) : Sound o (Machine.performLoad s a) := by
  unfold Machine.performLoad
  split
  · exact h
  split
  · exact (h.readPlace ‹_›).performed.noteAccess.touchPlace
  · exact h.refuseAtPlace

theorem writePlace (h : Sound o s) : Sound o (Machine.writePlace s a bs) := by
  unfold Machine.writePlace
  split
  · exact h.writeKeyed.stampStore
  · exact h.writeScratch
  · exact h.writeHostMem
  all_goals exact h

theorem storePlace (h : Sound o s) : Sound o (Machine.storePlace s a) := by
  unfold Machine.storePlace
  split
  · exact h.same
  all_goals exact h.writePlace

theorem performStore (h : Sound o s) : Sound o (Machine.performStore s a) := by
  unfold Machine.performStore
  split
  · exact h
  split
  · exact h.storePlace.dropAccess.noteAccess.touchPlace
  · exact h.refuseAtPlace

theorem performAtomic {op : AtomicOp} {operand compare : DWord} (h : Sound o s) :
    Sound o (Machine.performAtomic s a op operand compare) := by
  unfold Machine.performAtomic
  split
  · exact h
  split
  · exact h.refuseAtPlace
  refine Sound.touchPlace (Sound.noteAccess (Sound.performed (Sound.writePlace ?_)))
  cases a.place with
  | host pa => exact h.drainTouching
  | main pa key cache => exact h.same
  | _ => exact h

/-! Taking an access in: its packets, its units of credit and those that wait for one. -/

theorem trapNamed {t : TrapInfo} (h : Sound o s) : Sound o (Machine.trapNamed s w t) := by
  unfold Machine.trapNamed
  split
  · exact h
  · exact h.modNamedSlice.same

theorem completeNamed (h : Sound o s) : Sound o (Machine.completeNamed s w next) := by
  unfold Machine.completeNamed
  split
  · exact h
  dsimp only
  split
  · exact h.modNamedSlice.trapNamed
  · exact h.modNamedSlice

theorem modAllow {f : Allowance → Allowance} (h : Sound o s) : Sound o (Machine.modAllow s c e f) := h.modCore

theorem putPacket (h : Sound o s) : Sound o (Machine.putPacket s p).1 := h.same

theorem sendPart {part : Nat} (h : Sound o s) : Sound o (Machine.sendPart s n part) := by
  unfold Machine.sendPart
  split
  · exact h
  split
  · exact h
  · exact h.putPacket.modAccess

theorem countOut (h : Sound o s) : Sound o (Machine.countOut s c) := h.same.modCore

theorem countIn (h : Sound o s) : Sound o (Machine.countIn s a) := by
  unfold Machine.countIn
  dsimp only
  split
  · exact h.same
  · exact h.same.modCore

theorem accept {coreNo : Nat} {p : Path} {off : DWord} {pops : List Nat} {allowance : Nat} (h : Sound o s) :
    Sound o (Machine.accept s w world coreNo pc next op p lw off pops allowance).1 := by
  unfold Machine.accept
  dsimp only
  split
  · exact h.keepCopies.addAccess rfl
  dsimp only
  split
  all_goals
    split
    · exact (h.keepCopies.addAccess rfl).modNamedSlice.countOut
    split
    · exact (h.keepCopies.addAccess rfl).modNamedSlice.countOut.dropAccess.countIn
    · exact (h.keepCopies.addAccess rfl).modNamedSlice.countOut.sendPart

theorem sendAgain (h : Sound o s) : Sound o (Machine.sendAgain s n c e) := by
  unfold Machine.sendAgain
  split
  · exact h
  split
  · exact h
  exact (h.same.modAccess (by intro; rfl)).modNamedSlice

theorem sendMarker (h : Sound o s) : Sound o (Machine.sendMarker s w p c e) := by
  unfold Machine.sendMarker
  refine Sound.modNamedSlice ?_
  exact Sound.same (s := { s with nextAccess := s.nextAccess + 1 }) h.skipNumber

theorem keepRead {r : TableRead} (h : Sound o s) : Sound o (Machine.keepRead s r) := h.same

theorem dropReads {b : EntryFor} (h : Sound o s) : Sound o (Machine.dropReads s w b) := h.same

theorem sendElem {x : Nat × Nat × Nat × Away} (h : Sound o s) : Sound o (Machine.sendElem s t tm x entry) :=
  h.accept.modTeam

theorem sendElems (h : Sound o s) : Sound o (Machine.sendElems n s t) := by
  induction n generalizing s with
  | zero => exact h
  | succ n ih =>
    unfold Machine.sendElems
    split
    · exact h
    split
    · exact h
    dsimp only
    split
    · exact h
    split
    · exact ih h.sendElem
    split
    · exact ih h.modAllow.sendElem
    exact Sound.ite h h.modAllow

theorem serveElems {rest : List Waiter} (h : Sound o s) : Sound o (Machine.serveElems s c e t rest) := by
  unfold Machine.serveElems
  dsimp only
  split
  · exact h.modAllow
  split
  · exact h.modAllow
  split
  · exact h.modAllow.sendElem.sendElems
  · exact h.modAllow.sendElems

theorem serveEntry (h : Sound o s) : Sound o (Machine.serveEntry n s c e) := by
  induction n generalizing s with
  | zero => exact h
  | succ n ih =>
    unfold Machine.serveEntry
    dsimp only
    split
    · exact h
    split
    · exact h
    · exact h.modSlice
    · exact ih h.serveElems
    · split
      · exact Sound.ite h (ih h.modAllow.sendPart)
      · exact h
    · exact Sound.ite h (ih h.modAllow.sendAgain)
    · exact Sound.ite h (ih h.modAllow.sendMarker)

theorem serve (h : Sound o s) : Sound o (Machine.serve s c e) := h.serveEntry

theorem releaseEntries (h : Sound o s) : Sound o (Machine.releaseEntries s c) := by
  unfold Machine.releaseEntries
  exact h.modCore

theorem grantUnit (h : Sound o s) : Sound o (Machine.grantUnit s c e) := h.modAllow.serve.releaseEntries

theorem leaveEntry {p : Waiter → Bool} (h : Sound o s) : Sound o (Machine.leaveEntry s c e p) :=
  h.modAllow.serve.releaseEntries

theorem leaveOthers {p : Waiter → Bool} (h : Sound o s) : Sound o (Machine.leaveOthers s c e p) :=
  h.foldl (fun _ _ h => (Sound.ite h.leaveEntry h)) _

theorem quitEntries (h : Sound o s) : Sound o (Machine.quitEntries s id) := h.leaveOthers

theorem sendHeld {x : Waiter} (h : Sound o s) : Sound o (Machine.sendHeld s c world target x) := by
  unfold Machine.sendHeld
  split
  · split
    · exact h.sendAgain
    · exact h.sendMarker
    all_goals exact h
  · exact h.modAllow.serve

theorem resendHeld {hs : List HeldStore} (h : Sound o s) : Sound o (Machine.resendHeld s c world w hs) := by
  unfold Machine.resendHeld
  split
  · exact h
  · exact (h.quitEntries.foldl (fun _ _ h => h.sendHeld) _).foldl (fun _ _ h => h.sendHeld) _

theorem resendTeam (h : Sound o s) : Sound o (Machine.resendTeam s t) := by
  unfold Machine.resendTeam
  split
  · exact h
  split
  · exact h
  · exact h.foldl (fun _ _ h => h.resendHeld) _

theorem resumeTeam (h : Sound o s) : Sound o (Machine.resumeTeam s t) := by
  unfold Machine.resumeTeam
  split
  · exact h
  split
  · exact h.resendTeam
  · exact h

theorem resumeLate (h : Sound o s) : Sound o (Machine.resumeLate s w) := by
  unfold Machine.resumeLate
  split
  · exact h
  split
  · exact h.resendHeld
  · exact h

theorem retryHeld (h : Sound o s) : Sound o (Machine.retryHeld s w) := by
  unfold Machine.retryHeld
  dsimp only
  split
  · exact h.resumeLate.resumeTeam
  all_goals exact h.resumeLate

theorem charge_some {t u : State} {pkg : Nat} (h : Sound o s) (hc : Machine.chargeSlice s id e pkg = (some t, u)) :
    Sound o t := by
  have hl := h.leaveOthers (c := id.core) (e := e) (p := Waiter.isSlice id)
  unfold Machine.chargeSlice at hc
  dsimp only at hc
  split at hc
  · split at hc <;> cases hc
    exact hl.modAllow
  split at hc
  · cases hc
    exact hl.modAllow.serve
  · split at hc <;> cases hc

theorem charge_none {t : State} {pkg : Nat} (h : Sound o s) (hc : Machine.chargeSlice s id e pkg = (none, t)) :
    Sound o t := by
  have hl := h.leaveOthers (c := id.core) (e := e) (p := Waiter.isSlice id)
  unfold Machine.chargeSlice at hc
  dsimp only at hc
  split at hc
  · split at hc <;> cases hc
    exact hl.modAllow
  split at hc
  · cases hc
  split at hc <;> cases hc
  · exact hl
  · exact hl.modAllow

/-! The lines of a stack. -/

theorem writeBackLine {t : State} {w : Option Nat} (h : Sound o s) (e : Machine.writeBackLine s c tm w line bs = .ok t) :
    Sound o t := by
  unfold Machine.writeBackLine at e
  split at e
  · cases e
  dsimp only at e
  split at e
  · split at e <;> cases e
    exact h.keepCopies.writeDevice
  · cases e; exact h.keepCopies.writeHostMem
  all_goals cases e

theorem dropStack {w : Option Nat} (h : Sound o s) : Sound o (Machine.dropStack s c slot w line) := h.modSlice

theorem stackRoom {t : State} (h : Sound o s) (e : Machine.stackRoom s c = .ok t) : Sound o t := by
  unfold Machine.stackRoom at e
  dsimp only at e
  split at e
  · cases e; exact h
  split at e
  · cases e; exact h.modCore
  split at e
  · cases e; exact h
  split at e
  · cases e; exact h
  obtain ⟨u, hu, rfl⟩ := map_ok e
  exact (h.writeBackLine hu).dropStack

theorem openStack {t : State} {write : Bool} {pa : Option Nat} (h : Sound o s)
    (e : Machine.openStack s id off write = .ok (t, pa)) :
    Sound o t := by
  unfold Machine.openStack at e
  split at e
  · cases e; exact h
  dsimp only at e
  split at e
  · cases e; exact h.touchWay
  obtain ⟨p, hp, e⟩ := bind_ok e
  split at e
  · split at e
    · obtain ⟨q, hq, e⟩ := bind_ok e
      cases e
      exact h.keepCopies
    cases e
    exact h.keepCopies
  obtain ⟨bs, hbs, e⟩ := bind_ok e
  obtain ⟨u, hu, e⟩ := bind_ok e
  cases e
  exact (h.keepCopies.stackRoom hu).modSlice.touchWay

theorem drainOwn (h : Sound o s) : Sound o (Machine.drainOwn s id pa size) := by
  unfold Machine.drainOwn
  split
  · exact h
  · exact h.drainTouching

theorem loadStack {t : State} (h : Sound o s) (e : Machine.loadStack s id off size = .ok (t, bs)) : Sound o t := by
  obtain ⟨⟨u, pa⟩, hu, hr⟩ := map_ok e
  replace hu := h.openStack hu
  cases pa with
  | none => cases hr; exact hu
  | some pa => cases hr; exact hu.drainOwn

theorem loadPieces {t : State} {xs : List (Nat × Nat)} (h : Sound o s) (e : Machine.loadPieces id xs s = .ok (t, bs)) :
    Sound o t := by
  induction xs generalizing s bs with
  | nil => cases e; exact h
  | cons x xs ih =>
    unfold Machine.loadPieces at e
    split at e
    · cases e
    rename_i hload
    obtain ⟨r, hr, e⟩ := map_ok e
    cases e
    exact ih (h.loadStack hload) hr

theorem storeStack {t : State} (h : Sound o s) (e : Machine.storeStack s id off bs = .ok t) : Sound o t := by
  obtain ⟨⟨u, pa⟩, hu, hr⟩ := map_ok e
  replace hu := h.openStack hu
  cases pa with
  | none => cases hr; exact hu.modSlice
  | some pa => cases hr; exact hu.drainOwn.writeHostMem

/-! What an access in flight answers to its slice. -/

theorem deliverSink {sink : Sink} {v : DWord} (h : Sound o s) : Sound o (Machine.deliverSink s w pc sink v) := by
  unfold Machine.deliverSink
  dsimp only
  split
  · exact h
  · exact h.modNamedSlice
  · exact h.modNamedSlice
  · exact h.modNamedSlice
  · exact h.modNamed
  · exact h.modNamed

theorem recordWaiter {coreNo : Nat} (h : Sound o s) : Sound o (Machine.recordWaiter s line coreNo) := by
  unfold Machine.recordWaiter
  split
  · exact h
  dsimp only
  split <;> exact h.same

theorem parkAddress {x : Watched} (h : Sound o s) : Sound o (Machine.parkAddress s w x) := by
  unfold Machine.parkAddress
  refine Sound.modNamedSlice ?_
  split
  · exact h.recordWaiter
  · exact h

theorem handOver (h : Sound o s) : Sound o (Machine.handOver s a) := by
  unfold Machine.handOver
  dsimp only
  split
  · exact h.dropAccess
  split
  · split
    · exact h.dropAccess.trapNamed
    split
    · exact h.dropAccess.deliverSink.modNamedSlice.commitPops.completeNamed
    · exact h.dropAccess.deliverSink.modNamedSlice
  · split
    · exact h.dropAccess.parkAddress
    split
    · exact h.dropAccess.commitPops.completeNamed
    · exact h.dropAccess
  · exact h.dropAccess.modNamed.modNamedSlice
  · split
    · split
      · exact h.dropAccess.submitRecord.commitPops.completeNamed
      · exact h.dropAccess.submitRecord
    · exact h.dropAccess.modNamedSlice
  · split
    · exact h.dropAccess.deliverSink.commitPops.completeNamed
    · exact h.dropAccess.deliverSink
  · split
    · exact h.dropAccess.deliverSink.commitPops.completeNamed
    · exact h.dropAccess.deliverSink
  all_goals exact h.dropAccess

theorem sendRecord {q : Requester} {f : PathFault} (h : Sound o s) :
    Sound o (Machine.sendRecord s target world q f) := h.skipNumber.same

theorem poisonTrap {elem : Nat} {e : Elem} {p : Poison} (h : Sound o s) :
    Sound o (Machine.poisonTrap s id f q entry elem e p pc) := by
  unfold Machine.poisonTrap
  split
  · exact h
  dsimp only
  split
  · exact h.modSlice.trapSlice
  split
  · refine Sound.modTeam ?_
    split
    · exact h.modSlice.trapSlice.modTeam.postFault
    · exact h.modSlice.trapSlice.modTeam.sendRecord.postNotice.same
  split
  · exact h.modSlice.trapSlice.modTeam.postFault
  · exact h.modSlice.trapSlice.modTeam.sendRecord.postNotice

/-! What the gathering of the operands stops at, and instructions that run over their operands. -/

theorem charged {t u : State} {al : Nat} {p : Path} (h : Sound o s) (e : Machine.chargeFor s id world p = (some (t, al), u)) :
    Sound o t := by
  unfold Machine.chargeFor at e
  split at e
  · dsimp only at e
    split at e
    · rename_i heq
      cases e
      exact h.charge_some heq
    · cases e
  · cases e; exact h

theorem uncharged {t : State} {p : Path} (h : Sound o s) (e : Machine.chargeFor s id world p = (none, t)) :
    Sound o t := by
  unfold Machine.chargeFor at e
  split at e
  · dsimp only at e
    split at e
    · cases e
    rename_i heq
    cases e
    exact h.charge_none heq
  · cases e

theorem waitSink {p : Sink → Bool} (h : Sound o s) : Sound o (Machine.waitSink s id w p) := h.waitSlice.modSlice

theorem waitPending {regs : List Nat} (h : Sound o s) : Sound o (Machine.waitPending s id w regs) := h.waitSink

theorem awaitData (h : Sound o s) : Sound o (Machine.awaitData s id n) := h.modSlice

theorem refetchElem {elem : Nat} {e : Elem} (h : Sound o s) : Sound o (Machine.refetchElem s id f q entry elem e) := by
  unfold Machine.refetchElem
  split
  · exact h
  dsimp only
  split
  · exact h.faultSlice
  split
  · split
    · exact h.waitPending
    · exact h.modTeam
  · split
    · exact h.faultSlice
    · exact (h.loadStack ‹_›).modTeam
  split
  · exact h.waitSlice
  split
  · exact (h.uncharged ‹_›).parkSlice
  · exact (h.charged ‹_›).accept.awaitData

theorem stopAt {st : Stop} (h : Sound o s) : Sound o (Machine.stopAt s id f st) := by
  unfold Machine.stopAt
  split
  · exact h.trapSlice
  · split
    · exact h
    split
    · exact h.waitPending
    · exact h.waitSlice.modSlice
  · split
    · exact h
    · exact h.waitSink
  · exact h.parkSlice
  · split
    · exact h
    refine Sound.modSlice (Sound.waitSlice ?_)
    split
    · exact h
    · exact h.modTeam
  split
  · exact h
  split
  · exact h.refetchElem
  · exact h.poisonTrap

theorem runOwn {own : Team → Slice → Except Stop Unit} {k : Team → Slice → Vals → State} (h : Sound o s)
    (hk : ∀ tm sl v, Sound o (k tm sl v)) :
    SoundNext o (Machine.runOwn f s own k) := fun _ e => runOwn_keeps (Sound o) (fun _ => h.stopAt) hk e

theorem run {k : Team → Slice → Vals → State} (h : Sound o s) (hk : ∀ tm sl v, Sound o (k tm sl v)) :
    SoundNext o (Machine.run f s k) := h.runOwn hk

theorem alu {g : Vals → DWord × Word} (h : Sound o s) : SoundNext o (Machine.alu f s g) := h.run fun _ _ _ => h.finish

theorem alu3 {g : Word → Word → Word} (h : Sound o s) : SoundNext o (Machine.alu3 f s g) := h.alu

theorem alu2 {g : Word → Word} (h : Sound o s) : SoundNext o (Machine.alu2 f s g) := h.alu

theorem aluD {g : Word → Word → Word → Word} (h : Sound o s) : SoundNext o (Machine.aluD f s g) := h.alu

theorem aluF {g : Word → Word → Word → FRes} (h : Sound o s) : SoundNext o (Machine.aluF f s g) := h.alu

/-! Circles of strands. -/

theorem circleTraps (h : Sound o s) : Sound o (Machine.circleTraps s t) := by
  unfold Machine.circleTraps
  split
  · exact h
  · exact h.foldl (fun _ _ h => h.trapSlice) _

theorem contributeTo {gteam bar arrivals bytes : Nat} {ts : Word} (h : Sound o s) :
    Sound o (Machine.contributeTo s launch gang gteam bar arrivals bytes ts) := h.modNamed

theorem barFault {w : Word} (h : Sound o s) : Sound o (Machine.barFault s id w next) := h.faultWith

theorem failBarw {x : SliceId × Word × Word × Word} (h : Sound o s) : Sound o (Machine.failBarw s x) := by
  unfold Machine.failBarw
  split
  · exact h
  dsimp only
  split
  · exact h.modSlice.modSlice
  · exact h.modSlice.barFault

theorem settleOver {gteam : Nat} (h : Sound o s) : Sound o (Machine.settleOver s launch gang gteam) := by
  unfold Machine.settleOver
  split
  · exact h.foldl (fun _ _ h => h.failBarw) _
  · exact h

theorem completeAll {pops : List Nat} {ms : List (Member × Nat)} {res : Nat → Member → DWord × Word} (h : Sound o s) :
    Sound o (Machine.completeAll s t f pops next ms res) := h.foldl (fun _ _ h => h.finishTo) _

theorem arrive {stored : Bool} {res : List Member → Nat → Member → DWord × Word} (h : Sound o s) :
    SoundNext o (Machine.arrive f stored s res) :=
  h.run fun _ _ _ => (Sound.ite (Sound.ite h.modSlice.circleTraps
      ((h.modSlice.circleTraps.foldl (fun _ _ h => h.modSlice) _).completeAll)) h.modSlice.circleTraps)

theorem completeJoin {strand : Nat} (h : Sound o s) : Sound o (Machine.completeJoin s t strand) := by
  unfold Machine.completeJoin
  split
  · exact h
  split
  · exact h
  dsimp only
  split
  · exact h.foldl (fun _ _ h => h.modSlice.complete) _
  · exact h

theorem execSetc {a : Src} (h : Sound o s) : SoundNext o (Machine.execSetc a s) :=
  h.run fun _ _ _ => (Sound.ite h.modSlice.finishNone h.trapSlice)

/-! Special registers, branches and calls. -/

theorem sread (h : Sound o s) : SoundNext o (Machine.sread team d imm s) :=
  h.runOwn fun _ _ _ => (Sound.ite h.modSlice h).finishTo

theorem swrite {a : Src} (h : Sound o s) : SoundNext o (Machine.swrite team a imm s) :=
  h.runOwn fun _ _ _ => (Sound.ite h.modSlice.finishNone h.trapSlice)

theorem branch {a : Src} {taken : Word → Bool} (h : Sound o s) : SoundNext o (Machine.branch team a imm s taken) :=
  h.run fun _ _ _ => h.finishNone

theorem bra (h : Sound o s) : SoundNext o (Machine.bra team imm s) := h.run fun _ _ _ => h.finishNone

theorem callTo {len : Nat} {tgt : Word} (h : Sound o s) : Sound o (Machine.callTo s sl v len tgt) := by
  unfold Machine.callTo
  dsimp only
  split
  · exact h.trapSlice
  split
  · exact h.trapSlice
  split
  · exact h.faultSlice
  · exact (h.storeStack ‹_›).modSlice.finishNone

theorem call (h : Sound o s) : SoundNext o (Machine.call team imm s) := h.run fun _ _ _ => h.callTo

theorem callr {a : Src} (h : Sound o s) : SoundNext o (Machine.callr team a s) := h.run fun _ _ _ => h.callTo

theorem jmpr {a : Src} (h : Sound o s) : SoundNext o (Machine.jmpr team a s) :=
  h.run fun _ _ _ => (Sound.ite h.trapSlice h.finishNone)

theorem ret (h : Sound o s) : SoundNext o (Machine.ret team s) := by
  unfold Machine.ret
  refine Sound.run h fun _ _ _ => ?_
  split
  · exact h.trapSlice
  split
  · exact h.faultSlice
  dsimp only
  split
  · exact (h.loadStack ‹_›).trapSlice
  · exact (h.loadStack ‹_›).modSlice.finishNone

theorem exitSlice (h : Sound o s) : SoundNext o (Machine.exitSlice team s) :=
  h.run fun _ _ _ => (Sound.ite h.waitSink h.modTeam.circleTraps.settleOver)

theorem trapCode {c : Cause} (h : Sound o s) : SoundNext o (Machine.trapCode team c imm s) :=
  h.run fun _ _ _ => h.trapSlice

theorem fetchTrap {t : Word → TrapInfo} (h : Sound o s) : SoundNext o (Machine.fetchTrap s t) := by
  unfold Machine.fetchTrap
  split
  · exact .fault
  · exact .next h.trapSlice

theorem yield (h : Sound o s) : SoundNext o (Machine.yield team s) := h.run fun _ _ _ => h.modSlice.finishNone

theorem nop (h : Sound o s) : SoundNext o (Machine.nop team s) := h.run fun _ _ _ => h.finishNone

theorem alwr {a : Src} (h : Sound o s) : SoundNext o (Machine.alwr team d a s) := h.run fun _ _ _ => h.finish

theorem balw {a : Src} (h : Sound o s) : SoundNext o (Machine.balw team a imm s) := h.run fun _ _ _ => h.finishNone

/-! Memory instructions. -/

theorem stopAccess {st : AccessStop} {off : DWord} (h : Sound o s) :
    Sound o (Machine.stopAccess s id st lw off size next) := by
  unfold Machine.stopAccess
  split
  · exact h.faultSlice
  · exact h.trapSlice
  · exact h.trapSlice

theorem finishRead {tr : StationTrace} {off : DWord} (h : Sound o s) :
    Sound o (Machine.finishRead s f sl v op tr lw off bs) := by
  unfold Machine.finishRead
  split
  · split
    · exact h.trapSlice
    · exact h.finish
  split
  · exact h.modTeam.finishNone
  all_goals exact h.finish

theorem ownRegs {tr : StationTrace} {off : DWord} {x : Nat} (h : Sound o s) :
    Sound o (Machine.ownRegs s f tm sl v op tr lw off x) := by
  unfold Machine.ownRegs
  dsimp only
  split
  · exact h.waitPending
  split
  · exact h.modSlice.finishNone
  · exact h.finishRead

theorem ownStack {tr : StationTrace} {off : DWord} {x : Nat} (h : Sound o s) :
    Sound o (Machine.ownStack s f sl v op tr lw off x) := by
  unfold Machine.ownStack
  split
  · split
    · exact h.faultSlice
    · exact (h.storeStack ‹_›).finishNone
  split
  · exact h.faultSlice
  · exact (h.loadStack ‹_›).finishRead

theorem acceptFor {p : Path} {off : DWord} (h : Sound o s) : Sound o (Machine.acceptFor s f tm sl v op p lw off) := by
  unfold Machine.acceptFor
  dsimp only
  split
  · exact h.waitSlice
  split
  · exact (h.uncharged ‹_›).parkSlice
  split
  · exact (h.charged ‹_›).accept.awaitData
  · exact (h.charged ‹_›).accept.finishNone

theorem deliverTo {p : Path} {off : DWord} (h : Sound o s) : Sound o (Machine.deliverTo s f tm sl v op p lw off) := by
  unfold Machine.deliverTo
  split
  · exact h.ownRegs
  · exact h.ownStack
  · exact h.acceptFor

theorem issueAccess {off : DWord} (h : Sound o s) : Sound o (Machine.issueAccess s f tm sl v op lw off) := by
  unfold Machine.issueAccess
  split
  · exact h.stopAccess
  · exact h.deliverTo

theorem memLabel {off : Vals → DWord} {op : Vals → MemOp} (h : Sound o s) :
    SoundNext o (Machine.memLabel f l s off op) := h.runOwn fun _ _ _ => h.issueAccess

theorem loadLabel {a : Src} (h : Sound o s) : SoundNext o (Machine.loadLabel team d a b l size s) := h.memLabel

theorem storeLabel {a : Src} (h : Sound o s) : SoundNext o (Machine.storeLabel team d a b l size s) := h.memLabel

theorem loadExplicit {a : Src} (h : Sound o s) : SoundNext o (Machine.loadExplicit team d a b s) :=
  h.runOwn fun _ _ _ => h.issueAccess

theorem storeExplicit {a : Src} (h : Sound o s) : SoundNext o (Machine.storeExplicit team d a b s) :=
  h.runOwn fun _ _ _ => h.issueAccess

theorem loadElement {a : Src} (h : Sound o s) : SoundNext o (Machine.loadElement d a b l s) := h.memLabel

theorem atomicLabel {a : Src} {op : AtomicOp} (h : Sound o s) :
    SoundNext o (Machine.atomicLabel team d a b l op size s) := h.memLabel

theorem fence {m : Scp} (h : Sound o s) : SoundNext o (Machine.fence team m s) :=
  h.runOwn fun _ _ _ => (Sound.ite ((Sound.ite h.drainCombiner h).waitSlice) ((Sound.ite h.drainCombiner h).finishNone))

theorem fencef {a : Src} (h : Sound o s) : SoundNext o (Machine.fencef team d a b l s) := h.memLabel

theorem waita {a : Src} (h : Sound o s) : SoundNext o (Machine.waita team d a b l s) := h.memLabel

/-! Barriers and messages. -/

theorem withBarrier {k : State} {w : Word} (h : Sound o s) (hk : Sound o k) :
    Sound o (Machine.withBarrier s f tm sl w k) := Sound.ite h.trapSlice (Sound.ite h.barFault hk)

theorem barv {a : Src} (h : Sound o s) : SoundNext o (Machine.barv team d a b s) :=
  h.runOwn fun _ _ _ => h.withBarrier (Sound.ite h.waitSlice h.contributeTo.finish)

theorem barw {a : Src} (h : Sound o s) : SoundNext o (Machine.barw team a b s) := by
  refine h.run fun tm sl v => ?_
  dsimp only
  split
  · exact h.mergeStamp.finishNone
  refine h.withBarrier ?_
  split
  · exact h.parkSlice
  · exact Sound.ite h.mergeStamp.finishNone h.parkSlice

theorem amsg {a : Src} (h : Sound o s) : SoundNext o (Machine.amsg team d a b s) := by
  unfold Machine.amsg
  refine Sound.runOwn h fun _ _ _ => ?_
  dsimp only
  split
  · exact h.trapSlice
  split
  · exact h.trapSlice
  split
  · exact h.faultSlice
  split
  · exact h.waitSlice
  split
  · exact h.waitPending
  · exact h.acceptFor

/-! Copies and array commands: their entry. -/

theorem modBank {f : Bank → Bank} (h : Sound o s) : Sound o (Machine.modBank s c f) := h.modCore

theorem waitTile {held : List (Nat × Word)} (h : Sound o s) : Sound o (Machine.waitTile s held) :=
  h.waitSlice.modSlice

theorem enterCopy {kind : CopyKind} {cw odd flag : Word} {off : DWord} {entry : Option Nat} (h : Sound o s) :
    Sound o (Machine.enterCopy s kind sl cw odd flag lw off chan entry) := by
  unfold Machine.enterCopy
  exact h.modBank

theorem copyIssue {kind : CopyKind} {a : Src} (h : Sound o s) : SoundNext o (Machine.copyIssue kind d a b l s) := by
  unfold Machine.copyIssue
  refine Sound.runOwn h fun _ _ _ => ?_
  dsimp only
  split
  · exact h.trapSlice
  split
  · exact h.stopAccess
  split
  · exact h.faultSlice
  split
  · exact h.waitTile
  split
  · split
    · exact h.waitTile
    · exact h.enterCopy.finishNone
  · exact h.enterCopy.finishNone

theorem enterArray {kind : ArrayKind} {acw : Word} {tile : Nat} {arg : Word} (h : Sound o s) :
    Sound o (Machine.enterArray s sl kind acw tile arg e) := by
  unfold Machine.enterArray
  exact h.modBank

theorem arrayIssue {check : Team → Vals → Option (BitVec 3 × DWord)} {kind : ArrayKind} {tile : Vals → Nat}
    {arg : Vals → Word} (h : Sound o s) :
    SoundNext o (Machine.arrayIssue f s check kind tile arg) := by
  unfold Machine.arrayIssue
  refine Sound.run h fun _ _ _ => ?_
  split
  · exact h.trapSlice
  split
  · exact h.waitTile
  · exact h.enterArray.finishNone

theorem execTwait {a : Src} {m : Twc} (h : Sound o s) : SoundNext o (Machine.execTwait a b m s) :=
  h.run fun _ _ _ => (Sound.ite h.trapSlice (Sound.ite h.trapSlice (Sound.ite h.mergeStamp.finishNone h.waitTile)))

theorem execTempty {a : Src} (h : Sound o s) : SoundNext o (Machine.execTempty a s) :=
  h.run fun _ _ _ => (Sound.ite h.trapSlice h.modBank.finishNone)

theorem execTstat {a : Src} (h : Sound o s) : SoundNext o (Machine.execTstat d a s) :=
  h.run fun _ _ _ => (Sound.ite h.trapSlice h.mergeStamp.finish)

/-! The channels of the copies. -/

theorem modChannel {f : Channel → Channel} (h : Sound o s) : Sound o (Machine.modChannel s c chan f) := h.modBank

theorem takeUnit {unit : Nat} (h : Sound o s) : Sound o (Machine.takeUnit s c slot unit) := by
  unfold Machine.takeUnit
  split
  · exact h
  · exact h.modCore

theorem startCopy (h : Sound o s) : Sound o (Machine.startCopy s c chan ch) := by
  unfold Machine.startCopy
  dsimp only
  split
  · exact h.takeUnit.modCore.modChannel.modBank
  · exact h.takeUnit.modCore.modChannel.modTeam
  · exact h.takeUnit.modCore.modChannel.modTeam
  · exact h.takeUnit.modCore.modChannel.modTeam
  · exact h.takeUnit.modCore.modChannel
  · exact h.takeUnit.modCore.modChannel

theorem execCopyStart (h : Sound o s) : SoundNext o (Machine.execCopyStart c chan s) := by
  unfold Machine.execCopyStart
  refine .next ?_
  split
  · exact h
  split
  · exact h.startCopy
  · exact h

theorem streamMain {t : State} {p : Party} {write : Option (List Byte)} (h : Sound o s)
    (e : Machine.streamMain s p pa key size write = .moved t bs) :
    Sound o t := by
  unfold Machine.streamMain at e
  dsimp only at e
  split at e
  · cases e
  split at e <;> cases e
  · exact h.foldl (fun _ _ h => h.renewLine) _
  · exact h.writeKeyed.foldl (fun _ _ h => h.stampStore) _

theorem streamBlock {t : State} {d block : Nat} {write : Option (List Byte)} (h : Sound o s)
    (e : Machine.streamBlock s d block write = .moved t bs) :
    Sound o t := by
  unfold Machine.streamBlock at e
  split at e
  · cases e
  split at e <;> cases e
  · exact h.writeWeights fun _ => rfl
  · exact h

theorem moveUnit {t : State} {d : Dest} {write : Option (List Byte)} (h : Sound o s)
    (e : Machine.moveUnit s c w d size write = .moved t bs) :
    Sound o t := by
  unfold Machine.moveUnit at e
  split at e
  · split at e <;> cases e
    rename_i hmoved
    exact (h.streamMain hmoved).noteTime
  · split at e <;> cases e
    · exact h
    · exact h.writeScratch
  · split at e <;> cases e
    · exact h.drainTouching
    · exact h.writeHostMem
  all_goals cases e

theorem touchTile (h : Sound o s) : Sound o (Machine.touchTile s t n off size) := by
  unfold Machine.touchTile
  split
  · exact h
  · exact h.touchTiles

theorem landUnit (h : Sound o s) : Sound o (Machine.landUnit s c chan ch u bs) := by
  unfold Machine.landUnit
  dsimp only
  split
  · exact h.modChannel.modBank
  · exact h.modChannel.modTeam.touchTile
  · exact h.modChannel.modTeam.touchTile
  · exact h.modChannel.modTeam.touchTile
  · exact h.modChannel.touchTile
  · exact h.modChannel.touchTile

theorem freezeChannel {kind unit addr : Nat} (h : Sound o s) :
    Sound o (Machine.freezeChannel s c chan ch tm off kind unit addr) := h.same

theorem holdChannel {x : Hold} (h : Sound o s) : Sound o (Machine.holdChannel s c chan ch tm off x) := by
  unfold Machine.holdChannel
  split
  · exact h
  · exact h
  · exact h.freezeChannel

theorem faultChannel {f : PathFault} (h : Sound o s) : Sound o (Machine.faultChannel s c chan ch tm u f) := by
  unfold Machine.faultChannel
  dsimp only
  split
  · exact h.holdChannel
  split
  · exact h.modChannel.postFault.stopGang
  · exact h.modChannel.postFault
  all_goals exact h.modChannel

theorem sendWaiting {t : Nat} (h : Sound o s) : Sound o (Machine.sendWaiting s w t) := by
  unfold Machine.sendWaiting
  refine Sound.foldl h (fun _ _ h => ?_) _
  split
  · exact h
  split
  · split
    · exact h.dropAccess.countIn
    · exact h.sendPart
  · exact h

theorem serveAll (h : Sound o s) : Sound o (Machine.serveAll s) :=
  h.foldl (fun _ _ h => h.foldl (fun _ _ h => h.serve) _) _

theorem endFabric (h : Sound o s) : Sound o (Machine.endFabric s a) := by
  unfold Machine.endFabric
  dsimp only
  split
  · exact h.dropAccess.countIn.sendWaiting
  · exact h.dropAccess.countIn.serveAll
  all_goals exact h.dropAccess

theorem acceptUnit {p : Path} {al : Nat} (h : Sound o s) : Sound o (Machine.acceptUnit s c chan ch tm u p bs al).1 :=
  h.accept

theorem chargeSecond (h : Sound o s) : Sound o (Machine.chargeSecond s c chan e target n) := by
  unfold Machine.chargeSecond
  dsimp only
  split
  · exact h.modAllow.sendPart.serve
  · exact h.modAllow

theorem chargeChannel (h : Sound o s) : Sound o (Machine.chargeChannel s c chan world target).1 := by
  unfold Machine.chargeChannel
  have hl := h.leaveOthers (c := c) (e := allowIndex (core s c) world target) (p := Waiter.isChannel chan)
  dsimp only
  split
  · dsimp only
    exact hl.modAllow
  split
  · exact hl
  split
  · exact hl
  dsimp only
  exact hl.modAllow.modBank

theorem unitByReach {p : Path} {lab : Nat} (h : Sound o s) :
    Sound o (Machine.unitByReach s c chan ch tm u p target lab bs) := by
  unfold Machine.unitByReach
  split
  · exact h
  split
  · exact h.chargeChannel.fst ‹_›
  · exact (h.chargeChannel.fst ‹_›).dropReads.acceptUnit.chargeSecond

theorem fetchByUnit {x : EntryFetch} (h : Sound o s) : Sound o (Machine.fetchByUnit s c chan ch tm x) := by
  unfold Machine.fetchByUnit
  dsimp only
  split
  · exact h
  split
  · exact h
  split
  · exact h
  split
  · exact h.accept
  split
  · exact h.chargeChannel.fst ‹_›
  · exact (h.chargeChannel.fst ‹_›).accept.serve

theorem sendSecond (h : Sound o s) : Sound o (Machine.sendSecond s a) := by
  unfold Machine.sendSecond
  split
  · split
    · exact h
    · exact h.sendPart
  all_goals exact h

theorem unitByWindow {p : Path} (h : Sound o s) : Sound o (Machine.unitByWindow s c chan ch tm u p target bs) := by
  unfold Machine.unitByWindow
  split
  · exact h
  dsimp only
  split
  · exact h.dropReads.acceptUnit.sendSecond
  · exact h.dropReads.acceptUnit

theorem channelLeaves (h : Sound o s) : Sound o (Machine.channelLeaves s c chan) := h.leaveOthers

theorem serveChannel (h : Sound o s) : Sound o (Machine.serveChannel s c chan) :=
  h.foldl (fun _ _ h => (Sound.ite h.serve h)) _

theorem moveBlocks {d wa : Nat} {write : Option (List Byte)} (h : Sound o s) :
    Sound o (Machine.moveBlocks s c chan ch tm u d wa write) := by
  unfold Machine.moveBlocks
  split
  · exact h
  dsimp only
  split
  · exact h.holdChannel
  split
  · exact (h.streamBlock ‹_›).modChannel.landUnit
  · exact (h.streamBlock ‹_›).modChannel

theorem keepWalk {d wa : Nat} {p : Path} (h : Sound o s) : Sound o (Machine.keepWalk s c chan u d wa p) :=
  h.skipNumber.modChannel

theorem walkUnit (h : Sound o s) : Sound o (Machine.walkUnit s c chan ch tm u) := by
  unfold Machine.walkUnit
  dsimp only
  split
  · split
    · exact h.fetchByUnit
    · exact h
    · exact h.channelLeaves.dropReads.faultChannel
    · exact h.channelLeaves.dropReads.faultChannel
  split
  · exact h.unitByReach
  · exact h.unitByWindow
  split
  · exact h.channelLeaves.keepCopies.dropReads.keepWalk.moveBlocks
  split
  · exact (h.channelLeaves.keepCopies.dropReads.moveUnit ‹_›).landUnit
  · exact h.channelLeaves.keepCopies.dropReads.holdChannel

theorem moveOn (h : Sound o s) : Sound o (Machine.moveOn s c chan ch tm u) := by
  unfold Machine.moveOn
  split
  · exact h.moveBlocks
  · exact h.walkUnit

theorem execChunkLand {remote : List Byte} (h : Sound o s) : SoundNext o (Machine.execChunkLand c chan u remote s) := by
  unfold Machine.execChunkLand
  refine .next ?_
  split
  · exact h
  split
  · exact h
  split
  · exact h
  split
  · split
    · exact h
    · exact h.moveOn
  split
  · exact h.sendSecond.serveChannel
  · exact h.endFabric.landUnit

/-! The end of a copy. -/

theorem orphan {chan order : Nat → Bool} (h : Sound o s) : Sound o (Machine.orphan s w chan order) := by
  unfold Machine.orphan
  refine Sound.same (s := { s with inflight := List.map _ _ }) (h.mapInflight fun a => ?_)
  split
  · split
    · split <;> rfl
    · split <;> rfl
    · split <;> rfl
    · rfl
  · rfl

theorem freeChannel (h : Sound o s) : Sound o (Machine.freeChannel s c chan) := h.modBank

theorem followOn {order : Nat} {hand : Bool} (h : Sound o s) : Sound o (Machine.followOn s c order hand) := h.modBank

theorem reportTile {tile : Nat} {cause : Byte} (h : Sound o s) : Sound o (Machine.reportTile s t tile cause off) :=
  h.modTeam

theorem reportLanded (h : Sound o s) : Sound o (Machine.reportLanded s c ch) := by
  unfold Machine.reportLanded
  split
  · exact h
  · exact h.reportTile

theorem endKilled {cause : Byte} (h : Sound o s) : Sound o (Machine.endKilled s c chan ch tm cause off) := by
  unfold Machine.endKilled
  dsimp only
  split
  · exact h.channelLeaves.orphan.freeChannel.modBank
  · refine Sound.reportTile (Sound.reportLanded ?_)
    split
    · refine Sound.modTeam ?_
      split
      · exact h.channelLeaves.orphan.freeChannel.followOn
      · exact h.channelLeaves.orphan.freeChannel
    split
    · exact h.channelLeaves.orphan.freeChannel.followOn
    · exact h.channelLeaves.orphan.freeChannel
  · refine Sound.reportTile (Sound.reportLanded ?_)
    split
    · exact h.channelLeaves.orphan.freeChannel.followOn.modTeam
    · exact h.channelLeaves.orphan.freeChannel.followOn
  all_goals
    refine Sound.reportTile (Sound.reportLanded ?_)
    split
    · refine Sound.modTeam ?_
      split
      · exact h.channelLeaves.orphan.freeChannel.followOn
      · exact h.channelLeaves.orphan.freeChannel
    split
    · exact h.channelLeaves.orphan.freeChannel.followOn
    · exact h.channelLeaves.orphan.freeChannel

theorem writeFlag (h : Sound o s) : Sound o (Machine.writeFlag s c ch tm) := by
  unfold Machine.writeFlag
  dsimp only
  split
  · exact h.writeScratch
  · exact h.reportTile

theorem pledgeArrival (h : Sound o s) : Sound o (Machine.pledgeArrival s ch tm) := by
  unfold Machine.pledgeArrival
  split
  · exact h.same
  · exact h

theorem endCopy (h : Sound o s) : Sound o (Machine.endCopy s c chan ch tm) := by
  unfold Machine.endCopy
  dsimp only
  split
  · exact h.freeChannel.modBank
  all_goals
    refine Sound.pledgeArrival ?_
    split
    · refine Sound.followOn ?_
      split
      · exact h.freeChannel.reportLanded.modTeam
      · exact h.freeChannel.reportLanded
    · refine Sound.writeFlag ?_
      split
      · exact h.freeChannel.reportLanded.modTeam
      · exact h.freeChannel.reportLanded
    · refine Sound.modTeam ?_
      split
      · exact h.freeChannel.reportLanded.modTeam
      · exact h.freeChannel.reportLanded
    all_goals
      split
      · exact h.freeChannel.reportLanded.modTeam
      · exact h.freeChannel.reportLanded

theorem execCopyComplete (h : Sound o s) : SoundNext o (Machine.execCopyComplete c chan s) := by
  unfold Machine.execCopyComplete
  refine .next ?_
  split
  · exact h
  split
  · exact h
  split
  · exact h.endKilled
  · split
    · exact h.endCopy
    · exact h
  · exact h
  · exact h

/-! The array. -/

theorem touchArray {a : ArrayCmd} (h : Sound o s) : Sound o (Machine.touchArray s c a) :=
  h.foldl (fun _ _ h => h.touchTile) _

theorem execArrayStart (h : Sound o s) : SoundNext o (Machine.execArrayStart c entry s) := by
  unfold Machine.execArrayStart
  refine .next ?_
  split
  · exact h
  split
  · dsimp only
    split
    · exact h.takeUnit.touchArray.modBank.modTeam
    all_goals exact h.takeUnit.touchArray.modBank
  · exact h

theorem writeResult {a : ArrayCmd} (h : Sound o s) : Sound o (Machine.writeResult s c e a) :=
  h.modTeam.touchArray.modBank

theorem execArrayResult (h : Sound o s) : SoundNext o (Machine.execArrayResult c s) := by
  unfold Machine.execArrayResult
  refine .next ?_
  split
  · exact h
  split
  · exact h
  split
  · exact h.writeResult
  · exact h

theorem execTemptyEffect (h : Sound o s) : SoundNext o (Machine.execTemptyEffect c n s) := by
  unfold Machine.execTemptyEffect
  refine .next ?_
  split
  · exact h
  split
  · dsimp only
    split
    · exact h.modBank.modBank
    · exact h.modBank.modTeam
  · exact h

/-! Launches, counters of work, cancelling and the ends of teams. -/

theorem loseFlag {x : HeldStore} (h : Sound o s) : Sound o (Machine.loseFlag s w x) := by
  unfold Machine.loseFlag
  split
  · exact h
  split
  · exact h.modNamedSlice
  · exact h.modAccess

theorem quitResend (h : Sound o s) : Sound o (Machine.quitResend s n) :=
  h.foldl (fun _ _ h => h.foldl (fun _ _ h => (Sound.ite h.leaveEntry h)) _) _

theorem discardStores {s0 : State} {hs : List HeldStore} (h : Sound o s0) :
    Sound o (Machine.discardStores s0 w world c hs) := by
  unfold Machine.discardStores
  refine Sound.foldl (Sound.modNamedSlice (Sound.same (Sound.foldl h (fun _ _ h => ?_) _))) (fun _ _ h => h.sendHeld) _
  split
  · refine Sound.endFabric (Sound.quitResend ?_)
    split
    · exact h
    · exact h.loseFlag
  · exact h

theorem discardHeld (h : Sound o s) : Sound o (Machine.discardHeld s w) := by
  unfold Machine.discardHeld
  split
  · exact h
  · exact h.discardStores

theorem ackLate (h : Sound o s) : Sound o (Machine.ackLate s w refuse) := by
  unfold Machine.ackLate
  split
  · exact h
  split
  · exact h.discardStores
  · exact h.same.resumeLate

theorem keepLate (h : Sound o s) : Sound o (Machine.keepLate s tm c) := h.same

theorem discardTeam (h : Sound o s) : Sound o (Machine.discardTeam s tm) := h.foldl (fun _ _ h => h.discardHeld) _

theorem openStop {c : Cause} {info0 : DWord} (h : Sound o s) : Sound o (Machine.openStop s c info0 next) :=
  h.faultWith

theorem readLines {cache : Bool} (h : Sound o s) : Sound o (Machine.readLines s c pa key size cache).2 := by
  unfold Machine.readLines
  generalize hr : (([], s) : List Byte × State) = r
  have hs : Sound o r.2 := hr ▸ h
  clear hr
  induction linesOf pa size generalizing r with
  | nil => exact hs
  | cons l ls ih => exact ih _ hs.readMain

theorem readRecord {p : Path} {off : DWord} (h : Sound o s) :
    Sound o (Machine.readRecord s tm sl p lw off next).state := by
  unfold Machine.readRecord
  dsimp only
  split
  · exact h.faultSlice
  split
  · exact h.readLines.noteTime
  · exact h
  · exact h
  · exact h.drainTouching
  · split
    · exact h.waitPending
    · exact h
  · split
    · exact h.faultSlice
    · exact h.loadPieces ‹_›
  · exact h
  · exact h

theorem launchAt {p : Path} {off : DWord} (h : Sound o s) : Sound o (Machine.launchAt s f tm sl v q op p lw off) := by
  unfold Machine.launchAt
  dsimp only
  split
  · exact h.waitSlice
  split
  · exact h.joinQueue.waitSlice
  split
  · exact h.acceptFor
  · exact h.faultSlice
  have hr := (h.keepCopies (coreNo := s.cur.core) (cs := p.copies)).readRecord (tm := tm) (sl := sl) (p := p)
      (lw := lw) (off := off)
    (next := nextPc sl.pc f.len)
  generalize Machine.readRecord _ tm sl p lw off (nextPc sl.pc f.len) = r at hr
  cases r with
  | bytes t bs => exact Sound.finishNone (Sound.submitRecord hr)
  | waits t => exact Sound.waitSlice hr
  | stopped t => exact hr

theorem execLaunch {a : Src} (h : Sound o s) : SoundNext o (Machine.execLaunch d a b l s) := by
  unfold Machine.execLaunch
  refine Sound.runOwn h fun _ _ _ => ?_
  dsimp only
  split
  · exact h.trapSlice
  split
  · exact h.faultSlice
  split
  · exact h.openStop
  split
  · exact h.openStop
  split
  · exact h.stopAccess
  · exact h.launchAt

theorem withCounter {k : State} {v : DWord} (h : Sound o s) (hk : Sound o k) :
    Sound o (Machine.withCounter s f tm sl v k) := by
  unfold Machine.withCounter
  dsimp only
  split
  · exact h.trapSlice
  split
  · exact h.faultSlice
  · exact h.openStop
  · exact hk

theorem execCnta {a : Src} (h : Sound o s) : SoundNext o (Machine.execCnta a b s) :=
  h.runOwn fun _ _ _ => h.withCounter (Sound.ite h.waitSlice ((Sound.ite h.drainCombiner h).addCounter.finishNone))

theorem execCntw {a : Src} (h : Sound o s) : SoundNext o (Machine.execCntw a b s) :=
  h.run fun _ _ _ => h.withCounter (Sound.ite h.mergeStamp.finishNone h.waitSlice)

theorem orphanAll (h : Sound o s) : Sound o (Machine.orphanAll s w) := h.orphan

theorem leaveAll (h : Sound o s) : Sound o (Machine.leaveAll s c slot) :=
  h.leaveOthers.foldl (fun _ _ h => h.channelLeaves) _

theorem killCommands {p : TeamPlace} (h : Sound o s) : Sound o (Machine.killCommands s p tm) := by
  unfold Machine.killCommands
  dsimp only
  split
  · exact h.orphanAll.leaveAll.modBank
  · exact h.orphanAll.modCore
  · exact h.orphanAll.modCore
  · exact h.orphanAll

theorem dropShadow (h : Sound o s) : Sound o (Machine.dropShadow s t tm) := h.modCore.modGang

theorem killTeam {gteam : Nat} (h : Sound o s) : Sound o (Machine.killTeam s launch gang gteam) := by
  unfold Machine.killTeam
  split
  · exact h
  split
  · exact h
  refine Sound.settleOver ?_
  split
  · exact h.putTeamAt.killCommands.discardTeam.dropShadow
  all_goals exact h.putTeamAt.killCommands.discardTeam

theorem dropSaved (h : Sound o s) : Sound o (Machine.dropSaved s launch number) := by
  unfold Machine.dropSaved
  split
  · exact h
  · exact ((h.foldl (fun _ _ h => h.discardTeam) _).modGang).foldl (fun _ _ h => h.settleOver) _

theorem dropUnplaced (h : Sound o s) : Sound o (Machine.dropUnplaced s launch number) := by
  unfold Machine.dropUnplaced
  split
  · exact h
  split
  · refine Sound.foldl h (fun _ _ h => ?_) _
    split
    · exact h
    · exact h.modGang
  · exact h

theorem cancelLaunch {l : Launch} (h : Sound o s) : Sound o (Machine.cancelLaunch s l) :=
  h.modLaunch.foldl (fun _ _ h => h.dropSaved.dropUnplaced.foldl (fun _ _ h => h.killTeam) _) _

theorem finishRecord (h : Sound o s) : Sound o (Machine.finishRecord s q n) := h.same.putHead

theorem advanceCounters {d1 : DWord} {ts : Option Word} (h : Sound o s) :
    Sound o (Machine.advanceCounters s world d1 ts) := by
  unfold Machine.advanceCounters
  refine Sound.foldl h (fun _ _ h => ?_) _
  split
  · exact h
  split
  · exact h.addCounter
  · exact h

theorem writeStatus {status reason : Nat} (h : Sound o s) :
    Sound o (Machine.writeStatus s pa key status reason launch) := h.writeDevice

theorem removeRecord (h : Sound o s) : Sound o (Machine.removeRecord s q n) :=
  h.same.drainCombiner.writeStatus.advanceCounters.finishRecord

theorem cancelWork {m : Wrk} {i : Nat} (h : Sound o s) : Sound o (Machine.cancelWork s world m i) :=
  (h.foldl (fun _ _ h => h.cancelLaunch) _).foldl (fun _ _ h => h.removeRecord) _

theorem execCancel {a : Src} {m : Wrk} (h : Sound o s) : SoundNext o (Machine.execCancel a m s) := by
  refine h.runOwn fun tm sl v => h.withCounter ?_
  split
  · exact h.faultSlice
  · exact h.finishNone.cancelWork

/-! Invalidation and the flush of a range. -/

theorem staleCopies {lab : BitVec 16} (h : Sound o s) : Sound o (Machine.staleCopies s m world lab) := by
  unfold Machine.staleCopies
  split
  · exact h.same
  · exact h.mapDies
  · exact h.same
  · exact h.same

theorem mapTeams {f : Team → Team} (h : Sound o s) : Sound o (Machine.mapTeams f s) := h.same

theorem invalidate {lab : BitVec 16} (h : Sound o s) : Sound o (Machine.invalidate s m world lab) :=
  (h.staleCopies.mapTeams.mapInflight (f := fun a => if a.stale m world lab then { a with lost := true } else a) fun
      a => by split <;> rfl).same

theorem rewalkStopped {lab : BitVec 16} (h : Sound o s) : Sound o (Machine.rewalkStopped s m world lab) := h.same

theorem invalidated {lab : BitVec 16} (h : Sound o s) : Sound o (Machine.invalidated s m world lab) :=
  h.rewalkStopped.mapTeams

theorem execLinv {a : Src} (h : Sound o s) : SoundNext o (Machine.execLinv a m s) :=
  h.runOwn fun _ _ _ => (Sound.ite h.trapSlice
      (Sound.ite h.openStop (Sound.ite h.drainCombiner.waitSlice
          (Sound.ite ((Sound.ite h.drainCombiner.invalidate.modSlice h.drainCombiner).waitSlice)
              ((Sound.ite h.drainCombiner.invalidate.modSlice h.drainCombiner).invalidated.finishNone)))))

theorem modPartition {p : Nat} {f : Partition → Partition} (h : Sound o s) : Sound o (Machine.modPartition s p f) :=
  h.same

theorem dropCached {len : Nat} (h : Sound o s) : Sound o (Machine.dropCached s pa len) :=
  (h.foldl (fun _ _ h => h.modPartition) _).same

theorem flushStacks {len : Nat} (h : Sound o s) : Sound o (Machine.flushStacks s c tm pa len) := by
  unfold Machine.flushStacks
  refine Sound.foldl h (fun _ _ h => ?_) _
  split
  · exact h
  split
  · split
    · exact h.writeDevice.modNamedSlice
    · exact h
  all_goals exact h

theorem flushRange {len : Nat} (h : Sound o s) : Sound o (Machine.flushRange s pa len) :=
  ((h.foldl (fun _ _ h => h.flushStacks) _).foldl (fun _ _ h => h.evictLine) _).dropCached

theorem execFlushr {a : Src} (h : Sound o s) : SoundNext o (Machine.execFlushr a b l s) := by
  unfold Machine.execFlushr
  refine Sound.runOwn h fun _ _ _ => ?_
  dsimp only
  split
  · exact h.finishNone
  split
  · exact h.faultSlice
  split
  · exact h.stopAccess
  split
  · exact h.faultSlice
  split
  · split
    · exact h.keepCopies.faultSlice
    · exact h.keepCopies.flushRange.finishNone
  all_goals exact h.keepCopies.finishNone

/-! Events of the memory: wakes, fills, answers and the elements of the queues. -/

theorem makeRunnable (h : Sound o s) : Sound o (Machine.makeRunnable s id) := h.modSlice

theorem execWake (h : Sound o s) : SoundNext o (Machine.execWake id s) := by
  unfold Machine.execWake
  refine .next ?_
  split
  · exact h
  split
  · exact h
  split
  · exact h.completeJoin
  · split
    · exact h.makeRunnable
    · exact h
  all_goals exact h

theorem landEntry (h : Sound o s) : Sound o (Machine.landEntry s a bs) := by
  unfold Machine.landEntry
  split
  · dsimp only
    split
    · split
      · split
        · exact h.modNamedSlice
        · exact h
      split
      · exact h.keepRead.modNamedSlice
      · exact h.keepRead
    · refine Sound.modNamed ?_
      split
      · exact h
      · exact h.keepRead
    split
    · exact h
    · exact h.keepRead
  · exact h

theorem fabricReply {reply : List Byte} (h : Sound o s) : Sound o (Machine.fabricReply s a reply) := by
  unfold Machine.fabricReply
  dsimp only
  split
  · exact h
  split
  · exact h.endFabric.modNamed
  split
  · exact h.endFabric.landEntry
  · exact h.endFabric.handOver

theorem execLoadComplete {reply : List Byte} (h : Sound o s) : SoundNext o (Machine.execLoadComplete n reply s) := by
  unfold Machine.execLoadComplete
  refine .next ?_
  split
  · exact h
  split
  · exact h
  split
  · exact h.fabricReply
  dsimp only
  split
  · split
    · exact h
    · exact h.performLoad
  split
  · refine Sound.handOver ?_
    split
    · exact h
    · exact h.performLoad
  split
  · exact h
  · exact h.performLoad

theorem execHomeStore (h : Sound o s) : SoundNext o (Machine.execHomeStore n s) := by
  unfold Machine.execHomeStore
  refine .next ?_
  split
  · exact h
  split
  · exact h.performStore
  · exact h

theorem execHomeAtomic (h : Sound o s) : SoundNext o (Machine.execHomeAtomic n s) := by
  unfold Machine.execHomeAtomic
  refine .next ?_
  split
  · exact h
  split
  · split
    · exact h
    · exact h.performAtomic
  · exact h

theorem execLeaseRenewal (h : Sound o s) : SoundNext o (Machine.execLeaseRenewal n s) := by
  unfold Machine.execLeaseRenewal
  refine .next ?_
  split
  · exact h
  split
  · dsimp only
    split
    · exact h.performLoad
    split
    · exact h.performLoad.handOver
    · exact h.performLoad
  · exact h

theorem holdMaster {x : Hold} (h : Sound o s) : Sound o (Machine.holdMaster s w x) := by
  unfold Machine.holdMaster
  split
  · exact h
  · exact h
  · exact h.freezeMaster

theorem readElem {t : State} {tid : TeamId} {e : Elem} {v : Word} (h : Sound o s)
    (hr : Machine.readElem s tid tm e = .ok (t, v)) :
    Sound o t := by
  unfold Machine.readElem at hr
  obtain ⟨p, hp, hr⟩ := bind_ok hr
  have hk := h.keepCopies (coreNo := tid.core) (cs := p.copies)
  dsimp only at hr
  split at hr
  · cases hr
  split at hr
  · cases hr; exact hk.readMain.noteTime
  · cases hr; exact hk.touchScratch
  · cases hr; exact hk
  · cases hr; exact hk.drainTouching
  · split at hr <;> cases hr
    exact hk
  · obtain ⟨⟨u, bs⟩, hu, hr⟩ := map_ok hr
    cases hr
    exact hk.loadStack hu
  all_goals cases hr

theorem groupLoad {g : Group} {e : Elem} (h : Sound o g.s) : Sound o (g.load t e).s := by
  unfold Group.load
  split
  · exact h
  split
  · exact h.readElem ‹_›
  · split <;> exact h

theorem performElem {g : Group} {e : Elem} (h : Sound o g.s) : Sound o (Machine.performElem t g e).s := by
  unfold Machine.performElem
  split
  · exact h
  split
  · exact h
  · exact h
  · exact h
  · exact h
  · exact h
  · dsimp only
    split
    · exact h.groupLoad
    change Sound o (match teamAt _ t with
      | some tm => _
      | none => _)
    split
    · exact h.setCt.noteTime
    · exact h.setCt
  · exact h.groupLoad

theorem performElems {es : List Elem} {g : Group} (h : Sound o g.s) :
    Sound o (es.foldl (Machine.performElem t) g).s := by
  induction es generalizing g with
  | nil => exact h
  | cons e es ih => exact ih h.performElem

theorem performGroup (h : Sound o s) : Sound o (Machine.performGroup s t) := by
  unfold Machine.performGroup
  split
  · exact h
  split
  · exact h
  dsimp only
  split
  · exact h.holdMaster
  · exact Sound.ite (Sound.performElems h).modTeam.touchQueues.dropReads h

theorem readEarly (h : Sound o s) : Sound o (Machine.readEarly s c pa key size).2.2 := by
  unfold Machine.readEarly
  dsimp only
  split <;> dsimp only
  · exact h.touchWay
  · exact h.renewLine.modCore

theorem fetchElem {i k : Nat} (h : Sound o s) : Sound o (Machine.fetchElem s t tm q i k) := by
  unfold Machine.fetchElem
  split
  · exact h
  split
  · exact h
  split
  · exact h
  split
  · split
    · exact h
    · exact h.keepCopies.readEarly.modTeam
  · exact h

theorem execQueueElementPerform {fetch : Option (Nat × Nat × Nat)} (h : Sound o s) :
    SoundNext o (Machine.execQueueElementPerform t fetch s) := by
  unfold Machine.execQueueElementPerform
  refine .next ?_
  split
  · exact h
  split
  · exact h
  split
  · exact h.fetchElem
  split
  · exact h
  · exact h.sendElems.performGroup

theorem execLineFill {victim : Option Nat} (h : Sound o s) : SoundNext o (Machine.execLineFill line victim s) := by
  unfold Machine.execLineFill
  refine .next ?_
  split
  · exact h
  dsimp only
  split
  · split
    · exact h.putLine
    · exact h
  split
  · split
    · exact h.evictLine.putLine
    · exact h
  split
  · exact h.putLine
  · exact h

theorem countEviction {p : Nat} (h : Sound o s) : Sound o (Machine.countEviction s q p) := by
  unfold Machine.countEviction
  dsimp only
  split <;> exact h.modPartition.modPartition

theorem addCached {set : Nat} {xs : List CachedLine} (h : Sound o s) : Sound o (Machine.addCached s set xs line q) :=
  h.same.modPartition

theorem watchCache {p set : Nat} (h : Sound o s) : Sound o (Machine.watchCache s p set line) := by
  unfold Machine.watchCache
  split
  · exact h.same
  · exact h

theorem execMscFill {owner : Bool} (h : Sound o s) : SoundNext o (Machine.execMscFill line owner world s) := by
  unfold Machine.execMscFill
  refine .next ?_
  split
  · exact h
  dsimp only
  split
  · exact h.watchCache.same.modPartition
  split
  · exact h.watchCache.modPartition
  split
  · exact h.watchCache.modPartition.addCached
  split
  · exact h.watchCache.modPartition
  · exact h.watchCache.modPartition.countEviction.addCached

theorem rereadWord {x : Watched} (h : Sound o s) : Sound o (Machine.rereadWord s id tm x) := by
  unfold Machine.rereadWord
  dsimp only
  split
  · exact h.refuseAtPlace
  split
  · exact (h.readPlace ‹_›).noteAccess.parkAddress
  · exact (h.readPlace ‹_›).noteAccess.modSlice.commitPops.completeNamed

theorem execWaitaWake (h : Sound o s) : SoundNext o (Machine.execWaitaWake id s) := by
  unfold Machine.execWaitaWake
  refine .next ?_
  split
  · exact h
  split
  · exact h
  split
  · exact h
  split
  · exact h.modSlice
  split
  · exact h.rereadWord
  · exact h

theorem raiseTimes (h : Sound o s) : Sound o (Machine.raiseTimes s) := h.same

theorem execBarrierContribution (h : Sound o s) : SoundNext o (Machine.execBarrierContribution n s) := by
  unfold Machine.execBarrierContribution
  refine .next ?_
  split
  · exact h
  · exact h.same.contributeTo

/-! The end of a team, and the placing of gangs on cores. -/

theorem postSpill {f : PathFault} (h : Sound o s) : Sound o (Machine.postSpill s id tm line f) := by
  unfold Machine.postSpill
  dsimp only
  split
  · exact h
  split
  · exact h.postFault
  · exact h.postFault
  all_goals exact h

theorem giveUpLine {x : Nat × Option Nat × Nat × List Byte} (h : Sound o s) : Sound o (Machine.giveUpLine c s x) := by
  unfold Machine.giveUpLine
  split
  · exact h
  split
  · exact (h.writeBackLine ‹_›).dropStack
  · exact h.postSpill

theorem recarve (h : Sound o s) : Sound o (Machine.recarve s c) := by
  unfold Machine.recarve
  exact (h.foldl (fun _ _ h => h.giveUpLine) _).modCore

theorem quitLaunches (h : Sound o s) : Sound o (Machine.quitLaunches s tm) := h.same

theorem endTeam (h : Sound o s) : Sound o (Machine.endTeam s t tm) :=
  ((((((Sound.ite h.leaveAll.discardTeam h.leaveAll.keepLate).foldl (fun _ _ h => h.giveUpLine)
      _).modBank).modGang).quitLaunches).settleOver).releaseEntries

theorem execTeamEnd (h : Sound o s) : SoundNext o (Machine.execTeamEnd t s) := by
  unfold Machine.execTeamEnd
  refine .next ?_
  split
  · exact h
  split
  · exact h.endTeam
  · exact h

theorem latchWorld (h : Sound o s) : Sound o (Machine.latchWorld s c world) := h.modCore

theorem bindEntry {pkg : Nat} (h : Sound o s) : Sound o (Machine.bindEntry s c world pkg) := by
  unfold Machine.bindEntry
  dsimp only
  split
  · exact h
  split
  · exact h
  · exact h.modAllow

theorem bindEntries {l : Launch} (h : Sound o s) : Sound o (Machine.bindEntries s c l) :=
  h.foldl (fun _ _ h => h.bindEntry) _

theorem mergeSeen {l : Launch} (h : Sound o s) : Sound o (Machine.mergeSeen s c l) :=
  h.foldl (fun _ _ h => h.mergeStamp) _

theorem readyCore {l : Launch} (h : Sound o s) : Sound o (Machine.readyCore s c l) :=
  h.latchWorld.releaseEntries.bindEntries.mergeSeen

theorem renewMasters {m : List (Nat × Nat)} (h : Sound o s) : Sound o (Machine.renewMasters s w m) := h.same

theorem joinEntry {x : Nat × KeptWaiter} (h : Sound o s) : Sound o (Machine.joinEntry s c x) := by
  unfold Machine.joinEntry
  split
  · exact h.modAllow.serve
  · exact h

theorem joinEntries (h : Sound o s) : Sound o (Machine.joinEntries s c) :=
  h.modBank.foldl (fun _ _ h => h.joinEntry) _

theorem adopt {v : SavedTeam} (h : Sound o s) : Sound o (Machine.adopt s c v) :=
  (h.mapInflight (f := fun a => if v.team.owns a.who then { a with core := c } else a) fun a => by split <;> rfl).modCore.mergeCt

theorem replayElem {x : Nat × Nat × Nat × Elem} (h : Sound o s) : Sound o (Machine.replayElem t s x) := by
  unfold Machine.replayElem
  dsimp only
  split
  · exact h
  split
  · exact h
  split
  · exact (h.readElem ‹_›).modTeam
  split
  · exact h
  · exact h.modTeam

theorem meetEnds (h : Sound o s) : Sound o (Machine.meetEnds s t) := by
  unfold Machine.meetEnds
  split
  · exact h
  · exact h.circleTraps.foldl (fun _ _ h => h.settleOver) _

theorem settleTeam (h : Sound o s) : Sound o (Machine.settleTeam s t) := by
  unfold Machine.settleTeam
  refine Sound.meetEnds (Sound.resendTeam (Sound.joinEntries ?_))
  split
  · exact h.recarve.touch
  · exact h.recarve.touch.foldl (fun _ _ h => h.replayElem) _

theorem installTeam {l : Launch} (h : Sound o s) : Sound o (Machine.installTeam s l g n t) := by
  unfold Machine.installTeam
  dsimp only
  split
  · exact h.readyCore.renewMasters.modBank.modGang.adopt.settleTeam
  split
  · exact h.readyCore
  · exact h.readyCore.modBank.settleTeam

theorem writeContext {v : SavedTeam} (h : Sound o s) : Sound o (Machine.writeContext s v) := h.writeDevice

theorem leaveTeam (h : Sound o s) : Sound o (Machine.leaveTeam s t tm) := h.leaveOthers.orphanAll

theorem spillLine {r : Team} {x : Option Nat × Nat × List Byte} (h : Sound o s) :
    Sound o (Machine.spillLine s c slot r x).1 := by
  unfold Machine.spillLine
  split
  · exact h.writeBackLine ‹_›
  · exact h.postSpill

theorem spillLines (h : Sound o s) : Sound o (Machine.spillLines s c slot tm).1 := by
  unfold Machine.spillLines
  generalize hr : (s, tm) = r
  have hs : Sound o r.1 := hr ▸ h
  clear hr
  induction tm.stackLines generalizing r with
  | nil => exact hs
  | cons x xs ih => exact ih _ hs.spillLine

theorem settleGang (h : Sound o s) : Sound o (Machine.settleGang s launch number) := by
  unfold Machine.settleGang
  split
  · exact h
  dsimp only
  split
  · exact h
  split
  all_goals
    split
    · exact h.same.modGang.dropSaved
    · exact h.same.modGang

theorem addSaved {v : SavedTeam} (h : Sound o s) : Sound o (Machine.addSaved s c v) :=
  h.quitLaunches.modCore.modGang.writeContext.settleGang

theorem extractTeam {block : Nat} (h : Sound o s) : Sound o (Machine.extractTeam s t tm block) := by
  unfold Machine.extractTeam
  exact h.leaveTeam.spillLines.modBank.releaseEntries.addSaved

theorem dropOutgoing {b : Bank} {slots : Bool} (h : Sound o s) : Sound o (Machine.dropOutgoing s c slot b slots) := by
  unfold Machine.dropOutgoing
  exact h.modCore

theorem spillTeam {b : Bank} {block : Nat} (h : Sound o s) : Sound o (Machine.spillTeam s c slot b tm block) :=
  h.spillLines.dropOutgoing.addSaved

theorem endOutgoing {b : Bank} (h : Sound o s) : Sound o (Machine.endOutgoing s c slot b tm) :=
  h.discardTeam.dropOutgoing.quitLaunches.modGang.settleOver.settleGang

theorem execLqtail {x : Word} (h : Sound o s) : SoundNext o (Machine.execLqtail fn q x s) :=
  .next (Sound.ite h (Sound.ite h.setQueueErr h.stampRecords.putTail))

theorem bindSlots (h : Sound o s) : Sound o (Machine.bindSlots s q world n launch) :=
  h.foldl (fun _ _ h => (Sound.ite h h.same.setRingPos)) _

theorem refuseRecord {reason : Nat} {ws : List DWord} (h : Sound o s) :
    Sound o (Machine.refuseRecord s q n launch reason ws) := h.drainCombiner.writeStatus.advanceCounters.finishRecord

theorem beginLaunch {ws : List DWord} {ds : List TeamDecl} {code : List Word} {seen : Option Word} (h : Sound o s) :
    Sound o (Machine.beginLaunch s q n launch ws ds code seen) := h.same.noteWaits

theorem execRecordCurrent (h : Sound o s) : SoundNext o (Machine.execRecordCurrent q s) := by
  refine .next ?_
  split
  · exact h
  split
  · exact h
  dsimp only
  split
  · exact h
  split
  · refine Sound.refuseRecord (Sound.bindSlots (Sound.same (s := Machine.writeStatus _ _ _ _ _ _) ?_))
    exact h.same.writeStatus
  refine Sound.beginLaunch (Sound.bindSlots (Sound.same (s := Machine.writeStatus _ _ _ _ _ _) ?_))
  exact h.same.writeStatus

theorem startLaunch {l : Launch} (h : Sound o s) : Sound o (Machine.startLaunch s l) := by
  unfold Machine.startLaunch
  split
  · exact h
  split
  · exact h
  · exact h.modLaunch

theorem loadDies {l : Launch} (h : Sound o s) : Sound o (Machine.loadDies s l) := by
  unfold Machine.loadDies
  split
  · exact h.foldl (fun _ _ h => h.modDie) _
  · exact h

theorem enrol {p : Nat} {c : Candidate} {ts : List TeamId} {st : GangState} (h : Sound o s) :
    Sound o (Machine.enrol s p c ts st).1 := by
  unfold Machine.enrol
  dsimp only
  split
  · exact h.modGang
  · exact h.startLaunch.same.loadDies

theorem placeAt {p : Nat} {c : Candidate} {ts : List TeamId} (h : Sound o s) : Sound o (Machine.placeAt s p c ts) :=
  (h.enrol.foldl (fun _ _ h => h.installTeam) _).modGang

theorem countPasses {s0 : State} {placed : Nat} (h : Sound o s) : Sound o (Machine.countPasses s0 s placed) := h.same

theorem execPlaceGang (h : Sound o s) : SoundNext o (Machine.execPlaceGang s) := by
  unfold Machine.execPlaceGang
  refine .next ?_
  split
  · exact h
  · exact h.placeAt.countPasses

theorem execQuotaUpdate {anew : Bool} (h : Sound o s) : SoundNext o (Machine.execQuotaUpdate anew s) := by
  refine .next (Sound.ite h ?_)
  extract_lets s1
  have h1 : Sound o s1 := h.foldl (fun _ _ h => Sound.ite h h.modPartition) _
  generalize s1 = t at h1
  exact h1.same

theorem execPreempt (h : Sound o s) : SoundNext o (Machine.execPreempt s) := by
  unfold Machine.execPreempt
  refine .next ?_
  split
  · exact h
  · exact h.enrol.countPasses

theorem preloadMember (h : Sound o s) : Sound o (Machine.preloadMember s c g n) := by
  unfold Machine.preloadMember
  dsimp only
  split
  · exact h.renewMasters.modGang.modCore.adopt
  split
  · exact h
  split
  · exact h
  · exact h.modCore

theorem returnMember {block : Nat} (h : Sound o s) : Sound o (Machine.returnMember block g s n) := by
  unfold Machine.returnMember
  split
  · split
    · exact h
    · exact h.modCore.addSaved
  all_goals exact h

theorem returnPreloaded (h : Sound o s) : Sound o (Machine.returnPreloaded s g) := by
  unfold Machine.returnPreloaded
  dsimp only
  split
  · exact h
  · exact ((h.foldl (fun _ _ h => h.returnMember) _).same).modGang

theorem execPreload (h : Sound o s) : SoundNext o (Machine.execPreload c s) := by
  unfold Machine.execPreload
  refine .next ?_
  split
  · exact h
  split
  · exact h.returnPreloaded
  split
  · exact h
  · exact h.preloadMember

theorem finishArrays (h : Sound o s) : Sound o (Machine.finishArrays s c) := by
  unfold Machine.finishArrays
  refine Sound.foldl h (fun _ _ h => ?_) _
  split
  · exact h
  · exact h.writeResult

theorem leaveCore (h : Sound o s) : Sound o (Machine.leaveCore s c) := h.foldl (fun _ _ h => h.leaveTeam) _

theorem exchangeBanks {b : Bank} {waiting : List (Nat × KeptWaiter)} (h : Sound o s) :
    Sound o (Machine.exchangeBanks s c world b waiting) := h.modCore

theorem settlePreloaded (h : Sound o s) : Sound o (Machine.settlePreloaded s g) := by
  unfold Machine.settlePreloaded
  dsimp only
  split
  · exact h.modGang
  · exact h

theorem swapBank {l : Launch} {b : Bank} (h : Sound o s) : Sound o (Machine.swapBank s c g l b) := by
  unfold Machine.swapBank
  exact (((((h.finishArrays.leaveCore.exchangeBanks.foldl (fun _ _ h => h.modGang)
      _).releaseEntries).bindEntries).mergeSeen).settleTeam).settlePreloaded

theorem execBankSwap (h : Sound o s) : SoundNext o (Machine.execBankSwap c s) := by
  unfold Machine.execBankSwap
  refine .next ?_
  split
  · split
    · exact h
    split
    · exact h.returnPreloaded
    split
    · exact h.swapBank
    · exact h
  · exact h

theorem execSpill (h : Sound o s) : SoundNext o (Machine.execSpill c s) := by
  unfold Machine.execSpill
  refine .next ?_
  split
  · exact h
  split
  · exact h
  split
  · exact h.endOutgoing
  · exact h.spillTeam
  · exact h

theorem extractMember (h : Sound o s) : Sound o (Machine.extractMember s launch number n) := by
  unfold Machine.extractMember
  split
  · split
    · split
      · exact h.endTeam
      · exact h
    · split
      · exact h.extractTeam
      · exact h
    · exact h
  all_goals exact h

theorem execExtract (h : Sound o s) : SoundNext o (Machine.execExtract launch number s) := by
  unfold Machine.execExtract
  refine .next ?_
  split
  · exact h
  split
  · exact (h.foldl (fun _ _ h => h.extractMember) _).settleGang
  · exact h

theorem completeLaunch {l : Launch} (h : Sound o s) : Sound o (Machine.completeLaunch s l) := by
  unfold Machine.completeLaunch
  extract_lets s1 s2 s3 s4 s5
  have h1 : Sound o s1 := Sound.ite h.drainCombiner h
  have h2 : Sound o s2 := Sound.ite h1.writeStatus h1
  have h5 : Sound o s5 := (h2.modLaunch.advanceCounters (s := s3)).mapDies (by intro; split <;> rfl)
  split
  · exact h5.finishRecord
  · exact h5

theorem execLaunchComplete (h : Sound o s) : SoundNext o (Machine.execLaunchComplete launch s) := by
  unfold Machine.execLaunchComplete
  refine .next ?_
  split
  · exact h
  split
  · exact h.completeLaunch
  · exact h

/-! Fault records and their acknowledgement. -/

theorem writeDest {d : Dest} (h : Sound o s) : Sound o (Machine.writeDest s d bs) := by
  unfold Machine.writeDest
  split
  · exact h.writeDevice
  · exact h.writeHostMem
  all_goals exact h

theorem modFault {order : Nat} {f : EngineFault → EngineFault} (h : Sound o s) :
    Sound o (Machine.modFault s w order f) := by
  unfold Machine.modFault
  split
  · exact h
  · exact h.modBank
  · exact h.modCore
  · exact h.modCore
  · exact h.modGang

theorem ackMiss (h : Sound o s) : Sound o (Machine.ackMiss s w) := h.same.modGang

theorem refuseMiss (h : Sound o s) : Sound o (Machine.refuseMiss s w) := h.discardHeld.modNamedSlice

theorem ackViolation (h : Sound o s) : Sound o (Machine.ackViolation s w refuse) := by
  unfold Machine.ackViolation
  split
  · refine Sound.killTeam ?_
    split
    · exact h.modNamed
    · exact h.modNamed.foldl (fun _ _ h => h.discardHeld) _
  split
  · exact h
  dsimp only
  split
  · split
    · exact h.modNamed.resumeTeam
    all_goals exact h.modNamed
  split
  · refine Sound.killTeam ?_
    split
    · exact h.modNamed.resumeTeam
    all_goals exact h.modNamed
  split
  · exact h.modNamed.resumeTeam
  all_goals exact h.modNamed

theorem dropCancelled (h : Sound o s) : Sound o (Machine.dropCancelled s launch gang) := by
  unfold Machine.dropCancelled
  split
  · exact h
  split
  · exact h.dropSaved
  · exact h

theorem ackMaster {m : Master} {miss : Bool} (h : Sound o s) : Sound o (Machine.ackMaster s m miss refuse) := by
  unfold Machine.ackMaster
  split
  · exact h
  · exact h.same
  · split
    · exact h.ackLate.dropCancelled
    split
    · refine Sound.ackMiss ?_
      split
      · exact h.refuseMiss
      · exact h
    · exact h.ackViolation.dropCancelled
  dsimp only
  split
  · exact h.modFault.ackMiss
  · exact h.modFault

theorem acknowledge {x : Posted} (h : Sound o s) : Sound o (Machine.acknowledge s x refuse) := by
  unfold Machine.acknowledge
  dsimp only
  split
  all_goals
    split
    · exact h.same
    · exact h.same.ackMaster

theorem loseNotices {q : FaultQ} (h : Sound o s) : Sound o (Machine.loseNotices s q) := h.same

theorem reportWrite {q : FaultQ} {x : Waiting} {f : PathFault} (h : Sound o s) :
    Sound o (Machine.reportWrite s q x f) := by
  unfold Machine.reportWrite
  split
  · exact h
  dsimp only
  split
  · exact h.same.postFault
  · exact h.same.postFault
  all_goals exact h.same

theorem placeRecord {q : FaultQ} {x : Waiting} {d : Dest} (h : Sound o s) : Sound o (Machine.placeRecord s q x d) :=
  Sound.same (s := Machine.writeDest { s with waiting := dropFirst q s.waiting } d (bytesOfDWords x.words)) h.same.writeDest

theorem writeRecord {q : FaultQ} (h : Sound o s) : Sound o (Machine.writeRecord s q) := by
  unfold Machine.writeRecord
  split
  · exact h
  split
  · exact h.loseNotices
  split
  · split
    · exact h.loseNotices
    · exact h.loseNotices.reportWrite
  split
  · refine Sound.placeRecord ?_
    split
    · exact h.acknowledge
    · exact h
  · exact h.loseNotices

theorem settleAck {x : Posted} (h : Sound o s) : Sound o (Machine.settleAck s x) := by
  unfold Machine.settleAck
  split
  · exact h
  refine Sound.writeRecord (Sound.acknowledge ?_)
  split
  · exact h.writeDest
  · exact h

theorem settleAcks (h : Sound o s) : Sound o (Machine.settleAcks s) := h.foldl (fun _ _ h => h.settleAck) _

theorem ackSlot {q : FaultQ} (h : Sound o s) : Sound o (Machine.ackSlot s fn q slot refuse) := by
  unfold Machine.ackSlot
  split
  · exact h
  split
  · exact h
  dsimp only
  split
  · exact h.writeDest.writeRecord
  · exact h.writeDest.settleAck

theorem writeDesc {q : FaultQ} {i : Nat} {v : DWord} (h : Sound o s) : Sound o (Machine.writeDesc s fn q i v) := by
  unfold Machine.writeDesc
  split
  · split
    · exact h.same.writeRecord
    · exact h
  · split
    · exact h.same.writeRecord
    · exact h
  · exact h
  · exact h

/-! Commands to a stopped slice. -/

theorem restart {skip : Bool} (h : Sound o s) : Sound o (Machine.restart s w pc skip) := h.modNamedSlice

theorem resumeSlice (h : Sound o s) : Sound o (Machine.resumeSlice s w pc) := h.restart

theorem retireSlice (h : Sound o s) : Sound o (Machine.retireSlice s w) := by
  unfold Machine.retireSlice
  refine Sound.settleOver ?_
  split
  · exact h.modNamed.circleTraps
  all_goals exact h.modNamed

theorem setRarg {v : Option DWord} (h : Sound o s) : Sound o (Machine.setRarg s world v) := by
  unfold Machine.setRarg
  split
  · exact h
  · exact h.same

theorem setRunControl {rcmd : DWord} {err : Bool} (h : Sound o s) :
    Sound o (Machine.setRunControl s world rcmd err) := h.same

theorem runCommand {s0 : State} {rcmd : DWord} {v : Option DWord} {code : Nat} (h : Sound o s0) :
    Sound o (Machine.runCommand s0 fn world rcmd v code) := by
  unfold Machine.runCommand
  split
  · exact h
  dsimp only
  split
  · exact h.setRarg.setRunControl
  split
  · exact h
  split
  · exact h.setRarg.setRunControl
  split
  · exact h.setRarg.setRunControl.resumeSlice
  · exact h.setRarg.setRunControl.retireSlice

theorem lcpError (h : Sound o s) : Sound o (Machine.lcpError s) := h.same

theorem execLcpcmd {v : DWord} (h : Sound o s) : SoundNext o (Machine.execLcpcmd fn v s) :=
  .next (Sound.ite h (Sound.ite h.lcpError h.invalidate.same))

/-! Registers that a function writes, and the accesses of the host. -/

theorem writePackageReg {v : DWord} (h : Sound o s) : Sound o (Machine.writePackageReg s off v) := by
  unfold Machine.writePackageReg
  dsimp only
  split
  · exact h.same
  · exact h.same
  · exact h.same
  · exact h.same
  · exact h.same
  · exact h.same
  split
  · exact h.modDie
  split
  · exact h.same
  split
  · exact h.same
  · exact h

theorem writeFabricReg {v : DWord} (h : Sound o s) : Sound o (Machine.writeFabricReg s off v) := by
  unfold Machine.writeFabricReg
  dsimp only
  split
  · exact h.same
  · exact h.same
  · exact h.same
  · exact h.same
  · exact h

theorem writeCommand {v : DWord} (h : Sound o s) : Sound o (Machine.writeCommand s fn v) := by
  unfold Machine.writeCommand
  dsimp only
  split
  · exact h.same
  · split <;> exact h.same

theorem writeRegister {v : DWord} (h : Sound o s) : Sound o (Machine.writeRegister s fn off v) := by
  unfold Machine.writeRegister
  dsimp only
  split
  · split
    · exact h.writePackageReg
    · exact h
  split
  · split
    · exact h.same
    · exact h
  split
  · split
    · exact h.same
    · exact h
  split
  · split
    · exact h.writeFabricReg
    · exact h
  split
  · exact h.writeCommand
  split
  · exact h.same
  split
  · split
    · exact h.same
    · exact h
  · exact h

theorem execRegisterWrite {v : DWord} (h : Sound o s) : SoundNext o (Machine.execRegisterWrite fn off v s) :=
  .next (Sound.ite (Sound.ite h.same h) (Sound.ite (Sound.ite h.same h) (Sound.ite h.writeRegister h)))

theorem hostFault {f : PathFault} (h : Sound o s) : Sound o (Machine.hostFault s fn off size f) := by
  unfold Machine.hostFault
  dsimp only
  split
  · exact h.postFault
  · exact h.postFault
  all_goals exact h

theorem hostReturn {data : List Byte} {poisoned : Bool} (h : Sound o s) :
    Sound o (Machine.hostReturn s fn off data poisoned) := h.same

theorem hostPerform {d : Dest} {write : Bool} {data : List Byte} (h : Sound o s) :
    Sound o (Machine.hostPerform s fn off d write size data) := by
  unfold Machine.hostPerform
  dsimp only
  split
  · split
    · split
      · exact h.streamMain ‹_›
      · exact (h.streamMain ‹_›).hostReturn
    · exact h
  · split
    · exact h.writeHostMem
    · exact h.hostReturn
  all_goals exact h

theorem execHostAccess {write : Bool} {data : List Byte} (h : Sound o s) :
    SoundNext o (Machine.execHostAccess fn write off size data s) := by
  unfold Machine.execHostAccess
  refine .next ?_
  split
  · split
    · exact h
    dsimp only
    split
    · exact h.hostFault
    · exact h.hostFault.hostReturn
  · exact h.keepCopies.hostPerform

theorem modEnded {f : Ended → Ended} (h : Sound o s) : Sound o (Machine.modEnded s p f) := h.same

/-! Packets from other packages. -/

theorem answer {k : PacketKind} (h : Sound o s) : Sound o (Machine.answer s p k bs) := h.same

theorem refusePacket {r : RefusalInfo} (h : Sound o s) : Sound o (Machine.refusePacket s p r) := h.answer

theorem voidAtomic (h : Sound o s) : Sound o (Machine.voidAtomic s p) := by
  unfold Machine.voidAtomic
  split
  · exact h.modEnded
  · exact h

theorem blockFor (h : Sound o s) : Sound o (Machine.blockFor s p) := by
  unfold Machine.blockFor
  split
  · exact h.same
  · exact h

theorem markPacket {lost flags : List Nat} (h : Sound o s) : Sound o (Machine.markPacket s p lost flags) :=
  h.same.same

theorem refuseAtF {f : PathFault} (h : Sound o s) : Sound o (Machine.refuseAtF s p f) := by
  unfold Machine.refuseAtF
  refine Sound.refusePacket (Sound.voidAtomic (Sound.blockFor ?_))
  split
  · exact h
  · exact h.same

theorem arriveMain {t : State} (h : Sound o s) (e : Machine.arriveMain s p pa key n = .done t bs) : Sound o t := by
  have stamped {u : State} {ls : List Nat} {ws : Nat → List Nat} (h : Sound o u) :
      Sound o (ls.foldl (fun s l => Machine.stampStore s .fabric l (ws l)) u) :=
    h.foldl (fun _ _ h => h.stampStore) _
  unfold Machine.arriveMain at e
  dsimp only at e
  split at e
  · cases e
  · cases e
  · cases e
  split at e <;> cases e
  · exact stamped h.writeKeyed
  · exact stamped h.writeKeyed
  · exact stamped h.writeKeyed
  · exact stamped h.same.writeKeyed
  · exact h.foldl (fun _ _ h => h.renewLine) _

theorem arriveHost {t : State} (h : Sound o s) (e : Machine.arriveHost s p pa n = .done t bs) : Sound o t := by
  unfold Machine.arriveHost at e
  dsimp only at e
  split at e <;> cases e
  · exact h.writeHostMem
  · exact h.writeHostMem
  · exact h.writeHostMem
  · exact h.writeHostMem
  · exact h

theorem arriveAt {t : State} {d : Dest} (h : Sound o s) (e : Machine.arriveAt s p d = .done t bs) : Sound o t := by
  unfold Machine.arriveAt at e
  dsimp only at e
  split at e
  · exact h.arriveMain e
  · exact h.arriveHost e
  all_goals cases e

theorem finishPacket (h : Sound o s) : Sound o (Machine.finishPacket s p bs) := by
  unfold Machine.finishPacket
  split
  · exact h.modEnded.answer
  · exact h.modEnded.answer
  · exact h.modEnded.answer
  · exact h.answer
  · exact h.answer

theorem freezeRemote {kind unit addr : Nat} (h : Sound o s) : Sound o (Machine.freezeRemote s p kind unit addr) := by
  unfold Machine.freezeRemote
  split
  · exact h
  · exact h.same

theorem flagTaken (h : Sound o s) : Sound o (Machine.flagTaken s p) := by
  unfold Machine.flagTaken
  split
  · exact h.modEnded
  · exact h

theorem discardPacket (h : Sound o s) : Sound o (Machine.discardPacket s p) := by
  unfold Machine.discardPacket
  split
  · exact h.flagTaken.modEnded.answer
  · exact h.answer

theorem takePacket (h : Sound o s) : Sound o (Machine.takePacket s p).1 := by
  unfold Machine.takePacket
  split
  · exact h.markPacket
  split
  · exact h.voidAtomic.refusePacket
  split
  · exact h.discardPacket
  split
  · split
    · exact h.freezeRemote
    · exact h
    · exact h
    · exact h.refuseAtF
  dsimp only
  split
  · exact h.keepCopies.same
  split
  · exact (h.keepCopies.arriveAt ‹_›).flagTaken.finishPacket
  · exact h.keepCopies
  · exact h.keepCopies.freezeRemote

theorem passStanding {ps kept : List Packet} {moved : Bool} (h : Sound o s) :
    Sound o (Machine.passStanding s ps kept moved).1 := by
  induction ps generalizing s kept moved with
  | nil => exact h
  | cons p ps ih =>
    unfold Machine.passStanding
    split
    · exact ih h
    · dsimp only
      split
      · exact ih h.takePacket
      · exact ih h.takePacket

theorem settleStanding (h : Sound o s) : Sound o (Machine.settleStanding n s) := by
  induction n generalizing s with
  | zero => exact h
  | succ n ih =>
    unfold Machine.settleStanding
    dsimp only
    have hs : Sound o { s with standing := [] } := h.same
    split
    · exact ih hs.passStanding.same
    · exact hs.passStanding.same

theorem releaseHeld (h : Sound o s) : Sound o (Machine.releaseHeld n s) := by
  induction n generalizing s with
  | zero => exact h
  | succ n ih =>
    unfold Machine.releaseHeld
    split
    · exact h
    · exact ih h.same

theorem arriveOrdered (h : Sound o s) : Sound o (Machine.arriveOrdered s p) := by
  unfold Machine.arriveOrdered
  split
  · exact h.settleStanding
  split
  · exact h.refusePacket
  · exact h.same.releaseHeld.settleStanding

theorem arriveAck {resume : Bool} (h : Sound o s) : Sound o (Machine.arriveAck s p resume) := by
  unfold Machine.arriveAck
  split
  · exact h
  · exact h.same.ackMaster

theorem execPacketArrival (h : Sound o s) : SoundNext o (Machine.execPacketArrival p s) := by
  unfold Machine.execPacketArrival
  refine .next ?_
  split
  · exact h
  split
  · exact h
  · exact h
  · exact h
  · exact h
  · split
    · exact h.arriveAck
    · exact h
  · split
    · exact h
    · exact h.same
  all_goals exact h.arriveOrdered

/-! Refusals of what was sent. -/

theorem reportRefusal {f : PathFault} {m : Master} (h : Sound o s) : Sound o (Machine.reportRefusal s a f m) := by
  unfold Machine.reportRefusal
  split
  · exact h.postFault
  · exact h.postNotice.same

theorem stopNamed {f : PathFault} (h : Sound o s) : Sound o (Machine.stopNamed s a f) := by
  unfold Machine.stopNamed
  split
  · exact h.same.reportRefusal
  dsimp only
  split
  · exact h.modNamedSlice.reportRefusal.same.stopGang
  · exact h.modNamedSlice.reportRefusal.same.modNamed

theorem reportAlone {f : PathFault} (h : Sound o s) : Sound o (Machine.reportAlone s a f) := by
  unfold Machine.reportAlone
  split
  · exact h.reportRefusal
  · exact h.reportRefusal
  all_goals exact h

theorem refuseLoad {f : PathFault} (h : Sound o s) : Sound o (Machine.refuseLoad s a f) := by
  unfold Machine.refuseLoad
  dsimp only
  split
  · exact h.endFabric.reportAlone
  split
  · exact h.endFabric.stopNamed
  · exact h.endFabric.stopNamed
  all_goals exact h.endFabric.trapNamed

theorem dropLoad (h : Sound o s) : Sound o (Machine.dropLoad s a) := by
  unfold Machine.dropLoad
  dsimp only
  split
  · exact h.endFabric.modNamedSlice
  · exact h.endFabric

theorem holdStore (h : Sound o s) : Sound o (Machine.holdStore s a) := by
  unfold Machine.holdStore
  split
  · exact h.same
  · exact h.modNamedSlice

theorem resetStore {f : PathFault} (h : Sound o s) : Sound o (Machine.resetStore s a f) := by
  unfold Machine.resetStore
  refine Sound.same (s := Machine.modNamedSlice _ _ _) ?_
  exact h.endFabric.quitResend.same.modNamedSlice

theorem refuseElem {f : PathFault} (h : Sound o s) : Sound o (Machine.refuseElem s a f) := h.endFabric.modNamed

theorem refuseChannel {f : PathFault} (h : Sound o s) : Sound o (Machine.refuseChannel s a chan ch tm u f) := by
  unfold Machine.refuseChannel
  dsimp only
  split
  · exact h.channelLeaves.endFabric.reportAlone
  all_goals
    split
    · exact h.channelLeaves.endFabric.modChannel.reportRefusal.stopGang
    · exact h.channelLeaves.endFabric.modChannel.reportRefusal
    all_goals exact h.channelLeaves.endFabric.modChannel

theorem refuseUnit {f : PathFault} (h : Sound o s) : Sound o (Machine.refuseUnit s a chan u f) := by
  unfold Machine.refuseUnit
  split
  · exact h.endFabric.reportAlone
  split
  · exact h.endFabric.reportAlone
  split
  · exact h.endFabric.reportAlone
  · exact h.refuseChannel

theorem refuseEntry {r : EntryRead} {f : PathFault} (h : Sound o s) : Sound o (Machine.refuseEntry s a r f) := by
  unfold Machine.refuseEntry
  dsimp only
  split
  · exact h.refuseLoad
  · exact h.refuseElem
  split
  · exact h.endFabric.reportAlone
  split
  · exact h.endFabric.reportAlone
  · exact h.refuseChannel

theorem refuseAccess {f : PathFault} (h : Sound o s) : Sound o (Machine.refuseAccess s a f) := by
  unfold Machine.refuseAccess
  split
  · exact h.refuseElem
  · exact h.refuseLoad
  · exact h.refuseLoad
  · exact h.refuseLoad
  · exact h.refuseLoad
  · exact h.refuseLoad
  · exact h.refuseLoad
  · exact h.refuseEntry
  · split
    · exact h.holdStore.stopNamed
    · exact h.holdStore.stopNamed
    all_goals exact h.resetStore.retryHeld
  · split
    · exact h.holdStore.stopNamed
    · exact h.holdStore.stopNamed
    all_goals exact h.resetStore.retryHeld
  · split
    · exact h.holdStore.stopNamed
    · exact h.holdStore.stopNamed
    all_goals exact h.resetStore.retryHeld
  · exact h.refuseUnit
  · exact h.refuseUnit

theorem dropElem (h : Sound o s) : Sound o (Machine.dropElem s a) := h.endFabric.modNamed

theorem blockAccess (h : Sound o s) : Sound o (Machine.blockAccess s a) := by
  unfold Machine.blockAccess
  split
  · exact h.dropElem
  · exact h.dropLoad
  · exact h.dropLoad
  · exact h.dropLoad
  · exact h.dropLoad
  · exact h.dropLoad
  · exact h.dropLoad
  · split
    · exact h.dropLoad
    · exact h.dropElem
    · exact h.endFabric
  · exact h.holdStore.retryHeld
  · exact h.holdStore.retryHeld
  · exact h.holdStore.retryHeld
  · exact h.endFabric
  · exact h.endFabric

theorem noHandlerNotice {reason : Byte} {handler : Nat} (h : Sound o s) :
    Sound o (Machine.noHandlerNotice s a reason handler) := by
  unfold Machine.noHandlerNotice
  dsimp only
  split <;> exact h.same

theorem noHandler {reason : Byte} {handler : Nat} (h : Sound o s) : Sound o (Machine.noHandler s a reason handler) := by
  unfold Machine.noHandler
  split
  · exact h.endFabric.noHandlerNotice
  · exact h

theorem execRefusal {r : RefusalInfo} (h : Sound o s) : SoundNext o (Machine.execRefusal n r s) := by
  unfold Machine.execRefusal
  refine .next ?_
  split
  · exact h
  split
  · exact h
  split
  · split
    · exact h.refuseAccess
    · exact h
  · exact h.blockAccess
  · split
    · exact h.noHandler
    · exact h
  · exact h.modAccess

theorem dropMarker (h : Sound o s) : Sound o (Machine.dropMarker s n) := by
  unfold Machine.dropMarker
  split
  · exact h.same.serveAll
  · exact h

theorem execGrant (h : Sound o s) : SoundNext o (Machine.execGrant c entry n s) :=
  .next (h.dropMarker.modAccess (by intro; split <;> rfl)).grantUnit

theorem execAcknowledgement {p : PartName} (h : Sound o s) : SoundNext o (Machine.execAcknowledgement p s) := by
  unfold Machine.execAcknowledgement
  refine .next ?_
  split
  · exact h.dropMarker
  split
  · exact h
  split
  · exact h.endFabric.retryHeld
  · exact h.endFabric.retryHeld
  · exact h.endFabric.retryHeld
  · split
    · exact h.endFabric
    · exact h.modAccess.serveAll
  · split
    · exact h.endFabric
    · exact h.modAccess.serveAll
  all_goals exact h

/-! Links, resends and messages to handlers. -/

theorem returnUnits (h : Sound o s) : Sound o (Machine.returnUnits s a) := by
  unfold Machine.returnUnits
  split
  · exact h.foldl (fun _ _ h => h.grantUnit) _
  · exact h

theorem peerReset (h : Sound o s) : Sound o (Machine.peerReset s a) := h.returnUnits.refuseAccess

theorem modLink {f : LinkStatus → LinkStatus} (h : Sound o s) : Sound o (Machine.modLink s n f) := h.same

theorem sprayPacket (h : Sound o s) : Sound o (Machine.sprayPacket s p n) := by
  unfold Machine.sprayPacket
  dsimp only
  split
  · exact h.same
  · exact h.modDie.modLink

theorem sprayFrom (h : Sound o s) : Sound o (Machine.sprayFrom n s) := h.same.foldl (fun _ _ h => h.sprayPacket) _

theorem resendPart {x : PartSend} (h : Sound o s) : Sound o (Machine.resendPart s a x) := h.same.modAccess

theorem execScaleOutResend {p : PartName} (h : Sound o s) : SoundNext o (Machine.execScaleOutResend p s) := by
  unfold Machine.execScaleOutResend
  refine .next ?_
  split
  · exact h
  split
  · split
    · exact h
    split
    · exact h.resendPart
    split
    · exact h.refuseAccess
    · exact h.peerReset
  · exact h

theorem execHoldExpiry (h : Sound o s) : SoundNext o (Machine.execHoldExpiry n s) := by
  unfold Machine.execHoldExpiry
  refine .next ?_
  split
  · exact h
  split
  · exact h
  split
  · exact h.refuseAccess
  · exact h

theorem popMessage (h : Sound o s) : Sound o (Machine.popMessage s) := h.same

theorem createHandler {l : Launch} {frame : Nat} (h : Sound o s) : Sound o (Machine.createHandler s p l t frame) :=
  h.loadDies.same.installTeam.mergeCt.modTeam.popMessage.answer

theorem waitAsLoader {l : Launch} (h : Sound o s) : Sound o (Machine.waitAsLoader s l) := h.same

theorem execHandlerCreate (h : Sound o s) : SoundNext o (Machine.execHandlerCreate s) := by
  unfold Machine.execHandlerCreate
  refine .next ?_
  split
  · exact h
  split
  · split
    · exact h
    · exact h.popMessage.refusePacket
    split
    · exact h
    split
    · exact h.waitAsLoader
    split
    · exact h.createHandler.countPasses
    · exact h
  · exact h.popMessage

/-! The debug slots. -/

theorem modDebug {f : DebugSlot → DebugSlot} (h : Sound o s) : Sound o (Machine.modDebug s n f) := h.same

theorem loseSample (h : Sound o s) : Sound o (Machine.loseSample s n) := h.modDebug

theorem emit {ws : List DWord} {kind : Byte} (h : Sound o s) : Sound o (Machine.emit s n ws kind) := by
  unfold Machine.emit
  dsimp only
  split
  · exact h.loseSample
  split
  · exact h.loseSample
  split
  · exact h.loseSample
  split
  · exact h.loseSample
  · exact h.writeDest.modDebug

theorem observeSlice {actor : Option Actor} {was : State} {before after : Slice} (h : Sound o s) :
    Sound o (Machine.observeSlice actor was n id before after s) := by
  unfold Machine.observeSlice
  dsimp only
  split
  · exact (h.foldl (fun _ _ h => (Sound.ite h.emit h)) _).emit
  · exact h.foldl (fun _ _ h => (Sound.ite h.emit h)) _

theorem observeSlot {actor : Option Actor} {before after : State} (h : Sound o s) :
    Sound o (Machine.observeSlot actor before after n launch s) := h.foldl (fun _ _ h => h.observeSlice) _

theorem observeSlots {actor : Option Actor} {before after : State} (h : Sound o s) :
    Sound o (Machine.observeSlots actor before after s) := by
  unfold Machine.observeSlots
  refine Sound.foldl h (fun _ _ h => ?_) _
  split
  · exact h
  · exact h.observeSlot

theorem observeEnds (h : Sound o s) : Sound o (Machine.observeEnds s) := h.observeSlots

/-! The mailbox, the keys and the scrub. -/

theorem finishMail {st : MailStatus} {result : Nat} (h : Sound o s) : Sound o (Machine.finishMail s fn st result) :=
  h.same

theorem ownerMail {code : Nat} {f : State → State} (h : Sound o s) (hf : Sound o s → Sound o (f s)) :
    Sound o (Machine.ownerMail s fn code f) := Sound.ite h (Sound.ite h.finishMail (hf h))

theorem putMail (h : Sound o s) : Sound o (Machine.putMail s fn off bs) := h.same

theorem drawOwnerKey (h : Sound o s) : Sound o (Machine.drawOwnerKey s) := h.same

theorem execKeyload (h : Sound o s) : SoundNext o (Machine.execKeyload fn s) := by
  unfold Machine.execKeyload
  refine .next ?_
  refine Sound.ownerMail h (fun h => ?_)
  split
  · exact h.finishMail
  split
  · exact h.finishMail
  · exact h.same.finishMail

theorem execKeyfree (h : Sound o s) : SoundNext o (Machine.execKeyfree fn s) :=
  .next (h.ownerMail (fun h => (Sound.ite h.finishMail (Sound.ite h.finishMail h.same.finishMail))))

theorem staleCached (h : Sound o s) : Sound o (Machine.staleCached s) where
  memories ho := by
    have hs := h.memories ho
    simp only [State.memoriesOk, Bool.and_eq_true] at hs ⊢
    exact ⟨⟨wf_staleLines hs.1.1, hs.1.2⟩, hs.2⟩
  accesses := h.accesses

theorem wipeCores (h : Sound o s) : Sound o (Machine.wipeCores s) :=
  (h.staleCached.noAccess.mapDies (f := fun d => { d with copies := [] }) fun _ => rfl).same

theorem dropWork (h : Sound o s) : Sound o (Machine.dropWork s) := h.same

theorem wipeStorage (h : Sound o s) : Sound o (Machine.wipeStorage s) :=
  (h.wipeCores.dropWork.clearWeights fun _ => rfl).same

theorem removeWaiting (h : Sound o s) : Sound o (Machine.removeWaiting s q) := by
  unfold Machine.removeWaiting
  split
  · exact h.foldl (fun _ _ h => h.removeRecord) _
  · exact h

theorem cancelAll (h : Sound o s) : Sound o (Machine.cancelAll s) :=
  (h.foldl (fun _ _ h => h.removeWaiting) _).foldl (fun _ _ h => h.completeLaunch) _

theorem scrub (h : Sound o s) : Sound o (Machine.scrub s fn) := by
  unfold Machine.scrub
  extract_lets flags x s1 s2 s3 s4
  have h2 : Sound o s2 := h.observeEnds.cancelAll.foldl (fun _ _ h => h.refusePacket) _
  have h3 : Sound o s3 := h2.wipeStorage.drawOwnerKey
  have h4 : Sound o s4 := Sound.ite h3.clearMem.same h3
  exact h4.same

theorem execScrubComplete (h : Sound o s) : SoundNext o (Machine.execScrubComplete s) := by
  refine .next ?_
  split
  · exact h
  · exact h.same.finishMail

theorem execReadback (h : Sound o s) : SoundNext o (Machine.execReadback fn s) := by
  unfold Machine.execReadback
  refine .next ?_
  split
  · exact h
  dsimp only
  split
  · exact h.finishMail
  split
  · exact h.finishMail
  split
  · exact h.same.putMail.finishMail
  · exact h.finishMail

theorem execSvnadvance (h : Sound o s) : SoundNext o (Machine.execSvnadvance fn s) :=
  .next (h.ownerMail (fun h => (Sound.ite h.finishMail h.same.finishMail)))

/-! Commands of the fabric manager, and recovery. -/

theorem fmCommand {op : Nat} {f : State → FmResult} (h : Sound o s) (hf : ∀ t, f s = .did t → Sound o t) :
    Sound o (Machine.fmCommand s fn op f) := by
  unfold Machine.fmCommand
  extract_lets bad
  repeat' split
  · exact h
  · exact h.finishMail
  · exact h.finishMail
  · exact h
  · exact h.finishMail
  · exact h.finishMail
  · exact (hf _ ‹_›).same.finishMail
  · exact h.finishMail
  · exact h.finishMail

theorem recount {p : Nat → Bool} (h : Sound o s) : Sound o (Machine.recount s p) := h.same

theorem restartSequences {p : Nat → Bool} (h : Sound o s) : Sound o (Machine.restartSequences s p) := h.same

theorem setPhase {t : State} (h : Sound o s) (e : Machine.setPhase s fn = .did t) : Sound o t := by
  unfold Machine.setPhase at e
  dsimp only at e
  split at e <;> cases e
  exact Sound.ite h.same h.same.addCounter

theorem setIncarnation {t : State} (h : Sound o s) (e : Machine.setIncarnation s fn = .did t) : Sound o t := by
  unfold Machine.setIncarnation at e
  dsimp only at e
  split at e <;> cases e
  exact h.same

theorem resumeRemote {p : Nat} (h : Sound o s) : Sound o (Machine.resumeRemote s p) :=
  h.same.foldl (fun _ _ h => h.ackMaster) _

theorem setPeer {p : Nat} {inc : Byte} (h : Sound o s) : Sound o (Machine.setPeer s p inc) := by
  unfold Machine.setPeer
  split
  · exact h
  extract_lets out s1 s2
  have h1 : Sound o s1 := h.foldl (fun _ _ h => h.refusePacket) _
  have h2 : Sound o s2 := h1.restartSequences.recount
  exact (h2.same.foldl (fun _ _ h => h.peerReset) _).resumeRemote

theorem setPeers {t : State} (h : Sound o s) (e : Machine.setPeers s fn = .did t) : Sound o t := by
  unfold Machine.setPeers at e
  dsimp only at e
  split at e <;> cases e
  exact h.foldl (fun _ _ h => h.setPeer) _

theorem setIcred {t : State} (h : Sound o s) (e : Machine.setIcred s fn = .did t) : Sound o t := by
  unfold Machine.setIcred at e
  dsimp only at e
  split at e <;> cases e
  exact h.same

theorem loadLinkKey {t : State} (h : Sound o s) (e : Machine.loadLinkKey s fn = .did t) : Sound o t := by
  unfold Machine.loadLinkKey at e
  dsimp only at e
  split at e
  · cases e
  split at e <;> cases e
  exact h.modLink

theorem linkStatus {t : State} (h : Sound o s) (e : Machine.linkStatus s fn = .did t) : Sound o t := by
  cases e
  exact h.putMail

theorem resetPackage (h : Sound o s) : Sound o (Machine.resetPackage s) where
  memories ho := by
    have hs := h.memories ho
    simp only [State.memoriesOk, Bool.and_eq_true] at hs ⊢
    exact ⟨hs.1, rfl⟩
  accesses _ := ⟨List.Pairwise.nil, fun _ ha => absurd ha List.not_mem_nil⟩

theorem takeRecover (h : Sound o s) : Sound o (Machine.takeRecover s) := by
  unfold Machine.takeRecover
  split
  · exact h.same
  · exact h

theorem refuseImage {reason : Nat} (h : Sound o s) : Sound o (Machine.refuseImage s reason) := h.same

theorem runImage {image : List Byte} (h : Sound o s) : Sound o (Machine.runImage s image) := h.same

theorem execRecoveryImageVerify {dmaError : Bool} (h : Sound o s) :
    SoundNext o (Machine.execRecoveryImageVerify dmaError s) := by
  refine .next ?_
  split
  · exact h
  split
  · exact Sound.ite h.refuseImage h.same
  · exact Sound.ite h.refuseImage h.same
  · exact Sound.same (s := Machine.runImage s s.saltin.fetched) h.runImage
  · exact h

theorem execSample (h : Sound o s) : SoundNext o (Machine.execSample slot c s) := by
  unfold Machine.execSample
  refine .next ?_
  split
  · exact h
  split
  · exact h
  dsimp only
  split
  · exact h
  · exact h.emit.modDebug

/-! Commands of a debugger. -/

theorem setDarg {v : Option DWord} (h : Sound o s) : Sound o (Machine.setDarg s n v) := by
  unfold Machine.setDarg
  split
  · exact h
  · exact h.modDebug

theorem setDcmd {busy err : Bool} (h : Sound o s) : Sound o (Machine.setDcmd s n dcmd busy err) := h.modDebug

theorem debugCommand {v : Option DWord} {code : Nat} {who : Option SliceId} {ok : DWord → Team → Slice → Bool}
    {act : State → SliceId → Team → DWord → State} (h : Sound o s) (hact : ∀ s id tm x, Sound o s → Sound o (act s id tm x)) :
    Sound o (Machine.debugCommand s fn n dcmd v code who ok act) := by
  unfold Machine.debugCommand
  extract_lets b c busy arg u refuse
  have hu : Sound o u := h.setDarg
  have hrefuse : Sound o refuse := Sound.ite hu.modDebug hu.setDcmd
  repeat' split
  · exact h
  · exact hrefuse
  · exact hrefuse
  · exact h
  · exact hact _ _ _ _ hu.setDcmd
  · exact hrefuse
  · exact hrefuse

theorem sliceCommand {v : Option DWord} {code : Nat} {ok : DWord → Team → Slice → Bool}
    {act : State → SliceId → Team → DWord → State} (h : Sound o s) (hact : ∀ s id tm x, Sound o s → Sound o (act s id tm x)) :
    Sound o (Machine.sliceCommand s fn n dcmd v code ok act) := h.debugCommand hact

theorem stepSlice (h : Sound o s) : Sound o (Machine.stepSlice s w) := by
  unfold Machine.stepSlice
  split
  · exact h
  split
  · split
    · exact h
    · split <;> exact h.restart
  · exact h

theorem stepTeam (h : Sound o s) : Sound o (Machine.stepTeam s t tm) := by
  unfold Machine.stepTeam
  refine Sound.modTeam ?_
  split
  · exact h
  · exact h.foldl (fun _ _ h => h.stepSlice) _

theorem execStepteam {darg : Option DWord} (h : Sound o s) : SoundNext o (Machine.execStepteam fn slot dcmd darg s) :=
  .next (h.debugCommand (fun _ _ _ _ h => (Sound.ite h.stepTeam h.stepTeam.modDebug)))

theorem forceWrite {r : Nat} {v : Word} (h : Sound o s) : Sound o (Machine.forceWrite s slot id tm r v) :=
  (h.mapInflight (f := fun a => if a.who == tm.name id.strand then { a with sink := a.sink.without r } else a) fun a
      => by split <;> rfl).modSlice.emit

theorem execRegwrite {darg : Option DWord} (h : Sound o s) : SoundNext o (Machine.execRegwrite fn slot dcmd darg s) :=
  .next (h.sliceCommand (fun _ _ _ _ h => (Sound.ite h.forceWrite (Sound.ite h.modDebug h.modSlice))))

theorem settleSlot (h : Sound o s) : Sound o (Machine.settleSlot s n) := by
  unfold Machine.settleSlot
  dsimp only
  split
  · split
    · exact h
    · exact h.modNamedSlice.modDebug
  · split
    · exact h.modDebug
    · exact h
  · exact h

theorem settleDebug (h : Sound o s) : Sound o (Machine.settleDebug s) := h.foldl (fun _ _ h => h.settleSlot) _

/-! Service: drains, tests and repairs. -/

theorem stopChannels {slice : Nat} (h : Sound o s) : Sound o (Machine.stopChannels s c slice) := by
  unfold Machine.stopChannels
  refine Sound.foldl h (fun _ _ h => ?_) _
  split
  · exact h
  split
  · exact h.freezeChannel
  · exact h

theorem stopDie {slice : Nat} (h : Sound o s) : Sound o (Machine.stopDie s slice) := by
  unfold Machine.stopDie
  extract_lets d cs before s1 s2 s3
  have h2 : Sound o s2 := h.modDie.foldl (fun _ _ h => h.freezeMaster) _
  have h3 : Sound o s3 := h2.foldl (fun _ _ h => h.stopChannels) _
  generalize s3 = t at h3
  exact Sound.ite h3.same h3

theorem execUncorrectableError {e : StorageError} (h : Sound o s) :
    SoundNext o (Machine.execUncorrectableError e s) := by
  refine .next ?_
  split
  · exact h
  · split
    · exact h
    · exact Sound.ite h h.same
  · exact Sound.ite h h.stopDie
  · exact Sound.ite h (h.modDie (by intro; split <;> rfl))

theorem putUnit {x : UnitState} (h : Sound o s) : Sound o (Machine.putUnit s u x) := h.same

theorem reportService {busy : Option Nat} {result : Nat} (h : Sound o s) :
    Sound o (Machine.reportService s busy result) := by
  unfold Machine.reportService
  exact h.same

theorem clearCluster (h : Sound o s) : Sound o (Machine.clearCluster s n) := h.foldl (fun _ _ h => h.modGang) _

theorem drainPlane {plane : Nat} {out : Bool} (h : Sound o s) : Sound o (Machine.drainPlane s plane out) := by
  unfold Machine.drainPlane
  exact h.modLink.modLink

theorem drainUnit (h : Sound o s) : Sound o (Machine.drainUnit s u) :=
  Sound.ite h.putUnit.clearCluster (Sound.ite h.same h.putUnit.drainPlane)

theorem wipeCluster (h : Sound o s) : Sound o (Machine.wipeCluster s n) := h.foldl (fun _ _ h => h.putCore) _

theorem restoreUnit {trains : Bool} (h : Sound o s) : Sound o (Machine.restoreUnit s u trains) := by
  unfold Machine.restoreUnit
  split
  · exact h.wipeCluster.putUnit
  split
  · exact h.same.putUnit
  · exact h.drainPlane.putUnit

theorem serviceCommand {op : Nat} {v : DWord} {f : State → Nat → State} (h : Sound o s)
    (hf : ∀ s u, Sound o s → Sound o (f s u)) :
    Sound o (Machine.serviceCommand s fn v op f) := by
  unfold Machine.serviceCommand
  extract_lets code 
  have h1 : Sound o { s with regs := { s.regs with svcCmd := keepBits v 63 48 } } := h.same
  repeat' split
  · exact h
  · exact h.reportService
  · exact h1.reportService
  · exact h
  · exact hf _ _ h1
  · exact h1.reportService
  · exact hf _ _ h1

theorem execDrain {v : DWord} (h : Sound o s) : SoundNext o (Machine.execDrain fn v s) :=
  .next (h.serviceCommand (fun _ _ h => (Sound.ite h.reportService h.drainUnit.reportService)))

theorem execDrainComplete (h : Sound o s) : SoundNext o (Machine.execDrainComplete s) :=
  .next (h.foldl (fun _ _ h => (Sound.ite (Sound.ite h.putUnit.reportService h.putUnit) h.clearCluster)) _)

theorem execLinkDrainTimeout {trains : Bool} (h : Sound o s) : SoundNext o (Machine.execLinkDrainTimeout trains s) := by
  unfold Machine.execLinkDrainTimeout
  refine .next ?_
  split
  · exact h
  split
  · exact h
  dsimp only
  split <;> exact h.restoreUnit.reportService

theorem execTest {v : DWord} (h : Sound o s) : SoundNext o (Machine.execTest fn v s) :=
  .next (h.serviceCommand (fun _ _ h => (Sound.ite h.reportService h.putUnit.reportService)))

theorem execTestComplete {passed : Bool} (h : Sound o s) : SoundNext o (Machine.execTestComplete passed s) := by
  unfold Machine.execTestComplete
  refine .next ?_
  split
  · exact h
  split
  · exact h
  · exact h.putUnit.reportService

theorem execRepair {v : DWord} {spares : Bool} (h : Sound o s) : SoundNext o (Machine.execRepair fn v spares s) :=
  .next (h.serviceCommand (fun _ _ h => (Sound.ite h.reportService h.reportService)))

theorem execReturnService {v : DWord} {trains : Bool} (h : Sound o s) :
    SoundNext o (Machine.execReturnService fn v trains s) :=
  .next (h.serviceCommand (fun _ _ h => (Sound.ite h.reportService h.restoreUnit.reportService)))

theorem execFwupdate {v : DWord} (h : Sound o s) : SoundNext o (Machine.execFwupdate fn v s) :=
  .next (h.serviceCommand (fun _ _ h => (Sound.ite h.reportService h.same.reportService)))

theorem endRestart (h : Sound o s) : Sound o (Machine.endRestart s) := by
  unfold Machine.endRestart
  split
  · exact h.same.reportService
  · exact h

theorem execMeshCrcFailure {d hop : Nat} {unreached : List Nat} (h : Sound o s) :
    SoundNext o (Machine.execMeshCrcFailure d hop unreached s) :=
  .next (Sound.ite h (h.modDie.foldl (fun _ _ h => (Sound.ite h.drainUnit h)) _))

/-! The stages of the boot. -/

theorem bootRom (h : Sound o s) : Sound o (Machine.bootRom s) := by
  unfold Machine.bootRom
  split
  · exact h
  dsimp only
  split
  · exact h.runImage
  · exact h.same

theorem isolateUnits {base bits : Nat} (h : Sound o s) : Sound o (Machine.isolateUnits s base n bits) :=
  h.foldl (fun _ _ h => (Sound.ite h.putUnit h)) _

theorem bootStage {stage : Nat} {f : State → State} (h : Sound o s) (hf : Sound o s → Sound o (f s)) :
    Sound o (Machine.bootStage s stage f) := Sound.ite h (Sound.ite h.same (hf h))

theorem bootTrain {clusters : BitVec 48} {links planes : BitVec 16} (h : Sound o s) :
    Sound o (Machine.bootTrain clusters links planes s) := by
  refine h.bootStage fun h => ?_
  extract_lets s1 s2
  have h1 : Sound o s1 := h.isolateUnits.isolateUnits.isolateUnits
  have h2 : Sound o s2 := h1.foldl (fun _ _ h => h.modLink.modLink) _
  generalize s2 = t at h2
  exact h2.same

theorem bootClear (h : Sound o s) : Sound o (Machine.bootClear s) :=
  h.bootStage (fun h => h.wipeStorage.drawOwnerKey.same)

theorem bootLink (h : Sound o s) : Sound o (Machine.bootLink s) := h.bootStage (fun h => h.same)

/-! The instructions of the queues: loads of elements and scattered stores. -/

theorem captureElem {r : Except State (State × List Elem)} {e : Elem} (h : Sound o (captured r)) :
    Sound o (captured (Machine.captureElem f r e)) := by
  obtain s | ⟨s, es⟩ := r
  · exact h
  replace h : Sound o s := h
  unfold Machine.captureElem
  change Sound o (captured (if _ then _ else _))
  split
  · exact h
  split
  · exact h
  dsimp only
  split
  · split
    · exact h.faultSlice
    · exact h
  split
  · split
    · exact h.waitPending
    · exact h
  · split
    · split
      · exact h.faultSlice
      · exact h
    · exact h.loadStack ‹_›
  · exact h

theorem captureElems {es : List Elem} {r : Except State (State × List Elem)} (h : Sound o (captured r)) :
    Sound o (captured (es.foldl (Machine.captureElem f) r)) := by
  induction es generalizing r with
  | nil => exact h
  | cons e es ih => exact ih h.captureElem

theorem allocate {elems : List Elem} {pop : State → State} (h : Sound o s) (hpop : ∀ s, Sound o s → Sound o (pop s)) :
    Sound o (Machine.allocate s f sl v elems pop) := by
  have hc : Sound o (captured (elems.foldl (Machine.captureElem f) (.ok (s, [])))) := Sound.captureElems h
  unfold Machine.allocate
  generalize elems.foldl (Machine.captureElem f) (.ok (s, [])) = r at hc
  cases r with
  | error t => exact hc
  | ok r => exact (hpop _ hc).modTeam.finishNone

theorem waitRoom (h : Sound o s) : Sound o (Machine.waitRoom s tm q) := h.parkSlice

theorem queueLoad {a : Src} {lane : Bool} (h : Sound o s) : SoundNext o (Machine.queueLoad d a b l lane s) := by
  refine h.runOwn fun tm sl v => ?_
  dsimp only
  split
  · exact h.trapSlice
  · exact Sound.ite h.waitRoom (Sound.ite (h.allocate fun _ h => h) (h.allocate fun _ h => h))

theorem popLane {b : Nat} (h : Sound o s) : Sound o (Machine.popLane s b) := by
  unfold Machine.popLane
  split
  · exact h
  · exact h.modTeam.mergeStamp

theorem execQldg {a : Src} (h : Sound o s) : SoundNext o (Machine.execQldg d a b l s) :=
  h.runOwn fun _ _ _ => (Sound.ite h.stopAt (Sound.ite h.waitRoom (h.allocate (fun _ h => h.popLane))))

theorem scatterWalk {t : State} {off : DWord} {x : Word} {y : Scattered} (h : Sound o s)
    (e : Machine.scatterWalk s off x lw = .ok (t, y)) :
    Sound o t := by
  unfold Machine.scatterWalk at e
  split at e
  · cases e
  obtain ⟨p, hp, e⟩ := bind_ok e
  split at e
  · split at e <;> cases e
    exact h.openStack ‹_›
  · cases e; exact h

theorem walkScatter {t : State} {xs : List (DWord × Word)} (h : Sound o s) (e : Machine.walkScatter lw xs s = .ok (t, ys)) :
    Sound o t := by
  induction xs generalizing s ys with
  | nil => cases e; exact h
  | cons x xs ih =>
    unfold Machine.walkScatter at e
    split at e
    · cases e
    obtain ⟨r, hr, e⟩ := map_ok e
    cases e
    exact ih (h.scatterWalk ‹_›) hr

theorem scatterOwn {t : State} (h : Sound o s) (e : Machine.scatterOwn ys s = .ok t) : Sound o t := by
  induction ys generalizing s with
  | nil => cases e; exact h
  | cons y ys ih =>
    unfold Machine.scatterOwn at e
    dsimp only at e
    split at e
    · exact ih h.modSlice e
    · split at e
      · cases e
      · exact ih (h.storeStack ‹_›) e
    · exact ih h e

theorem scatterOut (h : Sound o s) : Sound o (Machine.scatterOut next lw ys s).s := by
  induction ys generalizing s with
  | nil => exact h
  | cons y ys ih =>
    unfold Machine.scatterOut
    split
    · exact h
    split
    · exact h
    split
    · exact h.uncharged ‹_›
    · exact ih (h.charged ‹_›).accept

theorem scatterFresh {t : State} {zs : List Scattered} (h : Sound o s) (e : Machine.scatterFresh lw ys s = .ok (t, zs)) :
    Sound o t := by
  induction ys generalizing s zs with
  | nil => cases e; exact h
  | cons y ys ih =>
    unfold Machine.scatterFresh at e
    split at e
    · obtain ⟨r, hr, e⟩ := map_ok e
      cases e
      exact ih h hr
    · split at e
      · cases e
      obtain ⟨r, hr, e⟩ := map_ok e
      cases e
      exact ih (h.scatterWalk ‹_›) hr

theorem scatterEnd {r : ScatterTry} (h : Sound o r.s) : Sound o (Machine.scatterEnd s next q v r) :=
  Sound.ite h.popLane.finishNone (Sound.ite h.modSlice.parkSlice h.modSlice.waitSlice)

theorem scatterFirst (h : Sound o s) : Sound o (Machine.scatterFirst s q lw next v ys) := by
  unfold Machine.scatterFirst
  dsimp only
  split
  · exact h.faultSlice
  · exact Sound.ite (Sound.ite h.scatterOut.parkSlice h.scatterOut.waitSlice) (h.scatterOwn ‹_›).scatterOut.scatterEnd

theorem scatterRest (h : Sound o s) : Sound o (Machine.scatterRest s q lw next v ys) := by
  unfold Machine.scatterRest
  split
  · exact h.stopAccess
  · exact (h.scatterFresh ‹_›).scatterOut.scatterEnd

theorem execQsts {a : Src} (h : Sound o s) : SoundNext o (Machine.execQsts d a b l s) := by
  unfold Machine.execQsts
  refine Sound.runOwn h fun _ _ _ => ?_
  dsimp only
  split
  · exact h.stopAt
  split
  · exact h.scatterRest
  split
  · exact h.stopAccess
  split
  · exact (h.walkScatter ‹_›).waitPending
  · exact (h.walkScatter ‹_›).scatterFirst

theorem observe {actor : Actor} {before after : State} (h : Sound o after) :
    Sound o (Machine.observe actor before after) := h.observeSlots.settleDebug

/-! What opens and closes a turn. -/

theorem sendFetch (h : Sound o s) : Sound o (Machine.sendFetch s id) := by
  unfold Machine.sendFetch
  split
  · exact h
  split
  · exact h
  dsimp only
  split
  · exact h.modSlice
  split
  · exact (h.modSlice.uncharged ‹_›).parkSlice
  · exact (h.modSlice.charged ‹_›).accept.awaitData

theorem settleIssue (h : Sound o s) : Sound o (Machine.settleIssue s) := by
  unfold Machine.settleIssue
  refine Sound.touchIssue ?_
  split
  · exact h.sendFetch
  dsimp only
  split
  · split
    · exact h.sendFetch.dropReads
    · exact h.sendFetch
  split
  · exact h.sendFetch.quitEntries.dropReads
  · exact h.sendFetch.quitEntries

theorem passTime {cycles : Nat} (h : Sound o s) : Sound o (Machine.passTime s cycles) :=
  (h.foldl (fun _ _ h => h.passCycles.raiseTimes) _).passCycles

theorem beginTurn {cycles : Nat} (h : Sound o s) : Sound o (Machine.beginTurn s cycles) :=
  h.takeRecover.endRestart.passTime

theorem settleTurn {before : State} (h : Sound o s) : Sound o (Machine.settleTurn before s) := by
  unfold Machine.settleTurn
  dsimp only
  split
  · exact h.settleAcks.observeSlots.sprayFrom
  · exact h.settleAcks.observeSlots.sprayFrom.raiseTimes

/-! Every instruction and every event. -/

theorem exec (h : Sound o s) (i : Instr) : SoundNext o (Machine.exec i s) := by
  unfold Machine.exec
  cases i with
  | iadd | isub | imul | imulh | idiv | irem | imin | imax | and | or | xor | andn | shl | shr | sar | rol | ror | bfx
    | icmp | teamIadd | teamIsub | teamImul | teamImulh | teamIdiv | teamIrem | teamImin | teamImax | teamAnd | teamOr
    | teamXor | teamAndn | teamShl | teamShr | teamSar | teamRol | teamRor | teamBfx | teamIcmp => exact h.alu3
  | imad | bfi | sel | bpack | teamImad | teamBfi | teamSel => exact h.aluD
  | iabs | not | popc | clz | ctz | brev | mov | ext | fclass | cvtfb | cvt4f | cvt5f | bunpk | teamIabs | teamNot
    | teamPopc | teamClz | teamCtz | teamBrev | teamMov | teamExt => exact h.alu2
  | dadd | dsub | dmul | dneg | dshl | dshr | dcmp | dmov | cvtif | cvtfi | cvtdf | cvtfd | dext | ldi | teamDadd
    | teamDsub | teamDmul | teamDneg | teamDshl | teamDshr | teamDcmp | teamDmov | teamCvtif | teamCvtfi | teamCvtdf
    | teamCvtfd | teamDext | teamLdi | mkl => exact h.alu
  | sread | teamSread => exact h.sread
  | swrite | teamSwrite => exact h.swrite
  | alwr | teamAlwr => exact h.alwr
  | bra | teamBra => exact h.bra
  | bnz | bz | teamBnz | teamBz => exact h.branch
  | call | teamCall => exact h.call
  | callr | teamCallr => exact h.callr
  | jmpr | teamJmpr => exact h.jmpr
  | ret | teamRet => exact h.ret
  | exit | teamExit => exact h.exitSlice
  | trap | bkpt | teamTrap | teamBkpt => exact h.trapCode
  | yield | teamYield => exact h.yield
  | nop | teamNop => exact h.nop
  | balw | teamBalw => exact h.balw
  | fadd | fsub | fmul | fmin | fmax | fabs | fmac | fnmac | fdiv | fsqrt | frcp | frsq | fexp2 | flog2 | fneg | fcmp
    | frnd | cvtbf | cvte4 | cvte5 | qnt8 | dq8 | qnt4 | dq4 | fscl => exact h.aluF
  | setc => exact h.execSetc
  | join | shfl | vote | sift | credf | credi => exact h.arrive
  | ldw | ldd | ldh | ldb | teamLdw | teamLdd => exact h.loadLabel
  | stw | std | sth | stb | teamStw | teamStd => exact h.storeLabel
  | lde => exact h.loadElement
  | ldx | teamLdx => exact h.loadExplicit
  | stx | teamStx => exact h.storeExplicit
  | aadd | amax | aor | axch | acas | aaddd | acasd | teamAadd | teamAmax | teamAxch | teamAcas | teamAaddd
    | teamAcasd => exact h.atomicLabel
  | fence | teamFence => exact h.fence
  | fencef | teamFencef => exact h.fencef
  | waita | teamWaita => exact h.waita
  | barv | teamBarv => exact h.barv
  | barw | teamBarw => exact h.barw
  | amsg | teamAmsg => exact h.amsg
  | qld | qldu => exact h.queueLoad
  | qldg => exact h.execQldg
  | qsts => exact h.execQsts
  | setl => exact h.runOwn fun _ _ _ => h.modTeam.finishNone
  | getl | qocc => exact h.runOwn fun _ _ _ => h.finish
  | ldl => exact h.runOwn fun _ _ _ => h.issueAccess
  | cpy | cpym | cpys | wld | wst | cpyf => exact h.copyIssue
  | twait => exact h.execTwait
  | tempty => exact h.execTempty
  | tstat => exact h.execTstat
  | mmat | mmad | mmaz | accst => exact h.arrayIssue
  | accv | wref => exact h.run fun _ _ _ => (Sound.ite h.trapSlice h.finish)
  | launch => exact h.execLaunch
  | cnta => exact h.execCnta
  | cntw => exact h.execCntw
  | cancel => exact h.execCancel
  | linv => exact h.execLinv
  | flushr => exact h.execFlushr
  | illegalOp | wrongSlice | fetchRange => exact h.fetchTrap
  | wake => exact h.execWake
  | loadComplete => exact h.execLoadComplete
  | queueElementPerform => exact h.execQueueElementPerform
  | homeStore => exact h.execHomeStore
  | homeAtomic => exact h.execHomeAtomic
  | leaseRenewal => exact h.execLeaseRenewal
  | lineFill => exact h.execLineFill
  | mscFill => exact h.execMscFill
  | waitaWake => exact h.execWaitaWake
  | ctTick => exact .next (Sound.ite h.setCt.raiseTimes h)
  | drowsy => exact .next (Sound.ite h h.modCore)
  | copyStart => exact h.execCopyStart
  | chunkLand => exact h.execChunkLand
  | copyComplete => exact h.execCopyComplete
  | arrayStart => exact h.execArrayStart
  | arrayResult => exact h.execArrayResult
  | temptyEffect => exact h.execTemptyEffect
  | barrierContribution => exact h.execBarrierContribution
  | teamEnd => exact h.execTeamEnd
  | trapRecordWrite | faultRecordWrite | recordRetry => exact .next h.writeRecord
  | faultAckResume | faultAckRefuse => exact .next h.ackSlot
  | faultqDescriptorWrite => exact .next (Sound.ite h.writeDesc h)
  | lqtail => exact h.execLqtail
  | recordCurrent => exact h.execRecordCurrent
  | placeGang => exact h.execPlaceGang
  | priorityAging | loaderWaitExpiry => exact .next h.modLaunch
  | preempt => exact h.execPreempt
  | preload => exact h.execPreload
  | bankSwap => exact h.execBankSwap
  | spill => exact h.execSpill
  | extract => exact h.execExtract
  | launchComplete => exact h.execLaunchComplete
  | combinerDrain => exact .next h.deliverNth
  | handlerCreate => exact h.execHandlerCreate
  | rcmdResume | rcmdRetire => exact .next h.runCommand
  | counterWrite => exact .next (Sound.ite h h.same.noteWaits)
  | lcpcmd => exact h.execLcpcmd
  | lcpInvalidationComplete => exact .next (Sound.ite h.same.invalidated h)
  | partitionWrite => exact .next (Sound.ite h h.modPartition)
  | quotaUpdate => exact h.execQuotaUpdate
  | debugSlotWrite => exact .next (Sound.ite h (Sound.ite h.same.setRingPos h.same))
  | registerWrite => exact h.execRegisterWrite
  | hostAccess => exact h.execHostAccess
  | refresh => exact .next (Sound.ite h h.passCycles)
  | uncorrectableError => exact h.execUncorrectableError
  | meshCrcFailure => exact h.execMeshCrcFailure
  | packetArrival => exact h.execPacketArrival
  | refusal => exact h.execRefusal
  | acknowledgement => exact h.execAcknowledgement
  | grant => exact h.execGrant
  | flitAuthFailure => exact .next (Sound.ite h (Sound.ite h.same h.modLink))
  | linkKeyExhausted => exact .next (Sound.ite h (Sound.ite h.modLink h.same))
  | scaleOutResend => exact h.execScaleOutResend
  | holdExpiry => exact h.execHoldExpiry
  | keyload => exact h.execKeyload
  | keyfree => exact h.execKeyfree
  | scrub => exact .next (h.ownerMail (fun h => h.scrub))
  | scrubComplete => exact h.execScrubComplete
  | readback => exact h.execReadback
  | svnadvance => exact h.execSvnadvance
  | fmenrol => exact .next (h.ownerMail (fun h => h.same.finishMail))
  | phasemap => exact .next (h.fmCommand fun _ => h.setPhase)
  | incarnation => exact .next (h.fmCommand fun _ => h.setIncarnation)
  | inctab => exact .next (h.fmCommand fun _ => h.setPeers)
  | icred => exact .next (h.fmCommand fun _ => h.setIcred)
  | linkkey => exact .next (h.fmCommand fun _ => h.loadLinkKey)
  | linkstat => exact .next (h.fmCommand fun _ => h.linkStatus)
  | dcmdResume => exact .next (h.sliceCommand (fun _ _ _ _ h => h.resumeSlice))
  | stepteam => exact h.execStepteam
  | regwrite => exact h.execRegwrite
  | dcmdRetire => exact .next (h.sliceCommand (fun _ _ _ _ h => h.retireSlice))
  | stepon | stepoff | flagwrite => exact .next (h.sliceCommand (fun _ _ _ _ h => h.modSlice))
  | sample => exact h.execSample
  | recover => exact .next (Sound.ite h h.resetPackage.same)
  | go => exact .next (Sound.ite h (Sound.ite h.refuseImage h.same))
  | recoveryImageVerify => exact h.execRecoveryImageVerify
  | scanModeEntry => exact .next (Sound.ite h h.wipeCores.dropWork.same)
  | reset => exact .next h.resetPackage
  | rom => exact .next h.bootRom
  | train => exact .next h.bootTrain
  | clear => exact .next h.bootClear
  | link => exact .next h.bootLink
  | clockHalve | lifetimeRecordUpdate => exact .next h.same
  | clockRestore => exact .next (Sound.ite h h.same)
  | drain => exact h.execDrain
  | drainComplete => exact h.execDrainComplete
  | linkDrainTimeout => exact h.execLinkDrainTimeout
  | test => exact h.execTest
  | repair => exact h.execRepair
  | returnService => exact h.execReturnService
  | fwupdate => exact h.execFwupdate
  | dieReset => exact .next h.modDie
  | powerLoss => exact .next h.resetPackage.clearMem.same
  | testComplete => exact h.execTestComplete

/-! The turn and the step. -/

theorem rejectTrap {len : Nat} {r : Reject} (h : Sound o s) : SoundNext o (Machine.rejectTrap s len r) := by
  unfold Machine.rejectTrap
  split
  · exact h.exec _
  · exact h.exec _
  all_goals exact h.fetchTrap

theorem runWords {ws : List Word} (h : Sound o s) : SoundNext o (Machine.runWords s launch sl ws) := by
  unfold Machine.runWords
  split
  · exact h.fetchTrap
  split
  · exact h.exec _
  · exact h.rejectTrap

theorem issue (h : Sound o s) : SoundNext o (Machine.issue s) := by
  unfold Machine.issue
  split
  · exact .fault
  split
  · exact .next h
  refine SoundNext.map (g := Machine.settleIssue) ?_ fun _ ht => ht.settleIssue
  split
  · exact h.exec _
  · exact h.runWords

theorem turn {actor : Actor} (h : Sound o s) : SoundNext o (Machine.turn actor s) := by
  cases actor with
  | slice id => exact SoundNext.map (Sound.issue h.same) fun _ ht => ht.observe
  | event e => exact SoundNext.map (h.exec e) fun _ ht => ht.observe

theorem bootStep {t : State} (h : Sound o s) (e : Machine.bootStep s = some t) : Sound o t := by
  unfold Machine.bootStep at e
  split at e
  · cases e
  split at e <;> cases e
  · exact h.bootRom
  · exact h.bootTrain
  · exact h.bootClear
  · exact h.bootLink

theorem idleTurn (h : Sound o s) : SoundNext o (Machine.idleTurn s) := by
  unfold Machine.idleTurn
  split
  · exact .next (h.bootStep ‹_›)
  split
  · exact h.turn
  · exact .next h

theorem settled {before : State} {r : Host.Outcome State Fault Refusal} (h : SoundNext o r) :
    SoundNext o (Machine.settled before r) :=
  h.map fun _ ht => ht.settleTurn

theorem step (h : Sound o s) : SoundNext o (Machine.step s) := by
  refine Sound.settled ?_
  split
  · exact h.same.beginTurn.turn
  · exact h.beginTurn.idleTurn

end Sound

end Sys2Proof.Machine
end

section
/-! CLAIM. Every step keeps the canonical form of the memories (R177, R293, R300) and the order of the accesses in flight (R176, R361). -/

namespace Sys2Proof.Machine

/-- Settles O10: `Sound` holds of a state and itself, and every step keeps it. -/
theorem memoriesOkKept : Obligations.MemoriesOkKept := fun s t hs h => ((Sound.refl s).step t h).memories hs

/-- Settles O11: nothing is in flight at reset, and every step keeps `Sound`. -/
theorem accessNumbersKept : Obligations.AccessNumbersKept :=
  ⟨⟨List.Pairwise.nil, fun _ ha => absurd ha List.not_mem_nil⟩, fun s t hs h => ((Sound.refl s).step t h).accesses hs⟩

end Sys2Proof.Machine
end

section
/-! CLAIM. A path that the stations grant lies inside its region and carries every permission asked for
(R171, R222, R299, R334, R340, R382). -/

namespace Sys2Proof.Machine

/-- A requirement before more work is met, and the rest answers. -/
theorem require_bind_ok {α : Type} {c : Bool} {f : PathFault} {k : Unit → Except PathFault α} {x : α}
    (h : (require c f >>= k) = .ok x) : c = true ∧ k () = .ok x := by
  cases c with
  | false => cases h
  | true => exact ⟨rfl, h⟩

/-- However a station comes by an entry, from its copy, from its table or as none, the rest answers for that entry. -/
theorem entry_bind_ok {c : Option Entry} {inTable : Prop} [Decidable inTable] {read : Except PathFault Entry}
    {k : Entry → Except PathFault Path} {p : Path}
    (h : (match c with
      | some e => Except.ok e >>= k
      | none => if inTable then read >>= k else (.ok ⟨0, 0⟩ : Except PathFault Entry) >>= k) = .ok p) : ∃ e, k e = .ok p := by
  cases c with
  | some e => exact ⟨e, h⟩
  | none =>
    dsimp only at h
    split at h
    · obtain ⟨e, -, h⟩ := bind_ok h
      exact ⟨e, h⟩
    · exact ⟨⟨0, 0⟩, h⟩

/-- Where the bytes that an access asks for may lie at the end of its path. -/
def StaysInside (s : State) (a : Ask) (regs : Nat) (have6 : BitVec 6) : Dest → Prop
  | .main pa key _ _ => pa + a.size ≤ s.memSize ∧ (Table.get s.keys key).isSome = true
  | .scratch n o => o + a.size ≤ tileRegionSize s a.launch n ∧ gangTeamExists s a.launch a.gang n = true
  | .regs o => o + a.size ≤ regs
  | .stack o => o + a.size ≤ 16384
  | .weight _ wa => wa + a.size ≤ 65536 * 6144
  | .host pa => pa + a.size ≤ 2 ^ 47 ∧ have6.getLsbD 0 = true
  | .fabric t _ => inPhase s t = true
  | .window _ _ _ _ => True

/-- What a granted path is held to: the permissions asked for are within what it has, and its bytes stay inside. -/
def Granted (s : State) (a : Ask) (regs : Nat) (p : Path) : Prop :=
  within a.need p.have6 = true ∧ StaysInside s a regs p.have6 p.dest

section

variable {s : State} {a : Ask} {regs : Nat} {p : Path} {g0 g : Going} {e : Entry} {lvl : Lvl}

/-- A station lets an access in only with the permissions that it asks for. -/
theorem within_of_stationEnter {world count scope : Nat} {need grant : BitVec 6} {copy : Bool} {g' : Going}
    (h : stationEnter lvl world need grant g count e copy scope = .ok g') : within need g'.have6 = true := by
  obtain ⟨-, h⟩ := require_bind_ok h
  obtain ⟨-, h⟩ := require_bind_ok h
  obtain ⟨-, h⟩ := require_bind_ok h
  obtain ⟨-, h⟩ := require_bind_ok h
  obtain ⟨hneed, h⟩ := require_bind_ok h
  cases h
  exact hneed

theorem getLsbD_zero_of_within_permH : ∀ {x : BitVec 6}, within permH x = true → x.getLsbD 0 = true := by decide

/-- A DELIVER into package or host memory keeps its bytes inside and its key slot in use. -/
theorem granted_deliverPhysical (hneed : within a.need g.have6 = true) (h : deliverPhysical s lvl a g0 g e = .ok p) :
    Granted s a regs p := by
  obtain ⟨-, h⟩ := require_bind_ok h
  obtain ⟨hkey, h⟩ := require_bind_ok h
  obtain ⟨hmem, h⟩ := require_bind_ok h
  split at h
  next hhost =>
    obtain ⟨hperm, h⟩ := require_bind_ok h
    obtain ⟨-, h⟩ := require_bind_ok h
    cases h
    have hpa := of_decide_eq_true hhost
    refine ⟨hneed, ?_, getLsbD_zero_of_within_permH hperm⟩
    omega
  next hhost =>
    obtain ⟨-, h⟩ := require_bind_ok h
    cases h
    obtain hmain | hhost' := Bool.or_eq_true_iff.1 hmem
    · exact ⟨hneed, (of_decide_eq_true hmain).1, hkey⟩
    · exact absurd hhost' hhost

/-- A SWAP at P goes only to a package in phase. -/
theorem granted_swapAtP (hneed : within a.need g.have6 = true) (h : swapAtP s a g0 g e = .ok p) : Granted s a regs p := by
  obtain ⟨-, h⟩ := require_bind_ok h
  obtain ⟨-, h⟩ := require_bind_ok h
  dsimp only at h
  split at h
  · obtain ⟨hphase, h⟩ := require_bind_ok h
    cases h
    exact ⟨hneed, hphase⟩
  split at h
  · cases h
  · cases h
  · obtain ⟨-, h⟩ := require_bind_ok h
    obtain ⟨-, h⟩ := require_bind_ok h
    obtain ⟨-, h⟩ := require_bind_ok h
    cases h
    exact ⟨hneed, trivial⟩

theorem granted_stationP (h : stationP s a g = .ok p) : Granted s a regs p := by
  obtain ⟨-, h⟩ := require_bind_ok h
  obtain ⟨e, h⟩ := entry_bind_ok h
  obtain ⟨g1, hg1, h⟩ := bind_ok h
  have hneed := within_of_stationEnter hg1
  split at h
  · exact granted_swapAtP hneed h
  · exact granted_deliverPhysical hneed h

/-- The weight-store window of a world descriptor lies in the weight store, and an empty one holds no byte. -/
theorem weightWindow_inside {desc : List DWord} {o : Nat} (h : 1 ≤ o) (hin : o ≤ 65536 * (weightWindow desc).2) :
    65536 * (weightWindow desc).1 + o ≤ 65536 * 6144 := by
  unfold weightWindow at hin ⊢
  dsimp only at hin ⊢
  split at hin <;> omega

theorem granted_deliverWeight {d : Nat} {desc : List DWord} (hsize : 1 ≤ a.size) (hneed : within a.need g.have6 = true)
    (h : deliverWeight d a g0 g e desc = .ok p) : Granted s a regs p := by
  obtain ⟨hfits, h⟩ := require_bind_ok h
  obtain ⟨-, h⟩ := require_bind_ok h
  cases h
  have hin := of_decide_eq_true (Bool.and_eq_true_iff.1 hfits).2
  have := weightWindow_inside (by omega) hin
  exact ⟨hneed, show _ + e.base + a.off + a.size ≤ _ by omega⟩

theorem granted_stationD (hsize : 1 ≤ a.size) (h : stationD s a g = .ok p) : Granted s a regs p := by
  obtain ⟨-, h⟩ := require_bind_ok h
  dsimp only at h
  split at h
  · cases h
  obtain ⟨desc, -, h⟩ := bind_ok h
  obtain ⟨-, h⟩ := require_bind_ok h
  obtain ⟨e, h⟩ := entry_bind_ok h
  obtain ⟨g1, hg1, h⟩ := bind_ok h
  split at h
  · exact granted_deliverWeight hsize (within_of_stationEnter hg1) h
  split at h
  · exact granted_stationP h
  · exact granted_stationP h

theorem granted_deliverScratch (hneed : within a.need g.have6 = true) (h : deliverScratch s a g0 g e = .ok p) :
    Granted s a regs p := by
  obtain ⟨hteam, h⟩ := require_bind_ok h
  obtain ⟨hfits, h⟩ := require_bind_ok h
  obtain ⟨-, h⟩ := require_bind_ok h
  cases h
  exact ⟨hneed, of_decide_eq_true (Bool.and_eq_true_iff.1 hfits).2, hteam⟩

/-- The reserved labels reach the tile regions and the requester's own windows, each within its size. -/
theorem granted_reservedC {lab : Nat} (h : reservedC s a g lab regs = .ok p) : Granted s a regs p := by
  unfold reservedC at h
  dsimp only at h
  split at h
  · obtain ⟨hteam, h⟩ := require_bind_ok h
    obtain ⟨hneed, h⟩ := require_bind_ok h
    obtain ⟨hfits, h⟩ := require_bind_ok h
    obtain ⟨-, h⟩ := require_bind_ok h
    cases h
    exact ⟨hneed, of_decide_eq_true hfits, hteam⟩
  split at h
  · obtain ⟨hneed, h⟩ := require_bind_ok h
    obtain ⟨hfits, h⟩ := require_bind_ok h
    obtain ⟨-, h⟩ := require_bind_ok h
    cases h
    exact ⟨hneed, of_decide_eq_true (p := _ ≤ _) hfits⟩
  split at h
  · obtain ⟨hneed, h⟩ := require_bind_ok h
    obtain ⟨hfits, h⟩ := require_bind_ok h
    obtain ⟨-, h⟩ := require_bind_ok h
    cases h
    exact ⟨hneed, of_decide_eq_true (p := _ ≤ _) hfits⟩
  · cases h

/-- The walk grants only what its last station grants, and no offset with a bit of [63:48] set. -/
theorem granted_walkC {lw off : DWord} (hsize : 1 ≤ a.size) (h : walkC s a lw off regs = .ok p) :
    field off 63 48 = 0 ∧ Granted s a regs p := by
  obtain ⟨hoff, h⟩ := require_bind_ok h
  obtain ⟨-, h⟩ := require_bind_ok h
  refine ⟨beq_iff_eq.1 hoff, ?_⟩
  dsimp only at h
  split at h
  · exact granted_reservedC h
  obtain ⟨e, h⟩ := entry_bind_ok h
  obtain ⟨g1, hg1, h⟩ := bind_ok h
  split at h
  · exact granted_deliverScratch (within_of_stationEnter hg1) h
  split at h
  · exact granted_stationD hsize h
  · exact granted_stationD hsize h

end

/-- Settles O39: every station that grants a path has checked the permissions and the bounds at its end. -/
theorem walkStaysInside : Obligations.WalkStaysInside := by
  intro s a lw off regs p hsize h
  obtain ⟨hoff, hneed, hin⟩ := granted_walkC hsize h
  exact ⟨beq_iff_eq.1 hneed, hoff, hin⟩

end Sys2Proof.Machine
end

section
/-! CLAIM. A memory instruction whose path ends in the package is taken in, in order, and completes or waits for its data
(R170 to R176, R284). -/

namespace Sys2Proof.Machine

/-! ### What a walk leaves at the stations -/

/-- Two states differ only in the copies of entries that the stations of one core's walk keep (R339). -/
structure OnlyCopies (s : State) (c : Nat) (t : State) : Prop where
  frame : t = { s with cores := t.cores, dies := t.dies, pCopies := t.pCopies, fCopies := t.fCopies }
  dies : t.dies.map (fun d => { d with copies := [] }) = s.dies.map (fun d => { d with copies := [] })
  others : ∀ n, n ≠ c → core t n = core s n
  own : core t c = { core s c with cCopies := (core t c).cCopies }

/-- A change of one element that a function does not see. -/
theorem map_listModify {α β : Type} {g : α → α} {f : α → β} (h : ∀ x, f (g x) = f x) : ∀ (xs : List α) (n : Nat),
    (listModify g xs n).map f = xs.map f
  | [], n => by cases n <;> rfl
  | x :: xs, 0 => by simp [listModify, h]
  | x :: xs, n + 1 => by simp [listModify, map_listModify h xs n]

/-- What one walk leaves, and then another. -/
theorem OnlyCopies.trans {s t u : State} {c : Nat} (h : OnlyCopies s c t) (k : OnlyCopies t c u) : OnlyCopies s c u where
  frame := k.frame.trans
    (congrArg (fun x : State => { x with cores := u.cores, dies := u.dies, pCopies := u.pCopies, fCopies := u.fCopies }) h.frame)
  dies := k.dies.trans h.dies
  others n hn := (k.others n hn).trans (h.others n hn)
  own := k.own.trans (congrArg (fun x : Core => { x with cCopies := (core u c).cCopies }) h.own)

/-- Keeping the copies of a walk changes nothing else. -/
theorem onlyCopies_keepCopies (s : State) (c : Nat) (cs : List (Lvl × EntryCopy)) : OnlyCopies s c (keepCopies s c cs) := by
  induction cs generalizing s with
  | nil => exact ⟨rfl, rfl, fun _ _ => rfl, rfl⟩
  | cons x cs ih =>
    refine OnlyCopies.trans ?_ (ih _)
    obtain ⟨l, y⟩ := x
    cases l with
    | c =>
      refine ⟨rfl, rfl, fun n hn => (core_modCore ..).trans (if_neg hn), ?_⟩
      simp [core_modCore]
    | d =>
      exact ⟨rfl, map_listModify (g := fun d : Die => { d with copies := addCopy 2048 d.copies y }) (fun _ => rfl) _ _, fun _ _ => rfl, rfl⟩
    | p | f => exact ⟨rfl, rfl, fun _ _ => rfl, rfl⟩

theorem OnlyCopies.cur {s t : State} {c : Nat} (h : OnlyCopies s c t) : t.cur = s.cur := by rw [h.frame]

theorem OnlyCopies.inflight {s t : State} {c : Nat} (h : OnlyCopies s c t) : t.inflight = s.inflight := by rw [h.frame]

theorem OnlyCopies.nextAccess {s t : State} {c : Nat} (h : OnlyCopies s c t) : t.nextAccess = s.nextAccess := by rw [h.frame]

theorem OnlyCopies.teamAt {s t : State} {c : Nat} (h : OnlyCopies s c t) (n : Nat) : Machine.teamAt t ⟨c, n⟩ = Machine.teamAt s ⟨c, n⟩ := by
  unfold Machine.teamAt
  rw [h.own]

theorem OnlyCopies.sliceAt {s t : State} {id : SliceId} (h : OnlyCopies s id.core t) : Machine.sliceAt t id = Machine.sliceAt s id := by
  unfold Machine.sliceAt
  rw [show Machine.teamAt t (teamIdOf id) = Machine.teamAt s (teamIdOf id) from h.teamAt id.slot]

/-! ### Taking an access in -/

/-- An access as it is taken in: what of it its instruction and its path say, and nothing of it performed. -/
structure TakenIn (s : State) (w : SliceName) (pc : Word) (op : MemOp) (p : Path) (lw off : DWord) (a : Access) : Prop where
  n : a.n = s.nextAccess
  place : a.place = placeOf p off
  who : a.who = w
  kind : a.kind = op.kind
  size : a.size = op.size
  lw : a.lw = lw
  off : a.off = off
  bytes : a.bytes = op.bytes
  sink : a.sink = op.sink
  pc : a.pc = pc
  performed : a.performed = false

/-- A state with one more access in flight, under the next number. -/
def withAccess (s : State) (a : Access) : State := { s with inflight := s.inflight ++ [a], nextAccess := s.nextAccess + 1 }

/-- The copies that a walk leaves, one more access in flight, and one slice changed: all that has become of a state. -/
theorem frame_of_onlyCopies {s k : State} {c : Nat} (h : OnlyCopies s c k) (a : Access) (id : SliceId) (tm : Team) (sl : Slice) :
    let t := putSlice (withAccess k a) id tm sl
    t = { s with inflight := s.inflight ++ [a], nextAccess := s.nextAccess + 1, cores := t.cores, dies := t.dies,
                 pCopies := t.pCopies, fCopies := t.fCopies } := by
  intro t
  rw [← h.inflight, ← h.nextAccess]
  exact congrArg (fun x : State => { x with
    inflight := k.inflight ++ [a], nextAccess := k.nextAccess + 1, cores := t.cores }) h.frame

/-- Nothing else of the core has changed, and nothing of its other teams. -/
theorem core_of_onlyCopies {s k : State} {id : SliceId} (h : OnlyCopies s id.core k) (a : Access) {tm : Team} {sl : Slice}
    (hat : sliceAt s id = some (tm, sl)) (sl' : Slice) :
    let t := putSlice (withAccess k a) id tm sl'
    (∀ c, c ≠ id.core → core t c = core s c) ∧
    core t id.core = { core s id.core with
      cCopies := (core t id.core).cCopies
      active := { (core s id.core).active with teams := (core t id.core).active.teams } } ∧
    (∀ n, n ≠ id.slot → teamAt t ⟨id.core, n⟩ = teamAt s ⟨id.core, n⟩) := by
  intro t
  have hatk : sliceAt (withAccess k a) id = some (tm, sl) := h.sliceAt.trans hat
  obtain ⟨-, hothers, hown, hteams, -, -⟩ := onlySlice_putSlice hatk sl'
  refine ⟨fun c hc => (hothers c hc).trans (h.others c hc), ?_, fun n hn => (hteams n hn).trans (h.teamAt n)⟩
  have hcopies : (core t id.core).cCopies = (core k id.core).cCopies := (congrArg Core.cCopies hown).trans rfl
  rw [hcopies]
  exact hown.trans (congrArg (fun x : Core => { x with
    active := { x.active with teams := (core t id.core).active.teams } }) h.own)

/-- No access toward another package goes before one that stays in the package. -/
theorem fabricWaits_of_no_target {p : Path} (h : targetOf p.dest = none) (s : State) (w : SliceName) (off : DWord) :
    fabricWaits s w p off = false := by
  unfold fabricWaits
  cases hd : p.dest with
  | fabric | window => rw [hd] at h; cases h
  | _ => rfl

/-- An access that stays in the package takes no unit of credit. -/
theorem chargeFor_of_no_target {p : Path} (h : targetOf p.dest = none) (s : State) (id : SliceId) (world : Nat) :
    chargeFor s id world p = (some (s, 32), s) := by
  unfold chargeFor
  cases hd : p.dest with
  | fabric => rw [hd] at h; cases h
  | _ => rfl

/-- An access that stays in the package is taken in at the end, and the stations keep their copies; nothing is charged (R176). -/
theorem accept_of_no_target {p : Path} (h : targetOf p.dest = none) (s : State) (w : SliceName) (world c : Nat) (pc next : Word) (op : MemOp)
    (lw off : DWord) (pops : List Nat) (al : Nat) : ∃ a, TakenIn s w pc op p lw off a ∧
      accept s w world c pc next op p lw off pops al = (withAccess (keepCopies s c p.copies) a, s.nextAccess) := by
  have hn : (keepCopies s c p.copies).nextAccess = s.nextAccess := (Kept.keepCopies s c p.copies).nextAccess
  unfold accept
  rw [h]
  exact ⟨_, ⟨hn, rfl, rfl, rfl, rfl, rfl, rfl, rfl, rfl, rfl, rfl⟩, congrArg (Prod.mk _) hn⟩

/-- Only the reads that the unit makes for itself wait for an access in the package where `holdsForData` does not say so. -/
theorem waitsForData_of_no_target {p : Path} (h : targetOf p.dest = none) (op : MemOp) : waitsForData op p =
    match op.kind with
    | .refetch _ _ _ | .record _ | .entry _ => true
    | _ => holdsForData op := by
  obtain ⟨kind, size, need, req, align, data, bytes, sink⟩ := op
  cases kind <;> cases sink <;> simp [waitsForData, holdsForData, h]

/-- A memory instruction waits for the data of an access in the package as `holdsForData` says. -/
theorem waitsForData_of_memRule {i : Instr} {r : Form × Option (Fin 8) × (Vals → DWord) × (Vals → MemOp)} (hrule : memRule i = some r)
    {p : Path} (h : targetOf p.dest = none) (v : Vals) : waitsForData (r.2.2.2 v) p = holdsForData (r.2.2.2 v) := by
  cases i <;> cases hrule <;> exact waitsForData_of_no_target h _

/-! ### The slice afterwards -/

/-- The slice after its access `n` has been taken in: it waits on its PC for the data, or goes on. -/
def Slice.afterAccess (sl : Slice) (holds : Bool) (n : Nat) (next : Word) : Slice :=
  if holds then { sl with await := some n, stall := none } else sl.goneOn next

/-- An access that stays in the package, from a slice that nothing of the fabric holds: it is taken in, and its slice waits or goes on. -/
theorem acceptFor_of_no_target {s : State} {f : Form} {tm : Team} {sl : Slice} {v : Vals} {op : MemOp} {p : Path} {lw off : DWord}
    (h : targetOf p.dest = none) (hat : sliceAt s s.cur = some (tm, sl)) (hpops : v.pops = []) (hb : sl.stepBit = false) :
    ∃ a, TakenIn s (tm.name s.cur.strand) sl.pc op p lw off a ∧
      acceptFor s f tm sl v op p lw off = putSlice (withAccess (keepCopies s s.cur.core p.copies) a) s.cur tm
        (sl.afterAccess (waitsForData op p) s.nextAccess (nextPc sl.pc f.len)) := by
  have hfabric := fabricWaits_of_no_target h s (tm.name s.cur.strand) off
  have hloads : loadsBefore s s.cur (tm.name s.cur.strand) op p = false := by simp [loadsBefore, h]
  have hcharge := chargeFor_of_no_target h s s.cur tm.world
  obtain ⟨a, ha, hacc⟩ := accept_of_no_target h s (tm.name s.cur.strand) tm.world s.cur.core sl.pc (nextPc sl.pc f.len) op lw off v.pops 32
  refine ⟨a, ha, ?_⟩
  set u := withAccess (keepCopies s s.cur.core p.copies) a
  have hkeep := onlyCopies_keepCopies s s.cur.core p.copies
  have hcur : u.cur = s.cur := hkeep.cur
  have hatu : sliceAt u s.cur = some (tm, sl) := hkeep.sliceAt.trans hat
  unfold acceptFor Slice.afterAccess
  simp only [hfabric, hloads, hcharge, hacc, Bool.or_self, Bool.false_eq_true, if_false, hcur]
  split
  · exact modSlice_of_sliceAt hatu _
  · rw [← hcur] at hatu ⊢
    exact finishNone_of_no_step hatu hpops hb _

/-! ### The places of an access in the package's memories -/

/-- A path ends in package memory, a tile region or the weight store. -/
def Dest.InMemory : Dest → Prop
  | .main _ _ _ _ | .scratch _ _ | .weight _ _ => True
  | _ => False

theorem targetOf_of_inMemory {d : Dest} (h : d.InMemory) : targetOf d = none := by
  cases d with
  | main | scratch | weight => rfl
  | _ => exact h.elim

/-- Neither of the slice's own windows takes such an access: it is taken in. -/
theorem deliverTo_of_inMemory {p : Path} (h : p.dest.InMemory) (s : State) (f : Form) (tm : Team) (sl : Slice) (v : Vals) (op : MemOp)
    (lw off : DWord) : deliverTo s f tm sl v op p lw off = acceptFor s f tm sl v op p lw off := by
  unfold deliverTo
  cases hd : p.dest with
  | regs | stack => rw [hd] at h; exact h.elim
  | _ => rfl

/-- What becomes of the slice, by whether its instruction holds for the data. -/
theorem afterAccess_spec (sl : Slice) (holds : Bool) (n : Nat) (next : Word) :
    (sl.afterAccess holds n next).regs = sl.regs ∧ (sl.afterAccess holds n next).run = sl.run ∧
    if holds then (sl.afterAccess holds n next).pc = sl.pc ∧ (sl.afterAccess holds n next).await = some n
    else (sl.afterAccess holds n next).pc = next ∧ (sl.afterAccess holds n next).await = none := by
  cases holds with
  | false => exact ⟨rfl, rfl, rfl, rfl⟩
  | true => exact ⟨rfl, rfl, rfl, rfl⟩

/-- Settles O42: the access is taken in, and the slice waits for its data or completes; the copies at the stations and that slice are all
that changes besides. -/
theorem accessesAreAccepted : Obligations.AccessesAreAccepted := by
  intro i f l off op s tm sl v p hrule hg hfree hpops hb hpath hdest
  have hmem : p.dest.InMemory := hdest
  have hlocal := targetOf_of_inMemory hmem
  obtain ⟨a, ha, hacc⟩ := acceptFor_of_no_target (f := f) (op := op v) (lw := pathWord tm l v) (off := off v) hlocal hg.1 hpops hb
  rw [waitsForData_of_memRule hrule hlocal] at hacc
  set sl' := sl.afterAccess (holdsForData (op v)) s.nextAccess (nextPc sl.pc f.len)
  obtain ⟨hregs, hrun, hafter⟩ := afterAccess_spec sl (holdsForData (op v)) s.nextAccess (nextPc sl.pc f.len)
  have hkeep := onlyCopies_keepCopies s s.cur.core p.copies
  have hframe := frame_of_onlyCopies hkeep a s.cur tm sl'
  obtain ⟨hothers, hown, hteams⟩ := core_of_onlyCopies hkeep a hg.1 sl'
  set t := putSlice (withAccess (keepCopies s s.cur.core p.copies) a) s.cur tm sl'
  have hplace : match p.dest with
      | .main pa key c _ => a.place = .main pa key c
      | .scratch g o => a.place = .scratch g o
      | .weight d wa => a.place = .weight d wa
      | _ => False := by
    rw [ha.place, placeOf]
    cases hd : p.dest with
    | main | scratch | weight => rfl
    | _ => rw [hd] at hdest; exact hdest
  refine ⟨t, a, _, sl', ?_, congrArg State.inflight hframe, congrArg State.nextAccess hframe, ha.n, ha.who, ha.kind, ha.size, ha.lw, ha.off,
    ha.bytes, ha.sink, ha.pc, ha.performed, hplace, sliceAt_putSlice_self (teamAt_of_sliceAt hg.1).2 sl', hregs, hrun, rfl, ?_,
    hframe, hkeep.dies, hothers, hown, hteams⟩
  · rw [exec_of_accessPath hrule hg hfree hpath, deliverTo_of_inMemory hmem, hacc]
  · rw [ha.n]
    exact hafter

end Sys2Proof.Machine
end

section
/-! CLAIM. An address slice that pops a back queue, and the losses of decoupling (R191, R192, R194 to R196). -/

namespace Sys2Proof.Machine

/-! ### Complete entries -/

/-- An entry is complete once every strand that has not exited has pushed it (R191, R194). -/
theorem backComplete_iff (tm : Team) (b k : Nat) : tm.backComplete b k = true ↔
    ∀ p ∈ tm.indexed, p.2.run ≠ .exited → (tm.bqueue b).popped + k < listGetD p.2.pushed b 0 := by
  simp only [Team.backComplete, Team.liveStrands, List.all_eq_true, List.mem_filter, decide_eq_true_eq, Slice.live, bne_iff_ne, and_imp]

theorem incompletePops_singleton (tm : Team) (b : Nat) :
    incompletePops tm [b] = if tm.backComplete b 0 then [] else [b] := by
  cases h : tm.backComplete b 0 <;> simp [incompletePops, List.range_succ, h]

/-! ### The gathering -/

section
variable {s : State} {tm : Team} {sl : Slice} {d : Dst} {vd : DWord} {b : Fin 8} (hd : plainDst sl .w32 d = some vd)
  (hkind : (tm.queueDecl true b.val).kind = .uniform)
include hd hkind

/-- A UNIFORM back queue passes the checks of the declarations in the team set (R30, R34). -/
theorem declChecks_of_backPop : declChecks (form2 true d .w32 (.queue b) .w32) tm sl = .ok () :=
  declChecks_ok (regBad_of_plainDst hd) rfl rfl (Dst.undeclared_of_not_queue (ne_queue_of_plainDst hd))
    (Src.undeclared_queue (by simp [form2, hkind])) rfl (Dst.wrongKind_of_not_queue (ne_queue_of_plainDst hd))
    (by simp [form2, Src.wrongKind, hkind]) rfl (Dst.readQueue_of_not_queue (ne_queue_of_plainDst hd))

variable (hnone : nonePending s (tm.name none) (form2 true d .w32 (.queue b) .w32))
include hnone

/-- The pop of a complete entry takes its combined value (R191, R192). -/
theorem gather_of_backComplete (h : tm.backComplete b.val 0 = true) :
    gather s none tm sl (form2 true d .w32 (.queue b) .w32) (.ok ()) = .ok ⟨vd, (tm.backValue b.val 0).setWidth 64, 0, [b.val]⟩ := by
  have hpops : incompletePops tm [b.val] = [] := by rw [incompletePops_singleton, if_pos h]
  rw [gather_of_declChecks_ok rfl (declChecks_of_backPop hd hkind) (pending_of_nonePending rfl hnone)
      (by
        change (true && incompletePops tm [b.val] != []) = false
        rw [hpops]
        rfl),
    roomForPush_of_not_queue (ne_queue_of_plainDst hd), ← value_of_plainDst hd]
  rfl

/-- The pop of an entry that lacks a contribution waits (R191). -/
theorem gather_of_not_backComplete (h : tm.backComplete b.val 0 = false) :
    gather s none tm sl (form2 true d .w32 (.queue b) .w32) (.ok ()) = .error (.backq [b.val]) := by
  have hpops : incompletePops tm [b.val] = [b.val] := by rw [incompletePops_singleton, if_neg (by simp [h])]
  have hpend : Form.pending s (tm.name none) (form2 true d .w32 (.queue b) .w32) = false := pending_of_nonePending rfl hnone
  simp only [gather, declChecks_of_backPop hd hkind, hpend]
  change (stopIf (true && incompletePops tm [b.val] != []) (.backq [b.val]) >>= _) = _
  rw [hpops]
  rfl

end

/-! ### The wait -/

/-- A counter that rises by one and stays at its greatest value (R196). -/
theorem toNat_saturating_succ (x : Word) : (if x = 0xFFFFFFFF then x else x + 1).toNat = min (x.toNat + 1) (2 ^ 32 - 1) := by
  split
  next h => rw [h]; rfl
  next h => bv_omega

/-- A wait on one back queue counts at that queue alone (R195, R196). -/
theorem countBackWaits_singleton (tm : Team) (b : Nat) :
    (countBackWaits tm [b]).bqWait0.toNat = (if b = 0 then min (tm.bqWait0.toNat + 1) (2 ^ 32 - 1) else tm.bqWait0.toNat) ∧
    (countBackWaits tm [b]).bqWait1.toNat = (if b = 1 then min (tm.bqWait1.toNat + 1) (2 ^ 32 - 1) else tm.bqWait1.toNat) := by
  have hmem (n : Nat) : ([b].contains n = true) = (b = n) := by simp [eq_comm]
  constructor <;> simp only [countBackWaits, hmem, ← toNat_saturating_succ] <;> split <;> rfl

/-- A slice that waits with class BACKQ for its pops (R191). -/
def Slice.awaitingBack (sl : Slice) (qs : List Nat) : Slice := { sl with stall := some .backq, backq := qs }

section
variable {s : State} {id : SliceId} {tm : Team} {sl : Slice} (hat : sliceAt s id = some (tm, sl))
include hat

/-- The slice that waits for its pops, in a team that is otherwise as it was. -/
theorem sliceAt_backWait (qs : List Nat) :
    sliceAt (modSlice (waitSlice s id .backq) id fun sl => { sl with backq := qs }) id =
      some (tm.putSlice id.strand (sl.awaitingBack qs), sl.awaitingBack qs) := by
  rw [waitSlice, sliceAt_modSlice_self (sliceAt_modSlice_self hat _), Team.putSlice_putSlice_self]
  rfl

/-- A wait that goes on is not counted again (R195). -/
theorem sliceAt_stopAt_backq_again (hstall : sl.stall = some .backq) (f : Form) (qs : List Nat) :
    sliceAt (stopAt s id f (.backq qs)) id = some (tm.putSlice id.strand (sl.awaitingBack qs), sl.awaitingBack qs) := by
  simp only [stopAt, hat, if_pos hstall]
  exact sliceAt_backWait hat qs

/-- A wait that begins is counted at each queue whose entry is incomplete (R195). -/
theorem sliceAt_stopAt_backq_first (hstall : sl.stall ≠ some .backq) (f : Form) (qs : List Nat) :
    sliceAt (stopAt s id f (.backq qs)) id =
      some ((countBackWaits tm (incompletePops tm qs)).putSlice id.strand (sl.awaitingBack qs), sl.awaitingBack qs) := by
  simp only [stopAt, hat, if_neg hstall]
  exact sliceAt_backWait (sliceAt_modTeam hat (by cases id.strand <;> rfl)) qs

end

/-- Settles O19: an entry is complete or not; a pop that waits leaves its slice stalled, and its team counts the wait when it begins. -/
theorem backPops : Obligations.BackPops := by
  intro s tm sl d vd b f ready hat hstrand hd hnone hkind
  have hready : tm.backComplete b.val 0 = true ↔ ready := backComplete_iff tm b.val 0
  refine ⟨fun h => gather_of_backComplete hd hkind hnone (hready.2 h), fun h => ?_⟩
  have hincomplete : tm.backComplete b.val 0 = false := Bool.eq_false_iff.2 (mt hready.1 h)
  refine ⟨gather_of_not_backComplete hd hkind hnone hincomplete, stopAt s s.cur f (.backq [b.val]), ?_⟩
  by_cases hstall : sl.stall = some .backq
  · refine ⟨_, _, rfl, sliceAt_stopAt_backq_again hat hstall f _, rfl, rfl, rfl, ?_, fun hfirst => absurd hstall hfirst, fun _ => ?_⟩ <;>
      rw [hstrand]
    · rfl
    · exact ⟨rfl, rfl⟩
  · refine ⟨_, _, rfl, sliceAt_stopAt_backq_first hat hstall f _, rfl, rfl, rfl, ?_, fun _ => ?_, fun hagain => absurd hagain hstall⟩ <;>
      rw [hstrand]
    · rfl
    · rw [incompletePops_singleton, if_neg (by simp [hincomplete])]
      exact countBackWaits_singleton tm b.val

end Sys2Proof.Machine
end

section
/-! CLAIM. Time that ticks, segments that drop, the edges of refresh windows, and the delivery of held writes (R213, R301, R362, R369). -/

namespace Sys2Proof.Machine

/-! ### Times and segments (R213, R362) -/

/-- CT_TICK once a core's ct has stood 128 cycles (R362). -/
theorem exec_ctTick_of_stood {s : State} {c : Nat} (h : 128 ≤ (s.clock - (core s c).ctSince).toNat) :
    exec (.ctTick c) s = .next (raiseTimes (modCore s c fun k => { k with ct := k.ct + 1, ctSince := s.clock })) := by
  have hrule : exec (.ctTick c) s = execCtTick c s := rfl
  have hne : (core s c).ct ≠ (core s c).ct + 1 := by bv_omega
  have hset : setCt s c ((core s c).ct + 1) = modCore s c fun k => { k with ct := k.ct + 1, ctSince := s.clock } :=
    congrArg (putCore s c) (if_neg hne)
  rw [hrule, execCtTick, if_pos h, hset]

/-- Before that nothing happens. -/
theorem exec_ctTick_of_recent {s : State} {c : Nat} (h : (s.clock - (core s c).ctSince).toNat < 128) : exec (.ctTick c) s = .next s :=
  congrArg Host.Outcome.next (if_neg (Nat.not_le.2 h))

/-- DROWSY of a segment that nothing has accessed for 256 cycles (R213). -/
theorem exec_drowsy {s : State} {c seg : Nat} (hseg : seg < 192) (hnew : seg ∉ (core s c).drowsy)
    (hidle : 256 ≤ (s.clock - Table.getD (core s c).touched seg 0).toNat) :
    exec (.drowsy c seg) s = .next (modCore s c fun k => { k with drowsy := k.drowsy ++ [seg] }) := by
  refine congrArg Host.Outcome.next (if_neg ?_)
  simp only [List.contains_iff_mem, not_or]
  exact ⟨Nat.not_le.2 hseg, Nat.not_lt.2 hidle, hnew⟩

/-! ### Refresh windows (R301) -/

/-- The next edge of a bank's window lies within one round of all the windows. -/
theorem untilRefresh_edge {s : State} {bank : Nat} (hbank : bank < 32) :
    0 < untilRefresh s bank ∧ untilRefresh s bank ≤ 67200 ∧
      ((s.wall + untilRefresh s bank) % 67200 = 2100 * bank ∨ (s.wall + untilRefresh s bank) % 67200 = 2100 * (bank + 1) % 67200) := by
  simp only [untilRefresh, refreshing, refreshWindow, beq_iff_eq]
  split <;> omega

/-- REFRESH passes the time to that edge (R301). -/
theorem exec_refresh {s : State} {bank : Nat} (hbank : bank < 32) (hfull : s.service.halved = false) :
    exec (.refresh bank) s = .next (passCycles s (untilRefresh s bank)) := by
  have hrule : exec (.refresh bank) s = execRefresh bank s := rfl
  rw [hrule, execRefresh, if_neg (Nat.not_le.2 hbank)]
  simp only [hfull, Bool.false_eq_true, if_false]

/-! ### Held writes delivered (R180, R369) -/

/-- Combined writes delivered change host memory alone. -/
theorem foldl_deliverCombined (cs : List Combined) (s : State) : cs.foldl deliverCombined s =
    { s with hostMem := cs.foldl (fun m c => Memory.writeBytes m c.pa c.bytes) s.hostMem } := by
  induction cs generalizing s with
  | nil => rfl
  | cons c cs ih => exact ih _

section
variable (w : SliceName) (hit : Combined → Bool)

/-- A write comes along where it is the slice's and the test picks it, or a later one that comes along has bytes of it. -/
theorem withOlder_cons (c : Combined) (cs : List Combined) : withOlder w hit (c :: cs) =
    if c.who = w ∧ (hit c = true ∨ ∃ y ∈ withOlder w hit cs, c.touches y.pa y.bytes.length = true)
    then c :: withOlder w hit cs else withOlder w hit cs := by
  simp [withOlder]

theorem withOlder_sublist (cs : List Combined) : (withOlder w hit cs).Sublist cs := by
  induction cs with
  | nil => exact .slnil
  | cons c cs ih =>
    rw [withOlder_cons]
    split
    · exact ih.cons_cons c
    · exact ih.cons c

theorem who_of_mem_withOlder {x : Combined} {cs : List Combined} (h : x ∈ withOlder w hit cs) : x.who = w := by
  induction cs with
  | nil => cases h
  | cons c cs ih =>
    rw [withOlder_cons] at h
    split at h
    next hc =>
      rcases List.mem_cons.1 h with rfl | h
      · exact hc.1
      · exact ih h
    · exact ih h

/-- What comes along of the later writes comes along of all. -/
theorem mem_withOlder_cons {x : Combined} {cs : List Combined} (c : Combined) (h : x ∈ withOlder w hit cs) :
    x ∈ withOlder w hit (c :: cs) := by
  rw [withOlder_cons]
  split
  · exact List.mem_cons_of_mem _ h
  · exact h

variable {w hit}

/-- A write of the slice that the test picks comes along. -/
theorem mem_withOlder_of_hit {x : Combined} {cs : List Combined} (hx : x ∈ cs) (hwho : x.who = w) (hhit : hit x = true) :
    x ∈ withOlder w hit cs := by
  induction cs with
  | nil => cases hx
  | cons c cs ih =>
    rcases List.mem_cons.1 hx with rfl | hx
    · rw [withOlder_cons, if_pos ⟨hwho, .inl hhit⟩]
      exact List.mem_cons_self
    · exact mem_withOlder_cons w hit c (ih hx)

/-- A write of the slice with bytes of a later one that comes along does too. -/
theorem mem_withOlder_of_touches {x y : Combined} {xs cs : List Combined} {i : Nat} (hdrop : cs.drop i = x :: xs) (hwho : x.who = w)
    (hy : y ∈ withOlder w hit xs) (htouch : x.touches y.pa y.bytes.length = true) : x ∈ withOlder w hit cs := by
  induction cs generalizing i with
  | nil => simp at hdrop
  | cons c cs ih =>
    cases i with
    | zero =>
      cases hdrop
      rw [withOlder_cons, if_pos ⟨hwho, .inr ⟨y, hy, htouch⟩⟩]
      exact List.mem_cons_self
    | succ i => exact mem_withOlder_cons w hit c (ih hdrop)

/-- Where no other write of the slice has bytes of one write, that write comes alone. -/
theorem withOlder_alone {v : Combined} {cs : List Combined}
    (hno : ∀ x ∈ cs, x.who = w → x ≠ v → x.touches v.pa v.bytes.length = false) : ∀ x ∈ withOlder w (fun x => x == v) cs, x = v := by
  induction cs with
  | nil => exact fun _ hx => by cases hx
  | cons c cs ih =>
    have hlater := ih fun x hx => hno x (List.mem_cons_of_mem _ hx)
    intro x hx
    rw [withOlder_cons] at hx
    split at hx
    next hc =>
      rcases List.mem_cons.1 hx with rfl | hx
      · by_contra hne
        obtain ⟨hwho, hhit | ⟨y, hy, htouch⟩⟩ := hc
        · exact hne (beq_iff_eq.1 hhit)
        · rw [hlater y hy, hno x List.mem_cons_self hwho hne] at htouch
          cases htouch
      · exact hlater x hx
    · exact hlater x hx

end

/-- COMBINER_DRAIN of a held write (R369). -/
theorem exec_combinerDrain {s : State} {n : Nat} {w : Combined} (h : s.combiner[n]? = some w) :
    let now := withOlder w.who (fun x => x == w) s.combiner
    exec (.combinerDrain n) s = .next { s with
      combiner := s.combiner.filter fun x => !now.contains x
      hostMem := now.foldl (fun m c => Memory.writeBytes m c.pa c.bytes) s.hostMem } := by
  have hrule : exec (.combinerDrain n) s = .next (deliverNth s n) := rfl
  rw [hrule, deliverNth, h]
  simp only [deliverPicked, foldl_deliverCombined]

end Sys2Proof.Machine
end

section
/-! CLAIM. The engines start, land and complete (R242, R250, R251, R256, R261, R263). -/

namespace Sys2Proof.Machine

/-- No eligible command of a table was issued before an order, as the engines check it (R244). -/
theorem none_precedes {α : Type} {xs : Table α} {eligible : α → Bool} {order : α → Nat} {n : Nat}
    (h : ∀ p ∈ xs, eligible p.2 = true → n ≤ order p.2) : (xs.all fun p => !(eligible p.2 && decide (order p.2 < n))) = true := by
  refine List.all_eq_true.2 fun p hp => ?_
  cases hel : eligible p.2 with
  | false => rfl
  | true => simpa using h p hp hel

/-! ### Copies (R242, R250, R251) -/

/-- COPY_START of an eligible channel that no eligible one precedes (R242). -/
theorem exec_copyStart {s : State} {c chan : Nat} {ch : Channel} (hch : Table.get (core s c).active.sluice chan = some ch)
    (hel : copyEligible s c (core s c).active ch = true)
    (hfirst : ∀ p ∈ (core s c).active.sluice, copyEligible s c (core s c).active p.2 = true → ch.order ≤ p.2.order) :
    exec (.copyStart c chan) s = .next (startCopy s c chan ch) := by
  have hrule : exec (.copyStart c chan) s = execCopyStart c chan s := rfl
  rw [hrule, execCopyStart, hch]
  exact congrArg Host.Outcome.next (if_pos (Bool.and_eq_true_iff.2 ⟨hel, none_precedes hfirst⟩))

section
variable {s : State} {c chan u : Nat} {remote : List Byte} {ch : Channel} {tm : Team}
  (hch : Table.get (core s c).active.sluice chan = some ch) (hteam : teamAt s ⟨c, ch.slot⟩ = some tm)
include hch hteam

section
variable (hstarted : ch.started = true) (hfault : ch.fault = .none) (hunit : u < ch.units') (hnew : u ∉ ch.landed)
  (hmove : enginesMove s c ch.slot = true)
include hstarted hfault hunit hnew hmove

/-- A unit of a started copy with no access in flight moves on (R251). -/
theorem exec_chunkLand_of_none (hacc : unitAccess s (tm.name none) chan u = none) (hhalf : halfSent s c chan = none) :
    exec (.chunkLand c chan u remote) s = .next (moveOn s c chan ch tm u) := by
  have hrule : exec (.chunkLand c chan u remote) s = execChunkLand c chan u remote s := rfl
  rw [hrule, execChunkLand, hch]
  simp [hteam, hstarted, hfault, hunit, hnew, hmove, hacc, hhalf]

/-- One whose access has sent both its packets lands with what the target returned (R251). -/
theorem exec_chunkLand_of_access {a : Access} (hacc : unitAccess s (tm.name none) chan u = some a) (hparts : 2 ≤ a.parts) :
    exec (.chunkLand c chan u remote) s = .next (landUnit (endFabric s a) c chan ch u
      (if a.bytes = [] then (remote ++ List.replicate (ch.unitBytes u) 0).take (ch.unitBytes u) else a.bytes)) := by
  have hrule : exec (.chunkLand c chan u remote) s = execChunkLand c chan u remote s := rfl
  rw [hrule, execChunkLand, hch]
  simp [hteam, hstarted, hfault, hunit, hnew, hmove, hacc, Nat.not_lt.2 hparts, fitBytes]

end

/-- COPY_COMPLETE of a copy whose units have all landed (R250). -/
theorem exec_copyComplete_of_landed (hfault : ch.fault = .none) (hstarted : ch.started = true) (hall : ch.landed.length = ch.units')
    (hmove : enginesMove s c ch.slot = true) : exec (.copyComplete c chan) s = .next (endCopy s c chan ch tm) := by
  have hrule : exec (.copyComplete c chan) s = execCopyComplete c chan s := rfl
  rw [hrule, execCopyComplete, hch]
  simp [hteam, hfault, hstarted, hall, hmove]

/-- COPY_COMPLETE of one that was killed (R251). -/
theorem exec_copyComplete_of_killed {cause : Byte} {off : Nat} (hfault : ch.fault = .killed cause off) :
    exec (.copyComplete c chan) s = .next (endKilled s c chan ch tm cause off) := by
  have hrule : exec (.copyComplete c chan) s = execCopyComplete c chan s := rfl
  rw [hrule, execCopyComplete, hch]
  simp [hteam, hfault]

end

/-- A unit that has not walked to the weight store walks (R251). -/
theorem moveOn_of_not_walked {s : State} {c chan u : Nat} {ch : Channel} {tm : Team} (h : ∀ y ∈ ch.walked, y.unit ≠ u) :
    moveOn s c chan ch tm u = walkUnit s c chan ch tm u := by
  have hnone : (ch.walked.find? fun y => y.unit == u) = none := List.find?_eq_none.2 (by simpa using h)
  rw [moveOn, hnone]

/-- One that has walked to the weight store moves its next block (R251). -/
theorem moveOn_of_walked {s : State} {c chan u : Nat} {ch : Channel} {tm : Team} {y : Walked}
    (h : (ch.walked.find? fun y => y.unit == u) = some y) :
    moveOn s c chan ch tm u = moveBlocks s c chan ch tm u y.die y.wa (ch.writes tm u) := by
  rw [moveOn, h]

/-! ### The array (R256, R261) -/

/-- Main memory and the active banks are the same in two states. -/
structure SameBanks (s t : State) : Prop where
  mem : t.mem = s.mem
  banks : ∀ c, (core t c).active = (core s c).active

theorem SameBanks.refl (s : State) : SameBanks s s := ⟨rfl, fun _ => rfl⟩

theorem SameBanks.trans {s t u : State} (h : SameBanks s t) (k : SameBanks t u) : SameBanks s u :=
  ⟨k.mem.trans h.mem, fun c => (k.banks c).trans (h.banks c)⟩

/-- A change of a core that leaves its active bank. -/
theorem SameBanks.modCore (s : State) (c : Nat) {f : Core → Core} (hf : ∀ k, (f k).active = k.active) : SameBanks s (modCore s c f) := by
  refine ⟨rfl, fun c' => ?_⟩
  rw [core_modCore]
  split
  next h => rw [hf, h]
  · rfl

/-- A unit that takes a world's work (R426). -/
theorem sameBanks_takeUnit (s : State) (c slot unit : Nat) : SameBanks s (takeUnit s c slot unit) := by
  unfold takeUnit
  split
  · exact .refl s
  · exact .modCore _ _ fun _ => rfl

/-- Bytes of a tile touched (R213). -/
theorem sameBanks_touchTile (s : State) (t : TeamId) (n off size : Nat) : SameBanks s (touchTile s t n off size) := by
  unfold touchTile touchTiles touchArea touchSegments
  split
  · exact .refl s
  · split
    · exact .refl s
    · exact .modCore _ _ fun _ => rfl

/-- The tiles of an array command touched (R213). -/
theorem sameBanks_touchArray (s : State) (c : Nat) (a : ArrayCmd) : SameBanks s (touchArray s c a) := by
  have hfold (f : State → Nat → State) (hf : ∀ s n, SameBanks s (f s n)) (ns : List Nat) (s : State) : SameBanks s (ns.foldl f s) := by
    induction ns generalizing s with
    | nil => exact .refl s
    | cons n ns ih => exact (hf s n).trans (ih _)
  exact hfold _ (fun s n => sameBanks_touchTile ..) _ s

/-- A bank changed is the changed one where its restored teams wait for nothing. -/
theorem active_modBank {s : State} {c : Nat} {f : Bank → Bank} (hre : (f (core s c).active).reissue = [])
    (hco : (f (core s c).active).copies = []) : (core (modBank s c f) c).active = f (core s c).active := by
  rw [modBank, core_modCore, if_pos rfl]
  exact if_pos ⟨hre, hco⟩

/-- A change of a team leaves the array of its core. -/
theorem array_modTeam (s : State) (t : TeamId) (f : Team → Team) :
    (core (modTeam s t f) t.core).active.array = (core s t.core).active.array ∧
      (core (modTeam s t f) t.core).active.running = (core s t.core).active.running := by
  unfold modTeam
  split
  · exact ⟨rfl, rfl⟩
  · simp [putTeam, core_modCore]

/-- An array command as it starts, an MMAT with its slots as they stand (R256). -/
def ArrayCmd.begun (a : ArrayCmd) (now : DWord) (b : Bank) : ArrayCmd :=
  { a with started := true, since := now, slots := if a.kind = .mmat then (acwSlots a.acw).map b.slot else [] }

/-- The array taken by the command of an entry (R261). -/
def takeArray (s : State) (c e : Nat) (a : ArrayCmd) : State :=
  modBank (touchArray (takeUnit s c a.slot 0) c a) c fun b =>
    { b with array := Table.put b.array e (a.begun s.clock (core s c).active), running := some e }

/-- An array that has been taken runs the command, in a bank whose restored teams wait for nothing. -/
theorem takeArray_runs {s : State} {c : Nat} (hre : (core s c).active.reissue = []) (hco : (core s c).active.copies = []) (e : Nat)
    (a : ArrayCmd) : Table.get (core (takeArray s c e a) c).active.array e = some (a.begun s.clock (core s c).active) ∧
      (core (takeArray s c e a) c).active.running = some e ∧ (takeArray s c e a).mem = s.mem := by
  obtain ⟨hmem, hbanks⟩ := (sameBanks_takeUnit s c a.slot 0).trans (sameBanks_touchArray _ c a)
  have hactive := active_modBank (s := touchArray (takeUnit s c a.slot 0) c a) (c := c)
    (f := fun b => { b with array := Table.put b.array e (a.begun s.clock (core s c).active), running := some e })
    ((congrArg Bank.reissue (hbanks c)).trans hre) ((congrArg Bank.copies (hbanks c)).trans hco)
  rw [takeArray, hactive]
  exact ⟨Table.get_put_self .., rfl, hmem⟩

/-- A command that has started: an ACCST claims the chunks of its tile too (R242, R256). -/
def startArray (s : State) (c e : Nat) (a : ArrayCmd) : State :=
  match a.kind with
  | .accst fmt => modTeam (takeArray s c e a) ⟨c, a.slot⟩ fun tm =>
      tm.modTile a.tile fun x => x.claimChunks a.arg.toNat (accstChunks fmt)
  | .mmat | .mmad | .mmaz => takeArray s c e a

/-- It runs in the array, whichever it is. -/
theorem startArray_runs {s : State} {c : Nat} (hre : (core s c).active.reissue = []) (hco : (core s c).active.copies = []) (e : Nat)
    (a : ArrayCmd) : Table.get (core (startArray s c e a) c).active.array e = some (a.begun s.clock (core s c).active) ∧
      (core (startArray s c e a) c).active.running = some e ∧ (startArray s c e a).mem = s.mem := by
  obtain ⟨hget, hrun, hmem⟩ := takeArray_runs hre hco e a
  unfold startArray
  split
  next fmt _ =>
    obtain ⟨harray, hrunning⟩ := array_modTeam (takeArray s c e a) ⟨c, a.slot⟩ fun tm =>
      tm.modTile a.tile fun x => x.claimChunks a.arg.toNat (accstChunks fmt)
    exact ⟨(congrArg (Table.get · e) harray).trans hget, hrunning.trans hrun, (modTeam_mem ..).trans hmem⟩
  all_goals exact ⟨hget, hrun, hmem⟩

/-- ARRAY_START of an eligible command that no eligible one precedes (R244, R261). -/
theorem exec_arrayStart {s : State} {c e : Nat} {a : ArrayCmd} (ha : Table.get (core s c).active.array e = some a)
    (hfree : arrayFree s c (core s c).active = true) (hel : arrayEligible s c (core s c).active a = true)
    (hfirst : ∀ p ∈ (core s c).active.array, arrayEligible s c (core s c).active p.2 = true → a.order ≤ p.2.order) :
    exec (.arrayStart c e) s = .next (startArray s c e a) := by
  have hrule : exec (.arrayStart c e) s = execArrayStart c e s := rfl
  rw [hrule, execArrayStart, ha]
  exact congrArg Host.Outcome.next (if_pos (Bool.and_eq_true_iff.2 ⟨Bool.and_eq_true_iff.2 ⟨hfree, hel⟩, none_precedes hfirst⟩))

/-- ARRAY_RESULT for the command that started first, 16 cycles after its occupancy (R261). -/
theorem exec_arrayResult {s : State} {c e : Nat} {a : ArrayCmd} {tm : Team} (hold : (core s c).active.oldest = some (e, a))
    (hteam : teamAt s ⟨c, a.slot⟩ = some tm) :
    exec (.arrayResult c) s = .next (if occupancy tm a + 16 ≤ (s.clock - a.since).toNat
      then modBank (touchArray (modTeam s ⟨c, a.slot⟩ fun x => arrayResult x a) c a) c fun b => b.endArray e a else s) := by
  have hrule : exec (.arrayResult c) s = execArrayResult c s := rfl
  rw [hrule, execArrayResult, hold]
  simp only [hteam]
  rfl

/-! ### TEMPTY (R263) -/

/-- TEMPTY_EFFECT of an eligible TEMPTY (R263). -/
theorem exec_temptyEffect {s : State} {c n : Nat} {e : EmptyCmd} (hfind : ((core s c).active.tempties.find? fun x => x.order == n) = some e)
    (hel : emptyEligible s c (core s c).active e = true) :
    let u := modBank s c fun b => { b with tempties := b.tempties.filter fun x => x.order != n }
    exec (.temptyEffect c n) s = .next (if objSlot e.object
      then modBank u c fun b => b.modSlot (objIndex e.object) fun _ => WSlot.empty
      else modTeam u ⟨c, e.slot⟩ fun x => x.modTile (objIndex e.object) fun _ => Tile.empty) := by
  have hrule : exec (.temptyEffect c n) s = execTemptyEffect c n s := rfl
  rw [hrule, execTemptyEffect, hfind]
  exact congrArg Host.Outcome.next (if_pos hel)

end Sys2Proof.Machine
end

section
/-! CLAIM. Times tick, engines start, land and complete, and a team that is over leaves its core (R213, R240 to R263, R278, R301, R362,
R369). -/

namespace Sys2Proof.Machine

/-- BARRIER_CONTRIBUTION of a contribution in flight (R278). -/
theorem exec_barrierContribution {s : State} {n : Nat} {p : Pledge} (h : s.pledges[n]? = some p) :
    exec (.barrierContribution n) s = .next (contributeTo { s with pledges := s.pledges.eraseIdx n } p.launch p.gang p.gteam p.bar
      p.arrivals p.bytes p.ts) := by
  have hrule : exec (.barrierContribution n) s = execBarrierContribution n s := rfl
  rw [hrule, execBarrierContribution, h]

/-- TEAM_END of a team that may end (R240). -/
theorem exec_teamEnd {s : State} {t : TeamId} {tm : Team} (hteam : teamAt s t = some tm) (hmay : teamMayEnd s t tm = true) :
    exec (.teamEnd t) s = .next (endTeam s t tm) := by
  have hrule : exec (.teamEnd t) s = execTeamEnd t s := rfl
  rw [hrule, execTeamEnd, hteam]
  exact congrArg Host.Outcome.next (if_pos hmay)

/-- Settles O54, an event at a time. -/
theorem timeAndEngineEvents : Obligations.TimeAndEngineEvents := by
  refine ⟨?_, ?_, ?_, ?_, ?_, ?_, ?_, ?_, ?_, ?_, ?_, ?_⟩
  · exact fun s c => ⟨exec_ctTick_of_stood, exec_ctTick_of_recent⟩
  · exact fun s c seg => exec_drowsy
  · intro s bank hbank hfull
    obtain ⟨hpos, hle, hedge⟩ := untilRefresh_edge (s := s) hbank
    have hwall : (passCycles s (untilRefresh s bank)).wall = s.wall + untilRefresh s bank := by simp [passCycles, hfull]
    refine ⟨_, exec_refresh hbank hfull, ⟨_, rfl⟩, ?_, ?_, ?_⟩ <;> rw [hwall]
    · omega
    · omega
    · exact hedge
  · intro s n w hw now
    exact ⟨exec_combinerDrain hw, withOlder_sublist .., mem_withOlder_of_hit (List.mem_of_getElem? hw) rfl (beq_self_eq_true w),
      fun x => who_of_mem_withOlder _ _, fun i x y xs => mem_withOlder_of_touches, withOlder_alone⟩
  · exact fun s c chan ch => exec_copyStart
  · intro s c chan u remote ch tm hch hteam hstarted hfault hunit hnew hmove
    refine ⟨fun hacc hhalf => ?_, fun a => exec_chunkLand_of_access hch hteam hstarted hfault hunit hnew hmove⟩
    have hexec := exec_chunkLand_of_none (remote := remote) hch hteam hstarted hfault hunit hnew hmove hacc hhalf
    exact ⟨fun hwalk => by rw [hexec, moveOn_of_not_walked hwalk], fun y hy => by rw [hexec, moveOn_of_walked hy]⟩
  · intro s c chan ch tm hch hteam
    exact ⟨exec_copyComplete_of_landed hch hteam, fun _ _ => exec_copyComplete_of_killed hch hteam⟩
  · intro s c e a ha hfree hel hfirst hre hco
    obtain ⟨hget, hrun, hmem⟩ := startArray_runs hre hco e a
    exact ⟨_, _, exec_arrayStart ha hfree hel hfirst, hget, rfl, rfl, hrun, hmem⟩
  · intro s c e a tm hold hteam
    rw [exec_arrayResult hold hteam]
    exact ⟨fun hdue => congrArg _ (if_pos hdue), fun hearly => congrArg _ (if_neg (Nat.not_le.2 hearly))⟩
  · intro s c n e hfind hel u
    have hexec := exec_temptyEffect hfind hel
    exact ⟨fun hslot => hexec.trans (congrArg _ (if_pos hslot)),
      fun htile => hexec.trans (congrArg _ (if_neg (Bool.eq_false_iff.1 htile)))⟩
  · exact fun s n p => exec_barrierContribution
  · exact fun s t tm => exec_teamEnd

end Sys2Proof.Machine
end

section
/-! CLAIM. A queue's tail and its next record, which begins a launch or is refused (R307 to R310). -/

namespace Sys2Proof.Machine

/-! ### Tails (R307) -/

/-- LQTAIL of a function that may reach the queue, on a READY package: the tail is refused where its records do not fit (R307). -/
theorem exec_lqtail {s : State} {fn q : Nat} {x : Word} (hstage : s.service.stage = 5) (hscrub : s.saltin.scrubbing = none) (hq : q < 256)
    (hhold : queueHold s q = none) (hreach : fn = 0 ∨ functionWorld s fn = (queueView s q).world) : exec (.lqtail fn q x) s = .next (
    if !(queueView s q).valid ∨ (queueView s q).src ∨ (queueView s q).slots < (x - (queueView s q).tail).toNat + (queueView s q).used
    then setQueueErr s q
    else putTail (stampRecords s q ((List.range (x - (queueView s q).tail).toNat).map fun k =>
      ((queueView s q).tail.toNat + k) % 2 ^ 32) s.hl) q x) := by
  have hworld : reachesWorld s fn (queueView s q).world = true := by simpa [reachesWorld] using hreach
  have hgo : ¬ (!hostWrites s ∨ 256 ≤ q ∨ (queueHold s q).isSome ∨ !reachesWorld s fn (queueView s q).world) := by
    simp [hostWrites, hstage, hscrub, hq, hhold, hworld]
  exact congrArg Host.Outcome.next (if_neg hgo)

/-! ### What a record that becomes current leaves (R310, R438) -/

/-- The launches and the launch count are the same in two states. -/
structure SameLaunches (s t : State) : Prop where
  launches : t.launches = s.launches
  launchCount : t.launchCount = s.launchCount

theorem SameLaunches.refl (s : State) : SameLaunches s s := ⟨rfl, rfl⟩

theorem SameLaunches.trans {s t u : State} (h : SameLaunches s t) (k : SameLaunches t u) : SameLaunches s u :=
  ⟨k.launches.trans h.launches, k.launchCount.trans h.launchCount⟩

/-- A structure in memory written (R329). -/
theorem sameLaunches_writeDevice (s : State) (pa key : Nat) (bs : List Byte) : SameLaunches s (writeDevice s pa key bs) := by
  unfold writeDevice
  split
  · obtain ⟨m, k, hkeyed⟩ := rekeyed_writeKeyed s key pa bs
    rw [hkeyed]
    exact ⟨rfl, rfl⟩
  · split
    · exact ⟨rfl, rfl⟩
    · exact .refl s

/-- The debug slots of a record bound (R438). -/
theorem sameLaunches_bindSlots (s : State) (q world n launch : Nat) : SameLaunches s (bindSlots s q world n launch) := by
  have hfold (f : State → Nat × DebugSlot → State) (hf : ∀ s p, SameLaunches s (f s p)) (ps : Table DebugSlot) (s : State) :
      SameLaunches s (ps.foldl f s) := by
    induction ps generalizing s with
    | nil => exact .refl s
    | cons p ps ih => exact (hf s p).trans (ih _)
  refine hfold _ (fun s p => ?_) _ s
  dsimp only
  split
  · exact .refl s
  · exact ⟨rfl, rfl⟩

/-- A queue's record n taken as current under the next %launch value: its STATUS 0, its number past, its debug slots bound (R310, R438). -/
def takeRecord (s : State) (q n : Nat) : State :=
  let v := queueView s q
  let id := nextLaunch s
  let u := writeStatus { s with launchCount := id + 1 } (v.slotPa n) (worldKey s v.world) 0 0 id.toNat
  bindSlots { u with queues := Table.put u.queues q ((launchQueue s q).take n) } q v.world n id.toNat

theorem takeRecord_leaves (s : State) (q n : Nat) :
    (takeRecord s q n).launchCount = nextLaunch s + 1 ∧ (takeRecord s q n).launches = s.launches := by
  unfold takeRecord writeStatus
  exact ⟨(sameLaunches_bindSlots ..).launchCount.trans (sameLaunches_writeDevice ..).launchCount,
    (sameLaunches_bindSlots ..).launches.trans (sameLaunches_writeDevice ..).launches⟩

/-! ### The record checked (R310) -/

/-- RECORD_CURRENT takes the queue's next record and checks it (R308, R310). -/
theorem exec_recordCurrent {s : State} {q n : Nat} {ns : List Nat} (hhold : queueHold s q = none) (hvalid : (queueView s q).valid = true)
    (hnone : ∀ l ∈ s.launches, l.queue = some q → l.current = false) (hwait : waitingRecords s q = n :: ns)
    (hslot : slotHold s q n false = none)
    (hanswers : recordWaits s (nextLaunch s).toNat (queueView s q).world (queueRecord s q n) = false) : exec (.recordCurrent q) s = .next (
    match checkRecord (takeRecord s q n) (nextLaunch s).toNat (queueView s q).world (queueRecord s q n) false with
    | .error reason => refuseRecord (takeRecord s q n) q n (nextLaunch s).toNat reason (queueRecord s q n)
    | .ok (ds, code) => beginLaunch (takeRecord s q n) q n (nextLaunch s).toNat (queueRecord s q n) ds code
        (Table.get (launchQueue s q).stamps n)) := by
  have hrule : exec (.recordCurrent q) s = execRecordCurrent q s := rfl
  have hcur : hasCurrent s q = false := by simpa [hasCurrent] using hnone
  rw [hrule, execRecordCurrent]
  simp only [hhold, hvalid, hcur, hwait, hslot, hanswers, Option.isSome_none, Bool.not_true, Bool.or_self, Bool.false_eq_true,
    if_false]
  rfl

/-- What the re-examination of its waits leaves of a launch (R312). -/
theorem noteLaunch_leaves (s : State) (l : Launch) : ∃ since total wait,
    noteLaunch s l = { l with eligibleSince := since, eligibleFor := total, loaderWait := wait } := by
  unfold noteLaunch
  split
  · exact ⟨_, _, _, rfl⟩
  · split
    · exact ⟨_, _, _, rfl⟩
    · exact ⟨_, _, _, rfl⟩

/-- A launch begun stands behind the others, with nothing placed (R310). -/
theorem beginLaunch_adds (s : State) (q n id : Nat) (ws : List DWord) (ds : List TeamDecl) (code : List Word) (seen : Option Word) :
    (beginLaunch s q n id ws ds code seen).launches.map Launch.id = s.launches.map Launch.id ++ [id] ∧
      ∃ l ∈ (beginLaunch s q n id ws ds code seen).launches, l.id = id ∧ l.queue = some q ∧ l.number = n ∧ l.words = ws ∧ l.decls = ds ∧
        l.code = code ∧ l.placed = 0 ∧ l.done = false ∧ l.world = (queueView s q).world := by
  have hid (u : State) (l : Launch) : (noteLaunch u l).id = l.id := by
    obtain ⟨_, _, _, h⟩ := noteLaunch_leaves u l
    rw [h]
  refine ⟨by simp [beginLaunch, noteWaits, hid], _, List.mem_map_of_mem (List.mem_append_right _ List.mem_cons_self), ?_⟩
  obtain ⟨_, _, _, h⟩ := noteLaunch_leaves _ _
  rw [h]
  exact ⟨rfl, rfl, rfl, rfl, rfl, rfl, rfl, rfl, rfl⟩

end Sys2Proof.Machine
end

section
/-! CLAIM. Gangs placed, brought in over lower ones, and saved; launches that have waited or are over (R218, R219, R313 to R319, R325). -/

namespace Sys2Proof.Machine

/-! ### Placing and pre-emption (R313, R318) -/

/-- PLACE_GANG of the first candidate that fits (R314). -/
theorem exec_placeGang_of_some {s : State} {p : Nat} {c : Candidate} {ts : List TeamId}
    (h : firstPlaced s (candidates s) = some (p, c, ts)) :
    exec .placeGang s = .next (countPasses s (placeAt s p c ts) c.placed) := by
  have hrule : exec .placeGang s = execPlaceGang s := rfl
  rw [hrule, execPlaceGang, h]

/-- With no such candidate nothing is placed. -/
theorem exec_placeGang_of_none {s : State} (h : firstPlaced s (candidates s) = none) : exec .placeGang s = .next s := by
  have hrule : exec .placeGang s = execPlaceGang s := rfl
  rw [hrule, execPlaceGang, h]

/-- PREEMPT for the first candidate for which gangs may be displaced (R318). -/
theorem exec_preempt {s : State} {p : Nat} {c : Candidate} {cs : List Nat} (h : firstDisplacing s (candidates s) = some (p, c, cs)) :
    exec .preempt s = .next (countPasses s (enrol s p c (cs.map fun c => ⟨c, 0⟩) .preloaded).1 c.placed) := by
  have hrule : exec .preempt s = execPreempt s := rfl
  rw [hrule, execPreempt, h]

/-- The gang that a candidate becomes is in the state asked for. -/
theorem enrol_state (s : State) (p : Nat) (c : Candidate) (ts : List TeamId) (st : GangState) : (enrol s p c ts st).2.state = st := by
  cases c <;> rfl

/-! ### Bank swaps (R218) -/

section
variable {s : State} {c n : Nat} {g : Gang} (hpre : preloading s c = some (g, n)) (hserves : preloadBarred s c g = false)
  (hout : (core s c).outgoing = none)
include hpre hserves hout

/-- PRELOAD of a member that is not loaded, into a core whose shadow bank is free (R218). -/
theorem exec_preload (hshadow : (core s c).shadow = none) (hnew : memberLoaded s g n = false) :
    exec (.preload c) s = .next (preloadMember s c g n) := by
  have hrule : exec (.preload c) s = execPreload c s := rfl
  rw [hrule, execPreload, hpre]
  simp [hserves, hout, hshadow, hnew]

/-- BANK_SWAP once every member of the gang is preloaded (R218). -/
theorem exec_bankSwap {b : Bank} {l : Launch} (hshadow : (core s c).shadow = some b) (hl : launchOf s g.launch = some l)
    (hall : ∀ k ∈ g.live (widthOf s g.launch), memberLoaded s g k = true) :
    exec (.bankSwap c) s = .next (swapBank s c g l b) := by
  have hrule : exec (.bankSwap c) s = execBankSwap c s := rfl
  have hloaded : (g.live (widthOf s g.launch)).all (memberLoaded s g) = true := List.all_eq_true.2 hall
  rw [hrule, execBankSwap, hshadow, hpre]
  simp [hl, hserves, hout, hloaded]

end

/-! ### Saving (R219, R319) -/

section
variable {s : State} {c slot : Nat} {b : Bank} {tm : Team} (hout : (core s c).outgoing = some b)
  (hnext : (b.teams.find? fun p => leaving s p.2 != .stays) = some (slot, tm))
include hout hnext

/-- SPILL of the next team of an outgoing bank, where it is to be saved (R219, R319). -/
theorem exec_spill_of_saved {block : Nat} (hleave : leaving s tm = .saved block) :
    exec (.spill c) s = .next (spillTeam s c slot b tm block) := by
  have hrule : exec (.spill c) s = execSpill c s := rfl
  rw [hrule, execSpill, hout]
  simp only [hnext, hleave]

/-- SPILL of one that was killed and is over (R332). -/
theorem exec_spill_of_ends (hleave : leaving s tm = .ends) : exec (.spill c) s = .next (endOutgoing s c slot b tm) := by
  have hrule : exec (.spill c) s = execSpill c s := rfl
  rw [hrule, execSpill, hout]
  simp only [hnext, hleave]

end

/-- EXTRACT of a stopped gang (R319). -/
theorem exec_extract {s : State} {launch gang : Nat} {g : Gang} (hgang : gangOf s launch gang = some g)
    (hstopped : g.state = .stopping ∨ g.state = .outgoing) :
    exec (.extract launch gang) s = .next
      (settleGang ((g.live (widthOf s launch)).foldl (fun u n => extractMember u launch gang n) s) launch gang) := by
  have hrule : exec (.extract launch gang) s = execExtract launch gang s := rfl
  rw [hrule, execExtract, hgang]
  exact congrArg Host.Outcome.next (if_pos hstopped)

/-! ### What has waited (R313, R316) -/

/-- A launch changed is found under its number. -/
theorem launchOf_modLaunch {s : State} {id : Nat} {l : Launch} (h : launchOf s id = some l) {f : Launch → Launch}
    (hf : ∀ x, (f x).id = x.id) : launchOf (modLaunch s id f) id = some (f l) :=
  find?_map_replace (p := fun l : Launch => l.id == id) (fun x hx => by rw [hf]; exact hx) h

section
variable {s : State} {launch t0 : Nat} {l : Launch} (hl : launchOf s launch = some l) (hcur : l.current = true)
include hl hcur

/-- PRIORITY_AGING of a record that has been eligible for 1 ms (R313). -/
theorem priorityAging_ages (hsince : l.eligibleSince = some t0) (hel : eligible s l = true)
    (hlong : 1050000 ≤ l.eligibleFor + (s.wall - t0)) :
    ∃ t, exec (.priorityAging launch) s = .next t ∧ launchOf t launch = some { l with aged := true } ∧ t.cores = s.cores := by
  refine ⟨_, rfl, ?_, rfl⟩
  rw [launchOf_modLaunch hl]
  · simp [hsince, hcur, hel, millisecond, hlong]
  · intro x
    split
    · rfl
    · split <;> rfl

/-- LOADER_WAIT_EXPIRY of a loader whose first gang has waited 10 ms (R316). -/
theorem loaderWaitExpiry_expires (hsince : l.loaderWait = some t0) (hfirst : l.placed = 0) (hlong : 10500000 ≤ s.wall - t0) :
    ∃ t, exec (.loaderWaitExpiry launch) s = .next t ∧ launchOf t launch = some { l with loaderOver := true } ∧ t.cores = s.cores := by
  refine ⟨_, rfl, ?_, rfl⟩
  rw [launchOf_modLaunch hl]
  · simp [hsince, hcur, hfirst, millisecond, hlong]
  · intro x
    split
    · rfl
    · split <;> rfl

end

/-! ### The end of a launch (R325) -/

/-- LAUNCH_COMPLETE of a launch that is not done (R325, R326). -/
theorem exec_launchComplete {s : State} {launch : Nat} {l : Launch} (hl : launchOf s launch = some l) (hdone : l.done = false) :
    exec (.launchComplete launch) s = .next (
      if gangsOver s l && accessesOver s l && !completeHeld s l then completeLaunch s l else s) := by
  have hrule : exec (.launchComplete launch) s = execLaunchComplete launch s := rfl
  rw [hrule, execLaunchComplete, hl]
  simp [hdone]

end Sys2Proof.Machine
end

section
/-! CLAIM. The distributor's events (R218, R219, R307 to R325, R412). -/

namespace Sys2Proof.Machine

/-! ### Handlers (R412, R413) -/

section
variable {s : State} {p : Packet} {ps : List Packet} {h marks : Nat} (hfirst : s.messages = p :: ps) (hkind : p.kind = .message h marks)
include hfirst hkind

/-- HANDLER_CREATE of the oldest message, refused with a reason (R413). -/
theorem exec_handlerCreate_of_refused {r : Byte} (hlaunch : handlerLaunch s p h = .error (.refused r)) :
    exec .handlerCreate s = .next (refusePacket (popMessage s) p (.noHandler r h)) := by
  have hrule : exec .handlerCreate s = execHandlerCreate s := rfl
  rw [hrule, execHandlerCreate, hfirst]
  simp only [hkind, hlaunch]

/-- One whose table or template does not answer now waits. -/
theorem exec_handlerCreate_of_waits (hlaunch : handlerLaunch s p h = .error .waits) : exec .handlerCreate s = .next s := by
  have hrule : exec .handlerCreate s = execHandlerCreate s := rfl
  rw [hrule, execHandlerCreate, hfirst]
  simp only [hkind, hlaunch]

/-- A handler's team created where it may be placed and fits (R412). -/
theorem exec_handlerCreate_of_fit {l : Launch} {frame : Nat} {t : TeamId} (hlaunch : handlerLaunch s p h = .ok l)
    (hruns : worldRuns s l.world = true) (hel : eligible s l = true) (hpass : passedOver s l.prio l.id false = false)
    (hloads : loaderWaits s l = false) (hframe : frameFor s l = some frame)
    (hfit : bestFit { s with loaderHandler := none } l true l.decls = some [t]) :
    exec .handlerCreate s = .next (countPasses s (createHandler s p l t frame) l.id) := by
  have hrule : exec .handlerCreate s = execHandlerCreate s := rfl
  rw [hrule, execHandlerCreate]
  rw [hfirst] at hfit ⊢
  simp [hkind, hlaunch, hruns, hel, hpass, hloads, hframe, hfit]

end

/-- Settles O55, an event at a time. -/
theorem distributorEvents : Obligations.DistributorEvents := by
  refine ⟨?_, ?_, ?_, ?_, ?_, ?_, ?_, ?_, ?_⟩
  · intro s fn q x hstage hscrub hq hhold hreach
    rw [exec_lqtail hstage hscrub hq hhold hreach]
    refine ⟨fun hvalid hsrc hfits => ?_, fun hbad => ?_⟩
    · rw [if_neg]
      rw [not_or, not_or]
      exact ⟨by simp [hvalid], by simp [hsrc], Nat.not_lt.2 hfits⟩
    · rw [if_pos (by simpa using hbad)]
  · intro s q n ns hhold hvalid hnone hwait id ws hslot hanswers
    obtain ⟨hcount, hlaunches⟩ := takeRecord_leaves s q n
    have hexec := exec_recordCurrent hhold hvalid hnone hwait hslot hanswers
    refine ⟨takeRecord s q n, hcount, hlaunches, fun r hbad => ?_, fun ds code hgood => ?_⟩
    · rw [hexec, hbad]
    · rw [hgood] at hexec
      obtain ⟨hids, l, hl, hleaves⟩ := beginLaunch_adds (takeRecord s q n) q n id.toNat ws ds code (Table.get (launchQueue s q).stamps n)
      rw [hlaunches] at hids
      exact ⟨_, l, hexec, hids, hl, hleaves⟩
  · exact fun s => ⟨fun p c ts => exec_placeGang_of_some, exec_placeGang_of_none,
      fun p c cs hc => ⟨_, exec_preempt hc, rfl, enrol_state ..⟩⟩
  · intro s c g n hpre hserves
    exact ⟨fun hshadow hout => exec_preload hpre hserves hout hshadow,
      fun b l hshadow hout => exec_bankSwap hpre hserves hout hshadow⟩
  · intro s c slot b tm hout hnext
    exact ⟨fun block => exec_spill_of_saved hout hnext, exec_spill_of_ends hout hnext⟩
  · exact fun s launch gang g => exec_extract
  · intro s launch l t0 hl hcur
    exact ⟨priorityAging_ages hl hcur, loaderWaitExpiry_expires hl hcur⟩
  · intro s launch l hl hdone
    rw [exec_launchComplete hl hdone]
    refine ⟨fun hgangs haccesses hheld => congrArg _ (if_pos (by simp [hgangs, haccesses, hheld])), fun hnot => congrArg _ (if_neg ?_)⟩
    rcases hnot with hnot | hnot | hnot <;> simp [hnot]
  · intro s p ps h marks hfirst hkind
    exact ⟨fun r => exec_handlerCreate_of_refused hfirst hkind, exec_handlerCreate_of_waits hfirst hkind,
      fun l frame t => exec_handlerCreate_of_fit hfirst hkind⟩

end Sys2Proof.Machine
end

section
/-! CLAIM. QLD issued by a compute strand while the address slice of its team awaits a register (R209, R228). -/

namespace Sys2Proof.Machine

/-- A compute strand of a team whose queue 0 is LANE, while the team's address slice has a load in flight that is to write its register 0. -/
def besidePendingLoad : State :=
  let s := modTeam (placeProgram State.reset false []) ⟨0, 0⟩ fun tm =>
    { tm with decl := { tm.decl with queues := tm.decl.queues.set 0 ⟨.lane, .first, false, 1⟩ } }
  let load : MemOp := { kind := .load, size := 4, need := permR, align := 4, sink := .reg 0 }
  (accept s ⟨1, 0, 0, none⟩ 0 0 0 4 load ⟨.scratch 0 0, permR, 0, 0, {}, [], []⟩ 0 0 [] 32).1

/-- QLD of queue 0 with A2 the literal 2, a misaligned offset, and its stride in register 0. -/
def misalignedQld : Instr := .qld (.queue 0) (.lit 2) (.reg 0) 0

/-- The form of that QLD. -/
def misalignedQldForm : Form := (form3 true (.queue 0) .w32 (.lit 2) .w64 (.reg 0) .w32).as .none

/-- The strand itself gathers the operands, none of its own registers being pending; the queue is of QLD's kind, and no LDL is in flight. -/
theorem gathers_besidePendingLoad : ∃ tm sl, Gathers besidePendingLoad misalignedQldForm (.ok ()) tm sl ⟨0, 2, 0, []⟩ ∧
    (tm.queueDecl false 0).kind = .lane ∧ labelPending besidePendingLoad (tm.name none) 0 = false := by
  have hany : (sliceAt besidePendingLoad besidePendingLoad.cur).any (fun p => decide (
      gather besidePendingLoad besidePendingLoad.cur.strand p.1 p.2 misalignedQldForm (.ok ()) = .ok ⟨0, 2, 0, []⟩ ∧
      (p.1.queueDecl false 0).kind = .lane ∧ labelPending besidePendingLoad (p.1.name none) 0 = false)) = true := by decide +kernel
  obtain ⟨⟨tm, sl⟩, hat, hp⟩ := (Option.any_eq_true ..).1 hany
  obtain ⟨hgather, hkind, hlabel⟩ := of_decide_eq_true hp
  exact ⟨tm, sl, ⟨hat, hgather⟩, hkind, hlabel⟩

/-- Its QLD waits for the address slice's register 0, and the strand stays RUNNABLE. -/
theorem exec_misalignedQld_besidePendingLoad :
    goesOnRunnable besidePendingLoad (exec misalignedQld besidePendingLoad) = true := by decide +kernel

/-- A slice that has taken a trap is not RUNNABLE (R100). -/
theorem not_goesOnRunnable_trapSlice {s : State} {tm : Team} {sl : Slice} (hat : sliceAt s s.cur = some (tm, sl)) (t : TrapInfo) :
    goesOnRunnable s (.next (trapSlice s s.cur t)) = false := by
  rw [goesOnRunnable, sliceAt_trapSlice_self hat]
  rfl

/-- Refutes O49: nothing in the statement keeps the slice that issues from being a compute strand. A queue load's own check waits for the
pending registers of the team's address slice, and the gathering that the statement presupposes for those of the slice that issues. A
strand's QLD with a misaligned offset waits for the address slice's register 0, where the statement has it trap. -/
theorem not_queueLoadsAndLabels : ¬ Obligations.QueueLoadsAndLabels := by
  intro h
  obtain ⟨tm, sl, hg, hkind, hlabel⟩ := gathers_besidePendingLoad
  have htraps := (h.1 misalignedQld true 0 (.lit 2) (.reg 0) 0 besidePendingLoad tm sl _ (.inl ⟨rfl, rfl⟩) hg hkind hlabel).1
  have hwaits := exec_misalignedQld_besidePendingLoad
  rw [htraps nofun (.inl (by decide)), not_goesOnRunnable_trapSlice hg.1] at hwaits
  exact absurd hwaits (by decide)

end Sys2Proof.Machine
end

section
/-! CLAIM. The state after reset (R382, R402, R438, R449), fences (R286, R373) and barriers (R277, R278, R280, R282, R283). -/

namespace Sys2Proof.Machine

/-! ### After reset -/

/-- Settles O9: every field is the one that `State.reset` gives, and no debug slot is listed, so each stands idle. -/
theorem resetState : Obligations.ResetState :=
  ⟨rfl, rfl, rfl, rfl, rfl, rfl, rfl, rfl, rfl, rfl, rfl, rfl, rfl,
    fun n => show field (listGetD DebugSlot.idle.d 1 0) 31 28 = 15 by decide, by decide⟩

/-! ### Fences -/

theorem heldByLoads_ok {team : Bool} {tm : Team} (h : team = true → loadsPending tm = false) : heldByLoads team tm = .ok () := by
  cases team with
  | false => rfl
  | true => simp [heldByLoads, stopIf, h rfl]

theorem fenceWaits_iff (a : Access) (w : SliceName) (m : Scp) : fenceWaits a w m = true ↔ InScope a w m := by
  refine ⟨fun h => Classical.byContradiction fun hn => ?_, fun ⟨hwho, hchannel, hscope⟩ => ?_⟩
  · rw [fenceWaits_eq_false hn] at h
    exact absurd h (by decide)
  · cases hplace : a.place <;> cases m <;> simp_all [fenceWaits, Place.scope, Place.isLocal]

/-- The combined writes that a test picks reach host memory, oldest first, and the others stay (R369). -/
theorem drainCombiner_of_filter (s : State) (p : Combined → Bool) : drainCombiner s p =
    { s with combiner := s.combiner.filter fun c => !p c
             hostMem := (s.combiner.filter p).foldl (fun h c => Memory.writeBytes h c.pa c.bytes) s.hostMem } :=
  foldl_deliverCombined _ _

/-- The slice's combined writes delivered where the fence is of scope .S. -/
def fenced (s : State) (w : SliceName) (m : Scp) : State := if m = .s then drainCombiner s fun c => c.who == w else s

theorem fenced_leaves (s : State) (w : SliceName) (m : Scp) : (fenced s w m).inflight = s.inflight ∧ (fenced s w m).cur = s.cur := by
  unfold fenced
  split
  · rw [drainCombiner_of_filter]
    exact ⟨rfl, rfl⟩
  · exact ⟨rfl, rfl⟩

theorem fence_of_gathers {s : State} {tm : Team} {sl : Slice} {v : Vals} {team : Bool} (m : Scp)
    (hg : Gathers s (form0 team) (.ok ()) tm sl v) (hloads : team = true → loadsPending tm = false) :
    let w := tm.name s.cur.strand
    fence team m s = .next (
      if s.inflight.any fun a => fenceWaits a w m then waitSlice (fenced s w m) s.cur .memory
      else finishNone v (sl.pc + 4) (fenced s w m)) := by
  obtain ⟨hinflight, hcur⟩ := fenced_leaves s (tm.name s.cur.strand) m
  refine (runOwn_of_gather hg.1 (hg.gather_own (heldByLoads_ok hloads))).trans (congrArg Host.Outcome.next ?_)
  change (if (fenced s _ m).inflight.any _ then waitSlice (fenced s _ m) (fenced s _ m).cur _ else _) = _
  rw [hinflight, hcur]
  rfl

/-- Settles O45: a fence waits exactly while an access of its scope is left, with the slice's combined writes delivered before by .S. -/
theorem fences : Obligations.Fences := by
  intro i m s tm sl v hi hg hloads mine held u
  have hu : fenced s (tm.name s.cur.strand) m = u := by
    unfold fenced
    split
    · next h => exact (drainCombiner_of_filter ..).trans (if_pos h).symm
    · next h => exact (if_neg h).symm
  have hexec : exec i s = fence i.isTeam m s := by
    obtain rfl | rfl := hi <;> rfl
  have hfence := fence_of_gathers m hg hloads
  dsimp only at hfence
  rw [hu] at hfence
  rw [hexec, hfence]
  constructor
  · intro hnone
    rw [if_neg]
    exact Bool.eq_false_iff.1 (List.any_eq_false.2 fun a ha => Bool.eq_false_iff.1 (fenceWaits_eq_false (hnone a ha)))
  · rintro ⟨a, ha, hmine⟩
    rw [if_pos]
    exact List.any_eq_true.2 ⟨a, ha, (fenceWaits_iff ..).2 hmine⟩

/-! ### Barriers -/

/-- Phases complete as often as both counts have been met, and no more: `fuel` bounds how often, since each phase raises the arrivals. -/
theorem completePhases_counts {a : Nat} (ha : 1 ≤ a) (y : Nat) : ∀ (fuel : Nat) (b : Barrier), -b.arem < fuel →
    ∃ n : Nat, (completePhases a y fuel b).phase = b.phase + BitVec.ofNat 32 n ∧
      (completePhases a y fuel b).arem = b.arem + n * a ∧ (completePhases a y fuel b).brem = b.brem + n * y ∧
      (0 < (completePhases a y fuel b).arem ∨ 0 < (completePhases a y fuel b).brem) ∧
      ∀ k : Nat, k < n → b.arem + k * a ≤ 0 ∧ b.brem + k * y ≤ 0
  | 0, b, h => ⟨0, by simp [completePhases], by simp [completePhases], by simp [completePhases], .inl (by simpa [completePhases] using h),
      fun k hk => absurd hk (Nat.not_lt_zero k)⟩
  | fuel + 1, b, h => by
    unfold completePhases
    split
    · next hmet =>
      obtain ⟨n, hphase, harem, hbrem, hleft, hleast⟩ := completePhases_counts ha y fuel
        { phase := b.phase + 1, arem := b.arem + a, brem := b.brem + y, tsNow := none
          tsDone := match b.tsNow with
            | none => b.tsDone
            | some t => foldTime b.tsDone t } (by dsimp only; push_cast at h; omega)
      refine ⟨n + 1, hphase.trans ?_, harem.trans ?_, hbrem.trans ?_, hleft, fun k hk => ?_⟩
      · rw [BitVec.ofNat_add, BitVec.add_assoc, BitVec.add_comm 1]
        rfl
      · push_cast; ring
      · push_cast; ring
      · cases k with
        | zero => simpa using hmet
        | succ k =>
          obtain ⟨h1, h2⟩ := hleast k (by omega)
          dsimp only at h1 h2
          push_cast
          constructor <;> linarith
    · next hunmet =>
      refine ⟨0, by simp, by simp, by simp, ?_, fun k hk => absurd hk (Nat.not_lt_zero k)⟩
      by_contra hno
      exact hunmet (by omega)

/-- Settles O46: the phases that a contribution completes, counted from the counts that it has lowered. -/
theorem barrierCounts : Obligations.BarrierCounts := by
  intro b a y arrivals bytes ts ha
  exact completePhases_counts ha y _ { b with arem := b.arem - arrivals, brem := b.brem - bytes, tsNow := foldTime b.tsNow ts }
    (by dsimp only; omega)

theorem barWordOk_iff (s : State) (tm : Team) (w : Word) : barWordOk s tm w = true ↔
    w.toNat / 128 = 0 ∧ w.toNat / 16 % 8 < widthOf s tm.launch ∧
      1 ≤ (barrierDecl s tm.launch (w.toNat / 16 % 8) (w.toNat % 16)).1 := by
  have hhigh : wfield w 31 7 = 0 ↔ w.toNat / 128 = 0 := by
    have := w.isLt
    unfold wfield
    omega
  have hteam : barTeam w = w.toNat / 16 % 8 := rfl
  have hbar : barNumber w = w.toNat % 16 := by simp [barNumber, wfield]
  simp [barWordOk, hhigh, hteam, hbar, and_assoc]

section
variable {s : State} {f : Form} {tm : Team} {sl : Slice} {w : Word} (k : State)

theorem withBarrier_of_refused (h : barWordOk s tm w = false) : withBarrier s f tm sl w k =
    trapSlice s s.cur { cause := .badOperand, field := 2, next := nextPc sl.pc f.len, info0 := w.setWidth 64 } := by
  simp [withBarrier, h]

theorem withBarrier_of_ok (h : barWordOk s tm w = true) (hends : teamEnded s tm.launch tm.gang (barTeam w) = false) :
    withBarrier s f tm sl w k = k := by
  simp [withBarrier, h, hends]

end

theorem phaseDone_iff (phase p : Word) : phaseDone phase p = true ↔ 1 ≤ (phase - p).toNat ∧ (phase - p).toNat ≤ 2 ^ 31 :=
  decide_eq_true_iff

section
variable {s : State} {tm : Team} {sl : Slice} {v : Vals} {bar : Barrier} {team : Bool} {d : Dst} {a b : Src}

/-- BARV with its operands gathered and its barrier known (R282). -/
theorem barv_of_gathers (hg : Gathers s (form3 team d .w32 a .w32 b .w32) (.ok ()) tm sl v)
    (hbar : barrierAt s tm.launch tm.gang (barTeam (lowWord v.a)) (barNumber (lowWord v.a)) = some bar)
    (hloads : team = true → loadsPending tm = false) :
    barv team d a b s = .next (withBarrier s (form3 team d .w32 a .w32 b .w32) tm sl (lowWord v.a) <|
      if storesPending s (tm.name s.cur.strand) then waitSlice s s.cur .memory
      else finish (form3 team d .w32 a .w32 b .w32) sl v (bar.phase.setWidth 64) 0
        (contributeTo s tm.launch tm.gang (barTeam (lowWord v.a)) (barNumber (lowWord v.a)) 1 (lowWord v.b).toNat
          (core s s.cur.core).ct)) := by
  refine (runOwn_of_gather hg.1 (hg.gather_own (heldByLoads_ok hloads))).trans ?_
  dsimp only
  rw [hbar]
  rfl

/-- BARW of a waiter that the end of its barrier's team let go on (R283, R288). -/
theorem barw_of_passed (hg : Gathers s (formAB team a .w32 b .w32) (.ok ()) tm sl v) {ts : Option Word}
    (hwaits : sl.waits = some (.passed ts)) :
    barw team a b s = .next (finishNone v (nextPc sl.pc (formAB team a .w32 b .w32).len) (mergeStamp s s.cur.core ts)) := by
  refine (run_of_gathers hg _).trans ?_
  simp only [hwaits]

/-- BARW with its operands gathered and its barrier known (R283). -/
theorem barw_of_gathers (hg : Gathers s (formAB team a .w32 b .w32) (.ok ()) tm sl v)
    (hbar : barrierAt s tm.launch tm.gang (barTeam (lowWord v.a)) (barNumber (lowWord v.a)) = some bar)
    (hwaits : ∀ ts, sl.waits ≠ some (.passed ts)) :
    let next := nextPc sl.pc (formAB team a .w32 b .w32).len
    barw team a b s = .next (withBarrier s (formAB team a .w32 b .w32) tm sl (lowWord v.a) <|
      if phaseDone bar.phase (lowWord v.b) then finishNone v next (mergeStamp s s.cur.core bar.tsDone)
      else parkSlice s s.cur (.barrier (lowWord v.a) (lowWord v.b) next)) := by
  refine (run_of_gathers hg _).trans ?_
  dsimp only
  split
  · next ts h => exact absurd h (hwaits ts)
  · rw [hbar]

end

/-- Settles O47: the word's checks, then the stores for BARV and the phase for BARW. -/
theorem barrierInstructions : Obligations.BarrierInstructions := by
  intro i d a b s tm sl v bar f w n k next ok hg hbar
  have hk : barNumber w = k := by simp [barNumber, wfield, k]
  have hok : barWordOk s tm w = true ↔ ok := barWordOk_iff s tm w
  have hbar' : barrierAt s tm.launch tm.gang (barTeam w) (barNumber w) = some bar := by rw [hk]; exact hbar
  have hrefused (h : ¬ ok) : barWordOk s tm w = false := Bool.eq_false_iff.2 fun hw => h (hok.1 hw)
  refine ⟨fun hi hloads => ?_, fun hi ts hwaits => ?_, fun hi hwaits => ?_⟩
  · have hf : f = w3 i d a b := if_pos hi
    have hexec : exec i s = barv i.isTeam d a b s := by obtain rfl | rfl := hi <;> rfl
    rw [hf] at hg
    rw [hexec, barv_of_gathers hg hbar' hloads]
    refine ⟨fun h => ?_, fun h hends => ?_⟩
    · rw [withBarrier_of_refused _ (hrefused h), ← w3, ← hf]
      rfl
    · rw [withBarrier_of_ok _ (hok.2 h) hends, ← w3, ← hf, hk]
      exact ⟨fun h => by rw [if_pos h], fun h => by rw [if_neg (Bool.eq_false_iff.1 h)]; rfl⟩
  · have hf : f = formAB i.isTeam a .w32 b .w32 := if_neg (by rintro (rfl | rfl) <;> simp at hi)
    have hexec : exec i s = barw i.isTeam a b s := by obtain rfl | rfl := hi <;> rfl
    rw [hf] at hg
    rw [hexec, barw_of_passed hg hwaits, ← hf]
    rfl
  · have hf : f = formAB i.isTeam a .w32 b .w32 := if_neg (by rintro (rfl | rfl) <;> simp at hi)
    have hexec : exec i s = barw i.isTeam a b s := by obtain rfl | rfl := hi <;> rfl
    rw [hf] at hg
    rw [hexec, barw_of_gathers hg hbar' hwaits]
    refine ⟨fun h => ?_, fun h hends => ?_⟩
    · rw [withBarrier_of_refused _ (hrefused h), ← hf]
      rfl
    · intro done
      have hdone : phaseDone bar.phase (lowWord v.b) = true ↔ done := phaseDone_iff ..
      rw [withBarrier_of_ok _ (hok.2 h) hends, ← hf]
      exact ⟨fun h => by rw [if_pos (hdone.2 h)]; rfl, fun h => ⟨by rw [if_neg fun hp => h (hdone.1 hp)]; rfl, rfl⟩⟩

end Sys2Proof.Machine
end

section
/-! CLAIM. What leaves the package: accesses charged, counted and sent toward another package (R380, R381, R388, R399, R404), and active
messages (R410, R411). -/

namespace Sys2Proof.Machine

/-! ### The charge (R404, R405) -/

/-- A slice that waits on no entry of its core leaves none. -/
theorem leaveOthers_of_none {s : State} {c : Nat} {p : Waiter → Bool} (h : ∀ y ∈ (core s c).allow, y.2.waiters.any p = false) (e : Nat) :
    leaveOthers s c e p = s := by
  unfold leaveOthers
  generalize (core s c).allow = xs at h
  induction xs with
  | nil => rfl
  | cons x xs ih =>
    rw [List.foldl_cons, h x (List.mem_cons_self ..), Bool.and_false, if_neg Bool.false_ne_true]
    exact ih fun y hy => h y (List.mem_cons_of_mem _ hy)

section
variable {s : State} {id : SliceId} {e : Nat}

/-- An entry with a unit and no waiters pays at once. -/
theorem chargeSlice_pays (hnone : ∀ y ∈ (core s id.core).allow, y.2.waiters.any (Waiter.isSlice id) = false)
    (halw : 1 ≤ (allowAt (core s id.core) e).alw) (hwaiters : (allowAt (core s id.core) e).waiters = []) (pkg : Nat) :
    chargeSlice s id e pkg = (some (modAllow s id.core e Allowance.charge), s) := by
  unfold chargeSlice
  rw [leaveOthers_of_none hnone]
  simp only [hwaiters, halw, if_true]

end

/-! ### Cores and named slices where only other fields have changed -/

/-- What changes neither the gangs nor the banks of a core leaves every team where it stands. -/
theorem findTeam_congr {s t : State} (hgangs : t.gangs = s.gangs) (hbanks : ∀ c, (core t c).active = (core s c).active ∧
    (core t c).outgoing = (core s c).outgoing ∧ (core t c).shadow = (core s c).shadow) (l g n : Nat) :
    findTeam t l g n = findTeam s l g n := by
  unfold findTeam gangOf
  simp only [hgangs, fun c => (hbanks c).1, fun c => (hbanks c).2.1, fun c => (hbanks c).2.2]

theorem OnlyCopies.outbox {s t : State} {c : Nat} (h : OnlyCopies s c t) : t.outbox = s.outbox := by rw [h.frame]

theorem OnlyCopies.regs {s t : State} {c : Nat} (h : OnlyCopies s c t) : t.regs = s.regs := by rw [h.frame]

theorem OnlyCopies.mem {s t : State} {c : Nat} (h : OnlyCopies s c t) : t.mem = s.mem := by rw [h.frame]

theorem OnlyCopies.outstanding {s t : State} {c : Nat} (h : OnlyCopies s c t) : (core t c).outstanding = (core s c).outstanding := by
  rw [h.own]

theorem OnlyCopies.allow {s t : State} {c : Nat} (h : OnlyCopies s c t) : (core t c).allow = (core s c).allow := by rw [h.own]

theorem OnlyCopies.findTeam {s t : State} {c : Nat} (h : OnlyCopies s c t) (l g n : Nat) :
    Machine.findTeam t l g n = Machine.findTeam s l g n := by
  refine findTeam_congr (by rw [h.frame]) (fun k => ?_) l g n
  by_cases hk : k = c
  · rw [hk, h.own]
    exact ⟨rfl, rfl, rfl⟩
  · rw [h.others k hk]
    exact ⟨rfl, rfl, rfl⟩

/-- What a change of a core does not touch stands as it did at every core. -/
theorem modCore_keeps {α : Type} (g : Core → α) {f : Core → Core} (h : ∀ k, g (f k) = g k) (s : State) (c c' : Nat) :
    g (core (modCore s c f) c') = g (core s c') := by
  rw [core_modCore]
  split
  · next hk => rw [hk, h]
  · rfl

theorem sliceAt_congr {s t : State} {id : SliceId} (h : (core t id.core).active = (core s id.core).active) : sliceAt t id = sliceAt s id := by
  unfold sliceAt teamAt teamIdOf
  rw [h]

theorem findTeam_modAllow (s : State) (c e : Nat) (f : Allowance → Allowance) (l g n : Nat) :
    findTeam (modAllow s c e f) l g n = findTeam s l g n :=
  findTeam_congr (s := s) (t := modAllow s c e f) rfl (fun k => ⟨modCore_keeps Core.active (by exact fun _ => rfl) s c k,
    modCore_keeps Core.outgoing (by exact fun _ => rfl) s c k, modCore_keeps Core.shadow (by exact fun _ => rfl) s c k⟩) l g n

theorem sliceAt_modAllow (s : State) (c e : Nat) (f : Allowance → Allowance) (id : SliceId) :
    sliceAt (modAllow s c e f) id = sliceAt s id :=
  sliceAt_congr (s := s) (t := modAllow s c e f) (modCore_keeps Core.active (by exact fun _ => rfl) s c id.core)

theorem core_putSlice_self (s : State) (id : SliceId) (tm : Team) (sl : Slice) : core (putSlice s id tm sl) id.core =
    { core s id.core with active := (core s id.core).active.putTeam id.slot (tm.putSlice id.strand sl) } :=
  core_putCore_self ..

/-- The core of an access that leaves counts it; nothing else of any core changes. -/
theorem core_countOut_self (s : State) (c : Nat) : core (countOut s c) c = { core s c with outstanding := (core s c).outstanding + 1 } :=
  core_putCore_self ..

/-- A named slice in an active bank is changed at its place. -/
theorem modNamedSlice_of_active {s : State} {id : SliceId} {tm : Team} {sl : Slice} (hat : sliceAt s id = some (tm, sl))
    (hplace : InPlace s id tm) (f : Slice → Slice) : modNamedSlice s (tm.name id.strand) f = putSlice s id tm (f sl) := by
  have hfind : findTeam s (tm.name id.strand).launch (tm.name id.strand).gang (tm.name id.strand).gteam =
      some (.active (teamIdOf id), tm) := hplace
  unfold modNamedSlice modNamed
  rw [hfind]
  simp only [putTeamAt, Team.modSlice, Team.name, (teamAt_of_sliceAt hat).2, putSlice]

/-- The number of the next access is in flight once it has been given. -/
theorem find?_append_next {xs : List Access} {n : Nat} (h : ∀ a ∈ xs, a.n < n) {a : Access} (ha : a.n = n) :
    ((xs ++ [a]).find? fun x => x.n == n) = some a := by
  rw [List.find?_append, List.find?_eq_none.2 fun x hx => by simpa using (h x hx).ne]
  simp [ha]

/-- A change of the next access changes the last in flight. -/
theorem map_append_next {xs : List Access} {n : Nat} (h : ∀ a ∈ xs, a.n < n) {a : Access} (ha : a.n = n) (f : Access → Access) :
    ((xs ++ [a]).map fun x => if x.n == n then f x else x) = xs ++ [f a] := by
  have hold : (xs.map fun x => if x.n == n then f x else x) = xs :=
    (List.map_congr_left fun x hx => if_neg (by simpa using (h x hx).ne)).trans (List.map_id'' (fun _ => rfl) xs)
  rw [List.map_append, hold]
  simp [ha]

/-! ### Accepted and sent (R380, R381, R388) -/

/-- A slice's access toward another package has been taken in: in flight and sent, counted at its core and in FABOUT, and one packet for
the target left; the slice's registers and PC, the core's entries and main memory are as they were. -/
structure SentOff (s : State) (id : SliceId) (sl : Slice) (op : MemOp) (target lab : Nat) (off : DWord) (a : Access) (pk : Packet)
    (tm' : Team) (sl' : Slice) (t : State) : Prop where
  inflight : t.inflight = s.inflight ++ [a]
  n : a.n = s.nextAccess
  sent : a.sent = true
  aoff : a.off = off
  outbox : t.outbox = s.outbox ++ [pk]
  target : pk.target = target
  label : pk.label = BitVec.ofNat 16 lab
  poff : pk.off = off
  size : pk.size = op.size
  payload : pk.payload = op.bytes.take 256
  access : pk.access = a.n
  kind : ∃ m, pk.kind = packetKind (op.kind.marked m)
  fabOut : t.regs.fabOut = s.regs.fabOut + 1
  outstanding : (core t id.core).outstanding = (core s id.core).outstanding + 1
  allow : (core t id.core).allow = (core s id.core).allow
  slice : sliceAt t id = some (tm', sl')
  regs : sl'.regs = sl.regs
  pc : sl'.pc = sl.pc
  stepBit : sl'.stepBit = sl.stepBit
  cur : t.cur = s.cur
  mem : t.mem = s.mem

/-- A packet that leaves is the next of those that have left, under its sequence's next number. -/
theorem putPacket_eq (s : State) (p : Packet) : ∃ n sent,
    putPacket s p = ({ s with sent := sent, outbox := s.outbox ++ [{ p with seq := n }] }, n) := ⟨_, _, rfl⟩

theorem flagLost_of_package {target : Nat} (h : target < 8192) (sl : Option Slice) (k : AccessKind) : flagLost sl (some target) k = false := by
  unfold flagLost
  cases k with
  | flag n => simp [h]
  | _ => rfl

theorem sendWaits_of_package {target : Nat} (h : target < 8192) (s : State) (w : SliceName) (a : Access) : sendWaits s w target a = false := by
  simp [sendWaits, h]

/-- The packet of an access toward another package (R380). -/
theorem packetOf_of_fabric (s : State) {a : Access} {target bucket : Nat} {lab : BitVec 16} {have6 : BitVec 6}
    (hplace : a.place = .fabric target lab have6 bucket) :
    ∃ pk, packetOf s a 0 0 = some pk ∧ pk.target = target ∧ pk.label = lab ∧ pk.off = a.off ∧ pk.size = a.size ∧
      pk.payload = a.bytes.take 256 ∧ pk.access = a.n ∧ pk.kind = packetKind a.kind := by
  unfold packetOf
  rw [hplace]
  exact ⟨_, rfl, rfl, rfl, rfl, rfl, rfl, rfl, rfl⟩

/-- The last access in flight sends its packet toward another package (R380, R381). -/
theorem sendPart_of_last {s : State} {n : Nat} {a : Access} {xs : List Access} (hin : s.inflight = xs ++ [a]) (hlt : ∀ x ∈ xs, x.n < n)
    (ha : a.n = n) {target bucket : Nat} {lab : BitVec 16} {have6 : BitVec 6} (hplace : a.place = .fabric target lab have6 bucket) :
    ∃ a' pk sent, sendPart s n 0 = { s with inflight := xs ++ [a'], sent := sent, outbox := s.outbox ++ [pk] } ∧
      a'.n = a.n ∧ a'.sent = true ∧ a'.off = a.off ∧ pk.target = target ∧ pk.label = lab ∧ pk.off = a.off ∧ pk.size = a.size ∧
      pk.payload = a.bytes.take 256 ∧ pk.access = a.n ∧ pk.kind = packetKind a.kind := by
  have hfind : accessOf s n = some a := by
    unfold accessOf
    rw [hin]
    exact find?_append_next hlt ha
  obtain ⟨pk, hpk, hfacts⟩ := packetOf_of_fabric s hplace
  obtain ⟨seq, sent, hput⟩ := putPacket_eq s pk
  unfold sendPart
  simp only [hfind, hpk, hput, modAccess, hin, map_append_next hlt ha]
  exact ⟨_, _, _, rfl, rfl, rfl, rfl, hfacts⟩

section
variable {s : State} {id : SliceId} {tm : Team} {sl : Slice} {op : MemOp} {p : Path} {target lab : Nat}

/-- What an access toward another package is taken in as, and what is counted with it (R176, R388, R399). -/
theorem accept_of_fabric (hdest : p.dest = .fabric target lab) (htarget : target < 8192) (w : SliceName) (world c : Nat) (pc next : Word)
    (lw off : DWord) (pops : List Nat) (al : Nat) :
    let k := keepCopies s c p.copies
    ∃ a, accept s w world c pc next op p lw off pops al = (sendPart (countOut (modNamedSlice (withAccess k a) w
          fun sl => { sl with fabric := countFabric sl.fabric target op.kind }) c) k.nextAccess 0, k.nextAccess) ∧
      a.n = k.nextAccess ∧ a.place = .fabric target (BitVec.ofNat 16 lab) p.have6 (bucketOf off lab) ∧ a.off = off ∧ a.size = op.size ∧
      a.bytes = op.bytes ∧ (∃ m, a.kind = op.kind.marked m) := by
  unfold accept
  simp only [hdest, targetOf, placeOf, flagLost_of_package htarget, sendWaits_of_package htarget, Bool.false_eq_true, if_false]
  exact ⟨_, rfl, rfl, rfl, rfl, rfl, rfl, _, rfl⟩

/-- A slice's access toward another package is taken in and sent. -/
theorem accept_sentOff (hdest : p.dest = .fabric target lab) (htarget : target < 8192) (hat : sliceAt s id = some (tm, sl))
    (hplace : InPlace s id tm) (hord : s.accessesOrdered) (world : Nat) (pc next : Word) (lw off : DWord) (pops : List Nat) (al : Nat) :
    ∃ a pk tm' sl' t, accept s (tm.name id.strand) world id.core pc next op p lw off pops al = (t, s.nextAccess) ∧
      SentOff s id sl op target lab off a pk tm' sl' t := by
  obtain ⟨a, hacc, hn, hfabric, hoff, hsize, hbytes, ⟨m, hkind⟩⟩ := accept_of_fabric (s := s) (op := op) hdest htarget (tm.name id.strand)
    world id.core pc next lw off pops al
  have hkeep := onlyCopies_keepCopies s id.core p.copies
  set k := keepCopies s id.core p.copies
  rw [hkeep.nextAccess] at hacc hn
  have hatk : sliceAt (withAccess k a) id = some (tm, sl) := hkeep.sliceAt.trans hat
  have hplacek : InPlace (withAccess k a) id tm := (hkeep.findTeam tm.launch tm.gang tm.gteam).trans hplace
  rw [modNamedSlice_of_active hatk hplacek] at hacc
  set sl' : Slice := { sl with fabric := countFabric sl.fabric target op.kind }
  set u := countOut (putSlice (withAccess k a) id tm sl') id.core
  have hin : u.inflight = s.inflight ++ [a] := congrArg (· ++ [a]) hkeep.inflight
  obtain ⟨a', pk, sent, hsend, hn', hsent', hoff', htarget', hlabel', hpoff, hpsize, hpayload, haccess, hpkind⟩ :=
    sendPart_of_last hin hord.2 hn hfabric
  have hcore : core (sendPart u s.nextAccess 0) id.core = core u id.core := by rw [hsend]; rfl
  have hcore' : core u id.core = { core (putSlice (withAccess k a) id tm sl') id.core with
      outstanding := (core (putSlice (withAccess k a) id tm sl') id.core).outstanding + 1 } := core_countOut_self ..
  refine ⟨a', pk, tm.putSlice id.strand sl', sl', _, hacc, ?_⟩
  exact {
    inflight := by rw [hsend]
    n := hn'.trans hn
    sent := hsent'
    aoff := hoff'.trans hoff
    outbox := by rw [hsend]; exact congrArg (· ++ [pk]) hkeep.outbox
    target := htarget'
    label := hlabel'
    poff := hpoff.trans hoff
    size := hpsize.trans hsize
    payload := by rw [hpayload, hbytes]
    access := haccess.trans hn'.symm
    kind := ⟨m, by rw [hpkind, hkind]⟩
    fabOut := by rw [hsend]; exact congrArg (fun x : Regs => x.fabOut + 1) hkeep.regs
    outstanding := by
      rw [hcore, hcore', core_putSlice_self]
      exact congrArg (· + 1) hkeep.outstanding
    allow := by
      rw [hcore, hcore', core_putSlice_self]
      exact hkeep.allow
    slice := by
      have hactive : (core (sendPart u s.nextAccess 0) id.core).active = (core (putSlice (withAccess k a) id tm sl') id.core).active := by
        rw [hcore, hcore']
      exact (sliceAt_congr hactive).trans (sliceAt_putSlice_self (teamAt_of_sliceAt hat).2 sl')
    regs := rfl
    pc := rfl
    stepBit := rfl
    cur := by rw [hsend]; exact hkeep.cur
    mem := by rw [hsend]; exact hkeep.mem }

/-- What the slice does next changes nothing else of what has been sent. -/
theorem SentOff.putSlice {off : DWord} {a : Access} {pk : Packet} {tm' : Team} {sl' : Slice} {t : State}
    (h : SentOff s id sl op target lab off a pk tm' sl' t) (sl2 : Slice) :
    (Machine.putSlice t id tm' sl2).inflight = s.inflight ++ [a] ∧ (Machine.putSlice t id tm' sl2).outbox = s.outbox ++ [pk] ∧
    (Machine.putSlice t id tm' sl2).regs.fabOut = s.regs.fabOut + 1 ∧ (Machine.putSlice t id tm' sl2).mem = s.mem ∧
    (core (Machine.putSlice t id tm' sl2) id.core).outstanding = (core s id.core).outstanding + 1 ∧
    (core (Machine.putSlice t id tm' sl2) id.core).allow = (core s id.core).allow ∧
    sliceAt (Machine.putSlice t id tm' sl2) id = some (tm'.putSlice id.strand sl2, sl2) := by
  refine ⟨h.inflight, h.outbox, h.fabOut, h.mem, ?_, ?_, sliceAt_putSlice_self (teamAt_of_sliceAt h.slice).2 sl2⟩
  · rw [core_putSlice_self]; exact h.outstanding
  · rw [core_putSlice_self]; exact h.allow

/-- An access toward another package whose entry pays for it: charged and sent, and its slice waits for the data or goes on. -/
theorem acceptFor_of_fabric {f : Form} {v : Vals} {off : DWord} (hat : sliceAt s s.cur = some (tm, sl)) (hpops : v.pops = [])
    (hb : sl.stepBit = false) (hdest : p.dest = .fabric target lab) (htarget : target < 8192) (hplace : InPlace s s.cur tm)
    (hord : s.accessesOrdered) (hfabric : fabricWaits s (tm.name s.cur.strand) p off = false)
    (hloads : loadsBefore s s.cur (tm.name s.cur.strand) op p = false)
    (halw : 1 ≤ (allowAt (core s s.cur.core) (allowIndex (core s s.cur.core) tm.world target)).alw)
    (hwaiters : (allowAt (core s s.cur.core) (allowIndex (core s s.cur.core) tm.world target)).waiters = [])
    (hnone : ∀ y ∈ (core s s.cur.core).allow, y.2.waiters.any (Waiter.isSlice s.cur) = false) (lw : DWord) :
    ∃ u a pk tm' sl', SentOff (modAllow s s.cur.core (allowIndex (core s s.cur.core) tm.world target) Allowance.charge) s.cur sl op target lab
        off a pk tm' sl' u ∧
      acceptFor s f tm sl v op p lw off =
        putSlice u s.cur tm' (sl'.afterAccess (waitsForData op p) s.nextAccess (nextPc sl.pc f.len)) := by
  set e := allowIndex (core s s.cur.core) tm.world target
  set s1 := modAllow s s.cur.core e Allowance.charge
  have hcharge : chargeFor s s.cur tm.world p = (some (s1, e), s) := by
    unfold chargeFor
    simp only [hdest, chargeSlice_pays hnone halw hwaiters, e, s1]
  obtain ⟨a, pk, tm', sl', u, hacc, hsent⟩ := accept_sentOff (s := s1) (op := op) hdest htarget ((sliceAt_modAllow ..).trans hat)
    ((findTeam_modAllow ..).trans hplace) hord tm.world sl.pc (nextPc sl.pc f.len) lw off v.pops e
  refine ⟨u, a, pk, tm', sl', hsent, ?_⟩
  have hcur : u.cur = s.cur := hsent.cur
  have hacc' : accept s1 (tm.name s.cur.strand) tm.world s1.cur.core sl.pc (nextPc sl.pc f.len) op p lw off v.pops e = (u, s.nextAccess) :=
    hacc
  unfold acceptFor Slice.afterAccess
  simp only [hfabric, hloads, hcharge, hacc', Bool.or_self, Bool.false_eq_true, if_false, hcur]
  split
  · exact modSlice_of_sliceAt hsent.slice _
  · have hatu := hsent.slice
    rw [← hcur] at hatu ⊢
    exact finishNone_of_no_step hatu hpops (hsent.stepBit.trans hb) _

end

/-- An entry after one unit has been charged. -/
theorem allowAt_charged {s t : State} {c e : Nat} (h : (core t c).allow = (core (modAllow s c e Allowance.charge) c).allow) :
    allowAt (core t c) e = { allowAt (core s c) e with alw := (allowAt (core s c) e).alw - 1, sent := (allowAt (core s c) e).sent + 1 } := by
  have hput : (core (modAllow s c e Allowance.charge) c).allow = Table.put (core s c).allow e (allowAt (core s c) e).charge :=
    congrArg Core.allow (core_putCore_self ..)
  unfold allowAt
  rw [h, hput, Table.getD_put_self]
  rfl

theorem outstanding_modAllow (s : State) (c e : Nat) (f : Allowance → Allowance) :
    (core (modAllow s c e f) c).outstanding = (core s c).outstanding :=
  modCore_keeps Core.outstanding (by exact fun _ => rfl) s c c

/-- Settles O44: the entry pays at once, the access is taken in and its packet leaves. -/
theorem fabricAccesses : Obligations.FabricAccesses := by
  intro i f l off op s tm sl v p target lab hrule hg hfree hpops hb hpath hdest hfabric hplace htarget hloads hord e x halw hwaiters hnone
  obtain ⟨u, a, pk, tm', sl', hsent, hacc⟩ := acceptFor_of_fabric (f := f) hg.1 hpops hb hdest htarget hplace hord hfabric hloads halw hwaiters
    hnone (pathWord tm l v)
  obtain ⟨hin, hout, hfabOut, hmem, houtstanding, hallow, hslice⟩ :=
    hsent.putSlice (sl'.afterAccess (waitsForData (op v) p) s.nextAccess (nextPc sl.pc f.len))
  obtain ⟨hregs, -, hafter⟩ := afterAccess_spec sl' (waitsForData (op v) p) s.nextAccess (nextPc sl.pc f.len)
  have hexec : exec i s = .next (acceptFor s f tm sl v (op v) p (pathWord tm l v) (off v)) := by
    rw [exec_of_accessPath hrule hg hfree hpath]
    unfold deliverTo
    rw [hdest]
  refine ⟨_, a, pk, _, _, hexec.trans (congrArg _ hacc), hin, hsent.n, hsent.sent, hsent.aoff, hout, hsent.target, hsent.label, hsent.poff,
    hsent.size, hsent.payload, hsent.access, hfabOut, houtstanding.trans (congrArg (· + 1) (outstanding_modAllow ..)),
    allowAt_charged hallow, hslice, hregs.trans hsent.regs, hmem, fun hkind => ?_, fun hkind => ?_⟩
  · have hholds : waitsForData (op v) p = false := by
      rcases hkind with h | ⟨g, h⟩ <;> simp [waitsForData, h]
    rw [hholds] at hafter ⊢
    exact hafter
  · have hholds : waitsForData (op v) p = true := by
      rcases hkind with h | ⟨o, y, z, h⟩ <;> simp [waitsForData, h, hdest, targetOf]
    rw [hholds] at hafter ⊢
    rw [hsent.n]
    exact ⟨hafter.1.trans hsent.pc, hafter.2⟩

/-! ### Active messages (R410, R411) -/

theorem msgWordOk_iff (w : Word) : msgWordOk w = true ↔ w.getLsbD 23 = false ∧ w.toNat % 2 ^ 14 = 0 ∧ w.toNat / 2 ^ 14 % 2 ^ 9 ≤ 256 := by
  have hbit : wfield w 23 23 = 0 ↔ w.getLsbD 23 = false := by
    rw [BitVec.getLsbD, Nat.testBit_eq_decide_div_mod_eq]
    unfold wfield
    simp only [decide_eq_false_iff_not]
    omega
  have hlow : wfield w 13 0 = w.toNat % 2 ^ 14 := by simp [wfield]
  have hlen : msgLen w = w.toNat / 2 ^ 14 % 2 ^ 9 := rfl
  simp only [msgWordOk, Bool.and_eq_true, beq_iff_eq, decide_eq_true_eq, hbit, hlow, hlen, and_assoc]

theorem msgHandler_eq (w : Word) : msgHandler w = w.toNat / 2 ^ 24 := by
  have := w.isLt
  unfold msgHandler wfield
  omega

section
variable {s : State} {tm : Team} {sl : Slice} {v : Vals} {team : Bool} {d : Dst} {a b : Src}

/-- AMSG with its operands gathered, its checks in their order (R411). -/
theorem amsg_of_gathers (hg : Gathers s ((form3 team d .w32 a .w32 b .w64).as .read) (.ok ()) tm sl v)
    (hloads : team = true → loadsPending tm = false) :
    let f := (form3 team d .w32 a .w32 b .w64).as .read
    let n := msgLen (lowWord v.d)
    let o := (lowWord v.a).toNat
    let next := nextPc sl.pc f.len
    let name := tm.name s.cur.strand
    amsg team d a b s = .next (
      if !msgWordOk (lowWord v.d) then trapSlice s s.cur { cause := .badOperand, field := 1, next := next, info0 := v.d }
      else if o % 4 != 0 || decide (4 * sl.regs.length < o + n) then
        trapSlice s s.cur { cause := .badOperand, field := 2, next := next, info0 := v.a }
      else match walkC s (askOf tm s.cur 0 n permW .amsg) v.b 0 (4 * sl.regs.length) with
        | .error pf => faultSlice s s.cur pf v.b 0 n next
        | .ok p =>
          if storesPending s name then waitSlice s s.cur .memory
          else if windowPending s name o n then waitPending s s.cur name (regsTouched o n)
          else acceptFor s f tm sl v { kind := .message (msgHandler (lowWord v.d)) 0, size := n, need := permW, req := .amsg, align := 1,
                                       bytes := readRegs sl o n } p v.b 0) :=
  (runOwn_of_gather hg.1 (hg.gather_own (heldByLoads_ok hloads))).trans rfl

end

/-- Settles O48: the message word, its range, the path, the stores and the charge, in this order. -/
theorem messagesAreSent : Obligations.MessagesAreSent := by
  intro i d a b s tm sl v f w n o next wordOk rangeOk hi hg hloads
  have hexec : exec i s = amsg i.isTeam d a b s := by obtain rfl | rfl := hi <;> rfl
  have hlen : msgLen (lowWord v.d) = n := rfl
  have hword : (!msgWordOk (lowWord v.d)) = true ↔ ¬ wordOk := by
    rw [Bool.not_eq_true', ← Bool.not_eq_true]
    exact not_congr (msgWordOk_iff w)
  have hrange : (o % 4 != 0 || decide (4 * sl.regs.length < o + n)) = true ↔ ¬ rangeOk := by
    simp only [Bool.or_eq_true, bne_iff_ne, decide_eq_true_eq, rangeOk]
    omega
  rw [hexec, amsg_of_gathers hg hloads]
  simp only [hlen]
  refine ⟨fun h => ?_, fun hw h => ?_, fun p hw hr hwalk => ?_⟩
  · rw [if_pos (hword.2 h)]
    rfl
  · rw [if_neg fun hbad => hword.1 hbad hw, if_pos (hrange.2 h)]
    rfl
  · rw [if_neg fun hbad => hword.1 hbad hw, if_neg fun hbad => hrange.1 hbad hr, hwalk]
    refine ⟨fun h => congrArg _ (if_pos h), ?_⟩
    intro target lab hstores hwindow hdest htarget hfabric hplace hpops hb hord halw hwaiters hnone
    dsimp only
    rw [if_neg (Bool.eq_false_iff.1 hstores), if_neg (Bool.eq_false_iff.1 hwindow)]
    obtain ⟨u, a', pk, tm', sl', hsent, hacc⟩ := acceptFor_of_fabric (f := f)
      (op := { kind := .message (msgHandler (lowWord v.d)) 0, size := n, need := permW, req := .amsg, align := 1, bytes := readRegs sl o n })
      hg.1 hpops hb hdest htarget hplace hord hfabric (by simp [loadsBefore]) halw hwaiters hnone v.b
    obtain ⟨-, hout, -, -, -, hallow, hslice⟩ := hsent.putSlice (sl'.afterAccess false s.nextAccess (nextPc sl.pc f.len))
    obtain ⟨hregs, -, hpc, -⟩ := afterAccess_spec sl' false s.nextAccess (nextPc sl.pc f.len)
    obtain ⟨m, hkind⟩ := hsent.kind
    refine ⟨_, pk, _, _, m, congrArg _ hacc, hout, hsent.target, ?_, ?_, allowAt_charged hallow, hslice, hpc, hregs.trans hsent.regs⟩
    · rw [hkind, ← msgHandler_eq]
      rfl
    · rw [hsent.payload]
      show (List.take n _).take 256 = _
      rw [List.take_take, min_eq_right hw.2.2]

end Sys2Proof.Machine
end

section
/-! CLAIM. Engine commands issued, and the instructions on tiles, slots, accumulators and the weight store's refresh (R244 to R264, R302). -/

namespace Sys2Proof.Machine

/-! ### Copies and weight loads (R244, R248 to R250) -/

/-- The form of a copy takes D as a pair for CPYM and CPYF (R249). -/
theorem copyForm_eq (kind : CopyKind) (d : Dst) (a b : Src) : copyForm kind d a b =
    (form3 true d (if kind == .cpym || kind == .cpyf then .w64 else .w32) a .w64 b .w32).as .read := by
  cases kind <;> rfl

theorem copyLength_eq (kind : CopyKind) (v : DWord) :
    copyLength kind (lowWord v) = if kind = .wld then 3968 else 512 * (v.toNat / 2 ^ 16 % 64 + 1) := by
  have hcount : ccwCount (lowWord v) = v.toNat / 2 ^ 16 % 64 + 1 := by
    unfold ccwCount wfield
    rw [lowWord_toNat]
    omega
  cases kind <;> simp [copyLength, hcount]

theorem memoryCheck_inside {off : DWord} {len : Nat} (hlen : 1 ≤ len) (h : off.toNat + len ≤ 2 ^ 48) (lw : DWord) (need : BitVec 6) :
    memoryCheck lw off len need = if off.toNat % 64 ≠ 0 then some .misaligned else none := by
  unfold memoryCheck
  rw [if_neg]
  unfold field
  omega

theorem heldByLoads_heldByLabel_ok {s : State} {tm : Team} {l : Fin 8} (hloads : loadsPending tm = false)
    (hlabel : labelPending s (tm.name none) l.val = false) :
    (do heldByLoads true tm; heldByLabel s true tm l) = .ok () := by
  rw [heldByLoads_ok fun _ => hloads]
  simp only [heldByLabel, hlabel, Bool.and_false, stopIf, Bool.false_eq_true, if_false]
  rfl

/-- A slice that stalls for an engine command waits with class TILE, and the PC it blames is noted (R107, R210). -/
theorem exists_waitTile (s : State) (held : List (Nat × Word)) :
    ∃ b, Host.Outcome.next (φ := Fault) (ρ := Refusal) (waitTile s held) =
      .next (modSlice (waitSlice s s.cur .tile) s.cur fun x => { x with blame := b }) := ⟨_, rfl⟩

section
variable {s : State} {kind : CopyKind} {d : Dst} {a b : Src} {l : Fin 8} {tm : Team} {sl : Slice} {v : Vals}

/-- The offset of a copy: A2 for CPYF, A2 and a displacement for the others (R249). -/
def copyOffset (kind : CopyKind) (v : Vals) : DWord := if kind = .cpyf then v.a else BitVec.ofInt 64 (u64 v.a + s32 v.b)

/-- The window of a core as a copy finds it: what becomes of a command whose words have passed (R244, R253). -/
def copyEnters (s : State) (kind : CopyKind) (sl : Slice) (v : Vals) (lw off : DWord) (next : Word) : State :=
  let bank := (core s s.cur.core).active
  match bank.freeChannel with
  | none => waitTile s bank.channelsHeld
  | some chan =>
    if kind = .cpym then
      match bank.freeEntry with
      | none => waitTile s bank.entriesHeld
      | some e => finishNone v next (enterCopy s kind sl (lowWord v.d) (highWord v.d) 0 lw off chan (some e))
    else finishNone v next (enterCopy s kind sl (lowWord v.d) (highWord v.d) (lowWord v.b) lw off chan none)

/-- A copy with its operands gathered, its checks in their order (R248). -/
theorem copyIssue_of_gathers (hg : Gathers s (copyForm kind d a b) (.ok ()) tm sl v) (hloads : loadsPending tm = false)
    (hlabel : labelPending s (tm.name none) l.val = false) :
    let f := copyForm kind d a b
    let next := nextPc sl.pc f.len
    let lw := listGetD tm.labels l.val 0
    let off := copyOffset kind v
    let len := copyLength kind (lowWord v.d)
    copyIssue kind d a b l s = .next (
      match copyWordBad tm kind v with
      | some (fld, x) => trapSlice s s.cur (commandTrap f sl.pc fld x)
      | none =>
        match memoryCheck lw off len (copyNeed kind) with
        | some st => stopAccess s s.cur st lw off len next
        | none =>
          match flagFault s tm kind (lowWord v.b) with
          | some (pf, flw, foff) => faultSlice s s.cur pf flw foff 4 next
          | none => copyEnters s kind sl v lw off next) := by
  intro f next lw off len
  have hoff : off = if kind = .cpyf then v.a else offDisp v := by rw [← ofInt_displacement]; rfl
  rw [hoff]
  exact runOwn_of_gather hg.1 (hg.gather_own (heldByLoads_heldByLabel_ok hloads hlabel))

end

/-- Which copy an instruction is. -/
theorem exec_of_copy {i : Instr} {kind : CopyKind} {d : Dst} {a b : Src} {l : Fin 8}
    (hi : i = .cpy d a b l ∧ kind = .cpy ∨ i = .cpym d a b l ∧ kind = .cpym ∨ i = .cpys d a b l ∧ kind = .cpys ∨
      i = .cpyf d a b l ∧ kind = .cpyf ∨ i = .wld d a b l ∧ kind = .wld ∨ i = .wst d a b l ∧ kind = .wst) (s : State) :
    exec i s = copyIssue kind d a b l s := by
  obtain ⟨rfl, rfl⟩ | ⟨rfl, rfl⟩ | ⟨rfl, rfl⟩ | ⟨rfl, rfl⟩ | ⟨rfl, rfl⟩ | ⟨rfl, rfl⟩ := hi <;> rfl

section
variable {s : State} {kind : CopyKind} {sl : Slice} {v : Vals} {lw off : DWord} {next : Word}

theorem copyEnters_of_full (h : (core s s.cur.core).active.freeChannel = none ∨
    (kind = .cpym ∧ (core s s.cur.core).active.freeEntry = none)) :
    ∃ held, copyEnters s kind sl v lw off next = waitTile s held := by
  unfold copyEnters
  cases hchan : (core s s.cur.core).active.freeChannel with
  | none =>
    simp only [hchan]
    exact ⟨_, rfl⟩
  | some chan =>
    obtain ⟨hkind, hentry⟩ := h.resolve_left (by rw [hchan]; exact nofun)
    simp only [hchan, hkind, hentry, if_true]
    exact ⟨_, rfl⟩

theorem copyEnters_of_channel {chan : Nat} (hchan : (core s s.cur.core).active.freeChannel = some chan) (hkind : kind ≠ .cpym) :
    copyEnters s kind sl v lw off next =
      finishNone v next (enterCopy s kind sl (lowWord v.d) (highWord v.d) (lowWord v.b) lw off chan none) := by
  unfold copyEnters
  simp only [hchan, if_neg hkind]

theorem copyEnters_of_entry {chan e : Nat} (hchan : (core s s.cur.core).active.freeChannel = some chan) (hkind : kind = .cpym)
    (hentry : (core s s.cur.core).active.freeEntry = some e) :
    copyEnters s kind sl v lw off next =
      finishNone v next (enterCopy s kind sl (lowWord v.d) (highWord v.d) 0 lw off chan (some e)) := by
  unfold copyEnters
  simp only [hchan, if_pos hkind, hentry]

/-- A copy enters with its words, the order of its issue and nothing moved yet, where no restored team waits for a place (R244, R253). -/
theorem enterCopy_enters (cw odd flag : Word) (chan : Nat) (entry : Option Nat) (hre : (core s s.cur.core).active.reissue = [])
    (hco : (core s s.cur.core).active.copies = []) :
    let bank := (core s s.cur.core).active
    let t := enterCopy s kind sl cw odd flag lw off chan entry
    t = { s with cores := t.cores } ∧
    (∃ ch, Table.get (core t s.cur.core).active.sluice chan = some ch ∧ ch.kind = kind ∧ ch.slot = s.cur.slot ∧ ch.cw = cw ∧ ch.odd = odd ∧
      ch.flag = flag ∧ ch.lw = lw ∧ ch.off = off ∧ ch.pc = sl.pc ∧ ch.order = bank.nextOrder ∧ ch.started = false ∧ ch.landed = []) ∧
    (∀ e, entry = some e → ∃ y, Table.get (core t s.cur.core).active.array e = some y ∧ y.acw = odd ∧ y.tile = wfield cw 5 0 ∧
      y.waits = true ∧ y.started = false ∧ y.order = bank.nextOrder) ∧
    (core t s.cur.core).active.teams = bank.teams ∧ (core t s.cur.core).active.wslots = bank.wslots := by
  intro bank t
  cases entry with
  | none =>
    have hactive : (core t s.cur.core).active = _ := active_modBank (by exact hre) (by exact hco)
    rw [hactive]
    exact ⟨rfl, ⟨_, Table.get_put_self .., rfl, rfl, rfl, rfl, rfl, rfl, rfl, rfl, rfl, rfl, rfl⟩, nofun, rfl, rfl⟩
  | some e =>
    have hactive : (core t s.cur.core).active = _ := active_modBank (by exact hre) (by exact hco)
    rw [hactive]
    refine ⟨rfl, ⟨_, Table.get_put_self .., rfl, rfl, rfl, rfl, rfl, rfl, rfl, rfl, rfl, rfl, rfl⟩, ?_, rfl, rfl⟩
    rintro _ ⟨rfl⟩
    exact ⟨_, Table.get_put_self .., rfl, rfl, rfl, rfl, rfl⟩

end

/-! ### Array commands (R244, R255, R256, R259) -/

section
variable {f : Form} {s : State} {tm : Team} {sl : Slice} {v : Vals} {check : Team → Vals → Option (BitVec 3 × DWord)} {kind : ArrayKind}
  {tile : Vals → Nat} {arg : Vals → Word}

theorem arrayIssue_of_gathers (hg : Gathers s f (.ok ()) tm sl v) : arrayIssue f s check kind tile arg = .next (
    match check tm v with
    | some (fld, x) => trapSlice s s.cur (commandTrap f sl.pc fld x)
    | none =>
      match (core s s.cur.core).active.freeEntry with
      | none => waitTile s (core s s.cur.core).active.entriesHeld
      | some e => finishNone v (nextPc sl.pc f.len) (enterArray s sl kind (lowWord v.d) (tile v) (arg v) e)) :=
  run_of_gathers hg _

end

/-- An array command enters with its words, where no restored team waits for a place (R244). -/
theorem enterArray_enters {s : State} (sl : Slice) (kind : ArrayKind) (acw : Word) (tile : Nat) (arg : Word) (e : Nat)
    (hre : (core s s.cur.core).active.reissue = []) (hco : (core s s.cur.core).active.copies = []) :
    ∃ y, Table.get (core (enterArray s sl kind acw tile arg e) s.cur.core).active.array e = some y ∧ y.kind = kind ∧
      y.slot = s.cur.slot ∧ y.acw = acw ∧ y.tile = tile ∧ y.arg = arg ∧ y.started = false ∧ y.waits = false := by
  have hactive : (core (enterArray s sl kind acw tile arg e) s.cur.core).active = _ := active_modBank (by exact hre) (by exact hco)
  rw [hactive]
  exact ⟨_, Table.get_put_self .., rfl, rfl, rfl, rfl, rfl, rfl, rfl⟩

/-- Which array command an instruction is, and what its words have to pass. -/
theorem exec_of_array {i : Instr} {kind : ArrayKind} {d : Dst} {a b : Src} {m : Afm} {tm : Team} {v : Vals}
    {check : Option (BitVec 3 × DWord)} {tile : Nat} {arg : Word}
    (hi : i = .mmat d a b ∧ kind = .mmat ∧ check = multiplyCheck false tm v ∧ tile = v.a.toNat ∧ arg = lowWord v.b ∨
      i = .mmad d a b ∧ kind = .mmad ∧ check = multiplyCheck true tm v ∧ tile = v.a.toNat ∧ arg = lowWord v.b ∨
      i = .mmaz d a ∧ kind = .mmaz ∧ check = (if acwPlainOk tm (lowWord v.d) then none else some (1, v.d)) ∧ tile = 0 ∧ arg = lowWord v.a ∨
      i = .accst d a b m ∧ kind = .accst m ∧ check = accstCheck m tm v ∧ tile = v.a.toNat ∧ arg = lowWord v.b) (s : State) :
    ∃ check' tile' arg', exec i s =
        arrayIssue (if kind = .mmaz then (form2 true d .w32 a .w32).as .read else (form3 true d .w32 a .w32 b .w32).as .read) s
          check' kind tile' arg' ∧ check' tm v = check ∧ tile' v = tile ∧ arg' v = arg := by
  obtain ⟨rfl, rfl, rfl, rfl, rfl⟩ | ⟨rfl, rfl, rfl, rfl, rfl⟩ | ⟨rfl, rfl, rfl, rfl, rfl⟩ | ⟨rfl, rfl, rfl, rfl, rfl⟩ := hi
  · exact ⟨_, _, _, rfl, rfl, rfl, rfl⟩
  · exact ⟨_, _, _, rfl, rfl, rfl, rfl⟩
  · refine ⟨_, _, _, rfl, ?_, rfl, rfl⟩
    unfold refuseIf
    cases acwPlainOk tm (lowWord v.d) <;> rfl
  · exact ⟨_, _, _, rfl, rfl, rfl, rfl⟩

/-- Settles O50: the checks of a copy and of an array command in their order, and what enters the windows. -/
theorem engineCommands : Obligations.EngineCommands := by
  refine ⟨?_, fun s kind sl cw odd flag lw off chan entry => enterCopy_enters (s := s) (sl := sl) cw odd flag chan entry, ?_⟩
  · intro i kind d a b l s tm sl v wide f off n lw next bank flag hi hg hloads hlabel
    have hf : copyForm kind d a b = f := copyForm_eq kind d a b
    have hlen : copyLength kind (lowWord v.d) = n := copyLength_eq kind v.d
    have hissue := copyIssue_of_gathers (hf ▸ hg) hloads hlabel
    rw [exec_of_copy hi, hissue]
    refine ⟨fun fld x hbad => ?_, fun hok hinside => ?_⟩
    · rw [hbad, hf]
      rfl
    · have hcheck := memoryCheck_inside (by dsimp only [n]; split <;> omega) hinside lw (copyNeed kind)
      rw [hok, hf, hlen]
      dsimp only
      refine ⟨fun hal => ?_, fun hal hflag => ⟨fun hfull => ?_, fun chan hchan hkind => ?_, fun chan e hchan hkind hentry => ?_⟩⟩
      · have hmis : memoryCheck lw off n (copyNeed kind) = some .misaligned := hcheck.trans (if_pos hal)
        rw [show copyOffset kind v = off from rfl, hmis]
        rfl
      all_goals
        have hpass : memoryCheck lw off n (copyNeed kind) = none := hcheck.trans (if_neg (not_not.2 hal))
        rw [show copyOffset kind v = off from rfl, hpass, hflag]
        dsimp only
      · obtain ⟨held, hwait⟩ := copyEnters_of_full hfull
        rw [hwait]
        exact exists_waitTile s held
      · rw [copyEnters_of_channel hchan hkind, ← if_neg (t := (0 : Word)) (e := lowWord v.b) hkind]
        rfl
      · rw [copyEnters_of_entry hchan hkind hentry, ← if_pos (t := (0 : Word)) (e := lowWord v.b) hkind]
        rfl
  · intro i kind d a b m s tm sl v check tile arg f next hi hg
    obtain ⟨check', tile', arg', hexec, hcheck, rfl, rfl⟩ := exec_of_array hi s
    rw [hexec, arrayIssue_of_gathers hg, hcheck]
    refine ⟨fun fld x hbad => ?_, fun hok hfull => ?_, fun e hok hentry => ⟨?_, enterArray_enters sl kind _ _ _ e⟩⟩
    · rw [hbad]
      rfl
    · rw [hok, hfull]
      exact exists_waitTile ..
    · rw [hok, hentry]
      rfl

end Sys2Proof.Machine
end

section
/-! CLAIM. TWAIT, TEMPTY, TSTAT, ACCV and WREF (R247, R260 to R264, R301, R302). -/

namespace Sys2Proof.Machine

/-! ### Objects and their states (R241, R247, R252) -/

/-- What an object word has to be: no bit above bit 7, and a slot of the bank or a declared tile (R247). -/
theorem objOk_iff (tm : Team) (w : Word) : objOk tm w = true ↔
    w.toNat / 256 = 0 ∧ (if w.getLsbD 6 then w.toNat % 64 < 8 else 0 < tm.tileChunks (w.toNat % 64)) := by
  have hhigh : wfield w 31 8 = 0 ↔ w.toNat / 256 = 0 := by
    have := w.isLt
    unfold wfield
    omega
  have hindex : objIndex w = w.toNat % 64 := by simp [objIndex, wfield]
  unfold objOk objSlot
  rw [hindex, Bool.and_eq_true, beq_iff_eq, hhigh]
  split <;> simp [*]

theorem getLsbD_chunkMask (n k : Nat) : (chunkMask 0 n).getLsbD k = decide (k < 64 ∧ k < n) := by
  unfold chunkMask
  rw [Nat.pow_zero, Nat.mul_one, BitVec.getLsbD_ofNat, Nat.testBit_two_pow_sub_one, Bool.decide_and]

/-- A mask of bits is set among others exactly when each of them is. -/
theorem and_eq_right_iff (x y : DWord) : (x &&& y == y) = true ↔ ∀ k, y.getLsbD k = true → x.getLsbD k = true := by
  rw [beq_iff_eq]
  constructor
  · intro h k hk
    have hbit := congrArg (·.getLsbD k) h
    simp only [BitVec.getLsbD_and, hk, Bool.and_true] at hbit
    exact hbit
  · intro h
    refine BitVec.eq_of_getLsbD_eq fun k _ => ?_
    rw [BitVec.getLsbD_and]
    cases hy : y.getLsbD k with
    | false => exact Bool.and_false _
    | true => rw [h k hy, Bool.and_true]

/-- FULL of a tile of at most 64 chunks: each of them is there (R241). -/
theorem Tile.full_iff (x : Tile) {n : Nat} (hpos : 0 < n) (hle : n ≤ 64) : x.full n = true ↔ ∀ k, k < n → x.map.getLsbD k = true := by
  unfold Tile.full
  rw [Bool.and_eq_true, and_eq_right_iff, and_iff_right (decide_eq_true hpos)]
  refine forall_congr' fun k => ?_
  rw [getLsbD_chunkMask, decide_eq_true_iff]
  exact ⟨fun h hk => h ⟨by omega, hk⟩, fun h hk => h hk.2⟩

theorem Tile.isEmpty_iff (x : Tile) : x.isEmpty = true ↔ x.map = 0 ∧ x.claim = 0 := by
  simp [Tile.isEmpty]

theorem WSlot.isEmpty_iff (x : WSlot) : x.isEmpty = true ↔ x.full = false ∧ x.claim = false := by
  simp [WSlot.isEmpty]

/-- The chunks that a mask of the lowest ones shows. -/
theorem filter_chunkMask {n : Nat} (hle : n ≤ 64) : ((List.range 64).filter fun k => (chunkMask 0 n).getLsbD k) = List.range n := by
  have hsplit : List.range 64 = List.range n ++ (List.range (64 - n)).map (n + ·) := by
    rw [← List.range_add, Nat.add_sub_cancel' hle]
  rw [hsplit, List.filter_append, List.filter_eq_self.2, List.filter_eq_nil_iff.2, List.append_nil]
  · intro k hk
    obtain ⟨j, -, rfl⟩ := List.mem_map.1 hk
    rw [getLsbD_chunkMask]
    simp
  · intro k hk
    have := List.mem_range.1 hk
    rw [getLsbD_chunkMask]
    exact decide_eq_true ⟨by omega, this⟩

theorem Tile.tsFull_eq (x : Tile) {n : Nat} (hle : n ≤ 64) : x.tsFull n = foldTimes none ((List.range n).map (Table.get x.ts)) := by
  rw [Tile.tsFull, Tile.tsOf, filter_chunkMask hle]

/-! ### Status words (R260, R264, R302) -/

theorem bitAt_eq (b : Bool) (n : Nat) : bitAt b n = b.toNat * 2 ^ n := by
  cases b <;> simp [bitAt]

/-- The fields of the status word that TSTAT gives (R264). -/
theorem statusWord_fields {e : Word} {st : Byte} {p : Nat} (hp : p ≤ 255) (c em fu : Bool) :
    let x := BitVec.ofNat 64 (e.toNat * 2 ^ 32 + st.toNat * 2 ^ 24 + p * 256 + bitAt c 2 + bitAt em 1 + bitAt fu 0)
    x.toNat / 2 ^ 32 = e.toNat ∧ x.toNat / 2 ^ 24 % 2 ^ 8 = st.toNat ∧ x.toNat / 2 ^ 8 % 2 ^ 8 = p ∧
      (x.getLsbD 2 = true ↔ c = true) ∧ (x.getLsbD 1 = true ↔ em = true) ∧ (x.getLsbD 0 = true ↔ fu = true) := by
  intro x
  have he := e.isLt
  have hst := st.isLt
  have hc := c.toNat_le
  have hem := em.toNat_le
  have hfu := fu.toNat_le
  have hx : x.toNat = e.toNat * 2 ^ 32 + st.toNat * 2 ^ 24 + p * 256 + c.toNat * 2 ^ 2 + em.toNat * 2 ^ 1 + fu.toNat * 2 ^ 0 := by
    rw [← bitAt_eq, ← bitAt_eq, ← bitAt_eq]
    refine BitVec.toNat_ofNat .. |>.trans (Nat.mod_eq_of_lt ?_)
    rw [bitAt_eq, bitAt_eq, bitAt_eq]
    omega
  simp only [BitVec.getLsbD, Nat.testBit_eq_decide_div_mod_eq, decide_eq_true_eq, hx]
  simp only [← Bool.toNat_eq_one]
  omega

/-- WREF (R302): how long the refresh of a bank goes on, or when the next begins. -/
theorem wrefOp_spec {s : State} (hfull : s.service.halved = false) {n : Nat} (hn : n < 32) :
    let p := s.wall % 67200
    let start := 2100 * n
    (start ≤ p ∧ p < start + 2100 → wrefOp s n = 2 ^ 31 + (start + 2100 - p)) ∧
    (p < start → wrefOp s n = start - p) ∧ (start + 2100 ≤ p → wrefOp s n = start + 67200 - p) := by
  intro p start
  have hrefresh : refreshing s n = true ↔ start ≤ p ∧ p < start + 2100 := by
    unfold refreshing refreshWindow
    rw [beq_iff_eq]
    omega
  have hp : p < 67200 := Nat.mod_lt _ (by decide)
  have hop : wrefOp s n = if refreshing s n then 2 ^ 31 + (start + 2100 - p) else (start + 67200 - p) % 67200 := by
    simp only [wrefOp, atClock, hfull, Bool.false_eq_true, if_false]
    rfl
  rw [hop]
  refine ⟨fun h => if_pos (hrefresh.2 h), fun h => ?_, fun h => ?_⟩
  · rw [if_neg fun hr => absurd (hrefresh.1 hr).1 (by omega)]
    omega
  · rw [if_neg fun hr => absurd (hrefresh.1 hr).2 (by omega)]
    omega

/-! ### The instructions -/

/-- TWAIT without a mask waits for EMPTY where the object word says SUB, and for FULL otherwise (R262). -/
theorem twaitHolds_full (tm : Team) (b : Bank) (w : Word) (mask : DWord) : twaitHolds tm b w .full mask =
    if objSub w then (if objSlot w then (b.slot (objIndex w)).isEmpty else (tm.tile (objIndex w)).isEmpty)
    else (if objSlot w then (b.slot (objIndex w)).full else (tm.tile (objIndex w)).full (tm.tileChunks (objIndex w))) := by
  unfold twaitHolds
  cases objSlot w <;> cases objSub w <;> rfl

section
variable {s : State} {tm : Team} {sl : Slice} {v : Vals} {d : Dst} {a b : Src}

theorem execTwait_of_gathers (m : Twc) (hg : Gathers s (formAB true a .w32 b .w64) (.ok ()) tm sl v) :
    let f := formAB true a .w32 b .w64
    let w := lowWord v.a
    let bank := (core s s.cur.core).active
    execTwait a b m s = .next (
      if !objOk tm w then trapSlice s s.cur (commandTrap f sl.pc 2 v.a)
      else if m = .mask ∧ (objSlot w || objSub w) then
        trapSlice s s.cur { cause := .badModifier, field := 4, next := nextPc sl.pc f.len, info0 := 1 }
      else if twaitHolds tm bank w m v.b then finishNone v (nextPc sl.pc f.len) (mergeStamp s s.cur.core (twaitTs tm bank w m v.b))
      else waitTile s (bank.holders s.cur.slot w)) := run_of_gathers hg _

theorem execTempty_of_gathers (hg : Gathers s (formA true a) (.ok ()) tm sl v) :
    let w := lowWord v.a
    execTempty a s = .next (
      if !objOk tm w || objSub w then trapSlice s s.cur (commandTrap (formA true a) sl.pc 2 v.a)
      else finishNone v (nextPc sl.pc (formA true a).len) (modBank s s.cur.core fun b =>
        { b with tempties := b.tempties ++ [⟨s.cur.slot, w, b.nextOrder, sl.pc⟩], nextOrder := b.nextOrder + 1 })) :=
  run_of_gathers hg _

theorem execTstat_of_gathers (hg : Gathers s (form2 true d .w64 a .w32) (.ok ()) tm sl v) :
    let f := form2 true d .w64 a .w32
    let w := lowWord v.a
    let bank := (core s s.cur.core).active
    execTstat d a s = .next (
      if !objOk tm w || (objSub w && objSlot w) then trapSlice s s.cur (commandTrap f sl.pc 2 v.a)
      else finish f sl v (if objSub w then (tm.tile (objIndex w)).map else tstatWord tm bank s.cur.slot w) 0
        (mergeStamp s s.cur.core (tstatTs tm bank w))) := run_of_gathers hg _

end

/-- The fields of TSTAT's word are those of its object (R264). -/
theorem tstatWord_fields (tm : Team) (b : Bank) (slot : Nat) (w : Word) :
    let n := objIndex w
    let x := tstatWord tm b slot w
    x.toNat / 2 ^ 32 = (if objSlot w then (b.slot n).errOff else (tm.tile n).errOff).toNat ∧
    x.toNat / 2 ^ 24 % 2 ^ 8 = (if objSlot w then (b.slot n).status else (tm.tile n).status).toNat ∧
    x.toNat / 2 ^ 8 % 2 ^ 8 = min 255 (b.pend slot w) ∧
    (x.getLsbD 2 = true ↔ if objSlot w then (b.slot n).claim = true else (tm.tile n).claim ≠ 0) ∧
    (x.getLsbD 1 = true ↔ (if objSlot w then (b.slot n).isEmpty else (tm.tile n).isEmpty) = true) ∧
    (x.getLsbD 0 = true ↔ (if objSlot w then (b.slot n).full else (tm.tile n).full (tm.tileChunks n)) = true) := by
  intro n x
  cases h : objSlot w with
  | true =>
    simp only [x, tstatWord, h, if_true]
    exact statusWord_fields (min_le_left ..) _ _ _
  | false =>
    simp only [x, tstatWord, h, Bool.false_eq_true, if_false, ← bne_iff_ne]
    exact statusWord_fields (min_le_left ..) _ _ _

/-- Settles O51: each instruction's checks in their order, then its condition or its word. -/
theorem tileInstructions : Obligations.TileInstructions := by
  intro i d a b m s tm sl v w n bank slotBit subBit fw fe f64 f32 known full empty chunks shown ts waits refuse
  have hindex : objIndex w = n := by simp [objIndex, wfield, n]
  have hslot : objSlot w = slotBit := rfl
  have hsub : objSub w = subBit := rfl
  have hknown : objOk tm w = true ↔ known := objOk_iff tm w
  have hbad : (!objOk tm w) = true ↔ ¬ known := by rw [Bool.not_eq_true', ← Bool.not_eq_true, hknown]
  have hfull (hk : known) (hle : slotBit = false → tm.tileChunks n ≤ 64) :
      (if slotBit then (bank.slot n).full else (tm.tile n).full (tm.tileChunks n)) = true ↔ full := by
    have hk2 := hk.2
    dsimp only [full]
    cases h : slotBit with
    | true => simp
    | false =>
      simp only [h, Bool.false_eq_true, if_false] at hk2 ⊢
      exact Tile.full_iff _ hk2 (hle h)
  have hempty : (if slotBit then (bank.slot n).isEmpty else (tm.tile n).isEmpty) = true ↔ empty := by
    dsimp only [empty]
    cases slotBit with
    | true => simp only [if_true]; exact WSlot.isEmpty_iff _
    | false => simp only [Bool.false_eq_true, if_false]; exact Tile.isEmpty_iff _
  have hwaits {x : State} (held : List (Nat × Word)) (hx : x = waitTile s held) (h : exec i s = .next x) : waits := by
    obtain ⟨b, hb⟩ := exists_waitTile s held
    exact ⟨b, h.trans ((congrArg _ hx).trans hb)⟩
  refine ⟨fun hi hg => ?_, fun hi hg => ?_, fun hi hg => ?_, fun hi hg => ?_, fun hi hg => ?_⟩
  · have hexec : exec i s = .next _ := (congrArg (exec · s) hi).trans (execTwait_of_gathers m hg)
    change _ = Host.Outcome.next (if !objOk tm w then _ else if m = .mask ∧ (objSlot w || objSub w) then _
      else if twaitHolds tm bank w m v.b then finishNone v (nextPc sl.pc fw.len) (mergeStamp s s.cur.core (twaitTs tm bank w m v.b))
      else waitTile s (bank.holders s.cur.slot w)) at hexec
    refine ⟨fun h => hexec.trans (congrArg _ (if_pos (hbad.2 h))), fun hk hm hle => ?_,
      fun hk hm h => hexec.trans (congrArg _ ((if_neg fun hb => hbad.1 hb hk).trans (if_pos ⟨hm, Bool.or_eq_true_iff.2 h⟩))),
      fun hk hm hslot0 hsub0 => ?_⟩
    · subst hm
      have hholds : twaitHolds tm bank w .full v.b = true ↔ (if subBit then empty else full) := by
        rw [twaitHolds_full, hindex, hslot, hsub]
        cases subBit with
        | true => exact hempty
        | false => exact hfull hk hle
      have hts : twaitTs tm bank w .full v.b = ts := by
        simp only [twaitTs, hindex, hslot, hsub, ts]
        split
        · rfl
        · next h0 =>
          rw [Tile.tsFull_eq _ (hle (Bool.eq_false_iff.2 h0))]
          rfl
      rw [if_neg fun hb => hbad.1 hb hk, if_neg fun hc => nomatch hc.1] at hexec
      exact ⟨fun h => (hexec.trans (congrArg _ (if_pos (hholds.2 h)))).trans (by rw [hts]; rfl), fun h => hwaits _ (if_neg fun hh => h (hholds.1 hh)) hexec⟩
    · subst hm
      have hneither : ¬ (objSlot w || objSub w) = true := by rw [hslot, hsub, hslot0, hsub0]; exact Bool.false_ne_true
      have hholds : twaitHolds tm bank w .mask v.b = true ↔ ∀ k, v.b.getLsbD k = true → (tm.tile n).map.getLsbD k = true := by
        simp only [twaitHolds, hindex, hslot, hslot0, Bool.false_eq_true, if_false]
        exact and_eq_right_iff ..
      have hts : twaitTs tm bank w .mask v.b = chunks (shown v.b) := by
        simp only [twaitTs, hindex, hslot, hslot0, Bool.false_eq_true, if_false]
        rfl
      rw [if_neg fun hb => hbad.1 hb hk, if_neg fun hc => hneither hc.2, hts] at hexec
      exact ⟨fun h => hexec.trans (congrArg _ (if_pos (hholds.2 h))), fun h => hwaits _ (if_neg fun hh => h (hholds.1 hh)) hexec⟩
  · have hexec : exec i s = .next _ := (congrArg (exec · s) hi).trans (execTempty_of_gathers hg)
    refine ⟨fun h => hexec.trans (congrArg _ (if_pos (Bool.or_eq_true_iff.2 (h.imp hbad.2 id)))), fun hk hsub0 => ?_⟩
    exact hexec.trans (congrArg _ (if_neg fun hb =>
      (Bool.or_eq_true_iff.1 hb).elim (fun hb => hbad.1 hb hk) (Bool.eq_false_iff.1 hsub0)))
  · have hexec : exec i s = .next _ := (congrArg (exec · s) hi).trans (execTstat_of_gathers hg)
    change _ = Host.Outcome.next (if !objOk tm w || (objSub w && objSlot w) then _
      else finish f64 sl v (if subBit then (tm.tile (objIndex w)).map else tstatWord tm bank s.cur.slot w) 0
        (mergeStamp s s.cur.core (tstatTs tm bank w))) at hexec
    rw [hindex] at hexec
    refine ⟨fun h => ?_, fun hk h => ?_⟩
    · exact hexec.trans (congrArg _ (if_pos (Bool.or_eq_true_iff.2 (h.imp hbad.2 fun hboth => Bool.and_eq_true_iff.2 hboth))))
    · have hnot : ¬ (objSub w && objSlot w) = true := fun hb => by
        obtain ⟨h1, h2⟩ := Bool.and_eq_true_iff.1 hb
        exact h.elim (Bool.eq_false_iff.1 · h1) (Bool.eq_false_iff.1 · h2)
      rw [if_neg fun hb => (Bool.or_eq_true_iff.1 hb).elim (fun hb => hbad.1 hb hk) hnot] at hexec
      refine ⟨_, _, hexec, fun hs => ⟨if_pos hs, ?_⟩, fun hs hle => ?_⟩
      · have hs0 : objSlot w = false := h.resolve_left (by rw [hs]; decide)
        show tstatTs tm bank w = _
        simp only [tstatTs, hs0, hindex, show objSub w = true from hs, Bool.false_eq_true, if_false, if_true]
        exact congrArg (fun x => chunks (shown x)) (if_pos hs).symm
      · obtain ⟨h1, h2, h3, h4, h5, h6⟩ := tstatWord_fields tm bank s.cur.slot w
        rw [if_neg (Bool.eq_false_iff.1 hs)]
        rw [hindex, hslot] at h1 h2 h4 h5 h6
        exact ⟨h1, h2, h3, h4, h5.trans hempty, h6.trans (hfull hk hle)⟩
  · have hexec : exec i s = .next (if tm.decl.accs ≤ v.a.toNat then trapSlice s s.cur (commandTrap f32 sl.pc 2 v.a)
        else finish f32 sl v (BitVec.ofNat 64 ((tm.acc v.a.toNat).status.toNat * 65536 + (tm.acc v.a.toNat).version.toNat)) 0 s) :=
      hi ▸ run_of_gathers hg _
    exact ⟨fun h => hexec.trans (congrArg _ (if_pos h)), fun h => hexec.trans (congrArg _ (if_neg (not_le.2 h)))⟩
  · have hexec : exec i s = .next (if 32 ≤ v.a.toNat then trapSlice s s.cur (commandTrap f32 sl.pc 2 v.a)
        else finish f32 sl v (BitVec.ofNat 64 (wrefOp s v.a.toNat)) 0 s) := hi ▸ run_of_gathers hg _
    exact ⟨fun h => hexec.trans (congrArg _ (if_pos h)), fun h hclock =>
      ⟨wrefOp s v.a.toNat, hexec.trans (congrArg _ (if_neg (not_le.2 h))), wrefOp_spec hclock h⟩⟩

end Sys2Proof.Machine
end

section
/-! CLAIM. LAUNCH, the counters, CANCEL, LINV and FLUSHR (R328 to R332, R344, R345). -/

namespace Sys2Proof.Machine

/-! ### What reading a record leaves of the state (R329) -/

/-- What a write of the package's own can change: the memories and their keys, the home slices, and what cores hold of the lines. -/
theorem writeDevice_frame (s : State) (pa key : Nat) (bs : List Byte) : ∃ m k h l c w, writeDevice s pa key bs =
    { s with mem := m, sectorKeys := k, hostMem := h, lines := l, cores := c, waiters := w } := by
  obtain ⟨m, k, hwrite⟩ := rekeyed_writeKeyed s key pa bs
  unfold writeDevice
  split
  · rw [hwrite]
    exact ⟨m, k, s.hostMem, _, _, _, rfl⟩
  · split
    · exact ⟨s.mem, s.sectorKeys, _, s.lines, s.cores, s.waiters, rfl⟩
    · exact ⟨s.mem, s.sectorKeys, s.hostMem, s.lines, s.cores, s.waiters, rfl⟩

@[simp] theorem writeDevice_cur (s : State) (pa key : Nat) (bs : List Byte) : (writeDevice s pa key bs).cur = s.cur := by
  obtain ⟨_, _, _, _, _, _, h⟩ := writeDevice_frame s pa key bs
  rw [h]

@[simp] theorem setParty_cur (s : State) (p : Party) (t : Word) : (setParty s p t).cur = s.cur := by
  cases p <;> rfl

@[simp] theorem makeRoom_cur (s : State) (line : Nat) : (makeRoom s line).cur = s.cur := by
  unfold makeRoom
  split
  · rfl
  · dsimp only
    split
    · rfl
    · split
      · unfold evictLine
        split <;> rfl
      · rfl

@[simp] theorem readMain_cur (s : State) (c pa key size : Nat) (cache fresh : Bool) :
    (readMain s c pa key size cache fresh).2.cur = s.cur := by
  have hrenew : (renewLine s (.core c) (pa / 128)).1.cur = s.cur := by
    unfold renewLine
    rw [setParty_cur]
    exact makeRoom_cur ..
  unfold readMain
  dsimp only
  split
  · rfl
  · cases cache <;> exact hrenew

theorem readLines_cur (s : State) (c pa key size : Nat) (cache : Bool) : (readLines s c pa key size cache).2.cur = s.cur := by
  suffices h : ∀ (ls : List Nat) (r : List Byte × State), (ls.foldl (fun r l =>
      let lo := max pa (128 * l)
      let hi := min (pa + size) (128 * l + 128)
      let x := readMain r.2 c lo key (hi - lo) cache false
      (r.1 ++ x.1, x.2)) r).2.cur = r.2.cur from h _ ([], s)
  intro ls
  induction ls with
  | nil => exact fun _ => rfl
  | cons l ls ih => exact fun r => (ih _).trans (readMain_cur ..)

theorem drainTouching_cur (s : State) (w : SliceName) (pa size : Nat) : (drainTouching s w pa size).cur = s.cur := by
  unfold drainTouching deliverPicked
  dsimp only
  rw [foldl_deliverCombined]

theorem writeBackLine_cur {s t : State} {c : Nat} {tm : Team} {w : Option Nat} {line : Nat} {bs : List Byte}
    (h : writeBackLine s c tm w line bs = .ok t) : t.cur = s.cur := by
  have hkeep (cs : List (Lvl × EntryCopy)) := (onlyCopies_keepCopies s c cs).cur
  unfold writeBackLine at h
  split at h
  · cases h
  · dsimp only at h
    split at h
    · split at h <;> cases h
      rw [writeDevice_cur, hkeep]
    · cases h
      exact hkeep _
    all_goals cases h

theorem stackRoom_cur {s t : State} {c : Nat} (h : stackRoom s c = .ok t) : t.cur = s.cur := by
  unfold stackRoom at h
  dsimp only at h
  split at h
  · cases h; rfl
  · split at h
    · cases h; rfl
    · split at h
      · cases h; rfl
      · split at h
        · cases h; rfl
        · obtain ⟨u, hu, rfl⟩ := map_ok h
          exact (modSlice_cur ..).trans (writeBackLine_cur hu)

theorem openStack_cur {s t : State} {id : SliceId} {off : Nat} {pa : Option Nat} (h : openStack s id off false = .ok (t, pa)) :
    t.cur = s.cur := by
  unfold openStack at h
  split at h
  · cases h; rfl
  · dsimp only at h
    split at h
    · cases h; rfl
    · obtain ⟨p, -, h⟩ := bind_ok h
      split at h
      · cases h
        exact (onlyCopies_keepCopies ..).cur
      · obtain ⟨bs, -, h⟩ := bind_ok h
        obtain ⟨u, hu, h⟩ := bind_ok h
        cases h
        rw [touchWay_cur, modSlice_cur, stackRoom_cur hu]
        exact (onlyCopies_keepCopies ..).cur

theorem loadStack_cur {s t : State} {id : SliceId} {off size : Nat} {bs : List Byte} (h : loadStack s id off size = .ok (t, bs)) :
    t.cur = s.cur := by
  obtain ⟨⟨u, pa⟩, hu, hr⟩ := map_ok h
  cases pa with
  | none =>
    cases hr
    exact openStack_cur hu
  | some pa =>
    cases hr
    refine Eq.trans ?_ (openStack_cur hu)
    unfold drainOwn
    split
    · rfl
    · exact drainTouching_cur ..

theorem loadPieces_cur {id : SliceId} : ∀ {xs : List (Nat × Nat)} {s t : State} {bs : List Byte},
    loadPieces id xs s = .ok (t, bs) → t.cur = s.cur
  | [], s, t, bs, h => by cases h; rfl
  | x :: xs, s, t, bs, h => by
    unfold loadPieces at h
    split at h
    · cases h
    · next hload =>
      obtain ⟨r, hr, hpair⟩ := map_ok h
      cases hpair
      exact (loadPieces_cur hr).trans (loadStack_cur hload)

/-- A record is read for the slice that stands at its instruction. -/
theorem readRecord_cur {s u : State} {tm : Team} {sl : Slice} {p : Path} {lw off : DWord} {next : Word} {bs : List Byte}
    (h : readRecord s tm sl p lw off next = .bytes u bs) : u.cur = s.cur := by
  unfold readRecord at h
  dsimp only at h
  split at h
  · cases h
  · split at h
    · cases h
      exact readLines_cur ..
    · cases h; rfl
    · cases h; rfl
    · cases h
      exact drainTouching_cur ..
    · split at h <;> cases h
      rfl
    · split at h <;> cases h
      exact loadPieces_cur ‹_›
    all_goals cases h

/-! ### Counters (R328, R330, R331) -/

section
variable {s : State} {f : Form} {tm : Team} {sl : Slice} {v : DWord} (k : State)

/-- A counter that a slice may use: its index, and what its control word says, with nothing against the reading of it (R328, R311). -/
def OwnCounter (s : State) (world : Nat) (v : DWord) : Prop :=
  v.toNat < 4096 ∧ counterHold s v.toNat = none ∧ counterValid s v.toNat = true ∧ counterWorld s v.toNat = world

theorem withCounter_of_own (h : OwnCounter s tm.world v) : withCounter s f tm sl v k = k := by
  obtain ⟨hindex, hhold, hvalid, hworld⟩ := h
  simp [withCounter, counterStop, Nat.not_le.2 hindex, hhold, hvalid, hworld]

theorem withCounter_of_large (h : 4096 ≤ v.toNat) : withCounter s f tm sl v k =
    trapSlice s s.cur { cause := .badOperand, field := 2, next := nextPc sl.pc f.len, info0 := v } := if_pos h

theorem withCounter_of_stop {c : Cause} (hindex : v.toNat < 4096) (hhold : counterHold s v.toNat = none)
    (hstop : counterStop s tm.world v.toNat = some c) : withCounter s f tm sl v k = openStop s c v (nextPc sl.pc f.len) := by
  simp [withCounter, Nat.not_le.2 hindex, hhold, hstop]

end

theorem counterStop_of_invalid {s : State} {world i : Nat} (h : counterValid s i = false) : counterStop s world i = some .labelDenied := by
  simp [counterStop, h]

theorem counterStop_of_otherWorld {s : State} {world i : Nat} (hvalid : counterValid s i = true) (h : counterWorld s i ≠ world) :
    counterStop s world i = some .wrongWorld := by
  simp [counterStop, hvalid, h]

/-- An addition to a counter changes the counter, its timestamp and what the launches know of their waits, and nothing else. -/
theorem addCounter_frame (s : State) (i : Nat) (n : Word) (ts : Option Word) : ∃ l c, addCounter s i n ts =
    { s with counters := Table.put s.counters i (counterValue s i + n), launches := l, counterTs := c } := by
  unfold addCounter
  cases ts with
  | none => exact ⟨_, s.counterTs, rfl⟩
  | some t =>
    dsimp only
    split
    · exact ⟨_, s.counterTs, rfl⟩
    · exact ⟨_, _, rfl⟩

/-- The counter has the number added, and no other has changed (R330). -/
theorem addCounter_adds (s : State) (i : Nat) (n : Word) (ts : Option Word) :
    let u := addCounter s i n ts
    counterValue u i = counterValue s i + n ∧ (∀ k, k ≠ i → counterValue u k = counterValue s k) ∧ u.cores = s.cores ∧ u.mem = s.mem := by
  obtain ⟨l, c, h⟩ := addCounter_frame s i n ts
  dsimp only
  rw [h]
  exact ⟨Table.getD_put_self .., fun k hk => Table.getD_put_ne _ _ _ hk, rfl, rfl⟩

/-! ### Violations of a queue, counter or level (R328, R344) -/

theorem openStop_faults (s : State) (c : Cause) (v : DWord) (next : Word) :
    ∃ pf : PathFault, pf.cause = c ∧ pf.level = 0 ∧ openStop s c v next = faultWith s s.cur pf v 0 0 0 next :=
  ⟨openFault c, rfl, rfl, rfl⟩

section
variable {s : State} {tm : Team} {sl : Slice} {v : Vals}

/-! ### LAUNCH (R329) -/

/-- LAUNCH of a queue that serves the team's world, with its waits over, its slot free and its record read. -/
theorem launch_submits {d : Dst} {a b : Src} {l : Fin 8} (hloads : loadsPending tm = false)
    (hlabel : labelPending s (tm.name none) l.val = false)
    (hg : Gathers s ((form3 true d .w32 a .w64 b .w32).as .read) (.ok ()) tm sl v) :
    let f := (form3 true d .w32 a .w64 b .w32).as .read
    let q := v.d.toNat
    let lw := tm.label l
    execLaunch d a b l s = .next (
      if 256 ≤ q then trapSlice s s.cur { cause := .badOperand, field := 1, next := nextPc sl.pc f.len, info0 := v.d }
      else if let some h := queueHold s q then faultSlice s s.cur (.ofHold h) lw (offDisp v) 256 (nextPc sl.pc f.len)
      else if !(queueView s q).valid || !(queueView s q).src then openStop s .labelDenied v.d (nextPc sl.pc f.len)
      else if (queueView s q).world ≠ tm.world then openStop s .wrongWorld v.d (nextPc sl.pc f.len)
      else match accessPath s s.cur tm sl lw (offDisp v) { kind := .record q, size := 256, need := permR, align := 64 } with
        | .error st => stopAccess s s.cur st lw (offDisp v) 256 (nextPc sl.pc f.len)
        | .ok p => launchAt s f tm sl v q { kind := .record q, size := 256, need := permR, align := 64 } p lw (offDisp v)) :=
  runOwn_of_gather hg.1 (hg.gather_own (heldByLoads_heldByLabel_ok hloads hlabel))

/-- The record is submitted once the slice's stores are over, a slot is free, and the record has been read. -/
theorem launchAt_submits {f : Form} {q : Nat} {op : MemOp} {p : Path} {lw off : DWord} {u : State} {bs : List Byte}
    (hstores : storesPending s (tm.name none) = false) (hearlier : earlierPending s (tm.name none) (placeOf p off).scope = false)
    (hfree : slotFree s q (tm.name none) = true) (htarget : targetOf p.dest = none)
    (hslot : slotHold s q (queueView s q).tail.toNat true = none)
    (hread : readRecord (keepCopies s s.cur.core p.copies) tm sl p lw off (nextPc sl.pc f.len) = .bytes u bs) :
    launchAt s f tm sl v q op p lw off =
      finishNone v (nextPc sl.pc f.len) (submitRecord u q (tm.name none) bs (core u s.cur.core).ct) := by
  have hcur : u.cur = s.cur := (readRecord_cur hread).trans (onlyCopies_keepCopies ..).cur
  simp only [launchAt, hstores, hearlier, hfree, htarget, hslot, hread, hcur, Bool.or_self, Bool.false_eq_true, if_false, Bool.not_true]

/-! ### Instructions of one counter -/

theorem cnta_of_gathers {a b : Src} (hloads : loadsPending tm = false) (hg : Gathers s (formAB true a .w32 b .w32) (.ok ()) tm sl v) :
    execCnta a b s = .next (withCounter s (formAB true a .w32 b .w32) tm sl v.a <|
      if storesPending s (tm.name none) then waitSlice s s.cur .memory
      else
        let s := if counterExport s v.a.toNat then drainCombiner s fun _ => true else s
        finishNone v (nextPc sl.pc (formAB true a .w32 b .w32).len)
          (addCounter s v.a.toNat (lowWord v.b) (some (core s s.cur.core).ct))) :=
  runOwn_of_gather hg.1 (hg.gather_own (heldByLoads_ok fun _ => hloads))

theorem cntw_of_gathers {a b : Src} (hg : Gathers s (formAB true a .w32 b .w32) (.ok ()) tm sl v) :
    execCntw a b s = .next (withCounter s (formAB true a .w32 b .w32) tm sl v.a <|
      if reached (counterValue s v.a.toNat) (lowWord v.b) then
        finishNone v (nextPc sl.pc (formAB true a .w32 b .w32).len) (mergeStamp s s.cur.core (Table.get s.counterTs v.a.toNat))
      else waitSlice s s.cur .barrier) :=
  run_of_gathers hg _

theorem cancel_of_gathers {a : Src} (m : Wrk) (hloads : loadsPending tm = false) (hg : Gathers s (formA true a) (.ok ()) tm sl v) :
    execCancel a m s = .next (withCounter s (formA true a) tm sl v.a <|
      if let some h := cancelHold s tm.world then faultSlice s s.cur (.ofHold h) 0 0 256 (nextPc sl.pc (formA true a).len)
      else cancelWork (finishNone v (nextPc sl.pc (formA true a).len) s) tm.world m v.a.toNat) :=
  runOwn_of_gather hg.1 (hg.gather_own (heldByLoads_ok fun _ => hloads))

/-- The three instructions of one counter: their form, and that the check of their counter comes before all else they do (R328). -/
theorem exec_withCounter {i : Instr} {a b : Src} {m : Wrk} {f : Form} (hloads : loadsPending tm = false)
    (hi : i = .cnta a b ∨ i = .cntw a b ∨ i = .cancel a m)
    (hf : f = if i = .cancel a m then formA true a else formAB true a .w32 b .w32)
    (hg : Gathers s f (.ok ()) tm sl v) : ∃ k, exec i s = .next (withCounter s f tm sl v.a k) := by
  obtain rfl | rfl | rfl := hi
  · rw [if_neg nofun] at hf
    subst hf
    exact ⟨_, cnta_of_gathers hloads hg⟩
  · rw [if_neg nofun] at hf
    subst hf
    exact ⟨_, cntw_of_gathers hg⟩
  · rw [if_pos rfl] at hf
    subst hf
    exact ⟨_, cancel_of_gathers m hloads hg⟩

/-- CNTA with its stores over: the addition, the combined writes delivered before it where the counter is exported (R330, R369). -/
theorem cnta_adds {a b : Src} (hloads : loadsPending tm = false) (hg : Gathers s (formAB true a .w32 b .w32) (.ok ()) tm sl v)
    (hown : OwnCounter s tm.world v.a) (hstores : storesPending s (tm.name none) = false) :
    ∃ u, exec (.cnta a b) s = .next (finishNone v (nextPc sl.pc (formAB true a .w32 b .w32).len) u) ∧
      counterValue u v.a.toNat = counterValue s v.a.toNat + lowWord v.b ∧
      (∀ k, k ≠ v.a.toNat → counterValue u k = counterValue s k) ∧ u.cores = s.cores ∧ u.mem = s.mem := by
  have hexec := cnta_of_gathers hloads hg
  rw [withCounter_of_own _ hown, if_neg (Bool.eq_false_iff.1 hstores)] at hexec
  refine ⟨_, hexec, ?_⟩
  split
  · have hadds := addCounter_adds (drainCombiner s fun _ => true) v.a.toNat (lowWord v.b)
      (some (core (drainCombiner s fun _ => true) (drainCombiner s fun _ => true).cur.core).ct)
    rw [drainCombiner_of_filter] at hadds ⊢
    exact hadds
  · exact addCounter_adds ..

end


/-! ### LINV (R344) -/

theorem linvOk_iff (m : Lvl) (x : Word) :
    linvOk m x = true ↔ x.toNat / 2 ^ 16 = 0 ∧ x ≠ 0 ∧ (m = .c → x.toNat < 0xFF00) := by
  have hne : x ≠ 0 ↔ x.toNat ≠ 0 := not_congr ⟨fun h => by rw [h]; rfl, fun h => BitVec.eq_of_toNat_eq h⟩
  have hhigh : wfield x 31 16 = x.toNat / 2 ^ 16 := Nat.mod_eq_of_lt (by have := x.isLt; omega)
  have hlow : wfield x 15 0 = x.toNat % 2 ^ 16 := by simp [wfield]
  unfold linvOk
  dsimp only
  rw [hhigh, hlow]
  simp only [hne, Bool.and_eq_true, beq_iff_eq, bne_iff_ne, Bool.not_eq_true', Bool.and_eq_false_iff,
    decide_eq_false_iff_not, beq_eq_false_iff_ne, and_assoc]
  have := x.isLt
  constructor
  · rintro ⟨h0, h1, h2⟩
    exact ⟨h0, by omega, fun hm => by have := h2.resolve_left (not_not.2 hm); omega⟩
  · rintro ⟨h0, h1, h2⟩
    exact ⟨h0, by omega, (em (m = .c)).symm.imp id fun hm => by have := h2 hm; omega⟩

/-- A property that every listed core has. -/
def EveryCore (P : Core → Prop) (s : State) : Prop := ∀ p ∈ s.cores, P p.2

theorem Table.mem_of_get {α : Type} {n : Nat} {v : α} : ∀ {t : Table α}, Table.get t n = some v → (n, v) ∈ t
  | [], h => by cases h
  | (k, w) :: t, h => by
    unfold Table.get at h
    split at h
    · next hk =>
      cases h
      rw [hk]
      exact List.mem_cons_self
    · exact List.mem_cons_of_mem _ (Table.mem_of_get h)

theorem Table.mem_put {α : Type} {n : Nat} {v : α} {x : Nat × α} : ∀ {t : Table α}, x ∈ Table.put t n v → x = (n, v) ∨ x ∈ t
  | [], h => by
    rcases List.mem_cons.1 h with h | h
    · exact .inl h
    · cases h
  | (k, w) :: t, h => by
    unfold Table.put at h
    split at h
    · exact List.mem_cons.1 h
    · split at h
      · exact (List.mem_cons.1 h).imp_right (List.mem_cons_of_mem _)
      · rcases List.mem_cons.1 h with rfl | h
        · exact .inr List.mem_cons_self
        · exact (Table.mem_put h).imp_right (List.mem_cons_of_mem _)

section
variable {P : Core → Prop} {s : State}

theorem EveryCore.core (h : EveryCore P s) (hidle : ∀ t, P (Core.idle.tickCt t)) (c : Nat) : P (Machine.core s c) := by
  unfold Machine.core Table.getD
  cases hk : Table.get s.cores c with
  | none => exact hidle _
  | some k => exact h _ (Table.mem_of_get hk)

theorem EveryCore.modCore (h : EveryCore P s) (c : Nat) {f : Core → Core} (hf : P (f (Machine.core s c))) :
    EveryCore P (Machine.modCore s c f) := by
  intro p hp
  rcases Table.mem_put hp with rfl | hp
  · exact hf
  · exact h p hp

theorem EveryCore.mapCores (h : EveryCore P s) {g : Nat × Core → Core} {t : State} (ht : t.cores = s.cores.map fun p => (p.1, g p))
    (hg : ∀ p, P p.2 → P (g p)) : EveryCore P t := by
  intro p hp
  rw [ht] at hp
  obtain ⟨q, hq, rfl⟩ := List.mem_map.1 hp
  exact hg q (h q hq)

end

theorem EveryCore.of_eq {P : Core → Prop} {s t : State} (h : EveryCore P s) (ht : t.cores = s.cores) : EveryCore P t := by
  unfold EveryCore
  rw [ht]
  exact h

/-- No scatter of a core's teams and no unit of its Sluice was walked with a label. -/
def LeavesLabel (e : Nat × BitVec 16) (k : Core) : Prop :=
  (∀ t ∈ k.active.teams, ∀ y ∈ t.2.addr.scatter, e ∉ y.path.used) ∧ ∀ x ∈ k.active.sluice, ∀ y ∈ x.2.walked, e ∉ y.used

/-- No copy that a core keeps satisfies a test. -/
def NoCopy (p : EntryCopy → Prop) (k : Core) : Prop := ∀ y ∈ k.cCopies, ¬ p y

section
variable {s : State} {e : Nat × BitVec 16} {p : EntryCopy → Prop}

theorem leavesLabel_idle (t : DWord) : LeavesLabel e (Core.idle.tickCt t) := by
  unfold LeavesLabel
  rw [show (Core.idle.tickCt t).active = Bank.empty from rfl]
  exact ⟨fun x hx => absurd hx List.not_mem_nil, fun x hx => absurd hx List.not_mem_nil⟩

theorem leavesLabel_mapTeams {f : Team → Team} (hf : ∀ tm, (f tm).addr.scatter = tm.addr.scatter) (h : EveryCore (LeavesLabel e) s) :
    EveryCore (LeavesLabel e) (mapTeams f s) := by
  refine h.mapCores (t := mapTeams f s) rfl fun p hp => ⟨fun t ht y hy => ?_, hp.2⟩
  obtain ⟨t', ht', rfl⟩ := List.mem_map.1 ht
  exact hp.1 t' ht' y ((congrArg (y ∈ ·) (hf t'.2)).mp hy)

theorem leavesLabel_putTeam {t : TeamId} {tm : Team} (htm : ∀ y ∈ tm.addr.scatter, e ∉ y.path.used)
    (h : EveryCore (LeavesLabel e) s) : EveryCore (LeavesLabel e) (putTeam s t tm) := by
  obtain ⟨hteams, hsluice⟩ := h.core leavesLabel_idle t.core
  intro p hp
  rcases Table.mem_put hp with rfl | hp
  · refine ⟨fun x hx y hy => ?_, hsluice⟩
    rcases Table.mem_put hx with rfl | hx
    · exact htm y hy
    · exact hteams x hx y hy
  · exact h p hp

theorem leavesLabel_modSlice {id : SliceId} {f : Slice → Slice} (hf : ∀ sl, (f sl).scatter = sl.scatter)
    (h : EveryCore (LeavesLabel e) s) : EveryCore (LeavesLabel e) (modSlice s id f) := by
  unfold modSlice
  cases hat : sliceAt s id with
  | none => exact h
  | some x =>
    obtain ⟨tm, sl⟩ := x
    obtain ⟨hteam, hslice⟩ := teamAt_of_sliceAt hat
    have htm : ∀ y ∈ tm.addr.scatter, e ∉ y.path.used :=
      (h.core leavesLabel_idle id.core).1 _ (Table.mem_of_get hteam)
    refine leavesLabel_putTeam (fun y hy => htm y ?_) h
    cases hid : id.strand with
    | none =>
      rw [hid] at hslice hy
      cases hslice
      exact (congrArg (y ∈ ·) (hf tm.addr)).mp hy
    | some i =>
      rw [hid] at hy
      exact hy

end

theorem usesLabel_eq_false {s : State} {m : Lvl} {world : Nat} {lab : BitVec 16} {mark : Nat}
    (hinflight : ∀ y ∈ s.inflight, ((Lvl.num m).toNat, lab) ∉ y.used) (hcombiner : ∀ y ∈ s.combiner, ((Lvl.num m).toNat, lab) ∉ y.used)
    (hmessages : ∀ p ∈ s.messages, p.label ≠ lab) (hcores : EveryCore (LeavesLabel ((Lvl.num m).toNat, lab)) s) :
    usesLabel s m world lab mark = false := by
  have hused {used : List (Nat × BitVec 16)} (h : ((Lvl.num m).toNat, lab) ∉ used) : usedAt m lab used = false := by
    simpa [usedAt] using h
  have hscatter : scatterUses s m world lab = false := by
    refine List.any_eq_false.2 fun p hp => ?_
    obtain ⟨c, hc, ht⟩ := List.mem_flatMap.1 hp
    obtain ⟨t, hteam, rfl⟩ := List.mem_map.1 ht
    have hnone : (t.2.addr.scatter.any fun y => !y.fresh && usedAt m lab y.path.used) = false :=
      List.any_eq_false.2 fun y hy => by simp [hused ((hcores c hc).1 t hteam y hy)]
    simp [hnone]
  have hwalked : walkedUses s m world lab mark = false := by
    refine List.any_eq_false.2 fun p hp => Bool.not_eq_true _ ▸ List.any_eq_false.2 fun x hx => ?_
    have hnone : (x.2.walked.any fun y => decide (y.n < mark) && usedAt m lab y.used) = false :=
      List.any_eq_false.2 fun y hy => by simp [hused ((hcores p hp).2 x hx y hy)]
    simp [hnone]
  have h1 : (s.inflight.any fun a => decide (a.n < mark) && usedAt m lab a.used && inScope m world a.world &&
      (a.place.scope == .fabric || a.ofChannel || !a.performed)) = false :=
    List.any_eq_false.2 fun a ha => by simp [hused (hinflight a ha)]
  have h2 : (s.combiner.any fun c => decide (c.n < mark) && usedAt m lab c.used && inScope m world c.world) = false :=
    List.any_eq_false.2 fun c hc => by simp [hused (hcombiner c hc)]
  have h3 : (s.messages.any fun p => p.label == lab) = false :=
    List.any_eq_false.2 fun p hp => by simpa using hmessages p hp
  simp [usesLabel, h1, h2, h3, hscatter, hwalked]


section
variable {s : State} {e : Nat × BitVec 16} {p : EntryCopy → Prop}

theorem noCopy_idle (t : DWord) : NoCopy p (Core.idle.tickCt t) := by
  unfold NoCopy
  rw [show (Core.idle.tickCt t).cCopies = [] from rfl]
  exact fun y hy => absurd hy List.not_mem_nil

/-- Changing what its teams and its engines hold leaves a core's copies. -/
theorem noCopy_mapTeams (f : Team → Team) (h : EveryCore (NoCopy p) s) : EveryCore (NoCopy p) (mapTeams f s) :=
  h.mapCores (t := mapTeams f s) rfl fun _ hk => hk

theorem noCopy_rewalkStopped (m : Lvl) (world : Nat) (lab : BitVec 16) (h : EveryCore (NoCopy p) s) :
    EveryCore (NoCopy p) (rewalkStopped s m world lab) :=
  h.mapCores (t := rewalkStopped s m world lab) rfl fun _ hk => hk

theorem noCopy_modSlice (id : SliceId) (f : Slice → Slice) (h : EveryCore (NoCopy p) s) : EveryCore (NoCopy p) (modSlice s id f) := by
  unfold modSlice
  split
  · exact h
  · exact h.modCore _ (h.core noCopy_idle _)

/-- No copy of the label that an invalidation takes is left at its level (R344): none of the world at C and D, none at all at P and F. -/
def CopiesGone (worldOf : Nat → Nat) (m : Lvl) (world : Nat) (lab : BitVec 16) (s : State) : Prop :=
  match m with
  | .c => EveryCore (NoCopy fun y => y.label = lab ∧ worldOf y.scope = world) s
  | .d => ∀ k ∈ s.dies, ∀ y ∈ k.copies, y.label = lab → y.scope ≠ world
  | .p => ∀ y ∈ s.pCopies, y.label ≠ lab
  | .f => ∀ y ∈ s.fCopies, y.label ≠ lab

theorem copiesGone_staleCopies (s : State) (m : Lvl) (world : Nat) (lab : BitVec 16) :
    CopiesGone (worldOfLaunch s) m world lab (staleCopies s m world lab) := by
  cases m with
  | c =>
    intro q hq y hy hgone
    obtain ⟨q', -, rfl⟩ := List.mem_map.1 hq
    have := (List.mem_filter.1 hy).2
    simp [hgone.1, hgone.2] at this
  | d =>
    intro k hk y hy hlab hworld
    obtain ⟨k', -, rfl⟩ := List.mem_map.1 hk
    have := (List.mem_filter.1 hy).2
    simp [hlab, hworld] at this
  | p | f =>
    intro y hy
    simpa using (List.mem_filter.1 hy).2

/-- What changes neither the dies nor the copies of the stations leaves none. -/
theorem CopiesGone.keep {worldOf : Nat → Nat} {m : Lvl} {world : Nat} {lab : BitVec 16} {s t : State} (h : CopiesGone worldOf m world lab s)
    (hcores : ∀ p, EveryCore (NoCopy p) s → EveryCore (NoCopy p) t) (hdies : t.dies = s.dies) (hp : t.pCopies = s.pCopies)
    (hf : t.fCopies = s.fCopies) : CopiesGone worldOf m world lab t := by
  cases m with
  | c => exact hcores _ h
  | d =>
    unfold CopiesGone
    rw [hdies]
    exact h
  | p =>
    unfold CopiesGone
    rw [hp]
    exact h
  | f =>
    unfold CopiesGone
    rw [hf]
    exact h

theorem leavesLabel_staleCopies (m : Lvl) (world : Nat) (lab : BitVec 16) (h : EveryCore (LeavesLabel e) s) :
    EveryCore (LeavesLabel e) (staleCopies s m world lab) := by
  cases m with
  | c => exact h.mapCores (t := staleCopies s .c world lab) rfl fun _ hk => hk
  | d | p | f => exact h

/-- What an invalidation that begins makes of a team: its WAITA and its elements not performed walk afresh (R344). -/
def Team.walkAfresh (m : Lvl) (world : Nat) (lab : BitVec 16) (tm : Team) : Team :=
  if inScope m world tm.world then (tm.mapSlices (Slice.staleWatch m lab)).unfetch m lab else tm

theorem invalidate_cores (s : State) (m : Lvl) (world : Nat) (lab : BitVec 16) :
    (invalidate s m world lab).cores = (mapTeams (Team.walkAfresh m world lab) (staleCopies s m world lab)).cores := rfl

theorem leavesLabel_invalidate (m : Lvl) (world : Nat) (lab : BitVec 16) (h : EveryCore (LeavesLabel e) s) :
    EveryCore (LeavesLabel e) (invalidate s m world lab) := by
  refine (leavesLabel_mapTeams (fun tm => ?_) (leavesLabel_staleCopies m world lab h)).of_eq (invalidate_cores ..)
  unfold Team.walkAfresh
  split <;> rfl

/-- The accesses in flight used, once an invalidation has begun, what they used before. -/
theorem invalidate_used {m : Lvl} {world : Nat} {lab : BitVec 16} (h : ∀ y ∈ s.inflight, e ∉ y.used) :
    ∀ y ∈ (invalidate s m world lab).inflight, e ∉ y.used := by
  intro y hy
  have hinflight : (staleCopies s m world lab).inflight = s.inflight := by cases m <;> rfl
  obtain ⟨a, ha, rfl⟩ := List.mem_map.1 hy
  have := h a (hinflight ▸ ha)
  split <;> exact this

theorem invalidate_leaves (s : State) (m : Lvl) (world : Nat) (lab : BitVec 16) :
    (invalidate s m world lab).mem = s.mem ∧ (invalidate s m world lab).combiner = s.combiner ∧
      (invalidate s m world lab).messages = s.messages ∧ (invalidate s m world lab).cur = s.cur := by
  cases m <;> exact ⟨rfl, rfl, rfl, rfl⟩

/-- An invalidation that completes leaves no copy that it takes (R344). -/
theorem copiesGone_invalidated (s : State) (m : Lvl) (world : Nat) (lab : BitVec 16) (id : SliceId) (f : Slice → Slice) :
    CopiesGone (worldOfLaunch s) m world lab (invalidated (modSlice (invalidate s m world lab) id f) m world lab) := by
  have hbegun : CopiesGone (worldOfLaunch s) m world lab (invalidate s m world lab) :=
    (copiesGone_staleCopies s m world lab).keep
      (fun _ h => (noCopy_mapTeams _ h).of_eq (invalidate_cores ..)) rfl rfl rfl
  refine hbegun.keep (fun _ h => noCopy_mapTeams _ (noCopy_rewalkStopped m world lab (noCopy_modSlice id f h))) ?_ ?_ ?_
  · exact modSlice_dies ..
  · exact modSlice_pCopies ..
  · exact modSlice_fCopies ..

end

section
variable {s : State} {tm : Team} {sl : Slice} {v : Vals}

theorem linv_of_gathers {a : Src} (m : Lvl) (hloads : loadsPending tm = false) (hg : Gathers s (formA true a) (.ok ()) tm sl v) :
    let x := lowWord v.a
    let next := nextPc sl.pc (formA true a).len
    let w := tm.name none
    let lab := BitVec.ofNat 16 x.toNat
    execLinv a m s = .next (
      if !linvOk m x then trapSlice s s.cur { cause := .badOperand, field := 2, next := next, info0 := v.a }
      else if tm.level.toNat < linvLevel m then openStop s .labelDenied v.a next
      else
        let s := drainCombiner s fun c => c.who == w
        if anyStorePending s w then waitSlice s s.cur .memory
        else
          let s1 := if sl.linv = 0 then
              modSlice (invalidate s m tm.world lab) s.cur fun sl => { sl with linv := s.nextAccess + 1 }
            else s
          let mark := if sl.linv = 0 then s.nextAccess else sl.linv - 1
          if usesLabel s1 m tm.world lab mark then waitSlice s1 s.cur .memory
          else finishNone v next (invalidated s1 m tm.world lab)) :=
  runOwn_of_gather hg.1 (hg.gather_own (heldByLoads_ok fun _ => hloads))

/-- LINV at its first try, with no store of the slice left and nothing on its way that used the label (R344). -/
theorem linv_completes {a : Src} {m : Lvl} (hloads : loadsPending tm = false) (hg : Gathers s (formA true a) (.ok ()) tm sl v)
    (hok : linvOk m (lowWord v.a) = true) (hlevel : linvLevel m ≤ tm.level.toNat) (hfirst : sl.linv = 0)
    (hstores : anyStorePending s (tm.name none) = false) {e : Nat × BitVec 16}
    (he : e = ((Lvl.num m).toNat, BitVec.ofNat 16 (lowWord v.a).toNat))
    (hcombiner : ∀ y ∈ s.combiner, y.who ≠ tm.name none → e ∉ y.used) (hinflight : ∀ y ∈ s.inflight, e ∉ y.used)
    (hmessages : ∀ p ∈ s.messages, p.label ≠ e.2) (hcores : EveryCore (LeavesLabel e) s) :
    ∃ u, execLinv a m s = .next (finishNone v (nextPc sl.pc (formA true a).len) u) ∧ u.mem = s.mem ∧
      CopiesGone (worldOfLaunch s) m tm.world e.2 u := by
  subst he
  have hexec := linv_of_gathers m hloads hg
  dsimp only at hexec
  have hs := (drainCombiner_of_filter s fun c => c.who == tm.name none).symm
  rw [hok, if_neg (by decide), if_neg (Nat.not_lt.2 hlevel), if_pos hfirst, if_pos hfirst] at hexec
  generalize drainCombiner s (fun c => c.who == tm.name none) = t at hexec hs
  rw [if_neg (by rw [← hs]; exact Bool.eq_false_iff.1 hstores)] at hexec
  have hbegun := invalidate_leaves t m tm.world (BitVec.ofNat 16 (lowWord v.a).toNat)
  obtain ⟨hmem, hcomb, hmess, -⟩ := hbegun
  rw [if_neg] at hexec
  · refine ⟨_, hexec, ?_, ?_⟩
    · exact (modSlice_mem ..).trans (hmem.trans (by rw [← hs]))
    · have := copiesGone_invalidated t m tm.world (BitVec.ofNat 16 (lowWord v.a).toNat) t.cur fun sl => { sl with linv := t.nextAccess + 1 }
      rwa [show worldOfLaunch t = worldOfLaunch s by rw [← hs]; rfl] at this
  · refine Bool.eq_false_iff.1 (usesLabel_eq_false ?_ ?_ ?_ ?_)
    · rw [modSlice_inflight]
      exact invalidate_used (by rw [← hs]; exact hinflight)
    · rw [modSlice_combiner, hcomb, ← hs]
      intro y hy
      obtain ⟨hy, hwho⟩ := List.mem_filter.1 hy
      exact hcombiner y hy (by simpa using hwho)
    · rw [modSlice_messages, hmess, ← hs]
      exact hmessages
    · refine leavesLabel_modSlice (fun _ => rfl) (leavesLabel_invalidate _ _ _ ?_)
      rw [← hs]
      exact hcores

end

/-! ### FLUSHR (R345) -/

section
variable {s : State} {tm : Team} {sl : Slice} {v : Vals}

theorem flushHold_eq_none {pa len : Nat} (h : ∀ x ∈ linesHeld s pa len, lineHold s x false = none) : flushHold s pa len = none :=
  List.findSome?_eq_none_iff.2 h

/-- A range that is not empty and ends within 2^48 bytes has an offset of 48 bits. -/
theorem range_inside {off : DWord} {len : Nat} (hlen : len ≠ 0) (h : off.toNat + len ≤ 2 ^ 48) :
    ¬ (field off 63 48 ≠ 0 ∨ 2 ^ 48 < off.toNat + len) := by
  have hfield : field off 63 48 = 0 := by
    unfold field
    omega
  exact not_or.2 ⟨not_not.2 hfield, by omega⟩

theorem flushr_of_zero {a b : Src} {l : Fin 8} (hloads : loadsPending tm = false) (hlabel : labelPending s (tm.name none) l.val = false)
    (hg : Gathers s (formAB true a .w64 b .w64) (.ok ()) tm sl v) (hzero : v.b = 0) :
    execFlushr a b l s = .next (finishNone v (nextPc sl.pc (formAB true a .w64 b .w64).len) s) :=
  (runOwn_of_gather hg.1 (hg.gather_own (heldByLoads_heldByLabel_ok hloads hlabel))).trans
    (congrArg Host.Outcome.next (if_pos (by rw [hzero]; rfl)))

theorem flushr_of_misaligned {a b : Src} {l : Fin 8} (hloads : loadsPending tm = false)
    (hlabel : labelPending s (tm.name none) l.val = false) (hg : Gathers s (formAB true a .w64 b .w64) (.ok ()) tm sl v)
    (hlen : v.b.toNat ≠ 0) (hinside : v.a.toNat + v.b.toNat ≤ 2 ^ 48) (hal : v.a.toNat % 128 ≠ 0 ∨ v.b.toNat % 128 ≠ 0) :
    execFlushr a b l s = .next
      (stopAccess s s.cur .misaligned (tm.label l) v.a v.b.toNat (nextPc sl.pc (formAB true a .w64 b .w64).len)) := by
  refine (runOwn_of_gather hg.1 (hg.gather_own (heldByLoads_heldByLabel_ok hloads hlabel))).trans (congrArg Host.Outcome.next ?_)
  dsimp only
  rw [if_neg hlen, if_neg (range_inside hlen hinside), if_pos hal]

theorem flushr_flushes {a b : Src} {l : Fin 8} {p : Path} {pa key : Nat} {cache rem : Bool} (hloads : loadsPending tm = false)
    (hlabel : labelPending s (tm.name none) l.val = false) (hg : Gathers s (formAB true a .w64 b .w64) (.ok ()) tm sl v)
    (hlen : v.b.toNat ≠ 0) (hinside : v.a.toNat + v.b.toNat ≤ 2 ^ 48) (ha : v.a.toNat % 128 = 0) (hb : v.b.toNat % 128 = 0)
    (hwalk : walkC s (askOf tm s.cur v.a v.b.toNat permW .flushr) (tm.label l) v.a (4 * sl.regs.length) = .ok p)
    (hdest : p.dest = .main pa key cache rem)
    (hheld : ∀ x ∈ linesHeld (keepCopies s s.cur.core p.copies) pa v.b.toNat, lineHold (keepCopies s s.cur.core p.copies) x false = none) :
    execFlushr a b l s = .next (finishNone v (nextPc sl.pc (formAB true a .w64 b .w64).len)
      (flushRange (keepCopies s s.cur.core p.copies) pa v.b.toNat)) := by
  refine (runOwn_of_gather hg.1 (hg.gather_own (heldByLoads_heldByLabel_ok hloads hlabel))).trans (congrArg Host.Outcome.next ?_)
  dsimp only
  rw [if_neg hlen, if_neg (range_inside hlen hinside), if_neg (not_or.2 ⟨not_not.2 ha, not_not.2 hb⟩), hwalk]
  simp only [hdest, flushHold_eq_none hheld]

end

/-- Settles O52: each instruction with its operands gathered, its checks in their order and its effect where they pass. -/
theorem workInstructions : Obligations.WorkInstructions := by
  intro i d a b l m lv s tm sl v hloads hlabel w lw fl fc fr fa off after ownCounter
  have hoff : off = offDisp v := ofInt_displacement v
  have hlen (h : v.b ≠ 0) : v.b.toNat ≠ 0 := fun h0 => h (BitVec.eq_of_toNat_eq h0)
  refine ⟨fun hi hg => ⟨fun hq => ?_, ?_⟩, fun hi hg hown => ⟨fun hst => ?_, fun hst => ?_⟩, fun hi hg hown => ⟨fun hr => ?_, fun hr => ?_⟩,
    fun hi hg hown hhold => ?_, fun hi f hf hg => ⟨fun hlarge => ?_, fun hidx hhold hvalid => ?_, fun hidx hhold hvalid hworld => ?_⟩,
    fun hi hg => ?_, fun hi hg => ⟨fun hzero => ?_, fun hzero hin hal => ?_, ?_⟩⟩
  · subst hi
    exact (launch_submits hloads hlabel hg).trans (congrArg _ (if_pos hq))
  · intro p u bs hq hvalid hsrc hworld hhold hslot hpath htarget hstores hearlier hfree hread
    subst hi
    rw [hoff] at hpath hearlier hread
    refine (launch_submits hloads hlabel hg).trans (congrArg _ ?_)
    rw [if_neg (Nat.not_le.2 hq), hhold]
    dsimp only
    rw [hvalid, hsrc, if_neg (by decide), if_neg (not_not.2 hworld), show accessPath s s.cur tm sl (tm.label l) (offDisp v) _ = .ok p from hpath]
    exact launchAt_submits hstores hearlier hfree htarget hslot hread
  · subst hi
    refine (cnta_of_gathers hloads hg).trans (congrArg _ ?_)
    rw [withCounter_of_own _ hown, if_pos hst]
  · subst hi
    exact cnta_adds hloads hg hown hst
  · subst hi
    refine (cntw_of_gathers hg).trans (congrArg _ ?_)
    rw [withCounter_of_own _ hown, if_pos (show reached _ _ = true from decide_eq_true hr)]
    rfl
  · subst hi
    refine (cntw_of_gathers hg).trans (congrArg _ ?_)
    rw [withCounter_of_own _ hown, if_neg (by simpa [reached] using hr)]
  · subst hi
    refine (cancel_of_gathers m hloads hg).trans (congrArg _ ?_)
    rw [withCounter_of_own _ hown, hhold]
    rfl
  · obtain ⟨k, hexec⟩ := exec_withCounter hloads hi hf hg
    exact hexec.trans (congrArg _ (withCounter_of_large k hlarge))
  · obtain ⟨k, hexec⟩ := exec_withCounter hloads hi hf hg
    obtain ⟨pf, hcause, hlevel, hstop⟩ := openStop_faults s .labelDenied v.a (after f)
    exact ⟨pf, hcause, hlevel,
      hexec.trans (congrArg _ ((withCounter_of_stop k hidx hhold (counterStop_of_invalid hvalid)).trans hstop))⟩
  · obtain ⟨k, hexec⟩ := exec_withCounter hloads hi hf hg
    obtain ⟨pf, hcause, hlevel, hstop⟩ := openStop_faults s .wrongWorld v.a (after f)
    exact ⟨pf, hcause, hlevel,
      hexec.trans (congrArg _ ((withCounter_of_stop k hidx hhold (counterStop_of_otherWorld hvalid hworld)).trans hstop))⟩
  · intro x lab level ok
    have hlab : lab = BitVec.ofNat 16 x.toNat := by
      apply BitVec.eq_of_toNat_eq
      simp [lab]
    have hlevelNum : level = linvLevel lv := by cases lv <;> rfl
    have hexec := linv_of_gathers lv hloads hg
    subst hi
    refine ⟨fun hbad => hexec.trans (congrArg _ (if_pos ?_)), fun hok hlow => ?_, ?_⟩
    · rw [Bool.eq_false_iff.2 (mt (linvOk_iff ..).1 hbad)]
      rfl
    · obtain ⟨pf, hcause, hlevel, hstop⟩ := openStop_faults s .labelDenied v.a (after fa)
      refine ⟨pf, hcause, hlevel, hexec.trans (congrArg _ ?_)⟩
      rw [(linvOk_iff ..).2 hok, if_neg (by decide), if_pos (hlevelNum ▸ hlow)]
      exact hstop
    · intro hok hlevel hfirst hstores hcombiner hinflight hmessages hscatter hwalked
      rw [hlab] at hcombiner hinflight hscatter hwalked hmessages
      have hcores : EveryCore (LeavesLabel ((Lvl.num lv).toNat, BitVec.ofNat 16 x.toNat)) s := fun p hp =>
        ⟨fun t ht => hscatter (⟨p.1, t.1⟩, t.2) (List.mem_flatMap.2 ⟨p, hp, List.mem_map.2 ⟨t, ht, rfl⟩⟩), hwalked p hp⟩
      obtain ⟨u, hu, hmem, hgone⟩ := linv_completes hloads hg ((linvOk_iff ..).2 hok) (hlevelNum ▸ hlevel) hfirst hstores rfl hcombiner
        hinflight hmessages hcores
      refine ⟨u, hu, hmem, ?_⟩
      rw [hlab]
      cases lv with
      | c => exact fun k hk y hy hy' hw => hgone k hk y hy ⟨hy', hw⟩
      | d | p | f => exact hgone
  · subst hi
    exact flushr_of_zero hloads hlabel hg hzero
  · subst hi
    exact flushr_of_misaligned hloads hlabel hg (hlen hzero) hin hal
  · intro p pa key cache rem hzero hin ha hb hwalk hdest u hheld
    subst hi
    exact flushr_flushes hloads hlabel hg (hlen hzero) hin ha hb hwalk hdest hheld

end Sys2Proof.Machine
end

section
/-! CLAIM. Boot, units and service commands, storage errors, clocks and lifetime records (R304, R431 to R433, R436, R446, R448 to R452). -/

namespace Sys2Proof.Machine

/-! ### Boot (R431, R449) -/

section
variable {s : State}

theorem bootRom_of_first (hstage : s.service.stage = 1) (hrecovery : s.saltin.inRecovery = false) :
    bootRom s = if imageReason s.saltin s.saltin.stored = 0 then runImage s s.saltin.stored
      else { s with
        saltin := { s.saltin with inRecovery := true, rstat := rstatWord 1 (imageReason s.saltin s.saltin.stored) true }
        service := { s.service with fail := true } } :=
  if_neg (by simp [hstage, hrecovery])

variable {stage : Nat} {f : State → State}

theorem bootStage_of_other (h : s.service.stage ≠ stage ∨ s.service.fail = true) : bootStage s stage f = s := if_pos h

theorem bootStage_of_fails (hstage : s.service.stage = stage) (hfail : s.service.fail = false)
    (h : Config.stageFails stage s.clock.toNat = true) :
    bootStage s stage f = { s with service := { s.service with fail := true } } := by
  unfold bootStage
  rw [if_neg (by simp [hstage, hfail]), if_pos h]

theorem bootStage_of_passes (hstage : s.service.stage = stage) (hfail : s.service.fail = false)
    (h : Config.stageFails stage s.clock.toNat = false) : bootStage s stage f = f s := by
  unfold bootStage
  rw [if_neg (by simp [hstage, hfail]), if_neg (Bool.eq_false_iff.1 h)]

end

/-! ### Units (R451) -/

theorem unitState_putUnit (s : State) (u : Nat) (x : UnitState) (n : Nat) :
    unitState (putUnit s u x) n = if n = u then x else unitState s n := by
  unfold unitState putUnit Table.getD
  dsimp only
  split
  · next hx =>
    rw [Table.get_del]
    split <;> simp [hx]
  · rw [Table.get_put]
    split <;> rfl

theorem unitState_putUnit_self (s : State) (u : Nat) (x : UnitState) : unitState (putUnit s u x) u = x :=
  (unitState_putUnit ..).trans (if_pos rfl)

theorem putUnit_leaves (s : State) (u : Nat) (x : UnitState) : (putUnit s u x).regs = s.regs ∧ (putUnit s u x).mem = s.mem :=
  ⟨rfl, rfl⟩

/-- Units isolated one after another: those named, and no others. -/
theorem unitState_isolateUnits (s : State) (base n bits u : Nat) : unitState (isolateUnits s base n bits) u =
    if base ≤ u ∧ u < base + n ∧ bits.testBit (u - base) = true then .isolated else unitState s u := by
  induction n with
  | zero => exact (if_neg (by omega)).symm
  | succ n ih =>
    have hstep : isolateUnits s base (n + 1) bits = if bits.testBit n then putUnit (isolateUnits s base n bits) (base + n) .isolated
        else isolateUnits s base n bits := by
      simp [isolateUnits, List.range_succ]
    rw [hstep]
    by_cases hu : u = base + n
    · subst hu
      rw [Nat.add_sub_cancel_left] at ih ⊢
      rw [if_neg (by omega)] at ih
      by_cases hbit : bits.testBit n = true
      · rw [if_pos hbit, if_pos ⟨by omega, by omega, hbit⟩, unitState_putUnit_self]
      · rw [if_neg hbit, if_neg (by tauto), ih]
    · have hsame : unitState (if bits.testBit n then putUnit (isolateUnits s base n bits) (base + n) .isolated
          else isolateUnits s base n bits) u = unitState (isolateUnits s base n bits) u := by
        split
        · rw [unitState_putUnit, if_neg hu]
        · rfl
      rw [hsame, ih]
      congr 1
      apply propext
      constructor <;> rintro ⟨h1, h2, h3⟩ <;> exact ⟨h1, by omega, h3⟩

theorem linkAt_modLink (s : State) (n : Nat) (f : LinkStatus → LinkStatus) (k : Nat) :
    linkAt (modLink s n f) k = if k = n then f (linkAt s n) else linkAt s k := by
  unfold linkAt modLink
  dsimp only
  split
  · next h =>
    rw [h, Table.getD_put_self]
    rfl
  · next h => rw [Table.getD_put_ne _ _ _ h]

/-- The links of the planes up that did not fail to train (R449). -/
def trainLinks (planes : BitVec 16) (s : State) (n : Nat) : State :=
  (List.range n).foldl (fun s j =>
    let f (l : LinkStatus) : LinkStatus := { l with up := !planes.getLsbD j }
    modLink (modLink s (linkKey j false) f) (linkKey j true) f) s

theorem trainLinks_links (planes : BitVec 16) (s : State) (n : Nat) (hn : n ≤ 16) :
    (∃ l, trainLinks planes s n = { s with links := l }) ∧ ∀ k, k < n →
      (linkAt (trainLinks planes s n) k).up = !planes.getLsbD k ∧ (linkAt (trainLinks planes s n) (k + 16)).up = !planes.getLsbD k := by
  induction n with
  | zero => exact ⟨⟨s.links, rfl⟩, fun k hk => absurd hk (Nat.not_lt_zero k)⟩
  | succ n ih =>
    obtain ⟨⟨l, hl⟩, hup⟩ := ih (by omega)
    have hstep : trainLinks planes s (n + 1) = modLink (modLink (trainLinks planes s n) n fun l => { l with up := !planes.getLsbD n })
        (n + 16) fun l => { l with up := !planes.getLsbD n } := by
      simp [trainLinks, List.range_succ, linkKey, bitAt]
    rw [hstep]
    refine ⟨⟨_, by rw [hl]; rfl⟩, fun k hk => ?_⟩
    simp only [linkAt_modLink]
    by_cases hkn : k = n
    · subst hkn
      simp
    · rw [if_neg (by omega), if_neg hkn, if_neg (by omega), if_neg (by omega)]
      exact hup k (by omega)

/-! ### Service commands (R450) -/

section
variable {s : State} {v : DWord}

/-- The state with a word in SVCCMD. -/
def withCommand (s : State) (x : DWord) : State := { s with regs := { s.regs with svcCmd := x } }

/-- The state with a command's word in SVCCMD. -/
def commanded (s : State) (v : DWord) : State := withCommand s (keepBits v 63 48)

theorem withCommand_leaves (s : State) (x : DWord) : (withCommand s x).service = s.service ∧ (withCommand s x).mem = s.mem ∧
    (withCommand s x).cores = s.cores ∧ (withCommand s x).saltin = s.saltin ∧ (withCommand s x).mailboxes = s.mailboxes :=
  ⟨rfl, rfl, rfl, rfl, rfl⟩

theorem serviceCommand_of_unit {op u : Nat} {f : State → Nat → State} (hready : hostWrites s = true) (hbusy : s.service.busy = none)
    (hop : field v 63 60 = op) (hrange : 1 ≤ op ∧ op ≤ 4) (hunit : commandUnit v = some u) :
    serviceCommand s 0 v op f = f (commanded s v) u := by
  obtain ⟨h1, h4⟩ := hrange
  unfold serviceCommand
  dsimp only
  rw [if_neg (by simp [hready]), hbusy, if_neg (by decide), hop, if_neg (by omega), if_neg (not_not.2 rfl), if_neg (by omega), hunit]
  rfl

theorem serviceCommand_of_firmware {f : State → Nat → State} (hready : hostWrites s = true) (hbusy : s.service.busy = none)
    (hop : field v 63 60 = 5) : serviceCommand s 0 v 5 f = f (commanded s v) 0 := by
  unfold serviceCommand
  dsimp only
  rw [if_neg (by simp [hready]), hbusy, if_neg (by decide), hop, if_neg (by decide), if_neg (by decide), if_pos rfl]
  rfl

theorem hostWrites_of_ready (hstage : s.service.stage = 5) (hscrub : s.saltin.scrubbing = none) : hostWrites s = true := by
  simp [hostWrites, hstage, hscrub]

/-- RESULT and BUSY of a status word. -/
theorem svcStatWord_fields (busy : Bool) {result : Nat} (h : result < 16) :
    field (BitVec.ofNat 64 (bitAt busy 63 + result * 2 ^ 56)) 59 56 = result ∧
      field (BitVec.ofNat 64 (bitAt busy 63 + result * 2 ^ 56)) 63 63 = if busy then 1 else 0 := by
  have hbit : bitAt busy 63 = (if busy then 1 else 0) * 2 ^ 63 := by cases busy <;> rfl
  have hb : (if busy then 1 else 0) < 2 := by cases busy <;> decide
  generalize (if busy then 1 else 0) = b at hbit hb ⊢
  rw [hbit, field_ofNat (by omega), field_ofNat (by omega)]
  exact ⟨by omega, by omega⟩

/-- The state with SVCSTAT and BUSY. -/
def withStatus (s : State) (x : DWord) (busy : Option Nat) : State :=
  { s with regs := { s.regs with svcStat := x }, service := { s.service with busy := busy } }

theorem reportService_eq (s : State) (busy : Option Nat) (result : Nat) :
    reportService s busy result = withStatus s (BitVec.ofNat 64 (bitAt busy.isSome 63 + result * 2 ^ 56)) busy := rfl

theorem withStatus_leaves (s : State) (x : DWord) (busy : Option Nat) :
    (withStatus s x busy).regs.svcCmd = s.regs.svcCmd ∧ (withStatus s x busy).service.units = s.service.units ∧
      (withStatus s x busy).mem = s.mem ∧ (withStatus s x busy).cores = s.cores ∧ (withStatus s x busy).saltin = s.saltin :=
  ⟨rfl, rfl, rfl, rfl, rfl⟩

/-- The state of a unit is what the list of units says. -/
theorem unitState_congr {s t : State} (h : t.service.units = s.service.units) (u : Nat) : unitState t u = unitState s u :=
  by rw [unitState, unitState, h]

/-- SVCSTAT shows the result that it is given, and BUSY (R450). -/
theorem reportService_reports (s : State) (busy : Option Nat) {result : Nat} (h : result < 16) :
    let t := reportService s busy result
    t.service.busy = busy ∧ field t.regs.svcStat 59 56 = result ∧ field t.regs.svcStat 63 63 = (if busy.isSome then 1 else 0) ∧
      t.regs.svcCmd = s.regs.svcCmd ∧ (∀ u, unitState t u = unitState s u) ∧ t.mem = s.mem ∧ t.cores = s.cores ∧ t.saltin = s.saltin := by
  obtain ⟨hresult, hbusy⟩ := svcStatWord_fields busy.isSome h
  obtain ⟨hcmd, hunits, hmem, hcores, hsaltin⟩ :=
    withStatus_leaves s (BitVec.ofNat 64 (bitAt busy.isSome 63 + result * 2 ^ 56)) busy
  rw [← reportService_eq] at hcmd hunits hmem hcores hsaltin
  exact ⟨rfl, hresult, hbusy, hcmd, unitState_congr hunits, hmem, hcores, hsaltin⟩

theorem clearCluster_frame (s : State) (n : Nat) : ∃ g, clearCluster s n = { s with gangs := g } := by
  suffices h : ∀ (xs : List (Nat × Nat)) (t : State), ∃ g, (xs.foldl (fun s x =>
      modGang s x.1 x.2 fun g => if g.state = .resident then { g with state := .stopping, ready := none } else g) t) =
        { t with gangs := g } from h _ s
  intro xs
  induction xs with
  | nil => exact fun t => ⟨t.gangs, rfl⟩
  | cons x xs ih =>
    intro t
    obtain ⟨g, hg⟩ := ih (modGang t x.1 x.2 fun g => if g.state = .resident then { g with state := .stopping, ready := none } else g)
    exact ⟨g, hg⟩

/-- A unit that leaves service is DRAINING; no memory or register changes (R451). -/
theorem drainUnit_drains (s : State) (u : Nat) :
    unitState (drainUnit s u) u = .draining ∧ (drainUnit s u).regs = s.regs ∧ (drainUnit s u).mem = s.mem := by
  have hput := unitState_putUnit_self s u .draining
  unfold drainUnit
  dsimp only
  split
  · obtain ⟨g, hg⟩ := clearCluster_frame (putUnit s u .draining) u
    rw [hg]
    exact ⟨hput, rfl, rfl⟩
  · split
    · exact ⟨hput, rfl, rfl⟩
    · exact ⟨hput, rfl, rfl⟩

theorem wipeCluster_frame (s : State) (n : Nat) : ∃ c, wipeCluster s n = { s with cores := c } := by
  suffices h : ∀ (xs : List Nat) (t : State), ∃ k, (xs.foldl (fun s c =>
      putCore s c { Core.idle.tickCt s.clock with allow := [(31, Allowance.shared s.regs.icred)] }) t) = { t with cores := k } from h _ s
  intro xs
  induction xs with
  | nil => exact fun t => ⟨t.cores, rfl⟩
  | cons x xs ih => exact fun t => ih _

/-- A unit that returns is in service, but a memory link that does not train, which has failed (R451). -/
theorem restoreUnit_returns (s : State) (u : Nat) (trains : Bool) :
    unitState (restoreUnit s u trains) u = (if u < 48 ∨ 64 ≤ u ∨ trains = true then .inService else .failed) ∧
      (restoreUnit s u trains).regs = s.regs ∧ (restoreUnit s u trains).mem = s.mem := by
  unfold restoreUnit
  split
  · next hu =>
    obtain ⟨c, hc⟩ := wipeCluster_frame s u
    rw [hc]
    exact ⟨(unitState_putUnit_self ..).trans (if_pos (.inl hu)).symm, rfl, rfl⟩
  · split
    · refine ⟨(unitState_putUnit_self ..).trans ?_, rfl, rfl⟩
      cases trains with
      | true => exact (if_pos (.inr (.inr rfl))).symm
      | false => exact (if_neg (by simp; omega)).symm
    · exact ⟨(unitState_putUnit_self ..).trans (if_pos (.inr (.inl (by omega)))).symm, rfl, rfl⟩

end

/-! ### Ends of a unit's command (R451) -/

/-- Where one unit alone is listed, it is the one that a test of states other than IN_SERVICE can find. -/
theorem unitState_of_single {s : State} {u : Nat} {x : UnitState} (h : s.service.units = [(u, x)]) (n : Nat) :
    unitState s n = if n = u then x else .inService := by
  unfold unitState Table.getD
  rw [h]
  simp only [Table.get]
  by_cases hn : u = n
  · rw [if_pos hn, if_pos hn.symm]
    rfl
  · rw [if_neg hn, if_neg (Ne.symm hn)]
    rfl

theorem filter_range_eq_singleton (n u : Nat) (h : u < n) : (List.range n).filter (· == u) = [u] := by
  induction n with
  | zero => exact absurd h (Nat.not_lt_zero u)
  | succ n ih =>
    rw [List.range_succ, List.filter_append]
    by_cases hu : u = n
    · subst hu
      have hnone : (List.range u).filter (· == u) = [] := List.filter_eq_nil_iff.2 fun k hk => by
        have := List.mem_range.1 hk
        simp
        omega
      rw [hnone]
      simp
    · rw [ih (by omega)]
      simp [Ne.symm hu]

theorem find?_range_of_beq {p : Nat → Bool} {n k : Nat} (h : ∀ i, p i = (i == k)) (hk : k < n) : (List.range n).find? p = some k := by
  rw [funext h, ← List.head?_filter, filter_range_eq_singleton n k hk]
  rfl

section
variable {s : State} {u : Nat}

theorem drainComplete_isolates (hu : u < 80) (hbusy : s.service.busy = some u) (hunits : s.service.units = [(u, .draining)])
    (hdrained : drained s u = true) : execDrainComplete s = .next (reportService (putUnit s u .isolated) none 0) := by
  have hfilter : ((List.range 80).filter fun n => unitState s n == .draining) = [u] := by
    rw [← filter_range_eq_singleton 80 u hu]
    refine List.filter_congr fun n _ => ?_
    rw [unitState_of_single hunits]
    by_cases hn : n = u
    · simp [hn]
    · rw [if_neg hn]
      simpa using hn
  unfold execDrainComplete
  rw [hfilter]
  simp only [List.foldl_cons, List.foldl_nil, hdrained, if_true]
  rw [if_pos (show (putUnit s u .isolated).service.busy = some u from hbusy)]

theorem linkDrainTimeout_returns (h48 : 48 ≤ u) (h64 : u < 64) (hbusy : s.service.busy = some u)
    (hunits : s.service.units = [(u, .isolated)]) (hsince : ∃ t, s.service.linkSince = some t ∧ t + 52500000 ≤ s.wall) (trains : Bool) :
    execLinkDrainTimeout trains s = .next (reportService (restoreUnit s u trains) none 0) := by
  obtain ⟨t, ht, hwall⟩ := hsince
  unfold execLinkDrainTimeout
  rw [ht, Option.map_some, Option.getD_some, if_neg (show ¬ (decide (s.wall < t + linkBound)) = true from Bool.eq_false_iff.1 (decide_eq_false (Nat.not_lt.2 hwall))),
    find?_range_of_beq (k := u - 48) (fun n => ?_) (by omega)]
  · dsimp only
    rw [Nat.add_sub_cancel' h48, if_pos hbusy]
  · rw [unitState_of_single hunits]
    by_cases hn : 48 + n = u
    · rw [if_pos hn]
      exact (beq_iff_eq.2 (by omega)).symm
    · rw [if_neg hn]
      exact (beq_eq_false_iff_ne.2 (by omega)).symm

end

/-! ### Storage errors (R304) -/

theorem listModify_congr_at {α : Type} {f g : α → α} {d : α} : ∀ {xs : List α} {n : Nat}, f (listGetD xs n d) = g (listGetD xs n d) →
    listModify f xs n = listModify g xs n
  | [], n, _ => by cases n <;> rfl
  | x :: xs, 0, h => congrArg (· :: xs) h
  | x :: xs, n + 1, h => congrArg (x :: ·) (listModify_congr_at (n := n) h)

theorem modDie_congr {s : State} {d : Nat} {f g : Die → Die} (h : f (die s d) = g (die s d)) : modDie s d f = modDie s d g :=
  congrArg (fun x => { s with dies := x }) (listModify_congr_at h)

theorem satUp_of_lt {n : Nat} (h : n < 2 ^ 64 - 1) : satUp n = n + 1 := by
  unfold satUp
  omega

/-! ### The obligation's parts -/

/-- The units and links after TRAIN, with the stage over (R449). -/
def trained (cl : BitVec 48) (links planes : BitVec 16) (s : State) : State :=
  let t := trainLinks planes (isolateUnits (isolateUnits (isolateUnits s 0 48 cl.toNat) 48 16 links.toNat) 64 16 planes.toNat) 16
  { t with service := { t.service with stage := 3, bootClus := cl.setWidth 64, drainLink := links, drainPlane := planes } }

theorem bootTrain_eq (cl : BitVec 48) (links planes : BitVec 16) (s : State) :
    bootTrain cl links planes s = bootStage s 2 (trained cl links planes) := by
  unfold bootTrain trained trainLinks
  rfl

theorem trained_isolates (cl : BitVec 48) (links planes : BitVec 16) (s : State) {n : Nat} (hn : n < 48) (hbit : cl.getLsbD n = true) :
    unitState (trained cl links planes s) n = .isolated := by
  unfold trained
  generalize hs : isolateUnits (isolateUnits (isolateUnits s 0 48 cl.toNat) 48 16 links.toNat) 64 16 planes.toNat = u
  obtain ⟨⟨l, hl⟩, -⟩ := trainLinks_links planes u 16 (le_refl 16)
  rw [hl]
  refine (unitState_congr (s := u) rfl n).trans ?_
  rw [← hs, unitState_isolateUnits, if_neg (by omega), unitState_isolateUnits, if_neg (by omega), unitState_isolateUnits,
    if_pos ⟨by omega, by omega, hbit⟩]

theorem trained_links (cl : BitVec 48) (links planes : BitVec 16) (s : State) {n : Nat} (hn : n < 16) (hbit : planes.getLsbD n = false) :
    (linkAt (trained cl links planes s) n).up = true ∧ (linkAt (trained cl links planes s) (n + 16)).up = true := by
  unfold trained
  generalize isolateUnits (isolateUnits (isolateUnits s 0 48 cl.toNat) 48 16 links.toNat) 64 16 planes.toNat = u
  obtain ⟨-, hup⟩ := trainLinks_links planes u 16 (le_refl 16)
  have hboth := hup n hn
  rw [hbit] at hboth
  generalize trainLinks planes u 16 = t at hboth ⊢
  exact hboth

theorem train_trains {s : State} {cl : BitVec 48} {links planes : BitVec 16} (hstage : s.service.stage = 2)
    (hfail : s.service.fail = false) (hpass : Config.stageFails 2 s.clock.toNat = false) :
    exec (.train cl links planes) s = .next (trained cl links planes s) := by
  have hexec : exec (.train cl links planes) s = .next (bootTrain cl links planes s) := rfl
  rw [hexec, bootTrain_eq, bootStage_of_passes hstage hfail hpass]

theorem trained_service (cl : BitVec 48) (links planes : BitVec 16) (s : State) :
    (trained cl links planes s).service.stage = 3 ∧ (trained cl links planes s).service.bootClus = cl.setWidth 64 ∧
      (trained cl links planes s).service.drainLink = links ∧ (trained cl links planes s).service.drainPlane = planes :=
  ⟨rfl, rfl, rfl, rfl⟩

/-- What TRAIN, CLEAR and LINK are: boot stages. -/
theorem exec_of_bootStage {i : Instr} {stage : Nat}
    (hi : stage = 2 ∧ (∃ cl links planes, i = .train cl links planes) ∨ stage = 3 ∧ i = .clear ∨ stage = 4 ∧ i = .link) (s : State) :
    ∃ f, exec i s = .next (bootStage s stage f) := by
  obtain ⟨rfl, cl, links, planes, rfl⟩ | ⟨rfl, rfl⟩ | ⟨rfl, rfl⟩ := hi
  · exact ⟨_, rfl⟩
  · exact ⟨_, rfl⟩
  · exact ⟨_, rfl⟩

theorem clear_clears {s : State} (hstage : s.service.stage = 3) (hfail : s.service.fail = false)
    (hpass : Config.stageFails 3 s.clock.toNat = false) :
    ∃ t, exec .clear s = .next t ∧ t.service.stage = 4 ∧ t.keys.map Prod.fst = [0] ∧ t.launches = [] ∧ t.counters = [] ∧
      ∀ d ∈ t.dies, d.weights = [] := by
  refine ⟨_, congrArg Host.Outcome.next (bootStage_of_passes hstage hfail hpass), rfl, rfl, rfl, rfl, fun d hd => ?_⟩
  obtain ⟨d', -, rfl⟩ := List.mem_map.1 hd
  rfl

section
variable {s : State}

/-- The ROM fetches an image, unless the DMA fails (R433). -/
theorem recoveryImageVerify_of_fetching (hrecovery : s.saltin.inRecovery = true) (hstep : wfield s.saltin.rstat 3 0 = 2) (dmaError : Bool) :
    execRecoveryImageVerify dmaError s = .next (
      if dmaError then refuseImage s 5
      else { s with saltin := { s.saltin with
        fetched := Memory.readBytes s.hostMem s.saltin.imgAddr.toNat s.saltin.imgLen.toNat, rstat := rstatWord 3 0 false } }) := by
  simp [execRecoveryImageVerify, hrecovery, hstep]

/-- The ROM verifies an image (R433). -/
theorem recoveryImageVerify_of_verifying (hrecovery : s.saltin.inRecovery = true) (hstep : wfield s.saltin.rstat 3 0 = 3) (dmaError : Bool) :
    execRecoveryImageVerify dmaError s = .next (
      if imageReason s.saltin s.saltin.fetched ≠ 0 then refuseImage s (imageReason s.saltin s.saltin.fetched)
      else { s with saltin := { s.saltin with rstat := rstatWord 4 0 false } }) := by
  simp [execRecoveryImageVerify, hrecovery, hstep]

/-- The ROM has written an image, and runs it (R433). -/
theorem recoveryImageVerify_of_writing (hrecovery : s.saltin.inRecovery = true) (hstep : wfield s.saltin.rstat 3 0 = 4) (dmaError : Bool) :
    execRecoveryImageVerify dmaError s = .next { runImage s s.saltin.fetched with
      saltin := { (runImage s s.saltin.fetched).saltin with fetched := [], rstat := rstatWord 5 0 false } } := by
  simp [execRecoveryImageVerify, hrecovery, hstep]

theorem recoveryImageVerify_of_other (hrecovery : s.saltin.inRecovery = true) (h2 : wfield s.saltin.rstat 3 0 ≠ 2)
    (h3 : wfield s.saltin.rstat 3 0 ≠ 3) (h4 : wfield s.saltin.rstat 3 0 ≠ 4) (dmaError : Bool) :
    execRecoveryImageVerify dmaError s = .next s := by
  unfold execRecoveryImageVerify
  dsimp only
  rw [if_neg (by simp [hrecovery])]
  split
  · contradiction
  · contradiction
  · contradiction
  · rfl

/-- The next state of the ROM's fetching, verifying and writing of an image (R433). -/
theorem recoveryImageVerify_steps (hrecovery : s.saltin.inRecovery = true) (dmaError : Bool) :
    let x := s.saltin
    ∃ t, exec (.recoveryImageVerify dmaError) s = .next t ∧ t.mem = s.mem ∧
      (wfield x.rstat 3 0 = 2 → dmaError = false → t.saltin.rstat = 3 ∧ t.saltin.stored = x.stored ∧
        t.saltin.fetched = Memory.readBytes s.hostMem x.imgAddr.toNat x.imgLen.toNat) ∧
      (wfield x.rstat 3 0 = 2 → dmaError = true → t.saltin.rstat = rstatWord 1 5 true ∧ t.saltin.stored = x.stored) ∧
      (wfield x.rstat 3 0 = 3 → t.saltin.stored = x.stored ∧ t.saltin.inRecovery = true ∧
        t.saltin.rstat = (if imageReason x x.fetched = 0 then 4 else rstatWord 1 (imageReason x x.fetched) true)) ∧
      (wfield x.rstat 3 0 = 4 → t.service.stage = 2 ∧ t.saltin.stored = x.fetched ∧ t.saltin.inRecovery = false ∧ t.saltin.rstat = 5) := by
  intro x
  by_cases h2 : wfield x.rstat 3 0 = 2
  · refine ⟨_, recoveryImageVerify_of_fetching hrecovery h2 dmaError, ?_⟩
    rw [h2]
    cases dmaError with
    | false => exact ⟨rfl, fun _ _ => ⟨rfl, rfl, rfl⟩, nofun, nofun, nofun⟩
    | true => exact ⟨rfl, nofun, fun _ _ => ⟨rfl, rfl⟩, nofun, nofun⟩
  · by_cases h3 : wfield x.rstat 3 0 = 3
    · refine ⟨_, recoveryImageVerify_of_verifying hrecovery h3 dmaError, ?_⟩
      rw [h3]
      by_cases hreason : imageReason x x.fetched = 0
      · rw [if_neg (not_not.2 hreason), if_pos hreason]
        exact ⟨rfl, nofun, nofun, fun _ => ⟨rfl, hrecovery, rfl⟩, nofun⟩
      · rw [if_pos hreason, if_neg hreason]
        exact ⟨rfl, nofun, nofun, fun _ => ⟨rfl, hrecovery, rfl⟩, nofun⟩
    · by_cases h4 : wfield x.rstat 3 0 = 4
      · refine ⟨_, recoveryImageVerify_of_writing hrecovery h4 dmaError, ?_⟩
        rw [h4]
        exact ⟨rfl, nofun, nofun, nofun, fun _ => ⟨rfl, rfl, rfl, rfl⟩⟩
      · exact ⟨_, recoveryImageVerify_of_other hrecovery h2 h3 h4 dmaError, rfl, fun h => absurd h h2, fun h => absurd h h2,
          fun h => absurd h h3, fun h => absurd h h4⟩

end

/-- A unit's command that reports in a state with its word in SVCCMD (R450). -/
theorem reportService_done {s t : State} {v : DWord} {u : Nat} {x : UnitState} (busy : Option Nat) {result : Nat} (h : result < 16)
    (hx : unitState t u = x) (hregs : t.regs = (commanded s v).regs) (hmem : t.mem = s.mem) :
    (reportService t busy result).service.busy = busy ∧ unitState (reportService t busy result) u = x ∧
      (reportService t busy result).regs.svcCmd = keepBits v 63 48 ∧ field (reportService t busy result).regs.svcStat 59 56 = result ∧
      (reportService t busy result).mem = s.mem := by
  obtain ⟨hbusy, hresult, -, hcmd, hunits, hm, -, -⟩ := reportService_reports t busy h
  exact ⟨hbusy, (hunits u).trans hx, hcmd.trans (by rw [hregs]; rfl), hresult, hm.trans hmem⟩

section
variable {s : State}

theorem rom_runs (hstage : s.service.stage = 1) (hrecovery : s.saltin.inRecovery = false) :
    (imageReason s.saltin s.saltin.stored = 0 → ∃ t, exec .rom s = .next t ∧ t.service.stage = 2 ∧ t.service.fail = false ∧
      t.saltin.svn = Config.imageSvn s.saltin.stored ∧ t.mem = s.mem) ∧
    (imageReason s.saltin s.saltin.stored ≠ 0 → ∃ t, exec .rom s = .next t ∧ t.service.stage = 1 ∧ t.service.fail = true ∧
      t.saltin.inRecovery = true ∧ t.saltin.rstat = rstatWord 1 (imageReason s.saltin s.saltin.stored) true) := by
  have hexec : exec .rom s = .next (bootRom s) := rfl
  rw [hexec, bootRom_of_first hstage hrecovery]
  refine ⟨fun hok => ?_, fun hbad => ?_⟩
  · rw [if_pos hok]
    exact ⟨_, rfl, rfl, rfl, rfl, rfl⟩
  · rw [if_neg hbad]
    exact ⟨_, rfl, hstage, rfl, rfl, rfl⟩

/-- What begins the package's life again: RESET, POWER_LOSS and RECOVER (R432, R446, R449). -/
theorem resets (s : State) :
    (∃ t, exec .reset s = .next t ∧ t.service = State.reset.service ∧ t.regs = State.reset.regs ∧ t.cores = State.reset.cores ∧
      t.clock = 0 ∧ t.keys = [] ∧ t.mem = s.mem ∧ t.saltin.stored = s.saltin.stored ∧ t.saltin.powerCycles = s.saltin.powerCycles) ∧
    (∃ t, exec .powerLoss s = .next t ∧ t.service = State.reset.service ∧ t.mem = [] ∧
      (s.saltin.powerCycles < 2 ^ 64 - 1 → t.saltin.powerCycles = s.saltin.powerCycles + 1)) ∧
    ∀ fn pin, (pin = true ∨ fn = 0) → ∃ t, exec (.recover fn pin) s = .next t ∧ t.saltin.inRecovery = true ∧ t.saltin.rstat = 0 ∧
      t.saltin.rctl = true ∧ t.service.stage = 1 ∧ t.cores = [] := by
  refine ⟨⟨_, rfl, rfl, rfl, rfl, rfl, rfl, rfl, rfl, rfl⟩, ⟨_, rfl, rfl, rfl, satUp_of_lt⟩, fun fn pin h => ?_⟩
  refine ⟨_, congrArg Host.Outcome.next (if_neg ?_), rfl, rfl, rfl, rfl, rfl⟩
  obtain rfl | rfl := h <;> simp

theorem go_fetches (hrecovery : s.saltin.inRecovery = true) (hwaits : wfield s.saltin.rstat 3 0 = 1) (hmin : 4096 ≤ s.saltin.imgLen.toNat)
    (hmax : s.saltin.imgLen.toNat ≤ 2 ^ 26) (haddr : s.saltin.imgAddr.toNat % 4096 = 0) :
    exec (.go 0 1) s = .next { s with saltin := { s.saltin with rstat := 2 } } := by
  have hexec : exec (.go 0 1) s = execGo 0 1 s := rfl
  rw [hexec, execGo]
  dsimp only
  rw [if_neg (by simp [hrecovery, hwaits]), if_neg (by omega)]
  rfl

/-- The commands of a unit (R450, R451): for each operation what it reports, and in what state it leaves the unit. -/
theorem unitCommands {v : DWord} {u : Nat} (flag : Bool) (hready : hostWrites s = true) (hfree : s.service.busy = none)
    (hunit : commandUnit v = some u) :
    let done (t : State) (busy : Option Nat) (x : UnitState) (result : Nat) : Prop := t.service.busy = busy ∧ unitState t u = x ∧
      t.regs.svcCmd = keepBits v 63 48 ∧ field t.regs.svcStat 59 56 = result ∧ t.mem = s.mem
    (field v 63 60 = 1 → unitState s u = .inService → (u < 48 ∨ 64 ≤ u) → ∃ t, exec (.drain 0 v) s = .next t ∧ done t (some u) .draining 0) ∧
    (field v 63 60 = 2 → unitState s u = .isolated → ∃ t, exec (.test 0 v) s = .next t ∧ done t (some u) .testing 0) ∧
    (field v 63 60 = 3 → unitState s u = .isolated → ∃ t, exec (.repair 0 v flag) s = .next t ∧
      done t none .isolated (if flag = true ∨ 64 ≤ u then 0 else 4)) ∧
    (field v 63 60 = 4 → unitState s u = .isolated → (u < 48 ∨ 64 ≤ u ∨ flag = true) → ∃ t, exec (.returnService 0 v flag) s = .next t ∧
      done t none .inService 0) ∧
    (field v 63 60 = 2 → unitState s u ≠ .isolated → ∃ t, exec (.test 0 v) s = .next t ∧ done t none (unitState s u) 2) := by
  intro done
  obtain ⟨hservice, hsmem, -⟩ := withCommand_leaves s (keepBits v 63 48)
  have hsame : unitState (commanded s v) u = unitState s u := unitState_congr (congrArg Service.units hservice) u
  refine ⟨fun hop hstate hu => ?_, fun hop hstate => ?_, fun hop hstate => ?_, fun hop hstate hu => ?_, fun hop hstate => ?_⟩
  · obtain ⟨hdrains, hregs, hmem⟩ := drainUnit_drains (commanded s v) u
    refine ⟨_, congrArg Host.Outcome.next ((serviceCommand_of_unit hready hfree hop (by decide) hunit).trans (if_neg ?_)),
      reportService_done (some u) (by decide) hdrains hregs (hmem.trans hsmem)⟩
    rw [hsame, hstate]
    rintro (h | ⟨h48, h64, -⟩)
    · exact h rfl
    · omega
  · refine ⟨_, congrArg Host.Outcome.next ((serviceCommand_of_unit hready hfree hop (by decide) hunit).trans (if_neg ?_)),
      reportService_done (some u) (by decide) (unitState_putUnit_self ..) (putUnit_leaves ..).1 ((putUnit_leaves ..).2.trans hsmem)⟩
    rw [hsame, hstate]
    exact not_not.2 rfl
  · refine ⟨_, congrArg Host.Outcome.next ((serviceCommand_of_unit hready hfree hop (by decide) hunit).trans (if_neg ?_)),
      reportService_done none (by split <;> decide) (hsame.trans hstate) rfl hsmem⟩
    rw [hsame, hstate]
    exact not_not.2 rfl
  · obtain ⟨hreturns, hregs, hmem⟩ := restoreUnit_returns (commanded s v) u flag
    refine ⟨_, congrArg Host.Outcome.next ((serviceCommand_of_unit hready hfree hop (by decide) hunit).trans (if_neg ?_)),
      reportService_done none (by decide) (hreturns.trans (if_pos hu)) hregs (hmem.trans hsmem)⟩
    rw [hsame, hstate]
    exact not_not.2 rfl
  · exact ⟨_, congrArg Host.Outcome.next ((serviceCommand_of_unit hready hfree hop (by decide) hunit).trans (if_pos (by rw [hsame]; exact hstate))),
      reportService_done none (by decide) hsame rfl hsmem⟩

/-- What a mailbox's buffer holds is what the mailboxes say. -/
theorem mailBytes_congr {s t : State} (h : t.mailboxes = s.mailboxes) (fn off n : Nat) : mailBytes t fn off n = mailBytes s fn off n := by
  rw [mailBytes, mailBytes, mailbox, mailbox, h]

/-- The state with an image stored. -/
def storedImage (s : State) (image : List Byte) : State := { s with saltin := { s.saltin with stored := image } }

theorem storedImage_leaves (s : State) (image : List Byte) : (storedImage s image).saltin.svn = s.saltin.svn ∧
    (storedImage s image).saltin.stored = image ∧ (storedImage s image).cores = s.cores := ⟨rfl, rfl, rfl⟩

/-- FWUPDATE stores an image that verifies, and is busy with the restart (R452). -/
theorem firmwareCommand {v : DWord} (hready : hostWrites s = true) (hfree : s.service.busy = none) (hop : field v 63 60 = 5) :
    ∃ t, exec (.fwupdate 0 v) s = .next t ∧ t.cores = s.cores ∧ t.saltin.svn = s.saltin.svn ∧
      (imageReason s.saltin (mailBytes s 0 0 4096) = 0 → t.saltin.stored = mailBytes s 0 0 4096 ∧ t.service.busy = some firmwareUnit ∧
        field t.regs.svcStat 63 63 = 1 ∧ field t.regs.svcStat 59 56 = 0) ∧
      (imageReason s.saltin (mailBytes s 0 0 4096) ≠ 0 → t.saltin.stored = s.saltin.stored ∧ t.service.busy = none ∧
        field t.regs.svcStat 59 56 = 5) := by
  obtain ⟨-, -, hscores, hssaltin, hmail⟩ := withCommand_leaves s (keepBits v 63 48)
  have himage : mailBytes (commanded s v) 0 0 4096 = mailBytes s 0 0 4096 := mailBytes_congr hmail ..
  have hexec : exec (.fwupdate 0 v) s = .next (
      if imageReason (commanded s v).saltin (mailBytes (commanded s v) 0 0 4096) ≠ 0 then reportService (commanded s v) none 5
      else reportService (storedImage (commanded s v) (mailBytes (commanded s v) 0 0 4096)) (some firmwareUnit) 0) :=
    congrArg Host.Outcome.next (serviceCommand_of_firmware hready hfree hop)
  rw [himage, show (commanded s v).saltin = s.saltin from hssaltin] at hexec
  rw [hexec]
  by_cases hreason : imageReason s.saltin (mailBytes s 0 0 4096) = 0
  · obtain ⟨hbusy, hresult, hbit, -, -, -, hcores, hsaltin⟩ := reportService_reports
      (storedImage (commanded s v) (mailBytes s 0 0 4096)) (some firmwareUnit) (show 0 < 16 by decide)
    rw [if_neg (not_not.2 hreason)]
    obtain ⟨hsvn, hstored, hkept⟩ := storedImage_leaves (commanded s v) (mailBytes s 0 0 4096)
    exact ⟨_, rfl, hcores.trans (hkept.trans hscores), (congrArg Saltin.svn hsaltin).trans (hsvn.trans (congrArg Saltin.svn hssaltin)),
      fun _ => ⟨(congrArg Saltin.stored hsaltin).trans hstored, hbusy, hbit, hresult⟩, fun h => absurd hreason h⟩
  · obtain ⟨hbusy, hresult, -, -, -, -, hcores, hsaltin⟩ := reportService_reports (commanded s v) none (show 5 < 16 by decide)
    rw [if_pos hreason]
    exact ⟨_, rfl, hcores.trans hscores, congrArg Saltin.svn (hsaltin.trans hssaltin), fun h => absurd h hreason,
      fun _ => ⟨congrArg Saltin.stored (hsaltin.trans hssaltin), hbusy, hresult⟩⟩

theorem endRestart_ends (hbusy : s.service.busy = some firmwareUnit) :
    (Config.restartOver s.clock.toNat = true → (endRestart s).saltin.svn = Config.imageSvn s.saltin.stored ∧
      (endRestart s).service.busy = none ∧ (endRestart s).cores = s.cores ∧ (endRestart s).mem = s.mem) ∧
    (Config.restartOver s.clock.toNat = false → endRestart s = s) := by
  refine ⟨fun hover => ?_, fun hon => if_neg fun h => Bool.eq_false_iff.1 hon h.2⟩
  obtain ⟨hnone, -, -, -, -, hmem, hcores, hsaltin⟩ := reportService_reports
    { s with saltin := { s.saltin with svn := Config.imageSvn s.saltin.stored } } none (show 0 < 16 by decide)
  rw [endRestart, if_pos ⟨hbusy, hover⟩]
  exact ⟨congrArg Saltin.svn hsaltin, hnone, hcores, hmem⟩

/-- A test, a drain and a link's drain end (R451). -/
theorem unitCommandsEnd {u : Nat} (hbusy : s.service.busy = some u) (hu : u < 80) :
    (unitState s u = .testing → ∀ passed, ∃ t, exec (.testComplete passed) s = .next t ∧ unitState t u = .isolated ∧ t.service.busy = none ∧
      field t.regs.svcStat 59 56 = (if passed then 0 else 3)) ∧
    (s.service.units = [(u, .draining)] → drained s u = true → ∃ t, exec .drainComplete s = .next t ∧ unitState t u = .isolated ∧
      t.service.busy = none) ∧
    (s.service.units = [(u, .isolated)] → 48 ≤ u → u < 64 → (∃ t, s.service.linkSince = some t ∧ t + 52500000 ≤ s.wall) → ∀ trains,
      ∃ t, exec (.linkDrainTimeout trains) s = .next t ∧ unitState t u = (if trains then .inService else .failed)) := by
  refine ⟨fun htesting passed => ?_, fun hunits hdrained => ?_, fun hunits h48 h64 hsince trains => ?_⟩
  · obtain ⟨hnone, hresult, -, -, hunits, -⟩ := reportService_reports (putUnit s u .isolated) none
      (show (if passed then 0 else 3) < 16 by cases passed <;> decide)
    refine ⟨_, congrArg Host.Outcome.next (?_ : _ = reportService (putUnit s u .isolated) none (if passed then 0 else 3)),
      (hunits u).trans (unitState_putUnit_self ..), hnone, hresult⟩
    rw [hbusy]
    exact if_neg (not_not.2 htesting)
  · obtain ⟨hnone, -, -, -, hstates, -⟩ := reportService_reports (putUnit s u .isolated) none (show 0 < 16 by decide)
    exact ⟨_, drainComplete_isolates hu hbusy hunits hdrained, (hstates u).trans (unitState_putUnit_self ..), hnone⟩
  · obtain ⟨-, -, -, -, hstates, -⟩ := reportService_reports (restoreUnit s u trains) none (show 0 < 16 by decide)
    refine ⟨_, linkDrainTimeout_returns h48 h64 hbusy hunits hsince trains, (hstates u).trans ((restoreUnit_returns ..).1.trans ?_)⟩
    cases trains with
    | true => exact if_pos (.inr (.inr rfl))
    | false => exact if_neg (by simp; omega)

/-- A dirty line stands poisoned after an uncorrectable error, and its record waits (R304). -/
theorem uncorrectableError_poisons {line : Nat} {l : Line} (hl : Table.get s.lines line = some l) (hdirty : l.dirty = true) :
    ∃ t w, exec (.uncorrectableError (.dirtyLine line)) s = .next t ∧ Table.get t.lines line = some { l with poisoned := [0, 1, 2, 3] } ∧
      t.waiting = s.waiting ++ [w] ∧ w.q = .owner ∧ (listGetD w.words 0 0).toNat / 2 ^ 56 = 1 ∧ t.mem = s.mem := by
  have hexec : exec (.uncorrectableError (.dirtyLine line)) s = .next { s with
      lines := Table.put s.lines line { l with poisoned := [0, 1, 2, 3] }
      waiting := s.waiting ++
        [⟨.owner, dieError s 1 (homeSlice line / 384) (homeSlice line % 384) (128 * line) 0, .nobody, false⟩] } := by
    have hunfold : exec (.uncorrectableError (.dirtyLine line)) s = execUncorrectableError (.dirtyLine line) s := rfl
    rw [hunfold, execUncorrectableError]
    dsimp only
    rw [hl]
    dsimp only
    rw [hdirty, if_neg (by decide)]
  refine ⟨_, _, hexec, Table.get_put_self .., rfl, rfl, ?_, rfl⟩
  change (BitVec.ofNat 64 (1 * 2 ^ 56 + homeSlice line / 384 % 4 * 2 ^ 45 + homeSlice line % 384 % 512 * 2 ^ 36)).toNat / 2 ^ 56 = 1
  rw [BitVec.toNat_ofNat]
  omega

theorem weightBlock_marks {d wa : Nat} (hd : d < 4) (hwa : wa < 402653184) (hnew : wa / 64 ∉ (die s d).badBlocks) :
    exec (.uncorrectableError (.weightBlock d wa)) s = .next (modDie s d fun k => { k with badBlocks := k.badBlocks ++ [wa / 64] }) := by
  refine congrArg Host.Outcome.next ((if_neg (by omega)).trans (modDie_congr ?_))
  exact if_neg (by simpa using hnew)

theorem meshCrcFailure_retires {d hop : Nat} (hd : d < 4) (hnew : hop ∉ (die s d).hops) :
    exec (.meshCrcFailure d hop []) s = .next (modDie s d fun k => { k with hops := k.hops ++ [hop] }) := by
  refine congrArg Host.Outcome.next (if_neg ?_)
  simpa [hnew] using hd

end

/-- Settles O60: boot, recovery, the units' commands and their ends, and the clocks, storage errors and counts. -/
theorem serviceEvents : Obligations.ServiceEvents := by
  refine ⟨fun s => rom_runs, fun s cl links planes hstage hfail hpass => ?_, fun s i stage hi => ?_, fun s hfail hpass => ⟨fun hstage => ?_, fun hstage => ?_⟩,
    fun s => ?_, fun s v u flag hstage hscrub hbusy hunit => unitCommands flag (hostWrites_of_ready hstage hscrub) hbusy hunit,
    fun s v hstage hscrub hbusy hop => firmwareCommand (hostWrites_of_ready hstage hscrub) hbusy hop, fun s => endRestart_ends,
    fun s u => unitCommandsEnd, fun s => ?_⟩
  · obtain ⟨h3, hclus, hlink, hplane⟩ := trained_service cl links planes s
    exact ⟨_, train_trains hstage hfail hpass, h3, hclus, hlink, hplane, fun n => trained_isolates cl links planes s,
      fun n => trained_links cl links planes s⟩
  · obtain ⟨f, hexec⟩ := exec_of_bootStage hi s
    rw [hexec]
    exact ⟨fun h => congrArg _ (bootStage_of_other h), fun hstage hfail h => congrArg _ (bootStage_of_fails hstage hfail h)⟩
  · exact clear_clears hstage hfail (hstage ▸ hpass)
  · exact congrArg Host.Outcome.next (bootStage_of_passes hstage hfail (hstage ▸ hpass))
  · obtain ⟨hreset, hpower, hrecover⟩ := resets s
    exact ⟨hreset, hpower, hrecover, go_fetches, fun h dmaError => recoveryImageVerify_steps h dmaError⟩
  · refine ⟨fun hhot hcool => congrArg Host.Outcome.next (if_neg ?_), fun h => congrArg Host.Outcome.next (if_pos h), fun droop => ?_,
      fun line l => uncorrectableError_poisons, fun h hh hstopped => congrArg Host.Outcome.next (if_neg ?_), fun d wa => weightBlock_marks,
      fun d => rfl, fun d hop => meshCrcFailure_retires, fun m hscan => ?_, fun hours temps corrected => ⟨_, rfl, rfl, rfl, rfl⟩⟩
    · rw [hcool]
      rintro (hlt | hfalse)
      · exact absurd hhot (Nat.not_le.2 hlt)
      · cases hfalse
    · refine ⟨_, rfl, rfl, fun hdroop hlt => ?_, fun hdroop => ?_⟩
      · rw [hdroop]
        exact satUp_of_lt hlt
      · rw [hdroop]
        rfl
    · rw [hstopped]
      simpa using hh
    · exact ⟨_, congrArg Host.Outcome.next (if_neg (Bool.eq_false_iff.1 hscan)), rfl, rfl, rfl, rfl, satUp_of_lt⟩

end Sys2Proof.Machine
end

section
/-! CLAIM. Records and their acknowledgements, the host's writes and accesses (R307, R311, R323, R324, R335, R346 to R348, R354, R438, R455). -/

namespace Sys2Proof.Machine

/-! ### Records (R323, R348) -/

theorem dropFirst_length {q : FaultQ} : ∀ {xs : List Waiting} {x : Waiting}, (xs.find? fun y => y.q == q) = some x →
    (dropFirst q xs).length + 1 = xs.length
  | [], x, h => by cases h
  | y :: ys, x, h => by
    unfold dropFirst
    by_cases hy : y.q = q
    · rw [if_pos hy]
      rfl
    · rw [if_neg hy]
      rw [List.find?_cons_of_neg (by simpa using hy)] at h
      exact congrArg (· + 1) (dropFirst_length h)

/-- A write at a place leaves the records. -/
theorem writeDest_leaves (s : State) (d : Dest) (bs : List Byte) : (writeDest s d bs).posted = s.posted ∧
    (writeDest s d bs).waiting = s.waiting ∧ (writeDest s d bs).rings = s.rings := by
  cases d with
  | main pa key cache rem =>
    obtain ⟨_, _, _, _, _, _, h⟩ := writeDevice_frame s pa key bs
    rw [show writeDest s (.main pa key cache rem) bs = writeDevice s pa key bs from rfl, h]
    exact ⟨rfl, rfl, rfl⟩
  | host | scratch | regs | stack | weight | fabric | window => exact ⟨rfl, rfl, rfl⟩

theorem postedAt_writeDest (s : State) (d : Dest) (bs : List Byte) (q : FaultQ) (e : Dest) :
    postedAt (writeDest s d bs) q e = postedAt s q e := by
  rw [postedAt, postedAt, (writeDest_leaves s d bs).1]

section
variable {s : State} {q : FaultQ} {d : Dest}

/-- The oldest record of a queue goes into a slot that is free (R348). -/
theorem writeRecord_places {x : Waiting} (hfind : (s.waiting.find? fun y => y.q == q) = some x) (hlen : (ringOf s q).len ≠ 0)
    (hslot : ringSlot s q (ringPos s q) = .ok d) (hfree : slotWord s d = some 0) (hposted : postedAt s q d = none) :
    writeRecord s q = placeRecord s q x d := by
  simp only [writeRecord, hfind, hlen, hslot, hfree, hposted, if_true, if_false]

/-- The record stands in its slot, and waits no longer. -/
theorem placeRecord_posts {x : Waiting} (hfind : (s.waiting.find? fun y => y.q == q) = some x) :
    (∃ y ∈ (placeRecord s q x d).posted, y.q = q ∧ y.slot = ringPos s q ∧ y.dest = d ∧ y.master = x.master) ∧
      (placeRecord s q x d).waiting.length + 1 = s.waiting.length := by
  refine ⟨⟨_, List.mem_append_right _ List.mem_cons_self, rfl, rfl, rfl, rfl⟩, ?_⟩
  have hwaiting : (placeRecord s q x d).waiting = dropFirst q s.waiting := (writeDest_leaves ..).2.1
  rw [hwaiting]
  exact dropFirst_length hfind

/-- An owner's write of a slot's first doubleword (R348). -/
theorem ackSlot_of_slot {fn slot : Nat} (refuse : Bool) (hmay : mayAck s fn q = true) (hslot : slot < (ringOf s q).len)
    (hat : ringSlot s q slot = .ok d) :
    let u := writeDest s d (bytesOfDWords [if refuse then 1 else 0])
    (postedAt s q d = none → ackSlot s fn q slot refuse = writeRecord u q) ∧
      ∀ x, postedAt s q d = some x → ackSlot s fn q slot refuse = settleAck u x := by
  intro u
  have hpasses : (!mayAck s fn q || decide ((ringOf s q).len ≤ slot)) = false := by simp [hmay, hslot]
  refine ⟨fun hnone => ?_, fun x hx => ?_⟩
  · simp only [ackSlot, hpasses, hat, postedAt_writeDest, hnone, Bool.false_eq_true, if_false]
    rfl
  · simp only [ackSlot, hpasses, hat, postedAt_writeDest, hx, Bool.false_eq_true, if_false]
    rfl

theorem settleAck_of_answer {x : Posted} :
    (x.answer s = some false → settleAck s x = writeRecord (acknowledge s x false) x.q) ∧
    (x.answer s = some true → settleAck s x = writeRecord (acknowledge (writeDest s x.dest (List.replicate 8 0)) x true) x.q) ∧
    (x.answer s = none → settleAck s x = s) := by
  refine ⟨fun h => ?_, fun h => ?_, fun h => ?_⟩ <;> simp [settleAck, h]

end

/-! ### The host's writes (R307, R311, R324, R346, R354, R438, R455) -/

section
variable {s : State} {fn : Nat}

theorem reachesWorld_of {world : Nat} (h : fn = 0 ∨ functionWorld s fn = world) : reachesWorld s fn world = true := by
  simpa [reachesWorld] using h

theorem counterWrite_writes {k : Nat} {x : Word} (hready : hostWrites s = true) (hk : k < 4096) (hhold : counterHold s k = none)
    (hmay : fn = 0 ∨ functionWorld s fn = counterWorld s k) :
    ∃ t, exec (.counterWrite fn k x) s = .next t ∧ counterValue t k = x ∧ (∀ j, j ≠ k → counterValue t j = counterValue s j) ∧
      t.mem = s.mem ∧ t.cores = s.cores := by
  refine ⟨_, congrArg Host.Outcome.next (if_neg ?_), Table.getD_put_self .., fun j hj => Table.getD_put_ne _ _ _ hj, rfl, rfl⟩
  simp [hready, hhold, reachesWorld_of hmay, hk]

/-- RARG as a command finds it, after the host's write of it where it makes one (R324). -/
theorem rarg_setRarg (s : State) (world : Nat) (v : Option DWord) :
    (runControl (setRarg s world v) world).rarg = v.getD (runControl s world).rarg := by
  cases v with
  | none => rfl
  | some v => exact congrArg RunControl.rarg (Table.getD_put_self ..)

theorem setRarg_debugSlots (s : State) (world : Nat) (v : Option DWord) : (setRarg s world v).debugSlots = s.debugSlots := by
  cases v <;> rfl

theorem commandCode (code : Nat) (hcode : code < 16) {slot : Nat} (hslot : slot < 65536) :
    field (BitVec.ofNat 64 (code * 2 ^ 60 + slot)) 63 60 = code := by
  rw [field_ofNat (by omega)]
  omega

theorem alignedPc {rarg : DWord} (h : rarg.toNat % 4 = 0) : lowWord rarg &&& 3 = 0 := by
  apply BitVec.eq_of_toNat_eq
  rw [BitVec.toNat_and, lowWord_toNat]
  have hand := Nat.and_two_pow_sub_one_eq_mod (rarg.toNat % 2 ^ 32) 2
  have h3 : (3 : Word).toNat = 2 ^ 2 - 1 := rfl
  rw [h3, hand]
  change rarg.toNat % 2 ^ 32 % 2 ^ 2 = 0
  omega

/-- RCMD for a slice that is TRAPPED, at an aligned PC, with no REGWRITE waiting for it (R324). -/
theorem runCommand_moves {world code slot : Nat} {w : SliceName} {v : Option DWord} (hready : hostWrites s = true)
    (hmay : fn = 0 ∨ functionWorld s fn = world) (hslot : slot < 65536) (hcode : code = 1 ∨ code = 2)
    (halign : (v.getD (runControl s world).rarg).toNat % 4 = 0) (hdebug : ∀ p ∈ s.debugSlots, ∀ x, p.2.regwrite = some x → x.1 ≠ w)
    (hslice : commandSlice (setRarg s world v) world (BitVec.ofNat 64 (code * 2 ^ 60 + slot)) (v.getD (runControl s world).rarg) = some w) :
    let t := setRunControl (setRarg s world v) world (BitVec.ofNat 64 (code * 2 ^ 60 + slot)) false
    runCommand s fn world (BitVec.ofNat 64 (code * 2 ^ 60 + slot)) v code =
      if code = 1 then resumeSlice t w (lowWord (v.getD (runControl s world).rarg)) else retireSlice t w := by
  have hfield := commandCode code (by omega) hslot
  have hregwrite : (setRarg s world v).debugSlots.any (fun p => p.2.regwrite.any fun x => x.1 == w) = false := by
    rw [setRarg_debugSlots]
    refine List.any_eq_false.2 fun p hp => ?_
    cases hx : p.2.regwrite with
    | none => exact nofun
    | some x => simpa using hdebug p hp x hx
  have hentry : ¬ ((!hostWrites s) = true ∨ (!reachesWorld s fn world) = true ∨
      field (BitVec.ofNat 64 (code * 2 ^ 60 + slot)) 63 60 = 3 - code) := by
    rw [hfield, hready, reachesWorld_of hmay]
    simp
    omega
  intro t
  unfold runCommand
  rw [if_neg hentry]
  dsimp only
  rw [rarg_setRarg, hslice]
  dsimp only
  rw [hregwrite, if_neg Bool.false_ne_true, hfield, alignedPc halign, if_neg (by simp)]

theorem partitionWrite_writes {part : Nat} {v : DWord} (hready : hostWrites s = true) (hfn : fn = 0) (hpart : part < 64)
    (horder : field v 4 0 ≤ field v 12 8) (hmax : field v 12 8 ≤ 16) (hsum : minSum s - (partition s part).min + field v 4 0 ≤ 16) :
    ∃ t, exec (.partitionWrite fn part v) s = .next t ∧ (partition t part).min = field v 4 0 ∧ (partition t part).max = field v 12 8 ∧
      (partition t part).fixed = v.getLsbD 24 ∧ ∀ j, j ≠ part → partition t j = partition s j := by
  have hself (f : Partition → Partition) : partition (modPartition s part f) part = f (partition s part) :=
    (partition_modPartition ..).trans (if_pos rfl)
  refine ⟨_, congrArg Host.Outcome.next (if_neg ?_), ?_, ?_, ?_, fun j hj => (partition_modPartition ..).trans (if_neg hj)⟩
  · simp only [hready, hfn]
    simp
    omega
  all_goals
    rw [hself]

theorem debugSlotWrite_writes {slot off : Nat} {v : DWord} (hready : hostWrites s = true) (hslot : slot < 64) (hoff : off % 8 = 0)
    (hmay : fn = 0 ∨ functionWorld s fn = field (listGetD (debugSlot s slot).d 0 0) 47 32) :
    let t : State := { s with debugSlots := Table.put s.debugSlots slot ((debugSlot s slot).write s.clock (off / 8) v) }
    exec (.debugSlotWrite fn slot off v) s = .next (if off = 0 ∨ off = 16 ∨ off = 24 then setRingPos t (.debug slot) 0 else t) := by
  refine congrArg Host.Outcome.next (if_neg ?_)
  simpa [hready, hslot, hoff] using reachesWorld_of hmay

theorem registerWrite_writes {off : Nat} {v : DWord} (hready : hostWrites s = true) (hoff : off < 0x800000) :
    exec (.registerWrite fn off v) s = .next (writeRegister s fn off v) := by
  refine congrArg Host.Outcome.next ((if_neg ?_).trans ((if_neg ?_).trans (if_pos hready)))
  · unfold configSpace
    omega
  · unfold configSpace
    omega

/-- A field of a doubleword kept at its place, bit by bit. -/
theorem getLsbD_keepBits (v : DWord) {hi lo : Nat} (h : lo ≤ hi) (h63 : hi ≤ 63) (i : Nat) :
    (keepBits v hi lo).getLsbD i = (decide (lo ≤ i ∧ i ≤ hi) && v.getLsbD i) := by
  unfold keepBits field
  rw [BitVec.getLsbD_ofNat, Nat.testBit_mul_two_pow, Nat.testBit_mod_two_pow, Nat.testBit_div_two_pow]
  by_cases hlo : lo ≤ i
  · by_cases hhi : i ≤ hi
    · have h1 : i < 64 := by omega
      have h2 : i - lo < hi + 1 - lo := by omega
      have h3 : i - lo + lo = i := by omega
      simp [hlo, hhi, h1, h2, h3, BitVec.getLsbD]
    · have h2 : ¬ i - lo < hi + 1 - lo := by omega
      simp [hhi, h2]
  · simp [hlo]

theorem keepBits_47_5 (v : DWord) : keepBits v 47 5 = v &&& 0x0000FFFFFFFFFFE0 := by
  apply BitVec.eq_of_getLsbD_eq
  intro i hi
  rw [getLsbD_keepBits v (by decide) (by decide), BitVec.getLsbD_and, Bool.and_comm]
  congr 1
  revert i
  decide

end

/-! ### The label-control port (R346) -/

section
variable {s : State}

theorem lcpcmd_begins {fn : Nat} {v : DWord} (hready : hostWrites s = true) (hfn : fn = 0) (hidle : s.regs.lcpBusy = false)
    (hlabel : v.toNat % 2 ^ 16 ≠ 0) :
    ∃ t, exec (.lcpcmd fn v) s = .next t ∧ t.regs.lcpBusy = true ∧ t.regs.lcpErr = false ∧ t.regs.lcpMark = s.nextAccess ∧
      (v.toNat / 2 ^ 62 = 2 → ∀ y ∈ t.pCopies, y.label.toNat ≠ v.toNat % 2 ^ 16) := by
  have hfield : field v 15 0 = v.toNat % 2 ^ 16 := by simp [field]
  have hnext : (invalidate s (lvlOf (field v 63 62)) (field v 47 32) (BitVec.ofNat 16 (field v 15 0))).nextAccess = s.nextAccess := by
    unfold invalidate staleCopies
    split <;> rfl
  refine ⟨_, congrArg Host.Outcome.next ((if_neg (by simp [hready])).trans (if_neg ?_)), rfl, rfl, hnext, fun hp y hy hlab => ?_⟩
  · rw [hfield]
    simpa [hfn, hidle] using hlabel
  · have hlevel : lvlOf (field v 63 62) = .p := by
      rw [show field v 63 62 = 2 by unfold field; omega]
      rfl
    replace hy : y ∈ (invalidate s (lvlOf (field v 63 62)) (field v 47 32) (BitVec.ofNat 16 (field v 15 0))).pCopies := hy
    rw [hlevel] at hy
    have hne : y.label ≠ BitVec.ofNat 16 (field v 15 0) := by simpa using (List.mem_filter.1 hy).2
    refine hne (BitVec.eq_of_toNat_eq ?_)
    rw [BitVec.toNat_ofNat, hfield, hlab]
    omega

theorem invalidated_leaves (s : State) (m : Lvl) (world : Nat) (lab : BitVec 16) : (invalidated s m world lab).regs = s.regs ∧
    (invalidated s m world lab).mem = s.mem ∧ (invalidated s m world lab).lines = s.lines := ⟨rfl, rfl, rfl⟩

theorem lcpInvalidationComplete_ends (hbusy : s.regs.lcpBusy = true) (hinflight : s.inflight = []) (hmessages : s.messages = [])
    (hcombiner : s.combiner = []) (hscatter : ∀ p ∈ activeTeams s, p.2.addr.scatter = [])
    (hwalked : ∀ p ∈ s.cores, ∀ x ∈ p.2.active.sluice, x.2.walked = []) :
    ∃ t, exec .lcpInvalidationComplete s = .next t ∧ t.regs = { s.regs with lcpBusy := false } ∧ t.mem = s.mem ∧ t.lines = s.lines := by
  have hunused (m : Lvl) (world : Nat) (lab : BitVec 16) (mark : Nat) : usesLabel s m world lab mark = false := by
    refine usesLabel_eq_false ?_ ?_ ?_ fun p hp => ⟨fun t ht y hy => ?_, fun x hx y hy => ?_⟩
    · simp [hinflight]
    · simp [hcombiner]
    · simp [hmessages]
    · rw [hscatter (⟨p.1, t.1⟩, t.2) (List.mem_flatMap.2 ⟨p, hp, List.mem_map.2 ⟨t, ht, rfl⟩⟩)] at hy
      cases hy
    · rw [hwalked p hp x hx] at hy
      cases hy
  obtain ⟨hregs, hmem, hlines⟩ := invalidated_leaves { s with regs := { s.regs with lcpBusy := false } }
    (lvlOf (field s.regs.lcpCmd 63 62)) (field s.regs.lcpCmd 47 32) (BitVec.ofNat 16 (field s.regs.lcpCmd 15 0))
  exact ⟨_, congrArg Host.Outcome.next (if_pos (by rw [hbusy, hunused]; rfl)), hregs, hmem, hlines⟩

/-! ### Quotas of the memory-side cache (R354) -/

theorem nextTaker_lt (s : State) (qs : List Nat) : nextTaker s qs < 64 := by
  unfold nextTaker
  refine List.foldlRecOn (motive := fun m : Option Nat => m.getD 0 < 64) _ _ (by decide) fun m hm p hp => ?_
  have hp64 : p < 64 := List.mem_range.1 hp
  dsimp only
  split
  · exact hm
  · split
    · exact hp64
    · split
      · exact hp64
      · exact hm

theorem sum_listModify_succ : ∀ {qs : List Nat} {n : Nat}, n < qs.length → (listModify (· + 1) qs n).sum = qs.sum + 1
  | [], n, h => absurd h (Nat.not_lt_zero n)
  | q :: qs, 0, _ => by
    simp [listModify]
    omega
  | q :: qs, n + 1, h => by
    simp [listModify, sum_listModify_succ (Nat.lt_of_succ_lt_succ h)]
    omega

theorem length_listModify {α : Type} (f : α → α) : ∀ (xs : List α) (n : Nat), (listModify f xs n).length = xs.length
  | [], n => by cases n <;> rfl
  | x :: xs, 0 => rfl
  | x :: xs, n + 1 => congrArg (· + 1) (length_listModify f xs n)

/-- Ways handed out go one by one to some of the partitions. -/
theorem handWays_hands (s : State) : ∀ (n : Nat) (qs : List Nat), qs.length = 64 → (handWays s n qs).length = 64 ∧
    (handWays s n qs).sum = qs.sum + n ∧ ∀ p, listGetD qs p 0 ≤ listGetD (handWays s n qs) p 0
  | 0, qs, h => ⟨h, rfl, fun _ => le_refl _⟩
  | n + 1, qs, h => by
    obtain ⟨hlen, hsum, hge⟩ := handWays_hands s n (listModify (· + 1) qs (nextTaker s qs)) ((length_listModify ..).trans h)
    have hlt : nextTaker s qs < qs.length := h ▸ nextTaker_lt s qs
    refine ⟨hlen, hsum.trans ?_, fun p => le_trans ?_ (hge p)⟩
    · rw [sum_listModify_succ hlt]
      omega
    · by_cases hp : p = nextTaker s qs
      · rw [hp, listGetD_listModify_self (· + 1) hlt]
        exact Nat.le_succ _
      · rw [listGetD_listModify_ne (· + 1) qs hp]

end

section
variable {s : State}

/-- A partition's quota set, as QUOTA_UPDATE sets it (R354). -/
def setQuota (qs : List Nat) (s : State) (p : Nat) : State :=
  let q := listGetD qs p 0
  if (partition s p).quota = q ∧ !(partition s p).written then s else modPartition s p (Partition.requota q)

theorem setQuota_sets (qs : List Nat) (s : State) (p : Nat) : (partition (setQuota qs s p) p).quota = listGetD qs p 0 ∧
    (∀ j, j ≠ p → partition (setQuota qs s p) j = partition s j) ∧ (setQuota qs s p).mem = s.mem ∧
    (setQuota qs s p).cacheSets = s.cacheSets := by
  unfold setQuota
  dsimp only
  split
  · next h => exact ⟨h.1, fun _ _ => rfl, rfl, rfl⟩
  · refine ⟨?_, fun j hj => (partition_modPartition ..).trans (if_neg hj), rfl, rfl⟩
    rw [partition_modPartition, if_pos rfl]
    rfl

theorem setQuotas_set (qs : List Nat) (s : State) (n : Nat) :
    let t := (List.range n).foldl (setQuota qs) s
    (∀ p, p < n → (partition t p).quota = listGetD qs p 0) ∧ t.mem = s.mem ∧ t.cacheSets = s.cacheSets := by
  induction n with
  | zero => exact ⟨fun p hp => absurd hp (Nat.not_lt_zero p), rfl, rfl⟩
  | succ n ih =>
    obtain ⟨hquota, hmem, hsets⟩ := ih
    rw [List.range_succ, List.foldl_append, List.foldl_cons, List.foldl_nil]
    generalize (List.range n).foldl (setQuota qs) s = u at hquota hmem hsets ⊢
    obtain ⟨hself, hother, hm, hc⟩ := setQuota_sets qs u n
    refine ⟨fun p hp => ?_, hm.trans hmem, hc.trans hsets⟩
    by_cases hpn : p = n
    · rw [hpn, hself]
    · rw [hother p hpn]
      exact hquota p (by omega)

theorem map_listGetD_range {qs : List Nat} {n : Nat} (h : qs.length = n) : (List.range n).map (fun p => listGetD qs p 0) = qs := by
  subst h
  apply List.ext_getElem
  · simp
  · intro i h1 h2
    simp [listGetD, h2]

/-- Every partition's quota set, with the time and the monitors of the update (R354). -/
def quotasSet (s : State) (anew : Bool) (qs : List Nat) : State :=
  let s := (List.range 64).foldl (setQuota qs) s
  { s with quotaAt := s.wall, monitors := if anew then s.monitors.map fun m => (m.1, { m.2 with hits := List.replicate 16 0 }) else s.monitors }

theorem execQuotaUpdate_eq (s : State) (anew : Bool) : execQuotaUpdate anew s = .next (if s.wall < s.quotaAt + 1050000 then s
    else quotasSet s anew (handWays s (16 - ((List.range 64).map fun p => (partition s p).min).sum)
      ((List.range 64).map fun p => (partition s p).min))) := by
  unfold execQuotaUpdate quotasSet setQuota millisecond
  rfl

/-- QUOTA_UPDATE with its time come: the quotas are those that the ways have been handed out to (R354). -/
theorem quotaUpdate_updates (anew : Bool) (hdue : s.quotaAt + 1050000 ≤ s.wall) :
    ∃ t, exec (.quotaUpdate anew) s = .next t ∧ t.mem = s.mem ∧ t.cacheSets = s.cacheSets ∧
      (((List.range 64).map fun p => (partition s p).min).sum ≤ 16 →
        ((List.range 64).map fun p => (partition t p).quota).sum = 16 ∧ ∀ p, p < 64 → (partition s p).min ≤ (partition t p).quota) := by
  have hlen : ((List.range 64).map fun p => (partition s p).min).length = 64 := by simp
  have hmin {p : Nat} (hp : p < 64) : listGetD ((List.range 64).map fun p => (partition s p).min) p 0 = (partition s p).min := by
    simp [listGetD, hp]
  have hexec : exec (.quotaUpdate anew) s = _ := execQuotaUpdate_eq s anew
  rw [if_neg (Nat.not_lt.2 hdue)] at hexec
  generalize (List.range 64).map (fun p => (partition s p).min) = mins at hlen hmin hexec ⊢
  obtain ⟨hqlen, hqsum, hqge⟩ := handWays_hands s (16 - mins.sum) mins hlen
  generalize handWays s (16 - mins.sum) mins = qs at hqlen hqsum hqge hexec
  obtain ⟨hquota, hmem, hsets⟩ := setQuotas_set qs s 64
  unfold quotasSet at hexec
  generalize (List.range 64).foldl (setQuota qs) s = u at hquota hmem hsets hexec
  refine ⟨_, hexec, hmem, hsets, fun hsum => ⟨?_, fun p hp => ?_⟩⟩
  · have hmap : ((List.range 64).map fun p => (partition u p).quota) = qs :=
      (List.map_congr_left fun p hp => hquota p (List.mem_range.1 hp)).trans (map_listGetD_range hqlen)
    refine (congrArg List.sum hmap).trans ?_
    omega
  · rw [← hmin hp]
    exact (hqge p).trans (le_of_eq (hquota p hp).symm)

/-! ### Host accesses (R335, R364) -/

/-- Two states hold the same main memory, its keys and its key slots. -/
def SameKeyed (s t : State) : Prop := t.mem = s.mem ∧ t.sectorKeys = s.sectorKeys ∧ t.keys = s.keys

theorem SameKeyed.byteUnder {s t : State} (h : SameKeyed s t) (reader pa : Nat) : byteUnder t reader pa = byteUnder s reader pa := by
  obtain ⟨hmem, hsector, -⟩ := h
  unfold Machine.byteUnder blockAt
  rw [hmem, hsector]

theorem SameKeyed.keyId {s t : State} (h : SameKeyed s t) (slot : Nat) : keyId t slot = keyId s slot := by
  unfold Machine.keyId
  rw [h.2.2]

theorem SameKeyed.readKeyed {s t : State} (h : SameKeyed s t) (slot pa n : Nat) : readKeyed t slot pa n = readKeyed s slot pa n := by
  unfold Machine.readKeyed
  rw [h.keyId]
  exact List.map_congr_left fun i _ => h.byteUnder ..

theorem SameKeyed.rekeySector {s t : State} (h : SameKeyed s t) (id sec : Nat) : SameKeyed (rekeySector s id sec) (rekeySector t id sec) := by
  obtain ⟨hmem, hsector, hkeys⟩ := h
  have hbyte (reader pa : Nat) : Machine.byteUnder t reader pa = Machine.byteUnder s reader pa :=
    SameKeyed.byteUnder ⟨hmem, hsector, hkeys⟩ reader pa
  unfold Machine.rekeySector
  rw [hsector]
  cases Table.get s.sectorKeys sec with
  | none => exact ⟨hmem, rfl, hkeys⟩
  | some k =>
    dsimp only
    by_cases hk : k = id
    · rw [if_pos hk, if_pos hk]
      exact ⟨hmem, hsector, hkeys⟩
    · rw [if_neg hk, if_neg hk]
      refine ⟨?_, rfl, hkeys⟩
      simp only [hmem, hbyte]

theorem SameKeyed.writeKeyed {s t : State} (h : SameKeyed s t) (slot pa : Nat) (bs : List Byte) :
    (writeKeyed t slot pa bs).mem = (writeKeyed s slot pa bs).mem := by
  have hfold (xs : List Nat) : ∀ {u v : State}, SameKeyed u v →
      SameKeyed (xs.foldl (fun s i => Machine.rekeySector s (Machine.keyId s slot) (pa / 32 + i)) u)
        (xs.foldl (fun s i => Machine.rekeySector s (Machine.keyId s slot) (pa / 32 + i)) v) := by
    induction xs with
    | nil => exact fun h => h
    | cons i xs ih =>
      intro u v h
      refine ih ?_
      dsimp only
      rw [h.keyId]
      exact h.rekeySector ..
  exact congrArg (Memory.writeBytes · pa bs) (hfold _ h).1

theorem sameKeyed_keepCopies (s : State) (c : Nat) (cs : List (Lvl × EntryCopy)) : SameKeyed s (keepCopies s c cs) := by
  have hframe := (onlyCopies_keepCopies s c cs).frame
  rw [hframe]
  exact ⟨rfl, rfl, rfl⟩

end

section
variable {s : State}

/-- What a renewal or a store at a line's home by the host leaves of the state: its memories, and what the host has been answered. -/
structure LeavesAnswers (s t : State) : Prop where
  mem : t.mem = s.mem
  hostMem : t.hostMem = s.hostMem
  hostReads : t.hostReads = s.hostReads

theorem LeavesAnswers.foldl {f : State → Nat → State} (h : ∀ s n, LeavesAnswers s (f s n)) : ∀ (ns : List Nat) (s : State),
    LeavesAnswers s (ns.foldl f s)
  | [], _ => ⟨rfl, rfl, rfl⟩
  | n :: ns, s => by
    obtain ⟨hmem, hhost, hreads⟩ := LeavesAnswers.foldl h ns (f s n)
    obtain ⟨hmem', hhost', hreads'⟩ := h s n
    exact ⟨hmem.trans hmem', hhost.trans hhost', hreads.trans hreads'⟩

theorem makeRoom_hostReads (s : State) (line : Nat) : (makeRoom s line).hostReads = s.hostReads := by
  unfold makeRoom
  split
  · rfl
  · dsimp only
    split
    · rfl
    · split
      · unfold evictLine
        split <;> rfl
      · rfl

theorem leavesAnswers_renewLine (s : State) (line : Nat) : LeavesAnswers s (renewLine s .host line).1 :=
  ⟨(Kept.renewLine s .host line).mem, (Kept.renewLine s .host line).hostMem, makeRoom_hostReads s line⟩

theorem leavesAnswers_stampStore (s : State) (line : Nat) (whole : List Nat) : LeavesAnswers s (stampStore s .host line whole) :=
  ⟨(Kept.stampStore s .host line whole).mem, (Kept.stampStore s .host line whole).hostMem, makeRoom_hostReads s line⟩

variable {fn off size : Nat} {data : List Byte}

/-- A host access that main memory serves (R335, R364). -/
theorem hostPerform_main {d : Dest} {pa key : Nat} {cache rem : Bool} (write : Bool) (hdest : d = .main pa key cache rem)
    (hserves : ((linesOf pa size).findSome? fun l => lineHold s l write) = none) :
    let t := hostPerform s fn off d write size data
    t.hostMem = s.hostMem ∧ t.mem = (if write then (writeKeyed s key pa (fitBytes size data)).mem else s.mem) ∧
      (write = false → t.hostReads = s.hostReads ++ [⟨fn, off, readKeyed s key pa size, false⟩]) := by
  subst hdest
  cases write with
  | false =>
    have hstream : streamMain s .host pa key size none =
        .moved ((linesOf pa size).foldl (fun s l => (renewLine s .host l).1) s) (readKeyed s key pa size) := by
      simp only [streamMain, Option.isSome_none, hserves]
    obtain ⟨hmem, hhost, hreads⟩ := LeavesAnswers.foldl leavesAnswers_renewLine (linesOf pa size) s
    simp only [hostPerform, hstream, Bool.false_eq_true, if_false]
    exact ⟨hhost, hmem, fun _ => congrArg (fun rs : List HostRead => rs ++ [⟨fn, off, readKeyed s key pa size, false⟩]) hreads⟩
  | true =>
    have hstream : streamMain s .host pa key size (some (fitBytes size data)) = .moved ((linesOf pa size).foldl
        (fun s l => stampStore s .host l (wholeSectors pa size l)) (writeKeyed s key pa (fitBytes size data))) [] := by
      simp only [streamMain, Option.isSome_some, hserves]
    obtain ⟨hmem, hhost, -⟩ := LeavesAnswers.foldl (f := fun s l => stampStore s .host l (wholeSectors pa size l))
      (fun s l => leavesAnswers_stampStore ..) (linesOf pa size) (writeKeyed s key pa (fitBytes size data))
    simp only [hostPerform, hstream, if_true]
    exact ⟨hhost.trans (writeKeyed_hostMem ..), hmem, nofun⟩

theorem hostPerform_host {d : Dest} {pa : Nat} (write : Bool) (hdest : d = .host pa) :
    let t := hostPerform s fn off d write size data
    t.mem = s.mem ∧ t.hostMem = (if write then Memory.writeBytes s.hostMem pa (fitBytes size data) else s.hostMem) ∧
      (write = false → t.hostReads = s.hostReads ++ [⟨fn, off, Memory.readBytes s.hostMem pa size, false⟩]) := by
  subst hdest
  cases write with
  | false => exact ⟨rfl, rfl, fun _ => rfl⟩
  | true => exact ⟨rfl, rfl, nofun⟩

theorem hostAccess_of_path {write : Bool} {p : Path} (h : hostPath s fn write off size = .ok p) :
    exec (.hostAccess fn write off size data) s = .next (hostPerform (keepCopies s 0 p.copies) fn off p.dest write size data) := by
  have hexec : exec (.hostAccess fn write off size data) s = execHostAccess fn write off size data s := rfl
  rw [hexec, execHostAccess, h]

theorem hostAccess_of_fault {write : Bool} {f : PathFault} (h : hostPath s fn write off size = .error f) :
    exec (.hostAccess fn write off size data) s = .next (
      if f.hold.isSome then s
      else if write then hostFault s fn off size f
      else hostReturn (hostFault s fn off size f) fn off (List.replicate size 0) true) := by
  have hexec : exec (.hostAccess fn write off size data) s = execHostAccess fn write off size data s := rfl
  rw [hexec, execHostAccess, h]

theorem keepCopies_answers (s : State) (c : Nat) (cs : List (Lvl × EntryCopy)) : LeavesAnswers s (keepCopies s c cs) := by
  have hframe := (onlyCopies_keepCopies s c cs).frame
  rw [hframe]
  exact ⟨rfl, rfl, rfl⟩

end

/-- Settles O56: records placed and answered, the host's writes, the label-control port, the quotas and the host's accesses. -/
theorem recordAndHostEvents : Obligations.RecordAndHostEvents := by
  refine ⟨fun s q x d hfind hlen hslot hfree hposted => ?_, fun s fn q slot d hmay hslot hat => ?_, fun s fn hstage hscrub => ?_,
    fun s => lcpInvalidationComplete_ends, fun s hearly anew => ?_, fun s anew => quotaUpdate_updates anew,
    fun s fn write off size data => ⟨fun f hf hhold => ?_, fun f hf hhold => ?_, fun p pa hp hdest => ?_,
      fun p pa key cache rem hp hdest hserves => ?_⟩⟩
  · have hwrite := writeRecord_places hfind hlen hslot hfree hposted
    obtain ⟨hposts, hwaits⟩ := placeRecord_posts (d := d) hfind
    refine ⟨_, rfl, congrArg Host.Outcome.next hwrite, congrArg Host.Outcome.next hwrite, fun launch hq => ?_, hposts, hwaits⟩
    subst hq
    exact congrArg Host.Outcome.next hwrite
  · intro u
    obtain ⟨hresume, hresumes⟩ := ackSlot_of_slot false hmay hslot hat
    obtain ⟨hrefuse, hrefuses⟩ := ackSlot_of_slot true hmay hslot hat
    refine ⟨fun hnone => ⟨congrArg Host.Outcome.next (hresume hnone), congrArg Host.Outcome.next (hrefuse hnone)⟩,
      fun x hx => ⟨fun h => ?_, fun h => ?_, fun h => ?_⟩⟩
    · exact congrArg Host.Outcome.next ((hresumes x hx).trans (settleAck_of_answer.1 h))
    · exact congrArg Host.Outcome.next ((hrefuses x hx).trans (settleAck_of_answer.2.1 h))
    · exact congrArg Host.Outcome.next ((hrefuses x hx).trans (settleAck_of_answer.2.2 h))
  · have hready := hostWrites_of_ready hstage hscrub
    refine ⟨fun k v hfn => congrArg Host.Outcome.next ((if_pos hready).trans (if_pos hfn)), fun k x => counterWrite_writes hready,
      fun world slot w v hmay hslot halign hdebug => ⟨fun hslice => ?_, fun hslice => ?_⟩, fun v => lcpcmd_begins hready,
      fun part v => partitionWrite_writes hready, fun slot off v => debugSlotWrite_writes hready,
      fun off v => registerWrite_writes hready, fun v => ?_⟩
    · exact congrArg Host.Outcome.next ((runCommand_moves hready hmay hslot (.inl rfl) halign hdebug hslice).trans (if_pos rfl))
    · exact congrArg Host.Outcome.next ((runCommand_moves hready hmay hslot (.inr rfl) halign hdebug hslice).trans (if_neg (by decide)))
    · rw [registerWrite_writes hready (by decide), ← keepBits_47_5]
      rfl
  · exact congrArg Host.Outcome.next (if_pos hearly)
  · exact (hostAccess_of_fault hf).trans (congrArg _ (if_pos hhold))
  · exact (hostAccess_of_fault hf).trans (congrArg _ (if_neg (by rw [hhold]; exact nofun)))
  · obtain ⟨hmem, hhost, hreads⟩ := keepCopies_answers s 0 p.copies
    obtain ⟨hmem', hhost', hreads'⟩ := hostPerform_host (s := keepCopies s 0 p.copies) (fn := fn) (off := off) (size := size) (data := data)
      write hdest
    rw [hhost, hreads] at hreads'
    rw [hhost] at hhost'
    exact ⟨_, hostAccess_of_path hp, hmem'.trans hmem, hhost', hreads'⟩
  · obtain ⟨hmem, hhost, hreads⟩ := keepCopies_answers s 0 p.copies
    obtain ⟨hhost', hmem', hreads'⟩ := hostPerform_main (s := keepCopies s 0 p.copies) (fn := fn) (off := off) (data := data)
      write hdest hserves
    have hsame := sameKeyed_keepCopies s 0 p.copies
    rw [hreads, hsame.readKeyed] at hreads'
    rw [hmem, hsame.writeKeyed] at hmem'
    exact ⟨_, hostAccess_of_path hp, hhost'.trans hhost, hmem', hreads'⟩

end Sys2Proof.Machine
end

section
/-! CLAIM. Saltin's mailbox commands, and the fabric manager's (R394, R402, R428, R429, R431, R434, R435, R437, R445). -/

namespace Sys2Proof.Machine

/-! ### The mailbox (R428) -/

theorem statWord_toNat {st result : Nat} (hst : st < 256) (hresult : result < 2 ^ 48) :
    (statWord false st result).toNat = st * 2 ^ 48 + result := by
  have hword : statWord false st result = BitVec.ofNat 64 (0 + st % 256 * 2 ^ 48 + result % 2 ^ 48) := rfl
  rw [hword, BitVec.toNat_ofNat]
  omega

section
variable {s : State} {fn : Nat}

/-- A command that has ended: its status stands in SSTAT, and the next one is first in line. -/
theorem finishMail_ends (s : State) (fn : Nat) (st : MailStatus) {result : Nat} (h : result < 2 ^ 48) :
    (mailbox (finishMail s fn st result) fn).sstat.toNat = st.value * 2 ^ 48 + result ∧
      (finishMail s fn st result).saltin.pending = s.saltin.pending.drop 1 := by
  have hbox : mailbox (finishMail s fn st result) fn = { mailbox s fn with sstat := statWord false st.value result } :=
    Table.getD_put_self ..
  rw [hbox]
  exact ⟨statWord_toNat (by cases st <;> decide) h, rfl⟩

theorem finishMail_leaves (s : State) (fn : Nat) (st : MailStatus) (result : Nat) :
    (finishMail s fn st result).keys = s.keys ∧ (finishMail s fn st result).regs = s.regs ∧
      (finishMail s fn st result).saltin.seq = s.saltin.seq ∧ (finishMail s fn st result).links = s.links ∧
      (finishMail s fn st result).cores = s.cores ∧
      (mailbox (finishMail s fn st result) fn).buffer = (mailbox s fn).buffer := by
  have hbox : mailbox (finishMail s fn st result) fn = { mailbox s fn with sstat := statWord false st.value result } :=
    Table.getD_put_self ..
  rw [hbox]
  exact ⟨rfl, rfl, rfl, rfl, rfl, rfl⟩

theorem mailRuns_of {code : Nat} (hfirst : s.saltin.pending.head? = some fn) (hcode : field (mailbox s fn).scmd 63 56 = code)
    (hscrub : s.saltin.scrubbing = none) (hbusy : s.service.busy ≠ some firmwareUnit) : mailRuns s fn code = true := by
  simp [mailRuns, hfirst, hcode, hscrub, hbusy]

theorem ownerMail_of_other {code : Nat} {f : State → State} (h : mailRuns s fn code = true) (hfn : fn ≠ 0) :
    ownerMail s fn code f = finishMail s fn .denied 0 := by
  simp [ownerMail, h, hfn]

theorem ownerMail_of_owner {code : Nat} {f : State → State} (h : mailRuns s fn code = true) (hfn : fn = 0) :
    ownerMail s fn code f = f s := by
  rw [ownerMail, h, if_neg (by decide), if_neg (not_not.2 hfn)]

/-- Which command of the owner an event is. -/
theorem exec_of_ownerMail {i : Instr} {code : Nat} (hi : i = .keyload fn ∧ code = 1 ∨ i = .keyfree fn ∧ code = 2 ∨ i = .scrub fn ∧ code = 3 ∨
    i = .svnadvance fn ∧ code = 5 ∨ i = .fmenrol fn ∧ code = 6) (s : State) : ∃ f, exec i s = .next (ownerMail s fn code f) := by
  obtain ⟨rfl, rfl⟩ | ⟨rfl, rfl⟩ | ⟨rfl, rfl⟩ | ⟨rfl, rfl⟩ | ⟨rfl, rfl⟩ := hi <;> exact ⟨_, rfl⟩

/-! ### Keys (R429) -/

theorem freeFrom_lt {α : Type} {t : Table α} : ∀ {fuel n k : Nat}, Table.freeFrom t fuel n = some k → k < n + fuel
  | 0, n, k, h => by cases h
  | fuel + 1, n, k, h => by
    unfold Table.freeFrom at h
    split at h
    · cases h
      omega
    · have := freeFrom_lt h
      omega

theorem keyload_loads {pair : List Byte} {slot : Nat} (hruns : mailRuns s fn 1 = true) (hfn : fn = 0)
    (hpair : unwrapBlob (mailBytes s 0 0 528) 1 64 = some pair) (hslot : Table.freeFrom s.keys 1023 1 = some slot) :
    exec (.keyload fn) s = .next (finishMail { s with keys := Table.put s.keys slot (loadedKey pair) } fn .done slot) := by
  refine congrArg Host.Outcome.next ((ownerMail_of_owner hruns hfn).trans ?_)
  rw [hfn, hpair]
  dsimp only
  rw [hslot]

theorem keyfree_frees (hruns : mailRuns s fn 2 = true) (hfn : fn = 0) (hmin : 1 ≤ mailNat s 0 0 2) (hmax : mailNat s 0 0 2 < 1024)
    (hunused : ∀ p ∈ s.regs.wkey, p.2.toNat % 1024 ≠ mailNat s 0 0 2) :
    exec (.keyfree fn) s = .next (finishMail { s with keys := Table.del s.keys (mailNat s 0 0 2) } fn .done 0) := by
  refine congrArg Host.Outcome.next ((ownerMail_of_owner hruns hfn).trans ?_)
  dsimp only
  rw [hfn, if_neg (by omega), if_neg]
  refine Bool.eq_false_iff.1 (List.any_eq_false.2 fun p hp => ?_)
  have hslot : wfield p.2 9 0 = p.2.toNat % 1024 := by simp [wfield]
  rw [hslot]
  simpa using hunused p hp

/-! ### Scrubbing (R434, R435) -/

/-- What SCRUB leaves of the package. -/
theorem scrub_wipes (s : State) (fn : Nat) : ∃ x, (scrub s fn).saltin.scrubbing = some x ∧ x.fn = fn ∧ (scrub s fn).launches = [] ∧
    (scrub s fn).gangs = [] ∧ (scrub s fn).inflight = [] ∧ (scrub s fn).counters = [] ∧ (scrub s fn).keys.map Prod.fst = [0] ∧
    (scrub s fn).saltin.fmKey = none ∧ (scrub s fn).saltin.numbered = false ∧ (∀ d ∈ (scrub s fn).dies, d.weights = []) ∧
    ((Table.getD (mailbox s fn).buffer 32 0).getLsbD 0 = true → (scrub s fn).mem = []) := by
  unfold scrub
  dsimp only
  generalize ((cancelAll (observeEnds s)).standing ++ _ ++ _).foldl _ _ = u
  refine ⟨_, rfl, rfl, ?_⟩
  have hdies : ∀ d ∈ (drawOwnerKey (wipeStorage u)).dies, d.weights = [] := by
    intro d hd
    obtain ⟨d', -, rfl⟩ := List.mem_map.1 hd
    rfl
  split
  · exact ⟨rfl, rfl, rfl, rfl, rfl, rfl, rfl, hdies, fun _ => rfl⟩
  · next hflag => exact ⟨rfl, rfl, rfl, rfl, rfl, rfl, rfl, hdies, fun h => absurd h hflag⟩

end

/-! ### Readback (R437, R445) -/

theorem drawBytes_length (n : Nat) (cs : List ReadCell) : (drawBytes n cs).1.length = cs.length := by
  induction cs generalizing n with
  | nil => rfl
  | cons c cs ih =>
    unfold drawBytes
    cases c.value <;> simp [ih]

/-- A cell with a value is read as that value. -/
theorem drawBytes_value {cs : List ReadCell} {k : Nat} {c : ReadCell} {x : Byte} (hc : cs[k]? = some c) (hx : c.value = some x)
    (n : Nat) : (drawBytes n cs).1[k]? = some x := by
  induction cs generalizing n k with
  | nil => cases hc
  | cons b cs ih =>
    unfold drawBytes
    cases k with
    | zero =>
      cases hc
      simp [hx]
    | succ k =>
      replace hc : cs[k]? = some c := by simpa using hc
      cases b.value <;> simpa using ih hc _

/-- Bytes put at the start of a buffer. -/
theorem putBuffer_reads (m : Mailbox) (bs : List Byte) {k : Nat} {x : Byte} (hk : k < 4096) (hx : bs[k]? = some x) :
    Table.getD (putBuffer m 0 bs).buffer k 0 = x := by
  suffices h : ∀ (ps : List (Byte × Nat)) (t : Table Byte), ((x, k) ∈ ps ∨ Table.getD t k 0 = x) → (∀ p ∈ ps, p.2 = k → p.1 = x) →
      Table.getD (ps.foldl (fun t p => if 0 + p.2 < 4096 then Table.put t (0 + p.2) p.1 else t) t) k 0 = x by
    refine h _ _ (.inl ?_) fun p hp hpk => ?_
    · refine List.mem_iff_getElem?.2 ⟨k, ?_⟩
      have hlt : k < bs.length := (List.getElem?_eq_some_iff.1 hx).1
      rw [List.getElem?_zip_eq_some]
      exact ⟨hx, List.getElem?_range hlt⟩
    · obtain ⟨i, hi⟩ := List.mem_iff_getElem?.1 hp
      obtain ⟨hb, hr⟩ := List.getElem?_zip_eq_some.1 hi
      obtain ⟨hlt, hri⟩ := List.getElem?_eq_some_iff.1 hr
      rw [List.getElem_range] at hri
      rw [hri, hpk, hx] at hb
      exact (Option.some.inj hb).symm
  intro ps
  induction ps with
  | nil => exact fun t h _ => h.resolve_left List.not_mem_nil
  | cons p ps ih =>
    intro t h hall
    refine ih _ ?_ fun q hq => hall q (List.mem_cons_of_mem _ hq)
    by_cases hpk : p.2 = k
    · refine .inr ?_
      dsimp only
      rw [hpk, Nat.zero_add, if_pos hk, Table.getD_put_self]
      exact hall p List.mem_cons_self hpk
    · refine h.imp (fun hmem => ?_) fun ht => ?_
      · rcases List.mem_cons.1 hmem with rfl | hmem
        · exact absurd rfl hpk
        · exact hmem
      · dsimp only
        split
        · rw [Nat.zero_add, Table.getD_put_ne _ _ _ (Ne.symm hpk)]
          exact ht
        · exact ht

section
variable {s : State} {fn : Nat}

theorem readback_refuses (hruns : mailRuns s fn 4 = true) (h : 4096 < mailNat s fn 8 4) :
    exec (.readback fn) s = .next (finishMail s fn .badRequest 0) := by
  refine congrArg Host.Outcome.next ((if_neg ?_).trans (if_pos h))
  rw [hruns]
  decide

/-- The owner's readback of elements that there are. -/
theorem readback_reads {cs : List ReadCell} (hruns : mailRuns s fn 4 = true) (hfn : fn = 0) (hlen : mailNat s fn 8 4 ≤ 4096)
    (hcells : allSome ((List.range (mailNat s fn 8 4)).map fun i => readCell s (mailNat s fn 0 8 + i)) = some cs) :
    exec (.readback fn) s = .next (finishMail (putMail { s with saltin := { s.saltin with draws := (drawBytes s.saltin.draws cs).2 } } fn 0
      (drawBytes s.saltin.draws cs).1) fn .done 0) := by
  refine congrArg Host.Outcome.next ((if_neg ?_).trans ?_)
  · rw [hruns]
    decide
  · dsimp only
    rw [if_neg (Nat.not_lt.2 hlen), hcells]
    dsimp only
    rw [if_pos]
    refine List.all_eq_true.2 fun c _ => ?_
    rw [hfn]
    rfl

theorem putMail_buffer (s : State) (fn off : Nat) (bs : List Byte) :
    (mailbox (putMail s fn off bs) fn).buffer = (putBuffer (mailbox s fn) off bs).buffer :=
  congrArg Mailbox.buffer (Table.getD_put_self ..)

/-! ### The fabric manager's requests (R394) -/

/-- A request for an operation, first in line, of a form that is looked at further. -/
theorem fmCommand_of_request {op : Nat} {f : State → FmResult} (hruns : mailRuns s 0 7 = true)
    (hmagic : mailBytes s 0 0 4 = [0x4F, 0x5A, 0x39, 0x46]) (hop : mailNat s 0 4 2 = op) (hrange : 1 ≤ op ∧ op ≤ 6) :
    (requestOk s 0 op = false → fmCommand s 0 op f = finishMail s 0 .denied 0) ∧
    (requestOk s 0 op = true → zerosOk s 0 op = false → fmCommand s 0 op f = finishMail s 0 .badRequest 0) ∧
    (requestOk s 0 op = true → zerosOk s 0 op = true →
      (∀ u, f s = .did u → fmCommand s 0 op f = finishMail { u with saltin := { u.saltin with seq := mailNat s 0 8 8 } } 0 .done 0) ∧
      (f s = .bad → fmCommand s 0 op f = finishMail s 0 .badRequest 0)) := by
  obtain ⟨hmin, hmax⟩ := hrange
  have hbad : (mailBytes s 0 0 4 != magicF || mailNat s 0 4 2 == 0 || decide (6 < mailNat s 0 4 2)) = false := by
    rw [hmagic, hop]
    have hne : op ≠ 0 := by omega
    have hle : ¬ 6 < op := by omega
    simp [magicF, hne, hle]
  refine ⟨fun hok => ?_, fun hok hzeros => ?_, fun hok hzeros => ⟨fun u hu => ?_, fun hf => ?_⟩⟩
  all_goals
    unfold fmCommand
    rw [hbad, hruns, hop, hok]
  · simp
  · simp [hzeros]
  · simp [hzeros, hu]
  · simp [hzeros, hf]

/-- Which request of the fabric manager an event is. -/
theorem exec_of_fmCommand {i : Instr} {op : Nat} {f : State → Nat → FmResult}
    (hi : i = .phasemap 0 ∧ op = 1 ∧ f = setPhase ∨ i = .incarnation 0 ∧ op = 2 ∧ f = setIncarnation ∨
      i = .inctab 0 ∧ op = 3 ∧ f = setPeers ∨ i = .icred 0 ∧ op = 4 ∧ f = setIcred ∨ i = .linkkey 0 ∧ op = 5 ∧ f = loadLinkKey ∨
      i = .linkstat 0 ∧ op = 6 ∧ f = linkStatus) (s : State) :
    exec i s = .next (fmCommand s 0 op fun s => f s 0) ∧ 1 ≤ op ∧ op ≤ 6 := by
  obtain ⟨rfl, rfl, rfl⟩ | ⟨rfl, rfl, rfl⟩ | ⟨rfl, rfl, rfl⟩ | ⟨rfl, rfl, rfl⟩ | ⟨rfl, rfl, rfl⟩ | ⟨rfl, rfl, rfl⟩ := hi <;>
    exact ⟨rfl, by decide, by decide⟩

theorem natOfBytes_byte (b : Byte) : natOfBytes [b] < 256 := by
  have := b.isLt
  simp only [natOfBytes]
  omega

theorem mailNat_byte (s : State) (fn off : Nat) : mailNat s fn off 1 < 256 := natOfBytes_byte _

theorem setPhase_sets (hmap : mailNat s 0 24 16 < 2 ^ 72) (hgate : mailNat s 0 40 2 = 0xFFFF) :
    ∃ u, setPhase s 0 = .did u ∧ u.regs.phaseMap.toNat = mailNat s 0 24 16 ||| 2 ^ (s.regs.number / 64) % 2 ^ 128 := by
  unfold setPhase
  rw [hgate]
  dsimp only
  rw [if_neg (by omega), if_pos rfl]
  refine ⟨_, rfl, ?_⟩
  dsimp only
  rw [BitVec.toNat_or, BitVec.toNat_ofNat, BitVec.toNat_ofNat, Nat.mod_eq_of_lt (a := mailNat s 0 24 16) (by omega)]

theorem setIncarnation_sets (hn : mailNat s 0 26 2 < 4608) :
    ∃ u, setIncarnation s 0 = .did u ∧ u.regs.incarnation.toNat = mailNat s 0 24 1 ∧ u.regs.number = mailNat s 0 26 2 ∧
      u.saltin.numbered = true ∧ u.regs.phaseMap = s.regs.phaseMap ||| BitVec.ofNat 128 (2 ^ (mailNat s 0 26 2 / 64)) ∧
      u.sent.all (fun x => 8192 ≤ x.1 / 1024) = true := by
  refine ⟨_, if_neg (Nat.not_le.2 hn), ?_, rfl, rfl, rfl, ?_⟩
  · exact (BitVec.toNat_ofNat ..).trans (Nat.mod_eq_of_lt (mailNat_byte ..))
  · refine List.all_eq_true.2 fun x hx => ?_
    have hkept : x ∈ s.sent.filter fun x => !decide (x.1 / 1024 < 8192) := hx
    simpa using (List.mem_filter.1 hkept).2

end

/-- Settles O58: each mailbox command that runs, the scrub's end, and the fabric manager's requests with what they set. -/
theorem saltinCommands : Obligations.SaltinCommands := by
  refine ⟨fun s fn => ?_, fun s x hx => ?_, fun i op s f hi hfirst hcode hscrub hbusy hmagic hop => ?_, fun s => ?_⟩
  · intro ended runs
    have hruns {code : Nat} (h : runs code) : mailRuns s fn code = true := mailRuns_of h.1 h.2.1 h.2.2.1 h.2.2.2
    have hends (u : State) (hu : u.saltin.pending = s.saltin.pending) (st : MailStatus) {result : Nat} (h : result < 2 ^ 48) :
        ended (finishMail u fn st result) st.value result := by
      obtain ⟨hstat, hpending⟩ := finishMail_ends u fn st h
      exact ⟨hstat, hpending.trans (by rw [hu])⟩
    refine ⟨fun i code hi hr hfn => ?_, fun hr hfn pair slot hpair hslot => ?_, fun hr hfn hmin hmax hunused => ?_, fun hr hfn => ?_,
      fun hr hlen => ?_, fun hr hfn cs hlen hcells => ?_, fun hr hfn hmin hmax hsvn => ?_, fun hr hfn => ?_⟩
    · obtain ⟨f, hexec⟩ := exec_of_ownerMail hi s
      obtain ⟨hkeys, hregs, -⟩ := finishMail_leaves s fn .denied 0
      exact ⟨_, hexec.trans (congrArg _ (ownerMail_of_other (hruns hr) hfn)), hends s rfl .denied (by decide), hkeys, hregs⟩
    · have hlt := freeFrom_lt hslot
      exact ⟨_, keyload_loads (hruns hr) hfn hpair hslot, hends _ (by rfl) .done (by omega), (finishMail_leaves ..).1⟩
    · refine ⟨_, keyfree_frees (hruns hr) hfn hmin hmax hunused, hends _ (by rfl) .done (by decide), ?_⟩
      rw [(finishMail_leaves ..).1]
      exact Table.get_del_self ..
    · obtain ⟨x, hx⟩ := scrub_wipes s fn
      exact ⟨_, x, congrArg Host.Outcome.next (ownerMail_of_owner (hruns hr) hfn), hx⟩
    · exact ⟨_, readback_refuses (hruns hr) hlen, hends s rfl .badRequest (by decide)⟩
    · refine ⟨_, readback_reads (hruns hr) hfn hlen hcells, hends _ (by rfl) .done (by decide), fun k c x hk hc hx => ?_⟩
      obtain ⟨-, -, -, -, -, hbuffer⟩ := finishMail_leaves
        (putMail { s with saltin := { s.saltin with draws := (drawBytes s.saltin.draws cs).2 } } fn 0 (drawBytes s.saltin.draws cs).1)
        fn .done 0
      rw [hbuffer, putMail_buffer]
      exact putBuffer_reads _ _ hk (drawBytes_value hc hx _)
    · have hexec : exec (.svnadvance fn) s = .next (finishMail { s with saltin := { s.saltin with minSvn := mailNat s 0 0 2 } } fn .done 0) := by
        refine congrArg Host.Outcome.next ((ownerMail_of_owner (hruns hr) hfn).trans ?_)
        dsimp only
        rw [hfn, if_neg (by omega)]
      exact ⟨_, hexec, hends _ (by rfl) .done (by decide), rfl⟩
    · have hexec : exec (.fmenrol fn) s = .next (finishMail { s with saltin := { s.saltin with
          fmKey := some (Config.sha512 (mailBytes s 0 0 1024)), fmFullKey := mailBytes s 0 0 1024, seq := 0 } } fn .done 0) := by
        refine congrArg Host.Outcome.next ((ownerMail_of_owner (hruns hr) hfn).trans ?_)
        rw [hfn]
      exact ⟨_, hexec, hends _ (by rfl) .done (by decide), rfl, rfl⟩
  · obtain ⟨hstat, -⟩ := finishMail_ends (putMail { s with saltin := { s.saltin with scrubbing := none, scrubs := satUp s.saltin.scrubs } } x.fn 0
      (scrubRecord s x ++ fitBytes 512 (Config.identitySign (scrubRecord s x)))) x.fn .done (show 0 < 2 ^ 48 by decide)
    have hexec : exec .scrubComplete s = .next (finishMail (putMail { s with saltin := { s.saltin with
        scrubbing := none, scrubs := satUp s.saltin.scrubs } } x.fn 0
          (scrubRecord s x ++ fitBytes 512 (Config.identitySign (scrubRecord s x)))) x.fn .done 0) := by
      have hunfold : exec .scrubComplete s = execScrubComplete s := rfl
      rw [hunfold, execScrubComplete, hx]
      rfl
    exact ⟨_, hexec, rfl, BitVec.eq_of_toNat_eq hstat, satUp_of_lt⟩
  · obtain ⟨hexec, hrange⟩ := exec_of_fmCommand hi s
    rw [hexec]
    obtain ⟨hdenied, hzeros, hdone⟩ := fmCommand_of_request (f := fun s => f s 0) (mailRuns_of hfirst hcode hscrub hbusy) hmagic hop hrange
    refine ⟨fun hok => ?_, fun hok hz => ?_, fun u hok hz hu => ?_, fun hok hz hf => ?_⟩
    · obtain ⟨hstat, -⟩ := finishMail_ends s 0 .denied (show 0 < 2 ^ 48 by decide)
      obtain ⟨-, hregs, hseq, -⟩ := finishMail_leaves s 0 .denied 0
      exact ⟨_, congrArg _ (hdenied hok), hstat, hregs, hseq⟩
    · obtain ⟨hstat, -⟩ := finishMail_ends s 0 .badRequest (show 0 < 2 ^ 48 by decide)
      obtain ⟨-, hregs, hseq, -⟩ := finishMail_leaves s 0 .badRequest 0
      exact ⟨_, congrArg _ (hzeros hok hz), hstat, hregs, hseq⟩
    · obtain ⟨hstat, -⟩ := finishMail_ends { u with saltin := { u.saltin with seq := mailNat s 0 8 8 } } 0 .done (show 0 < 2 ^ 48 by decide)
      obtain ⟨-, hregs, hseq, hlinks, hcores, -⟩ := finishMail_leaves { u with saltin := { u.saltin with seq := mailNat s 0 8 8 } } 0 .done 0
      exact ⟨_, congrArg _ ((hdone hok hz).1 u hu), hseq, BitVec.eq_of_toNat_eq hstat, hregs, hlinks, hcores⟩
    · obtain ⟨hstat, -⟩ := finishMail_ends s 0 .badRequest (show 0 < 2 ^ 48 by decide)
      exact ⟨_, congrArg _ ((hdone hok hz).2 hf), hstat, (finishMail_leaves ..).2.1⟩
  · refine ⟨setPhase_sets, ?_, ?_, ?_, ?_, ?_, ?_⟩
    · exact setIncarnation_sets
    · exact fun hv => ⟨_, if_neg hv, rfl, rfl⟩
    · exact fun hv => if_pos hv
    · intro hn
      rw [setIncarnation]
      exact if_pos hn
    · intro hplane
      rw [loadLinkKey]
      exact if_pos (.inl hplane)
    · intro hn
      rw [setPeers]
      exact if_pos (.inl hn)

end Sys2Proof.Machine
end

section
/-! CLAIM. The fabric's events: packets at their target, what comes back to the source, grants, scale-out windows and links (R381, R385,
R386, R387, R388, R389, R390, R391, R396, R397, R406). -/

namespace Sys2Proof.Machine

/-! ### Packets at their target (R381, R385) -/

section
variable {s : State} {p : Packet}

/-- A request of the sequences arrives for this package. -/
theorem packetArrival_orders (htarget : p.target = s.regs.number)
    (hkind : p.kind = .load ∨ p.kind = .store ∨ p.kind = .copyRead ∨ p.kind = .copyWrite) :
    exec (.packetArrival p) s = .next (arriveOrdered s p) := by
  have hexec : exec (.packetArrival p) s = execPacketArrival p s := rfl
  rw [hexec, execPacketArrival, if_neg (not_not.2 htarget)]
  rcases hkind with h | h | h | h <;> rw [h]

theorem packetArrival_passes (htarget : p.target ≠ s.regs.number) : exec (.packetArrival p) s = .next s :=
  congrArg Host.Outcome.next (if_pos htarget)

theorem arriveOrdered_of_stale (hnew : p ∉ s.standing) (hinc : incarnate s p = false) : arriveOrdered s p = refusePacket s p resetInfo := by
  rw [arriveOrdered, if_neg (by simpa using hnew), if_pos (by rw [hinc]; rfl)]

theorem arriveOrdered_of_incarnate (hnew : p ∉ s.standing) (hinc : incarnate s p = true) : arriveOrdered s p =
    let u := releaseHeld (s.heldPackets.length + 1) { s with heldPackets := s.heldPackets ++ [p] }
    settleStanding (u.standing.length + 1) u := by
  rw [arriveOrdered, if_neg (by simpa using hnew), if_neg (by rw [hinc]; exact Bool.noConfusion)]

/-- What a renewal or a store at a line's home by the fabric leaves of the state: main memory, and the packets that have left. -/
structure LeavesPackets (s t : State) : Prop where
  mem : t.mem = s.mem
  outbox : t.outbox = s.outbox

theorem LeavesPackets.trans {s t u : State} (h : LeavesPackets s t) (k : LeavesPackets t u) : LeavesPackets s u :=
  ⟨k.mem.trans h.mem, k.outbox.trans h.outbox⟩

theorem LeavesPackets.foldl {f : State → Nat → State} (h : ∀ s n, LeavesPackets s (f s n)) : ∀ (ns : List Nat) (s : State),
    LeavesPackets s (ns.foldl f s)
  | [], _ => ⟨rfl, rfl⟩
  | n :: ns, s => (h s n).trans (LeavesPackets.foldl h ns (f s n))

theorem makeRoom_outbox (s : State) (line : Nat) : (makeRoom s line).outbox = s.outbox := by
  unfold makeRoom
  split
  · rfl
  · dsimp only
    split
    · rfl
    · split
      · unfold evictLine
        split <;> rfl
      · rfl

theorem leavesPackets_renewLine (s : State) (line : Nat) : LeavesPackets s (renewLine s .fabric line).1 :=
  ⟨(Kept.renewLine s .fabric line).mem, makeRoom_outbox s line⟩

theorem leavesPackets_stampStore (s : State) (line : Nat) (whole : List Nat) : LeavesPackets s (stampStore s .fabric line whole) :=
  ⟨(Kept.stampStore s .fabric line whole).mem, makeRoom_outbox s line⟩

variable {pa key n : Nat}

/-- A store that main memory takes (R364). -/
theorem arriveMain_stores (hkind : p.kind = .store) (hserves : ((linesOf pa n).findSome? fun l => lineHold s l false) = none) :
    ∃ t, arriveMain s p pa key n = .done t [] ∧ t.mem = (writeKeyed s key pa (fitBytes n p.payload)).mem ∧ t.outbox = s.outbox := by
  have hwritten : LeavesPackets (writeKeyed s key pa (fitBytes n p.payload)) ((linesOf pa n).foldl
      (fun s l => stampStore s .fabric l (wholeSectors pa n l)) (writeKeyed s key pa (fitBytes n p.payload))) :=
    LeavesPackets.foldl (fun s l => leavesPackets_stampStore ..) (linesOf pa n) _
  obtain ⟨m, k, hrekeyed⟩ := rekeyed_writeKeyed s key pa (fitBytes n p.payload)
  refine ⟨_, ?_, hwritten.mem, hwritten.outbox.trans (by rw [hrekeyed])⟩
  have hcopy : (PacketKind.store == PacketKind.copyWrite) = false := by decide
  simp only [arriveMain, hkind, hcopy, hserves]

/-- A load that main memory answers (R364). -/
theorem arriveMain_loads (hkind : p.kind = .load) (hserves : ((linesOf pa n).findSome? fun l => lineHold s l false) = none) :
    ∃ t, arriveMain s p pa key n = .done t (readKeyed s key pa n) ∧ t.mem = s.mem ∧ t.outbox = s.outbox := by
  obtain ⟨hmem, houtbox⟩ := LeavesPackets.foldl leavesPackets_renewLine (linesOf pa n) s
  refine ⟨_, ?_, hmem, houtbox⟩
  have hcopy : (PacketKind.load == PacketKind.copyWrite) = false := by decide
  simp only [arriveMain, hkind, hcopy, hserves]

theorem arriveAt_main {cache rem : Bool} (hpart : p.part = 0) (hsize : p.size ≤ 256) :
    arriveAt s p (.main pa key cache rem) = arriveMain s p pa key p.size := by
  have hspan : Packet.span p = (0, p.size) := by rw [Packet.span, hpart, Nat.mul_zero, Nat.sub_zero, Nat.min_eq_right hsize]
  rw [arriveAt, hspan]
  rfl

/-- A load or store that passes F and its place answers is taken. -/
theorem takePacket_of_done {path : Path} {t : State} {bs : List Byte} (hkind : p.kind = .store ∨ p.kind = .load)
    (hfree : isBlocked s p = false) (hwalk : walkF s p = .ok path)
    (hdone : arriveAt (keepCopies s 0 path.copies) p path.dest = .done t bs) :
    takePacket s p = (finishPacket t p bs, true) := by
  rcases hkind with h | h <;> simp only [takePacket, h, hfree, countedLost, hwalk, hdone, flagTaken, Bool.false_eq_true, if_false]

theorem answer_answers (t : State) (p : Packet) (x : PacketKind) (bs : List Byte) : ∃ k g, (answer t p x bs).outbox = t.outbox ++ [k, g] ∧
    k.kind = x ∧ k.target = p.source ∧ k.access = p.access ∧ k.payload = bs ∧
    g.kind = .grant ∧ g.target = p.source ∧ g.payCore = p.payCore ∧ g.payEntry = p.payEntry :=
  ⟨answerOf t p x bs, grantOf t p, rfl, rfl, rfl, rfl, rfl, rfl, rfl, rfl, rfl⟩

end

/-! ### Entries with nobody waiting (R405) -/

/-- Nobody waits on an entry of a core. -/
def NobodyWaits (k : Core) : Prop := ∀ e ∈ k.allow, e.2.waiters = []

section
variable {s : State}

theorem NobodyWaits.allowAt {k : Core} (h : NobodyWaits k) (e : Nat) : (allowAt k e).waiters = [] := by
  unfold Machine.allowAt Table.getD
  cases he : Table.get k.allow e with
  | none => rfl
  | some a => exact h _ (Table.mem_of_get he)

theorem serve_of_nobody {c e : Nat} (h : (allowAt (core s c) e).waiters = []) : serve s c e = s := by
  rw [serve, serveEntry, h]
  split <;> rfl

theorem nobodyWaits_idle (t : DWord) : NobodyWaits (Core.idle.tickCt t) := by
  intro e he
  have hallow : (Core.idle.tickCt t).allow = [(31, Allowance.shared 32)] := rfl
  rw [hallow, List.mem_singleton] at he
  rw [he]
  rfl

theorem serveAll_of_nobody (h : EveryCore NobodyWaits s) : serveAll s = s := by
  have hserve (c e : Nat) : serve s c e = s := serve_of_nobody ((h.core nobodyWaits_idle c).allowAt e)
  exact List.foldl_fixed' (fun p => List.foldl_fixed' (f := fun s e => serve s p.1 e.1) (fun e => hserve p.1 e.1) p.2.allow) s.cores

theorem countIn_cores {a : Access} (h : EveryCore NobodyWaits s) : EveryCore NobodyWaits (countIn s a) := by
  have hregs : EveryCore NobodyWaits { s with regs := { s.regs with fabOut := s.regs.fabOut - 1 } } := h
  unfold countIn
  dsimp only
  split
  · exact hregs
  · exact hregs.modCore a.core (hregs.core nobodyWaits_idle a.core)

theorem findTeam_countIn (s : State) (a : Access) (l g n : Nat) : findTeam (countIn s a) l g n = findTeam s l g n := by
  unfold countIn
  dsimp only
  split
  · rfl
  · exact findTeam_congr (s := s) (t := modCore { s with regs := { s.regs with fabOut := s.regs.fabOut - 1 } } a.core _) rfl
      (fun k => ⟨modCore_keeps Core.active (by exact fun _ => rfl) _ a.core k,
        modCore_keeps Core.outgoing (by exact fun _ => rfl) _ a.core k, modCore_keeps Core.shadow (by exact fun _ => rfl) _ a.core k⟩) l g n

/-- An access leaves the counts; its core's only where its team is not in the save pool. -/
theorem countIn_counts (s : State) (a : Access) : (countIn s a).inflight = s.inflight ∧ (countIn s a).regs.fabOut = s.regs.fabOut - 1 ∧
    (countIn s a).mem = s.mem ∧ (countIn s a).hostMem = s.hostMem ∧ (countIn s a).late = s.late ∧
    (teamSaved s a.who = false → (core (countIn s a) a.core).outstanding = (core s a.core).outstanding - 1) := by
  have hsame : teamSaved { s with regs := { s.regs with fabOut := s.regs.fabOut - 1 } } a.who = teamSaved s a.who := rfl
  unfold countIn
  dsimp only
  rw [hsame]
  split
  · next h => exact ⟨rfl, rfl, rfl, rfl, rfl, fun hnot => absurd (h.symm.trans hnot) Bool.noConfusion⟩
  · exact ⟨rfl, rfl, rfl, rfl, rfl, fun _ => congrArg Core.outstanding (core_putCore_self ..)⟩

/-- A fabric access ends where nobody waits. -/
theorem endFabric_counts {a : Access} (hnobody : EveryCore NobodyWaits s) (hplace : ∃ t lab h b, a.place = .fabric t lab h b) :
    endFabric s a = countIn (dropAccess s a.n) a := by
  obtain ⟨t, lab, h, b, hp⟩ := hplace
  have hdropped : EveryCore NobodyWaits (dropAccess s a.n) := hnobody
  rw [endFabric, hp]
  exact serveAll_of_nobody (countIn_cores hdropped)

/-! ### Held stores (R387) -/

theorem teamAt_of_findTeam {l g n : Nat} {t : TeamId} {tm : Team} (h : findTeam s l g n = some (.active t, tm)) : teamAt s t = some tm := by
  have hbank {k : Core} {x : TeamId} (hx : k.findTeam x l g n = some (.active t, tm)) : x = t ∧ Table.get k.active.teams t.slot = some tm := by
    unfold Core.findTeam at hx
    split at hx
    · cases hx
      obtain ⟨⟨k, hk, hget⟩, -⟩ := bankTeam_eq_some.1 ‹_›
      cases hk
      exact ⟨rfl, hget⟩
    · split at hx
      · cases hx
      · obtain ⟨y, -, hy⟩ := Option.map_eq_some_iff.1 hx
        cases hy
  cases hgang : gangOf s l g with
  | none => rw [findTeam, hgang] at h; cases h
  | some gang =>
    cases hsaved : gang.saved.find? fun v => v.team.is l g n with
    | some v => cases h.symm.trans (findTeam_of_saved hgang hsaved)
    | none =>
      rw [findTeam_of_not_saved hgang hsaved] at h
      obtain ⟨x, -, hx⟩ := Option.bind_eq_some_iff.1 h
      obtain ⟨rfl, hteam⟩ := hbank hx
      exact hteam

theorem foldl_fixed_mem {α β : Type} {f : α → β → α} {a : α} : ∀ {bs : List β}, (∀ b ∈ bs, f a b = a) → bs.foldl f a = a
  | [], _ => rfl
  | b :: bs, h => by rw [List.foldl_cons, h b List.mem_cons_self, foldl_fixed_mem fun x hx => h x (List.mem_cons_of_mem _ hx)]

theorem resumeTeam_of_none_held {t : TeamId} {tm : Team} (hteam : teamAt s t = some tm) (hheld : ∀ x ∈ tm.members, x.2.held = []) :
    resumeTeam s t = s := by
  have hresend : resendTeam s t = s := by
    rw [resendTeam, hteam]
    dsimp only
    split
    · rfl
    · refine foldl_fixed_mem fun x hx => ?_
      rw [resendHeld]
      exact if_pos (.inl (hheld x hx))
  rw [resumeTeam, hteam]
  dsimp only
  rw [hresend, ite_self]

/-- With no store held, none is sent again. -/
theorem retryHeld_of_none_held {w : SliceName} (hlate : s.late = [])
    (hheld : ∀ q tm, findTeam s w.launch w.gang w.gteam = some (q, tm) → ∀ x ∈ tm.members, x.2.held = []) : retryHeld s w = s := by
  have hresume : resumeLate s w = s := by rw [resumeLate, lateOf, hlate]; rfl
  rw [retryHeld, hresume]
  split
  · next t tm hfind => exact resumeTeam_of_none_held (teamAt_of_findTeam hfind) (hheld _ _ hfind)
  · rfl
  · rfl
  · rfl
  · rfl

end

/-! ### What comes back to the source (R386, R387, R388) -/

section
variable {s : State} {n part : Nat} {a : Access} {x : PartSend}

theorem mem_of_send (h : a.send part = some x) : x ∈ a.sends ∧ x.part = part :=
  ⟨List.mem_of_find?_eq_some h, by simpa using List.find?_some h⟩

/-- An acknowledged store or message ends where nobody waits and no store is held (R388, R411). -/
theorem acknowledgement_ends (ha : accessOf s n = some a) (hkind : a.kind = .store ∨ ∃ h m, a.kind = .message h m)
    (hplace : ∃ t lab h b, a.place = .fabric t lab h b) (hnobody : EveryCore NobodyWaits s) (hlate : s.late = [])
    (hheld : ∀ q tm, findTeam s a.who.launch a.who.gang a.who.gteam = some (q, tm) → ∀ x ∈ tm.members, x.2.held = [])
    (hsend : a.send part = some x) :
    exec (.acknowledgement ⟨n, part⟩) s = .next (countIn (dropAccess s n) a) := by
  have hexec : exec (.acknowledgement ⟨n, part⟩) s = execAcknowledgement ⟨n, part⟩ s := rfl
  have hsent : (a.sends.any fun y => y.part == part) = true :=
    List.any_eq_true.2 ⟨x, (mem_of_send hsend).1, beq_iff_eq.2 (mem_of_send hsend).2⟩
  have hends : retryHeld (endFabric s a) a.who = countIn (dropAccess s n) a := by
    rw [endFabric_counts hnobody hplace, accessOf_number ha]
    refine retryHeld_of_none_held ((countIn_counts ..).2.2.2.2.1.trans hlate) fun q tm hfind => hheld q tm ?_
    rw [← hfind, findTeam_countIn]
    rfl
  rw [hexec, execAcknowledgement, ha]
  dsimp only
  rw [if_neg (by rw [hsent]; exact Bool.noConfusion), ← hends]
  rcases hkind with h | ⟨h, m, hk⟩
  · rw [h]
  · rw [hk]

/-- A refusal reaches an access that has been sent, and acts by what it brings (R386, R387, R397). -/
theorem refusal_acts (ha : accessOf s n = some a) (hsent : a.sent = true) :
    (∀ cause reason level seen, exec (.refusal n (.fault cause reason level seen)) s =
      .next (if faultSeen a cause reason level then refuseAccess s a (a.faultAtF cause reason level seen) else s)) ∧
    exec (.refusal n .blocked) s = .next (blockAccess s a) ∧
    exec (.refusal n .resend) s = .next (modAccess s n fun a => { a with asked := true }) := by
  have hexec (r : RefusalInfo) : exec (.refusal n r) s = execRefusal n r s := rfl
  refine ⟨fun cause reason level seen => ?_, ?_, ?_⟩ <;>
    simp only [hexec, execRefusal, ha, hsent, Bool.not_true, Bool.false_eq_true, if_false]

theorem blockAccess_of_store {tm : Team} {sl : Slice} (hkind : a.kind = .store) (hslice : namedSlice s a.who = some (tm, sl)) :
    blockAccess s a = retryHeld (modNamedSlice s a.who (Slice.hold a.heldStore)) a.who := by
  have hhold : holdStore s a = modNamedSlice s a.who (Slice.hold a.heldStore) := by rw [holdStore, hslice]
  rw [blockAccess, hkind]
  exact congrArg (retryHeld · a.who) hhold

theorem modAccess_eq (s : State) (n : Nat) (f : Access → Access) :
    modAccess s n f = { s with inflight := s.inflight.map fun x => if x.n = n then f x else x } := by
  simp only [modAccess, beq_iff_eq]

/-! ### Scale-out windows (R396, R397) -/

theorem nsPassed_iff (s : State) (t ns : Nat) : nsPassed s t ns = true ↔ 21 * ns ≤ 20 * (s.wall - t) := decide_eq_true_iff

theorem place_of_windowOf {ds : List DWord} (h : windowOf s a = some ds) : ∃ port m lab, a.place = .window port m lab := by
  unfold windowOf at h
  split at h
  · exact ⟨_, _, _, ‹_›⟩
  all_goals cases h

theorem packetOf_of_window (s : State) (hplace : ∃ port m lab, a.place = .window port m lab) (part : Nat) (seq : BitVec 16) :
    ∃ pk, packetOf s a part seq = some pk ∧ pk.part = part ∧ pk.seq = seq ∧ pk.access = a.n := by
  obtain ⟨port, m, lab, hp⟩ := hplace
  refine ⟨_, by rw [packetOf, hp], rfl, rfl, rfl⟩

/-- The part that an access notes is the one that it then finds. -/
theorem send_note (a : Access) (y : PartSend) : (a.note y).send y.part = some y := by
  have hother : ((a.sends.filter fun z => z.part != y.part).find? fun z => z.part == y.part) = none :=
    List.find?_eq_none.2 fun z hz => by simpa using (List.mem_filter.1 hz).2
  have hself : ((a.sends.filter fun z => z.part != y.part) ++ [y]).find? (fun z => z.part == y.part) = some y := by
    rw [List.find?_append, hother]
    simp
  exact hself

/-- A window's packet that has not been acknowledged is looked at again (R396, R397). -/
theorem scaleOutResend_of_unacked {ds : List DWord} (ha : accessOf s n = some a) (hwindow : windowOf s a = some ds)
    (hsend : a.send part = some x) (hacked : x.acked = false) : exec (.scaleOutResend ⟨n, part⟩) s = .next (
      if 21 * field (listGetD ds 2 0) 31 0 ≤ 20 * (s.wall - x.sentAt) then
        if x.resends < field (listGetD ds 2 0) 63 48 then resendPart s a x
        else if a.asked then refuseAccess s a (a.fault 0x20 13 3) else peerReset s a
      else s) := by
  have hexec : exec (.scaleOutResend ⟨n, part⟩) s = execScaleOutResend ⟨n, part⟩ s := rfl
  have hcause : Cause.labelMiss.value = 0x20 := rfl
  rw [hexec, execScaleOutResend, ha]
  simp only [hwindow, hsend, hacked, hcause, Bool.false_or]
  by_cases hpassed : nsPassed s x.sentAt (field (listGetD ds 2 0) 31 0) = true
  · rw [if_neg (by rw [hpassed]; exact Bool.noConfusion), if_pos ((nsPassed_iff ..).1 hpassed)]
  · rw [if_pos (by rw [Bool.not_eq_true] at hpassed; rw [hpassed]; rfl), if_neg (mt (nsPassed_iff ..).2 hpassed)]

/-- A packet sent again leaves alone, under its own number (R396). -/
theorem resendPart_resends (ha : accessOf s n = some a) (hplace : ∃ port m lab, a.place = .window port m lab)
    (hsend : a.send part = some x) : ∃ a' y pk, accessOf (resendPart s a x) n = some a' ∧ a'.send part = some y ∧
      y.resends = x.resends + 1 ∧ y.sentAt = s.wall ∧ y.seq = x.seq ∧ (resendPart s a x).outbox = s.outbox ++ [pk] ∧
      pk.part = part ∧ pk.seq = x.seq ∧ pk.access = n ∧ (resendPart s a x).mem = s.mem := by
  have hpart : x.part = part := (mem_of_send hsend).2
  have hn : a.n = n := accessOf_number ha
  subst hpart hn
  obtain ⟨pk, hpk, hpkpart, hpkseq, hpkn⟩ := packetOf_of_window s hplace x.part x.seq
  have hsent : accessOf { s with outbox := s.outbox ++ (packetOf s a x.part x.seq).toList } a.n = some a := ha
  refine ⟨_, _, pk, accessOf_modAccess hsent fun _ => rfl, send_note a { x with resends := x.resends + 1, sentAt := s.wall }, rfl, rfl, rfl,
    ?_, hpkpart, hpkseq, hpkn, rfl⟩
  rw [resendPart, hpk]
  rfl

/-- A held access of a paged window with HOLD ends once HOLDMS has passed (R397). -/
theorem holdExpiry_ends {ds : List DWord} (ha : accessOf s n = some a) (hwindow : windowOf s a = some ds) (hsend : a.send part = some x)
    (hacked : x.acked = false) (hpaged : (listGetD ds 0 0).getLsbD 62 = true) (hhold : (listGetD ds 0 0).getLsbD 61 = true)
    (hpassed : 21 * (1000000 * field (listGetD ds 2 0) 47 32) ≤ 20 * (s.wall - x.first)) :
    exec (.holdExpiry n) s = .next (refuseAccess s a (a.fault 0x20 13 3)) := by
  have hexec : exec (.holdExpiry n) s = execHoldExpiry n s := rfl
  have hcause : Cause.labelMiss.value = 0x20 := rfl
  have hany : (a.sends.any fun x => !x.acked && nsPassed s x.first (1000000 * field (listGetD ds 2 0) 47 32)) = true :=
    List.any_eq_true.2 ⟨x, (mem_of_send hsend).1, by rw [hacked, (nsPassed_iff ..).2 hpassed]; rfl⟩
  rw [hexec, execHoldExpiry, ha]
  simp only [hwindow, hpaged, hhold, hany, hcause, Bool.and_self, if_true]

end

/-! ### Grants (R406) -/

/-- The value at a key stays where a filter keeps it. -/
theorem Table.get_filter_of_keeps {α : Type} {n : Nat} {v : α} {keep : Nat × α → Bool} (hkeep : keep (n, v) = true) :
    ∀ {t : Table α}, Table.get t n = some v → Table.get (t.filter keep) n = some v
  | (k, w) :: rest, h => by
    unfold Table.get at h
    split at h
    · next hk =>
      cases h
      subst hk
      rw [List.filter_cons_of_pos hkeep, Table.get, if_pos rfl]
    · next hk =>
      have ih := Table.get_filter_of_keeps hkeep h
      by_cases hw : keep (k, w) = true
      · rw [List.filter_cons_of_pos hw, Table.get, if_neg hk]
        exact ih
      · rw [List.filter_cons_of_neg hw]
        exact ih

section
variable {s : State} {c entry n : Nat}

theorem core_modAllow_self (s : State) (c e : Nat) (f : Allowance → Allowance) :
    core (modAllow s c e f) c = { core s c with allow := Table.put (core s c).allow e (f (allowAt (core s c) e)) } := core_putCore_self ..

/-- An entry of which a unit is still out stays when the entries of its core are released (R400). -/
theorem allowAt_releaseEntries {a : Allowance} (hentry : Table.get (core s c).allow entry = some a) (hsent : 0 < a.sent) :
    allowAt (core (releaseEntries s c) c) entry = a := by
  have hcore : (core (releaseEntries s c) c).allow = (core s c).allow.filter fun p =>
      p.1 == 31 || decide (0 < p.2.sent) || p.2.waiters != [] || needsEntry s c p.2.world p.2.pkg := congrArg Core.allow (core_putCore_self ..)
  rw [allowAt, Table.getD, hcore, Table.get_filter_of_keeps (by simp [hsent]) hentry]
  rfl

/-- A unit of several comes back to an entry on which nobody waits (R406). -/
theorem grantUnit_raises (hnobody : (allowAt (core s c) entry).waiters = []) (hsent : 1 < (allowAt (core s c) entry).sent) :
    allowAt (core (grantUnit s c entry) c) entry =
      { allowAt (core s c) entry with alw := (allowAt (core s c) entry).alw + 1, sent := (allowAt (core s c) entry).sent - 1 } := by
  have hgrant : Allowance.grant s.regs.icred (allowAt (core s c) entry) =
      { allowAt (core s c) entry with alw := (allowAt (core s c) entry).alw + 1, sent := (allowAt (core s c) entry).sent - 1 } := by
    rw [Allowance.grant, if_neg (by omega), Allowance.settle]
    exact if_neg fun h => by have := h.1; dsimp only at this; omega
  have hget : Table.get (core (modAllow s c entry (Allowance.grant s.regs.icred)) c).allow entry =
      some { allowAt (core s c) entry with alw := (allowAt (core s c) entry).alw + 1, sent := (allowAt (core s c) entry).sent - 1 } := by
    rw [core_modAllow_self, hgrant]
    exact Table.get_put_self ..
  have hserve : serve (modAllow s c entry (Allowance.grant s.regs.icred)) c entry = modAllow s c entry (Allowance.grant s.regs.icred) := by
    refine serve_of_nobody ?_
    rw [allowAt, Table.getD, hget]
    exact hnobody
  rw [grantUnit, hserve]
  exact allowAt_releaseEntries hget (by dsimp only; omega)

/-- A grant of an access that has ended, and of no marker. -/
theorem grant_grants (haccess : accessOf s n = none) (hmarker : ∀ m ∈ s.markers, m.access ≠ n) :
    exec (.grant c entry n) s = .next (grantUnit s c entry) := by
  have hexec : exec (.grant c entry n) s = execGrant c entry n s := rfl
  have hdrop : dropMarker s n = s := if_neg (by simpa using hmarker)
  have hmod (f : Access → Access) : modAccess s n f = s := by
    have hmap : (s.inflight.map fun a => if a.n == n then f a else a) = s.inflight :=
      (List.map_congr_left fun a ha => if_neg (List.find?_eq_none.1 haccess a ha)).trans (List.map_id' _)
    rw [modAccess, hmap]
  rw [hexec, execGrant, hdrop, hmod]

end

/-! ### Links (R390, R391) -/

section
variable {s : State} {plane : Nat}

theorem flitAuthFailure_counts (hplane : plane < 16) (hcount : (linkAt s (plane + 16)).authFail ≠ 0xFFFFFFFF) :
    ∃ t, exec (.flitAuthFailure plane false) s = .next t ∧
      linkAt t (plane + 16) = { linkAt s (plane + 16) with authFail := (linkAt s (plane + 16)).authFail + 1 } ∧ t.saltin = s.saltin := by
  refine ⟨modLink s (plane + 16) fun l => { l with authFail := if l.authFail = 0xFFFFFFFF then l.authFail else l.authFail + 1 },
    congrArg Host.Outcome.next (if_neg (by omega)), ?_, rfl⟩
  rw [linkAt_modLink, if_pos rfl, if_neg hcount]

theorem linkKeyExhausted_acts {recv : Bool} (hplane : plane < 16) (hopen : (linkAt s (linkKey plane recv)).exh = false)
    (hlast : recv = true ∨ 2 ^ 64 - 2 ≤ (linkAt s (linkKey plane recv)).ctr.toNat) : exec (.linkKeyExhausted plane recv) s = .next (
      if (linkAt s (linkKey plane recv)).nextKey then modLink s (linkKey plane recv) LinkStatus.switch
      else
        let t := modLink s (linkKey plane recv) fun l => { l with exh := true, ctr := BitVec.ofNat 64 lastFlit }
        { t with waiting := t.waiting ++ [⟨.owner, exhaustedRecord t plane recv, .nobody, false⟩] }) := by
  have hexec : exec (.linkKeyExhausted plane recv) s = execLinkKeyExhausted plane recv s := rfl
  rw [hexec, execLinkKeyExhausted]
  refine congrArg Host.Outcome.next (if_neg ?_)
  rw [hopen]
  rintro (h | h | ⟨h, hctr⟩)
  · omega
  · cases h
  · rcases hlast with hrecv | hlast
    · rw [hrecv] at h
      cases h
    · rw [lastFlit] at hctr
      omega

theorem exhaustedRecord_names (s : State) {plane : Nat} (hplane : plane < 16) (recv : Bool) :
    (listGetD (exhaustedRecord s plane recv) 0 0).toNat / 2 ^ 52 = 0x296 ∧
      (listGetD (exhaustedRecord s plane recv) 3 0).toNat = linkKey plane recv := by
  have hword : listGetD (exhaustedRecord s plane recv) 3 0 = BitVec.ofNat 64 (plane % 16 + bitAt recv 4) := rfl
  have hfirst : listGetD (exhaustedRecord s plane recv) 0 0 =
    BitVec.ofNat 64 (Cause.linkKeyExhausted.value.toNat * 2 ^ 56 + 6 * 2 ^ 52 + 3 * 2 ^ 50) := rfl
  have hbit : bitAt recv 4 ≤ 16 := by cases recv <;> decide
  refine ⟨by rw [hfirst]; rfl, ?_⟩
  rw [hword, BitVec.toNat_ofNat, Nat.mod_eq_of_lt hplane, linkKey]
  omega

end

/-- Settles O57: packets at their target, what comes back to the source, windows, grants and links. -/
theorem fabricEvents : Obligations.FabricEvents := by
  refine ⟨fun s p => ⟨packetArrival_passes, fun htarget hkind hnew => ⟨fun hinc => ?_, fun hinc => ?_⟩⟩,
    fun s p path pa key cache rem hfree hwalk hdest hpart hsize hserves => ⟨fun hkind => ?_, fun hkind => ?_⟩,
    fun s n a ha hsent => ⟨fun hkind hplace hnobody hlate hheld part x hsend => ?_, (refusal_acts ha hsent).1,
      fun hkind tm sl hslice => ?_, ?_, fun ds part x hwindow hsend hacked => ?_⟩,
    fun s c entry n hnobody haccess hmarker _ _ hsent => ?_, fun s plane recv hplane => ?_⟩
  · exact (packetArrival_orders htarget hkind).trans (congrArg Host.Outcome.next (arriveOrdered_of_stale hnew hinc))
  · exact (packetArrival_orders htarget hkind).trans (congrArg Host.Outcome.next (arriveOrdered_of_incarnate hnew hinc))
  · obtain ⟨t, hdone, hmem, houtbox⟩ := arriveMain_stores (key := key) hkind hserves
    have hcopies := onlyCopies_keepCopies s 0 path.copies
    obtain ⟨k, g, hout, hk, hktarget, hkaccess, -, hg⟩ := answer_answers (modEnded t p (Ended.add false [p.ordinal])) p .ack []
    have htaken := takePacket_of_done (.inl hkind) hfree hwalk ((congrArg _ hdest).trans ((arriveAt_main hpart hsize).trans hdone))
    rw [finishPacket, hkind] at htaken
    refine ⟨_, k, g, htaken, hmem.trans ((sameKeyed_keepCopies ..).writeKeyed ..), ?_, hk, hktarget, hkaccess, hg⟩
    rw [hout, ← hcopies.outbox, ← houtbox]
    rfl
  · obtain ⟨t, hdone, hmem, houtbox⟩ := arriveMain_loads (key := key) hkind hserves
    have hcopies := onlyCopies_keepCopies s 0 path.copies
    obtain ⟨k, g, hout, hk, hktarget, hkaccess, hkbytes, hg⟩ :=
      answer_answers t p .reply (readKeyed (keepCopies s 0 path.copies) key pa p.size)
    have htaken := takePacket_of_done (.inr hkind) hfree hwalk ((congrArg _ hdest).trans ((arriveAt_main hpart hsize).trans hdone))
    rw [finishPacket, hkind] at htaken
    refine ⟨_, k, g, htaken, hmem.trans hcopies.mem, ?_, hk, hktarget, hkaccess, hkbytes.trans ((sameKeyed_keepCopies ..).readKeyed ..), hg⟩
    rw [hout, houtbox, hcopies.outbox]
  · obtain ⟨hinflight, hfabOut, hmem, hhost, -, houtstanding⟩ := countIn_counts (dropAccess s n) a
    refine ⟨_, acknowledgement_ends ha hkind hplace hnobody hlate hheld hsend, ?_, hfabOut, houtstanding, hmem, hhost⟩
    rw [accessOf, hinflight]
    exact accessOf_dropAccess_self s n
  · exact (refusal_acts ha hsent).2.1.trans (congrArg Host.Outcome.next (blockAccess_of_store hkind hslice))
  · exact (refusal_acts ha hsent).2.2.trans (congrArg Host.Outcome.next (modAccess_eq ..))
  · intro ns tries
    have hagain := scaleOutResend_of_unacked ha hwindow hsend hacked
    refine ⟨fun hearly => ?_, fun hpassed hleft => ?_, fun hpassed hover hasked => ?_, fun hpassed hover hasked => ?_,
      holdExpiry_ends ha hwindow hsend hacked⟩
    · exact hagain.trans (congrArg Host.Outcome.next (if_neg (Nat.not_le.2 hearly)))
    · obtain ⟨a', y, pk, hresends⟩ := resendPart_resends ha (place_of_windowOf hwindow) hsend
      exact ⟨_, a', y, pk, hagain.trans (congrArg Host.Outcome.next ((if_pos hpassed).trans (if_pos hleft))), hresends⟩
    · exact hagain.trans (congrArg Host.Outcome.next ((if_pos hpassed).trans ((if_neg (Nat.not_lt.2 hover)).trans (if_pos hasked))))
    · refine hagain.trans (congrArg Host.Outcome.next ((if_pos hpassed).trans ((if_neg (Nat.not_lt.2 hover)).trans (if_neg ?_))))
      rw [hasked]
      exact Bool.noConfusion
  · refine ⟨_, grant_grants haccess hmarker, ?_⟩
    rw [grantUnit_raises hnobody hsent]
    exact ⟨rfl, rfl⟩
  · intro k
    have hk : k = linkKey plane recv := by cases recv <;> rfl
    refine ⟨flitAuthFailure_counts hplane, fun hopen hlast hnext => ?_, fun hopen hlast hnext => ?_⟩
    · have hacts := linkKeyExhausted_acts hplane (hk ▸ hopen) (hk ▸ hlast)
      rw [← hk, if_pos hnext] at hacts
      exact ⟨_, hacts, (linkAt_modLink ..).trans (if_pos rfl), rfl⟩
    · have hacts := linkKeyExhausted_acts hplane (hk ▸ hopen) (hk ▸ hlast)
      rw [← hk, if_neg (by rw [hnext]; exact Bool.noConfusion)] at hacts
      have hlink := (linkAt_modLink s k (fun l => { l with exh := true, ctr := BitVec.ofNat 64 lastFlit }) k).trans (if_pos rfl)
      obtain ⟨hcause, hkey⟩ := exhaustedRecord_names
        (modLink s k fun l => { l with exh := true, ctr := BitVec.ofNat 64 lastFlit }) hplane recv
      exact ⟨_, _, hacts, hlink, rfl, rfl, hcause, hkey.trans hk.symm⟩

end Sys2Proof.Machine
end
